-- ==== Sys2Proof/Word.lean ====
section
/-! DEFINITION. The word types of the machine and the finite tables its state is made of. -/

namespace Sys2Proof

/-- A 64-bit general register value (R26). -/
abbrev Word := BitVec 64

/-- A byte of memory. -/
abbrev Byte := BitVec 8

/-- A finite table: the entries listed, by key; an unlisted key holds the default its reader names. -/
abbrev Table (α : Type) := List (Nat × α)

/-- The entry at key `k`, or `d` where none is listed. -/
def Table.get {α : Type} (d : α) (k : Nat) : Table α → α
  | [] => d
  | (j, v) :: t => if j = k then v else Table.get d k t

/-- The table with `v` at key `k`, its keys in the order in which they were first written. -/
def Table.set {α : Type} (k : Nat) (v : α) : Table α → Table α
  | [] => [(k, v)]
  | (j, w) :: t => if j = k then (j, v) :: t else (j, w) :: Table.set k v t

theorem Table.get_set_same {α : Type} (d : α) (k : Nat) (v : α) (t : Table α) :
    Table.get d k (Table.set k v t) = v := by
  induction t with
  | nil => simp [Table.set, Table.get]
  | cons h t ih =>
    obtain ⟨j, w⟩ := h
    by_cases hj : j = k <;> simp [Table.set, Table.get, hj, ih]

theorem Table.get_set_other {α : Type} (d : α) {k l : Nat} (h : l ≠ k) (v : α) (t : Table α) :
    Table.get d l (Table.set k v t) = Table.get d l t := by
  induction t with
  | nil => simp [Table.set, Table.get, h.symm]
  | cons x t ih =>
    obtain ⟨j, w⟩ := x
    by_cases hj : j = k
    · subst hj; simp [Table.set, Table.get, h.symm]
    · simp only [Table.set, if_neg hj, Table.get]
      split
      · rfl
      · exact ih

end Sys2Proof
end

