-- ==== Sys2Proof/Syntax.lean ====
section
/-! DEFINITION. The instructions and steps of the machine: one constructor of `Instr` per row of spec/opcode_table.json. -/

namespace Sys2Proof

/-- A guard field of an A-class word: NEG (bit 23) and G (bits 22:19) (R167). -/
structure Guard where
  neg : BitVec 1
  p : BitVec 4
deriving DecidableEq, Repr

/-- Fields of format CM (R168): register D, address register A, set slot SS, wait slot WS, IMM6. -/
structure Mem where
  d : BitVec 6
  a : BitVec 6
  s : BitVec 3
  w : BitVec 3
  i : BitVec 6
deriving DecidableEq, Repr

/-- Fields of `ldv` and `stv` (R168, R227): vector register, address register, set slot, wait slot, IMM6. -/
structure VMem where
  v : BitVec 4
  a : BitVec 6
  s : BitVec 3
  w : BitVec 3
  i : BitVec 6
deriving DecidableEq, Repr

/-- Fields of `vldx` and `vstx` (R295): VD, base register, index group, type, set slot, wait slot. -/
structure VIdx where
  v : BitVec 4
  a : BitVec 6
  i : BitVec 4
  t : BitVec 4
  s : BitVec 3
  w : BitVec 3
deriving DecidableEq, Repr

/-- Fields of the atomics (R228): three short register fields and the scope. -/
structure Atom where
  d : BitVec 5
  a : BitVec 5
  b : BitVec 5
  s : BitVec 4
deriving DecidableEq, Repr

/-- Four register fields (R242). -/
structure Rrrr where
  d : BitVec 6
  a : BitVec 6
  b : BitVec 6
  c : BitVec 6
deriving DecidableEq, Repr

/-- Register fields D, A and B (R168, R169). -/
structure Rrr where
  d : BitVec 6
  a : BitVec 6
  b : BitVec 6
deriving DecidableEq, Repr

/-- The tail of format CE (R168, R300): wait slot WS, thread semaphore TS, NS. -/
structure Tail where
  w : BitVec 3
  t : BitVec 2
  n : BitVec 1
deriving DecidableEq, Repr

/-- Fields TY, VD, VA and VB of format AV (R169). -/
structure Vvv where
  t : BitVec 4
  d : BitVec 4
  a : BitVec 4
  b : BitVec 4
deriving DecidableEq, Repr

/-- Fields TY, VD, VA and S of format AVS (R169). -/
structure Vvs where
  t : BitVec 4
  d : BitVec 4
  a : BitVec 4
  s : BitVec 6
deriving DecidableEq, Repr

/-- Fields of predicate logic (R196): PD, NA, PA, NB, PB. -/
structure Pp where
  d : BitVec 4
  e : BitVec 1
  a : BitVec 4
  f : BitVec 1
  b : BitVec 4
deriving DecidableEq, Repr

/-- One row of the opcode table each. The rows with a match word are instructions (R172, R173); their constructors
carry every field of the word but L, which belongs to the bundle's framing (R161), A-class ones their guard first.
The other rows are steps of the hardware, the firmware, the host and other devices; which thing such a step is about,
and what it brings from outside the model, stands in the state (`State.arg`). -/
inductive Instr where
  /-- nop (R203): Issues and has no other effect. -/
  | nop
  /-- br (R204): Branches PC-relative when its predicate, optionally negated, is 1. -/
  | br (n : BitVec 1) (p : BitVec 4) (o : BitVec 19)
  /-- jmp (R205): Jumps PC-relative by a 24-bit offset. -/
  | jmp (o : BitVec 24)
  /-- jmpr (R205): Jumps to the address held in a register. -/
  | jmpr (a : BitVec 6)
  /-- call (R207): Checks window room, pushes a window, zeroes k4-k7 and jumps PC-relative. -/
  | call (o : BitVec 24)
  /-- callr (R207): As call, with the target taken from a register. -/
  | callr (a : BitVec 6)
  /-- ret (R209): Pops the top window, restores k4-k7, sp and predicates, releases storage and returns. -/
  | ret
  /-- frame (R211): Moves sp by a signed count, checking it against the frame area. -/
  | frame (imm : BitVec 18)
  /-- trap (R212): Raises TRAP with a 12-bit code. -/
  | trap (c : BitVec 12)
  /-- sleep (R213): Parks the thread until the s-cycle counter reaches an absolute target. -/
  | sleep (a : BitVec 6)
  /-- sleep.rel (R213): Parks the thread until the counter reaches its value at issue plus a count. -/
  | sleepRel (a : BitVec 6)
  /-- yield (R214): Leaves the thread ready with its ageing state reset. -/
  | yield
  /-- movi (R192): Writes a sign-extended 18-bit immediate. -/
  | movi (d : BitVec 6) (imm : BitVec 18)
  /-- movhi (R192): Shifts the destination left by 18 and ORs in an 18-bit immediate. -/
  | movhi (d : BitVec 6) (imm : BitVec 18)
  /-- ld.1 (R225): Loads one byte, zero-extended. -/
  | ld1 (f : Mem)
  /-- ld.2 (R225): Loads two bytes, zero-extended. -/
  | ld2 (f : Mem)
  /-- ld.4 (R225): Loads four bytes, zero-extended. -/
  | ld4 (f : Mem)
  /-- ld.8 (R225): Loads eight bytes. -/
  | ld8 (f : Mem)
  /-- lds.1 (R225): Loads one byte, sign-extended. -/
  | lds1 (f : Mem)
  /-- lds.2 (R225): Loads two bytes, sign-extended. -/
  | lds2 (f : Mem)
  /-- lds.4 (R225): Loads four bytes, sign-extended. -/
  | lds4 (f : Mem)
  /-- st.1 (R226): Stores one byte, buffered or direct. -/
  | st1 (f : Mem)
  /-- st.2 (R226): Stores two bytes, buffered or direct. -/
  | st2 (f : Mem)
  /-- st.4 (R226): Stores four bytes, buffered or direct. -/
  | st4 (f : Mem)
  /-- st.8 (R226): Stores eight bytes, buffered or direct. -/
  | st8 (f : Mem)
  /-- ldv (R227): Loads one vector register, converting through a window or raw. -/
  | ldv (f : VMem)
  /-- stv (R227): Stores one vector register, converting through a window or raw. -/
  | stv (f : VMem)
  /-- vldx (R297): Gathers elements from the own scratchpad by an index group. -/
  | vldx (f : VIdx)
  /-- vstx (R298): Scatters elements to the own scratchpad by an index group. -/
  | vstx (f : VIdx)
  /-- aadd.4 (R228): Atomic wrapping add on 4 bytes, returning the old value. -/
  | aadd4 (f : Atom)
  /-- aadd.8 (R228): Atomic wrapping add on 8 bytes, returning the old value. -/
  | aadd8 (f : Atom)
  /-- afadd (R228): Atomic FP32 add rounded RNE, returning the old value. -/
  | afadd (f : Atom)
  /-- amin.s32 (R228): Atomic signed 32-bit minimum. -/
  | aminS32 (f : Atom)
  /-- amin.s64 (R228): Atomic signed 64-bit minimum. -/
  | aminS64 (f : Atom)
  /-- amin.u32 (R228): Atomic unsigned 32-bit minimum. -/
  | aminU32 (f : Atom)
  /-- amin.u64 (R228): Atomic unsigned 64-bit minimum. -/
  | aminU64 (f : Atom)
  /-- amin.f32 (R228): Atomic FP32 minimumNumber. -/
  | aminF32 (f : Atom)
  /-- amax.s32 (R228): Atomic signed 32-bit maximum. -/
  | amaxS32 (f : Atom)
  /-- amax.s64 (R228): Atomic signed 64-bit maximum. -/
  | amaxS64 (f : Atom)
  /-- amax.u32 (R228): Atomic unsigned 32-bit maximum. -/
  | amaxU32 (f : Atom)
  /-- amax.u64 (R228): Atomic unsigned 64-bit maximum. -/
  | amaxU64 (f : Atom)
  /-- amax.f32 (R228): Atomic FP32 maximumNumber. -/
  | amaxF32 (f : Atom)
  /-- aand (R228): Atomic bitwise AND on 8 bytes. -/
  | aand (f : Atom)
  /-- aor (R228): Atomic bitwise OR on 8 bytes. -/
  | aor (f : Atom)
  /-- axor (R228): Atomic bitwise XOR on 8 bytes. -/
  | axor (f : Atom)
  /-- aswap.4 (R228): Atomic swap of 4 bytes. -/
  | aswap4 (f : Atom)
  /-- aswap.8 (R228): Atomic swap of 8 bytes. -/
  | aswap8 (f : Atom)
  /-- acas (R228): Atomic 8-byte compare and swap against the D register. -/
  | acas (f : Atom)
  /-- fence (R119): Parks until every earlier access is performed at the named scope. -/
  | fence (r : BitVec 4) (sr : BitVec 4)
  /-- sbwait (R230): Holds the bundle until every scoreboard slot in the mask is 0. -/
  | sbwait (m : BitVec 8)
  /-- prefetch (R231): Asks the L1D to fill a leased global line; never traps. -/
  | prefetch (a : BitVec 6) (w : BitVec 3) (imm : BitVec 6)
  /-- touch (R232): Parks until a 64 KiB page is resident and adds it to the touched set. -/
  | touch (a : BitVec 6) (w : BitVec 3) (imm : BitVec 6)
  /-- ldfe (R234): Waits for a base-camp word to be full, reads it and marks it empty. -/
  | ldfe (f : Mem)
  /-- stfe (R234): Waits for a base-camp word to be empty, writes it and marks it full. -/
  | stfe (f : Mem)
  /-- tbeg (R237): Ends the open task as tend does, then opens a free or timed task with a snapshot. -/
  | tbeg (a : BitVec 6) (k : BitVec 2)
  /-- tend (R238): Commits the open task and opens an implicit free task. -/
  | tend
  /-- tabort (R239): Ends the open task without commit and opens an implicit free task. -/
  | tabort
  /-- tserial (R240): Makes the open task head-serialised. -/
  | tserial
  /-- tstamp (R241): Sets the open timed task's timestamp. -/
  | tstamp (a : BitVec 6)
  /-- spawn (R243): Places a new thread on the same core. -/
  | spawn (f : Rrrr)
  /-- spawnc (R243): Places a new thread on another core of the device. -/
  | spawnc (f : Rrrr)
  /-- spawnx (R243): Asks another device to place a new thread. -/
  | spawnx (f : Rrrr)
  /-- join (R246): Parks until the thread in a named home slot retires. -/
  | join (a : BitVec 6)
  /-- exit (R247): Ends the open task and retires the thread. -/
  | exit
  /-- prio (R248): Sets the thread's base priority. -/
  | prio (a : BitVec 6)
  /-- migr (R249): Moves the thread to the core that owns an address. -/
  | migr (a : BitVec 6)
  /-- kpt (R250): Kill point: takes a pending POINT kill notice. -/
  | kpt
  /-- sinc (R251): Adds to a core or thread semaphore, saturating. -/
  | sinc (a : BitVec 6) (n : BitVec 6) (k : BitVec 1)
  /-- swait (R251): Parks until a semaphore reaches n, then subtracts n. -/
  | swait (a : BitVec 6) (n : BitVec 6) (k : BitVec 1)
  /-- sget (R251): Reads a semaphore. -/
  | sget (d : BitVec 6) (n : BitVec 6) (k : BitVec 1)
  /-- sset (R251): Writes a semaphore; waiters re-test. -/
  | sset (a : BitVec 6) (n : BitVec 6) (k : BitVec 1)
  /-- smwait (R252): Waits on a mask of core semaphores and takes 1 from the lowest non-zero. -/
  | smwait (d : BitVec 6) (a : BitVec 6)
  /-- bar (R253): Arrives at a barrier and parks until release. -/
  | bar (r : BitVec 4)
  /-- barq (R253): Arrives at a barrier without parking, returning the coming GEN. -/
  | barq (d : BitVec 6) (r : BitVec 4)
  /-- barq.wait (R253): Parks until the thread's outstanding split arrival is released. -/
  | barqWait (r : BitVec 4)
  /-- rparm (R256): Arms a rope from an arm block and zeroes its target. -/
  | rparm (a : BitVec 6) (b : BitVec 6)
  /-- rpjoin (R257): Enters the thread as a rope member with weight and kill handler. -/
  | rpjoin (h : BitVec 6) (a : BitVec 6) (b : BitVec 6)
  /-- rparr (R258): Contributes a member's data to a rope as pending bank entries. -/
  | rparr (d : BitVec 6) (a : BitVec 6)
  /-- rpwait (R261): Parks until the rope is RELEASED or IDLE. -/
  | rpwait (a : BitVec 6)
  /-- rpstat (R261): Pushes RPSTAT, RPWSUM and RPROUND as one consistent set. -/
  | rpstat (a : BitVec 6)
  /-- rpleave (R261): Ends the thread's rope membership and tests for a short release. -/
  | rpleave
  /-- flsub (R266): Subscribes to a fixed line in EACH or BATCH mode with an initial copy. -/
  | flsub (f : Rrr) (m : BitVec 1)
  /-- flend (R267): Waits for outstanding updates and frees both fixed-line entries. -/
  | flend (a : BitVec 6)
  /-- flsync (R130): Parks until the applied sequence reaches the source's at request. -/
  | flsync (a : BitVec 6)
  /-- flstat (R267): Returns the status of a subscriber entry. -/
  | flstat (d : BitVec 6) (a : BitVec 6)
  /-- flstat.clr (R267): Returns the status of a subscriber entry and clears REFRESHED. -/
  | flstatClr (d : BitVec 6) (a : BitVec 6)
  /-- send (R269): Sends a 64-bit payload to a queue register of a named thread. -/
  | send (f : Rrr) (q : BitVec 3)
  /-- acqr (R270): Acquires the ownership token of a 2 MiB region. -/
  | acqr (a : BitVec 6)
  /-- relr (R270): Returns the ownership token of a region to its home. -/
  | relr (a : BitVec 6)
  /-- ksend (R331): Sends key-value pairs through the key map to receiving cores. -/
  | ksend (x : BitVec 6) (y : BitVec 6) (e : BitVec 1) (c : BitVec 3) (q : Tail)
  /-- kflush (R333): Sends every partial coalescing buffer and completes when they are applied. -/
  | kflush (q : Tail)
  /-- kbins (R330): Gives the core its bin set for keyed accumulation. -/
  | kbins (x : BitVec 6) (y : BitVec 6) (q : Tail)
  /-- kbins.map (R329): Writes one entry of the context's key map on every core. -/
  | kbinsMap (x : BitVec 6) (y : BitVec 6) (q : Tail)
  /-- kbins.stat (R334): Writes the keyed-traffic counts record. -/
  | kbinsStat (x : BitVec 6) (q : Tail)
  /-- tld (R309): Loads a tile from the own scratchpad with its scales. -/
  | tld (x : BitVec 6) (y : BitVec 6) (k : BitVec 4) (q : Tail)
  /-- tst (R310): Stores a tile to the own scratchpad. -/
  | tst (x : BitVec 6) (y : BitVec 6) (k : BitVec 4) (q : Tail)
  /-- tzero (R311): Writes a tile as zero with a given shape. -/
  | tzero (x : BitVec 6) (k : BitVec 4) (q : Tail)
  /-- accz (R311): Zeroes an accumulator and clears its type. -/
  | accz (c : BitVec 2) (q : Tail)
  /-- mma (R313): Accumulates A times B-transpose tile products into an accumulator. -/
  | mma (x : BitVec 6) (c : BitVec 2) (q : Tail)
  /-- mmat (R313): Accumulates A times B tile products into an accumulator. -/
  | mmat (x : BitVec 6) (c : BitVec 2) (q : Tail)
  /-- mvs (R316): Streams weights from HBM past a resident batch into accumulators. -/
  | mvs (x : BitVec 6) (y : BitVec 6) (e : BitVec 1) (g : BitVec 3) (c : BitVec 2) (q : Tail)
  /-- epi (R318): Scales, biases, activates and converts accumulator rows and stores them through a window. -/
  | epi (x : BitVec 6) (y : BitVec 6) (e : BitVec 1) (g : BitVec 3) (c : BitVec 2) (q : Tail)
  /-- cpy (R322): Copies rows between memories, optionally accumulating into base-camp lines. -/
  | cpy (x : BitVec 6) (y : BitVec 6) (e : BitVec 1) (g : BitVec 3) (q : Tail)
  /-- cpyp (R323): Copies as cpy and pushes a completion promise. -/
  | cpyp (x : BitVec 6) (y : BitVec 6) (e : BitVec 1) (g : BitVec 3) (q : Tail)
  /-- cpyf (R325): Faultable one-row copy that hands back at a non-resident page. -/
  | cpyf (x : BitVec 6) (y : BitVec 6) (e : BitVec 1) (g : BitVec 3) (q : Tail)
  /-- put (R327): Sends local bytes to another device's memory. -/
  | put (x : BitVec 6) (y : BitVec 6) (q : Tail)
  /-- get (R327): Fetches bytes from another device into the own scratchpad. -/
  | get (x : BitVec 6) (y : BitVec 6) (q : Tail)
  /-- mvc (R215): Reads a control register. -/
  | mvc (d : BitVec 6) (c : BitVec 16)
  /-- mtc (R215): Writes a control register. -/
  | mtc (d : BitVec 6) (c : BitVec 16)
  /-- rte (R216): Returns from a trap handler, restoring from the trap window. -/
  | rte
  /-- sysc (R217): Sends a service request to the primary scheduler and parks. -/
  | sysc (c : BitVec 12)
  /-- bkpt (R218): Raises BKPT and may fire the cross-trigger. -/
  | bkpt (c : BitVec 12)
  /-- halt (R219): Parks a firmware thread until its core's wake. -/
  | halt
  /-- csave (R220): Writes the context image of a core's launch context. -/
  | csave (f : Rrr)
  /-- crest (R220): Places a context image back and returns a status. -/
  | crest (f : Rrr)
  /-- tlbinv (R221): Shoots down a range of the own context's translations. -/
  | tlbinv (a : BitVec 6) (b : BitVec 6)
  /-- tlbinv.ctx (R221): Shoots down a range of a named context's translations. -/
  | tlbinvCtx (a : BitVec 6) (b : BitVec 6)
  /-- anop (R173): A-class no-op that carries a guard. -/
  | anop (g : Guard)
  /-- add (R189): Integer add, or 32-bit add with .w. -/
  | add (g : Guard) (f : Rrr) (x : BitVec 1)
  /-- sub (R189): Integer subtract. -/
  | sub (g : Guard) (f : Rrr) (x : BitVec 1)
  /-- mul (R189): Integer multiply, low bits. -/
  | mul (g : Guard) (f : Rrr) (x : BitVec 1)
  /-- mulh (R189): High half of the 128-bit product. -/
  | mulh (g : Guard) (f : Rrr) (x : BitVec 1)
  /-- div (R190): Integer quotient towards zero, never trapping. -/
  | div (g : Guard) (f : Rrr) (x : BitVec 1)
  /-- rem (R190): Integer remainder, never trapping. -/
  | rem (g : Guard) (f : Rrr) (x : BitVec 1)
  /-- min (R189): Smaller of two values, signed or unsigned. -/
  | min (g : Guard) (f : Rrr) (x : BitVec 1)
  /-- max (R189): Larger of two values, signed or unsigned. -/
  | max (g : Guard) (f : Rrr) (x : BitVec 1)
  /-- and (R189): Bitwise AND. -/
  | and (g : Guard) (f : Rrr)
  /-- or (R189): Bitwise OR. -/
  | or (g : Guard) (f : Rrr)
  /-- xor (R189): Bitwise XOR. -/
  | xor (g : Guard) (f : Rrr)
  /-- andn (R189): Bitwise AND with the complement of b. -/
  | andn (g : Guard) (f : Rrr)
  /-- shl (R189): Logical shift left. -/
  | shl (g : Guard) (f : Rrr) (x : BitVec 1)
  /-- shr (R189): Logical shift right. -/
  | shr (g : Guard) (f : Rrr) (x : BitVec 1)
  /-- sar (R189): Arithmetic shift right. -/
  | sar (g : Guard) (f : Rrr) (x : BitVec 1)
  /-- lea (R189): Adds b shifted by 2 or 3 to a. -/
  | lea (g : Guard) (f : Rrr) (x : BitVec 1)
  /-- addi (R191): Adds a signed 7-bit immediate. -/
  | addi (g : Guard) (d : BitVec 6) (a : BitVec 6) (imm : BitVec 7)
  /-- andi (R191): ANDs a sign-extended immediate. -/
  | andi (g : Guard) (d : BitVec 6) (a : BitVec 6) (imm : BitVec 7)
  /-- ori (R191): ORs a sign-extended immediate. -/
  | ori (g : Guard) (d : BitVec 6) (a : BitVec 6) (imm : BitVec 7)
  /-- xori (R191): XORs a sign-extended immediate. -/
  | xori (g : Guard) (d : BitVec 6) (a : BitVec 6) (imm : BitVec 7)
  /-- shli (R191): Shifts left by an immediate. -/
  | shli (g : Guard) (d : BitVec 6) (a : BitVec 6) (imm : BitVec 6)
  /-- shri (R191): Shifts right logically by an immediate. -/
  | shri (g : Guard) (d : BitVec 6) (a : BitVec 6) (imm : BitVec 6)
  /-- sari (R191): Shifts right arithmetically by an immediate. -/
  | sari (g : Guard) (d : BitVec 6) (a : BitVec 6) (imm : BitVec 6)
  /-- bext (R193): Extracts a bitfield, zero- or sign-extended. -/
  | bext (g : Guard) (f : Rrr) (x : BitVec 1)
  /-- bins (R193): Inserts a bitfield into the destination. -/
  | bins (g : Guard) (f : Rrr)
  /-- clz (R194): Counts leading zero bits. -/
  | clz (g : Guard) (d : BitVec 6) (a : BitVec 6) (x : BitVec 1)
  /-- ctz (R194): Counts trailing zero bits. -/
  | ctz (g : Guard) (d : BitVec 6) (a : BitVec 6) (x : BitVec 1)
  /-- popc (R194): Counts one bits. -/
  | popc (g : Guard) (d : BitVec 6) (a : BitVec 6) (x : BitVec 1)
  /-- sel (R197): Pushes a or b by a predicate. -/
  | sel (g : Guard) (p : BitVec 4) (e : BitVec 1) (a : BitVec 6) (b : BitVec 6)
  /-- cmp (R195): Compares two registers into a predicate. -/
  | cmp (g : Guard) (p : BitVec 4) (a : BitVec 6) (b : BitVec 6) (c : BitVec 3)
  /-- cmpi (R195): Compares a register with a signed immediate into a predicate. -/
  | cmpi (g : Guard) (p : BitVec 4) (a : BitVec 6) (imm : BitVec 6) (c : BitVec 3)
  /-- pand (R196): Predicate AND with optional inversions. -/
  | pand (g : Guard) (f : Pp)
  /-- por (R196): Predicate OR with optional inversions. -/
  | por (g : Guard) (f : Pp)
  /-- pxor (R196): Predicate XOR with optional inversions. -/
  | pxor (g : Guard) (f : Pp)
  /-- pnot (R196): Predicate NOT. -/
  | pnot (g : Guard) (d : BitVec 4) (e : BitVec 1) (a : BitVec 4)
  /-- ppack (R198): Places the predicate word into a 16-bit lane of a register. -/
  | ppack (g : Guard) (d : BitVec 6) (a : BitVec 6) (j : BitVec 2)
  /-- punpack (R198): Loads the predicate word from a 16-bit lane of a register. -/
  | punpack (g : Guard) (a : BitVec 6) (j : BitVec 2)
  /-- fadd (R199): Scalar FP32 add. -/
  | fadd (g : Guard) (f : Rrr)
  /-- fsub (R199): Scalar FP32 subtract. -/
  | fsub (g : Guard) (f : Rrr)
  /-- fmul (R199): Scalar FP32 multiply. -/
  | fmul (g : Guard) (f : Rrr)
  /-- ffma (R199): Scalar fused FP32 multiply-add into the destination. -/
  | ffma (g : Guard) (f : Rrr)
  /-- fdiv (R199): Scalar FP32 divide. -/
  | fdiv (g : Guard) (f : Rrr)
  /-- fsqrt (R199): Scalar FP32 square root. -/
  | fsqrt (g : Guard) (d : BitVec 6) (a : BitVec 6)
  /-- fmin (R200): FP32 minimumNumber. -/
  | fmin (g : Guard) (f : Rrr)
  /-- fmax (R200): FP32 maximumNumber. -/
  | fmax (g : Guard) (f : Rrr)
  /-- fcmp (R201): Compares two FP32 values into a predicate. -/
  | fcmp (g : Guard) (p : BitVec 4) (a : BitVec 6) (b : BitVec 6) (c : BitVec 3)
  /-- fcvt (R202): Converts between scalar integer and floating formats. -/
  | fcvt (g : Guard) (d : BitVec 6) (a : BitVec 6) (k : BitVec 6) (x : BitVec 1)
  /-- vadd (R278): Element-wise vector add of two registers. -/
  | vadd (g : Guard) (f : Vvv) (v : BitVec 2)
  /-- vadd (R278): Element-wise vector add of a scalar. -/
  | vaddScalar (g : Guard) (f : Vvs)
  /-- vsub (R278): Element-wise vector subtract of two registers. -/
  | vsub (g : Guard) (f : Vvv) (v : BitVec 2)
  /-- vsub (R278): Element-wise vector subtract of a scalar. -/
  | vsubScalar (g : Guard) (f : Vvs)
  /-- vmul (R278): Element-wise vector multiply of two registers. -/
  | vmul (g : Guard) (f : Vvv) (v : BitVec 2)
  /-- vmul (R278): Element-wise vector multiply by a scalar. -/
  | vmulScalar (g : Guard) (f : Vvs)
  /-- vfma (R278): Fused vector multiply-add into VD or VC. -/
  | vfma (g : Guard) (f : Vvv) (v : BitVec 2)
  /-- vfma (R278): Fused vector multiply-add by a scalar. -/
  | vfmaScalar (g : Guard) (f : Vvs)
  /-- vmin (R279): Element-wise minimum. -/
  | vmin (g : Guard) (f : Vvv)
  /-- vmax (R279): Element-wise maximum. -/
  | vmax (g : Guard) (f : Vvv)
  /-- vand (R280): Element-wise bitwise AND. -/
  | vand (g : Guard) (f : Vvv)
  /-- vor (R280): Element-wise bitwise OR. -/
  | vor (g : Guard) (f : Vvv)
  /-- vxor (R280): Element-wise bitwise XOR. -/
  | vxor (g : Guard) (f : Vvv)
  /-- vnot (R280): Element-wise bitwise NOT. -/
  | vnot (g : Guard) (t : BitVec 4) (d : BitVec 4) (a : BitVec 4)
  /-- vshl (R281): Per-element left shift by vector counts. -/
  | vshl (g : Guard) (f : Vvv)
  /-- vshr (R281): Per-element logical right shift by vector counts. -/
  | vshr (g : Guard) (f : Vvv)
  /-- vsar (R281): Per-element arithmetic right shift by vector counts. -/
  | vsar (g : Guard) (f : Vvv)
  /-- vshl (R281): In-place left shift by a scalar count. -/
  | vshlScalar (g : Guard) (t : BitVec 4) (d : BitVec 4) (sr : BitVec 6)
  /-- vshr (R281): In-place logical right shift by a scalar count. -/
  | vshrScalar (g : Guard) (t : BitVec 4) (d : BitVec 4) (sr : BitVec 6)
  /-- vsar (R281): In-place arithmetic right shift by a scalar count. -/
  | vsarScalar (g : Guard) (t : BitVec 4) (d : BitVec 4) (sr : BitVec 6)
  /-- vcmp (R282): Element-wise compare into a mask register. -/
  | vcmp (g : Guard) (f : Vvv) (c : BitVec 3)
  /-- vsel (R283): Selects elements from two sources by a select register. -/
  | vsel (g : Guard) (f : Vvv) (m : BitVec 3)
  /-- vbcast (R284): Broadcasts a scalar to every active element. -/
  | vbcast (g : Guard) (t : BitVec 4) (d : BitVec 4) (sr : BitVec 6)
  /-- vins (R284): Inserts a scalar into one element. -/
  | vins (g : Guard) (t : BitVec 4) (d : BitVec 4) (sr : BitVec 6)
  /-- vext (R284): Pushes one element extended to 64 bits. -/
  | vext (g : Guard) (t : BitVec 4) (a : BitVec 4) (sr : BitVec 6)
  /-- vredsum (R286): Sum reduction into element 0 of a register. -/
  | vredsum (g : Guard) (f : Vvv)
  /-- vredmin (R286): Minimum reduction into element 0 of a register. -/
  | vredmin (g : Guard) (f : Vvv)
  /-- vredmax (R286): Maximum reduction into element 0 of a register. -/
  | vredmax (g : Guard) (f : Vvv)
  /-- vredsum (R286): Sum reduction pushed to the result queue. -/
  | vredsumScalar (g : Guard) (t : BitVec 4) (a : BitVec 4) (sr : BitVec 6)
  /-- vredmin (R286): Minimum reduction pushed to the result queue. -/
  | vredminScalar (g : Guard) (t : BitVec 4) (a : BitVec 4) (sr : BitVec 6)
  /-- vredmax (R286): Maximum reduction pushed to the result queue. -/
  | vredmaxScalar (g : Guard) (t : BitVec 4) (a : BitVec 4) (sr : BitVec 6)
  /-- vperm (R287): Gathers within a register by an index group. -/
  | vperm (g : Guard) (f : Vvv)
  /-- vslideup (R288): Slides elements up by a scalar count. -/
  | vslideup (g : Guard) (f : Vvs)
  /-- vslidedn (R288): Slides elements down by a scalar count. -/
  | vslidedn (g : Guard) (f : Vvs)
  /-- vcompress (R289): Packs selected elements to the front and pushes their count. -/
  | vcompress (g : Guard) (f : Vvv)
  /-- vexpand (R289): Spreads leading elements to selected positions. -/
  | vexpand (g : Guard) (f : Vvv)
  /-- vcvt (R290): Converts between types of equal width. -/
  | vcvt (g : Guard) (f : Vvv) (x : BitVec 1)
  /-- vwadd (R291): Widening add into a register pair. -/
  | vwadd (g : Guard) (f : Vvv)
  /-- vwmul (R291): Widening multiply into a register pair. -/
  | vwmul (g : Guard) (f : Vvv)
  /-- vwcvt (R291): Widening conversion into a register group. -/
  | vwcvt (g : Guard) (f : Vvv)
  /-- vnadd (R292): Narrowing add from register groups. -/
  | vnadd (g : Guard) (f : Vvv) (x : BitVec 1)
  /-- vncvt (R292): Narrowing conversion from a register group. -/
  | vncvt (g : Guard) (f : Vvv) (x : BitVec 1)
  /-- vbmax (R293): Largest magnitude of each block of 32 or 128 elements. -/
  | vbmax (g : Guard) (t : BitVec 4) (d : BitVec 4) (a : BitVec 4) (b : BitVec 1)
  /-- vexp2 (R294): Element-wise 2 to the power x. -/
  | vexp2 (g : Guard) (t : BitVec 4) (d : BitVec 4) (a : BitVec 4)
  /-- vlog2 (R294): Element-wise base-2 logarithm. -/
  | vlog2 (g : Guard) (t : BitVec 4) (d : BitVec 4) (a : BitVec 4)
  /-- vrcp (R294): Element-wise reciprocal. -/
  | vrcp (g : Guard) (t : BitVec 4) (d : BitVec 4) (a : BitVec 4)
  /-- vrsqrt (R294): Element-wise reciprocal square root. -/
  | vrsqrt (g : Guard) (t : BitVec 4) (d : BitVec 4) (a : BitVec 4)
  /-- vsqrt (R294): Element-wise correctly rounded square root. -/
  | vsqrt (g : Guard) (t : BitVec 4) (d : BitVec 4) (a : BitVec 4)
  /-- vtanh (R294): Element-wise hyperbolic tangent. -/
  | vtanh (g : Guard) (t : BitVec 4) (d : BitVec 4) (a : BitVec 4)
  /-- vsigm (R294): Element-wise logistic sigmoid. -/
  | vsigm (g : Guard) (t : BitVec 4) (d : BitVec 4) (a : BitVec 4)
  /-- vmov (R285): Copies a whole vector register. -/
  | vmov (g : Guard) (d : BitVec 4) (a : BitVec 4)
  /-- vzero (R285): Writes a vector register as zero. -/
  | vzero (g : Guard) (d : BitVec 4)
  /-- vmov (R285): Writes a 64-bit scalar to bytes 0-7 of a vector register and zero to the rest. -/
  | vmovScalar (g : Guard) (d : BitVec 4) (sr : BitVec 6)
  /-- LOAD_DATA_RETURN (R30): A load's data arrives and fills its pending entry or register, or faults it. -/
  | loadDataReturn
  /-- STORE_ACK (R40): A store is acknowledged and its scoreboard count falls. -/
  | storeAck
  /-- LONG_RESULT_READY (R188): A slow scalar result fills its pending destination or reserved queue place. -/
  | longResultReady
  /-- VECTOR_RESULT_WRITE (R277): A vector instruction's result is written and its pending destination clears. -/
  | vectorResultWrite
  /-- DEFERRED_FAULT (R410): A cause arising after issue is taken at the thread's next bundle boundary. -/
  | deferredFault
  /-- TRAP_DELIVERY (R47): After pending entries fill, saves queue and trap window and starts at TVEC. -/
  | trapDelivery
  /-- THREAD_RETIREMENT (R247): After commits and engine commands end, the slot is freed and joiners released. -/
  | threadRetirement
  /-- TIMED_TASK_COMMIT (R115): A timed task that has become head of its instance commits. -/
  | timedTaskCommit
  /-- TASK_RESTART (R34): After pending entries complete, an aborted task restarts from its snapshot. -/
  | taskRestart
  /-- STRAGGLER_KILL (R259): A kill notice is taken at a bundle boundary; the thread restarts at its handler or exits. -/
  | stragglerKill
  /-- WINDOW_SPILL (R36): A window is spilled to its assigned storage in an idle issue slot. -/
  | windowSpill
  /-- WINDOW_REFILL (R209): A window is brought back to residency in an idle issue slot. -/
  | windowRefill
  /-- VWIN_WRITE (R44): A write of VWIN releases the window and requests a new grant. -/
  | vwinWrite
  /-- VWIN_GRANT (R44): A waiting window request is granted when registers free. -/
  | vwinGrant
  /-- SLEEP_WAKE (R213): The counter reaches a sleeping thread's target and it becomes ready. -/
  | sleepWake
  /-- AGEING_CREDIT (R338): A ready thread's accumulator reaches AGEQ and its credit rises. -/
  | ageingCredit
  /-- CAIRN_REFRESH (R69): Every 64 s-cycles the cluster refreshes the per-core load bytes. -/
  | cairnRefresh
  /-- REBALANCE (R349): After the refresh a core may send one migratable thread to a less loaded core. -/
  | rebalance
  /-- MIGRATION_ARRIVAL (R20): A thread context message arrives and takes a free slot at its target. -/
  | migrationArrival
  /-- REMOTE_SCRATCHPAD_ACCESS (R86): An access from another core is served at the target once no lock blocks it. -/
  | remoteScratchpadAccess
  /-- BANK_OPERATION (R91): A base-camp bank executes one arrived operation atomically. -/
  | bankOperation
  /-- FE_RETRY (R234): A request refused by a full waiting list is sent again after 256 s-cycles. -/
  | feRetry
  /-- TLB_WALK_COMPLETE (R97): A page-table walk finishes and fills the TLB, or reports a fault. -/
  | tlbWalkComplete
  /-- SHOOTDOWN_COMPLETE (R99): A shoot-down completes once accesses translated under removed entries complete. -/
  | shootdownComplete
  /-- PAGE_MIGRATION_LINE (R103): One line of a migrating page is copied to its new home. -/
  | pageMigrationLine
  /-- MESSAGE_ARRIVAL (R345): A send message reaches its core and enters the queue register, waits or is refused. -/
  | messageArrival
  /-- SEND_RETRY (R345): A refused message is sent again after 256 s-cycles. -/
  | sendRetry
  /-- SPAWN_ANSWER (R244): The target core answers a spawnc and fills the pending result. -/
  | spawnAnswer
  /-- SYSC_ANSWER (R217): The scheduler's answer writes k0 and k1 and readies the thread. -/
  | syscAnswer
  /-- ENGINE_COMMAND_BEGIN (R343): An engine begins a queued command, releasing its port entry and reading its trip count. -/
  | engineCommandBegin
  /-- ENGINE_STEP (R303): An engine performs one step of a running command. -/
  | engineStep
  /-- KEY_BUFFER_TIMEOUT (R331): A coalescing buffer is sent 256 a-cycles after its last pair. -/
  | keyBufferTimeout
  /-- KEYED_FLIT_ARRIVAL (R332): The receive-and-accumulate unit applies arriving pairs to bins. -/
  | keyedFlitArrival
  /-- BATCH_WINDOW_CLOSE (R128): A BATCH window expires and one update carries the line. -/
  | batchWindowClose
  /-- FL_UPDATE_APPLY (R347): An update from the in-queue is applied to the subscriber region. -/
  | flUpdateApply
  /-- BARRIER_ARRIVAL_HOP (R254): An arrival sweeping towards the corner reaches a core. -/
  | barrierArrivalHop
  /-- BARRIER_RELEASE (R254): A release reaches a core, which raises GEN and releases its members. -/
  | barrierRelease
  /-- ROPE_PENDING_WRITE (R258): Contribution entries waiting for room are written to a bank's pending pool. -/
  | ropePendingWrite
  /-- ROPE_BANK_ACK (R258): A bank acknowledges a member's pending entries. -/
  | ropeBankAck
  /-- ROPE_MERGE (R133): A bank merges a counted member's entries into its target lines. -/
  | ropeMerge
  /-- ROPE_RELEASE (R260): After merges, drops uncounted entries, treats stragglers, fills and releases waiters. -/
  | ropeRelease
  /-- CROSS_TRIGGER_ARRIVAL (R404): The cross-trigger reaches a core and stops its armed trace. -/
  | crossTriggerArrival
  /-- TEAM_ROLLBACK (R418): A recoverable fault stops the team, restores checkpoints and replays from the last barrier. -/
  | teamRollback
  /-- PATROL_SCRUB (R415): Scrubbing reads protected words, corrects them or marks them poisoned. -/
  | patrolScrub
  /-- KICK (R352): Sets a queue's TAIL and its pending-kick bit. -/
  | kick
  /-- GCLR (R361): Clears a context's guilt count and bar. -/
  | gclr
  /-- QCFG_WRITE (R351): Configures a queue; clearing EN withdraws unstarted packets, setting it restarts the queue. -/
  | qcfgWrite
  /-- LAUNCH (R357): The scheduler reads a LAUNCH packet and checks it. -/
  | launch
  /-- LAUNCH_PLACE (R358): A waiting launch is placed once cores, leases and energy allow. -/
  | launchPlace
  /-- MBXWAIT (R362): Waits for a mailbox word to be full, optionally empties it and returns its value. -/
  | mbxwait
  /-- MBXPUT (R362): Waits for a mailbox word to be empty and fills it. -/
  | mbxput
  /-- SIGNAL (R357): Writes a value to a host address. -/
  | signal
  /-- TIMED (R363): Holds its queue until DTIME reaches a target. -/
  | timed
  /-- TIMED_EXPIRY (R363): At a microsecond check a held TIMED packet's target is reached and it completes. -/
  | timedExpiry
  /-- FENCE_PACKET (R357): Completes when earlier packets complete and are performed at its scope. -/
  | fencePacket
  /-- CANCEL (R357): Cancels a launch, graph, phase or job of the queue's context. -/
  | cancel
  /-- NOP_PACKET (R357): Completes at once. -/
  | nopPacket
  /-- ENERGY_SAMPLE (R405): Each microsecond the supply sample is added to counters and taken from EREM. -/
  | energySample
  /-- ENERGY_WINDOW_BOUNDARY (R364): EREM is reloaded from BUD and held launches are released in order. -/
  | energyWindowBoundary
  /-- DRAIN_END (R365): The drain condition holds and the save rung begins. -/
  | drainEnd
  /-- T1LIM_EXPIRY (R365): The drain limit passes and the save rung begins. -/
  | t1limExpiry
  /-- SAVE_COMPLETE (R421): The context image is complete and the pre-emption ends. -/
  | saveComplete
  /-- T2LIM_EXPIRY (R366): The save limit passes; the context is reset and its launches cancelled. -/
  | t2limExpiry
  /-- TAKEOVER (R368): The belayer wakes on FW_IMEM, replays the journal and becomes primary. -/
  | takeover
  /-- LOG (R370): sysc service that appends a record to the context's log ring. -/
  | log
  /-- SYSC_MBXPUT (R370): sysc service that writes a mailbox word if empty. -/
  | syscMbxput
  /-- MBXGET (R370): sysc service that reads and empties a mailbox word if full. -/
  | mbxget
  /-- SYSC_CANCEL (R370): sysc service that cancels a level of the context. -/
  | syscCancel
  /-- MQTAIL (R371): Sets a management request ring's producer index and kicks the channel. -/
  | mqtail
  /-- MRHEAD_WRITE (R371): The host advances the reply consumer index, freeing room for replies. -/
  | mrheadWrite
  /-- MCFG_WRITE (R371): Configures a management channel; clearing EN drops unread requests. -/
  | mcfgWrite
  /-- MSTAT_READ (R371): Reads and clears the count of dropped unasked records. -/
  | mstatRead
  /-- PREEMPT (R372): Management request that pre-empts launches of a host context. -/
  | preempt
  /-- RESUME (R372): Management request that places saved launches back. -/
  | resume
  /-- PTPOFF (R372): Management request carrying an IEEE 1588 offset for DTIME discipline. -/
  | ptpoff
  /-- ATTEST (R443): Management request that returns a signed attestation report. -/
  | attest
  /-- PUBKEY (R372): Management request that returns the identity public key. -/
  | pubkey
  /-- THERMCLR (R372): Management request that releases the thermal reset hold when within limits. -/
  | thermclr
  /-- CESUM (R372): Once per second of DTIME a corrected-error summary is sent if counts changed. -/
  | cesum
  /-- DTSTEP_WRITE (R71): Applies a signed DTIME correction against the remainder without going backwards. -/
  | dtstepWrite
  /-- PPS_EDGE (R395): A rising PPS edge captures DTIME and the s-cycle counter and counts. -/
  | ppsEdge
  /-- XTRIG_PULSE (R404): Writing PULSE fires the cross-trigger. -/
  | xtrigPulse
  /-- XTRIG_FIRED_CLEAR (R394): Writing 1 to FIRED clears it and re-arms the cross-trigger. -/
  | xtrigFiredClear
  /-- TRACE_START (R403): Writing STATE 1 starts the issue trace. -/
  | traceStart
  /-- TRACE_STOP (R403): Writing STATE 2 begins a stop and records TRIGCLK. -/
  | traceStop
  /-- TRACE_OFF (R403): Writing STATE 0 turns the trace off at once. -/
  | traceOff
  /-- TRACE_STOPPED (R403): Writing STATE 3 stops the trace at once. -/
  | traceStopped
  /-- TRACE_POST_END (R403): After POST further entries the trace enters STOPPED. -/
  | tracePostEnd
  /-- CAPTURE_RECORD (R402): At the end of each interval a capture record is written. -/
  | captureRecord
  /-- WEAR_COMPUTE (R406): Every 60 s the wear registers are computed. -/
  | wearCompute
  /-- WAKE (R375): Any write wakes a firmware thread of the core parked in halt. -/
  | wake
  /-- BG_WRITE (R67): Writes a barrier register, parking while a thread waits in bar on it. -/
  | bgWrite
  /-- REGISTER_WRITE (R54): A write to a register with no row of its own, with its checks. -/
  | registerWrite
  /-- RTCTL_INJ_WRITE (R137): Switches the bank stamped on injection, holding sends until old-bank packets deliver. -/
  | rtctlInjWrite
  /-- ROUTING_BANK_WRITE (R387): Writes a routing-table bank entry once that bank's occupancy is 0. -/
  | routingBankWrite
  /-- DEVICE_RESET (R441): Reset starts the security core's boot ROM in approach mode. -/
  | deviceReset
  /-- BOOTGO (R441): Starts the boot checks of the image and configuration table. -/
  | bootgo
  /-- BOOT_CHECKS_DONE (R441): The ROM finishes its checks and starts the firmware column or fails. -/
  | bootChecksDone
  /-- CALIBRATION_DONE (R445): A calibration or verification of approach mode completes. -/
  | calibrationDone
  /-- APPROACH_EXIT (R445): With all checks done and no context placed, the device leaves approach mode. -/
  | approachExit
  /-- INBOUND_WRITE (R433): A host posted write through a BAR is checked and performed. -/
  | inboundWrite
  /-- INBOUND_READ (R436): A host read completes after earlier posted writes are performed. -/
  | inboundRead
  /-- INBOUND_ATOMIC (R433): A host AtomicOp through an aperture is performed at its home. -/
  | inboundAtomic
  /-- HOST_COMPLETION (R435): A completion for a device read or AtomicOp to the host arrives. -/
  | hostCompletion
  /-- HOST_READ_TIMEOUT (R435): A host-window read not completed in 50 ms faults its entry with PROT. -/
  | hostReadTimeout
  /-- EVH_STORE (R438): A remote store packet arrives and is performed and acknowledged. -/
  | evhStore
  /-- EVH_GET_REQUEST (R327): A get request arrives, is checked and answered with data. -/
  | evhGetRequest
  /-- EVH_GET_DATA (R327): Get data arrives and is written to the own scratchpad. -/
  | evhGetData
  /-- EVH_MESSAGE (R269): A message packet arrives for a thread's queue register. -/
  | evhMessage
  /-- EVH_SPAWN (R439): A spawn request arrives and is placed or refused. -/
  | evhSpawn
  /-- EVH_SPAWN_REPLY (R439): A spawn reply arrives and fills the spawner's entry. -/
  | evhSpawnReply
  /-- EVH_KEYED_PAIRS (R332): Keyed pairs arrive from another device for bins. -/
  | evhKeyedPairs
  /-- EVH_ROPE_ARRIVAL (R258): A rope arrival from another device reaches the rope's banks. -/
  | evhRopeArrival
  /-- EVH_ROPE_RELEASE (R134): A rope release message releases a remote waiter. -/
  | evhRopeRelease
  /-- EVH_KILL_NOTICE (R259): A kill notice reaches a remote rope member. -/
  | evhKillNotice
  /-- EVH_ACKNOWLEDGEMENT (R137): An acknowledgement of a remote store or message arrives. -/
  | evhAcknowledgement
  /-- EVH_LOSS_NOTICE (R429): A loss notice arrives and ends operations towards the lost device. -/
  | evhLossNotice
  /-- EVH_TOKEN (R104): An ownership token and its region copy arrive. -/
  | evhToken
  /-- EVH_THREAD (R105): A migrating thread's context arrives from another device. -/
  | evhThread
  /-- DEVICE_LOST (R429): A device's links are silent for 100 µs and it is declared lost. -/
  | deviceLost
  /-- THERMAL_GATING_BEGIN (R447): A junction exceeds 110 °C and ordinary issue on the die is gated. -/
  | thermalGatingBegin
  /-- THERMAL_GATING_END (R447): The junction falls below 105 °C and gating lifts. -/
  | thermalGatingEnd
  /-- THERMAL_RESET_HOLD (R447): Above 120 °C or a bad input for 1 ms, launches are cancelled and the module held in reset. -/
  | thermalResetHold
  /-- MALFORMED_SLOT (R353): The scheduler takes a submission slot whose phase bit disagrees with HEAD or whose TYPE is unknown, raises guilt, skips it and posts status 2. -/
  | malformedSlot
  /-- S_CYCLE (R400): Each s-cycle the counter advances, ready threads age, and TLC, HIST and the trace entry are written whether or not any bundle issues. -/
  | sCycle
  /-- REFERENCE_PERIOD (R395): Each 10 ns period of the 100 MHz reference adds the trimmed increment to DTIME, withholding half while a remainder stands. -/
  | referencePeriod
  /-- PORT_TRAINED (R437): An Evhorn port finishes training and its PORTUP bit becomes 1. -/
  | portTrained
  /-- PORT_DOWN (R437): An Evhorn port loses training and its PORTUP bit becomes 0. -/
  | portDown
  /-- FLIT_CRC_FAILURE (R437): A received flit fails its CRC and the link repeats it. -/
  | flitCrcFailure
  /-- ROUTER_FORWARD (R387): A packet in transit reaches an intermediate router, which forwards it by its stamped bank, updates OCC, or discards it at PORT 7 and notifies the fabric manager. -/
  | routerForward
  /-- PAGE_RESIDENT (R102): The firmware has made a touched page resident, and the thread parked in touch becomes ready. -/
  | pageResident
deriving DecidableEq, Repr

end Sys2Proof
end

