-- ==== Sys2Proof/Decode.lean ====
section
/-! DEFINITION. From words to instructions and back: the opcode maps of R172 and R173, the operand limits that R163
checks at decode, the versions of R181, and the encoder written from the same field tables. -/

namespace Sys2Proof

/-! ### Vector types (R176, R272) -/

/-- Width in bits of vector type `t` (R272); 0 for a reserved code. -/
def vtyWidth (t : Nat) : Nat := [4, 4, 8, 8, 16, 16, 32, 32, 16, 16, 32].getD t 0

/-- Types 8 to 10 are floating (R272). -/
def vtyFloat (t : Nat) : Bool := 8 ≤ t && t ≤ 10

/-- I types are signed: I4, I8, I16, I32 (R275). -/
def vtySigned (t : Nat) : Bool := t == 0 || t == 2 || t == 4 || t == 6

/-- Registers of an index group of type `t` (R272). -/
def idxGroup (t : Nat) : Nat := if vtyWidth t = 4 then 4 else if vtyWidth t = 8 then 2 else 1

/-- The pairs of equal width that `vcvt` converts between (R290). -/
def vcvtPair (dst src : Nat) : Bool :=
  dst != src && ([6, 7, 10].contains dst && [6, 7, 10].contains src || [4, 5, 8, 9].contains dst && [4, 5, 8, 9].contains src ||
    [2, 3].contains dst && [2, 3].contains src || [0, 1].contains dst && [0, 1].contains src)

/-- Ratio of the wider width to the narrower, for types both allowed. -/
def vtyRatio (wide narrow : Nat) : Nat := if vtyWidth narrow = 0 then 0 else vtyWidth wide / vtyWidth narrow

/-- The wider type of `vwadd`, `vwmul` and `vnadd` for narrow type `t` (R291, R292). -/
def vtyWiden (t : Nat) : Option Nat :=
  if t = 8 ∨ t = 9 then some 10 else if t < 6 then some (t + 2) else none

/-! ### Operand limits found at decode (R163, R165, R166) -/

/-- Register numbers 0 to 38 may be sources (R165). -/
def srcOk (r : BitVec 6) : Bool := decide (r.toNat ≤ 38)

/-- Register numbers 0 and 16 to 37 may be destinations (R165). -/
def dstOk (r : BitVec 6) : Bool := decide (r.toNat = 0 ∨ 16 ≤ r.toNat ∧ r.toNat ≤ 37)

/-- Destinations of loads: 0, k0 to k7, `z` and sp (R225). -/
def ldDstOk (r : BitVec 6) : Bool := decide (r.toNat = 0 ∨ 16 ≤ r.toNat ∧ r.toNat ≤ 23 ∨ r.toNat = 36 ∨ r.toNat = 37)

/-- Destinations of spawns and `flsub`: 0, k0 to k7 and `z` (R242, R266). -/
def spDstOk (r : BitVec 6) : Bool := decide (r.toNat = 0 ∨ 16 ≤ r.toNat ∧ r.toNat ≤ 23 ∨ r.toNat = 36)

/-- Short register fields as sources: 0 to 25 (R228). -/
def shortSrcOk (r : BitVec 5) : Bool := decide (r.toNat ≤ 25)

/-- Short register fields as destinations: 0, 16 to 23 and 24 (R228). -/
def shortDstOk (r : BitVec 5) : Bool := decide (r.toNat = 0 ∨ 16 ≤ r.toNat ∧ r.toNat ≤ 24)

/-- G = 0 with NEG = 1 is reserved (R167). -/
def guardOk (g : Guard) : Bool := !(g.p == 0#4 && g.neg == 1#1)

def scopeOk (s : BitVec 4) : Bool := decide (s.toNat ≤ 11)
def tyOk (t : BitVec 4) : Bool := decide (t.toNat ≤ 10)
def tyInt (t : BitVec 4) : Bool := decide (t.toNat ≤ 7)
def tyFlt (t : BitVec 4) : Bool := vtyFloat t.toNat
def memOk (f : Mem) : Bool := ldDstOk f.d && srcOk f.a
def stOk (f : Mem) : Bool := srcOk f.d && decide (f.d.toNat ≠ 37) && srcOk f.a
def atomOk (f : Atom) : Bool := shortDstOk f.d && shortSrcOk f.a && shortSrcOk f.b && scopeOk f.s
def spawnOk (f : Rrrr) : Bool := spDstOk f.d && srcOk f.a && srcOk f.b && srcOk f.c
def rrrOk (g : Guard) (f : Rrr) : Bool := guardOk g && dstOk f.d && srcOk f.a && srcOk f.b
def rrOk (g : Guard) (d a : BitVec 6) : Bool := guardOk g && dstOk d && srcOk a
def vvvOk (g : Guard) (f : Vvv) : Bool := guardOk g && tyOk f.t
def vvsOk (g : Guard) (f : Vvs) : Bool := guardOk g && tyOk f.t && srcOk f.s
/-- Variants of `vadd`, `vsub`, `vmul` and `vfma`: plain, or `.sat` for integer types (R278). -/
def varOk (f : Vvv) (v : BitVec 2) : Bool := decide (v.toNat = 0 ∨ v.toNat = 1 ∧ f.t.toNat ≤ 7)
/-- `vwadd` and `vwmul`: a type with a wider partner and an even VD (R291). -/
def widenOk (g : Guard) (f : Vvv) : Bool := guardOk g && (vtyWiden f.t.toNat).isSome && decide (f.d.toNat % 2 = 0)
/-- Special functions take BF16, FP16 and FP32 (R294). -/
def sfuOk (g : Guard) (t : BitVec 4) : Bool := guardOk g && tyFlt t

/-- Every field of the instruction is one the entry allows (R163, R276): what decode refuses is an illegal encoding. The
steps that have no word carry no such limits. -/
def legal : Instr → Bool
  | .br n p _ => !(p == 0#4 && n == 1#1)
  | .jmpr a | .callr a | .sleep a | .sleepRel a | .tstamp a | .join a | .prio a | .migr a => srcOk a
  | .movi d _ | .movhi d _ => dstOk d
  | .ld1 f | .ld2 f | .ld4 f | .ld8 f | .lds1 f | .lds2 f | .lds4 f | .ldfe f => memOk f
  | .st1 f | .st2 f | .st4 f | .st8 f => stOk f
  | .stfe f => srcOk f.d && srcOk f.a
  | .ldv f | .stv f => srcOk f.a
  | .vldx f | .vstx f => srcOk f.a && tyOk f.t && decide (f.i.toNat % idxGroup f.t.toNat = 0)
  | .aadd4 f | .aadd8 f | .afadd f | .aminS32 f | .aminS64 f | .aminU32 f | .aminU64 f | .aminF32 f | .amaxS32 f
  | .amaxS64 f | .amaxU32 f | .amaxU64 f | .amaxF32 f | .aand f | .aor f | .axor f | .aswap4 f | .aswap8 f | .acas f => atomOk f
  | .fence r sr => scopeOk sr && (sr == 2#4 || r == 0#4)
  | .sbwait m => decide (m.toNat % 2 = 0)
  | .prefetch a _ _ | .touch a _ _ => srcOk a
  | .tbeg a k => srcOk a && (k != 0#2 || a == 0#6)
  | .spawn f | .spawnc f | .spawnx f => spawnOk f
  | .sinc a n k | .swait a n k | .sset a n k => srcOk a && (k == 0#1 || decide (n.toNat < 4))
  | .sget d n k => dstOk d && (k == 0#1 || decide (n.toNat < 4))
  | .smwait d a | .rparr d a | .flstat d a | .flstatClr d a => dstOk d && srcOk a
  | .barq d _ => dstOk d
  | .rparm a b | .tlbinv a b | .tlbinvCtx a b => srcOk a && srcOk b
  | .rpjoin h a b => srcOk h && srcOk a && srcOk b
  | .rpwait a | .rpstat a | .flend a | .flsync a | .acqr a | .relr a => srcOk a
  | .flsub f _ => spDstOk f.d && srcOk f.a && srcOk f.b
  | .send f _ | .csave f | .crest f => dstOk f.d && srcOk f.a && srcOk f.b
  | .ksend x y _ _ _ | .mvs x y _ _ _ _ | .epi x y _ _ _ _ | .cpy x y _ _ _ | .cpyp x y _ _ _ | .cpyf x y _ _ _ => srcOk x && srcOk y
  | .kbins x y _ | .kbinsMap x y _ | .put x y _ | .get x y _ | .tld x y _ _ | .tst x y _ _ => srcOk x && srcOk y
  | .kbinsStat x _ | .tzero x _ _ | .mma x _ _ | .mmat x _ _ => srcOk x
  | .mvc d _ => dstOk d
  | .mtc d _ => srcOk d
  | .anop g => guardOk g
  | .add g f _ | .sub g f _ | .mul g f _ | .mulh g f _ | .div g f _ | .rem g f _ | .min g f _ | .max g f _
  | .shl g f _ | .shr g f _ | .sar g f _ | .lea g f _ | .bext g f _ => rrrOk g f
  | .and g f | .or g f | .xor g f | .andn g f | .bins g f | .fadd g f | .fsub g f | .fmul g f | .ffma g f | .fdiv g f
  | .fmin g f | .fmax g f => rrrOk g f
  | .addi g d a _ | .andi g d a _ | .ori g d a _ | .xori g d a _ => rrOk g d a
  | .shli g d a _ | .shri g d a _ | .sari g d a _ => rrOk g d a
  | .clz g d a _ | .ctz g d a _ | .popc g d a _ => rrOk g d a
  | .fsqrt g d a => rrOk g d a
  | .ppack g d a _ => rrOk g d a
  | .punpack g a _ => guardOk g && srcOk a
  | .sel g _ _ a b => guardOk g && srcOk a && srcOk b
  | .cmp g _ a b c | .fcmp g _ a b c => guardOk g && srcOk a && srcOk b && c != 7#3
  | .cmpi g _ a _ c => guardOk g && srcOk a && c != 7#3
  | .pand g _ | .por g _ | .pxor g _ => guardOk g
  | .pnot g _ _ _ => guardOk g
  | .fcvt g d a k _ => rrOk g d a && decide (k.toNat ≤ 9)
  | .vadd g f v | .vsub g f v | .vmul g f v | .vfma g f v => vvvOk g f && varOk f v
  | .vaddScalar g f | .vsubScalar g f | .vmulScalar g f | .vfmaScalar g f | .vslideup g f | .vslidedn g f => vvsOk g f
  | .vmin g f | .vmax g f | .vand g f | .vor g f | .vxor g f | .vredsum g f | .vredmin g f | .vredmax g f
  | .vcompress g f | .vexpand g f => vvvOk g f
  | .vnot g t _ _ => guardOk g && tyOk t
  | .vshl g f | .vshr g f | .vsar g f => guardOk g && tyInt f.t
  | .vshlScalar g t _ sr | .vshrScalar g t _ sr | .vsarScalar g t _ sr => guardOk g && tyInt t && srcOk sr
  | .vcmp g f c => vvvOk g f && c != 7#3 && (c != 6#3 || tyFlt f.t)
  | .vsel g f _ => vvvOk g f
  | .vbcast g t _ sr | .vins g t _ sr => guardOk g && tyOk t && srcOk sr
  | .vext g t _ sr | .vredsumScalar g t _ sr | .vredminScalar g t _ sr | .vredmaxScalar g t _ sr => guardOk g && tyOk t && srcOk sr
  | .vperm g f => vvvOk g f && decide (f.b.toNat % idxGroup f.t.toNat = 0)
  | .vcvt g f _ => guardOk g && vcvtPair f.t.toNat f.b.toNat
  | .vwadd g f | .vwmul g f => widenOk g f
  | .vwcvt g f => vvvOk g f && tyOk f.b && (vtyRatio f.t.toNat f.b.toNat == 2 || vtyRatio f.t.toNat f.b.toNat == 4) &&
      decide (f.d.toNat % vtyRatio f.t.toNat f.b.toNat = 0)
  | .vnadd g f _ => guardOk g && (vtyWiden f.t.toNat).isSome && decide (f.a.toNat % 2 = 0) && decide (f.b.toNat % 2 = 0)
  | .vncvt g f _ => vvvOk g f && tyOk f.b && (vtyRatio f.b.toNat f.t.toNat == 2 || vtyRatio f.b.toNat f.t.toNat == 4) &&
      decide (f.a.toNat % vtyRatio f.b.toNat f.t.toNat = 0)
  | .vbmax g t _ _ _ => guardOk g && tyOk t
  | .vexp2 g t _ _ | .vlog2 g t _ _ | .vrcp g t _ _ | .vrsqrt g t _ _ | .vsqrt g t _ _ | .vtanh g t _ _ | .vsigm g t _ _ => sfuOk g t
  | .vmov g _ _ => guardOk g
  | .vzero g _ => guardOk g
  | .vmovScalar g _ sr => guardOk g && srcOk sr
  | _ => true

/-! ### Decoding -/

/-- The guard field of an A-class body (R167). -/
def guardOf (w : BitVec 24) : Guard := ⟨w.extractLsb' 23 1, w.extractLsb' 19 4⟩

/-- The C-class map (R172): the instruction whose fixed fields stand in the 24 body bits, its operands not yet checked. -/
def decodeC (op : Nat) (w : BitVec 24) : Option Instr :=
  match op with
  | 1 =>
    if w.extractLsb' 0 24 = 0#24 then some (.nop)
    else none
  | 2 =>
    some (.br (w.extractLsb' 23 1) (w.extractLsb' 19 4) (w.extractLsb' 0 19))
  | 3 =>
    some (.jmp (w.extractLsb' 0 24))
  | 4 =>
    if w.extractLsb' 18 6 = 0#6 ∧ w.extractLsb' 0 12 = 0#12 then some (.jmpr (w.extractLsb' 12 6))
    else none
  | 5 =>
    some (.call (w.extractLsb' 0 24))
  | 6 =>
    if w.extractLsb' 18 6 = 0#6 ∧ w.extractLsb' 0 12 = 0#12 then some (.callr (w.extractLsb' 12 6))
    else none
  | 7 =>
    if w.extractLsb' 0 24 = 0#24 then some (.ret)
    else none
  | 8 =>
    if w.extractLsb' 0 6 = 0#6 then some (.frame (w.extractLsb' 6 18))
    else none
  | 9 =>
    if w.extractLsb' 0 12 = 0#12 then some (.trap (w.extractLsb' 12 12))
    else none
  | 10 =>
    if w.extractLsb' 18 6 = 0#6 ∧ w.extractLsb' 0 12 = 0#12 then some (.sleep (w.extractLsb' 12 6))
    else if w.extractLsb' 18 6 = 0#6 ∧ w.extractLsb' 0 12 = 1#12 then some (.sleepRel (w.extractLsb' 12 6))
    else none
  | 11 =>
    if w.extractLsb' 0 24 = 0#24 then some (.yield)
    else none
  | 12 =>
    some (.movi (w.extractLsb' 18 6) (w.extractLsb' 0 18))
  | 13 =>
    some (.movhi (w.extractLsb' 18 6) (w.extractLsb' 0 18))
  | 16 =>
    some (.ld1 ⟨w.extractLsb' 18 6, w.extractLsb' 12 6, w.extractLsb' 9 3, w.extractLsb' 6 3, w.extractLsb' 0 6⟩)
  | 17 =>
    some (.ld2 ⟨w.extractLsb' 18 6, w.extractLsb' 12 6, w.extractLsb' 9 3, w.extractLsb' 6 3, w.extractLsb' 0 6⟩)
  | 18 =>
    some (.ld4 ⟨w.extractLsb' 18 6, w.extractLsb' 12 6, w.extractLsb' 9 3, w.extractLsb' 6 3, w.extractLsb' 0 6⟩)
  | 19 =>
    some (.ld8 ⟨w.extractLsb' 18 6, w.extractLsb' 12 6, w.extractLsb' 9 3, w.extractLsb' 6 3, w.extractLsb' 0 6⟩)
  | 20 =>
    some (.lds1 ⟨w.extractLsb' 18 6, w.extractLsb' 12 6, w.extractLsb' 9 3, w.extractLsb' 6 3, w.extractLsb' 0 6⟩)
  | 21 =>
    some (.lds2 ⟨w.extractLsb' 18 6, w.extractLsb' 12 6, w.extractLsb' 9 3, w.extractLsb' 6 3, w.extractLsb' 0 6⟩)
  | 22 =>
    some (.lds4 ⟨w.extractLsb' 18 6, w.extractLsb' 12 6, w.extractLsb' 9 3, w.extractLsb' 6 3, w.extractLsb' 0 6⟩)
  | 24 =>
    some (.st1 ⟨w.extractLsb' 18 6, w.extractLsb' 12 6, w.extractLsb' 9 3, w.extractLsb' 6 3, w.extractLsb' 0 6⟩)
  | 25 =>
    some (.st2 ⟨w.extractLsb' 18 6, w.extractLsb' 12 6, w.extractLsb' 9 3, w.extractLsb' 6 3, w.extractLsb' 0 6⟩)
  | 26 =>
    some (.st4 ⟨w.extractLsb' 18 6, w.extractLsb' 12 6, w.extractLsb' 9 3, w.extractLsb' 6 3, w.extractLsb' 0 6⟩)
  | 27 =>
    some (.st8 ⟨w.extractLsb' 18 6, w.extractLsb' 12 6, w.extractLsb' 9 3, w.extractLsb' 6 3, w.extractLsb' 0 6⟩)
  | 28 =>
    if w.extractLsb' 22 2 = 0#2 then some (.ldv ⟨w.extractLsb' 18 4, w.extractLsb' 12 6, w.extractLsb' 9 3, w.extractLsb' 6 3, w.extractLsb' 0 6⟩)
    else none
  | 29 =>
    if w.extractLsb' 22 2 = 0#2 then some (.stv ⟨w.extractLsb' 18 4, w.extractLsb' 12 6, w.extractLsb' 9 3, w.extractLsb' 6 3, w.extractLsb' 0 6⟩)
    else none
  | 30 =>
    some (.vldx ⟨w.extractLsb' 20 4, w.extractLsb' 14 6, w.extractLsb' 10 4, w.extractLsb' 6 4, w.extractLsb' 3 3, w.extractLsb' 0 3⟩)
  | 31 =>
    some (.vstx ⟨w.extractLsb' 20 4, w.extractLsb' 14 6, w.extractLsb' 10 4, w.extractLsb' 6 4, w.extractLsb' 3 3, w.extractLsb' 0 3⟩)
  | 32 =>
    if w.extractLsb' 4 5 = 0#5 then some (.aadd4 ⟨w.extractLsb' 19 5, w.extractLsb' 14 5, w.extractLsb' 9 5, w.extractLsb' 0 4⟩)
    else if w.extractLsb' 4 5 = 1#5 then some (.aadd8 ⟨w.extractLsb' 19 5, w.extractLsb' 14 5, w.extractLsb' 9 5, w.extractLsb' 0 4⟩)
    else if w.extractLsb' 4 5 = 2#5 then some (.afadd ⟨w.extractLsb' 19 5, w.extractLsb' 14 5, w.extractLsb' 9 5, w.extractLsb' 0 4⟩)
    else if w.extractLsb' 4 5 = 3#5 then some (.aminS32 ⟨w.extractLsb' 19 5, w.extractLsb' 14 5, w.extractLsb' 9 5, w.extractLsb' 0 4⟩)
    else if w.extractLsb' 4 5 = 4#5 then some (.aminS64 ⟨w.extractLsb' 19 5, w.extractLsb' 14 5, w.extractLsb' 9 5, w.extractLsb' 0 4⟩)
    else if w.extractLsb' 4 5 = 5#5 then some (.aminU32 ⟨w.extractLsb' 19 5, w.extractLsb' 14 5, w.extractLsb' 9 5, w.extractLsb' 0 4⟩)
    else if w.extractLsb' 4 5 = 6#5 then some (.aminU64 ⟨w.extractLsb' 19 5, w.extractLsb' 14 5, w.extractLsb' 9 5, w.extractLsb' 0 4⟩)
    else if w.extractLsb' 4 5 = 7#5 then some (.aminF32 ⟨w.extractLsb' 19 5, w.extractLsb' 14 5, w.extractLsb' 9 5, w.extractLsb' 0 4⟩)
    else if w.extractLsb' 4 5 = 8#5 then some (.amaxS32 ⟨w.extractLsb' 19 5, w.extractLsb' 14 5, w.extractLsb' 9 5, w.extractLsb' 0 4⟩)
    else if w.extractLsb' 4 5 = 9#5 then some (.amaxS64 ⟨w.extractLsb' 19 5, w.extractLsb' 14 5, w.extractLsb' 9 5, w.extractLsb' 0 4⟩)
    else if w.extractLsb' 4 5 = 10#5 then some (.amaxU32 ⟨w.extractLsb' 19 5, w.extractLsb' 14 5, w.extractLsb' 9 5, w.extractLsb' 0 4⟩)
    else if w.extractLsb' 4 5 = 11#5 then some (.amaxU64 ⟨w.extractLsb' 19 5, w.extractLsb' 14 5, w.extractLsb' 9 5, w.extractLsb' 0 4⟩)
    else if w.extractLsb' 4 5 = 12#5 then some (.amaxF32 ⟨w.extractLsb' 19 5, w.extractLsb' 14 5, w.extractLsb' 9 5, w.extractLsb' 0 4⟩)
    else if w.extractLsb' 4 5 = 13#5 then some (.aand ⟨w.extractLsb' 19 5, w.extractLsb' 14 5, w.extractLsb' 9 5, w.extractLsb' 0 4⟩)
    else if w.extractLsb' 4 5 = 14#5 then some (.aor ⟨w.extractLsb' 19 5, w.extractLsb' 14 5, w.extractLsb' 9 5, w.extractLsb' 0 4⟩)
    else if w.extractLsb' 4 5 = 15#5 then some (.axor ⟨w.extractLsb' 19 5, w.extractLsb' 14 5, w.extractLsb' 9 5, w.extractLsb' 0 4⟩)
    else if w.extractLsb' 4 5 = 16#5 then some (.aswap4 ⟨w.extractLsb' 19 5, w.extractLsb' 14 5, w.extractLsb' 9 5, w.extractLsb' 0 4⟩)
    else if w.extractLsb' 4 5 = 17#5 then some (.aswap8 ⟨w.extractLsb' 19 5, w.extractLsb' 14 5, w.extractLsb' 9 5, w.extractLsb' 0 4⟩)
    else if w.extractLsb' 4 5 = 18#5 then some (.acas ⟨w.extractLsb' 19 5, w.extractLsb' 14 5, w.extractLsb' 9 5, w.extractLsb' 0 4⟩)
    else none
  | 33 =>
    if w.extractLsb' 16 8 = 0#8 ∧ w.extractLsb' 10 2 = 0#2 ∧ w.extractLsb' 0 6 = 0#6 then some (.fence (w.extractLsb' 12 4) (w.extractLsb' 6 4))
    else if w.extractLsb' 14 10 = 0#10 ∧ w.extractLsb' 0 6 = 1#6 then some (.sbwait (w.extractLsb' 6 8))
    else none
  | 34 =>
    if w.extractLsb' 18 6 = 0#6 ∧ w.extractLsb' 9 3 = 0#3 then some (.prefetch (w.extractLsb' 12 6) (w.extractLsb' 6 3) (w.extractLsb' 0 6))
    else none
  | 35 =>
    if w.extractLsb' 18 6 = 0#6 ∧ w.extractLsb' 9 3 = 0#3 then some (.touch (w.extractLsb' 12 6) (w.extractLsb' 6 3) (w.extractLsb' 0 6))
    else none
  | 36 =>
    some (.ldfe ⟨w.extractLsb' 18 6, w.extractLsb' 12 6, w.extractLsb' 9 3, w.extractLsb' 6 3, w.extractLsb' 0 6⟩)
  | 37 =>
    some (.stfe ⟨w.extractLsb' 18 6, w.extractLsb' 12 6, w.extractLsb' 9 3, w.extractLsb' 6 3, w.extractLsb' 0 6⟩)
  | 38 =>
    if w.extractLsb' 18 6 = 0#6 ∧ w.extractLsb' 8 4 = 0#4 ∧ w.extractLsb' 0 6 = 0#6 then some (.tbeg (w.extractLsb' 12 6) (w.extractLsb' 6 2))
    else if w.extractLsb' 0 24 = 1#24 then some (.tend)
    else if w.extractLsb' 0 24 = 2#24 then some (.tabort)
    else if w.extractLsb' 0 24 = 3#24 then some (.tserial)
    else if w.extractLsb' 18 6 = 0#6 ∧ w.extractLsb' 0 12 = 4#12 then some (.tstamp (w.extractLsb' 12 6))
    else none
  | 40 =>
    some (.spawn ⟨w.extractLsb' 18 6, w.extractLsb' 12 6, w.extractLsb' 6 6, w.extractLsb' 0 6⟩)
  | 41 =>
    some (.spawnc ⟨w.extractLsb' 18 6, w.extractLsb' 12 6, w.extractLsb' 6 6, w.extractLsb' 0 6⟩)
  | 42 =>
    some (.spawnx ⟨w.extractLsb' 18 6, w.extractLsb' 12 6, w.extractLsb' 6 6, w.extractLsb' 0 6⟩)
  | 43 =>
    if w.extractLsb' 18 6 = 0#6 ∧ w.extractLsb' 0 12 = 0#12 then some (.join (w.extractLsb' 12 6))
    else if w.extractLsb' 0 24 = 1#24 then some (.exit)
    else if w.extractLsb' 18 6 = 0#6 ∧ w.extractLsb' 0 12 = 2#12 then some (.prio (w.extractLsb' 12 6))
    else if w.extractLsb' 18 6 = 0#6 ∧ w.extractLsb' 0 12 = 3#12 then some (.migr (w.extractLsb' 12 6))
    else if w.extractLsb' 0 24 = 4#24 then some (.kpt)
    else none
  | 44 =>
    if w.extractLsb' 18 6 = 0#6 ∧ w.extractLsb' 4 2 = 0#2 ∧ w.extractLsb' 0 3 = 0#3 then some (.sinc (w.extractLsb' 12 6) (w.extractLsb' 6 6) (w.extractLsb' 3 1))
    else if w.extractLsb' 18 6 = 0#6 ∧ w.extractLsb' 4 2 = 0#2 ∧ w.extractLsb' 0 3 = 1#3 then some (.swait (w.extractLsb' 12 6) (w.extractLsb' 6 6) (w.extractLsb' 3 1))
    else if w.extractLsb' 12 6 = 0#6 ∧ w.extractLsb' 4 2 = 0#2 ∧ w.extractLsb' 0 3 = 2#3 then some (.sget (w.extractLsb' 18 6) (w.extractLsb' 6 6) (w.extractLsb' 3 1))
    else if w.extractLsb' 18 6 = 0#6 ∧ w.extractLsb' 4 2 = 0#2 ∧ w.extractLsb' 0 3 = 3#3 then some (.sset (w.extractLsb' 12 6) (w.extractLsb' 6 6) (w.extractLsb' 3 1))
    else if w.extractLsb' 0 12 = 4#12 then some (.smwait (w.extractLsb' 18 6) (w.extractLsb' 12 6))
    else none
  | 45 =>
    if w.extractLsb' 10 14 = 0#14 ∧ w.extractLsb' 0 6 = 0#6 then some (.bar (w.extractLsb' 6 4))
    else if w.extractLsb' 10 8 = 0#8 ∧ w.extractLsb' 0 6 = 1#6 then some (.barq (w.extractLsb' 18 6) (w.extractLsb' 6 4))
    else if w.extractLsb' 10 14 = 0#14 ∧ w.extractLsb' 0 6 = 2#6 then some (.barqWait (w.extractLsb' 6 4))
    else none
  | 46 =>
    if w.extractLsb' 18 6 = 0#6 ∧ w.extractLsb' 0 6 = 0#6 then some (.rparm (w.extractLsb' 12 6) (w.extractLsb' 6 6))
    else if w.extractLsb' 0 6 = 1#6 then some (.rpjoin (w.extractLsb' 18 6) (w.extractLsb' 12 6) (w.extractLsb' 6 6))
    else if w.extractLsb' 0 12 = 2#12 then some (.rparr (w.extractLsb' 18 6) (w.extractLsb' 12 6))
    else if w.extractLsb' 18 6 = 0#6 ∧ w.extractLsb' 0 12 = 3#12 then some (.rpwait (w.extractLsb' 12 6))
    else if w.extractLsb' 18 6 = 0#6 ∧ w.extractLsb' 0 12 = 4#12 then some (.rpstat (w.extractLsb' 12 6))
    else if w.extractLsb' 0 24 = 5#24 then some (.rpleave)
    else none
  | 47 =>
    if w.extractLsb' 4 2 = 0#2 ∧ w.extractLsb' 0 3 = 0#3 then some (.flsub ⟨w.extractLsb' 18 6, w.extractLsb' 12 6, w.extractLsb' 6 6⟩ (w.extractLsb' 3 1))
    else if w.extractLsb' 18 6 = 0#6 ∧ w.extractLsb' 0 12 = 1#12 then some (.flend (w.extractLsb' 12 6))
    else if w.extractLsb' 18 6 = 0#6 ∧ w.extractLsb' 0 12 = 2#12 then some (.flsync (w.extractLsb' 12 6))
    else if w.extractLsb' 0 12 = 3#12 then some (.flstat (w.extractLsb' 18 6) (w.extractLsb' 12 6))
    else if w.extractLsb' 0 12 = 4#12 then some (.flstatClr (w.extractLsb' 18 6) (w.extractLsb' 12 6))
    else none
  | 48 =>
    if w.extractLsb' 0 3 = 0#3 then some (.send ⟨w.extractLsb' 18 6, w.extractLsb' 12 6, w.extractLsb' 6 6⟩ (w.extractLsb' 3 3))
    else if w.extractLsb' 18 6 = 0#6 ∧ w.extractLsb' 0 12 = 1#12 then some (.acqr (w.extractLsb' 12 6))
    else if w.extractLsb' 18 6 = 0#6 ∧ w.extractLsb' 0 12 = 2#12 then some (.relr (w.extractLsb' 12 6))
    else none
  | 49 =>
    if w.extractLsb' 6 2 = 0#2 then some (.ksend (w.extractLsb' 18 6) (w.extractLsb' 12 6) (w.extractLsb' 11 1) (w.extractLsb' 8 3) ⟨w.extractLsb' 3 3, w.extractLsb' 1 2, w.extractLsb' 0 1⟩)
    else if w.extractLsb' 6 18 = 1#18 then some (.kflush ⟨w.extractLsb' 3 3, w.extractLsb' 1 2, w.extractLsb' 0 1⟩)
    else if w.extractLsb' 6 6 = 2#6 then some (.kbins (w.extractLsb' 18 6) (w.extractLsb' 12 6) ⟨w.extractLsb' 3 3, w.extractLsb' 1 2, w.extractLsb' 0 1⟩)
    else if w.extractLsb' 6 6 = 6#6 then some (.kbinsMap (w.extractLsb' 18 6) (w.extractLsb' 12 6) ⟨w.extractLsb' 3 3, w.extractLsb' 1 2, w.extractLsb' 0 1⟩)
    else if w.extractLsb' 6 12 = 10#12 then some (.kbinsStat (w.extractLsb' 18 6) ⟨w.extractLsb' 3 3, w.extractLsb' 1 2, w.extractLsb' 0 1⟩)
    else none
  | 50 =>
    if w.extractLsb' 10 2 = 0#2 then some (.tld (w.extractLsb' 18 6) (w.extractLsb' 12 6) (w.extractLsb' 6 4) ⟨w.extractLsb' 3 3, w.extractLsb' 1 2, w.extractLsb' 0 1⟩)
    else none
  | 51 =>
    if w.extractLsb' 10 2 = 0#2 then some (.tst (w.extractLsb' 18 6) (w.extractLsb' 12 6) (w.extractLsb' 6 4) ⟨w.extractLsb' 3 3, w.extractLsb' 1 2, w.extractLsb' 0 1⟩)
    else none
  | 52 =>
    if w.extractLsb' 10 8 = 0#8 then some (.tzero (w.extractLsb' 18 6) (w.extractLsb' 6 4) ⟨w.extractLsb' 3 3, w.extractLsb' 1 2, w.extractLsb' 0 1⟩)
    else if w.extractLsb' 8 16 = 8#16 then some (.accz (w.extractLsb' 6 2) ⟨w.extractLsb' 3 3, w.extractLsb' 1 2, w.extractLsb' 0 1⟩)
    else none
  | 53 =>
    if w.extractLsb' 8 10 = 0#10 then some (.mma (w.extractLsb' 18 6) (w.extractLsb' 6 2) ⟨w.extractLsb' 3 3, w.extractLsb' 1 2, w.extractLsb' 0 1⟩)
    else if w.extractLsb' 8 10 = 1#10 then some (.mmat (w.extractLsb' 18 6) (w.extractLsb' 6 2) ⟨w.extractLsb' 3 3, w.extractLsb' 1 2, w.extractLsb' 0 1⟩)
    else none
  | 54 =>
    some (.mvs (w.extractLsb' 18 6) (w.extractLsb' 12 6) (w.extractLsb' 11 1) (w.extractLsb' 8 3) (w.extractLsb' 6 2) ⟨w.extractLsb' 3 3, w.extractLsb' 1 2, w.extractLsb' 0 1⟩)
  | 55 =>
    some (.epi (w.extractLsb' 18 6) (w.extractLsb' 12 6) (w.extractLsb' 11 1) (w.extractLsb' 8 3) (w.extractLsb' 6 2) ⟨w.extractLsb' 3 3, w.extractLsb' 1 2, w.extractLsb' 0 1⟩)
  | 56 =>
    if w.extractLsb' 6 2 = 0#2 then some (.cpy (w.extractLsb' 18 6) (w.extractLsb' 12 6) (w.extractLsb' 11 1) (w.extractLsb' 8 3) ⟨w.extractLsb' 3 3, w.extractLsb' 1 2, w.extractLsb' 0 1⟩)
    else if w.extractLsb' 6 2 = 1#2 then some (.cpyp (w.extractLsb' 18 6) (w.extractLsb' 12 6) (w.extractLsb' 11 1) (w.extractLsb' 8 3) ⟨w.extractLsb' 3 3, w.extractLsb' 1 2, w.extractLsb' 0 1⟩)
    else if w.extractLsb' 6 2 = 2#2 then some (.cpyf (w.extractLsb' 18 6) (w.extractLsb' 12 6) (w.extractLsb' 11 1) (w.extractLsb' 8 3) ⟨w.extractLsb' 3 3, w.extractLsb' 1 2, w.extractLsb' 0 1⟩)
    else none
  | 57 =>
    if w.extractLsb' 6 6 = 0#6 then some (.put (w.extractLsb' 18 6) (w.extractLsb' 12 6) ⟨w.extractLsb' 3 3, w.extractLsb' 1 2, w.extractLsb' 0 1⟩)
    else if w.extractLsb' 6 6 = 1#6 then some (.get (w.extractLsb' 18 6) (w.extractLsb' 12 6) ⟨w.extractLsb' 3 3, w.extractLsb' 1 2, w.extractLsb' 0 1⟩)
    else none
  | 58 =>
    if w.extractLsb' 16 2 = 0#2 then some (.mvc (w.extractLsb' 18 6) (w.extractLsb' 0 16))
    else none
  | 59 =>
    if w.extractLsb' 16 2 = 0#2 then some (.mtc (w.extractLsb' 18 6) (w.extractLsb' 0 16))
    else none
  | 60 =>
    if w.extractLsb' 0 24 = 0#24 then some (.rte)
    else if w.extractLsb' 0 12 = 1#12 then some (.sysc (w.extractLsb' 12 12))
    else if w.extractLsb' 0 12 = 2#12 then some (.bkpt (w.extractLsb' 12 12))
    else if w.extractLsb' 0 24 = 3#24 then some (.halt)
    else none
  | 61 =>
    if w.extractLsb' 0 6 = 0#6 then some (.csave ⟨w.extractLsb' 18 6, w.extractLsb' 12 6, w.extractLsb' 6 6⟩)
    else if w.extractLsb' 0 6 = 1#6 then some (.crest ⟨w.extractLsb' 18 6, w.extractLsb' 12 6, w.extractLsb' 6 6⟩)
    else none
  | 62 =>
    if w.extractLsb' 18 6 = 0#6 ∧ w.extractLsb' 0 6 = 0#6 then some (.tlbinv (w.extractLsb' 12 6) (w.extractLsb' 6 6))
    else if w.extractLsb' 18 6 = 0#6 ∧ w.extractLsb' 0 6 = 1#6 then some (.tlbinvCtx (w.extractLsb' 12 6) (w.extractLsb' 6 6))
    else none
  | _ => none

/-- The A-class map (R173). -/
def decodeA (op : Nat) (w : BitVec 24) : Option Instr :=
  match op with
  | 0 =>
    if w.extractLsb' 0 19 = 0#19 then some (.anop (guardOf w))
    else none
  | 1 =>
    some (.add (guardOf w) ⟨w.extractLsb' 13 6, w.extractLsb' 7 6, w.extractLsb' 1 6⟩ (w.extractLsb' 0 1))
  | 2 =>
    some (.sub (guardOf w) ⟨w.extractLsb' 13 6, w.extractLsb' 7 6, w.extractLsb' 1 6⟩ (w.extractLsb' 0 1))
  | 3 =>
    some (.mul (guardOf w) ⟨w.extractLsb' 13 6, w.extractLsb' 7 6, w.extractLsb' 1 6⟩ (w.extractLsb' 0 1))
  | 4 =>
    some (.mulh (guardOf w) ⟨w.extractLsb' 13 6, w.extractLsb' 7 6, w.extractLsb' 1 6⟩ (w.extractLsb' 0 1))
  | 5 =>
    some (.div (guardOf w) ⟨w.extractLsb' 13 6, w.extractLsb' 7 6, w.extractLsb' 1 6⟩ (w.extractLsb' 0 1))
  | 6 =>
    some (.rem (guardOf w) ⟨w.extractLsb' 13 6, w.extractLsb' 7 6, w.extractLsb' 1 6⟩ (w.extractLsb' 0 1))
  | 7 =>
    some (.min (guardOf w) ⟨w.extractLsb' 13 6, w.extractLsb' 7 6, w.extractLsb' 1 6⟩ (w.extractLsb' 0 1))
  | 8 =>
    some (.max (guardOf w) ⟨w.extractLsb' 13 6, w.extractLsb' 7 6, w.extractLsb' 1 6⟩ (w.extractLsb' 0 1))
  | 9 =>
    if w.extractLsb' 0 1 = 0#1 then some (.and (guardOf w) ⟨w.extractLsb' 13 6, w.extractLsb' 7 6, w.extractLsb' 1 6⟩)
    else none
  | 10 =>
    if w.extractLsb' 0 1 = 0#1 then some (.or (guardOf w) ⟨w.extractLsb' 13 6, w.extractLsb' 7 6, w.extractLsb' 1 6⟩)
    else none
  | 11 =>
    if w.extractLsb' 0 1 = 0#1 then some (.xor (guardOf w) ⟨w.extractLsb' 13 6, w.extractLsb' 7 6, w.extractLsb' 1 6⟩)
    else none
  | 12 =>
    if w.extractLsb' 0 1 = 0#1 then some (.andn (guardOf w) ⟨w.extractLsb' 13 6, w.extractLsb' 7 6, w.extractLsb' 1 6⟩)
    else none
  | 13 =>
    some (.shl (guardOf w) ⟨w.extractLsb' 13 6, w.extractLsb' 7 6, w.extractLsb' 1 6⟩ (w.extractLsb' 0 1))
  | 14 =>
    some (.shr (guardOf w) ⟨w.extractLsb' 13 6, w.extractLsb' 7 6, w.extractLsb' 1 6⟩ (w.extractLsb' 0 1))
  | 15 =>
    some (.sar (guardOf w) ⟨w.extractLsb' 13 6, w.extractLsb' 7 6, w.extractLsb' 1 6⟩ (w.extractLsb' 0 1))
  | 16 =>
    some (.addi (guardOf w) (w.extractLsb' 13 6) (w.extractLsb' 7 6) (w.extractLsb' 0 7))
  | 17 =>
    some (.andi (guardOf w) (w.extractLsb' 13 6) (w.extractLsb' 7 6) (w.extractLsb' 0 7))
  | 18 =>
    some (.ori (guardOf w) (w.extractLsb' 13 6) (w.extractLsb' 7 6) (w.extractLsb' 0 7))
  | 19 =>
    some (.xori (guardOf w) (w.extractLsb' 13 6) (w.extractLsb' 7 6) (w.extractLsb' 0 7))
  | 20 =>
    if w.extractLsb' 6 1 = 0#1 then some (.shli (guardOf w) (w.extractLsb' 13 6) (w.extractLsb' 7 6) (w.extractLsb' 0 6))
    else none
  | 21 =>
    if w.extractLsb' 6 1 = 0#1 then some (.shri (guardOf w) (w.extractLsb' 13 6) (w.extractLsb' 7 6) (w.extractLsb' 0 6))
    else none
  | 22 =>
    if w.extractLsb' 6 1 = 0#1 then some (.sari (guardOf w) (w.extractLsb' 13 6) (w.extractLsb' 7 6) (w.extractLsb' 0 6))
    else none
  | 23 =>
    some (.lea (guardOf w) ⟨w.extractLsb' 13 6, w.extractLsb' 7 6, w.extractLsb' 1 6⟩ (w.extractLsb' 0 1))
  | 24 =>
    some (.bext (guardOf w) ⟨w.extractLsb' 13 6, w.extractLsb' 7 6, w.extractLsb' 1 6⟩ (w.extractLsb' 0 1))
  | 25 =>
    if w.extractLsb' 0 1 = 0#1 then some (.bins (guardOf w) ⟨w.extractLsb' 13 6, w.extractLsb' 7 6, w.extractLsb' 1 6⟩)
    else none
  | 26 =>
    if w.extractLsb' 1 6 = 0#6 then some (.clz (guardOf w) (w.extractLsb' 13 6) (w.extractLsb' 7 6) (w.extractLsb' 0 1))
    else if w.extractLsb' 1 6 = 1#6 then some (.ctz (guardOf w) (w.extractLsb' 13 6) (w.extractLsb' 7 6) (w.extractLsb' 0 1))
    else if w.extractLsb' 1 6 = 2#6 then some (.popc (guardOf w) (w.extractLsb' 13 6) (w.extractLsb' 7 6) (w.extractLsb' 0 1))
    else none
  | 27 =>
    if w.extractLsb' 13 1 = 0#1 ∧ w.extractLsb' 0 1 = 0#1 then some (.sel (guardOf w) (w.extractLsb' 15 4) (w.extractLsb' 14 1) (w.extractLsb' 7 6) (w.extractLsb' 1 6))
    else none
  | 28 =>
    some (.cmp (guardOf w) (w.extractLsb' 15 4) (w.extractLsb' 9 6) (w.extractLsb' 3 6) (w.extractLsb' 0 3))
  | 29 =>
    some (.cmpi (guardOf w) (w.extractLsb' 15 4) (w.extractLsb' 9 6) (w.extractLsb' 3 6) (w.extractLsb' 0 3))
  | 30 =>
    if w.extractLsb' 13 1 = 0#1 ∧ w.extractLsb' 7 1 = 0#1 ∧ w.extractLsb' 0 3 = 0#3 then some (.pand (guardOf w) ⟨w.extractLsb' 15 4, w.extractLsb' 14 1, w.extractLsb' 9 4, w.extractLsb' 8 1, w.extractLsb' 3 4⟩)
    else if w.extractLsb' 13 1 = 0#1 ∧ w.extractLsb' 7 1 = 0#1 ∧ w.extractLsb' 0 3 = 1#3 then some (.por (guardOf w) ⟨w.extractLsb' 15 4, w.extractLsb' 14 1, w.extractLsb' 9 4, w.extractLsb' 8 1, w.extractLsb' 3 4⟩)
    else if w.extractLsb' 13 1 = 0#1 ∧ w.extractLsb' 7 1 = 0#1 ∧ w.extractLsb' 0 3 = 2#3 then some (.pxor (guardOf w) ⟨w.extractLsb' 15 4, w.extractLsb' 14 1, w.extractLsb' 9 4, w.extractLsb' 8 1, w.extractLsb' 3 4⟩)
    else if w.extractLsb' 13 1 = 0#1 ∧ w.extractLsb' 0 9 = 3#9 then some (.pnot (guardOf w) (w.extractLsb' 15 4) (w.extractLsb' 14 1) (w.extractLsb' 9 4))
    else none
  | 31 =>
    if w.extractLsb' 3 4 = 0#4 ∧ w.extractLsb' 0 1 = 0#1 then some (.ppack (guardOf w) (w.extractLsb' 13 6) (w.extractLsb' 7 6) (w.extractLsb' 1 2))
    else if w.extractLsb' 13 6 = 0#6 ∧ w.extractLsb' 3 4 = 0#4 ∧ w.extractLsb' 0 1 = 1#1 then some (.punpack (guardOf w) (w.extractLsb' 7 6) (w.extractLsb' 1 2))
    else none
  | 32 =>
    if w.extractLsb' 0 1 = 0#1 then some (.fadd (guardOf w) ⟨w.extractLsb' 13 6, w.extractLsb' 7 6, w.extractLsb' 1 6⟩)
    else none
  | 33 =>
    if w.extractLsb' 0 1 = 0#1 then some (.fsub (guardOf w) ⟨w.extractLsb' 13 6, w.extractLsb' 7 6, w.extractLsb' 1 6⟩)
    else none
  | 34 =>
    if w.extractLsb' 0 1 = 0#1 then some (.fmul (guardOf w) ⟨w.extractLsb' 13 6, w.extractLsb' 7 6, w.extractLsb' 1 6⟩)
    else none
  | 35 =>
    if w.extractLsb' 0 1 = 0#1 then some (.ffma (guardOf w) ⟨w.extractLsb' 13 6, w.extractLsb' 7 6, w.extractLsb' 1 6⟩)
    else none
  | 36 =>
    if w.extractLsb' 0 1 = 0#1 then some (.fdiv (guardOf w) ⟨w.extractLsb' 13 6, w.extractLsb' 7 6, w.extractLsb' 1 6⟩)
    else none
  | 37 =>
    if w.extractLsb' 0 7 = 0#7 then some (.fsqrt (guardOf w) (w.extractLsb' 13 6) (w.extractLsb' 7 6))
    else none
  | 38 =>
    if w.extractLsb' 0 1 = 0#1 then some (.fmin (guardOf w) ⟨w.extractLsb' 13 6, w.extractLsb' 7 6, w.extractLsb' 1 6⟩)
    else if w.extractLsb' 0 1 = 1#1 then some (.fmax (guardOf w) ⟨w.extractLsb' 13 6, w.extractLsb' 7 6, w.extractLsb' 1 6⟩)
    else none
  | 39 =>
    some (.fcmp (guardOf w) (w.extractLsb' 15 4) (w.extractLsb' 9 6) (w.extractLsb' 3 6) (w.extractLsb' 0 3))
  | 40 =>
    some (.fcvt (guardOf w) (w.extractLsb' 13 6) (w.extractLsb' 7 6) (w.extractLsb' 1 6) (w.extractLsb' 0 1))
  | 41 =>
    if w.extractLsb' 0 1 = 0#1 then some (.vadd (guardOf w) ⟨w.extractLsb' 15 4, w.extractLsb' 11 4, w.extractLsb' 7 4, w.extractLsb' 3 4⟩ (w.extractLsb' 1 2))
    else if w.extractLsb' 0 1 = 1#1 then some (.vaddScalar (guardOf w) ⟨w.extractLsb' 15 4, w.extractLsb' 11 4, w.extractLsb' 7 4, w.extractLsb' 1 6⟩)
    else none
  | 42 =>
    if w.extractLsb' 0 1 = 0#1 then some (.vsub (guardOf w) ⟨w.extractLsb' 15 4, w.extractLsb' 11 4, w.extractLsb' 7 4, w.extractLsb' 3 4⟩ (w.extractLsb' 1 2))
    else if w.extractLsb' 0 1 = 1#1 then some (.vsubScalar (guardOf w) ⟨w.extractLsb' 15 4, w.extractLsb' 11 4, w.extractLsb' 7 4, w.extractLsb' 1 6⟩)
    else none
  | 43 =>
    if w.extractLsb' 0 1 = 0#1 then some (.vmul (guardOf w) ⟨w.extractLsb' 15 4, w.extractLsb' 11 4, w.extractLsb' 7 4, w.extractLsb' 3 4⟩ (w.extractLsb' 1 2))
    else if w.extractLsb' 0 1 = 1#1 then some (.vmulScalar (guardOf w) ⟨w.extractLsb' 15 4, w.extractLsb' 11 4, w.extractLsb' 7 4, w.extractLsb' 1 6⟩)
    else none
  | 44 =>
    if w.extractLsb' 0 1 = 0#1 then some (.vfma (guardOf w) ⟨w.extractLsb' 15 4, w.extractLsb' 11 4, w.extractLsb' 7 4, w.extractLsb' 3 4⟩ (w.extractLsb' 1 2))
    else if w.extractLsb' 0 1 = 1#1 then some (.vfmaScalar (guardOf w) ⟨w.extractLsb' 15 4, w.extractLsb' 11 4, w.extractLsb' 7 4, w.extractLsb' 1 6⟩)
    else none
  | 45 =>
    if w.extractLsb' 0 3 = 0#3 then some (.vmin (guardOf w) ⟨w.extractLsb' 15 4, w.extractLsb' 11 4, w.extractLsb' 7 4, w.extractLsb' 3 4⟩)
    else if w.extractLsb' 0 3 = 1#3 then some (.vmax (guardOf w) ⟨w.extractLsb' 15 4, w.extractLsb' 11 4, w.extractLsb' 7 4, w.extractLsb' 3 4⟩)
    else none
  | 46 =>
    if w.extractLsb' 0 3 = 0#3 then some (.vand (guardOf w) ⟨w.extractLsb' 15 4, w.extractLsb' 11 4, w.extractLsb' 7 4, w.extractLsb' 3 4⟩)
    else if w.extractLsb' 0 3 = 1#3 then some (.vor (guardOf w) ⟨w.extractLsb' 15 4, w.extractLsb' 11 4, w.extractLsb' 7 4, w.extractLsb' 3 4⟩)
    else if w.extractLsb' 0 3 = 2#3 then some (.vxor (guardOf w) ⟨w.extractLsb' 15 4, w.extractLsb' 11 4, w.extractLsb' 7 4, w.extractLsb' 3 4⟩)
    else if w.extractLsb' 0 7 = 3#7 then some (.vnot (guardOf w) (w.extractLsb' 15 4) (w.extractLsb' 11 4) (w.extractLsb' 7 4))
    else none
  | 47 =>
    if w.extractLsb' 0 3 = 0#3 then some (.vshl (guardOf w) ⟨w.extractLsb' 15 4, w.extractLsb' 11 4, w.extractLsb' 7 4, w.extractLsb' 3 4⟩)
    else if w.extractLsb' 0 3 = 2#3 then some (.vshr (guardOf w) ⟨w.extractLsb' 15 4, w.extractLsb' 11 4, w.extractLsb' 7 4, w.extractLsb' 3 4⟩)
    else if w.extractLsb' 0 3 = 4#3 then some (.vsar (guardOf w) ⟨w.extractLsb' 15 4, w.extractLsb' 11 4, w.extractLsb' 7 4, w.extractLsb' 3 4⟩)
    else if w.extractLsb' 7 4 = 0#4 ∧ w.extractLsb' 0 1 = 1#1 then some (.vshlScalar (guardOf w) (w.extractLsb' 15 4) (w.extractLsb' 11 4) (w.extractLsb' 1 6))
    else if w.extractLsb' 7 4 = 1#4 ∧ w.extractLsb' 0 1 = 1#1 then some (.vshrScalar (guardOf w) (w.extractLsb' 15 4) (w.extractLsb' 11 4) (w.extractLsb' 1 6))
    else if w.extractLsb' 7 4 = 2#4 ∧ w.extractLsb' 0 1 = 1#1 then some (.vsarScalar (guardOf w) (w.extractLsb' 15 4) (w.extractLsb' 11 4) (w.extractLsb' 1 6))
    else none
  | 48 =>
    some (.vcmp (guardOf w) ⟨w.extractLsb' 15 4, w.extractLsb' 11 4, w.extractLsb' 7 4, w.extractLsb' 3 4⟩ (w.extractLsb' 0 3))
  | 49 =>
    some (.vsel (guardOf w) ⟨w.extractLsb' 15 4, w.extractLsb' 11 4, w.extractLsb' 7 4, w.extractLsb' 3 4⟩ (w.extractLsb' 0 3))
  | 50 =>
    if w.extractLsb' 7 4 = 0#4 ∧ w.extractLsb' 0 1 = 0#1 then some (.vbcast (guardOf w) (w.extractLsb' 15 4) (w.extractLsb' 11 4) (w.extractLsb' 1 6))
    else if w.extractLsb' 7 4 = 1#4 ∧ w.extractLsb' 0 1 = 0#1 then some (.vins (guardOf w) (w.extractLsb' 15 4) (w.extractLsb' 11 4) (w.extractLsb' 1 6))
    else if w.extractLsb' 11 4 = 0#4 ∧ w.extractLsb' 0 1 = 1#1 then some (.vext (guardOf w) (w.extractLsb' 15 4) (w.extractLsb' 7 4) (w.extractLsb' 1 6))
    else none
  | 51 =>
    if w.extractLsb' 0 3 = 0#3 then some (.vredsum (guardOf w) ⟨w.extractLsb' 15 4, w.extractLsb' 11 4, w.extractLsb' 7 4, w.extractLsb' 3 4⟩)
    else if w.extractLsb' 0 3 = 2#3 then some (.vredmin (guardOf w) ⟨w.extractLsb' 15 4, w.extractLsb' 11 4, w.extractLsb' 7 4, w.extractLsb' 3 4⟩)
    else if w.extractLsb' 0 3 = 4#3 then some (.vredmax (guardOf w) ⟨w.extractLsb' 15 4, w.extractLsb' 11 4, w.extractLsb' 7 4, w.extractLsb' 3 4⟩)
    else if w.extractLsb' 11 4 = 0#4 ∧ w.extractLsb' 0 1 = 1#1 then some (.vredsumScalar (guardOf w) (w.extractLsb' 15 4) (w.extractLsb' 7 4) (w.extractLsb' 1 6))
    else if w.extractLsb' 11 4 = 1#4 ∧ w.extractLsb' 0 1 = 1#1 then some (.vredminScalar (guardOf w) (w.extractLsb' 15 4) (w.extractLsb' 7 4) (w.extractLsb' 1 6))
    else if w.extractLsb' 11 4 = 2#4 ∧ w.extractLsb' 0 1 = 1#1 then some (.vredmaxScalar (guardOf w) (w.extractLsb' 15 4) (w.extractLsb' 7 4) (w.extractLsb' 1 6))
    else none
  | 52 =>
    if w.extractLsb' 0 3 = 0#3 then some (.vperm (guardOf w) ⟨w.extractLsb' 15 4, w.extractLsb' 11 4, w.extractLsb' 7 4, w.extractLsb' 3 4⟩)
    else none
  | 53 =>
    if w.extractLsb' 0 1 = 0#1 then some (.vslideup (guardOf w) ⟨w.extractLsb' 15 4, w.extractLsb' 11 4, w.extractLsb' 7 4, w.extractLsb' 1 6⟩)
    else if w.extractLsb' 0 1 = 1#1 then some (.vslidedn (guardOf w) ⟨w.extractLsb' 15 4, w.extractLsb' 11 4, w.extractLsb' 7 4, w.extractLsb' 1 6⟩)
    else none
  | 54 =>
    if w.extractLsb' 0 3 = 0#3 then some (.vcompress (guardOf w) ⟨w.extractLsb' 15 4, w.extractLsb' 11 4, w.extractLsb' 7 4, w.extractLsb' 3 4⟩)
    else if w.extractLsb' 0 3 = 1#3 then some (.vexpand (guardOf w) ⟨w.extractLsb' 15 4, w.extractLsb' 11 4, w.extractLsb' 7 4, w.extractLsb' 3 4⟩)
    else none
  | 55 =>
    if w.extractLsb' 1 2 = 0#2 then some (.vcvt (guardOf w) ⟨w.extractLsb' 15 4, w.extractLsb' 11 4, w.extractLsb' 7 4, w.extractLsb' 3 4⟩ (w.extractLsb' 0 1))
    else none
  | 56 =>
    if w.extractLsb' 0 3 = 0#3 then some (.vwadd (guardOf w) ⟨w.extractLsb' 15 4, w.extractLsb' 11 4, w.extractLsb' 7 4, w.extractLsb' 3 4⟩)
    else if w.extractLsb' 0 3 = 1#3 then some (.vwmul (guardOf w) ⟨w.extractLsb' 15 4, w.extractLsb' 11 4, w.extractLsb' 7 4, w.extractLsb' 3 4⟩)
    else if w.extractLsb' 0 3 = 2#3 then some (.vwcvt (guardOf w) ⟨w.extractLsb' 15 4, w.extractLsb' 11 4, w.extractLsb' 7 4, w.extractLsb' 3 4⟩)
    else none
  | 57 =>
    if w.extractLsb' 2 1 = 0#1 ∧ w.extractLsb' 0 1 = 0#1 then some (.vnadd (guardOf w) ⟨w.extractLsb' 15 4, w.extractLsb' 11 4, w.extractLsb' 7 4, w.extractLsb' 3 4⟩ (w.extractLsb' 1 1))
    else if w.extractLsb' 2 1 = 0#1 ∧ w.extractLsb' 0 1 = 1#1 then some (.vncvt (guardOf w) ⟨w.extractLsb' 15 4, w.extractLsb' 11 4, w.extractLsb' 7 4, w.extractLsb' 3 4⟩ (w.extractLsb' 1 1))
    else none
  | 58 =>
    if w.extractLsb' 1 6 = 0#6 then some (.vbmax (guardOf w) (w.extractLsb' 15 4) (w.extractLsb' 11 4) (w.extractLsb' 7 4) (w.extractLsb' 0 1))
    else none
  | 59 =>
    if w.extractLsb' 0 7 = 0#7 then some (.vexp2 (guardOf w) (w.extractLsb' 15 4) (w.extractLsb' 11 4) (w.extractLsb' 7 4))
    else if w.extractLsb' 0 7 = 1#7 then some (.vlog2 (guardOf w) (w.extractLsb' 15 4) (w.extractLsb' 11 4) (w.extractLsb' 7 4))
    else if w.extractLsb' 0 7 = 2#7 then some (.vrcp (guardOf w) (w.extractLsb' 15 4) (w.extractLsb' 11 4) (w.extractLsb' 7 4))
    else if w.extractLsb' 0 7 = 3#7 then some (.vrsqrt (guardOf w) (w.extractLsb' 15 4) (w.extractLsb' 11 4) (w.extractLsb' 7 4))
    else if w.extractLsb' 0 7 = 4#7 then some (.vsqrt (guardOf w) (w.extractLsb' 15 4) (w.extractLsb' 11 4) (w.extractLsb' 7 4))
    else if w.extractLsb' 0 7 = 5#7 then some (.vtanh (guardOf w) (w.extractLsb' 15 4) (w.extractLsb' 11 4) (w.extractLsb' 7 4))
    else if w.extractLsb' 0 7 = 6#7 then some (.vsigm (guardOf w) (w.extractLsb' 15 4) (w.extractLsb' 11 4) (w.extractLsb' 7 4))
    else none
  | 60 =>
    if w.extractLsb' 15 4 = 0#4 ∧ w.extractLsb' 0 7 = 0#7 then some (.vmov (guardOf w) (w.extractLsb' 11 4) (w.extractLsb' 7 4))
    else if w.extractLsb' 15 4 = 0#4 ∧ w.extractLsb' 0 11 = 2#11 then some (.vzero (guardOf w) (w.extractLsb' 11 4))
    else if w.extractLsb' 15 4 = 0#4 ∧ w.extractLsb' 7 4 = 0#4 ∧ w.extractLsb' 0 1 = 1#1 then some (.vmovScalar (guardOf w) (w.extractLsb' 11 4) (w.extractLsb' 1 6))
    else none
  | _ => none

/-- The instruction that the class bit, the major opcode and the body name, before the operand limits. -/
def decodeFields (k : BitVec 7) (w : BitVec 24) : Option Instr :=
  if k.toNat < 64 then decodeC k.toNat w else decodeA (k.toNat - 64) w

/-- The instruction of a word under encoding version 3, whatever its L bit (R161, R163, R174); none traps ILLEGAL_OP. -/
def decodeWord (w : BitVec 32) : Option Instr :=
  match decodeFields (w.extractLsb' 24 7) (w.extractLsb' 0 24) with
  | some i => if legal i then some i else none
  | none => none

/-- The word of a table row with its first `nbits` bits `w` and zeros above. -/
def tableWord (nbits w : Nat) : BitVec 32 := BitVec.ofNat 32 (w % 2 ^ nbits)

/-- What the decoder reads from an instruction numbered as spec/opcode_table.json numbers it. -/
def decodeTableWord (nbits w : Nat) : Option Instr := decodeWord (tableWord nbits w)

/-! ### The prefix (R171) -/

/-- The fields of PFX that its instruction uses. -/
structure Pfx where
  mask : BitVec 4
  men : BitVec 1
  zero : BitVec 1
  rm : BitVec 3
  vc : BitVec 4
  vcen : BitVec 1
deriving DecidableEq, Repr

/-- C-class major 0x0E is the prefix (R171). -/
def isPfx (w : BitVec 32) : Bool := w.extractLsb' 24 7 == 0x0E#7

/-- The prefix of a word; none where a reserved field is not zero, ZERO stands without MEN, or RM is reserved (R171). -/
def decodePfx (w : BitVec 32) : Option Pfx :=
  let p : Pfx := ⟨w.extractLsb' 20 4, w.extractLsb' 19 1, w.extractLsb' 18 1, w.extractLsb' 15 3, w.extractLsb' 11 4, w.extractLsb' 10 1⟩
  if w.extractLsb' 0 10 ≠ 0#10 ∨ (p.zero = 1#1 ∧ p.men = 0#1) ∨ p.rm = 6#3 then none else some p

/-- A-class majors 0x29 to 0x3B are the vector opcodes, which may follow PFX (R173). -/
def isVectorWord (w : BitVec 32) : Bool :=
  w.extractLsb' 30 1 == 1#1 && decide (0x29 ≤ (w.extractLsb' 24 6).toNat ∧ (w.extractLsb' 24 6).toNat ≤ 0x3B)

/-- Instructions whose entries exclude masking: `vins`, `vext`, `vcompress`, `vexpand` (R284, R289). -/
def noMask : Instr → Bool
  | .vins .. | .vext .. | .vcompress .. | .vexpand .. => true
  | _ => false

/-- `vfma` is the only instruction with a fourth operand (R278). -/
def hasVc : Instr → Bool
  | .vfma .. | .vfmaScalar .. => true
  | _ => false

/-- The refusals of a prefix field by the instruction it precedes (R171). -/
def pfxFits (p : Pfx) (i : Instr) : Bool :=
  !(p.men == 1#1 && noMask i) && !(p.vcen == 1#1 && !hasVc i)

/-! ### Encoding versions (R181) and the formats of approach mode (R444) -/

/-- The 6-bit register fields of a word that version 1 reads without the mesh ports. -/
def regFields : Instr → List (BitVec 6)
  | .jmpr a | .callr a | .sleep a | .sleepRel a | .tstamp a | .join a | .prio a | .migr a | .prefetch a _ _ | .touch a _ _
  | .tbeg a _ | .rpwait a | .rpstat a | .flend a | .flsync a | .acqr a | .relr a | .sinc a _ _ | .swait a _ _ | .sset a _ _ => [a]
  | .movi d _ | .movhi d _ | .sget d _ _ | .barq d _ | .mvc d _ | .mtc d _ => [d]
  | .ld1 f | .ld2 f | .ld4 f | .ld8 f | .lds1 f | .lds2 f | .lds4 f | .ldfe f | .st1 f | .st2 f | .st4 f | .st8 f | .stfe f => [f.d, f.a]
  | .ldv f | .stv f => [f.a]
  | .vldx f | .vstx f => [f.a]
  | .spawn f | .spawnc f | .spawnx f => [f.d, f.a, f.b, f.c]
  | .smwait d a | .rparr d a | .flstat d a | .flstatClr d a => [d, a]
  | .rparm a b | .tlbinv a b | .tlbinvCtx a b => [a, b]
  | .rpjoin h a b => [h, a, b]
  | .flsub f _ | .send f _ | .csave f | .crest f => [f.d, f.a, f.b]
  | .ksend x y _ _ _ | .mvs x y _ _ _ _ | .epi x y _ _ _ _ | .cpy x y _ _ _ | .cpyp x y _ _ _ | .cpyf x y _ _ _ => [x, y]
  | .kbins x y _ | .kbinsMap x y _ | .put x y _ | .get x y _ | .tld x y _ _ | .tst x y _ _ => [x, y]
  | .kbinsStat x _ | .tzero x _ _ | .mma x _ _ | .mmat x _ _ => [x]
  | .add _ f _ | .sub _ f _ | .mul _ f _ | .mulh _ f _ | .div _ f _ | .rem _ f _ | .min _ f _ | .max _ f _
  | .shl _ f _ | .shr _ f _ | .sar _ f _ | .lea _ f _ | .bext _ f _ => [f.d, f.a, f.b]
  | .and _ f | .or _ f | .xor _ f | .andn _ f | .bins _ f | .fadd _ f | .fsub _ f | .fmul _ f | .ffma _ f | .fdiv _ f
  | .fmin _ f | .fmax _ f => [f.d, f.a, f.b]
  | .addi _ d a _ | .andi _ d a _ | .ori _ d a _ | .xori _ d a _ => [d, a]
  | .shli _ d a _ | .shri _ d a _ | .sari _ d a _ => [d, a]
  | .clz _ d a _ | .ctz _ d a _ | .popc _ d a _ => [d, a]
  | .fsqrt _ d a => [d, a]
  | .ppack _ d a _ => [d, a]
  | .punpack _ a _ => [a]
  | .sel _ _ _ a b => [a, b]
  | .cmp _ _ a b _ | .fcmp _ _ a b _ => [a, b]
  | .cmpi _ _ a _ _ => [a]
  | .fcvt _ d a _ _ => [d, a]
  | .vaddScalar _ f | .vsubScalar _ f | .vmulScalar _ f | .vfmaScalar _ f | .vslideup _ f | .vslidedn _ f => [f.s]
  | .vshlScalar _ _ _ sr | .vshrScalar _ _ _ sr | .vsarScalar _ _ _ sr | .vbcast _ _ _ sr | .vins _ _ _ sr => [sr]
  | .vext _ _ _ sr | .vredsumScalar _ _ _ sr | .vredminScalar _ _ _ sr | .vredmaxScalar _ _ _ sr => [sr]
  | .vmovScalar _ _ sr => [sr]
  | _ => []

/-- The vector type codes a word names, in its TY field or as a conversion's source. -/
def tyFields : Instr → List (BitVec 4)
  | .vldx f | .vstx f => [f.t]
  | .vadd _ f _ | .vsub _ f _ | .vmul _ f _ | .vfma _ f _ => [f.t]
  | .vaddScalar _ f | .vsubScalar _ f | .vmulScalar _ f | .vfmaScalar _ f | .vslideup _ f | .vslidedn _ f => [f.t]
  | .vmin _ f | .vmax _ f | .vand _ f | .vor _ f | .vxor _ f | .vredsum _ f | .vredmin _ f | .vredmax _ f
  | .vcompress _ f | .vexpand _ f | .vshl _ f | .vshr _ f | .vsar _ f | .vperm _ f | .vwadd _ f | .vwmul _ f => [f.t]
  | .vcmp _ f _ | .vsel _ f _ => [f.t]
  | .vnadd _ f _ => [f.t]
  | .vcvt _ f _ | .vncvt _ f _ => [f.t, f.b]
  | .vwcvt _ f => [f.t, f.b]
  | .vnot _ t _ _ => [t]
  | .vshlScalar _ t _ _ | .vshrScalar _ t _ _ | .vsarScalar _ t _ _ | .vbcast _ t _ _ | .vins _ t _ _ => [t]
  | .vext _ t _ _ | .vredsumScalar _ t _ _ | .vredminScalar _ t _ _ | .vredmaxScalar _ t _ _ => [t]
  | _ => []

/-- The instructions that version 2 still reserves: tasks, ropes, fixed lines and `kpt` (R181). -/
def newIn3 : Instr → Bool
  | .tbeg .. | .tend | .tabort | .tserial | .tstamp _ | .kpt | .rparm .. | .rpjoin .. | .rparr .. | .rpwait _ | .rpstat _ | .rpleave
  | .flsub .. | .flend _ | .flsync _ | .flstat .. | .flstatClr .. => true
  | _ => false

/-- The instructions that version 1 also reserves: keyed sends, `mvs`, `vbmax`, `vtanh`, `vsigm` (R181). -/
def newIn2 : Instr → Bool
  | .ksend .. | .kflush _ | .kbins .. | .kbinsMap .. | .kbinsStat .. | .mvs .. | .vbmax .. | .vtanh .. | .vsigm .. => true
  | _ => false

/-- The instruction is one of encoding version `ver` (R180, R181). -/
def inVersion (ver : Nat) (i : Instr) : Bool :=
  if ver = 3 then true
  else if newIn3 i then false
  else if ver = 2 then true
  else !newIn2 i && (regFields i).all (fun r => !(decide (32 ≤ r.toNat ∧ r.toNat ≤ 35))) && (tyFields i).all (fun t => decide (2 ≤ t.toNat))

/-- The matrix format code is reserved under version `ver` (R181), or before calibration in approach mode (R444). -/
def fmtReserved (ver : Nat) (uncal : Bool) (fmt : Nat) : Bool :=
  uncal && decide (3 ≤ fmt) || decide (ver < 3) && (fmt == 7 || fmt == 13) || decide (ver < 2) && (10 ≤ fmt && fmt ≤ 12)

/-- Decoding under a launch context's version (R180). -/
def decodeIn (ver : Nat) (w : BitVec 32) : Option Instr :=
  match decodeWord w with
  | some i => if inVersion ver i then some i else none
  | none => none

/-- C-class instructions are the C-slot's, A-class ones the A-slot's (R161). -/
def isAClass (w : BitVec 32) : Bool := w.extractLsb' 30 1 == 1#1

/-! ### Encoding -/

/-- Class bit and major opcode, and the 24 body bits, of an instruction; none for a step that has no word. -/
def encodeFields : Instr → Option (BitVec 7 × BitVec 24)
  | .nop => some (1#7, 0#24)
  | .br n p o => some (2#7, n ++ p ++ o)
  | .jmp o => some (3#7, o)
  | .jmpr a => some (4#7, 0#6 ++ a ++ 0#12)
  | .call o => some (5#7, o)
  | .callr a => some (6#7, 0#6 ++ a ++ 0#12)
  | .ret => some (7#7, 0#24)
  | .frame imm => some (8#7, imm ++ 0#6)
  | .trap c => some (9#7, c ++ 0#12)
  | .sleep a => some (10#7, 0#6 ++ a ++ 0#12)
  | .sleepRel a => some (10#7, 0#6 ++ a ++ 1#12)
  | .yield => some (11#7, 0#24)
  | .movi d imm => some (12#7, d ++ imm)
  | .movhi d imm => some (13#7, d ++ imm)
  | .ld1 f => some (16#7, f.d ++ f.a ++ f.s ++ f.w ++ f.i)
  | .ld2 f => some (17#7, f.d ++ f.a ++ f.s ++ f.w ++ f.i)
  | .ld4 f => some (18#7, f.d ++ f.a ++ f.s ++ f.w ++ f.i)
  | .ld8 f => some (19#7, f.d ++ f.a ++ f.s ++ f.w ++ f.i)
  | .lds1 f => some (20#7, f.d ++ f.a ++ f.s ++ f.w ++ f.i)
  | .lds2 f => some (21#7, f.d ++ f.a ++ f.s ++ f.w ++ f.i)
  | .lds4 f => some (22#7, f.d ++ f.a ++ f.s ++ f.w ++ f.i)
  | .st1 f => some (24#7, f.d ++ f.a ++ f.s ++ f.w ++ f.i)
  | .st2 f => some (25#7, f.d ++ f.a ++ f.s ++ f.w ++ f.i)
  | .st4 f => some (26#7, f.d ++ f.a ++ f.s ++ f.w ++ f.i)
  | .st8 f => some (27#7, f.d ++ f.a ++ f.s ++ f.w ++ f.i)
  | .ldv f => some (28#7, 0#2 ++ f.v ++ f.a ++ f.s ++ f.w ++ f.i)
  | .stv f => some (29#7, 0#2 ++ f.v ++ f.a ++ f.s ++ f.w ++ f.i)
  | .vldx f => some (30#7, f.v ++ f.a ++ f.i ++ f.t ++ f.s ++ f.w)
  | .vstx f => some (31#7, f.v ++ f.a ++ f.i ++ f.t ++ f.s ++ f.w)
  | .aadd4 f => some (32#7, f.d ++ f.a ++ f.b ++ 0#5 ++ f.s)
  | .aadd8 f => some (32#7, f.d ++ f.a ++ f.b ++ 1#5 ++ f.s)
  | .afadd f => some (32#7, f.d ++ f.a ++ f.b ++ 2#5 ++ f.s)
  | .aminS32 f => some (32#7, f.d ++ f.a ++ f.b ++ 3#5 ++ f.s)
  | .aminS64 f => some (32#7, f.d ++ f.a ++ f.b ++ 4#5 ++ f.s)
  | .aminU32 f => some (32#7, f.d ++ f.a ++ f.b ++ 5#5 ++ f.s)
  | .aminU64 f => some (32#7, f.d ++ f.a ++ f.b ++ 6#5 ++ f.s)
  | .aminF32 f => some (32#7, f.d ++ f.a ++ f.b ++ 7#5 ++ f.s)
  | .amaxS32 f => some (32#7, f.d ++ f.a ++ f.b ++ 8#5 ++ f.s)
  | .amaxS64 f => some (32#7, f.d ++ f.a ++ f.b ++ 9#5 ++ f.s)
  | .amaxU32 f => some (32#7, f.d ++ f.a ++ f.b ++ 10#5 ++ f.s)
  | .amaxU64 f => some (32#7, f.d ++ f.a ++ f.b ++ 11#5 ++ f.s)
  | .amaxF32 f => some (32#7, f.d ++ f.a ++ f.b ++ 12#5 ++ f.s)
  | .aand f => some (32#7, f.d ++ f.a ++ f.b ++ 13#5 ++ f.s)
  | .aor f => some (32#7, f.d ++ f.a ++ f.b ++ 14#5 ++ f.s)
  | .axor f => some (32#7, f.d ++ f.a ++ f.b ++ 15#5 ++ f.s)
  | .aswap4 f => some (32#7, f.d ++ f.a ++ f.b ++ 16#5 ++ f.s)
  | .aswap8 f => some (32#7, f.d ++ f.a ++ f.b ++ 17#5 ++ f.s)
  | .acas f => some (32#7, f.d ++ f.a ++ f.b ++ 18#5 ++ f.s)
  | .fence r sr => some (33#7, 0#8 ++ r ++ 0#2 ++ sr ++ 0#6)
  | .sbwait m => some (33#7, 0#10 ++ m ++ 1#6)
  | .prefetch a w imm => some (34#7, 0#6 ++ a ++ 0#3 ++ w ++ imm)
  | .touch a w imm => some (35#7, 0#6 ++ a ++ 0#3 ++ w ++ imm)
  | .ldfe f => some (36#7, f.d ++ f.a ++ f.s ++ f.w ++ f.i)
  | .stfe f => some (37#7, f.d ++ f.a ++ f.s ++ f.w ++ f.i)
  | .tbeg a k => some (38#7, 0#6 ++ a ++ 0#4 ++ k ++ 0#6)
  | .tend => some (38#7, 1#24)
  | .tabort => some (38#7, 2#24)
  | .tserial => some (38#7, 3#24)
  | .tstamp a => some (38#7, 0#6 ++ a ++ 4#12)
  | .spawn f => some (40#7, f.d ++ f.a ++ f.b ++ f.c)
  | .spawnc f => some (41#7, f.d ++ f.a ++ f.b ++ f.c)
  | .spawnx f => some (42#7, f.d ++ f.a ++ f.b ++ f.c)
  | .join a => some (43#7, 0#6 ++ a ++ 0#12)
  | .exit => some (43#7, 1#24)
  | .prio a => some (43#7, 0#6 ++ a ++ 2#12)
  | .migr a => some (43#7, 0#6 ++ a ++ 3#12)
  | .kpt => some (43#7, 4#24)
  | .sinc a n k => some (44#7, 0#6 ++ a ++ n ++ 0#2 ++ k ++ 0#3)
  | .swait a n k => some (44#7, 0#6 ++ a ++ n ++ 0#2 ++ k ++ 1#3)
  | .sget d n k => some (44#7, d ++ 0#6 ++ n ++ 0#2 ++ k ++ 2#3)
  | .sset a n k => some (44#7, 0#6 ++ a ++ n ++ 0#2 ++ k ++ 3#3)
  | .smwait d a => some (44#7, d ++ a ++ 4#12)
  | .bar r => some (45#7, 0#14 ++ r ++ 0#6)
  | .barq d r => some (45#7, d ++ 0#8 ++ r ++ 1#6)
  | .barqWait r => some (45#7, 0#14 ++ r ++ 2#6)
  | .rparm a b => some (46#7, 0#6 ++ a ++ b ++ 0#6)
  | .rpjoin h a b => some (46#7, h ++ a ++ b ++ 1#6)
  | .rparr d a => some (46#7, d ++ a ++ 2#12)
  | .rpwait a => some (46#7, 0#6 ++ a ++ 3#12)
  | .rpstat a => some (46#7, 0#6 ++ a ++ 4#12)
  | .rpleave => some (46#7, 5#24)
  | .flsub f m => some (47#7, f.d ++ f.a ++ f.b ++ 0#2 ++ m ++ 0#3)
  | .flend a => some (47#7, 0#6 ++ a ++ 1#12)
  | .flsync a => some (47#7, 0#6 ++ a ++ 2#12)
  | .flstat d a => some (47#7, d ++ a ++ 3#12)
  | .flstatClr d a => some (47#7, d ++ a ++ 4#12)
  | .send f q => some (48#7, f.d ++ f.a ++ f.b ++ q ++ 0#3)
  | .acqr a => some (48#7, 0#6 ++ a ++ 1#12)
  | .relr a => some (48#7, 0#6 ++ a ++ 2#12)
  | .ksend x y e c q => some (49#7, x ++ y ++ e ++ c ++ 0#2 ++ q.w ++ q.t ++ q.n)
  | .kflush q => some (49#7, 1#18 ++ q.w ++ q.t ++ q.n)
  | .kbins x y q => some (49#7, x ++ y ++ 2#6 ++ q.w ++ q.t ++ q.n)
  | .kbinsMap x y q => some (49#7, x ++ y ++ 6#6 ++ q.w ++ q.t ++ q.n)
  | .kbinsStat x q => some (49#7, x ++ 10#12 ++ q.w ++ q.t ++ q.n)
  | .tld x y k q => some (50#7, x ++ y ++ 0#2 ++ k ++ q.w ++ q.t ++ q.n)
  | .tst x y k q => some (51#7, x ++ y ++ 0#2 ++ k ++ q.w ++ q.t ++ q.n)
  | .tzero x k q => some (52#7, x ++ 0#8 ++ k ++ q.w ++ q.t ++ q.n)
  | .accz c q => some (52#7, 8#16 ++ c ++ q.w ++ q.t ++ q.n)
  | .mma x c q => some (53#7, x ++ 0#10 ++ c ++ q.w ++ q.t ++ q.n)
  | .mmat x c q => some (53#7, x ++ 1#10 ++ c ++ q.w ++ q.t ++ q.n)
  | .mvs x y e g c q => some (54#7, x ++ y ++ e ++ g ++ c ++ q.w ++ q.t ++ q.n)
  | .epi x y e g c q => some (55#7, x ++ y ++ e ++ g ++ c ++ q.w ++ q.t ++ q.n)
  | .cpy x y e g q => some (56#7, x ++ y ++ e ++ g ++ 0#2 ++ q.w ++ q.t ++ q.n)
  | .cpyp x y e g q => some (56#7, x ++ y ++ e ++ g ++ 1#2 ++ q.w ++ q.t ++ q.n)
  | .cpyf x y e g q => some (56#7, x ++ y ++ e ++ g ++ 2#2 ++ q.w ++ q.t ++ q.n)
  | .put x y q => some (57#7, x ++ y ++ 0#6 ++ q.w ++ q.t ++ q.n)
  | .get x y q => some (57#7, x ++ y ++ 1#6 ++ q.w ++ q.t ++ q.n)
  | .mvc d c => some (58#7, d ++ 0#2 ++ c)
  | .mtc d c => some (59#7, d ++ 0#2 ++ c)
  | .rte => some (60#7, 0#24)
  | .sysc c => some (60#7, c ++ 1#12)
  | .bkpt c => some (60#7, c ++ 2#12)
  | .halt => some (60#7, 3#24)
  | .csave f => some (61#7, f.d ++ f.a ++ f.b ++ 0#6)
  | .crest f => some (61#7, f.d ++ f.a ++ f.b ++ 1#6)
  | .tlbinv a b => some (62#7, 0#6 ++ a ++ b ++ 0#6)
  | .tlbinvCtx a b => some (62#7, 0#6 ++ a ++ b ++ 1#6)
  | .anop g => some (64#7, g.neg ++ g.p ++ 0#19)
  | .add g f x => some (65#7, g.neg ++ g.p ++ f.d ++ f.a ++ f.b ++ x)
  | .sub g f x => some (66#7, g.neg ++ g.p ++ f.d ++ f.a ++ f.b ++ x)
  | .mul g f x => some (67#7, g.neg ++ g.p ++ f.d ++ f.a ++ f.b ++ x)
  | .mulh g f x => some (68#7, g.neg ++ g.p ++ f.d ++ f.a ++ f.b ++ x)
  | .div g f x => some (69#7, g.neg ++ g.p ++ f.d ++ f.a ++ f.b ++ x)
  | .rem g f x => some (70#7, g.neg ++ g.p ++ f.d ++ f.a ++ f.b ++ x)
  | .min g f x => some (71#7, g.neg ++ g.p ++ f.d ++ f.a ++ f.b ++ x)
  | .max g f x => some (72#7, g.neg ++ g.p ++ f.d ++ f.a ++ f.b ++ x)
  | .and g f => some (73#7, g.neg ++ g.p ++ f.d ++ f.a ++ f.b ++ 0#1)
  | .or g f => some (74#7, g.neg ++ g.p ++ f.d ++ f.a ++ f.b ++ 0#1)
  | .xor g f => some (75#7, g.neg ++ g.p ++ f.d ++ f.a ++ f.b ++ 0#1)
  | .andn g f => some (76#7, g.neg ++ g.p ++ f.d ++ f.a ++ f.b ++ 0#1)
  | .shl g f x => some (77#7, g.neg ++ g.p ++ f.d ++ f.a ++ f.b ++ x)
  | .shr g f x => some (78#7, g.neg ++ g.p ++ f.d ++ f.a ++ f.b ++ x)
  | .sar g f x => some (79#7, g.neg ++ g.p ++ f.d ++ f.a ++ f.b ++ x)
  | .lea g f x => some (87#7, g.neg ++ g.p ++ f.d ++ f.a ++ f.b ++ x)
  | .addi g d a imm => some (80#7, g.neg ++ g.p ++ d ++ a ++ imm)
  | .andi g d a imm => some (81#7, g.neg ++ g.p ++ d ++ a ++ imm)
  | .ori g d a imm => some (82#7, g.neg ++ g.p ++ d ++ a ++ imm)
  | .xori g d a imm => some (83#7, g.neg ++ g.p ++ d ++ a ++ imm)
  | .shli g d a imm => some (84#7, g.neg ++ g.p ++ d ++ a ++ 0#1 ++ imm)
  | .shri g d a imm => some (85#7, g.neg ++ g.p ++ d ++ a ++ 0#1 ++ imm)
  | .sari g d a imm => some (86#7, g.neg ++ g.p ++ d ++ a ++ 0#1 ++ imm)
  | .bext g f x => some (88#7, g.neg ++ g.p ++ f.d ++ f.a ++ f.b ++ x)
  | .bins g f => some (89#7, g.neg ++ g.p ++ f.d ++ f.a ++ f.b ++ 0#1)
  | .clz g d a x => some (90#7, g.neg ++ g.p ++ d ++ a ++ 0#6 ++ x)
  | .ctz g d a x => some (90#7, g.neg ++ g.p ++ d ++ a ++ 1#6 ++ x)
  | .popc g d a x => some (90#7, g.neg ++ g.p ++ d ++ a ++ 2#6 ++ x)
  | .sel g p e a b => some (91#7, g.neg ++ g.p ++ p ++ e ++ 0#1 ++ a ++ b ++ 0#1)
  | .cmp g p a b c => some (92#7, g.neg ++ g.p ++ p ++ a ++ b ++ c)
  | .cmpi g p a imm c => some (93#7, g.neg ++ g.p ++ p ++ a ++ imm ++ c)
  | .pand g f => some (94#7, g.neg ++ g.p ++ f.d ++ f.e ++ 0#1 ++ f.a ++ f.f ++ 0#1 ++ f.b ++ 0#3)
  | .por g f => some (94#7, g.neg ++ g.p ++ f.d ++ f.e ++ 0#1 ++ f.a ++ f.f ++ 0#1 ++ f.b ++ 1#3)
  | .pxor g f => some (94#7, g.neg ++ g.p ++ f.d ++ f.e ++ 0#1 ++ f.a ++ f.f ++ 0#1 ++ f.b ++ 2#3)
  | .pnot g d e a => some (94#7, g.neg ++ g.p ++ d ++ e ++ 0#1 ++ a ++ 3#9)
  | .ppack g d a j => some (95#7, g.neg ++ g.p ++ d ++ a ++ 0#4 ++ j ++ 0#1)
  | .punpack g a j => some (95#7, g.neg ++ g.p ++ 0#6 ++ a ++ 0#4 ++ j ++ 1#1)
  | .fadd g f => some (96#7, g.neg ++ g.p ++ f.d ++ f.a ++ f.b ++ 0#1)
  | .fsub g f => some (97#7, g.neg ++ g.p ++ f.d ++ f.a ++ f.b ++ 0#1)
  | .fmul g f => some (98#7, g.neg ++ g.p ++ f.d ++ f.a ++ f.b ++ 0#1)
  | .ffma g f => some (99#7, g.neg ++ g.p ++ f.d ++ f.a ++ f.b ++ 0#1)
  | .fdiv g f => some (100#7, g.neg ++ g.p ++ f.d ++ f.a ++ f.b ++ 0#1)
  | .fsqrt g d a => some (101#7, g.neg ++ g.p ++ d ++ a ++ 0#7)
  | .fmin g f => some (102#7, g.neg ++ g.p ++ f.d ++ f.a ++ f.b ++ 0#1)
  | .fmax g f => some (102#7, g.neg ++ g.p ++ f.d ++ f.a ++ f.b ++ 1#1)
  | .fcmp g p a b c => some (103#7, g.neg ++ g.p ++ p ++ a ++ b ++ c)
  | .fcvt g d a k x => some (104#7, g.neg ++ g.p ++ d ++ a ++ k ++ x)
  | .vadd g f v => some (105#7, g.neg ++ g.p ++ f.t ++ f.d ++ f.a ++ f.b ++ v ++ 0#1)
  | .vaddScalar g f => some (105#7, g.neg ++ g.p ++ f.t ++ f.d ++ f.a ++ f.s ++ 1#1)
  | .vsub g f v => some (106#7, g.neg ++ g.p ++ f.t ++ f.d ++ f.a ++ f.b ++ v ++ 0#1)
  | .vsubScalar g f => some (106#7, g.neg ++ g.p ++ f.t ++ f.d ++ f.a ++ f.s ++ 1#1)
  | .vmul g f v => some (107#7, g.neg ++ g.p ++ f.t ++ f.d ++ f.a ++ f.b ++ v ++ 0#1)
  | .vmulScalar g f => some (107#7, g.neg ++ g.p ++ f.t ++ f.d ++ f.a ++ f.s ++ 1#1)
  | .vfma g f v => some (108#7, g.neg ++ g.p ++ f.t ++ f.d ++ f.a ++ f.b ++ v ++ 0#1)
  | .vfmaScalar g f => some (108#7, g.neg ++ g.p ++ f.t ++ f.d ++ f.a ++ f.s ++ 1#1)
  | .vmin g f => some (109#7, g.neg ++ g.p ++ f.t ++ f.d ++ f.a ++ f.b ++ 0#3)
  | .vmax g f => some (109#7, g.neg ++ g.p ++ f.t ++ f.d ++ f.a ++ f.b ++ 1#3)
  | .vand g f => some (110#7, g.neg ++ g.p ++ f.t ++ f.d ++ f.a ++ f.b ++ 0#3)
  | .vor g f => some (110#7, g.neg ++ g.p ++ f.t ++ f.d ++ f.a ++ f.b ++ 1#3)
  | .vxor g f => some (110#7, g.neg ++ g.p ++ f.t ++ f.d ++ f.a ++ f.b ++ 2#3)
  | .vnot g t d a => some (110#7, g.neg ++ g.p ++ t ++ d ++ a ++ 3#7)
  | .vshl g f => some (111#7, g.neg ++ g.p ++ f.t ++ f.d ++ f.a ++ f.b ++ 0#3)
  | .vshr g f => some (111#7, g.neg ++ g.p ++ f.t ++ f.d ++ f.a ++ f.b ++ 2#3)
  | .vsar g f => some (111#7, g.neg ++ g.p ++ f.t ++ f.d ++ f.a ++ f.b ++ 4#3)
  | .vshlScalar g t d sr => some (111#7, g.neg ++ g.p ++ t ++ d ++ 0#4 ++ sr ++ 1#1)
  | .vshrScalar g t d sr => some (111#7, g.neg ++ g.p ++ t ++ d ++ 1#4 ++ sr ++ 1#1)
  | .vsarScalar g t d sr => some (111#7, g.neg ++ g.p ++ t ++ d ++ 2#4 ++ sr ++ 1#1)
  | .vcmp g f c => some (112#7, g.neg ++ g.p ++ f.t ++ f.d ++ f.a ++ f.b ++ c)
  | .vsel g f m => some (113#7, g.neg ++ g.p ++ f.t ++ f.d ++ f.a ++ f.b ++ m)
  | .vbcast g t d sr => some (114#7, g.neg ++ g.p ++ t ++ d ++ 0#4 ++ sr ++ 0#1)
  | .vins g t d sr => some (114#7, g.neg ++ g.p ++ t ++ d ++ 1#4 ++ sr ++ 0#1)
  | .vext g t a sr => some (114#7, g.neg ++ g.p ++ t ++ 0#4 ++ a ++ sr ++ 1#1)
  | .vredsum g f => some (115#7, g.neg ++ g.p ++ f.t ++ f.d ++ f.a ++ f.b ++ 0#3)
  | .vredmin g f => some (115#7, g.neg ++ g.p ++ f.t ++ f.d ++ f.a ++ f.b ++ 2#3)
  | .vredmax g f => some (115#7, g.neg ++ g.p ++ f.t ++ f.d ++ f.a ++ f.b ++ 4#3)
  | .vredsumScalar g t a sr => some (115#7, g.neg ++ g.p ++ t ++ 0#4 ++ a ++ sr ++ 1#1)
  | .vredminScalar g t a sr => some (115#7, g.neg ++ g.p ++ t ++ 1#4 ++ a ++ sr ++ 1#1)
  | .vredmaxScalar g t a sr => some (115#7, g.neg ++ g.p ++ t ++ 2#4 ++ a ++ sr ++ 1#1)
  | .vperm g f => some (116#7, g.neg ++ g.p ++ f.t ++ f.d ++ f.a ++ f.b ++ 0#3)
  | .vslideup g f => some (117#7, g.neg ++ g.p ++ f.t ++ f.d ++ f.a ++ f.s ++ 0#1)
  | .vslidedn g f => some (117#7, g.neg ++ g.p ++ f.t ++ f.d ++ f.a ++ f.s ++ 1#1)
  | .vcompress g f => some (118#7, g.neg ++ g.p ++ f.t ++ f.d ++ f.a ++ f.b ++ 0#3)
  | .vexpand g f => some (118#7, g.neg ++ g.p ++ f.t ++ f.d ++ f.a ++ f.b ++ 1#3)
  | .vcvt g f x => some (119#7, g.neg ++ g.p ++ f.t ++ f.d ++ f.a ++ f.b ++ 0#2 ++ x)
  | .vwadd g f => some (120#7, g.neg ++ g.p ++ f.t ++ f.d ++ f.a ++ f.b ++ 0#3)
  | .vwmul g f => some (120#7, g.neg ++ g.p ++ f.t ++ f.d ++ f.a ++ f.b ++ 1#3)
  | .vwcvt g f => some (120#7, g.neg ++ g.p ++ f.t ++ f.d ++ f.a ++ f.b ++ 2#3)
  | .vnadd g f x => some (121#7, g.neg ++ g.p ++ f.t ++ f.d ++ f.a ++ f.b ++ 0#1 ++ x ++ 0#1)
  | .vncvt g f x => some (121#7, g.neg ++ g.p ++ f.t ++ f.d ++ f.a ++ f.b ++ 0#1 ++ x ++ 1#1)
  | .vbmax g t d a b => some (122#7, g.neg ++ g.p ++ t ++ d ++ a ++ 0#6 ++ b)
  | .vexp2 g t d a => some (123#7, g.neg ++ g.p ++ t ++ d ++ a ++ 0#7)
  | .vlog2 g t d a => some (123#7, g.neg ++ g.p ++ t ++ d ++ a ++ 1#7)
  | .vrcp g t d a => some (123#7, g.neg ++ g.p ++ t ++ d ++ a ++ 2#7)
  | .vrsqrt g t d a => some (123#7, g.neg ++ g.p ++ t ++ d ++ a ++ 3#7)
  | .vsqrt g t d a => some (123#7, g.neg ++ g.p ++ t ++ d ++ a ++ 4#7)
  | .vtanh g t d a => some (123#7, g.neg ++ g.p ++ t ++ d ++ a ++ 5#7)
  | .vsigm g t d a => some (123#7, g.neg ++ g.p ++ t ++ d ++ a ++ 6#7)
  | .vmov g d a => some (124#7, g.neg ++ g.p ++ 0#4 ++ d ++ a ++ 0#7)
  | .vzero g d => some (124#7, g.neg ++ g.p ++ 0#4 ++ d ++ 2#11)
  | .vmovScalar g d sr => some (124#7, g.neg ++ g.p ++ 0#4 ++ d ++ 0#4 ++ sr ++ 1#1)
  | _ => none

/-- The word of an instruction with L bit `l` (R161). -/
def encode (l : BitVec 1) (i : Instr) : Option (BitVec 32) :=
  (encodeFields i).map fun p => l ++ p.1 ++ p.2

/-- The word of a prefix (R171). -/
def encodePfx (p : Pfx) : BitVec 32 := 0x0E#8 ++ p.mask ++ p.men ++ p.zero ++ p.rm ++ p.vc ++ p.vcen ++ 0#10

end Sys2Proof
end

