-- ==== Sys2Proof/Machine/State.lean ====
section
/-! DEFINITION. The state of the whole device as plain data, and the state right after reset. -/

namespace Sys2Proof.Machine

/-! ### What a thread holds (R26 to R50, R58 to R60, R376) -/

/-- A cause with what its report carries (R59, R407): code, TVAL, the bundle it names, the slot, the A-slot's cause when
both raised one, and the operation it belongs to. -/
structure Cause where
  code : Nat
  tval : Word
  pc : Word
  aslot : Bool := false
  both : Bool := false
  code2 : Nat := 0
  op : Nat := 0
deriving DecidableEq, Repr

/-- An entry of the result queue (R29): a value, a place reserved by operation `op`, or a fault with the scoreboard slot of
its operation and its cause (R31). -/
inductive REnt where
  | val (v : Word)
  | pend (op : Nat)
  | bad (sb : Nat) (c : Cause)
deriving DecidableEq, Repr

/-- An entry of a queue register or mesh port queue (R43): a word, or the place reserved by operation `op`. -/
inductive QEnt where
  | word (v : Word)
  | place (op : Nat)
deriving DecidableEq, Repr

/-- States of a slot (R336). -/
inductive TState where
  | empty | arriving | ready | parked | leaving
deriving DecidableEq, Repr

/-- A window (R35, R208): k4 to k7, return PC, sp and predicate word. -/
structure Window where
  k4 : Word
  k5 : Word
  k6 : Word
  k7 : Word
  ret : Word
  sp : Word
  pred : BitVec 16
deriving DecidableEq, Repr

/-- The snapshot of a task opening (R47, R376). -/
structure Snap where
  pc : Word := 0
  k : Table Word := []
  sp : Word := 0
  pred : BitVec 16 := 1
  depth : Nat := 0
  sc : Nat := 0
  oc : Nat := 0
deriving DecidableEq, Repr

/-- Stored bytes in the commit buffer or on their way to it (R13, R112): the virtual address, the memory key of the first byte, the bytes
and, where a store of elements narrower than a byte writes parts of bytes, the bits it writes (R121). -/
structure BufStore where
  va : Word
  key : Nat
  bytes : List Byte
  mask : List Byte := []
  /-- the scoreboard slot that the store set (R125) -/
  sb : Nat := 0
deriving DecidableEq, Repr

/-- A domain instance (R115): kind 0 cluster, 1 die, 2 device, its number, and its device. -/
structure Instance where
  kind : Nat
  num : Nat
  dev : Nat
deriving DecidableEq, Repr

/-- Rope membership (R376); `len` is the sum's length as a rope of another device told it at `rpjoin`. -/
structure Member where
  rope : Nat
  idx : Nat
  dev : Nat
  len : Nat := 0
deriving DecidableEq, Repr

/-- A kill notice waiting for its member (R259): the rope word that k0 receives, and whether its policy is NOW. -/
structure KillNote where
  word : Word
  now : Bool
deriving DecidableEq, Repr

/-- An outstanding barrier arrival (R253): register, the GEN that its release sets, whether an abort or a kill left it standing, the
number below which the operations issued before it lie, and the task sequence of the task that made it. -/
structure BarArr where
  bg : Nat
  gen : Nat
  stood : Bool
  upto : Nat
  task : Nat := 0
deriving DecidableEq, Repr

/-- Why a thread is in LEAVING (R336). -/
inductive Leave where
  | no
  | exit
  | fatal
  | migrate (dev core : Nat)
deriving DecidableEq, Repr

/-- A wait that a thread has started and that something outside its next bundle ends: `sleep` with its target (R213), a
service asked of the firmware (R217, R102, R104), `join` (R246), `csave` and `crest` (R220), a shoot-down (R221), a VWIN
grant (R44), a rope or fixed-line request (R456, R266, R267), a fence of messages (R119), `halt` (R219); a firmware thread whose
cause went to the fault log is stuck (R408). -/
inductive Wait where
  | none
  | sleep (target : Nat)
  | service (req : Nat)
  | join (thid seq : Nat)
  | shoot (id : Nat)
  | vwin (count : Nat)
  | halt
  | stuck
  | touch (page : Nat)
  | token (region : Nat)
  | image (status : Nat)
  | rope (stage : Nat)
  | line (entry seq : Nat)
  | reply (id dev : Nat)
  | barrier
  | barq (gen : Nat)
  | granted (n : Nat)
  | done (v : Word)
  | got (vs : List Word)
deriving DecidableEq, Repr

/-- A thread slot (R26, R49, R58, R59, R376). The defaults are those of an empty slot after reset. -/
structure Thread where
  st : TState := .empty
  /-- names the thread while it lives, so that a later thread of the slot is another one (R246) -/
  uid : Nat := 0
  /-- launch context on its core: 0 ordinary, 1 interactive (R376) -/
  x : Nat := 0
  pcause : Nat := 0
  /-- s-cycle in which the thread last parked (R41) -/
  since : Nat := 0
  cr : Nat := 0
  acc : Nat := 0
  rs : Nat := 0
  /-- s-cycle of the last issue, plus 8: the first in which the thread is eligible again (R15) -/
  elig : Nat := 0
  tseq : Nat := 0
  pc : Word := 0
  /-- the bundle that transferred control to `pc` (R162) -/
  src : Option Word := none
  /-- result queue, t0 first; a missing entry is valid zero (R26) -/
  t : List REnt := []
  /-- operations of pending entries pushed out of t15 (R31) -/
  lost : List Nat := []
  k : Table Word := []
  sp : Word := 0
  /-- pending named registers: register number (16 to 23, 37) and operation (R188) -/
  regPend : List (Nat × Nat) := []
  /-- pending vector registers of the core and their operations (R227, R277) -/
  vPend : List (Nat × Nat) := []
  depth : Nat := 0
  /-- resident windows, newest first (R36) -/
  win : List Window := []
  /-- where windows stand that are neither resident nor among those with assigned storage, after an abort or a migration (R37, R47, R223) -/
  winAt : Table Nat := []
  sc : Nat := 0
  oc : Nat := 0
  pred : BitVec 16 := 1
  sb : Table Nat := []
  ts : Table Nat := []
  vbase : Nat := 0
  vcnt : Nat := 0
  srst : BitVec 32 := 0x9E3779B9
  task : Bool := true
  timed : Bool := false
  cdom : BitVec 2 := 0
  serial : Bool := false
  fpc : BitVec 8 := 0
  mx : Bool := false
  sys : Bool := false
  xdev : Bool := false
  fwm : Bool := false
  intrap : Bool := false
  bpri : Nat := 0
  epri : Nat := 0
  tstamp : Word := 0
  hdev : Nat := 0
  hcore : Nat := 0
  hslot : Nat := 0
  /-- a thread of another device brings its home core's SPBASE base and size, SPOVF and SPOLIM (R37, R64) -/
  far : Option (Nat × Nat × Nat × Nat) := none
  tvec : Word := 0
  mem : Option Member := none
  killPc : Word := 0
  snap : Snap := {}
  /-- what the thread held at the last release it was a member of, or at its placement (R417, R418) -/
  relSnap : Option Snap := none
  relWin : List Window := []
  /-- the open task was opened by `tbeg`, so the depth floor binds it (R236) -/
  begun : Bool := false
  /-- read signature: the part at the home slot and the part on the present core (R50, R116) -/
  sigHome : BitVec 1024 := 0
  sigHere : BitVec 1024 := 0
  inst : Option Instance := none
  /-- the device of its instance, being another one, has answered that its task is head (R115) -/
  headOk : Bool := false
  /-- the home slot, on another device, holds a part of the read signature (R50) -/
  sigAway : Bool := false
  buf : List BufStore := []
  /-- CQUOTA.TQ as the open task took it (R65) -/
  tq : Nat := 2048
  due : List Cause := []
  held : List Cause := []
  kill : Option KillNote := none
  arr : Option BarArr := none
  wait : Wait := .none
  /-- a trap that waits for pending entries (R47) -/
  trapDue : Option Cause := none
  /-- the window-stack depth at the last trap delivery (R411) -/
  trapDepth : Nat := 0
  /-- a restart that waits for the operations sent before the abort (R34) -/
  restart : Bool := false
  /-- that restart is a kill's, which goes to the handler (R259) -/
  killing : Bool := false
  /-- an implicit task is to open before the next bundle, as the context's draining has kept it from opening (R365) -/
  opening : Bool := false
  leave : Leave := .no
  /-- promises of issued `cpyp` commands: s-cycle target and promise number (R323, R324) -/
  promises : List (Nat × Nat) := []
  /-- the launch, on its home device, of a thread that runs on another one (R18, R105) -/
  owner : Nat := 0
  /-- an `rparr` of this round waits for its banks (R258) -/
  arriving : Bool := false
  /-- host windows written since the last `fence.host` (R136) -/
  hostDirty : List Nat := []
deriving DecidableEq, Repr

/-! ### A launch context on a core (R27, R48, R56) -/

/-- Bin set of a context on a core (R330, R334). -/
structure Bins where
  op : Nat := 0
  count : Nat := 0
  boff : Nat := 0
  kbase : Nat := 0
  applied : Nat := 0
  rdrop : Nat := 0
  sdrop : Nat := 0
  valid : Bool := false
deriving DecidableEq, Repr, Inhabited

/-- Counter set of a context on a core (R398, R402, R404). -/
structure Counters where
  sel : Table (BitVec 64) := []
  pc : Table Nat := []
  tlc : Table Nat := []
  hist : Table Nat := []
  capBase : Nat := 0
  capEn : Bool := false
  capIval : Nat := 0
  capSz : Nat := 4
  capIdx : Nat := 0
  /-- placed s-cycles since the last record, and whether a save fell within the interval (R402) -/
  capAge : Nat := 0
  capGap : Bool := false
  watch : Table (BitVec 128) := []
deriving DecidableEq, Repr, Inhabited

/-- One launch context on one core. -/
structure Ctx where
  placed : Bool := false
  /-- being saved or swapped out (R365) -/
  away : Bool := false
  l : Nat := 0
  job : Nat := 0
  host : Nat := 0
  launch : Nat := 0
  caps : BitVec 16 := 0
  ver : Nat := 3
  bpri : Nat := 0
  top : Nat := 0
  left : Nat := 0
  high : Nat := 0
  wide : Nat := 0
  q : Table (List QEnt) := []
  port : Table (List QEnt) := []
  sm : Table Nat := []
  spSize : Nat := 16
  spBase : Nat := 0
  spOvf : Nat := 0
  spLim : Nat := 0
  cq : Nat := 2048
  tq : Nat := 2048
  wd : Table (BitVec 32) := []
  bg : Table (BitVec 32) := []
  lc : Table (BitVec 32) := []
  kmap : Table (BitVec 32) := []
  bins : Bins := {}
  cnt : Counters := {}
  /-- arrivals received from the cores of the sweep behind this one, per register (R254) -/
  barIn : Table (List Nat) := []
  /-- per register: 1 once this core has arrived in the current generation, 2 once its arrival has gone on -/
  barSent : Table Nat := []
  /-- per register, fixed-line sequence numbers that the arrival carries: 64 × subscriber core + entry, and number (R130) -/
  barSeq : Table (List (Nat × Nat)) := []
  /-- slots that hold or held a thread since launch start (R269) -/
  used : List Nat := []
  /-- no task of the context opens (R365) -/
  drain : Bool := false
  ckpt : List (Nat × Nat) := []
  /-- checkpoint generations (R416), the current one, the replay count and the last released rectangle (R418, R420) -/
  gen0 : List (List Byte) := []
  gen1 : List (List Byte) := []
  genCur : Nat := 0
  replays : Nat := 0
  lastRect : Option (BitVec 32) := none
  /-- lives numbered above it began after the last release (R418) -/
  relAt : Nat := 0
deriving DecidableEq, Repr, Inhabited

/-! ### A core (R13, R62, R63, R78, R341 to R348, R381 to R383, R403) -/

/-- A tile register (R13, R45, R309): rows of 256 bytes, scale side store, block-size bit, shape register. -/
structure Tile where
  rows : Table (BitVec 2048) := []
  side : Table Byte := []
  blk : Nat := 0
  fmt : Nat := 0
  rowb : Nat := 0
  nrows : Nat := 0
  scv : Bool := false
  busy : Nat := 0
deriving DecidableEq, Repr

/-- An accumulator (R27, R46): type (FP32 at launch start, none after `accz`; I32 is true) and elements by 64 × row + column. -/
structure Acc where
  ty : Option Bool := some false
  el : Table (BitVec 32) := []
deriving DecidableEq, Repr

/-- A range-lock entry (R381). -/
structure Lock where
  cmd : Nat
  dst : Bool
  x : Nat
  eng : Nat
  slot : Nat
  lo : Nat
  hi : Nat
deriving DecidableEq, Repr

/-- An engine command with its tag (R342), in a port or running; `step` counts the steps it has made (R303). -/
structure Cmd where
  id : Nat
  eng : Nat
  core : Nat
  slot : Nat
  x : Nat
  ts : Nat
  ns : Bool
  tseq : Nat
  fpc : BitVec 8
  seed : BitVec 32
  ins : Instr
  a : Word
  b : Word
  thid : Nat
  pc : Word
  ws : Nat
  wd : BitVec 32 := 0
  timed : Bool := false
  running : Bool := false
  step : Nat := 0
  steps : Nat := 0
  /-- entries of the thread's commit buffer at issue (R125) -/
  stores : Nat := 0
  waiting : Nat := 0
  cancelled : Bool := false
  /-- operand words read when the command begins or issued with it -/
  args : List Nat := []
  data : List Byte := []
  tiles : List Nat := []
  /-- accumulators that it reads and writes (R305) -/
  accR : List Nat := []
  accW : List Nat := []
  /-- packets that wait for an answer, by tag (R125, R327) -/
  tags : List Nat := []
deriving DecidableEq, Repr

/-- A source or subscriber fixed-line entry (R382). -/
structure FLine where
  v : Bool := false
  batch : Bool := false
  lapsed : Bool := false
  x : Nat := 0
  peer : Nat := 0
  pidx : Nat := 0
  bwin : Nat := 0
  refreshed : Bool := false
  len : Nat := 0
  off : Nat := 0
  recseq : Nat := 0
  seq : Nat := 0
  rcount : Nat := 0
deriving DecidableEq, Repr

/-- A fixed-line update in a queue (R347): subscriber core and entry, sequence number, offset in the region, bytes. -/
structure Update where
  dst : Nat
  entry : Nat
  seq : Nat
  off : Nat
  bytes : List Byte
deriving DecidableEq, Repr

/-- A line of an L1 cache (R95, R96): context, virtual line, physical line, rights, bytes, and its way. -/
structure Line where
  l : Nat
  va : Nat
  pa : Nat
  rights : Nat
  bytes : List Byte
  way : Nat := 0
deriving DecidableEq, Repr

/-- A message waiting in the inbound message queue (R345): context, queue, payload, the `send` to answer, and its sender. -/
structure Msg where
  x : Nat
  q : Nat
  v : Word
  op : Nat
  dev : Nat
  snd : Nat := 0
deriving DecidableEq, Repr

structure Core where
  ageq : Nat := 1024
  share : Bool := false
  vreg : Table (BitVec 4096) := []
  tiles : Table Tile := []
  accs : Table Acc := []
  l1d : List Line := []
  l1i : List Line := []
  locks : List Lock := []
  cmds : List Cmd := []
  src : Table FLine := []
  sub : Table FLine := []
  outq : List Update := []
  inq : List Update := []
  /-- open BATCH windows: source entry and line offset, oldest first (R348) -/
  batch : List (Nat × Nat) := []
  /-- s-cycle in which a window opened, by 16,384 × entry + line (R348) -/
  batchClk : Table Nat := []
  inbox : List Msg := []
  /-- coalescing buffers: 512 × device + receiving core, context, and pairs (R331) -/
  coal : List (Nat × Nat × List (BitVec 32 × BitVec 32)) := []
  /-- s-cycle of a buffer's last pair, by 2 × receiver + context (R331) -/
  coalClk : Table Nat := []
  /-- keyed pairs sent to other devices and not acknowledged: context, tag, device and number of pairs (R333) -/
  keyOut : List (Nat × Nat × Nat × Nat) := []
  /-- waiting vector-window requests: slot and count (R44) -/
  vwait : List (Nat × Nat) := []
  /-- registers that hold an uncorrectable word: 0 a vector register, 1 a tile, 2 an accumulator, and its number (R414) -/
  bad : List (Nat × Nat) := []
  /-- first s-cycle in which the vector unit is free again (R277) -/
  vecFree : Nat := 0
  trState : Nat := 0
  trPost : Nat := 0
  trXarm : Bool := false
  trBase : Nat := 0
  trIdx : Nat := 0
  trLeft : Nat := 0
  trigClk : Nat := 0
  /-- slot and context that issued in this s-cycle (R400, R403) -/
  issued : Option (Nat × Nat) := none
deriving DecidableEq, Repr

/-! ### Clusters (R69, R70, R97 to R99, R380) -/

/-- A TLB entry (R380). -/
structure Tlb where
  l : Nat
  size : Nat
  vpn : Nat
  ppn : Nat
  pr : Nat
  lr : Nat
  pin : Bool := false
  way : Nat := 0
deriving DecidableEq, Repr

/-- A walk in flight (R97, R99); `told` once its fault is reported. -/
structure Walk where
  id : Nat
  l : Nat
  va : Nat
  seq : Nat
  told : Bool := false
deriving DecidableEq, Repr

structure Cluster where
  cairn : BitVec 64 := 0xFFFFFFFFFFFFFFFF#64
  kbase : Nat := 120
  ksize : Nat := 8
  ibase : Nat := 0
  isize : Nat := 0
  obase : Nat := 0
  osize : Nat := 120
  tlb : List Tlb := []
  walks : List Walk := []
  inval : Nat := 0
deriving DecidableEq, Repr

/-- A shoot-down in progress (R99): context, range, clusters left, and the page migration whose end it is (R103). -/
structure Shoot where
  id : Nat
  l : Nat
  lo : Nat
  hi : Nat
  clusters : List Nat
  mig : Option Nat := none
deriving DecidableEq, Repr

/-! ### Operations in flight -/

/-- Where a result goes (R43, R187). -/
inductive Dest where
  | none
  | result
  | named (r : Nat)
  | queue (x q : Nat)
  | port (side : Nat)
  | vregs (rs : List Nat)
deriving DecidableEq, Repr, Inhabited

inductive OpKind where
  | load | store | atomic | fe | long | vec | spawn | send | vload | vstore | pre | home
deriving DecidableEq, Repr

/-- An operation that a thread has issued and that has not completed (R30, R40, R107). `at_` says how far it is:
0 sent, 1 arrived at its home, 2 in a waiting list, 3 refused and to be sent again, 4 withdrawn by a save. One of kind `home` asks the home device of a
thread for what stands there (R37, R50). -/
structure Op where
  id : Nat
  kind : OpKind
  core : Nat
  slot : Nat
  thid : Nat
  tseq : Nat
  pc : Word
  addr : Word := 0
  n : Nat := 0
  sgn : Bool := false
  aop : Nat := 0
  data : BitVec 4096 := 0
  exp : Word := 0
  more : List Nat := []
  wd : BitVec 32 := 0
  fpc : BitVec 8 := 0
  seed : BitVec 32 := 0
  dest : Dest := .none
  /-- bytes of a store that stand in no commit buffer yet -/
  pieces : List BufStore := []
  sb : Nat := 0
  scope : Nat := 0
  at_ : Nat := 0
  tgt : Nat := 0
  /-- its value is discarded and its fault raises nothing (R34) -/
  dropped : Bool := false
deriving DecidableEq, Repr

/-- What travels on the mesh without belonging to an outstanding operation of its sender. -/
inductive Flight where
  | keyed (src core x l : Nat) (pairs : List (BitVec 32 × BitVec 32))
  | arrive (launch src core x bg : Nat) (rect : BitVec 32) (seqs : List (Nat × Nat))
  | release (launch core x bg : Nat) (rect : BitVec 32) (seqs : List (Nat × Nat))
deriving DecidableEq, Repr

/-- A request standing at a base-camp bank (R91, R234, R362): of a thread's operation, or of a mailbox packet. -/
inductive BankReq where
  | op (id : Nat)
  | mbx (queue idx word : Nat) (put peek : Bool) (v : Word)
deriving DecidableEq, Repr

/-! ### Ropes (R73, R74, R386) -/

/-- A member entry (R386). -/
structure RMem where
  j : Bool := false
  /-- the device that its thread runs on, which no member leaves (R20) -/
  dev : Nat := 0
  cnt : Bool := false
  kp : Bool := false
  kd : Bool := false
  dead : Bool := false
  weight : Nat := 0
  thid : Nat := 0
deriving DecidableEq, Repr

/-- A pending contribution (R258): member, the device and operation (or packet tag) of the arrival, its bytes, lines written, lines acknowledged, lines
merged. -/
structure RPend where
  m : Nat
  dev : Nat
  op : Nat
  bytes : List Byte
  wrote : Nat := 0
  acked : List Nat := []
  merged : List Nat := []
  counted : Bool := false
deriving DecidableEq, Repr

structure Rope where
  armed : Bool := false
  owner : Nat := 0
  remote : Bool := false
  kill : Nat := 0
  fill : Nat := 0
  q : Nat := 0
  n : Nat := 0
  short : Bool := false
  deaddev : Bool := false
  late : Nat := 0
  filled : Bool := false
  st : Nat := 0
  killed : Nat := 0
  arrived : Nat := 0
  joined : Nat := 0
  i32 : Bool := false
  len : Nat := 0
  offs : Nat := 0
  wtot : Nat := 0
  warr : Nat := 0
  round : Nat := 0
  stale : Nat := 0
  mem : Table RMem := []
  pend : List RPend := []
  /-- waiters on other devices: device and tag (R134) -/
  away : List (Nat × Nat) := []
deriving DecidableEq, Repr

/-! ### The device (R71, R72, R394, R405, R406, R437, R441, R445, R447) -/

structure Die where
  ecnt : Nat := 0
  hot : Nat := 0
  stress : Nat := 0
  eold : Nat := 0xFFFF
  gated : Bool := false
deriving DecidableEq, Repr

structure Dev where
  clock : Nat := 0
  /-- DTIME in units of 2^-32 ns, and the remainder of negative steps in the same units (R71, R395) -/
  dtime : Nat := 0
  owed : Nat := 0
  trim : Int := 0
  ppsCap : Nat := 0
  ppsClk : Nat := 0
  ppsCnt : Nat := 0
  xFired : Bool := false
  xBken : Bool := false
  erem : Nat := 2600
  bud : Nat := 2600
  budNext : Nat := 2600
  win : Nat := 1000
  winNext : Nat := 1000
  /-- energy of samples not yet charged to EREM, in µJ (R405) -/
  ecarry : Nat := 0
  ecnt : Nat := 0
  /-- number of the present energy window boundary (R405) -/
  ewin : Nat := 0
  glim : Nat := 16
  fwa : Table (BitVec 64) := []
  dies : Table Die := []
  rtInj : Nat := 0
  occ : Table Nat := []
  routes : Table (BitVec 16) := []
  devno : Nat := 0
  portUp : Nat := 0
  xs : Nat := 1
  ys : Nat := 1
  zs : Nat := 1
  bootState : Nat := 0
  bootCode : Nat := 0
  active : Bool := true
  cfgok : Bool := false
  call6 : Bool := false
  caln : Bool := false
  thermHold : Bool := false
  fww : Nat := 1
  /-- repairs: core and its slot and vector-register codes (R389) -/
  repair : Table (Nat × Nat) := []
  /-- working role map: core by entry, and role (R391) -/
  roles : List (Nat × Nat × Nat) := [(0, 1, 0), (32, 2, 0), (64, 3, 0), (96, 4, 0), (128, 5, 0), (160, 6, 0)]
  cfgBytes : List Byte := []
  corrected : Table Nat := []
  correctedSent : Table Nat := []
deriving DecidableEq, Repr

/-- A token-directory entry (R384). -/
structure Token where
  inward : Bool
  busy : Bool
  l : Nat
  peer : Nat
  region : Nat
  lcopy : Nat
  rights : Nat := 7
  way : Nat := 0
  /-- the packet that carries the region and is not acknowledged, while BUSY -/
  tag : Nat := 0
deriving DecidableEq, Repr

/-- A page migration in progress (R103): old and new physical base, length and bytes copied. -/
structure PageMig where
  id : Nat
  l : Nat
  va : Nat
  old : Nat
  new : Nat
  len : Nat
  done : Nat
deriving DecidableEq, Repr

/-! ### Leases and launches (R100, R357, R379, R427) -/

structure Range where
  lo : Nat
  len : Nat
  rights : Nat
  v : Bool := true
deriving DecidableEq, Repr

/-- A fault record (R413). -/
structure FaultRec where
  code : Nat
  cls : Nat
  aslot : Bool
  both : Bool
  intrap : Bool
  code2 : Nat
  thid : Nat
  tpc : Word
  tval : Word
  dtime : Nat
  tstamp : Word
  launch : Nat
  core : Nat
  replay : Nat
deriving DecidableEq, Repr

/-- A request for a new thread (R242, R243, R439): where it came from (device and operation, or the tag of its packet), entry PC, k0 to k3,
descriptor, class and priority, job and host context of the spawner, SYS and XDEV. -/
structure SpawnReq where
  dev : Nat
  op : Nat
  pc : Word
  ks : List Word
  desc : Nat
  bpri : Nat
  job : Nat
  host : Option Nat
  sys : Bool
  xdev : Bool
deriving DecidableEq, Repr

/-- One place of a message area (R346, R427); a message with the identifier of its sender. -/
inductive Parked where
  | msg (core x q : Nat) (v : Word) (snd : Nat)
  | keyed (core : Nat) (pairs : List (BitVec 32 × BitVec 32))
  | spawn (core : Nat) (r : SpawnReq)
deriving DecidableEq, Repr

/-- The lease block and save area of a launch context number (R379, R413, R427). -/
structure Lease where
  used : Bool := false
  leases : List Range := []
  text : Option Range := none
  ovf : List Range := []
  grants : List Range := []
  mbxLo : Nat := 0
  mbxLen : Nat := 0
  root : Nat := 0
  rootV : Bool := false
  /-- entries of the touched set, the one touched least recently first: place, page, INUSE -/
  touched : List (Nat × Nat × Bool) := []
  saveBase : Nat := 0
  fcnt : Nat := 0
  area : List Parked := []
deriving DecidableEq, Repr

/-- The image of one context of one core (R421, R422): where it stands, its bytes, and what they stand for. -/
structure Image where
  addr : Nat
  core : Nat
  x : Nat
  bytes : List Byte
  ctx : Ctx
  slots : List (Nat × Thread)
  scratch : List Host.Cell
  /-- the context's part of the cluster pool, in the image that has that section -/
  pool : Option (List Host.Cell)
  /-- vector registers by the slot whose window they are (R44) -/
  vwins : List (Nat × List (BitVec 4096))
  tiles : List (Nat × Tile)
  accs : List (Nat × Acc)
  cmds : List Cmd
  locks : List Lock
  ops : List Op
  src : List (Nat × FLine)
  sub : List (Nat × FLine)
deriving DecidableEq, Repr, Inhabited

/-- Where a launch stands (R358, R364 to R366). -/
inductive LState where
  | held | waiting | placed | draining | saving | saved | lost | ended
deriving DecidableEq, Repr

structure Launch where
  id : Nat
  st : LState
  q : Nat
  idx : Nat
  host : Nat
  pkt : BitVec 512
  graph : Nat
  phase : Nat
  job : Nat
  est : Nat
  l : Nat := 0
  status : Nat := 0
  rung : Nat := 0
  t1End : Nat := 0
  t2End : Nat := 0
  images : List Image := []
  bpri : Nat := 0
  /-- page-table root of its context, bytes of an image on another device, base of its overflow areas, base of its save area -/
  root : Nat := 0
  remote : List Byte := []
  ovfBase : Nat := 0
  saveAt : Nat := 0
  /-- the lease block as it stood when the launch was saved (R379) -/
  kept : Option Lease := none
  /-- its graph, phase and job have taken it up (R397) -/
  opened : Bool := false
  /-- saved, it is to be placed back once its cores have room (R358, R372) -/
  back : Bool := false
  /-- held as these launches were pre-empted, it is placed after their resume (R373) -/
  after : List Nat := []
  /-- pages of its context's mappings that were not resident as it was read: first page of this device, and number (R358) -/
  absent : List (Nat × Nat) := []
deriving DecidableEq, Repr

/-- A packet read and not completed, with whether it has started (R356, R357). -/
structure Held where
  idx : Nat
  pkt : BitVec 512
  started : Bool := false
deriving DecidableEq, Repr

/-- A submission queue (R351 to R355). -/
structure SubQ where
  base : Nat := 0
  cbase : Nat := 0
  t2lim : Nat := 2000
  t1lim : Nat := 200
  ctx : Nat := 0
  en : Bool := false
  iclass : Bool := false
  sz : Nat := 4
  hold : Nat := 0
  rung : Nat := 0
  head : Nat := 0
  tail : Nat := 0
  comps : Nat := 0
  kicked : Bool := false
  pkts : List Held := []
deriving DecidableEq, Repr

/-- An entry of a completion-counter table (R396). -/
structure Level where
  canc : Bool
  open_ : Nat
  num : Nat
deriving DecidableEq, Repr

/-- A host context (R361, R396): guilt, bar, and counters of its launches, graphs, phases and jobs. -/
structure HCtx where
  guilt : Nat := 0
  barred : Bool := false
  launches : List Level := []
  graphs : List Level := []
  phases : List Level := []
  jobs : List Level := []
  log : List (List Byte) := []
deriving DecidableEq, Repr

/-- A management request whose reply waits for ladders or placements to end (R372): its byte index, its type, the launches still under way, the
highest rung reached, the launches saved, and whether an image has failed. -/
structure MReq where
  idx : Nat
  ty : Nat
  left : List Nat
  rung : Nat := 0
  saved : Nat := 0
  failed : Bool := false
deriving DecidableEq, Repr

/-- A management channel (R371). -/
structure Chan where
  base : Nat := 0
  rbase : Nat := 0
  en : Bool := false
  sz : Nat := 16
  admin : Bool := false
  ctx : Nat := 0
  tail : Nat := 0
  head : Nat := 0
  rtail : Nat := 0
  rhead : Nat := 0
  drop : Nat := 0
  replies : List (List Byte) := []
  busy : List MReq := []
deriving DecidableEq, Repr

/-- What the device has sent on the PCI Express link (R355, R431, R436): a posted write, a non-posted read, an AtomicOp, an
interrupt, a completion. -/
inductive HostOut where
  | write (addr : Nat) (bytes : List Byte)
  | read (id addr n : Nat)
  | atomic (id addr aop n : Nat) (v e : Word)
  | msix (vec : Nat)
  | completion (bytes : List Byte)
  | refused
deriving DecidableEq, Repr

/-- A packet on Evhorn (R438): destination, source, class and type, tag, stamped bank, virtual-channel bit, bytes 16 on. -/
structure Packet where
  dst : Nat
  src : Nat := 0
  cls : Nat
  ty : Nat
  tag : Nat
  bank : Nat
  vc : Nat := 0
  /-- the port it came by, 6 for a packet of this device (R387) -/
  inp : Nat := 6
  body : List Byte
deriving DecidableEq, Repr

/-- The scheduler's and the link's state (R351 to R373, R431 to R434). -/
structure Sched where
  subq : Table SubQ := []
  hctx : Table HCtx := []
  launches : List Launch := []
  lease : Table Lease := []
  ishare : BitVec 512 := 0
  nextLaunch : Nat := 1
  chans : Table Chan := [(0, { admin := true })]
  flog : List (List Byte) := []
  flogLost : Nat := 0
  apert : Table (BitVec 128) := []
  hostWin : Table (BitVec 128) := []
  journal : Nat := 0
  journalTail : Nat := 0
  sinceCkpt : Nat := 0
  /-- the queue served last, and the queues served in this turn of the scan (R354) -/
  lastServed : Nat := 1023
  served : List Nat := []
  /-- the primary has failed and no belayer has taken over; completions held back since: queue, index, status, extra (R368) -/
  down : Bool := false
  heldComps : List (Nat × Nat × Nat × Nat) := []
  /-- threads on their way here whose launch on their home device has been cancelled: identifier and launch (R18) -/
  doomed : List (Nat × Nat) := []
  out : List HostOut := []
  fabric : List Packet := []
  /-- packets that have left by the ports of this device, by port (R387, R438) -/
  sent : List (Nat × Packet) := []
  /-- packets not known to be delivered, by destination, bank and class, and packets held back for them (R137) -/
  sentTo : List (Nat × Nat × Nat) := []
  heldBack : List Packet := []
  tokens : List Token := []
  migs : List PageMig := []
  lostDevs : List Nat := []
  /-- threads of this device that run on another one, by identifier, with what stays at their reserved home slots (R37, R50) -/
  abroad : List (Nat × Thread) := []
  /-- open timed tasks of this device's instances whose threads run on other devices, by identifier (R115) -/
  roaming : List (Nat × Thread) := []
  /-- waiters of other devices for threads of this one: device, tag, thread and the number of its life (R246) -/
  joiners : List (Nat × Nat × Nat × Nat) := []
  images : List Image := []
deriving DecidableEq, Repr

/-! ### The bundle being executed -/

/-- How `exec` acts on the thread (R164): the whole bundle, its C-slot, or its A-slot. -/
inductive LMode where
  | lone | pairC | pairA
deriving DecidableEq, Repr

/-- What a slot of a pair came to (R164, R409): `wait` is a park that starts something outside the thread's bundle. -/
inductive Res where
  | ok
  | park (cause : Nat)
  | wait (cause : Nat)
  | trap (code : Nat) (tval : Word)
  | stop (c : Cause)
  | over
deriving DecidableEq, Repr

/-- A transfer of control that takes effect after the bundle (R164). -/
inductive Defer where
  | no
  | jump (target : Word)
  | call (target : Word)
  | ret
  | rte
  | retOpen
  | release
  | implicit
  | open_ (begun : Bool) (timed : Option (Nat × Word))
deriving DecidableEq, Repr

structure Latch where
  mode : LMode := .lone
  core : Nat := 0
  slot : Nat := 0
  len : Nat := 4
  word : BitVec 32 := 0
  pfx : Option Pfx := none
  exec : Bool := true
  /-- the thread before the bundle, whose registers the A-slot of a pair reads (R164) -/
  pre : Thread := {}
  /-- queue and port entries that the C-slot pushed, by number (R43) -/
  pushed : List Nat := []
  res : Res := .ok
  defer : Defer := .no
  /-- the stochastic-rounding generator as the slots of this bundle have stepped it (R149) -/
  sr : Option (BitVec 32) := none
  /-- while the earliest cause in the table of R337 is looked for: causes from this one on are passed -/
  skip : Nat := 0
deriving DecidableEq, Repr

/-- What a step of the hardware, the firmware, the host or another device is about, and what it brings from outside: a core, a
slot, a context, numbers of records, a control-space or link address, values, a packet, bytes. Each meaning says which of them
it reads. -/
structure Arg where
  c : Nat := 0
  h : Nat := 0
  x : Nat := 0
  id : Nat := 0
  m : Nat := 0
  n : Nat := 0
  addr : Nat := 0
  v : Word := 0
  w : Word := 0
  ok : Bool := false
  ks : List Word := []
  pkt : BitVec 512 := 0
  bytes : List Byte := []
  pairs : List (BitVec 32 × BitVec 32) := []
deriving DecidableEq, Repr

/-- A step waiting in the agenda. -/
structure Event where
  ins : Instr
  arg : Arg := {}
deriving DecidableEq, Repr

/-! ### The machine -/

structure State where
  /-- every memory of the module, by the keys of Machine/Ops.lean -/
  mem : List Host.Cell := []
  /-- base-camp words whose full/empty bit is full, by offset (R233) -/
  full : List Nat := []
  /-- poisoned words and the structure code of R414 -/
  poison : List (Nat × Nat) := []
  threads : Table Thread := []
  cores : Table Core := []
  ctxs : Table Ctx := []
  clusters : Table Cluster := []
  ropes : Table Rope := []
  dev : Dev := {}
  sched : Sched := {}
  ops : List Op := []
  flights : List (Nat × Flight) := []
  shoots : List Shoot := []
  bankQ : Table (List BankReq) := []
  bankWait : Table (List BankReq) := []
  /-- committed frontier of each domain instance (R115): 1,024 × kind + number -/
  frontier : Table Word := []
  /-- the model's own fields -/
  agenda : List Event := []
  /-- steps whose condition does not hold yet, offered again when the next s-cycle ends -/
  laterSteps : List Event := []
  /-- what the step being made is about -/
  arg : Arg := {}
  turn : Nat := 0
  latch : Latch := {}
  nextOp : Nat := 1
  draw : Nat := 0
deriving DecidableEq, Repr

/-- The machine stops with no fault: every trap the spec names is taken as the spec says. -/
inductive Fault where
deriving DecidableEq, Repr

/-- Why an instruction has no meaning. -/
inductive Refusal where
  /-- Raised by the dispatcher for an instruction whose meaning is not written; safe. -/
  | notModelled (mnemonic : String)
deriving DecidableEq, Repr

/-- The machine right after reset (R6, R336, R441, R445): no thread, no launch, memory with nothing listed, every register at
its reset value or at the value the assumption log names. -/
def State.reset : State := {}

end Sys2Proof.Machine
end

