-- ==== Sys2Proof/Config.lean ====
section
/-! DEFINITION. What the spec leaves open: free values and free functions, none of which has a value that a proof can see. -/

namespace Sys2Proof

/-- The victim that pseudo-LRU replacement takes in a full set (R96, R380), by a fresh number. Free value, log 8. -/
opaque Config.victim : Nat → Nat

/-- The special functions of R294 inside their bounds: function code (0 vexp2, 1 vlog2, 2 vrcp, 3 vrsqrt, 5 vtanh, 6 vsigm), type code
and operand bits. Free function, log 9. -/
opaque Config.special : Nat → Nat → BitVec 32 → BitVec 32

/-- The activations of R319 inside their bounds: code and FP32 bits. Free function, log 9. -/
opaque Config.activation : Nat → BitVec 32 → BitVec 32

/-- The Falcon-1024 identity signature over a message (R443), and the identity public key (R442). Free values, log 10. -/
opaque Config.signature : List Byte → List Byte
opaque Config.publicKey : List Byte

/-- The firmware version of the loaded image, and the SHAKE256 digest of the image, whose format the spec does not give (R443). Free values,
log 10. -/
opaque Config.firmwareVersion : BitVec 32
opaque Config.imageDigest : BitVec 256

/-- The sections of a context image after its slots, whose contents the spec names without giving their bytes (R422), by a fresh
number. Free value, log 11. -/
opaque Config.imageTail : Nat → List Byte

/-- What the sections after the slots of an image say whose bytes this device did not write (R422, R424). Free function, log 11. -/
opaque Config.imageRest : List Byte → Machine.Image

/-- The second value that a service answers where the spec states none (R217, R370), by a fresh number. Free value, log 14. -/
opaque Config.serviceSecond : Nat → BitVec 64

/-- The log ring of a context is full (R370), by a fresh number: the spec gives it no size. Free value, log 14. -/
opaque Config.logFull : Nat → Bool

/-- The mailbox words, first and count, that the scheduler gives a host context when it creates it (R360). Free value, log 15. -/
opaque Config.mailboxRange : Nat → Nat × Nat

/-- What the wear role computes for a die (R406): hours above 105 °C, stress and predicted days, in WEAR's bits, by a fresh number. Free
value, log 16. -/
opaque Config.wear : Nat → BitVec 48

/-- The result of an `rparr` that is neither counted nor late: withdrawn by `tabort`, or pending as its rope returns to IDLE (R239, R263, R271), by
a fresh number. Free value, log 144. -/
opaque Config.arrivalResult : Nat → BitVec 64

/-- What fills the place that an operation which ends in a fault had reserved in a queue register or mesh port (R43, R344), by a fresh number. Free
value, log 145. -/
opaque Config.faultedPlace : Nat → BitVec 64

/-- The cause code and address in the fault-log record of the thermal reset hold, for which R407 has no code, by a fresh number. Free value, log 17. -/
opaque Config.thermalRecord : Nat → BitVec 8 × BitVec 64

end Sys2Proof
end

