-- ==== Sys2Proof/Machine/Num.lean ====
section
/-! DEFINITION. Byte order, bit fields and exact-to-narrow helpers used by every meaning. -/

namespace Sys2Proof.Machine

/-- The `n` low bytes of `v`, lowest first (R3). -/
def toBytes : Nat → Nat → List Byte
  | 0, _ => []
  | n + 1, v => BitVec.ofNat 8 v :: toBytes n (v / 256)

/-- The number whose bytes, lowest first, are listed (R3). -/
def ofBytes : List Byte → Nat
  | [] => 0
  | b :: r => b.toNat + 256 * ofBytes r

/-- Bits `lo + n - 1` down to `lo` of `v`. -/
def bits (v lo n : Nat) : Nat := v / 2 ^ lo % 2 ^ n

/-- Bit `i` of `v`. -/
def bit (v i : Nat) : Bool := v / 2 ^ i % 2 == 1

def b2n (b : Bool) : Nat := if b then 1 else 0

/-- `v` with the `n` bits from `lo` replaced by those of `x`. -/
def putBits (v lo n x : Nat) : Nat := v - bits v lo n * 2 ^ lo + x % 2 ^ n * 2 ^ lo

/-- The value of the `n` low bits of `v` as two's complement. -/
def sInt (n v : Nat) : Int := if v % 2 ^ n < 2 ^ (n - 1) then (v % 2 ^ n : Int) else (v % 2 ^ n : Int) - 2 ^ n

/-- An integer narrowed to `n` bits. -/
def wrap (n : Nat) (x : Int) : Nat := (x % (2 ^ n : Int)).toNat

/-- `Sat(x, lo, hi)` of R7. -/
def satInt (lo hi x : Int) : Int := if x < lo then lo else if hi < x then hi else x

/-- The bytes of `l` from `i`, `n` of them. -/
def slice {α : Type} (l : List α) (i n : Nat) : List α := (l.drop i).take n

/-- The sequence number `a` has reached `r` (R383). -/
def reached (a r : Nat) : Bool := decide ((a + 2 ^ 32 - r % 2 ^ 32) % 2 ^ 32 < 2 ^ 31)

/-- The positions of the 1 bits of `v` among the lowest `n`. -/
def ones (n v : Nat) : List Nat := (List.range n).filter (bit v)

/-- The distinct elements, in order of first occurrence. -/
def distinct {α : Type} [DecidableEq α] : List α → List α
  | [] => []
  | a :: l => a :: (distinct l).filter (· != a)

/-- The ranges overlap: `n` from `a` and `m` from `b`. -/
def overlap (a n b m : Nat) : Bool := decide (a < b + m ∧ b < a + n)

end Sys2Proof.Machine
end

