-- ==== Sys2Proof/Machine/Ops.lean ====
section
/-! DEFINITION. The named operations over the state: places, memory, threads, commit and abort, taking an exception and returning
from one, and the way a meaning runs inside its bundle. -/

namespace Sys2Proof.Machine

/-! ### Places (R11, R12, R62) -/

def rowOf (c : Nat) : Nat := c / 32
def colOf (c : Nat) : Nat := c % 32
def clusterOf (c : Nat) : Nat := 8 * (rowOf c / 2) + colOf c / 4
def dieOf (c : Nat) : Nat := 2 * (rowOf c / 8) + colOf c / 16
/-- The index of a core in its cluster (R69). -/
def localOf (c : Nat) : Nat := 4 * (rowOf c % 2) + colOf c % 4
/-- The core with local index `j` of cluster `k`. -/
def coreOf (k j : Nat) : Nat := 32 * (2 * (k / 8) + j / 4) + 4 * (k % 8) + j % 4
def clusterCores (k : Nat) : List Nat := (List.range 8).map (coreOf k)

def State.thread (s : State) (c h : Nat) : Thread := Table.get {} (256 * c + h) s.threads
def State.setThread (s : State) (c h : Nat) (t : Thread) : State := { s with threads := Table.set (256 * c + h) t s.threads }
def State.modThread (s : State) (c h : Nat) (f : Thread → Thread) : State := s.setThread c h (f (s.thread c h))
/-- A change made to every live thread. -/
def State.mapThreads (s : State) (f : Thread → Thread) : State :=
  { s with threads := s.threads.map fun p => (p.1, if p.2.st = .empty then p.2 else f p.2) }
def State.core (s : State) (c : Nat) : Core := Table.get {} c s.cores
def State.setCore (s : State) (c : Nat) (k : Core) : State := { s with cores := Table.set c k s.cores }
def State.modCore (s : State) (c : Nat) (f : Core → Core) : State := s.setCore c (f (s.core c))
def State.ctx (s : State) (c x : Nat) : Ctx := Table.get {} (2 * c + x) s.ctxs
def State.setCtx (s : State) (c x : Nat) (k : Ctx) : State := { s with ctxs := Table.set (2 * c + x) k s.ctxs }
def State.modCtx (s : State) (c x : Nat) (f : Ctx → Ctx) : State := s.setCtx c x (f (s.ctx c x))
def State.cluster (s : State) (k : Nat) : Cluster := Table.get {} k s.clusters
def State.modCluster (s : State) (k : Nat) (f : Cluster → Cluster) : State :=
  { s with clusters := Table.set k (f (s.cluster k)) s.clusters }
def State.rope (s : State) (n : Nat) : Rope := Table.get {} n s.ropes
def State.modRope (s : State) (n : Nat) (f : Rope → Rope) : State := { s with ropes := Table.set n (f (s.rope n)) s.ropes }
def State.lease (s : State) (l : Nat) : Lease := Table.get {} l s.sched.lease
def State.modLease (s : State) (l : Nat) (f : Lease → Lease) : State :=
  { s with sched := { s.sched with lease := Table.set l (f (s.lease l)) s.sched.lease } }
def State.hctx (s : State) (n : Nat) : HCtx := Table.get {} n s.sched.hctx
def State.modHctx (s : State) (n : Nat) (f : HCtx → HCtx) : State :=
  { s with sched := { s.sched with hctx := Table.set n (f (s.hctx n)) s.sched.hctx } }
def State.subq (s : State) (n : Nat) : SubQ := Table.get {} n s.sched.subq
def State.modSubq (s : State) (n : Nat) (f : SubQ → SubQ) : State :=
  { s with sched := { s.sched with subq := Table.set n (f (s.subq n)) s.sched.subq } }
def State.modDev (s : State) (f : Dev → Dev) : State := { s with dev := f s.dev }
def State.modSched (s : State) (f : Sched → Sched) : State := { s with sched := f s.sched }

/-- The threads of core `c`, by slot. -/
def State.threadsOf (s : State) (c : Nat) : List (Nat × Thread) :=
  s.threads.filterMap fun p => if p.1 / 256 = c ∧ p.2.st ≠ .empty then some (p.1 % 256, p.2) else none

/-- Every live thread in a slot of the device. -/
def State.allThreads (s : State) : List Thread := s.threads.filterMap fun p => if p.2.st ≠ .empty then some p.2 else none

/-- The threads of saved launches (R421). -/
def State.savedThreads (s : State) : List Thread := s.sched.launches.flatMap fun n => n.images.flatMap fun i => i.slots.map Prod.snd

/-- Cores of the firmware column (R12). -/
def State.isFw (s : State) (c : Nat) : Bool := decide (rowOf c < 8 ∧ colOf c < s.dev.fww)

/-- Thread slots and vector registers of a core, as repair left them (R62, R389). -/
def State.slots (s : State) (c : Nat) : Nat := 256 - 32 * (Table.get (0, 0) c s.dev.repair).1
def State.vregs (s : State) (c : Nat) : Nat := 64 - 8 * (Table.get (0, 0) c s.dev.repair).2

/-- The slots of a class on a core (R13, R62). -/
def State.classSlots (s : State) (c x : Nat) : List Nat :=
  let n := s.slots c
  if x = 1 then (List.range 16).map (· + (n - 16))
  else List.range (n - 16)

/-- THID bits 31:0 (R59). -/
def thidOf (t : Thread) : Nat := 2 ^ 17 * t.hdev + 256 * t.hcore + t.hslot

/-- The slot of a live thread's record. -/
def State.find (s : State) (thid : Nat) : Option (Nat × Nat) :=
  (s.threads.find? fun p => decide (p.2.st ≠ .empty) && thidOf p.2 == thid).map fun p => (p.1 / 256, p.1 % 256)

/-- A thread of an image, changed in place. -/
def Image.modThread (i : Image) (thid : Nat) (f : Thread → Thread) : Image :=
  { i with slots := i.slots.map fun p => if thidOf p.2 = thid then (p.1, f p.2) else p }

/-- A thread of the saved images, changed in place. -/
def State.modSaved (s : State) (thid : Nat) (f : Thread → Thread) : State :=
  s.modSched fun q =>
    { q with launches := q.launches.map fun n => { n with images := n.images.map fun i => i.modThread thid f }
             images := q.images.map fun i => i.modThread thid f }

/-- A change made to every live thread in a slot, and to every thread of the saved images. -/
def State.mapEvery (s : State) (f : Thread → Thread) : State :=
  (s.mapThreads f).modSched fun q =>
    { q with launches := q.launches.map fun n => { n with images := n.images.map fun i => { i with slots := i.slots.map fun p => (p.1, f p.2) } }
             images := q.images.map fun i => { i with slots := i.slots.map fun p => (p.1, f p.2) } }

/-- A slot is free when it holds no thread and is the home of none (R37). -/
def State.slotFree (s : State) (c h : Nat) : Bool :=
  decide ((s.thread c h).st = .empty) &&
    !(s.allThreads.any fun t => t.hdev == s.dev.devno && t.hcore == c && t.hslot == h) &&
    !(s.sched.abroad.any fun p => p.1 == 2 ^ 17 * s.dev.devno + 256 * c + h)

/-- The lowest free slot of a class (R463). -/
def State.freeSlot (s : State) (c x : Nat) : Option Nat := (s.classSlots c x).find? (s.slotFree c)

/-- The core lies in the context's launch rectangle (R357). -/
def inRect (k : Ctx) (c : Nat) : Bool :=
  decide (k.top ≤ rowOf c ∧ rowOf c < k.top + k.high ∧ k.left ≤ colOf c ∧ colOf c < k.left + k.wide)

/-- The cores of a launch's rectangle. -/
def rectCores (k : Ctx) : List Nat := (List.range 512).filter (inRect k)

/-! ### Packets (R137, R387, R438) -/

/-- The entry of this device's routing table for a destination, in a bank (R387). -/
def State.route (s : State) (bank dst : Nat) : Nat := (Table.get 0#16 (8192 * bank + dst) s.dev.routes).toNat

/-- The device can be reached: its entry is valid and names a port, and no loss was declared (R387, R429, R444). -/
def State.reach (s : State) (dst : Nat) : Bool :=
  let e := s.route s.dev.rtInj dst
  !s.dev.active && !s.sched.lostDevs.contains dst && decide (dst < 8192) && bit e 15 && decide (bits e 0 3 < 6)

/-- A packet enters the router's buffers. -/
def State.enterRouter (s : State) (p : Packet) : State :=
  (s.modSched fun q => { q with fabric := q.fabric ++ [p] }).modDev fun d => { d with occ := Table.set p.bank (Table.get 0 p.bank d.occ + 1) d.occ }

/-- A packet of this device enters the router's buffers under the bank that INJ names; one to a destination to which packets of the other bank
are not known to be delivered is held back, and so is every later one to it (R137). -/
def State.sendPacket (s : State) (p : Packet) : State :=
  let p := { p with bank := s.dev.rtInj, src := s.dev.devno }
  if (s.sched.sentTo.any fun x => x.1 == p.dst && x.2.1 != p.bank) || s.sched.heldBack.any fun q => q.dst == p.dst then
    s.modSched fun q => { q with heldBack := q.heldBack ++ [p] }
  else (s.modSched fun q => { q with sentTo := q.sentTo ++ [(p.dst, p.bank, p.cls)] }).enterRouter p

/-- A packet of a class to a device is known to be delivered, a request by its answer: held packets to the device may leave (R137). -/
def State.deliveredTo (s : State) (dst cls : Nat) : State :=
  let s := s.modSched fun q => { q with sentTo := q.sentTo.eraseP fun x => x.1 == dst && x.2.2 == cls }
  if s.sched.sentTo.any fun x => x.1 == dst && x.2.1 != s.dev.rtInj then s
  else
    let go := s.sched.heldBack.filter fun p => p.dst == dst
    go.foldl State.sendPacket (s.modSched fun q => { q with heldBack := q.heldBack.filter fun p => p.dst != dst })

/-- A request to a device has been answered. -/
def State.answeredFrom (s : State) (dst : Nat) : State := s.deliveredTo dst 0

/-- A message to another device with a code and operand words: 1 `join`, 2 to 6 `rparm`, `rpjoin`, `rpwait`, `rpstat`, `rpleave`, 7 an
arrival withdrawn, 8 a thread retired away from its home, 9 one moved on to another device (R246, R255, R269). -/
def State.tell (s : State) (dev code tag : Nat) (ws : List Word) : State :=
  s.sendPacket { dst := dev, cls := 0, ty := 4, tag := tag, bank := 0, body := toBytes 8 code ++ ws.flatMap fun w => toBytes 8 w.toNat }

/-! ### Memory -/

def spKey (c o : Nat) : Nat := 0x0081000000000000 + c * 0x100000 + o
def poolKey (k o : Nat) : Nat := 0x0082000000000000 + k * 0x800000 + o
def campKey (o : Nat) : Nat := 0x0083000000000000 + o
def bootKey (o : Nat) : Nat := 0x00FF000208000000 + o

/-- The bank of a base-camp offset (R88). -/
def bankOf (o : Nat) : Nat := 256 * bits o 26 2 + bits o 6 8

/-- The base-camp offset behind a key. -/
def campOff (a : Nat) : Option Nat := if 0x0083000000000000 ≤ a ∧ a < 0x0083000010000000 then some (a - 0x0083000000000000) else none

/-- A place of a thread's home area on another device (R37), as a key that no memory of this device has. -/
def farKey (a : Nat) : Nat := a + 0x0004000000000000
def isFarKey (a : Nat) : Bool := decide (0x0085000000000000 ≤ a ∧ a < 0x0085000020000000)

/-- What a byte that nothing has written reads as: DESIGN CHOICE, log 1. -/
def emptyByte : Byte := 0

/-- The byte at a key. -/
def memGet (a : Nat) : List Host.Cell → Byte
  | [] => emptyByte
  | (k, b) :: m => if k = a then b else if a < k then emptyByte else memGet a m

/-- The memory with one byte written, in canonical form. -/
def memPut (a : Nat) (b : Byte) : List Host.Cell → List Host.Cell
  | [] => if b = emptyByte then [] else [(a, b)]
  | (k, w) :: m =>
    if k = a then (if b = emptyByte then m else (a, b) :: m)
    else if a < k then (if b = emptyByte then (k, w) :: m else (a, b) :: (k, w) :: m)
    else (k, w) :: memPut a b m

/-- Addresses strictly rise, and no entry equals what an unlisted address reads as. -/
def wfFrom (lo : Nat) : List Host.Cell → Bool
  | [] => true
  | (k, b) :: m => decide (lo ≤ k) && b != emptyByte && wfFrom (k + 1) m

def Memory.wf (m : List Host.Cell) : Bool := wfFrom 0 m

def memPuts (a : Nat) : List Byte → List Host.Cell → List Host.Cell
  | [], m => m
  | b :: r, m => memPuts (a + 1) r (memPut a b m)

def memGets (m : List Host.Cell) (a : Nat) : Nat → List Byte
  | 0 => []
  | n + 1 => memGet a m :: memGets m (a + 1) n

def State.byte (s : State) (a : Nat) : Byte := memGet a s.mem
def State.bytes (s : State) (a n : Nat) : List Byte := memGets s.mem a n
/-- `Mem[a, n]` of R7 at a key, little-endian. -/
def State.word (s : State) (a n : Nat) : Nat := ofBytes (s.bytes a n)

/-- Bytes written at a key; a word written whole loses its poison (R415). -/
def State.put (s : State) (a : Nat) (bs : List Byte) : State :=
  { s with mem := memPuts a bs s.mem
           poison := s.poison.filter fun p => !(decide (a ≤ p.1 ∧ p.1 + 8 ≤ a + bs.length)) }

/-- The structure code of a poisoned word among the bytes (R415). -/
def State.poisoned (s : State) (a n : Nat) : Option (Nat × Nat) := s.poison.find? fun p => overlap a n p.1 8

/-- An HBM byte of a page being moved, at its present place (R103). -/
def State.fwd (s : State) (pa : Nat) : Nat :=
  match s.sched.migs.find? fun m => decide (m.old ≤ pa ∧ pa < m.old + m.done) with
  | some m => m.new + (pa - m.old)
  | none => pa

/-! ### Counters and triggers (R398 to R404) -/

/-- Counts `n` events of code `ev` for slot `h` of context `x` (R398, R399). -/
def State.count (s : State) (c x h ev n : Nat) : State :=
  if (s.ctx c x).cnt.sel.isEmpty then s
  else s.modCtx c x fun k =>
    { k with cnt := k.cnt.sel.foldl (fun t p =>
        let v := p.2.toNat
        if p.1 < 8 ∧ bits v 0 8 = ev ∧ bit v 8 ∧ (¬ bit v 24 ∨ bits v 16 8 = h) then
          let old := Table.get 0 p.1 t.pc
          let t := { t with pc := Table.set p.1 ((old + n) % 2 ^ 48) t.pc }
          if 2 ^ 48 ≤ old + n then { t with sel := Table.set p.1 (BitVec.ofNat 64 (putBits v 25 1 1)) t.sel } else t
        else t) k.cnt }

/-- The cross-trigger fires (R404): FIRED is set, and every core's trace is to be told. -/
def State.fireTrigger (s : State) : State :=
  if s.dev.xFired then s
  else { s.modDev (fun d => { d with xFired := true }) with
         agenda := s.agenda ++ ((s.cores.filter fun p => p.2.trState == 1 && p.2.trXarm).map fun p => ⟨.crossTriggerArrival, { c := p.1 }⟩) }

/-- Watchpoints of a context against an access (R404); `kind` is 0 load, 1 store, 2 atomic. -/
def State.watch (s : State) (c x h va n kind : Nat) : State :=
  (s.ctx c x).cnt.watch.foldl (fun s p =>
    let w := p.2.toNat
    if bit w (96 + kind) ∧ bit w 99 ∧ overlap va n (bits w 0 64) (bits w 64 32) then
      let s := s.count c x h 19 1
      if bit w 100 then s.fireTrigger else s
    else s) s

/-! ### Stores landing (R108, R128, R347, R348) -/

/-- The valid source entries of a core that the bytes touch, with the 64-byte lines touched. -/
def State.srcHits (s : State) (c off n : Nat) : List (Nat × FLine × List Nat) :=
  (s.core c).src.filterMap fun p =>
    if p.2.v && overlap off n p.2.off (64 * p.2.len) then
      let lo := max off p.2.off - p.2.off
      let hi := min (off + n) (p.2.off + 64 * p.2.len) - p.2.off
      some (p.1, p.2, (List.range (hi / 64 + 1)).filter fun i => decide (lo / 64 ≤ i ∧ i * 64 < hi))
    else none

/-- One entry in the update out-queue: the line's bytes as they stand (R128, R347). -/
def State.update (s : State) (c e line : Nat) : State :=
  let k := s.core c
  let f := Table.get {} e k.src
  let seq := (f.seq + 1) % 2 ^ 32
  s.setCore c { k with src := Table.set e { f with seq := seq } k.src
                       outq := k.outq ++ [⟨f.peer, f.pidx, seq, 64 * line, s.bytes (spKey c (f.off + 64 * line)) 64⟩] }

/-- A BATCH window closes, once the out-queue has room for its update (R128, R348). -/
def State.closeBatch (s : State) (c e line : Nat) : State :=
  let k := s.core c
  if k.batch.contains (e, line) ∧ k.outq.length < 128 then
    (s.setCore c { k with batch := k.batch.filter (· != (e, line)), batchClk := k.batchClk.filter fun p => p.1 != 16384 * e + line }).update c e line
  else s

/-- The out-queue has room for the update of every open window (R347). -/
def State.closeRoom (s : State) (c : Nat) : Bool := decide ((s.core c).outq.length + (s.core c).batch.length ≤ 128)

/-- Every open window of a core closes, in opening order (R350). -/
def State.closeAll (s : State) (c : Nat) : State := (s.core c).batch.foldl (fun s p => s.closeBatch c p.1 p.2) s

/-- A BATCH store opens its window, closing the oldest when 32 are open (R348). -/
def State.openBatch (s : State) (c e line : Nat) : State :=
  if (s.core c).batch.contains (e, line) then s
  else
    let s := if 32 ≤ (s.core c).batch.length then
        match (s.core c).batch with | p :: _ => s.closeBatch c p.1 p.2 | [] => s
      else s
    s.modCore c fun k => { k with batch := k.batch ++ [(e, line)], batchClk := Table.set (16384 * e + line) s.dev.clock k.batchClk }

/-- The scratchpad core and offset of a key. -/
def spOf (a : Nat) : Option (Nat × Nat) :=
  if 0x0081000000000000 ≤ a ∧ a < 0x0081000020000000 then some ((a - 0x0081000000000000) / 0x100000, a % 0x100000) else none

/-- Core, entry and line of each update that bytes landing together at places of given lengths generate (R128): one for each line of each entry,
none where it has lapsed (R132). -/
def State.updatesOf (s : State) (ps : List (Nat × Nat)) : List (Nat × Nat × Nat) :=
  distinct (ps.flatMap fun p => match spOf p.1 with
    | some (d, o) => if p.2 = 0 then [] else (s.srcHits d o p.2).flatMap fun q => if q.2.1.lapsed then [] else q.2.2.map fun i => (d, q.1, i)
    | none => [])

/-- Bytes that have landed together generate their updates, or open BATCH windows (R128). -/
def State.updates (s : State) (ps : List (Nat × Nat)) : State :=
  (s.updatesOf ps).foldl (fun s u => if (Table.get {} u.2.1 (s.core u.1).src).batch then s.openBatch u.1 u.2.1 u.2.2 else s.update u.1 u.2.1 u.2.2) s

/-- The out-queue of core `c` has room for what these updates place there: one entry each in EACH mode, and one for each BATCH window that gives way to
a new one (R347, R348). -/
def State.queueRoom (s : State) (us : List (Nat × Nat × Nat)) (c : Nat) : Bool :=
  let k := s.core c
  let here := us.filter fun u => u.1 == c
  let each := here.filter fun u => !(Table.get {} u.2.1 k.src).batch
  let opens := here.filter fun u => (Table.get {} u.2.1 k.src).batch && !k.batch.contains u.2
  decide (k.outq.length + each.length + (k.batch.length + opens.length - 32) ≤ 128)

/-- Stores that land together find room for all their updates (R347). -/
def State.landRoom (s : State) (ps : List (Nat × Nat)) : Bool :=
  let us := s.updatesOf ps
  us.all fun u => s.queueRoom us u.1

/-- A store at an offset of a scratchpad finds room for its updates (R347). -/
def State.updateRoom (s : State) (c off n : Nat) : Bool := (s.core c).src.isEmpty || s.landRoom [(spKey c off, n)]

/-- Bytes are put at a key: memory, and a line of the issuing core's L1D that they hit (R96). -/
def State.lay (s : State) (c a : Nat) (bs : List Byte) : State :=
  match spOf a with
  | some _ => s.put a bs
  | none =>
    let s := s.put (s.fwd a) bs
    if (s.core c).l1d.isEmpty then s
    else s.modCore c fun k => { k with l1d := k.l1d.map fun l =>
      if (overlap a bs.length l.pa 64) then { l with bytes := memGets s.mem (s.fwd l.pa) 64 } else l }

/-- Bytes land at a key, with the updates of the fixed lines they touch (R128). -/
def State.land (s : State) (c a : Nat) (bs : List Byte) : State := (s.lay c a bs).updates [(a, bs.length)]

/-- Stores land together. -/
def State.landTogether (s : State) (put : State → BufStore → State) (ps : List BufStore) : State :=
  (ps.foldl put s).updates (ps.map fun b => (b.key, b.bytes.length))

/-! ### Bivouac areas (R36, R37, R64, R210) -/

/-- SPBASE's base and size, SPOVF and SPOLIM of a thread's home core (R64). -/
def State.homeArea (s : State) (t : Thread) : Nat × Nat × Nat × Nat :=
  match t.far with
  | some p => p
  | none => let k := s.ctx t.hcore t.x; (k.spBase, k.spSize, k.spOvf, k.spLim)

/-- The start of a thread's bivouac area and the top of its frame area, as addresses of its home scratchpad (R64, R210). -/
def State.bivB (s : State) (t : Thread) : Nat :=
  let k := s.homeArea t
  spKey t.hcore (k.1 * 64 + t.hslot * k.2.1 * 256)
def State.bivFT (s : State) (t : Thread) : Nat := s.bivB t + (s.homeArea t).2.1 * 256 - 192

/-- The home of the thread lies on another device, which serves its areas and keeps its snapshot (R37, R50). -/
def State.foreign (s : State) (t : Thread) : Bool := t.hdev != s.dev.devno

/-- The address of the trap window; the trap queue save stands 128 bytes below (R37). -/
def State.trapWin (s : State) (t : Thread) : Nat := s.bivFT t + 128

/-- Window `w` of a thread in its bivouac area, and in its overflow area below which `sc` windows stand in the bivouac area (R64, R210). -/
def State.bivWindow (s : State) (t : Thread) (w : Nat) : Nat := s.bivB t + 64 * (w - 1)
def State.ovfWindow (s : State) (t : Thread) (w : Nat) : Nat :=
  let k := s.homeArea t
  k.2.2.1 + t.hslot * k.2.2.2 * 64 + 64 * (w - t.sc - 1)

/-- The address of a thread's stored window number `w`, from 1 at the bottom: an own-device scratchpad key or a global address (R36, R64, R210). -/
def State.windowKey (s : State) (t : Thread) (w : Nat) : Nat :=
  match t.winAt.find? fun p => p.1 == w with
  | some p => p.2
  | none => if w ≤ t.sc then s.bivWindow t w else s.ovfWindow t w

/-! ### Task commit (R112 to R118) -/

/-- A name of a line for signatures and the commit buffer: the memory key for scratchpads, else the virtual address (R116). -/
def sigName (va key : Nat) : Nat := if (spOf key).isSome then key else va

/-- The two signature bits of a line (R116). -/
def sigBits (a : Nat) : Nat × Nat :=
  let A := bits a 6 50
  (bits A 0 10 ^^^ bits A 10 10 ^^^ bits A 20 10 ^^^ bits A 30 10 ^^^ bits A 40 10,
   bits A 5 10 ^^^ bits A 15 10 ^^^ bits A 25 10 ^^^ bits A 35 10 ^^^ bits A 45 5)

def setSig (g : BitVec 1024) (a : Nat) : BitVec 1024 :=
  let b := sigBits a
  g ||| (1#1024 <<< b.1) ||| (1#1024 <<< b.2)

def inSig (t : Thread) (a : Nat) : Bool :=
  let b := sigBits a
  let g := t.sigHome ||| t.sigHere
  g.getLsbD b.1 && g.getLsbD b.2

/-- Lines of 64 bytes that a list of ranges touches. -/
def linesOf (a n : Nat) : List Nat :=
  if n = 0 then [] else (List.range ((a + n - 1) / 64 - a / 64 + 1)).map fun i => a / 64 + i

def bufLines (b : List BufStore) : List Nat := distinct (b.flatMap fun x => linesOf x.key x.bytes.length)

/-- The order key of a timed task comes before another (R115). -/
def keyLt (a b : Thread) : Bool :=
  decide (a.tstamp.toNat < b.tstamp.toNat) || (a.tstamp == b.tstamp && decide (thidOf a < thidOf b))

/-- The threads whose open timed tasks this device knows: in slots, in transit, in saved images, and of its instances on other devices (R115). -/
def State.openTasks (s : State) : List Thread := s.allThreads ++ s.savedThreads ++ s.sched.roaming.map Prod.snd

/-- The open timed task of `t` is the head of its instance, as the instance's device knows it (R115). -/
def State.isHead (s : State) (t : Thread) : Bool :=
  match t.inst with
  | none => true
  | some i => if i.dev = s.dev.devno then !(s.openTasks.any fun u => u.timed && u.inst == some i && keyLt u t) else t.headOk

/-- The domain instance of a kind for a core of this device (R115). -/
def State.instOf (s : State) (kind c : Nat) : Instance :=
  if kind = 0 then ⟨0, clusterOf c, s.dev.devno⟩ else if kind = 1 then ⟨1, dieOf c, s.dev.devno⟩ else ⟨2, 0, s.dev.devno⟩

def State.frontierOf (s : State) (i : Instance) : Word := Table.get 0 (1024 * i.kind + i.num) s.frontier

/-- A timestamp below the frontier, or a key below that of a head-serialised task of the instance (R115, R237, R241). -/
def State.behind (s : State) (i : Instance) (t : Thread) (ts : Word) : Bool :=
  decide (ts.toNat < (s.frontierOf i).toNat) ||
    s.openTasks.any fun u => u.timed && u.serial && u.inst == some i && keyLt { t with tstamp := ts } u

/-- Operations of a thread that have not completed. -/
def State.opsOf (s : State) (c h : Nat) : List Op := s.ops.filter fun o => o.core == c && o.slot == h
/-- The thread's accesses that are not performed (R119). -/
def State.accessesOf (s : State) (c h : Nat) : List Op :=
  (s.opsOf c h).filter fun o => o.kind != .long && o.kind != .vec && o.kind != .spawn && o.kind != .send && o.kind != .pre && o.kind != .home

/-- Engine commands of a thread's task. -/
def cmdOf (t : Thread) (h : Nat) (m : Cmd) : Bool := m.slot == h && m.x == t.x && m.tseq == t.tseq && !m.cancelled

/-! ### Results that reach their places (R30, R43, R188) -/

/-- The side that a port faces from the neighbour's point of view: xn, xe, xs, xw are 0 to 3 (R43). -/
def opposite (side : Nat) : Nat := (side + 2) % 4

/-- The neighbour of a core on a side, inside the mesh. -/
def neighbour (c side : Nat) : Option Nat :=
  match side with
  | 0 => if rowOf c = 0 then none else some (c - 32)
  | 1 => if colOf c = 31 then none else some (c + 1)
  | 2 => if rowOf c = 15 then none else some (c + 32)
  | _ => if colOf c = 0 then none else some (c - 1)

/-- Register k4 + `i` of the `n`-th newest resident window, from 0. -/
def savedReg (n i : Nat) (v : Word) (l : List Window) : List Window :=
  l.mapIdx fun j w => if j ≠ n then w else
    if i = 0 then { w with k4 := v } else if i = 1 then { w with k5 := v } else if i = 2 then { w with k6 := v } else { w with k7 := v }

/-- The result queue with the entry of an operation replaced. -/
def fillEnt (id : Nat) (e : REnt) (l : List REnt) : List REnt := l.map fun x => if x = .pend id then e else x

def fillQ (id : Nat) (v : Word) (l : List QEnt) : List QEnt := l.map fun x => if x = .place id then .word v else x

/-- An operation leaves: its scoreboard slot falls (R40). -/
def State.dropOp (s : State) (o : Op) : State :=
  let s := { s with ops := s.ops.filter (·.id != o.id) }
  if o.sb = 0 then s
  else s.modThread o.core o.slot fun t => { t with sb := Table.set o.sb (Table.get 0 o.sb t.sb - 1) t.sb }

/-- The value of a completed operation reaches its destination, wherever that now stands (R30, R43, R188). -/
def State.giveValue (s : State) (o : Op) (v : Word) : State :=
  match o.dest with
  | .none => s
  | .result => s.modThread o.core o.slot fun t => { t with t := fillEnt o.id (.val v) t.t, lost := t.lost.filter (· != o.id) }
  | .named _ => s.modThread o.core o.slot fun t =>
    match t.regPend.find? fun p => p.2 == o.id with
    | none => t
    | some (r, _) =>
      let t := { t with regPend := t.regPend.filter (·.2 != o.id) }
      if r = 37 then { t with sp := v } else if 64 ≤ r then { t with win := savedReg (t.depth - (r - 64) / 4) (r % 4) v t.win }
      else { t with k := Table.set (r - 16) v t.k }
  | .queue x q => s.modCtx o.core x fun k => { k with q := Table.set q (fillQ o.id v (Table.get [] q k.q)) k.q }
  | .port side => match neighbour o.core side with
    | some d => s.modCtx d 0 fun k =>
      { k with port := Table.set (opposite side) (fillQ o.id v (Table.get [] (opposite side) k.port)) k.port }
    | none => s
  | .vregs _ => s.modThread o.core o.slot fun t => { t with vPend := t.vPend.filter (·.2 != o.id) }

/-- A fresh number for a free value. -/
def State.drawn (s : State) : Nat × State := (s.draw, { s with draw := s.draw + 1 })

/-! ### Ends of tasks -/

/-- Ends of a command give back its locks and its tiles (R123, R343). -/
def Core.freeCmd (k : Core) (m : Cmd) : Core :=
  { k with locks := k.locks.filter (·.cmd != m.id)
           cmds := k.cmds.filter (·.id != m.id)
           tiles := m.tiles.foldl (fun t n => let g := Table.get {} n t; Table.set n { g with busy := g.busy - 1 } t) k.tiles }

/-- The engine commands of a task are cancelled (R116, R303): those not begun leave their ports, running ones stop at their
next interruptible step. -/
def State.cancelCmds (s : State) (c h : Nat) : State :=
  let t := s.thread c h
  let gone := ((s.core c).cmds.filter (cmdOf t h)).map (·.id)
  let s := s.setThread c h { t with promises := t.promises.filter fun p => !gone.contains p.2 }
  s.modCore c fun k =>
    let k := (k.cmds.filter fun m => cmdOf t h m && !m.running).foldl Core.freeCmd k
    { k with cmds := k.cmds.map fun m => if cmdOf t h m then { m with cancelled := true } else m }

/-- An arrival of a rope member that is not counted is withdrawn; its result, which the spec does not state, is a free value (R117, R239, R271: log
144). -/
def State.withdrawArrival (s : State) (c h : Nat) : State :=
  let t := s.thread c h
  if !t.arriving then s
  else
    let s := match t.mem with
      | some m =>
        if m.dev = s.dev.devno then s.modRope m.rope fun r => { r with pend := r.pend.filter fun p => p.m != m.idx || p.counted }
        else s.tell m.dev 7 0 [BitVec.ofNat 64 (m.rope + 65536 * m.idx)]
      | none => s
    let s := s.modCore c fun k => { k with locks := k.locks.filter fun l => !(l.eng == 5 && l.slot == h) }
    ((s.opsOf c h).filter (·.kind == .pre)).foldl (fun s o =>
      let (d, s) := s.drawn
      (s.dropOp o).giveValue o (Config.arrivalResult d)) (s.modThread c h fun t => { t with arriving := false })

/-- A timed task leaves its instance, which on another device is told; a commit advances the frontier (R115). -/
def State.leaveInstance (s : State) (t : Thread) (done : Bool) : State :=
  match t.timed, t.inst with
  | true, some i =>
    if i.dev ≠ s.dev.devno then s.tell i.dev 17 0 [BitVec.ofNat 64 (thidOf t), BitVec.ofNat 64 (b2n done), t.tstamp, BitVec.ofNat 64 (1024 * i.kind + i.num)]
    else if done then
      { s with frontier := Table.set (1024 * i.kind + i.num) (if (s.frontierOf i).toNat < t.tstamp.toNat then t.tstamp else s.frontierOf i) s.frontier }
    else s
  | _, _ => s

/-- Steps 1 to 3 of `tabort` (R239), the part every end without commit shares (R412). -/
def State.abandon (s : State) (c h : Nat) : State :=
  let s := (s.cancelCmds c h).withdrawArrival c h
  let drop : Op → Op := fun o => if o.core = c ∧ o.slot = h then { o with pieces := [] } else o
  let s := { s with ops := s.ops.map drop }.leaveInstance (s.thread c h) false
  s.modThread c h fun t => { t with buf := [], timed := false, inst := none, serial := false, headOk := false, sigHome := 0, sigHere := 0, sigAway := false }

/-- Requests are taken away from the banks. -/
def State.leaveBanks (s : State) (ids : List Nat) : State :=
  let out := fun (p : Nat × List BankReq) => (p.1, p.2.filter fun r => match r with | .op id => !ids.contains id | _ => true)
  { s with bankQ := s.bankQ.map out, bankWait := s.bankWait.map out }

/-- The operations of a thread that an abort leaves at large: they go on, filling the places that they have reserved in queues, ports and vector
registers, and nothing of them is taken otherwise; a full/empty request is withdrawn (R34, R43, R116, R271, R299, R344). -/
def State.orphanOps (s : State) (c h : Nat) : State :=
  let gone := ((s.opsOf c h).filter fun o => o.kind == .fe || o.kind == .home).map (·.id)
  let s := s.leaveBanks gone
  { s with ops := (s.ops.filter fun o => !gone.contains o.id).map fun o =>
      if o.core == c ∧ o.slot == h then { o with dropped := true, sb := 0, pieces := [] } else o }

/-- Registers as an abort restores them (R34, R47): the snapshot, with the windows pushed since it discarded; where the two newest that remain have left the
core since, they stand where they were put. The barrier arrival of the task itself stands (R253). -/
def State.restored (s : State) (t : Thread) : Thread :=
  let win := t.win.drop (t.depth - t.snap.depth)
  let out := (List.range (min 2 t.snap.depth - win.length)).map fun i => (t.snap.depth - win.length - i, s.windowKey t (t.snap.depth - win.length - i))
  { t with pc := t.snap.pc, src := none, k := t.snap.k, sp := t.snap.sp, pred := t.snap.pred, win := win, winAt := out
           depth := t.snap.depth, sc := t.snap.sc, oc := t.snap.oc, sb := [], regPend := [], vPend := [], intrap := false, trapDue := none
           due := [], held := [], wait := .none, leave := .no, opening := false, buf := [], sigHome := 0, sigHere := 0, sigAway := false
           arr := t.arr.map fun a => { a with stood := a.stood || a.task == t.tseq } }

/-- The thread has parked since it last issued (an issue sets `elig` 8 s-cycles on). -/
def Thread.released (t : Thread) : Bool := decide (t.elig ≤ t.since + 8)

/-- Parks a thread with a cause of R337; a thread that is leaving stays so. The stamp of its parking is that of its first parking since its last
issue. -/
def parkTh (cause clock : Nat) (t : Thread) : Thread :=
  { t with pcause := cause, st := if t.st = .leaving ∧ t.leave ≠ .no then .leaving else .parked, since := if t.st = .parked ∨ t.released then t.since else clock }

/-- A thread becomes READY (R338). -/
def readyTh (clock : Nat) (t : Thread) : Thread := { t with st := .ready, pcause := 0, rs := clock }

/-- A restart waits for the operation: it fills an entry, a named register or vector registers of the thread (R34, R299). -/
def Op.awaited (o : Op) : Bool :=
  match o.dest with
  | .result | .named _ | .vregs _ => true
  | _ => o.kind == .home

/-- The thread's restart need wait no longer: no awaited operation is at large, and its two newest windows are back. -/
def State.mayRestart (s : State) (c h : Nat) : Bool := !((s.opsOf c h).any Op.awaited) && (s.thread c h).winAt.isEmpty

/-- The device that holds a thread's home is asked for something or told something (R37, R50), by a message of the codes from 10 on. -/
def State.askHome (s : State) (c h aop : Nat) (code : Nat) (ws : List Word) : State :=
  let t := s.thread c h
  let o : Op := { id := s.nextOp, kind := .home, core := c, slot := h, thid := thidOf t, tseq := t.tseq, pc := t.pc, aop := aop, at_ := 1, tgt := t.hdev }
  ({ s with ops := s.ops ++ [o], nextOp := s.nextOp + 1 }).tell t.hdev code o.id (BitVec.ofNat 64 (thidOf t) :: ws)

/-- The device of a timed task's instance, being another one, is asked whether the task is head (`what` 0), or may have the timestamp `ts` (`what` 1)
(R115). -/
def State.askInstance (s : State) (c h : Nat) (i : Instance) (aop what : Nat) (ts : Word) : State :=
  let t := s.thread c h
  let o : Op := { id := s.nextOp, kind := .home, core := c, slot := h, thid := thidOf t, tseq := t.tseq, pc := t.pc, aop := aop, at_ := 1, tgt := i.dev }
  ({ s with ops := s.ops ++ [o], nextOp := s.nextOp + 1 }).tell i.dev 16 o.id
    [BitVec.ofNat 64 (thidOf t), ts, BitVec.ofNat 64 (1024 * i.kind + i.num), BitVec.ofNat 64 what]

/-- A snapshot as twelve words, in the order and form of the slot control part (R376). -/
def snapWords (z : Snap) : List Word :=
  [z.pc] ++ ((List.range 8).map fun i => Table.get 0 i z.k) ++
    [z.sp, BitVec.ofNat 64 (z.pred.toNat + 2 ^ 16 * z.depth), BitVec.ofNat 64 (z.sc + 2 ^ 16 * z.oc)]

def snapOf (ws : List Word) : Snap :=
  let w := fun (i : Nat) => ws.getD i 0
  { pc := w 0, k := (List.range 8).map fun i => (i, w (1 + i)), sp := w 9, pred := (w 10).setWidth 16 ||| 1, depth := bits (w 10).toNat 16 16
    sc := bits (w 11).toNat 0 16, oc := bits (w 11).toNat 16 24 }

/-- What a thread's registers are, as a snapshot at `pc` (R47). -/
def snapAt (t : Thread) (pc : Word) : Snap := ⟨pc, t.k, t.sp, t.pred, t.depth, t.sc, t.oc⟩

/-- A task opens (R236, R237): the snapshot at `pc`, which goes to the home slot where that lies on another device (R50), the task sequence, and
the quota of R65. Under versions 1 and 2 the one task is head-serialised from its start (R180). -/
def State.openTask (s : State) (c h : Nat) (pc : Word) (begun : Bool) (timed : Option (Nat × Word)) : State :=
  let t := s.thread c h
  let k := s.ctx c t.x
  let t := { t with
    task := true, begun := begun, opening := false, serial := decide (k.ver < 3), tseq := (t.tseq + 1) % 65536, tq := k.tq, buf := []
    snap := snapAt t pc, sigHome := 0, sigHere := 0, sigAway := false, headOk := false }
  let s := match timed with
    | none => s.setThread c h { t with timed := false, inst := none }
    | some (kind, ts) => s.setThread c h { t with timed := true, cdom := BitVec.ofNat 2 kind, tstamp := ts, inst := some (s.instOf kind c) }
  if s.foreign t then s.askHome c h 3 12 (snapWords (snapAt t pc)) else s

/-- The implicit task after a bundle's end opens, or is left to open, as the context drains (R236, R365). -/
def State.openNext (s : State) (c h : Nat) : State :=
  let t := s.thread c h
  if (s.ctx c t.x).drain then s.modThread c h fun t => { t with task := false, timed := false, inst := none, opening := true }
  else s.openTask c h t.pc false none

/-- A killed thread whose registers are restored goes to its handler with k0 holding the rope word, in a new implicit task (R47, R259). -/
def State.toHandler (s : State) (c h : Nat) : State :=
  let t := s.thread c h
  match t.killing, t.kill with
  | true, some n =>
    (s.modThread c h fun t => { t with killing := false, kill := none, k := Table.set 0 n.word t.k, pc := t.killPc, src := none }).openNext c h
  | _, _ => s

/-- Result entries all valid zero, once no awaited operation is at large (R34): the restarted thread may be re-tested, a killed one at its handler. -/
def State.finishRestart (s : State) (c h : Nat) : State :=
  if (s.thread c h).restart && s.mayRestart c h then
    (s.modThread c h fun t => { t with t := [], lost := [], restart := false }).toHandler c h
  else s

/-- A thread takes its snapshot back, or asks for it where its home lies on another device (R47, R50), and is to start anew. -/
def State.startAnew (s : State) (c h : Nat) : State :=
  let t := s.thread c h
  if s.foreign t then (s.modThread c h fun t => parkTh 0 s.dev.clock { t with restart := true, buf := [], wait := .none, leave := .no }).askHome c h 2 13 []
  else
    let u := { s.restored t with restart := true, st := if t.st = .leaving then .parked else t.st }
    (s.setThread c h (if (s.setThread c h u).mayRestart c h then u else parkTh 0 s.dev.clock u)).finishRestart c h

/-- A task aborts and runs again from its snapshot (R116, R34, R47). -/
def State.abortTask (s : State) (c h : Nat) : State :=
  let t0 := s.thread c h
  let s := (s.cancelCmds c h).withdrawArrival c h
  let s := s.orphanOps c h
  let ser := decide ((s.ctx c t0.x).ver < 3)
  (s.modThread c h fun t => { t with serial := ser }).startAnew c h

/-- The home slot's part of a travelled thread's signature is tested at its home device, whose answer goes to where the thread now runs (R50, R116). -/
def State.checkHome (s : State) (thid name : Nat) : State :=
  if thid / 2 ^ 17 ≠ s.dev.devno then s.tell (thid / 2 ^ 17) 19 0 [BitVec.ofNat 64 thid, BitVec.ofNat 64 name]
  else match s.sched.abroad.find? fun p => p.1 == thid with
    | some (_, t) => (match t.leave with
      | .migrate d _ => s.tell d 21 0 [BitVec.ofNat 64 thid, BitVec.ofNat 64 name, BitVec.ofNat 64 (b2n (inSig { t with sigHere := 0 } name))]
      | _ => s)
    | none => s

/-- A later task that runs on this device aborts, counted (R116). -/
def State.conflictAt (s : State) (c h : Nat) : State := (s.count c (s.thread c h).x h 11 1).abortTask c h

/-- A landed line's effect on the later tasks of the instance: those that read it abort (R116). The instance's device is told of it, and asks after the
signatures that stand elsewhere. -/
def State.conflict (s : State) (by_ : Thread) (name : Nat) : State :=
  match by_.inst with
  | none => s
  | some i =>
    if i.dev ≠ s.dev.devno then
      s.tell i.dev 18 0 [BitVec.ofNat 64 (thidOf by_), by_.tstamp, BitVec.ofNat 64 (1024 * i.kind + i.num), BitVec.ofNat 64 name]
    else
      let later := fun (t : Thread) => decide (t.timed ∧ t.inst = some i ∧ keyLt by_ t ∧ ¬ t.serial)
      let s := s.sched.roaming.foldl (fun s p => if later p.2 then s.checkHome p.1 name else s) s
      s.threads.foldl (fun s p =>
        let t := s.thread (p.1 / 256) (p.1 % 256)
        if t.st = .empty ∨ later t = false then s
        else if inSig t name then s.conflictAt (p.1 / 256) (p.1 % 256)
        else if t.sigAway then s.checkHome (thidOf t) name else s) s

/-- The host bus address behind a host-window key, where the window is enabled (R434). -/
def State.hostAddr (s : State) (a : Nat) : Nat :=
  let w := (a - 0x0084000000000000) / 0x1000000000
  let e := (Table.get 0#128 w s.sched.hostWin).toNat
  bits e 76 52 * 4096 + a % 0x1000000000

def isHostKey (a : Nat) : Bool := decide (0x0084000000000000 ≤ a ∧ a < 0x0085000000000000)

/-- The bytes that a store leaves at its place: whole, or merged with those standing there (R121). -/
def State.merged (s : State) (b : BufStore) : List Byte :=
  if b.mask.isEmpty then b.bytes
  else (b.bytes.zip b.mask).zipIdx.map fun p => (p.1.1 &&& p.1.2) ||| (s.byte (b.key + p.2) &&& ~~~p.1.2)

/-- The thread waits at a barrier (R253, R417). -/
def inBarrier : Wait → Bool
  | .barrier | .barq _ => true
  | _ => false

def isCtlKey (a : Nat) : Bool := decide (0x00FF000000000000 ≤ a ∧ a < 0x0100000000000000)

/-- What a message says of bytes for a place of a thread's home areas: the place, their number, and the bytes by words. -/
def areaWords (a : Nat) (bs : List Byte) : List Word :=
  [BitVec.ofNat 64 a, BitVec.ofNat 64 bs.length] ++ (List.range ((bs.length + 7) / 8)).map fun i => BitVec.ofNat 64 (ofBytes (slice bs (8 * i) 8))

/-- Bytes go to a place of the thread's home areas: here, or by a message to its home device (R37). -/
def State.homePut (s : State) (t : Thread) (a : Nat) (bs : List Byte) : State :=
  if s.foreign t then s.tell t.hdev 10 0 (BitVec.ofNat 64 (thidOf t) :: areaWords a bs) else s.put a bs

/-- One buffered store of a thread becomes visible (R113, R114), with its watchpoints and its check against later tasks; its updates follow
with those of the stores that land with it. -/
def State.landStore (s : State) (c h : Nat) (b : BufStore) : State :=
  let t := s.thread c h
  if b.bytes.isEmpty then s
  else
    let s := if isHostKey b.key then
        (s.modSched fun q => { q with out := q.out ++ [.write (s.hostAddr b.key) b.bytes] }).modThread c h fun t =>
          { t with hostDirty := distinct (((b.key - 0x0084000000000000) / 0x1000000000) :: t.hostDirty) }
      else if isCtlKey b.key then
        { s with agenda := s.agenda ++ [⟨.registerWrite, { c := c, h := h, addr := b.key, bytes := b.bytes }⟩] }
      else if isFarKey b.key then s.homePut t b.va.toNat b.bytes
      else s.lay c b.key (s.merged b)
    let s := s.watch c t.x h (sigName b.va.toNat b.key) b.bytes.length 1
    if t.timed then (linesOf (sigName b.va.toNat b.key) b.bytes.length).foldl (fun s l => s.conflict t (64 * l)) s else s

/-- Host-window stores of a commit go in the order of their lines' addresses, after the others (R114). -/
def commitOrder (b : List BufStore) : List BufStore :=
  b.filter (fun x => !isHostKey x.key) ++ (b.filter fun x => isHostKey x.key).mergeSort fun x y => decide (x.key / 64 ≤ y.key / 64)

/-- The stores of the open task that stand in the commit buffer become visible together (R113, R118). -/
def State.landBuf (s : State) (c h : Nat) : State :=
  let t := s.thread c h
  let s := s.count c t.x h 9 (bufLines t.buf).length
  let s := s.landTogether (fun s b => s.landStore c h b) (commitOrder t.buf)
  s.modThread c h fun t => { t with buf := [] }

/-- A write of the control space that must wait: of a routing-table bank with packets still stamped with it (R387), or of a barrier register
while a thread of its core is parked in `bar` on it (R67), as a park cause. -/
def State.ctlHolds (s : State) (a : Nat) : Option Nat :=
  let o := a - 0x00FF000000000000
  if 0x202000000 ≤ o ∧ o < 0x202008000 then (if Table.get 0 ((o - 0x202000000) / 0x4000) s.dev.occ = 0 then none else some 6)
  else
    let c := o / 0x100000
    let r := o % 0x100000
    let x := if 0x32000 ≤ r then 1 else 0
    let n := (r - 0x30000 - 0x2000 * x) / 8 - 0x20
    if c < 512 ∧ (0x30100 ≤ r ∧ r < 0x30180 ∨ 0x32100 ≤ r ∧ r < 0x32180) ∧ (s.threadsOf c).any (fun p =>
        p.2.x == x && inBarrier p.2.wait && (match p.2.arr with | some b => b.bg == n | none => false)) then some 7
    else none

/-- An access to a base-camp bank that core `c` sent before operation `n` has not arrived there, or waits for its turn there (R91). -/
def State.bankPending (s : State) (c b n : Nat) : Bool :=
  s.ops.any fun q => decide (q.id < n ∧ q.core = c ∧ (campOff q.addr.toNat).map bankOf = some b) && (match q.kind with
    | .load | .vload => true
    | .atomic | .fe => q.at_ == 0 || (Table.get [] b s.bankQ).contains (.op q.id)
    | .store | .vstore => (s.thread q.core q.slot).serial && !q.pieces.isEmpty
    | _ => false)

/-- Why stores of core `c` cannot land now, as a park cause: a range lock on bytes of theirs, accesses that the core sent to their bank before, no room
for their updates together, or a register that must not be written yet (R91, R126, R347, R387). -/
def State.landWait (s : State) (c : Nat) (bs : List BufStore) : Option Nat :=
  if bs.any (fun b => match campOff b.key with | some p => s.bankPending c (bankOf p) s.nextOp | none => false) then some 6
  else if bs.any (fun b => match spOf b.key with
      | some (d, o) => (s.core d).locks.any fun l => overlap o b.bytes.length l.lo (l.hi + 1 - l.lo)
      | none => false) then some 6
  else if !s.landRoom (bs.map fun b => (b.key, b.bytes.length)) then some 13
  else bs.findSome? fun b => if isCtlKey b.key then s.ctlHolds b.key else none

/-- Why the open task cannot commit yet, as a park cause: an access of the thread is not performed, it is not its turn, or its stores cannot land (R110,
R114, R115, R126, R347). -/
def State.commitWait (s : State) (c h : Nat) : Option Nat :=
  let t := s.thread c h
  if !(s.accessesOf c h).isEmpty then some 6
  else if t.timed && !s.isHead t then some 10
  else s.landWait c t.buf

/-- Why what a task has buffered cannot land yet as it becomes head-serialised (R118, R126, R347). -/
def State.serialWait (s : State) (c h : Nat) : Option Nat :=
  let t := s.thread c h
  if t.serial then none else s.landWait c t.buf

/-- The open task commits (R113 to R115): its stores land, and a timed task advances the frontier and leaves its instance. -/
def State.commit (s : State) (c h : Nat) : State :=
  let t := s.thread c h
  let s := ((s.landBuf c h).count c t.x h 10 1).leaveInstance t true
  s.modThread c h fun t => { t with timed := false, inst := none, serial := false, headOk := false, sigHome := 0, sigHere := 0, sigAway := false, held := [] }

/-- A task becomes head-serialised (R118): what it has buffered lands, and later stores are written through. -/
def State.serialise (s : State) (c h : Nat) : State :=
  let t := s.thread c h
  if t.serial then s
  else ((s.landBuf c h).count c t.x h 12 1).modThread c h fun t => { t with serial := true }

/-! ### Firmware records (R372, R413) -/

/-- DTIME in nanoseconds (R395). -/
def State.now (s : State) : Nat := s.dev.dtime / 2 ^ 32

/-- A reply or unasked record goes to a management channel's ring (R371): its bytes are written to host memory at MRTAIL, and the
channel's interrupt is raised. -/
def State.channelOut (s : State) (m : Nat) (rec : List Byte) : State :=
  let ch := Table.get {} m s.sched.chans
  let sz := 2 ^ ch.sz
  let pos := ch.rtail % sz
  let skip := if sz < pos + rec.length then sz - pos else 0
  let hd : List Byte := if skip = 0 then [] else toBytes 8 (skip - 8 + 2 ^ 63)
  let out : List HostOut := (if skip = 0 then [] else [HostOut.write (ch.rbase + pos) hd]) ++
    [.write (ch.rbase + (pos + skip) % sz) rec, .msix (1024 + m)]
  s.modSched fun q => { q with out := q.out ++ out
                               chans := Table.set m { ch with rtail := (ch.rtail + skip + rec.length) % 2 ^ 32 } q.chans }

/-- A record fits before MRHEAD (R371). -/
def chanRoom (ch : Chan) (n : Nat) : Bool :=
  let sz := 2 ^ ch.sz
  let pos := ch.rtail % sz
  let need := n + if sz < pos + n then sz - pos else 0
  decide ((ch.rtail + 2 ^ 32 - ch.rhead) % 2 ^ 32 + need ≤ sz)

/-- A byte-ring record (R367). -/
def ringRec (ty : Nat) (body : List Byte) : List Byte := toBytes 8 (body.length + 2 ^ 32 * ty) ++ body

/-- A record of channel 0 that finds no room is kept, with the newest 4,096 (R372). -/
def State.keepRecord (s : State) (r : List Byte) : State :=
  s.modSched fun q =>
    if q.flog.length < 4096 then { q with flog := q.flog ++ [r] }
    else { q with flog := q.flog.drop 1 ++ [r], flogLost := q.flogLost + 1 }

/-- A FLOG record of the device fault log (R372), kept where channel 0 has no room. -/
def State.flog (s : State) (code cls core l : Nat) (tval : Word) : State :=
  let body := toBytes 1 code ++ toBytes 1 cls ++ toBytes 2 core ++ toBytes 1 l ++ toBytes 3 0 ++ toBytes 8 tval.toNat ++ toBytes 8 s.now
  let r := ringRec 0x9000 body
  let ch := Table.get {} 0 s.sched.chans
  if ch.en && chanRoom ch r.length && s.sched.flog.isEmpty then s.channelOut 0 r else s.keepRecord r

/-- A fault record in the ring of the launch context (R413), and its FLOG record (R372). -/
def State.faultRecord (s : State) (c h : Nat) (z : Cause) (cls replay : Nat) : State :=
  let t := s.thread c h
  let k := s.ctx c t.x
  let le := s.lease k.l
  let rec64 := toBytes 1 z.code ++ toBytes 1 cls ++ toBytes 1 (b2n z.aslot + 2 * b2n z.both + 4 * b2n t.intrap) ++ toBytes 1 z.code2 ++
    toBytes 4 (thidOf t) ++ toBytes 8 z.pc.toNat ++ toBytes 8 z.tval.toNat ++ toBytes 8 s.now ++ toBytes 8 t.tstamp.toNat ++
    toBytes 8 k.launch ++ toBytes 2 c ++ toBytes 2 replay ++ toBytes 12 0
  let s := s.put (le.saveBase + 64 * (le.fcnt % 1024)) rec64
  (s.modLease k.l fun e => { e with fcnt := e.fcnt + 1 }).flog z.code cls c k.l z.tval

/-! ### Taking an exception (R407 to R412) -/

/-- Classes of R407: 0 user-recoverable, 1 task-fatal, 2 team-replay, 3 device level. -/
def classOf (code : Nat) : Nat := if code < 0x10 then 0 else if code < 0x30 then 1 else if code = 0x30 then 2 else 3

/-- The class a cause is handled in at a thread (R408, R409, R420). -/
def State.classAt (s : State) (c h : Nat) (z : Cause) : Nat :=
  let t := s.thread c h
  let k := s.ctx c t.x
  let own := max (classOf z.code) (if z.both then classOf z.code2 else 0)
  if t.fwm then 3
  else if own = 0 then (if t.tvec = 0 ∨ t.intrap then 1 else 0)
  else if own = 2 then (if bit k.caps.toNat 4 && decide (k.replays < 3) then 2 else 1)
  else own

/-- The value of TCAUSE for a cause (R59). -/
def tcause (z : Cause) : Nat := z.code + 256 * b2n z.aslot + 512 * b2n z.both + 65536 * (if z.both then z.code2 else 0)

def entVal : REnt → Word
  | .val v => v
  | _ => 0

/-- A pending entry of the result queue, or a pending register (R30, R47). -/
def hasPending (t : Thread) : Bool :=
  t.t.any (fun e => match e with | .pend _ => true | _ => false) || !t.regPend.isEmpty

/-- The faulted entry whose operation issued first (R47). -/
def badEntry (t : Thread) : Option Cause :=
  t.t.foldl (fun b e => match e, b with
    | .bad _ z, none => some z
    | .bad _ z, some y => if z.op < y.op then some z else some y
    | _, b => b) none

/-- The thread ends (R412): its task is abandoned, a fault record is written, and it retires without a commit. -/
def State.fatal (s : State) (c h : Nat) (z : Cause) (cls replay : Nat) : State :=
  let s := (s.faultRecord c h z cls replay).abandon c h
  let s := s.orphanOps c h
  s.modThread c h fun t => { t with st := .leaving, leave := .fatal, wait := .none, trapDue := none, due := [], held := [], restart := false
                                    regPend := [], vPend := [] }

/-- Delivery of a user-recoverable trap (R47, R60, R411): the result queue goes to the trap queue save, k4 to k7, TPC, sp, TVAL, the
predicate word and TCAUSE to the trap window; k4 to k7 become zero; INTRAP is set; the thread starts at TVEC. -/
def State.deliver (s : State) (c h : Nat) (z : Cause) : State :=
  let t := s.thread c h
  let s := s.homePut t (s.trapWin t - 128) (((List.range 16).flatMap fun i => toBytes 8 (entVal (t.t.getD i (.val 0))).toNat) ++
    (List.range 4).flatMap (fun i => toBytes 8 (Table.get 0 (4 + i) t.k).toNat) ++ toBytes 8 z.pc.toNat ++
    toBytes 8 t.sp.toNat ++ toBytes 8 z.tval.toNat ++ toBytes 2 t.pred.toNat ++ toBytes 2 0 ++ toBytes 4 (tcause z))
  let s := if z.code = 5 then s.count c t.x h 13 1 else if z.code = 4 then s.count c t.x h 20 1 else s
  s.modThread c h fun t => readyTh s.dev.clock
    { t with k := (List.range 4).foldl (fun k i => Table.set (4 + i) 0 k) t.k, intrap := true, trapDepth := t.depth, pc := t.tvec, src := some z.pc
             trapDue := none, wait := .none }

/-- A cause is handled in its class, with no wait for pending entries (R408, R411, R412, R418). -/
def State.takePlain (s : State) (c h : Nat) (z : Cause) : State :=
  match s.classAt c h z with
  | 0 => s.deliver c h z
  | 1 =>
    let k := s.ctx c (s.thread c h).x
    let r := (if z.code = 0x30 then k.replays else 0)
    let s := s.fatal c h z 1 r
    if z.code = 0x30 ∧ bit k.caps.toNat 4 then { s with agenda := ⟨.teamRollback, { c := c, h := h, x := (s.thread c h).x, m := 1, v := z.tval }⟩ :: s.agenda } else s
  | 2 =>
    let s := s.faultRecord c h z 2 (s.ctx c (s.thread c h).x).replays
    { s.modThread c h (fun t => parkTh 11 s.dev.clock { t with wait := .stuck }) with agenda := ⟨.teamRollback, { c := c, h := h, x := (s.thread c h).x }⟩ :: s.agenda }
  | _ => (s.flog z.code 3 c (s.ctx c (s.thread c h).x).l z.tval).modThread c h fun t => parkTh 11 s.dev.clock { t with wait := .stuck }

/-- A cause is taken once no entry is pending: a faulted entry comes before a user-recoverable trap (R47). -/
def State.takeNow (s : State) (c h : Nat) (z : Cause) : State :=
  if s.classAt c h z = 0 then
    match badEntry (s.thread c h) with
    | some y => s.takePlain c h y
    | none => s.deliver c h z
  else s.takePlain c h z

/-- BKPT pulses the cross-trigger where that is armed for it (R218, R404). -/
def State.pulse (s : State) (z : Cause) : State := if z.code = 2 ∧ s.dev.xBken then s.fireTrigger else s

/-- TAKING AN EXCEPTION: every cause comes here. A user-recoverable one waits for the pending entries and is then delivered; the
others are handled by their class (R8, R47, R408 to R412). -/
def State.takeException (s : State) (c h : Nat) (z : Cause) : State :=
  let s := s.pulse z
  if s.classAt c h z = 0 ∧ hasPending (s.thread c h) then s.modThread c h fun t => parkTh 0 s.dev.clock { t with trapDue := some z }
  else s.takeNow c h z

/-- Registers that a `ret` or an `rte` brings back are pending no longer: the value of a slow instruction of the A-slot is overwritten (R164). -/
def settledRegs (l : List (Nat × Nat)) : List (Nat × Nat) := l.filter fun p => !(p.1 == 37 || decide (20 ≤ p.1 ∧ p.1 < 24))

/-- The sixteen words of the trap queue save and the eight of the trap window (R37, R411): as they stand, or as the home device has answered after a status. -/
def State.trapWords (s : State) (t : Thread) : List Word :=
  match t.wait with
  | .got ws => ws.drop 1
  | _ => (List.range 24).map fun i => BitVec.ofNat 64 (s.word (s.trapWin t - 128 + 8 * i) 8)

/-- THE RETURN FROM AN EXCEPTION (R47, R216): t0 to t15 come back from the trap queue save, k4 to k7, sp and the predicate word
from the trap window; INTRAP clears and the thread resumes at TPC. -/
def State.rteThread (s : State) (t : Thread) : Thread :=
  let ws := s.trapWords t
  let rd := fun i => ws.getD (16 + i) 0
  { t with t := (List.range 16).map fun i => .val (ws.getD i 0)
           k := (List.range 4).foldl (fun k i => Table.set (4 + i) (rd i) k) t.k
           sp := rd 5, pred := (rd 7).setWidth 16 ||| 1, intrap := false
           regPend := settledRegs t.regPend, wait := .none
           lost := t.lost ++ t.t.filterMap fun e => match e with | .pend id => some id | _ => none
           src := some t.pc, pc := rd 4 }

/-! ### How a meaning runs inside its bundle (R8, R163, R164, R167) -/

/-- How a meaning stops short: it parks with a cause; it parks keeping a change that starts a wait; it traps with its own cause and
TVAL; it meets a cause raised before (R31); it traps after an effect that stands, as only `tbeg` does (R8, R237); or something else has
become of the thread, as at a kill point (R250). -/
inductive Stop where
  | park (cause : Nat) (keep : State → State)
  | wait (cause : Nat) (keep : State → State)
  | trap (code : Nat) (tval : Word)
  | cause (z : Cause)
  | late (keep : State → State) (code : Nat) (tval : Word)
  | become (f : State → State)

/-- A meaning's body: it answers a value and the state after it, or stops. -/
abbrev Ex := StateT State (Except Stop)

/-- Parks with a cause of R337. While an earlier cause is looked for, one from `skip` on is passed with a value that nothing keeps. -/
def park {α : Type} [Inhabited α] (cause : Nat) : Ex α := fun s =>
  if s.latch.skip ≠ 0 ∧ s.latch.skip ≤ cause then .ok (default, s) else .error (.park cause id)
def parkWith {α : Type} [Inhabited α] (cause : Nat) (f : State → State) : Ex α := fun s =>
  if s.latch.skip ≠ 0 ∧ s.latch.skip ≤ cause then .ok (default, s) else .error (.wait cause f)
def trap {α : Type} (code : Nat) (tval : Word) : Ex α := throw (.trap code tval)
def guardP (b : Bool) (x : Ex Unit) : Ex Unit := if b then x else pure ()

/-- The thread whose bundle executes. -/
def State.cur (s : State) : Thread := s.thread s.latch.core s.latch.slot
def State.setCur (s : State) (t : Thread) : State := s.setThread s.latch.core s.latch.slot t
def State.modCur (s : State) (f : Thread → Thread) : State := s.setCur (f s.cur)
def State.curCtx (s : State) : Ctx := s.ctx s.latch.core s.cur.x
/-- The thread whose registers are read: as it stood before the bundle (R164). -/
def State.pre (s : State) : Thread := if s.latch.mode = .pairA then s.latch.pre else s.cur

def modCur (f : Thread → Thread) : Ex Unit := modify fun s => s.modCur f
def modCurCtx (f : Ctx → Ctx) : Ex Unit := modify fun s => s.modCtx s.latch.core s.cur.x f
def modCurCore (f : Core → Core) : Ex Unit := modify fun s => s.modCore s.latch.core f

/-- The cause that a slot's trap reports (R59, R162). -/
def State.causeOf (s : State) (code : Nat) (tval : Word) (aslot : Bool) : Cause := ⟨code, tval, s.cur.pc, aslot, false, 0, 0⟩

/-- The address of the bundle after this one (R161). -/
def State.nextPc (s : State) : Word := s.cur.pc + BitVec.ofNat 64 s.latch.len

/-- The end of a bundle that issued and transferred no control otherwise: the PC advances (R161). -/
def State.advance (s : State) : State := s.modCur fun t => { t with pc := s.nextPc, src := none }

/-- Control goes to a target, at which the framing checks name this bundle (R206). -/
def State.jump (s : State) (target : Word) : State := s.modCur fun t => { t with src := some t.pc, pc := target }

/-- The pending register k4 to k7 is that of the window which the call saves, as number 64 + 4 × its depth + register - 4 (R35, R164). -/
def savedPend (depth : Nat) (p : Nat × Nat) : Nat × Nat := if 20 ≤ p.1 ∧ p.1 < 24 then (64 + 4 * depth + (p.1 - 20), p.2) else p

/-- The window action and transfer of a `call` (R35, R207): a third resident window leaves the core for its storage. A register of the window that the
A-slot of this bundle has made pending is filled in the window (R164, R188). -/
def State.doCall (s : State) (target : Word) : State :=
  let t := s.cur
  let k := fun i => Table.get 0 i t.k
  let w : Window := ⟨k 4, k 5, k 6, k 7, s.nextPc, t.sp, t.pred⟩
  s.setCur { t with win := w :: t.win, depth := t.depth + 1, k := (List.range 4).foldl (fun k i => Table.set (4 + i) 0 k) t.k
                    regPend := t.regPend.map (savedPend (t.depth + 1)), src := some t.pc, pc := target }

/-- The window action and transfer of a `ret` (R35, R209). -/
def State.doRet (s : State) : State :=
  let t := s.cur
  match t.win with
  | [] => s.advance
  | w :: r =>
    s.setCur { t with
      win := r, depth := t.depth - 1, sp := w.sp, pred := w.pred ||| 1, src := some t.pc, pc := w.ret, regPend := settledRegs t.regPend
      sc := if 2 < t.depth ∧ t.oc = 0 then t.sc - 1 else t.sc
      oc := if 2 < t.depth then t.oc - 1 else t.oc
      k := Table.set 4 w.k4 (Table.set 5 w.k5 (Table.set 6 w.k6 (Table.set 7 w.k7 t.k))) }

/-- What the bundle left for its end (R164): the transfer of control of its C-slot, or the opening of a task at the next bundle. -/
def State.finish (s : State) : State :=
  let s' := { s with latch := { s.latch with defer := .no, res := .ok, pushed := [] } }
  match s.latch.defer with
  | .no => s'.advance
  | .jump t => s'.jump t
  | .call t => s'.doCall t
  | .ret => s'.doRet
  | .rte => s'.setCur (s'.rteThread s'.cur)
  | .retOpen => s'.doRet.openNext s.latch.core s.latch.slot
  | .release =>
    let r := s'.advance.openNext s.latch.core s.latch.slot
    r.modCur fun t => { t with relSnap := some (snapAt t t.pc), relWin := t.win }
  | .implicit => s'.advance.openNext s.latch.core s.latch.slot
  | .open_ begun timed => s'.advance.openTask s.latch.core s.latch.slot s.nextPc begun timed

/-- The thread parks on its bundle, which has had no effect but to start its wait (R164, R337). -/
def State.parkCur (s : State) (cause : Nat) : State := s.modCur (parkTh cause s.dev.clock)

/-- What a whole bundle's stop leaves: a parked thread, or the exception taken; nothing else of the bundle (R8). -/
def State.stopped (s : State) (aslot : Bool) : Stop → State
  | .park p keep | .wait p keep => (keep s).parkCur p
  | .trap code tval => s.takeException s.latch.core s.latch.slot (s.causeOf code tval aslot)
  | .cause z => s.takeException s.latch.core s.latch.slot z
  | .late keep code tval => (keep s).takeException s.latch.core s.latch.slot (s.causeOf code tval aslot)
  | .become f => f s

/-- A slot of a pair records what it came to, for the bundle to decide (R164, R409). -/
def State.slotStopped (s : State) : Stop → State
  | .park p keep => let s := keep s; { s with latch := { s.latch with res := .park p } }
  | .wait p keep => let s := keep s; { s with latch := { s.latch with res := .wait p } }
  | .trap code tval => { s with latch := { s.latch with res := .trap code tval } }
  | .cause z => { s with latch := { s.latch with res := .stop z } }
  | .late keep code tval =>
    let s := (keep s).takeException s.latch.core s.latch.slot (s.causeOf code tval false)
    { s with latch := { s.latch with res := .over } }
  | .become f => let s := f s; { s with latch := { s.latch with res := .over } }

/-- A wait slot holds the bundle while its count is not zero (R40); a fault of an operation of that slot is taken (R31). -/
def waitSlot (w : Nat) : Ex Unit := do
  let s ← get
  if w = 0 then pure ()
  else if Table.get 0 w s.pre.sb ≠ 0 then park 1
  else match s.pre.t.findSome? (fun e => match e with | .bad sb z => if sb = w then some z else none | _ => none) with
    | some z => throw (.cause z)
    | none => pure ()

/-- The cause with which a body parks, once an earlier one in the table of R337 has been looked for: `n` bounds the search. -/
def firstCause : Nat → Ex Unit → State → Nat → Nat
  | 0, _, _, p => p
  | n + 1, body, s, p =>
    match body { s with latch := { s.latch with skip := p } } with
    | .error (.park q _) | .error (.wait q _) => if q < p then firstCause n body s q else p
    | _ => p

/-- A stop with the first cause that holds; where that is an earlier one, nothing is started yet. -/
def Stop.settled (e : Stop) (body : Ex Unit) (s : State) : Stop :=
  match e with
  | .park p _ | .wait p _ => let q := firstCause p body s p; if q = p then e else .park q id
  | _ => e

/-- Runs a C-class meaning: its wait slot, its body, and, where it is the whole bundle, the bundle's end. In a pair whose guard
reads 0 only the wait slot is honoured (R167). -/
def runC (w : Nat) (body : Ex Unit) (s : State) : Host.Outcome State Fault Refusal :=
  let act : Ex Unit := do waitSlot w; if s.latch.exec then body else pure ()
  match s.latch.mode, act s with
  | .lone, .ok r => .next r.2.finish
  | .lone, .error e => .next (s.stopped false (e.settled act s))
  | _, .ok r => .next r.2
  | _, .error e => .next (s.slotStopped (e.settled act s))

/-- The guard of an A-class word reads 1 (R167). -/
def guardOn (g : Guard) (t : Thread) : Bool := (t.pred.getLsbD g.p.toNat) != (g.neg == 1#1)

/-- Runs an A-class meaning: under its guard as a lone word, under the bundle's in a pair (R167). -/
def runA (g : Guard) (body : Ex Unit) (s : State) : Host.Outcome State Fault Refusal :=
  match s.latch.mode with
  | .lone =>
    if guardOn g s.cur then
      match body s with
      | .ok r => .next r.2.finish
      | .error e => .next (s.stopped true (e.settled body s))
    else .next s.finish
  | _ =>
    if s.latch.exec then
      match body s with
      | .ok r => .next r.2
      | .error e => .next (s.slotStopped (e.settled body s))
    else .next s

end Sys2Proof.Machine
end

