-- ==== Sys2Proof/Machine/Operands.lean ====
section
/-! DEFINITION. The operand forms: register fields as sources and destinations, results that come later, queues and ports, scoreboard
slots, vector registers. -/

namespace Sys2Proof.Machine

/-! ### Shares (R28, R48) -/

/-- First number beyond, or below, the share: the registers of a group that a context may name. -/
def shareOk (share : Bool) (x n split : Nat) : Bool :=
  if share then (if x = 0 then decide (n < split) else decide (split ≤ n)) else x == 0

/-- The neighbour that a port of the thread's context reaches, inside the launch rectangle (R28). -/
def State.portPeer (s : State) (c x side : Nat) : Option Nat :=
  if x = 1 then none else (neighbour c side).filter (inRect (s.ctx c x))

/-! ### Message areas (R346, R427) -/

/-- The 128 bytes of a place of a message area (R427): of a spawn request the body of R439. The identifiers of a keyed flit's sender and of a spawner stand
nowhere in the model, and read as 0 (log 168). -/
def placeBytes (p : Parked) : List Byte :=
  let place := fun (kind core q snd : Nat) (body : List Byte) =>
    toBytes 1 kind ++ toBytes 1 0 ++ toBytes 2 core ++ toBytes 1 q ++ toBytes 3 0 ++ toBytes 4 snd ++ toBytes 4 0 ++ body ++ List.replicate (112 - body.length) 0
  match p with
  | .msg c _ q v t => place 1 c q t (toBytes 8 v.toNat)
  | .keyed c ps => place 2 c 0 0 (ps.flatMap fun p => toBytes 4 p.1.toNat ++ toBytes 4 p.2.toNat)
  | .spawn c r => place 3 c 0 0 (toBytes 8 r.pc.toNat ++ (r.ks.flatMap fun k => toBytes 8 k.toNat) ++ toBytes 4 r.desc ++ toBytes 2 r.job ++
      toBytes 1 (b2n r.sys + 2 * b2n r.xdev))

/-- A message area with what it holds now, in its save area: the oldest in place 0; a place that holds nothing is zero (R427; log 168). -/
def State.putArea (s : State) (l : Nat) (area : List Parked) : State :=
  let e := s.lease l
  let blank := List.replicate (128 * (e.area.length - area.length)) (0 : Byte)
  (s.modLease l fun e => { e with area := area }).put (e.saveBase + 0x10000) (area.flatMap placeBytes ++ blank)

/-- One more place is taken. -/
def State.areaAdd (s : State) (l : Nat) (p : Parked) : State :=
  let e := s.lease l
  (s.modLease l fun e => { e with area := e.area ++ [p] }).put (e.saveBase + 0x10000 + 128 * e.area.length) (placeBytes p)

/-! ### Waiting messages (R345) -/

/-- A message that a restore left in the message area enters its queue register or the inbound queue, once there is room (R345, R346). -/
def State.topUp (s : State) (c x : Nat) : Nat → State
  | 0 => s
  | f + 1 =>
    let k := s.ctx c x
    let box := (s.core c).inbox
    let mine := fun (q : Nat) => box.filter fun m => m.x == x && m.q == q
    let enters := fun (q : Nat) => decide ((Table.get [] q k.q).length < 16) && (mine q).isEmpty
    let fits := fun (p : Parked) => match p with
      | .msg d y q _ _ => d == c && y == x && (enters q || decide (box.length < 64) && decide ((mine q).length < 16))
      | _ => false
    match (s.lease k.l).area.find? fits with
    | some (.msg _ _ q v t) =>
      let s := s.putArea k.l ((s.lease k.l).area.eraseP fits)
      (if enters q then s.setCtx c x { k with q := Table.set q (Table.get [] q k.q ++ [.word v]) k.q }
       else s.modCore c fun d => { d with inbox := d.inbox ++ [⟨x, q, v, 0, s.dev.devno, t⟩] }).topUp c x f
    | _ => s

/-- A message leaves the inbound queue for its queue register when there is room, and its `send` is answered. -/
def State.fillFromInbox (s : State) (c x q : Nat) (answer : State → Nat → Nat → State) : State :=
  let k := s.ctx c x
  let l := Table.get [] q k.q
  if l.length < 16 then
    match (s.core c).inbox.find? fun m => m.x == x && m.q == q with
    | none => s
    | some m =>
      let s := s.setCtx c x { k with q := Table.set q (l ++ [.word m.v]) k.q }
      let s := s.modCore c fun d => { d with inbox := d.inbox.eraseP fun y => y.x == x && y.q == q }
      answer s m.op m.dev
  else s

/-! ### Results that come later (R30, R31, R43) -/

/-- An operation completes with a value (R30, R40); a restart that waited for it may go on (R34). -/
def State.complete (s : State) (o : Op) (v : Word) : State :=
  ((s.dropOp o).giveValue o v).finishRestart o.core o.slot

/-- An operation ends in a fault: its result entry records it, and any other destination makes it due at the thread's next
bundle boundary (R31, R225, R410). A place reserved in a queue or port is filled with a value that the spec does not state (R43, R344: log 145). -/
def State.failOp (s : State) (o : Op) (code : Nat) (tval : Word) : State :=
  let z : Cause := ⟨code, tval, o.pc, false, false, 0, o.id⟩
  let s := s.dropOp o
  let s := match o.dest with
    | .queue _ _ | .port _ => let (d, s) := s.drawn; s.giveValue o (Config.faultedPlace d)
    | _ => s
  if o.dropped then s.finishRestart o.core o.slot
  else
    let t := s.thread o.core o.slot
    let due := { t with due := t.due ++ [z], lost := t.lost.filter (· != o.id), regPend := t.regPend.filter (·.2 != o.id)
                        vPend := t.vPend.filter (·.2 != o.id) }
    if o.dest = .result ∧ t.t.contains (.pend o.id) then
      s.setThread o.core o.slot { t with t := fillEnt o.id (.bad o.sb z) t.t }
    else s.setThread o.core o.slot due

def State.opById (s : State) (id : Nat) : Option Op := s.ops.find? (·.id == id)
def State.setOp (s : State) (o : Op) : State := { s with ops := s.ops.map fun p => if p.id = o.id then o else p }

/-- An answer reaches a pending `send` or spawn by number (R244, R269). -/
def State.answer (s : State) (id : Nat) (v : Word) : State :=
  match s.opById id with
  | some o => s.complete o v
  | none => s

/-- An acknowledgement packet goes to a device that waits for an answer to a tag (R438). -/
def State.ack (s : State) (dev tag : Nat) (ws : List Word) : State :=
  s.sendPacket { dst := dev, cls := 1, ty := 11, tag := tag, bank := 0, body := ws.flatMap fun w => toBytes 8 w.toNat }

/-- A delivered message's `send` is answered with 0, on this device or on another (R269, R345). -/
def State.ackMsg (s : State) (id dev : Nat) : State := if dev = s.dev.devno then s.answer id 0 else s.ack dev id [0]

/-- At the end of an s-cycle waiting messages enter the queue registers of a core that have room, and what waits in the message areas of its contexts
follows (R345, R346). -/
def State.moveMessages (s : State) (c : Nat) : State :=
  (List.range 2).foldl (fun s x =>
    let fill := fun (s : State) => (s.core c).inbox.foldl (fun s m => if m.x = x then s.fillFromInbox c x m.q State.ackMsg else s) s
    if !(s.ctx c x).placed || (s.ctx c x).away then s
    else
      let s := fill s
      let n := (s.lease (s.ctx c x).l).area.length
      if n = 0 then s else s.topUp c x n) s

/-! ### Pushing and popping (R29, R32, R43) -/

/-- A new entry at t0: the entry in t15 is lost, its operation kept track of, its fault taken (R29, R31). -/
def pushEnt (e : REnt) : Ex Unit := do
  let t := (← get).cur
  match t.t.getD 15 (.val 0) with
  | .bad _ z => throw (.cause z)
  | .pend id => modCur fun t => { t with t := e :: t.t.take 15, lost := t.lost ++ [id] }
  | .val _ => modCur fun t => { t with t := e :: t.t.take 15 }

/-- `Push(v)` (R7). -/
def push (v : Word) : Ex Unit := pushEnt (.val v)

/-- Entries that a pop may take: those that stood before the bundle (R32). -/
def State.popable (s : State) (r : Nat) (l : List QEnt) : List QEnt :=
  if s.latch.mode = .pairA then l.take (l.length - (s.latch.pushed.filter (· == r)).length) else l

def notePush (r : Nat) : Ex Unit := modify fun s => { s with latch := { s.latch with pushed := r :: s.latch.pushed } }

def popQ (q : Nat) : Ex Word := do
  let s ← get
  let c := s.latch.core
  let x := s.cur.x
  if !shareOk (s.core c).share x q 6 then trap 0x12 (BitVec.ofNat 64 (24 + q))
  else
    let l := Table.get [] q (s.ctx c x).q
    match s.popable (24 + q) l with
    | .word v :: _ =>
      modCurCtx fun k => { k with q := Table.set q (l.drop 1) k.q }
      pure v
    | _ => park 2

def pushQ (q : Nat) (e : QEnt) : Ex Unit := do
  let s ← get
  let c := s.latch.core
  let x := s.cur.x
  if !shareOk (s.core c).share x q 6 then trap 0x12 (BitVec.ofNat 64 (24 + q))
  else
    let l := Table.get [] q (s.ctx c x).q
    if 16 ≤ l.length then park 2
    else do
      modCurCtx fun k => { k with q := Table.set q (l ++ [e]) k.q }
      notePush (24 + q)

def popPort (side : Nat) : Ex Word := do
  let s ← get
  match s.portPeer s.latch.core s.cur.x side with
  | none => trap 0x12 (BitVec.ofNat 64 (32 + side))
  | some _ =>
    let l := Table.get [] side s.curCtx.port
    match l with
    | .word v :: _ =>
      modCurCtx fun k => { k with port := Table.set side (l.drop 1) k.port }
      pure v
    | _ => park 3

def pushPort (side : Nat) (e : QEnt) : Ex Unit := do
  let s ← get
  match s.portPeer s.latch.core s.cur.x side with
  | none => trap 0x12 (BitVec.ofNat 64 (32 + side))
  | some d =>
    let k := s.ctx d 0
    let l := Table.get [] (opposite side) k.port
    if k.away || decide (8 ≤ l.length) then park 3
    else modify fun s => s.setCtx d 0 { k with port := Table.set (opposite side) (l ++ [e]) k.port }

/-! ### Register fields (R165, R187) -/

/-- A 6-bit register field as a source. -/
def readReg (r : Nat) : Ex Word := do
  let s ← get
  let t := s.pre
  if r < 16 then
    match t.t.getD r (.val 0) with
    | .val v => pure v
    | .pend _ => park 0
    | .bad _ z => throw (.cause z)
  else if r < 24 then
    if t.regPend.any (·.1 == r) then park 0 else pure (Table.get 0 (r - 16) t.k)
  else if r < 32 then popQ (r - 24)
  else if r < 36 then popPort (r - 32)
  else if r = 36 then pure 0
  else if r = 37 then if t.regPend.any (·.1 == 37) then park 0 else pure t.sp
  else if r = 38 then pure (BitVec.ofNat 64 s.dev.clock)
  else trap 0x10 (s.latch.word.setWidth 64)

def src (r : BitVec 6) : Ex Word := readReg r.toNat

/-- A 5-bit short register field as a source (R228). -/
def srcShort (r : BitVec 5) : Ex Word :=
  if r.toNat < 24 then readReg r.toNat else if r.toNat = 24 then pure 0 else readReg 37

/-- A named register that is written now: a pending one of an earlier bundle parks the thread, one made pending by the other slot of
this bundle loses its place (R164, R188). -/
def writeNamed (r : Nat) (v : Word) : Ex Unit := do
  let s ← get
  if s.pre.regPend.any (·.1 == r) then park 0
  else modCur fun t =>
    let t := { t with regPend := t.regPend.filter (·.1 != r) }
    if r = 37 then { t with sp := v } else { t with k := Table.set (r - 16) v t.k }

/-- `Dest(v)` of R187 for a D field. -/
def destNum (d : Nat) (v : Word) : Ex Unit := do
  if d = 0 then push v
  else if 16 ≤ d ∧ d < 24 ∨ d = 37 then writeNamed d v
  else if 24 ≤ d ∧ d < 32 then pushQ (d - 24) (.word v)
  else if 32 ≤ d ∧ d < 36 then pushPort (d - 32) (.word v)
  else if d = 36 then pure ()
  else do trap 0x10 ((← get).latch.word.setWidth 64)

def dest (d : BitVec 6) (v : Word) : Ex Unit := destNum d.toNat v

/-- The place of a result that comes later (R30, R43, R188). -/
def reserve (d id : Nat) : Ex Dest := do
  let s ← get
  if d = 0 then do pushEnt (.pend id); pure .result
  else if 16 ≤ d ∧ d < 24 ∨ d = 37 then
    if s.pre.regPend.any (·.1 == d) then park 0
    else do
      modCur fun t => { t with regPend := t.regPend.filter (·.1 != d) ++ [(d, id)] }
      pure (.named d)
  else if 24 ≤ d ∧ d < 32 then do pushQ (d - 24) (.place id); pure (.queue s.cur.x (d - 24))
  else if 32 ≤ d ∧ d < 36 then do pushPort (d - 32) (.place id); pure (.port (d - 32))
  else if d = 36 then pure .none
  else trap 0x10 (s.latch.word.setWidth 64)

/-- Raises the set slot (R40). -/
def setSlot (sb : Nat) : Ex Unit := do
  let t := (← get).cur
  if sb = 0 then pure ()
  else if 15 ≤ Table.get 0 sb t.sb then park 1
  else modCur fun t => { t with sb := Table.set sb (Table.get 0 sb t.sb + 1) t.sb }

/-- A fresh operation of the thread whose bundle executes; `f` fills in what it does. -/
def issue (f : Op → Op) : Ex Unit := modify fun s =>
  let t := s.cur
  let o : Op := { id := s.nextOp, kind := .long, core := s.latch.core, slot := s.latch.slot, thid := thidOf t, tseq := t.tseq, pc := t.pc }
  { s with ops := s.ops ++ [f o], nextOp := s.nextOp + 1 }

/-- An operation whose result goes to D when it completes. -/
def issueTo (d : Nat) (f : Op → Op) : Ex Unit := do
  let id := (← get).nextOp
  let r ← reserve d id
  issue fun o => { f o with dest := r }

/-! ### Vector registers (R28, R44, R277) -/

/-- The core's register behind v`i` of the thread's window. -/
def vnum (i : Nat) : Ex Nat := do
  let t := (← get).pre
  if i < t.vcnt then pure (t.vbase + i) else trap 0x12 (BitVec.ofNat 64 i)

/-- TVAL of ECC_UNCORR for a register of a core: the structure code, and the register's number (R407, R414; log 169). -/
def eccReg (n : Nat) : Nat := 2 ^ 56 + n

/-- A register of a core is written whole, and holds no uncorrectable word (R415). -/
def Core.mend (k : Core) (kind n : Nat) : Core := if k.bad.isEmpty then k else { k with bad := k.bad.filter (· != (kind, n)) }

def readV (i : Nat) : Ex (BitVec 4096) := do
  let n ← vnum i
  let s ← get
  if s.pre.vPend.any (·.1 == n) then park 0
  else if (s.core s.latch.core).bad.contains (0, n) then trap 0x30 (BitVec.ofNat 64 (eccReg n))
  else pure (Table.get 0 n (s.core s.latch.core).vreg)

/-- The register may be written now. -/
def freeV (i : Nat) : Ex Nat := do
  let n ← vnum i
  let s ← get
  if s.pre.vPend.any (·.1 == n) then park 0 else pure n

def writeV (n : Nat) (v : BitVec 4096) : Ex Unit := modCurCore fun k => { k.mend 0 n with vreg := Table.set n v k.vreg }

end Sys2Proof.Machine
end

