-- ==== Sys2Proof/Machine/Flags.lean ====
section
/-! DEFINITION. The predicate word, compares, the status word and its fields. -/

namespace Sys2Proof.Machine

/-- A write of predicate `i`; p0 discards it (R39). -/
def setPredBit (i : Nat) (v : Bool) (p : BitVec 16) : BitVec 16 :=
  if i = 0 then p else if v then p ||| (1#16 <<< i) else p &&& ~~~(1#16 <<< i)

def writePred (i : BitVec 4) (v : Bool) : Ex Unit := modCur fun t => { t with pred := setPredBit i.toNat v t.pred }

/-- Predicate `i` as it stood before the bundle. -/
def readPred (i : BitVec 4) : Ex Bool := do pure ((← get).pre.pred.getLsbD i.toNat)

/-- The conditions of `cmp` and `cmpi` (R195). -/
def cmpCond (cc : Nat) (a b : Word) : Bool :=
  match cc with
  | 0 => a == b
  | 1 => a != b
  | 2 => a.slt b
  | 3 => b.sle a
  | 4 => a.ult b
  | 5 => b.ule a
  | _ => (a &&& b) != 0

/-- The status word (R58). -/
def tsrWord (t : Thread) : Nat :=
  t.srst.toNat * 2 ^ 32 + b2n t.task * 2 ^ 28 + b2n t.timed * 2 ^ 27 + t.cdom.toNat * 2 ^ 25 + b2n t.serial * 2 ^ 24 +
    t.fpc.toNat * 2 ^ 16 + b2n t.mx * 2 ^ 15 + b2n t.sys * 2 ^ 14 + b2n t.xdev * 2 ^ 13 + b2n t.fwm * 2 ^ 11 + b2n t.intrap * 2 ^ 10 +
    t.bpri % 8 * 8 + t.epri % 8

/-- The rounding mode of an FPC value (R61). -/
def fpcRM (f : BitVec 8) : Nat := bits f.toNat 5 3
def fpcFZI (f : BitVec 8) : Bool := bit f.toNat 4
def fpcFZO (f : BitVec 8) : Bool := bit f.toNat 3
def fpcSATN (f : BitVec 8) : Bool := bit f.toNat 2

/-- A write of FPC: reserved modes are refused, bits 1:0 read as zero (R54, R61). -/
def fpcWrite (v : Nat) : Option (BitVec 8) := if 6 ≤ bits v 5 3 then none else some (BitVec.ofNat 8 (v % 256 / 4 * 4))

/-- A write of SRST; zero becomes 1 (R58). -/
def srstWrite (v : Nat) : BitVec 32 := if v % 2 ^ 32 = 0 then 1 else BitVec.ofNat 32 v

/-- Effective priority (R338). -/
def effPri (t : Thread) : Nat := if t.bpri = 7 then 7 else min (t.bpri + t.cr) 6

end Sys2Proof.Machine
end

