-- ==== Sys2Proof/Machine/Access.lean ====
section
/-! DEFINITION. Accesses to the address map: spaces, the checks of R77 in their order, translation, the L1 data cache, and the issue of
loads and stores. -/

namespace Sys2Proof.Machine

/-! ### The address map (R76) -/

inductive Space where
  | glob (a : Nat)
  | own (w o : Nat)
  | other (c o : Nat)
  | pool (k o : Nat)
  | camp (o : Nat)
  | host (w o : Nat)
  | ctl (a : Nat)
deriving DecidableEq, Repr

/-- The space and place of an address; none where it lies in no row of the table. -/
def spaceOf (a : Nat) : Option Space :=
  if a < 0x0080000000000000 then some (.glob a)
  else if a < 0x0080000002000000 then some (.own (a % 0x2000000 / 0x200000) (a % 0x200000))
  else if a < 0x0081000000000000 then none
  else if a < 0x0081000020000000 then some (.other (a % 0x20000000 / 0x100000) (a % 0x100000))
  else if a < 0x0082000000000000 then none
  else if a < 0x0082000020000000 then some (.pool (a % 0x20000000 / 0x800000) (a % 0x800000))
  else if a < 0x0083000000000000 then none
  else if a < 0x0083000010000000 then some (.camp (a % 0x10000000))
  else if a < 0x0084000000000000 then none
  else if a < 0x0085000000000000 then (if a < 0x0084010000000000 then some (.host (a % 0x10000000000 / 0x1000000000) (a % 0x1000000000)) else none)
  else if 0x00FF000000000000 ≤ a ∧ a < 0x0100000000000000 then some (.ctl a)
  else none

/-- Two addresses stand in one space, window, core, cluster or host window (check 2 of R77). -/
def sameSpace : Space → Space → Bool
  | .glob _, .glob _ => true
  | .own w _, .own v _ => w == v
  | .other c _, .other d _ => c == d
  | .pool k _, .pool j _ => k == j
  | .camp _, .camp _ => true
  | .host w _, .host v _ => w == v
  | .ctl _, .ctl _ => true
  | _, _ => false

/-- Control-space addresses that lie in a row of R374, R375, R393 or R432. -/
def ctlMapped (a : Nat) : Bool :=
  let o := a - 0x00FF000000000000
  if o < 512 * 0x100000 then
    let b := o % 0x100000
    decide (b < 0x20C00 ∨ 0x21000 ≤ b ∧ b < 0x23000 ∨ 0x30000 ≤ b ∧ b < 0x31800 ∨ 0x32000 ≤ b ∧ b < 0x33800 ∨ 0x3F000 ≤ b ∧ b < 0x3F008 ∨
      0x40000 ≤ b ∧ b < 0x40008 ∨ 0x40100 ≤ b ∧ b < 0x40500 ∨ 0x41000 ≤ b ∧ b < 0x41020)
  else if 0x100000000 ≤ o ∧ o < 0x100000000 + 64 * 0x100000 then
    let b := o % 0x100000
    decide (b < 0x30000 ∨ 0x40000 ≤ b ∧ b < 0x40800 ∨ 0x41000 ≤ b ∧ b < 0x41008)
  else
    let b := o - 0x200000000
    decide (0x200000000 ≤ o) && decide (b < 0x1800 ∨ 0x8000 ≤ b ∧ b < 0x8008 ∨ 0x10000 ≤ b ∧ b < 0x20010 ∨ 0x100000 ≤ b ∧ b < 0x1100000 ∨
      0x2000000 ≤ b ∧ b < 0x2008000 ∨ 0x3000000 ≤ b ∧ b < 0x3010000 ∨ 0x4000000 ≤ b ∧ b < 0x4010080 ∨ 0x5000000 ≤ b ∧ b < 0x5000100 ∨
      0x5010000 ≤ b ∧ b < 0x5410000 ∨ 0x6000000 ≤ b ∧ b < 0x6000100 ∨ 0x6001000 ≤ b ∧ b < 0x6001100 ∨ 0x6002000 ≤ b ∧ b < 0x6002008 ∨
      0x6003000 ≤ b ∧ b < 0x6003008 ∨ 0x6004000 ≤ b ∧ b < 0x6004010 ∨ 0x6005000 ≤ b ∧ b < 0x6005040 ∨ 0x6008000 ≤ b ∧ b < 0x6008200 ∨
      0x8000000 ≤ b ∧ b < 0x9000000)

/-- An FWA register opens all of `n` bytes from `a` with the right needed (R72): `need` is 1 to read and 2 to write. -/
def State.fwaOpen (s : State) (a n need : Nat) (host : Bool) : Bool :=
  s.dev.fwa.any fun p =>
    let v := p.2.toNat
    let sz := bits v 8 8
    let base := bits v 16 40 * 65536 / 2 ^ sz
    decide (p.1 < 8 ∧ 16 ≤ sz ∧ sz ≤ 40 ∧ a / 2 ^ sz = base ∧ (a + n - 1) / 2 ^ sz = base ∧ need ≤ bits v (if host then 2 else 0) 2)

/-- The rights an access kind needs (R100): 0 load, 1 store, 2 atomic. -/
def needOf (kind : Nat) : Nat := if kind = 0 then 1 else if kind = 1 then 2 else 3

/-- `r` holds every bit of `need`. -/
def hasRights (r need : Nat) : Bool := (r &&& need) == need

/-- A range list opens `n` bytes from `a` with the rights needed (R89, R379). -/
def opens (l : List Range) (a n need : Nat) : Bool :=
  l.any fun r => r.v && decide (r.lo ≤ a ∧ a + n ≤ r.lo + r.len) && hasRights r.rights need

def allLeases (e : Lease) : List Range := e.leases ++ e.text.toList ++ e.ovf

/-- The offset belongs to the context's part of a scratchpad (R85). -/
def State.spShare (s : State) (c x o n : Nat) : Bool :=
  if (s.core c).share then (if x = 1 then decide (0xE0000 ≤ o) else decide (o + n ≤ 0xE0000)) else x == 0 || s.isFw c

/-- The host window of a launch context, where it is enabled (R434). -/
def State.hostWin (s : State) (w l : Nat) : Option Nat :=
  let e := (Table.get 0#128 w s.sched.hostWin).toNat
  if bit e 63 ∧ bits e 0 8 = l then some e else none

/-- A place in no row, in an alias-window hole, under a disabled window, or beyond a host window's size (checks 1 and 2 of R77). -/
def State.hole (s : State) (k : Ctx) : Space → Bool
  | .own w o => decide (0x100000 ≤ o) || (w != 0 && !bit (Table.get 0#32 w k.wd).toNat 31)
  | .camp o => s.dev.active && decide (0x4000000 ≤ o)
  | .host w o => match s.hostWin w k.l with
    | some e => decide (bits e 8 25 * 4096 ≤ o)
    | none => true
  | .ctl a => !ctlMapped a
  | _ => false

/-- A thread reaches the bytes of another core's scratchpad, or of its own by the other-cores form (R72, R85, R86). -/
def State.coreReach (s : State) (c : Nat) (t : Thread) (va d o n kind : Nat) : Bool :=
  s.spShare d t.x o n && (decide (d = c) ||
    if s.isFw d then t.fwm || s.fwaOpen va n (min (needOf kind) 2) false else inRect (s.ctx c t.x) d)

/-- The `n` bytes lie in the thread's own bivouac area on another device (R37). -/
def State.farHome (s : State) (t : Thread) (c o n : Nat) : Bool :=
  let k := s.homeArea t
  let lo := k.1 * 64 + t.hslot * k.2.1 * 256
  t.hdev != s.dev.devno && t.hcore == c && decide (lo ≤ o ∧ o + n ≤ lo + k.2.1 * 256)

/-- The first check of R77 that an access of `n` bytes fails, as its cause code; `last` is its last byte and `align` its alignment. -/
def State.accessErr (s : State) (c : Nat) (t : Thread) (va last align kind : Nat) : Option Nat :=
  let k := s.ctx c t.x
  let n := last + 1 - va
  match spaceOf va with
  | none => some 0x15
  | some sp =>
    if s.hole k sp then some 0x15
    else
      let straddle : Bool := match spaceOf last with
        | some q => !sameSpace sp q || s.hole k q
        | none => true
      if straddle then some 0x14
      else if va % align ≠ 0 then some 0x13
      else
        let refused : Bool := match sp with
          | .own _ o => !s.spShare c t.x o n
          | .other d o =>
            !s.farHome t d o n && !s.coreReach c t va d o n kind
          | .pool j o =>
            let p := s.cluster j
            let lo := (if t.x = 1 then p.ibase else p.obase) * 65536
            let len := (if t.x = 1 then p.isize else p.osize) * 65536
            !((clusterCores j).any (inRect k) && decide (lo ≤ o ∧ o + n ≤ lo + len))
          | .camp o => !(t.fwm || opens (s.lease k.l).grants o n (needOf kind))
          | .host w _ => match s.hostWin w k.l with
            | some e => decide (bits e 59 2 < (if kind = 0 then 1 else 2))
            | none => true
          | .ctl a => !(t.fwm || s.fwaOpen a n (if kind = 0 then 1 else 2) false) ||
              (kind != 0 && s.dev.portUp != 0 && decide (0x00FF000202000000 + 0x4000 * s.dev.rtInj ≤ a ∧ a < 0x00FF000202004000 + 0x4000 * s.dev.rtInj))
          | .glob a => kind != 0 && (s.lease k.l).text.any fun r => overlap a n r.lo r.len
        if refused then some 0x17
        else
          let lockHit : Nat → Bool := fun o => (s.core c).locks.any fun l =>
            overlap o n l.lo (l.hi + 1 - l.lo) && (l.dst || kind != 0)
          match sp with
          | .own _ o => if lockHit o then some 0x05 else none
          | .other d o => if d = c ∧ lockHit o then some 0x05 else none
          | _ => none

/-- Issue checks of an access: the first that fails traps with the address (R77, R407). -/
def checkAccess (va : Word) (last align kind : Nat) : Ex Unit := do
  let s ← get
  match s.accessErr s.latch.core s.pre va.toNat last align kind with
  | some code => trap code va
  | none => pure ()

/-! ### Translation (R97, R104, R105, R377 to R380, R384) -/

/-- The directory entry of the region that holds an address (R384). -/
def State.tokenOf (s : State) (va : Nat) : Option Token := s.sched.tokens.find? fun k => k.region == va / 0x200000

/-- The device that holds the token of an address's region, as far as this device's directory tells (R104, R384). -/
def State.holder (s : State) (va : Nat) : Nat :=
  match s.tokenOf va with
  | some k => if k.inward then s.dev.devno else k.peer
  | none => va / 2 ^ 40 % 2 ^ 15

/-- The token of the region is held by this device. -/
def State.held (s : State) (va : Nat) : Bool := s.holder va == s.dev.devno

/-- The region is being copied (R384). -/
def State.regionBusy (s : State) (va : Nat) : Bool := match s.tokenOf va with | some k => k.busy | none => false

/-- The size in bytes of a page code (R380). -/
def pageBytes (z : Nat) : Nat := if z = 0 then 0x10000 else if z = 1 then 0x200000 else 0x40000000

/-- The TLB entry of the cluster that maps an address for a context. -/
def State.tlbFind (s : State) (k l va : Nat) : Option Tlb :=
  (s.cluster k).tlb.find? fun e => e.l == l && e.vpn * 65536 / pageBytes e.size == va / pageBytes e.size

def Tlb.pa (e : Tlb) (va : Nat) : Nat := e.ppn * 65536 + va % pageBytes e.size

/-- The end of the physical addresses: of the twelve stacks, or of the three of approach mode (R92, R378, R444). -/
def State.hbmEnd (s : State) : Nat := if s.dev.active then 0x3000000000 else 0xC000000000

/-- ADDR of a page-table entry (R378). -/
def pteAddr (v : Nat) : Nat := bits v 8 48 * 256

/-- The leaf that a page-table walk reaches (R377, R378): size code, the place of its entry, and its value; none where the walk faults. -/
def State.leafAt (s : State) (l va : Nat) : Option (Nat × Nat × Nat) :=
  let e := s.lease l
  let off := va % 2 ^ 40
  if ¬ e.rootV ∨ va / 2 ^ 40 ≠ s.dev.devno ∨ s.hbmEnd ≤ e.root * 8192 then none
  else
    let ok := fun (v : Nat) => bit v 0 && bits v 56 8 == 0 && !bit v 7 && decide (pteAddr v < s.hbmEnd)
    let leaf := fun (p v z : Nat) => if pteAddr v % pageBytes z ≠ 0 then none else some (z, p, v)
    let p1 := e.root * 8192 + 8 * (off / 2 ^ 30)
    let v1 := s.word p1 8
    if ¬ ok v1 then none
    else if bit v1 1 then leaf p1 v1 2
    else
      let p2 := pteAddr v1 + 8 * (off / 2 ^ 21 % 512)
      let v2 := s.word p2 8
      if ¬ ok v2 then none
      else if bit v2 1 then leaf p2 v2 1
      else
        let p3 := pteAddr v2 + 8 * (off / 65536 % 32)
        let v3 := s.word p3 8
        if ¬ ok v3 ∨ ¬ bit v3 1 then none else leaf p3 v3 0

/-- The place of the level-3 entry of an address, where the tables above it stand (R377, R378). -/
def State.leafSlot (s : State) (l va : Nat) : Option Nat :=
  let e := s.lease l
  let off := va % 2 ^ 40
  let table := fun (v : Nat) => bit v 0 && !bit v 1 && bits v 56 8 == 0 && !bit v 7 && decide (pteAddr v < s.hbmEnd)
  if ¬ e.rootV ∨ va / 2 ^ 40 ≠ s.dev.devno ∨ s.hbmEnd ≤ e.root * 8192 then none
  else
    let v1 := s.word (e.root * 8192 + 8 * (off / 2 ^ 30)) 8
    if !table v1 then none
    else
      let v2 := s.word (pteAddr v1 + 8 * (off / 2 ^ 21 % 512)) 8
      if !table v2 then none else some (pteAddr v2 + 8 * (off / 65536 % 32))

/-- What the translation of an address gives (R378, R384): page size code, physical base, rights; a region held under a token is not
walked. -/
def State.walk (s : State) (l va : Nat) : Option (Nat × Nat × Nat) :=
  match s.sched.tokens.find? fun k => k.inward && k.region == va / 0x200000 with
  | some k => if va / 2 ^ 40 = s.dev.devno then none else some (1, k.lcopy, k.rights)
  | none => (s.leafAt l va).map fun p => (p.1, bits p.2.2 8 48 * 256, bits p.2.2 2 3)

/-- The lease rights of a page: of every valid lease that covers part of it (R379, R380). -/
def leaseRights (e : Lease) (va n : Nat) : Nat :=
  (allLeases e).foldl (fun r x => if x.v ∧ overlap va n x.lo x.len then r ||| x.rights else r) 0

/-- The leases cover a page wholly or not at all, each of them. -/
def leaseEven (e : Lease) (va n : Nat) : Bool :=
  (allLeases e).all fun x => !x.v || !overlap va n x.lo x.len || decide (x.lo ≤ va ∧ va + n ≤ x.lo + x.len)

/-- The size at which a leaf of size `z` is entered for an address: no larger than the leases' rights are even over, so that LR is never wider than
the lease table (R380; log 18). -/
def fillSize (e : Lease) (va z : Nat) : Nat :=
  let even := fun (y : Nat) => leaseEven e (va / pageBytes y * pageBytes y) (pageBytes y)
  if z = 2 ∧ even 2 then 2 else if 1 ≤ z ∧ even 1 then 1 else 0

/-- The way that a fill of a set of `n` ways takes: the lowest that holds nothing, else a victim, which is a free value (R96, R97, R380; log 8). -/
def State.wayFor (s : State) (used : List Nat) (n : Nat) : Nat × State :=
  match (List.range n).find? fun w => !used.contains w with
  | some w => (w, s)
  | none => let (d, s) := s.drawn; (Config.victim d % n, s)

/-- The set of a TLB entry: 512 sets of 8 ways (R97). -/
def tlbSet (e : Tlb) : Nat := e.vpn * 65536 / pageBytes e.size % 512

/-- A page enters the cluster TLB, once (R97, R380). -/
def State.tlbFill (s : State) (k : Nat) (e : Tlb) : State :=
  let old := (s.cluster k).tlb.filter fun x => !(x.l == e.l && overlap (x.vpn * 65536) (pageBytes x.size) (e.vpn * 65536) (pageBytes e.size))
  let (w, s) := s.wayFor ((old.filter fun x => tlbSet x == tlbSet e).map (·.way)) 8
  s.modCluster k fun q => { q with tlb := { e with way := w } :: old.filter fun x => !(tlbSet x == tlbSet e && x.way == w) }

/-- The TLB entry that a walk for an address gives (R97, R378 to R380). -/
def State.tlbEntry (s : State) (l va : Nat) : Option Tlb :=
  (s.walk l va).map fun (z, pa, pr) =>
    let y := fillSize (s.lease l) va z
    let page := va / pageBytes y * pageBytes y
    let pin := match s.leafAt l va with | some p => bit p.2.2 5 | none => false
    ⟨l, y, page / 65536, (pa + (page - va / pageBytes z * pageBytes z)) / 65536, pr, leaseRights (s.lease l) page (pageBytes y), pin, 0⟩

/-- The bytes of the page that an address lies in, as a walk would enter it (R97, R380). -/
def State.pageSize (s : State) (l va : Nat) : Nat := match s.walk l va with | some p => pageBytes (fillSize (s.lease l) va p.1) | none => 0x10000

/-- A walk starts, unless one for the page is in flight or 16 walks are (R97). -/
def State.startWalk (s : State) (k l va c x h : Nat) : State :=
  let q := s.cluster k
  let z := s.pageSize l va
  if q.walks.any (fun w => w.l == l && w.va / z == va / z) ∨ 16 ≤ q.walks.length then s
  else
    let s := s.count c x h 7 1
    { s.modCluster k (fun q => { q with walks := q.walks ++ [⟨s.nextOp, l, va, q.inval, false⟩] }) with nextOp := s.nextOp + 1 }

/-! ### The L1 data cache (R96, R98) -/

/-- A line fills: its set holds 8, and a synonym of the physical line is dropped first. -/
def State.l1Fill (s : State) (c : Nat) (e : Line) : State :=
  let keep := (s.core c).l1d.filter fun x => x.pa != e.pa && !(x.l == e.l && x.va == e.va)
  let set := fun (x : Line) => x.va / 64 % 128
  let (w, s) := s.wayFor ((keep.filter fun x => set x == set e).map (·.way)) 8
  s.modCore c fun k => { k with l1d := { e with way := w } :: keep.filter fun x => !(set x == set e && x.way == w) }

/-- What a translated access comes to. -/
inductive Look (α : Type) where
  | ok (v : α)
  | miss
  | bad (code : Nat)

/-- The bytes of one global line for a load: from the L1D, or through the TLB with a fill (R96, R97, R100). -/
def State.lineLoad (s : State) (c x h l va : Nat) : Look (State × List Byte) :=
  match (s.core c).l1d.find? fun e => e.l == l && e.va == va with
  | some e => if hasRights e.rights 1 then .ok (s.count c x h 5 1, e.bytes) else .bad 0x16
  | none =>
    match s.tlbFind (clusterOf c) l va with
    | none => if hasRights (leaseRights (s.lease l) va 1) 1 then .miss else .bad 0x16
    | some e =>
      if hasRights (e.pr &&& e.lr) 1 then
        let pa := e.pa va
        let bs := s.bytes (s.fwd pa) 64
        let s := if (s.poisoned (s.fwd pa) 64).isSome then s else s.l1Fill c ⟨l, va, pa, e.pr &&& e.lr, bs, 0⟩
        .ok ((s.count c x h 6 1).count c x h 15 1, bs)
      else .bad 0x16

/-- Bytes of a global load, line by line. -/
def State.globLoad (s : State) (c x h l va : Nat) : Nat → Look (State × List Byte)
  | 0 => .ok (s, [])
  | f + 1 =>
    match s.lineLoad c x h l (va / 64 * 64) with
    | .miss => .miss
    | .bad k => .bad k
    | .ok (s, bs) =>
      match s.globLoad c x h l ((va / 64 + 1) * 64) f with
      | .ok (s, r) => .ok (s, bs.drop (va % 64) ++ r)
      | r => r

/-- The key of a store's or an atomic's first byte (R97, R100): for the global space through the TLB with the rights needed. -/
def State.locate (s : State) (c l va need : Nat) : Look Nat :=
  match spaceOf va with
  | some (.own _ o) => .ok (spKey c o)
  | some (.other d o) => .ok (spKey d o)
  | some (.pool k o) => .ok (poolKey k o)
  | some (.camp o) => .ok (campKey o)
  | some (.host _ _) | some (.ctl _) => .ok va
  | none => .bad 0x15
  | some (.glob _) =>
    match s.tlbFind (clusterOf c) l va with
    | none => if hasRights (leaseRights (s.lease l) va 1) need then .miss else .bad 0x16
    | some e => if hasRights (e.pr &&& e.lr) need then .ok (e.pa va) else .bad 0x16

/-- The thread's own buffered bytes laid over what memory holds (R111). -/
def overlay (t : Thread) (name : Nat) (bs : List Byte) : List Byte :=
  t.buf.foldl (fun bs b =>
    let a := sigName b.va.toNat b.key
    bs.mapIdx fun i x =>
      if a ≤ name + i ∧ name + i < a + b.bytes.length then
        let j := name + i - a
        let m := if b.mask.isEmpty then 0xFF#8 else b.mask.getD j 0
        (b.bytes.getD j 0 &&& m) ||| (x &&& ~~~m)
      else x) bs

/-! ### Order with other accesses -/

/-- Scope codes wider than thread order an atomic as a fence before and after it (R120). -/
def wideOp (o : Op) : Bool := (o.kind == .atomic || o.kind == .fe) && o.scope != 0

/-- An access waits while an earlier atomic of a scope wider than thread is not performed (R110, R120). -/
def memGate : Ex Unit := do
  let s ← get
  if (s.opsOf s.latch.core s.latch.slot).any wideOp then park 6 else pure ()

/-- The open task becomes head-serialised, once what it has buffered can land (R118, R126, R347). -/
def becomeSerial : Ex Unit := do
  let s ← get
  match s.serialWait s.latch.core s.latch.slot with
  | some p => park p
  | none => modify fun s => s.serialise s.latch.core s.latch.slot

/-- The actions of R117: in a timed task they wait for its turn, and then it becomes head-serialised. -/
def headGate : Ex Unit := do
  let s ← get
  let t := s.cur
  if t.timed ∧ ¬ t.serial then
    if s.isHead t then becomeSerial else park 10
  else pure ()

/-- The own scratchpad, through any window or the other-cores form (R112, R126). -/
def isOwn (c va : Nat) : Bool :=
  match spaceOf va with
  | some (.own _ _) => true
  | some (.other d _) => d == c
  | _ => false

/-- The offset in the own scratchpad. -/
def ownOff (va : Nat) : Nat := va % 0x100000

/-- In a rope member's task an effect outside the own scratchpad traps (R126). -/
def ropeGate (va : Word) (own : Bool) : Ex Unit := do
  if (← get).cur.mem.isSome && !own then trap 0x19 va else pure ()

/-- A subscriber region of a core that the bytes touch (R131). -/
def State.subHit (s : State) (c o n : Nat) : Bool := (s.core c).sub.any fun p => p.2.v && overlap o n p.2.off (64 * p.2.len)

/-- A global access whose region's token this device does not hold moves the thread (R105): it parks until it may leave. Towards a holder that cannot
be reached it traps MIGRATE_DENIED: the model's choice (log 146). -/
def tokenGate (va : Word) : Ex Unit := do
  let s ← get
  match spaceOf va.toNat with
  | some (.glob a) =>
    if s.regionBusy a then park 6
    else if s.held a then pure ()
    else
      let t := s.cur
      if ¬ (s.opsOf s.latch.core s.latch.slot).isEmpty ∨ hasPending t ∨ ¬ t.vPend.isEmpty then park 11
      else if t.vcnt ≠ 0 ∨ t.mem.isSome ∨ (t.timed ∧ ¬ t.buf.isEmpty) ∨
          (s.core s.latch.core).cmds.any (fun m => m.slot == s.latch.slot && m.x == t.x) then trap 0x08 va
      else if !s.reach (s.holder a) then trap 0x08 va
      else parkWith 11 fun s => s.modCur fun t => { t with st := .leaving, leave := .migrate (s.holder a) s.latch.core }
  | _ => pure ()

/-! ### Loads and stores (R224 to R226, R112) -/

/-- Issues a scalar load (R225): its destination is pending until LOAD_DATA_RETURN. -/
def doLoad (f : Mem) (n : Nat) (sgn : Bool) : Ex Unit := do
  let a ← src f.a
  let va := a + BitVec.ofNat 64 (f.i.toNat * n)
  memGate
  checkAccess va (va.toNat + n - 1) n 0
  tokenGate va
  setSlot f.s.toNat
  issueTo f.d.toNat fun o => { o with kind := .load, addr := va, n := n, sgn := sgn, sb := f.s.toNat }

/-- Names of the commit-buffer lines that stores take. -/
def pieceLines (l : List BufStore) : List Nat := l.flatMap fun b => linesOf (sigName b.va.toNat b.key) b.bytes.length

/-- Lines that a thread's buffered stores take, those not yet acknowledged included (R65). -/
def State.bufUse (s : State) (c h : Nat) : List Nat :=
  distinct (pieceLines (s.thread c h).buf ++ (s.opsOf c h).flatMap fun o => pieceLines o.pieces)

/-- Room in the commit buffer for buffered stores (R65, R118): where its task's quota or its context's lines are used up the task becomes
head-serialised, a timed one when it is head. -/
def quotaGate (ps : List BufStore) : Ex Unit := do
  let s ← get
  let c := s.latch.core
  let t := s.cur
  if t.serial then pure ()
  else
    let all := distinct (s.bufUse c s.latch.slot ++ pieceLines ps)
    let others := (s.threadsOf c).foldl (fun a p => if p.1 ≠ s.latch.slot ∧ p.2.x = t.x then a + (s.bufUse c p.1).length else a) 0
    if t.tq < all.length then
      if t.timed ∧ ¬ s.isHead t then park 10 else becomeSerial
    else if s.curCtx.cq < others + all.length then
      if t.timed ∧ ¬ s.isHead t then park 6 else becomeSerial
    else pure ()

/-- A direct store lands at issue (R112); one that a head-serialised timed task writes through is checked against later tasks (R116). -/
def landDirect (b : BufStore) : Ex Unit := modify fun s =>
  let c := s.latch.core
  let t := s.cur
  let s := (s.land c b.key (s.merged b)).watch c t.x s.latch.slot b.key b.bytes.length 1
  if t.serial && t.timed then (linesOf b.key b.bytes.length).foldl (fun s l => s.conflict t (64 * l)) s else s

/-- Issues a store whose bytes are checked, each piece within one line (R112, R226): direct pieces land at once, the others wait for
STORE_ACK. -/
def doStore (kind : OpKind) (va : Word) (ps : List BufStore) (sb : Nat) : Ex Unit := do
  let s ← get
  let c := s.latch.core
  setSlot sb
  if isOwn c va.toNat then
    match ps.find? fun b => s.subHit c (b.key % 0x100000) b.bytes.length with
    | some b => trap 0x18 b.va
    | none => pure ()
    let direct := fun (b : BufStore) => (s.srcHits c (b.key % 0x100000) b.bytes.length).isEmpty
    let held := ps.filter fun b => !direct b
    if held.isEmpty then pure () else quotaGate held
    if (← get).cur.serial && !s.landRoom (held.map fun b => (b.key, b.bytes.length)) then park 13 else pure ()
    (ps.filter direct).forM landDirect
    issue fun o => { o with kind := kind, addr := va, sb := sb, pieces := held, at_ := if held.isEmpty then 1 else 0 }
  else do
    quotaGate ps
    issue fun o => { o with kind := kind, addr := va, sb := sb, pieces := ps }

/-- The memory key of an address as far as the map alone gives it; global addresses are translated later. -/
def keyAt (c va : Nat) : Nat :=
  match spaceOf va with
  | some (.own _ o) => spKey c o
  | some (.other d o) => spKey d o
  | some (.pool k o) => poolKey k o
  | some (.camp o) => campKey o
  | _ => va

/-- Bytes of an unconverted store as pieces within lines. -/
def piecesAt (c : Nat) (va : Word) : List Byte → List BufStore
  | [] => []
  | b :: l =>
    match piecesAt c (va + 1) l with
    | p :: r => if (va + 1).toNat % 64 = 0 then ⟨va, keyAt c va.toNat, [b], [], 0⟩ :: p :: r else ⟨va, keyAt c va.toNat, b :: p.bytes, [], 0⟩ :: r
    | [] => [⟨va, keyAt c va.toNat, [b], [], 0⟩]

/-- A scalar store (R226). -/
def scalarStore (f : Mem) (n : Nat) : Ex Unit := do
  let d ← src f.d
  let a ← src f.a
  let va := a + BitVec.ofNat 64 (f.i.toNat * n)
  memGate
  checkAccess va (va.toNat + n - 1) n 1
  tokenGate va
  doStore .store va (piecesAt (← get).latch.core va (toBytes n d.toNat)) f.s.toNat

end Sys2Proof.Machine
end

