-- ==== Sys2Proof/Machine/Fp.lean ====
section
/-! DEFINITION. Number formats and arithmetic (R139 to R160): encodings, exact values, the one rounding, block scales, dot products. -/

namespace Sys2Proof.Machine

/-! ### Encodings (R139 to R144) -/

/-- A floating encoding (R140): exponent and mantissa bits, bias, and kind: 0 with infinities, 1 E4M3, 2 finite values only. -/
structure Fmt where
  eb : Nat
  mb : Nat
  bias : Nat
  kind : Nat := 0
deriving DecidableEq, Repr

def fp32 : Fmt := ⟨8, 23, 127, 0⟩
def bf16 : Fmt := ⟨8, 7, 127, 0⟩
def fp16 : Fmt := ⟨5, 10, 15, 0⟩
def e5m2 : Fmt := ⟨5, 2, 15, 0⟩
def e4m3 : Fmt := ⟨4, 3, 7, 1⟩
def e3m2 : Fmt := ⟨3, 2, 3, 2⟩
def e2m3 : Fmt := ⟨2, 3, 1, 2⟩
def e2m1 : Fmt := ⟨2, 1, 1, 2⟩

/-- An element's encoding: floating, L6, or an integer of a signedness and width (R139, R142). -/
inductive Ty where
  | fp (f : Fmt)
  | l6
  | int (sgn : Bool) (w : Nat)
deriving DecidableEq, Repr

def Ty.width : Ty → Nat
  | .fp f => 1 + f.eb + f.mb
  | .l6 => 6
  | .int _ w => w

def Ty.isInt : Ty → Bool
  | .int .. => true
  | _ => false

/-- Vector types by code (R66, R176). -/
def vty (t : Nat) : Ty :=
  if t = 8 then .fp bf16 else if t = 9 then .fp fp16 else if t = 10 then .fp fp32 else .int (vtySigned t) (vtyWidth t)

/-- Element encodings of the format codes (R139). -/
def fmtTy (c : Nat) : Ty :=
  match c with
  | 0 => .fp fp32
  | 1 => .fp bf16
  | 2 => .fp fp16
  | 3 | 8 => .fp e4m3
  | 4 | 9 => .fp e5m2
  | 5 | 14 => .int true 8
  | 6 => .int false 8
  | 7 | 13 => .l6
  | 10 => .fp e3m2
  | 11 => .fp e2m3
  | 12 => .fp e2m1
  | _ => .int true 4

/-- Formats 8 to 15 carry block scales (R139). -/
def fmtScaled (c : Nat) : Bool := decide (8 ≤ c)

/-- An exact value: NaN, an infinity, or (−1)^s × m × 2^e. -/
inductive Val where
  | nan
  | inf (s : Bool)
  | fin (s : Bool) (m : Nat) (e : Int)
deriving DecidableEq, Repr

/-- How a result is rounded: mode, FZI, FZO, saturation control, and the generator's low half (R148 to R154). -/
structure Rnd where
  rm : Nat := 0
  fzi : Bool := false
  fzo : Bool := false
  ctl : Bool := false
  g : Nat := 0
deriving DecidableEq, Repr

/-- FZI and FZO act on FP32, BF16 and FP16 only (R154). -/
def Fmt.flushes (f : Fmt) : Bool := f == fp32 || f == bf16 || f == fp16

/-- T of R144. -/
def l6T (j : Nat) : Nat := [0x8000, 0x9838, 0xB505, 0xD745, 0x10000].getD j 0

/-- The value of an encoding (R140, R142, R143), subnormals flushed under FZI. -/
def decTy (fzi : Bool) : Ty → Nat → Val
  | .fp f, v =>
    let s := bit v (f.eb + f.mb)
    let e := bits v f.mb f.eb
    let m := bits v 0 f.mb
    let top := 2 ^ f.eb - 1
    if f.kind = 0 ∧ e = top then (if m = 0 then .inf s else .nan)
    else if f.kind = 1 ∧ e = top ∧ m = 2 ^ f.mb - 1 then .nan
    else if e = 0 then
      if fzi && f.flushes then .fin s 0 0 else .fin s m (1 - (f.bias : Int) - (f.mb : Int))
    else .fin s (2 ^ f.mb + m) ((e : Int) - (f.bias : Int) - (f.mb : Int))
  | .l6, v =>
    let m := bits v 0 5
    if m = 0 then .fin (bit v 5) 0 0 else .fin (bit v 5) (l6T (m % 4)) ((m / 4 : Nat) - 19)
  | .int sgn w, v =>
    let x : Int := if sgn then sInt w v else (bits v 0 w : Int)
    .fin (decide (x < 0)) x.natAbs 0

/-! ### Rounding (R148, R149) -/

/-- One step of the stochastic-rounding generator (R149). -/
def srStep (x : BitVec 32) : BitVec 32 :=
  let x := x ^^^ (x <<< 13)
  let x := x ^^^ (x >>> 17)
  x ^^^ (x <<< 5)

/-- Whether the value above is taken, when `rem` of `den` lies above the value below (R148). -/
def roundUp (r : Rnd) (s odd : Bool) (rem den : Nat) : Bool :=
  match r.rm with
  | 0 => decide (den < 2 * rem) || (decide (den = 2 * rem) && odd)
  | 1 => false
  | 2 => decide (rem ≠ 0) && !s
  | 3 => decide (rem ≠ 0) && s
  | 4 => decide (den ≤ 2 * rem)
  | _ => decide (65536 ≤ rem * 65536 / den + r.g)

/-- The exponent of the highest bit of `m × 2^e`. -/
def ilog (m : Nat) (e : Int) : Int := (Nat.log2 m : Int) + e

/-- `m × 2^e` as a whole number of units `2^q`, with the remainder and the unit of the remainder. -/
def inUnits (m : Nat) (e q : Int) : Nat × Nat × Nat :=
  if q ≤ e then (m * 2 ^ (e - q).toNat, 0, 1)
  else let d := 2 ^ (q - e).toNat; (m / d, m % d, d)

/-- A magnitude rounded to a whole number of units `2^q`. -/
def roundUnits (r : Rnd) (s : Bool) (m : Nat) (e q : Int) : Nat :=
  let u := inUnits m e q
  if roundUp r s (u.1 % 2 == 1) u.2.1 u.2.2 then u.1 + 1 else u.1

/-- The canonical NaN, or what a NaN becomes (R140, R151). -/
def nanOf (f : Fmt) : Nat :=
  if f.kind = 0 then (2 ^ f.eb - 1) * 2 ^ f.mb + 2 ^ (f.mb - 1) else if f.kind = 1 then 2 ^ (f.eb + f.mb) - 1 else 0

/-- The largest finite encoding of a format, without its sign. -/
def maxFin (f : Fmt) : Nat :=
  if f.kind = 0 then (2 ^ f.eb - 1) * 2 ^ f.mb - 1 else if f.kind = 1 then 2 ^ (f.eb + f.mb) - 2 else 2 ^ (f.eb + f.mb) - 1

def withSign (f : Fmt) (s : Bool) (v : Nat) : Nat := b2n s * 2 ^ (f.eb + f.mb) + v

/-- An overflow (R150). -/
def overflowed (f : Fmt) (r : Rnd) (s : Bool) : Nat :=
  if f.kind = 2 ∨ r.ctl then withSign f s (maxFin f)
  else if f.kind = 1 then nanOf f
  else if r.rm = 1 ∨ r.rm = 2 ∧ s ∨ r.rm = 3 ∧ ¬ s then withSign f s (maxFin f)
  else withSign f s (maxFin f + 1)

/-- A value in a floating encoding, rounded once (R148, R150, R151, R154). -/
def encFp (f : Fmt) (r : Rnd) : Val → Nat
  | .nan => nanOf f
  | .inf s =>
    if f.kind = 0 then withSign f s (maxFin f + 1)
    else if f.kind = 1 ∧ ¬ r.ctl then nanOf f
    else withSign f s (maxFin f)
  | .fin s m e =>
    if m = 0 then withSign f s 0
    else
      let low : Int := 1 - (f.bias : Int) - (f.mb : Int)
      let q := max (ilog m e - (f.mb : Int)) low
      let v := (q - low).toNat * 2 ^ f.mb + roundUnits r s m e q
      if maxFin f < v then overflowed f r s
      else if r.fzo && f.flushes && decide (v < 2 ^ f.mb) then withSign f s 0
      else withSign f s v

/-- A value in L6 (R153). -/
def encL6 (r : Rnd) : Val → Nat
  | .nan => 0
  | .inf s => b2n s * 32 + 31
  | .fin s m e =>
    if m = 0 then b2n s * 32
    else
      let k := ilog m e
      let u := inUnits m e (k - 23)
      let x := if u.2.1 = 0 then u.1 else if u.1 % 2 = 0 then u.1 + 1 else u.1
      let j : Nat := if l6T 3 * 256 ≤ x then 3 else if l6T 2 * 256 ≤ x then 2 else if l6T 1 * 256 ≤ x then 1 else 0
      let lo : Int := 16 + 4 * k + j
      let pick := fun (num mid : Nat) (even : Bool) => match r.rm with
        | 1 => false
        | 2 => !s
        | 3 => s
        | 4 => decide (mid ≤ num)
        | _ => decide (mid < num) || (decide (mid = num) && !even)
      let m' : Int :=
        if 1 ≤ lo then
          if x = l6T j * 256 ∧ u.2.1 = 0 then lo
          else if pick (2 * x) ((l6T j + l6T (j + 1)) * 256) (lo % 2 == 0) then lo + 1 else lo
        else
          let num := if 0 ≤ e + 20 then m * 2 ^ (e + 20).toNat else m
          let mid := if 0 ≤ e + 20 then l6T 1 else l6T 1 * 2 ^ (-(e + 20)).toNat
          if pick num mid true then 1 else 0
      b2n s * 32 + (min m' 31).toNat

/-- A value in an integer type (R151, R152): from an integer source it saturates only under the control, from a floating one
always. A negative value of a narrower integer source, which the table of R150 does not name for an unsigned destination, is treated alike: the model's
choice (log 148). -/
def encInt (sgn : Bool) (w : Nat) (fromInt : Bool) (r : Rnd) (v : Val) : Nat :=
  let lo : Int := if sgn then -(2 ^ (w - 1) : Nat) else 0
  let hi : Int := if sgn then (2 ^ (w - 1) : Nat) - 1 else (2 ^ w : Nat) - 1
  match v with
  | .nan => 0
  | .inf s => wrap w (if s then lo else hi)
  | .fin s m e =>
    let a := roundUnits r s m e 0
    let x : Int := if s then -(a : Int) else a
    wrap w (if fromInt && !r.ctl then x else satInt lo hi x)

/-- A value encoded, rounded once. -/
def encTy (t : Ty) (fromInt : Bool) (r : Rnd) (v : Val) : Nat :=
  match t with
  | .fp f => encFp f r v
  | .l6 => encL6 r v
  | .int sgn w => encInt sgn w fromInt r v

/-- A conversion of an encoding to another type (R148 to R153). -/
def convTy (src dst : Ty) (r : Rnd) (v : Nat) : Nat := encTy dst src.isInt r (decTy r.fzi src v)

/-! ### Exact operations (R141, R199) -/

def Val.neg : Val → Val
  | .nan => .nan
  | .inf s => .inf !s
  | .fin s m e => .fin (!s) m e

/-- The signed multiple of `2^q`, for `q` not above the exponent. -/
def signedUnits (s : Bool) (m : Nat) (e q : Int) : Int :=
  let a : Int := (m : Int) * (2 : Int) ^ (e - q).toNat
  if s then -a else a

/-- A sum; an exact zero sum is −0 in RDN or where both addends are −0. -/
def Val.add (rm : Nat) : Val → Val → Val
  | .nan, _ | _, .nan => .nan
  | .inf s, .inf t => if s = t then .inf s else .nan
  | .inf s, .fin .. | .fin .., .inf s => .inf s
  | .fin s m e, .fin t n f =>
    let q := min e f
    let x := signedUnits s m e q + signedUnits t n f q
    if x = 0 then .fin (decide (rm = 3) || (s && t && m == 0 && n == 0)) 0 0
    else .fin (decide (x < 0)) x.natAbs q

/-- A product. -/
def Val.mul : Val → Val → Val
  | .nan, _ | _, .nan => .nan
  | .inf s, .inf t => .inf (s != t)
  | .inf s, .fin t n _ | .fin t n _, .inf s => if n = 0 then .nan else .inf (s != t)
  | .fin s m e, .fin t n f => .fin (s != t) (m * n) (e + f)

/-- A quotient, with a sticky bit far below any rounding position. -/
def Val.div : Val → Val → Val
  | .nan, _ | _, .nan => .nan
  | .inf _, .inf _ => .nan
  | .inf s, .fin t _ _ => .inf (s != t)
  | .fin s _ _, .inf t => .fin (s != t) 0 0
  | .fin s m e, .fin t n f =>
    if n = 0 then (if m = 0 then .nan else .inf (s != t))
    else
      let sh := 96 + Nat.log2 n
      let a := m * 2 ^ sh
      .fin (s != t) (2 * (a / n) + (if a % n = 0 then 0 else 1)) (e - f - sh - 1)

/-- The integer square root, by bits from `2^i` down. -/
def isqrt (n : Nat) : Nat → Nat → Nat
  | 0, r => if (r + 1) * (r + 1) ≤ n then r + 1 else r
  | i + 1, r => isqrt n i (if (r + 2 ^ (i + 1)) * (r + 2 ^ (i + 1)) ≤ n then r + 2 ^ (i + 1) else r)

/-- A square root, with a sticky bit far below any rounding position. -/
def Val.sqrt : Val → Val
  | .nan => .nan
  | .inf s => if s then .nan else .inf false
  | .fin s m e =>
    if m = 0 then .fin s 0 0
    else if s then .nan
    else
      let sh : Nat := if (e % 2 == 0) then 128 else 129
      let a := m * 2 ^ sh
      let r := isqrt a (Nat.log2 a / 2 + 1) 0
      .fin false (2 * r + (if r * r = a then 0 else 1)) ((e - sh) / 2 - 1)

/-- `a` is below `b`; zeros are equal. Neither is NaN. -/
def Val.lt : Val → Val → Bool
  | .inf s, .inf t => s && !t
  | .inf s, .fin .. => s
  | .fin .., .inf t => !t
  | .fin s m e, .fin t n f =>
    let q := min e f
    decide (signedUnits s m e q < signedUnits t n f q)
  | _, _ => false

def Val.isNan : Val → Bool
  | .nan => true
  | _ => false

def Val.sign : Val → Bool
  | .nan => false
  | .inf s => s
  | .fin s _ _ => s

/-- −0 is below +0 in minimumNumber and maximumNumber (R200). -/
def Val.below (a b : Val) : Bool := a.lt b || (!(b.lt a) && a.sign && !b.sign)

/-- minimumNumber, maximumNumber (R200). -/
def Val.minMax (isMax : Bool) (a b : Val) : Val :=
  if a.isNan then b else if b.isNan then a
  else if isMax then (if a.below b then b else a) else (if b.below a then b else a)

/-- The compares of `fcmp` (R201). -/
def Val.cmp (cc : Nat) (a b : Val) : Bool :=
  let un := a.isNan || b.isNan
  match cc with
  | 0 => !un && !a.lt b && !b.lt a
  | 1 => un || a.lt b || b.lt a
  | 2 => !un && a.lt b
  | 3 => !un && !b.lt a
  | 4 => !un && b.lt a
  | 5 => !un && !a.lt b
  | _ => un

/-- An exact sum of many values, all whole multiples of `2^q` (R286). -/
def Val.sum (rm : Nat) (q : Int) (l : List Val) : Val :=
  let inf := l.filterMap fun v => match v with | .inf s => some s | _ => none
  if l.any Val.isNan ∨ (inf.contains true ∧ inf.contains false) then .nan
  else match inf with
    | s :: _ => .inf s
    | [] =>
      let x := l.foldl (fun (a : Int) v => match v with | .fin s m e => a + signedUnits s m e q | _ => a) 0
      if x = 0 then .fin (decide (rm = 3) || l.all Val.sign) 0 0 else .fin (decide (x < 0)) x.natAbs q

/-! ### FP32 shortcuts -/

/-- Round to nearest even, subnormals kept: bank units, atomics, accumulators (R90, R141, R157, R228). -/
def rne : Rnd := {}

def f32 (v : Nat) : Val := decTy false (.fp fp32) v
def f32Add (a b : Nat) : Nat := encFp fp32 rne ((f32 a).add 0 (f32 b))
def f32MinMax (isMax : Bool) (a b : Nat) : Nat := encFp fp32 rne ((f32 a).minMax isMax (f32 b))

/-! ### Block scales (R146, R147) -/

/-- A decoded element under its block scale. -/
def underScale (v : Val) (scale : Nat) : Val :=
  if scale = 255 then .nan
  else match v with
    | .fin s m e => .fin s m (e + (scale : Int) - 127)
    | v => v

/-- `p` of R147 for an element encoding. -/
def scaleP : Ty → Nat
  | .fp f => if f = e4m3 then 8 else if f = e5m2 then 15 else if f = e3m2 then 4 else 2
  | .l6 => 3
  | .int _ w => if w = 8 then 6 else 2

/-- The larger magnitude; NaN counts for nothing. -/
def magMax (a b : Val) : Val :=
  let mag : Val → Val := fun v => match v with | .nan => .fin false 0 0 | .inf _ => .inf false | .fin _ m e => .fin false m e
  if (mag a).lt (mag b) then mag b else mag a

/-- The scale byte that a block's values compute (R147). -/
def scaleOf (t : Ty) (l : List Val) : Nat :=
  match l.foldl magMax (.fin false 0 0) with
  | .inf _ => 255
  | .fin _ m e => if m = 0 then 127 else (satInt 0 254 (ilog m e - (scaleP t : Int) + 127)).toNat
  | .nan => 127

/-- An element encoded against its block scale (R84, R147): all zero where the scale is 255. -/
def encScaled (t : Ty) (r : Rnd) (scale : Nat) (v : Val) : Nat :=
  if scale = 255 then 0
  else encTy t false r (match v with | .fin s m e => .fin s m (e + 127 - (scale : Int)) | v => v)

/-! ### Dot products (R145, R155 to R158) -/

/-- Accumulator kind and group size of an operand pair (R155): true is I32. -/
def pairOf (a b : Nat) : Option (Bool × Nat) :=
  let both := fun (l : List Nat) => l.contains a && l.contains b
  if both [0] then some (false, 4)
  else if both [1] || both [2] then some (false, 8)
  else if both [3, 4] || both [8, 9] || both [14] then some (false, 16)
  else if both [5, 6] then some (true, 16)
  else if both [7] || both [13] || both [10, 11, 12] || both [15] then some (false, 32)
  else none

/-- One exact product (R156), L6 as R145 gives it; the scales are 127 for unscaled formats. -/
def product (ta tb : Ty) (a b sa sb : Nat) : Val :=
  if sa = 255 ∨ sb = 255 then .nan
  else
    let p := match ta, tb with
      | .l6, .l6 =>
        let ma := bits a 0 5
        let mb := bits b 0 5
        let s := bit a 5 != bit b 5
        if ma = 0 ∨ mb = 0 then Val.fin s 0 0
        else .fin s (l6T ((ma + mb) % 4)) ((((ma + mb) / 4 : Nat) : Int) - 23)
      | _, _ => (decTy false ta a).mul (decTy false tb b)
    match p with
    | .fin s m e => .fin s m (e + (sa : Int) + (sb : Int) - 254)
    | v => v

/-- GroupSum for an FP32 accumulator (R157). -/
def groupSum (l : List Val) : Nat :=
  let inf := l.filterMap fun v => match v with | .inf s => some s | _ => none
  if l.any Val.isNan ∨ (inf.contains true ∧ inf.contains false) then nanOf fp32
  else match inf with
    | s :: _ => encFp fp32 rne (.inf s)
    | [] =>
      let nz := l.filterMap fun v => match v with | .fin s m e => if m = 0 then none else some (s, m, e) | _ => none
      match nz with
      | [] => encFp fp32 rne (.fin (l.all Val.sign) 0 0)
      | p :: r =>
        let emax := r.foldl (fun a x => max a (ilog x.2.1 x.2.2)) (ilog p.2.1 p.2.2)
        let u := emax - 48
        let t := nz.map fun x => (x.1, inUnits x.2.1 x.2.2 u)
        let sum := t.foldl (fun (a : Int) x => if x.1 then a - x.2.1 else a + x.2.1) 0
        let sticky := t.any fun x => x.2.2.1 != 0
        if sum = 0 then encFp fp32 rne (.fin false 0 0)
        else encFp fp32 rne (.fin (decide (sum < 0)) (2 * sum.natAbs + b2n sticky) (u - 1))

/-- GroupSum for an I32 accumulator (R158). -/
def groupSumI (v : Int) (l : List Val) : Int :=
  satInt (-(2 ^ 31)) (2 ^ 31 - 1) (l.foldl (fun a x => match x with | .fin s m _ => if s then a - m else a + m | _ => a) v)

end Sys2Proof.Machine
end

