-- ==== Sys2Proof/Machine/Tasks.lean ====
section
/-! DEFINITION. Tasks: their end, their opening, kills; `tbeg`, `tend`, `tabort`, `tserial`, `tstamp`. -/

namespace Sys2Proof.Machine

def setDefer (d : Defer) : Ex Unit := modify fun s => { s with latch := { s.latch with defer := d } }

/-- The 32-bit word of the slot, as TVAL names it (R163). -/
def trapWord {α : Type} (code : Nat) : Ex α := do trap code ((← get).latch.word.setWidth 64)

/-- The open task ends as `tend` ends it (R238): faulted entries are taken (R31), the waits of R110, R114 and R115 are made, and the task
commits. -/
def endTask : Ex Unit := do
  let s ← get
  let c := s.latch.core
  let h := s.latch.slot
  if s.cur.task then
    match badEntry s.pre with
    | some z => throw (.cause z)
    | none =>
      match s.commitWait c h with
      | some p => park p
      | none => modify fun s => s.commit c h
  else pure ()

/-! ### Ropes: the start of a release (R133, R258 to R260) -/

/-- A rope's member entry. -/
def State.member (s : State) (m : Member) : RMem := Table.get {} m.idx (s.rope m.rope).mem
def State.modMember (s : State) (r i : Nat) (f : RMem → RMem) : State :=
  s.modRope r fun p => { p with mem := Table.set i (f (Table.get {} i p.mem)) p.mem }

/-- The rope can no longer meet its quorum (R262). -/
def cannotMeet (r : Rope) : Bool :=
  decide (r.st = 1 ∨ r.st = 2) && decide (r.arrived + (r.mem.filter fun p => p.2.j && !p.2.cnt && !p.2.dead).length < r.q)

/-- The rope word of a rope of this device (R255). -/
def State.ropeWord (s : State) (n : Nat) : Word := BitVec.ofNat 64 (n + s.dev.devno * 2 ^ 32)

/-- An arrival ends with a status (R258): its range lock goes and its `rparr` gets its result; one of another device is answered. -/
def State.endArrival (s : State) (p : RPend) (v : Word) : State :=
  if p.dev = s.dev.devno then
    match s.opById p.op with
    | some o =>
      let s := s.modCore o.core fun k => { k with locks := k.locks.filter (·.cmd != o.id) }
      (s.modThread o.core o.slot fun t => { t with arriving := false }).complete o v
    | none => s
  else s.sendPacket { dst := p.dev, cls := 1, ty := 11, tag := p.op, bank := 0, body := toBytes 8 v.toNat }

/-- A kill notice goes to a member (R259), on this device or on the other one where it runs. -/
def State.killNotice (s : State) (dev thid : Nat) (w : Word) (now : Bool) : State :=
  if dev = s.dev.devno then
    match s.find thid with
    | some (c, h) => s.modThread c h fun t => { t with kill := some ⟨w, now⟩ }
    | none => s.modSaved thid fun t => { t with kill := some ⟨w, now⟩ }
  else s.sendPacket { dst := dev, cls := 2, ty := 10, tag := thid, bank := 0, body := toBytes 8 w.toNat ++ toBytes 8 (b2n now) }

/-- The release starts (R133, R260 steps 1 and 2): STATE is RELEASING, entries of members not counted are dropped, and stragglers are
treated by the policy. -/
def State.startRelease (s : State) (n : Nat) (short : Bool) : State :=
  let r := s.rope n
  let lost := r.pend.filter fun p => !p.counted
  let s := s.modRope n fun r => { r with st := 3, short := short, pend := r.pend.filter (·.counted) }
  let s := lost.foldl (fun s p =>
    if r.kill = 0 then (s.modRope n fun r => { r with late := min 255 (r.late + 1) }).endArrival p 1 else s) s
  let s := r.mem.foldl (fun s p =>
    if ¬ p.2.j ∨ p.2.cnt ∨ p.2.dead ∨ r.kill = 0 then s
    else if r.kill = 2 ∨ lost.any (fun q => q.m == p.1) then
      ((s.modMember n p.1 fun e => { e with kd := true }).modRope n fun r => { r with killed := r.killed + 1 }).killNotice p.2.dev p.2.thid (s.ropeWord n) true
    else (s.modMember n p.1 fun e => { e with kp := true }).killNotice p.2.dev p.2.thid (s.ropeWord n) false) s
  { s with agenda := s.agenda ++ [⟨.ropeRelease, { id := n }⟩] }

/-- The test of R262: a rope that can no longer meet its quorum releases short. -/
def State.shortTest (s : State) (n : Nat) : State := if cannotMeet (s.rope n) then s.startRelease n true else s

/-- A rope of this device loses a member (R261): JOINED falls and the weight stays in WTOT. -/
def State.memberLeaves (s : State) (n i : Nat) : State :=
  if (Table.get {} i (s.rope n).mem).j then
    ((s.modMember n i fun e => { e with j := false, kp := false }).modRope n fun r => { r with joined := r.joined - 1 }).shortTest n
  else s

/-- A thread that was a member is one no longer; a rope on another device is told. -/
def State.memberGone (s : State) : Option Member → State
  | none => s
  | some m => if m.dev ≠ s.dev.devno then s.tell m.dev 6 0 [BitVec.ofNat 64 (m.rope + 65536 * m.idx)] else s.memberLeaves m.rope m.idx

/-- A thread leaves its rope (R261, R247). -/
def State.leaveRope (s : State) (c h : Nat) : State :=
  if (s.thread c h).mem.isNone then s
  else (s.modThread c h fun t => { t with mem := none, killPc := 0, kill := none }).memberGone (s.thread c h).mem

/-- A member has been killed at a kill point (R259, R386). -/
def State.killedAt (s : State) (n i : Nat) : State :=
  if (Table.get {} i (s.rope n).mem).kp then
    (s.modMember n i fun e => { e with kp := false, kd := true }).modRope n fun r => { r with killed := r.killed + 1 }
  else s

/-- A straggler kill (R47, R135, R259): as for an abort; the thread resumes at its handler with k0 holding the rope word, in a new
implicit task, or, with a handler of 0, leaves the rope and exits. A rope on another device is told of a kill at a kill point. -/
def State.killThread (s : State) (c h : Nat) (w : Word) : State :=
  let s := match (s.thread c h).mem, (s.thread c h).kill with
    | some m, some n =>
      if n.now then s
      else if m.dev = s.dev.devno then s.killedAt m.rope m.idx
      else s.tell m.dev 22 0 [BitVec.ofNat 64 (m.rope + 65536 * m.idx)]
    | _, _ => s
  let s := (s.abandon c h).orphanOps c h
  if (s.thread c h).killPc = 0 then
    (s.leaveRope c h).modThread c h fun t => { t with st := .leaving, leave := .fatal, kill := none, wait := .none, trapDue := none, due := [], held := []
                                                      regPend := [], vPend := [] }
  else (s.modThread c h fun t => { t with killing := true, kill := some ⟨w, true⟩ }).startAnew c h

/-- `tbeg` (R235, R237). -/
def execTbeg (a : BitVec 6) (k : BitVec 2) (s : State) : Host.Outcome State Fault Refusal :=
  runC 0 (do
    let ts ← if k.toNat = 0 then pure 0 else src a
    endTask
    let s ← get
    let c := s.latch.core
    let ended := fun (s : State) => if s.cur.task then s.commit c s.latch.slot else s
    if s.curCtx.drain then parkWith 10 fun s => (ended s).modCur fun t => { t with task := false }
    else if k.toNat = 0 then setDefer (.open_ true none)
    else if s.behind (s.instOf (k.toNat - 1) c) s.cur ts then throw (.late (fun s => (ended s).openNext c s.latch.slot) 0x1B ts)
    else setDefer (.open_ true (some (k.toNat - 1, ts)))) s

/-- `tend` (R238). -/
def execTend (s : State) : Host.Outcome State Fault Refusal :=
  runC 0 (do endTask; setDefer .implicit) s

/-- `tabort` (R239). -/
def execTabort (s : State) : Host.Outcome State Fault Refusal :=
  runC 0 (do modify fun s => s.abandon s.latch.core s.latch.slot; setDefer .implicit) s

/-- `tserial` (R240, R118). -/
def execTserial (s : State) : Host.Outcome State Fault Refusal :=
  runC 0 (do
    let s ← get
    if s.cur.timed ∧ ¬ s.cur.serial ∧ ¬ s.isHead s.cur then park 10 else becomeSerial) s

/-- `tstamp` (R241). -/
def execTstamp (a : BitVec 6) (s : State) : Host.Outcome State Fault Refusal :=
  runC 0 (do
    let ts ← src a
    let s ← get
    let t := s.cur
    match t.timed, t.inst with
    | true, some i =>
      if t.serial then trapWord 0x10
      else if i.dev ≠ s.dev.devno then
        match t.wait with
        | .reply _ _ => park 10
        | .done v => if v = 0 then modCur fun t => { t with wait := .none, tstamp := ts } else do
            trap 0x1B ts
        | _ => parkWith 10 fun s => ((s.modCur fun t => { t with wait := .reply s.nextOp i.dev }).askInstance s.latch.core s.latch.slot i 5 1 ts)
      else if s.behind i t ts then trap 0x1B ts
      else modCur fun t => { t with tstamp := ts }
    | _, _ => modCur fun t => { t with tstamp := ts }) s

end Sys2Proof.Machine
end

