-- ==== Sys2Proof/Machine/Control.lean ====
section
/-! DEFINITION. Control flow, windows and frames, traps and waits, constants (R192, R203 to R214). -/

namespace Sys2Proof.Machine

/-- At the wake from `sleep`, promises of `cpyp` commands that the counter has reached and that have not completed raise PROMISE_MISS at the
next bundle boundary, with the lowest of them (R324). -/
def checkPromises : Ex Unit := do
  let s ← get
  let l := (s.cur.promises.map Prod.fst).filter fun p => decide (p ≤ s.dev.clock)
  match l with
  | [] => pure ()
  | p :: r => modCur fun t => { t with held := t.held ++ [⟨4, BitVec.ofNat 64 (r.foldl min p), t.pc, false, false, 0, 0⟩] }

/-- The target of a PC-relative transfer (R204, R205, R207). -/
def relTarget (pc : Word) (off : BitVec n) : Word := pc + (off.signExtend 64 <<< 2)

/-- `nop` (R203). -/
def execNop (s : State) : Host.Outcome State Fault Refusal := runC 0 (pure ()) s

/-- `br` (R204). -/
def execBr (n : BitVec 1) (p : BitVec 4) (o : BitVec 19) (s : State) : Host.Outcome State Fault Refusal :=
  runC 0 (do
    let b ← readPred p
    if b != (n == 1#1) then setDefer (.jump (relTarget s.cur.pc o)) else pure ()) s

/-- `jmp` (R205). -/
def execJmp (o : BitVec 24) (s : State) : Host.Outcome State Fault Refusal :=
  runC 0 (setDefer (.jump (relTarget s.cur.pc o))) s

/-- `jmpr` (R205). -/
def execJmpr (a : BitVec 6) (s : State) : Host.Outcome State Fault Refusal :=
  runC 0 (do let v ← src a; setDefer (.jump v)) s

/-- `RoomCheck()` of R210: the window that leaves the core at this call is given its storage. -/
def roomCheck : Ex Unit := do
  let s ← get
  let t := s.cur
  let k := s.homeArea t
  if 65535 ≤ t.depth then trap 0x07 t.sp
  else if t.depth + 1 ≤ 2 then pure ()
  else if t.oc = 0 ∧ s.bivB t + 64 * (t.sc + 1) ≤ t.sp.toNat then modCur fun t => { t with sc := t.sc + 1 }
  else if t.x = 0 ∧ t.oc + 1 ≤ k.2.2.2 then modCur fun t => { t with oc := t.oc + 1 }
  else trap 0x07 t.sp

/-- A register that a `call` saves or a `ret` restores is pending: k4 to k7, sp, or one of the window that `ret` takes back (R35, R188). -/
def windowPending (back : Bool) (t : Thread) : Bool :=
  t.regPend.any fun p => p.1 == 37 || decide (20 ≤ p.1 ∧ p.1 < 24) || (back && p.1 / 4 == 16 + t.depth)

def windowGate (back : Bool) : Ex Unit := do if windowPending back (← get).pre then park 0 else pure ()

/-- `call` (R207). -/
def execCall (o : BitVec 24) (s : State) : Host.Outcome State Fault Refusal :=
  runC 0 (do windowGate false; roomCheck; setDefer (.call (relTarget s.cur.pc o))) s

/-- `callr` (R207). -/
def execCallr (a : BitVec 6) (s : State) : Host.Outcome State Fault Refusal :=
  runC 0 (do let v ← src a; windowGate false; roomCheck; setDefer (.call v)) s

/-- `ret` (R209, R236): below the depth at which an implicit task opened it first ends that task. -/
def execRet (s : State) : Host.Outcome State Fault Refusal :=
  runC 0 (do
    let t := s.cur
    if t.depth = 0 then trapWord 0x10
    else if t.depth - 1 < t.snap.depth ∧ t.begun then trapWord 0x10
    else if windowPending true t then park 0
    else if t.win.length < min 3 t.depth then park 12
    else if t.depth - 1 < t.snap.depth then do endTask; setDefer .retOpen
    else setDefer .ret) s

/-- `frame` (R211). -/
def execFrame (imm : BitVec 18) (s : State) : Host.Outcome State Fault Refusal :=
  runC 0 (do
    let t := s.pre
    if t.regPend.any (·.1 == 37) then park 0
    else
      let n := t.sp - (imm.signExtend 64 <<< 3)
      if n.toNat < s.bivB t + 64 * t.sc ∨ s.bivFT t < n.toNat then trap 0x07 t.sp
      else modCur fun t => { t with sp := n }) s

/-- `trap` (R212). -/
def execTrap (c : BitVec 12) (s : State) : Host.Outcome State Fault Refusal :=
  runC 0 (trap 0x01 (BitVec.ofNat 64 (c.toNat + 4096 * s.latch.len))) s

/-- Parks until the s-cycle counter reaches the target that the first attempt fixed (R213). -/
def sleepUntil (target : Nat) : Ex Unit := do
  let s ← get
  let tgt := match s.cur.wait with | .sleep g => g | _ => target
  if tgt ≤ s.dev.clock then
    match s.cur.wait with
    | .sleep _ => do
      modCur fun t => { t with wait := .none }
      checkPromises
    | _ => pure ()
  else parkWith 9 fun s => s.modCur fun t => { t with wait := .sleep tgt }

/-- `sleep` (R213). -/
def execSleep (a : BitVec 6) (s : State) : Host.Outcome State Fault Refusal :=
  runC 0 (do let v ← src a; sleepUntil v.toNat) s

/-- `sleep.rel` (R213). The target, counter plus *a*, is not reduced modulo 2^64: the model's choice (log 147). -/
def execSleepRel (a : BitVec 6) (s : State) : Host.Outcome State Fault Refusal :=
  runC 0 (do let v ← src a; sleepUntil (s.dev.clock + v.toNat)) s

/-- `yield` (R214). -/
def execYield (s : State) : Host.Outcome State Fault Refusal :=
  runC 0 (modCur fun t => { t with cr := 0, acc := 0, rs := s.dev.clock }) s

/-- `movi` (R192). -/
def execMovi (d : BitVec 6) (imm : BitVec 18) (s : State) : Host.Outcome State Fault Refusal :=
  runC 0 (dest d (imm.signExtend 64)) s

/-- `movhi` (R192). -/
def execMovhi (d : BitVec 6) (imm : BitVec 18) (s : State) : Host.Outcome State Fault Refusal :=
  runC 0 (do let old ← src d; dest d ((old <<< 18) ||| imm.zeroExtend 64)) s

end Sys2Proof.Machine
end

