-- ==== Sys2Proof/Machine/Scalar.lean ====
section
/-! DEFINITION. Scalar integer instructions, bit fields, compares and predicates (R187 to R198). -/

namespace Sys2Proof.Machine

/-- Bits 31:0 sign-extended: the `.w` results (R189). -/
def sext32 (v : Word) : Word := (v.setWidth 32).signExtend 64

/-- Two sources and a destination (R187, R189). -/
def alu2 (f : Rrr) (op : Word → Word → Word) : Ex Unit := do
  let a ← src f.a
  let b ← src f.b
  dest f.d (op a b)

/-- One source, an immediate already in the operation, and a destination (R191). -/
def alu1 (d a : BitVec 6) (op : Word → Word) : Ex Unit := do
  let v ← src a
  dest d (op v)

/-- A slow instruction: its destination is pending until LONG_RESULT_READY (R188). -/
def slow2 (f : Rrr) (op : Word → Word → Word) : Ex Unit := do
  let a ← src f.a
  let b ← src f.b
  issueTo f.d.toNat fun o => { o with kind := .long, data := (op a b).setWidth 4096 }

/-- Quotient and remainder of R190. -/
def divRem (u : Bool) (a b : Word) : Word × Word :=
  if b = 0 then (BitVec.allOnes 64, a)
  else if u then (a / b, a % b)
  else if a = BitVec.intMin 64 ∧ b = BitVec.allOnes 64 then (a, 0)
  else (BitVec.ofInt 64 (a.toInt.tdiv b.toInt), BitVec.ofInt 64 (a.toInt.tmod b.toInt))

/-- `add` (R189). -/
def execAdd (g : Guard) (f : Rrr) (x : BitVec 1) (s : State) : Host.Outcome State Fault Refusal :=
  runA g (alu2 f fun a b => if x = 1#1 then sext32 (a + b) else a + b) s

/-- `sub` (R189). -/
def execSub (g : Guard) (f : Rrr) (x : BitVec 1) (s : State) : Host.Outcome State Fault Refusal :=
  runA g (alu2 f fun a b => if x = 1#1 then sext32 (a - b) else a - b) s

/-- `mul` (R189). -/
def execMul (g : Guard) (f : Rrr) (x : BitVec 1) (s : State) : Host.Outcome State Fault Refusal :=
  runA g (alu2 f fun a b => if x = 1#1 then sext32 (a * b) else a * b) s

/-- `min` (R189). -/
def execMin (g : Guard) (f : Rrr) (x : BitVec 1) (s : State) : Host.Outcome State Fault Refusal :=
  runA g (alu2 f fun a b => if (if x = 1#1 then a.ule b else a.sle b) then a else b) s

/-- `max` (R189). -/
def execMax (g : Guard) (f : Rrr) (x : BitVec 1) (s : State) : Host.Outcome State Fault Refusal :=
  runA g (alu2 f fun a b => if (if x = 1#1 then b.ule a else b.sle a) then a else b) s

/-- `and` (R189). -/
def execAnd (g : Guard) (f : Rrr) (s : State) : Host.Outcome State Fault Refusal :=
  runA g (alu2 f fun a b => a &&& b) s

/-- `or` (R189). -/
def execOr (g : Guard) (f : Rrr) (s : State) : Host.Outcome State Fault Refusal :=
  runA g (alu2 f fun a b => a ||| b) s

/-- `xor` (R189). -/
def execXor (g : Guard) (f : Rrr) (s : State) : Host.Outcome State Fault Refusal :=
  runA g (alu2 f fun a b => a ^^^ b) s

/-- `andn` (R189). -/
def execAndn (g : Guard) (f : Rrr) (s : State) : Host.Outcome State Fault Refusal :=
  runA g (alu2 f fun a b => a &&& ~~~b) s

/-- `shl` (R189). -/
def execShl (g : Guard) (f : Rrr) (x : BitVec 1) (s : State) : Host.Outcome State Fault Refusal :=
  runA g (alu2 f fun a b => if x = 1#1 then sext32 (a <<< (b.toNat % 32)) else a <<< (b.toNat % 64)) s

/-- `shr` (R189). -/
def execShr (g : Guard) (f : Rrr) (x : BitVec 1) (s : State) : Host.Outcome State Fault Refusal :=
  runA g (alu2 f fun a b => if x = 1#1 then sext32 ((a.setWidth 32 >>> (b.toNat % 32)).setWidth 64) else a >>> (b.toNat % 64)) s

/-- `sar` (R189). -/
def execSar (g : Guard) (f : Rrr) (x : BitVec 1) (s : State) : Host.Outcome State Fault Refusal :=
  runA g (alu2 f fun a b => if x = 1#1 then ((a.setWidth 32).sshiftRight (b.toNat % 32)).signExtend 64 else a.sshiftRight (b.toNat % 64)) s

/-- `lea` (R189). -/
def execLea (g : Guard) (f : Rrr) (x : BitVec 1) (s : State) : Host.Outcome State Fault Refusal :=
  runA g (alu2 f fun a b => a + (b <<< (if x = 1#1 then 3 else 2))) s

/-- `mulh` (R188 to R190). -/
def execMulh (g : Guard) (f : Rrr) (x : BitVec 1) (s : State) : Host.Outcome State Fault Refusal :=
  runA g (slow2 f fun a b => BitVec.ofInt 64 (if x = 1#1 then (a.toNat : Int) * b.toNat / 2 ^ 64 else a.toInt * b.toInt / 2 ^ 64)) s

/-- `div` (R188 to R190). -/
def execDiv (g : Guard) (f : Rrr) (x : BitVec 1) (s : State) : Host.Outcome State Fault Refusal :=
  runA g (slow2 f fun a b => (divRem (x == 1#1) a b).1) s

/-- `rem` (R188 to R190). -/
def execRem (g : Guard) (f : Rrr) (x : BitVec 1) (s : State) : Host.Outcome State Fault Refusal :=
  runA g (slow2 f fun a b => (divRem (x == 1#1) a b).2) s

/-- `addi` (R191). -/
def execAddi (g : Guard) (d a : BitVec 6) (imm : BitVec 7) (s : State) : Host.Outcome State Fault Refusal :=
  runA g (alu1 d a fun a => a + imm.signExtend 64) s

/-- `andi` (R191). -/
def execAndi (g : Guard) (d a : BitVec 6) (imm : BitVec 7) (s : State) : Host.Outcome State Fault Refusal :=
  runA g (alu1 d a fun a => a &&& imm.signExtend 64) s

/-- `ori` (R191). -/
def execOri (g : Guard) (d a : BitVec 6) (imm : BitVec 7) (s : State) : Host.Outcome State Fault Refusal :=
  runA g (alu1 d a fun a => a ||| imm.signExtend 64) s

/-- `xori` (R191). -/
def execXori (g : Guard) (d a : BitVec 6) (imm : BitVec 7) (s : State) : Host.Outcome State Fault Refusal :=
  runA g (alu1 d a fun a => a ^^^ imm.signExtend 64) s

/-- `shli` (R191). -/
def execShli (g : Guard) (d a : BitVec 6) (imm : BitVec 6) (s : State) : Host.Outcome State Fault Refusal :=
  runA g (alu1 d a fun a => a <<< imm.toNat) s

/-- `shri` (R191). -/
def execShri (g : Guard) (d a : BitVec 6) (imm : BitVec 6) (s : State) : Host.Outcome State Fault Refusal :=
  runA g (alu1 d a fun a => a >>> imm.toNat) s

/-- `sari` (R191). -/
def execSari (g : Guard) (d a : BitVec 6) (imm : BitVec 6) (s : State) : Host.Outcome State Fault Refusal :=
  runA g (alu1 d a fun a => a.sshiftRight imm.toNat) s

/-- `anop` (R173): a guard and nothing else. -/
def execAnop (g : Guard) (s : State) : Host.Outcome State Fault Refusal := runA g (pure ()) s

/-- `bext` (R193). -/
def bextVal (sgn : Bool) (a b : Word) : Word :=
  let pos := bits b.toNat 0 6
  let len := if bits b.toNat 8 6 = 0 then 64 else bits b.toNat 8 6
  let n := min len (64 - pos)
  let v := a.toNat / 2 ^ pos % 2 ^ n
  if sgn then BitVec.ofInt 64 (sInt n v) else BitVec.ofNat 64 v

def execBext (g : Guard) (f : Rrr) (x : BitVec 1) (s : State) : Host.Outcome State Fault Refusal :=
  runA g (alu2 f fun a b => bextVal (x == 1#1) a b) s

/-- `bins` (R193). -/
def binsVal (old a b : Word) : Word :=
  let pos := bits b.toNat 0 6
  let len := if bits b.toNat 8 6 = 0 then 64 else bits b.toNat 8 6
  let n := min len (64 - pos)
  let m := BitVec.ofNat 64 ((2 ^ n - 1) * 2 ^ pos)
  (old &&& ~~~m) ||| ((a <<< pos) &&& m)

def execBins (g : Guard) (f : Rrr) (s : State) : Host.Outcome State Fault Refusal :=
  runA g (do let old ← src f.d; let a ← src f.a; let b ← src f.b; dest f.d (binsVal old a b)) s

/-- Leading and trailing zeros and ones among the `n` low bits (R194). -/
def clzNat (n v : Nat) : Nat := ((List.range n).find? fun i => bit v (n - 1 - i)).getD n
def ctzNat (n v : Nat) : Nat := ((List.range n).find? fun i => bit v i).getD n
def popNat (n v : Nat) : Nat := (ones n v).length
def widthX (x : BitVec 1) : Nat := if x = 1#1 then 32 else 64

/-- `clz` (R194). -/
def execClz (g : Guard) (d a : BitVec 6) (x : BitVec 1) (s : State) : Host.Outcome State Fault Refusal :=
  runA g (alu1 d a fun v => BitVec.ofNat 64 (clzNat (widthX x) v.toNat)) s

/-- `ctz` (R194). -/
def execCtz (g : Guard) (d a : BitVec 6) (x : BitVec 1) (s : State) : Host.Outcome State Fault Refusal :=
  runA g (alu1 d a fun v => BitVec.ofNat 64 (ctzNat (widthX x) v.toNat)) s

/-- `popc` (R194). -/
def execPopc (g : Guard) (d a : BitVec 6) (x : BitVec 1) (s : State) : Host.Outcome State Fault Refusal :=
  runA g (alu1 d a fun v => BitVec.ofNat 64 (popNat (widthX x) v.toNat)) s

/-- `sel` (R197). -/
def execSel (g : Guard) (p : BitVec 4) (e : BitVec 1) (a b : BitVec 6) (s : State) : Host.Outcome State Fault Refusal :=
  runA g (do
    let u ← src a
    let v ← src b
    let c ← readPred p
    push (if c != (e == 1#1) then u else v)) s

/-- `cmp` (R195). -/
def execCmp (g : Guard) (p : BitVec 4) (a b : BitVec 6) (c : BitVec 3) (s : State) : Host.Outcome State Fault Refusal :=
  runA g (do let u ← src a; let v ← src b; writePred p (cmpCond c.toNat u v)) s

/-- `cmpi` (R195). -/
def execCmpi (g : Guard) (p : BitVec 4) (a : BitVec 6) (imm : BitVec 6) (c : BitVec 3) (s : State) : Host.Outcome State Fault Refusal :=
  runA g (do let u ← src a; writePred p (cmpCond c.toNat u (imm.signExtend 64))) s

/-- The sources of predicate logic (R196). -/
def predSrc (f : Pp) : Ex (Bool × Bool) := do
  let x ← readPred f.a
  let y ← readPred f.b
  pure (x != (f.e == 1#1), y != (f.f == 1#1))

/-- `pand` (R196). -/
def execPand (g : Guard) (f : Pp) (s : State) : Host.Outcome State Fault Refusal :=
  runA g (do let q ← predSrc f; writePred f.d (q.1 && q.2)) s

/-- `por` (R196). -/
def execPor (g : Guard) (f : Pp) (s : State) : Host.Outcome State Fault Refusal :=
  runA g (do let q ← predSrc f; writePred f.d (q.1 || q.2)) s

/-- `pxor` (R196). -/
def execPxor (g : Guard) (f : Pp) (s : State) : Host.Outcome State Fault Refusal :=
  runA g (do let q ← predSrc f; writePred f.d (q.1 != q.2)) s

/-- `pnot` (R196). -/
def execPnot (g : Guard) (d : BitVec 4) (e : BitVec 1) (a : BitVec 4) (s : State) : Host.Outcome State Fault Refusal :=
  runA g (do let x ← readPred a; writePred d (!(x != (e == 1#1)))) s

/-- `ppack` (R198). -/
def execPpack (g : Guard) (d a : BitVec 6) (j : BitVec 2) (s : State) : Host.Outcome State Fault Refusal :=
  runA g (do
    let v ← src a
    let p := (← get).pre.pred
    dest d ((v &&& ~~~(0xFFFF#64 <<< (16 * j.toNat))) ||| (p.setWidth 64 <<< (16 * j.toNat)))) s

/-- `punpack` (R198). -/
def execPunpack (g : Guard) (a : BitVec 6) (j : BitVec 2) (s : State) : Host.Outcome State Fault Refusal :=
  runA g (do let v ← src a; modCur fun t => { t with pred := (v >>> (16 * j.toNat)).setWidth 16 ||| 1 }) s

end Sys2Proof.Machine
end

