-- ==== Sys2Proof/Machine/ScalarFp.lean ====
section
/-! DEFINITION. Scalar floating-point instructions (R199 to R202), and the generator's steps (R149). -/

namespace Sys2Proof.Machine

/-- The generator steps `n` times; the values it took, in order. The A-slot's steps follow the C-slot's, and a write of SRST in the
same bundle is not seen (R149, R160). -/
def srSteps : Nat → BitVec 32 → List (BitVec 32)
  | 0, _ => []
  | n + 1, x => srStep x :: srSteps n (srStep x)

def drawMany (n : Nat) : Ex (List Nat) := do
  let s ← get
  let l := srSteps n (s.latch.sr.getD s.pre.srst)
  match l.getLast? with
  | none => pure []
  | some x =>
    modify fun s => { s with latch := { s.latch with sr := some x } }
    modCur fun t => { t with srst := x }
    pure (l.map fun v => v.toNat % 65536)

/-- The rounding of a thread's FPC, as captured at issue (R55, R61, R154). -/
def rndOf (t : Thread) (rm : Nat) (ctl : Bool) : Rnd := ⟨rm, fpcFZI t.fpc, fpcFZO t.fpc, ctl, 0⟩

/-- The rounding of a scalar instruction that rounds one result: in SR the generator steps once (R149, R199). -/
def scalarRnd (rm : Nat) (ctl : Bool) : Ex Rnd := do
  let t := (← get).pre
  if rm = 5 then do
    let g ← drawMany 1
    pure { rndOf t rm ctl with g := g.headD 0 }
  else pure (rndOf t rm ctl)

def threadRM : Ex Nat := do pure (fpcRM (← get).pre.fpc)

/-- Bits 31:0 of a register as FP32, subnormals flushed under FZI (R199). -/
def srcF (r : BitVec 6) : Ex Val := do
  let v ← src r
  pure (decTy (fpcFZI (← get).pre.fpc) (.fp fp32) (v.toNat % 2 ^ 32))

/-- A rounded FP32 result. -/
def fpResult (op : Nat → Val) : Ex Word := do
  let rm ← threadRM
  let r ← scalarRnd rm false
  pure (BitVec.ofNat 64 (encFp fp32 r (op rm)))

/-- Two FP32 sources and a rounded result (R199). -/
def fp2 (f : Rrr) (op : Nat → Val → Val → Val) : Ex Unit := do
  let a ← srcF f.a
  let b ← srcF f.b
  let v ← fpResult fun rm => op rm a b
  dest f.d v

/-- `fadd` (R199). -/
def execFadd (g : Guard) (f : Rrr) (s : State) : Host.Outcome State Fault Refusal := runA g (fp2 f fun rm a b => a.add rm b) s

/-- `fsub` (R199). -/
def execFsub (g : Guard) (f : Rrr) (s : State) : Host.Outcome State Fault Refusal := runA g (fp2 f fun rm a b => a.add rm b.neg) s

/-- `fmul` (R199). -/
def execFmul (g : Guard) (f : Rrr) (s : State) : Host.Outcome State Fault Refusal := runA g (fp2 f fun _ a b => a.mul b) s

/-- `ffma` (R199): fused, the old value read from the D register. -/
def execFfma (g : Guard) (f : Rrr) (s : State) : Host.Outcome State Fault Refusal :=
  runA g (do
    let old ← srcF f.d
    let a ← srcF f.a
    let b ← srcF f.b
    let v ← fpResult fun rm => old.add rm (a.mul b)
    dest f.d v) s

/-- `fdiv` (R188, R199): the result comes later. -/
def execFdiv (g : Guard) (f : Rrr) (s : State) : Host.Outcome State Fault Refusal :=
  runA g (do
    let a ← srcF f.a
    let b ← srcF f.b
    let v ← fpResult fun _ => a.div b
    issueTo f.d.toNat fun o => { o with kind := .long, data := v.setWidth 4096 }) s

/-- `fsqrt` (R188, R199): the result comes later. -/
def execFsqrt (g : Guard) (d a : BitVec 6) (s : State) : Host.Outcome State Fault Refusal :=
  runA g (do
    let a ← srcF a
    let v ← fpResult fun _ => a.sqrt
    issueTo d.toNat fun o => { o with kind := .long, data := v.setWidth 4096 }) s

/-- `minimumNumber` and `maximumNumber`: not rounded (R200). -/
def fpMinMax (isMax : Bool) (f : Rrr) : Ex Unit := do
  let a ← srcF f.a
  let b ← srcF f.b
  let t := (← get).pre
  dest f.d (BitVec.ofNat 64 (encFp fp32 (rndOf t 1 false) (a.minMax isMax b)))

/-- `fmin` (R200). -/
def execFmin (g : Guard) (f : Rrr) (s : State) : Host.Outcome State Fault Refusal := runA g (fpMinMax false f) s

/-- `fmax` (R200). -/
def execFmax (g : Guard) (f : Rrr) (s : State) : Host.Outcome State Fault Refusal := runA g (fpMinMax true f) s

/-- `fcmp` (R201). -/
def execFcmp (g : Guard) (p : BitVec 4) (a b : BitVec 6) (c : BitVec 3) (s : State) : Host.Outcome State Fault Refusal :=
  runA g (do
    let x ← srcF a
    let y ← srcF b
    writePred p (x.cmp c.toNat y)) s

/-- Source and result types of the conversion codes (R202). -/
def fcvtTypes (k : Nat) : Ty × Ty :=
  match k with
  | 0 => (.fp fp32, .int true 32)
  | 1 => (.fp fp32, .int false 32)
  | 2 => (.int true 32, .fp fp32)
  | 3 => (.int false 32, .fp fp32)
  | 4 => (.fp fp32, .int true 64)
  | 5 => (.int true 64, .fp fp32)
  | 6 => (.fp fp32, .fp bf16)
  | 7 => (.fp bf16, .fp fp32)
  | 8 => (.fp fp32, .fp fp16)
  | _ => (.fp fp16, .fp fp32)

/-- `fcvt` (R202): I32 results are sign-extended, all others zero-extended. -/
def execFcvt (g : Guard) (d a : BitVec 6) (k : BitVec 6) (x : BitVec 1) (s : State) : Host.Outcome State Fault Refusal :=
  runA g (do
    let v ← src a
    let t := (← get).pre
    let r ← scalarRnd (if x = 1#1 then 1 else fpcRM t.fpc) (fpcSATN t.fpc)
    let ty := fcvtTypes k.toNat
    let e := convTy ty.1 ty.2 r (v.toNat % 2 ^ ty.1.width)
    dest d (if k.toNat = 0 then sext32 (BitVec.ofNat 64 e) else BitVec.ofNat 64 e)) s

end Sys2Proof.Machine
end

