-- ==== Sys2Proof/Machine/Special.lean ====
section
/-! DEFINITION. The special functions and activations (R294, R319): the special inputs and exact cases the spec gives, and, for every other
input, a free value inside the bound it gives (log 9). -/

namespace Sys2Proof.Machine

/-! ### Values in fixed point: whole numbers of 2^-320 -/

def fxBits : Nat := 320
def fxOne : Int := (2 : Int) ^ fxBits
def fxMul (a b : Int) : Int := a * b / fxOne
def fxDiv (a b : Int) : Int := a * fxOne / b

/-- `m × 2^e`, cut below 2^-320. -/
def fxOf (s : Bool) (m : Nat) (e : Int) : Int :=
  let q := e + fxBits
  let a : Int := if 0 ≤ q then (m : Int) * (2 : Int) ^ q.toNat else (m : Int) / (2 : Int) ^ (-q).toNat
  if s then -a else a

/-- ln 2, as the sum of 1 ÷ (k × 2^k). -/
def fxLn2 : Int := (List.range 340).foldl (fun a k => a + fxOne / ((k + 1 : Nat) * (2 : Int) ^ (k + 1))) 0

/-- e^r for a small r, by its series. -/
def fxExpSmall (r : Int) : Int :=
  ((List.range 90).foldl (fun (p : Int × Int) k => let t := fxMul p.2 r / ((k + 1 : Nat) : Int); (p.1 + t, t)) (fxOne, fxOne)).1

/-- 2^y. -/
def fxExp2 (y : Int) : Int :=
  let n := y / fxOne
  let v := fxExpSmall (fxMul (y - n * fxOne) fxLn2)
  if 0 ≤ n then v * (2 : Int) ^ n.toNat else v / (2 : Int) ^ (-n).toNat

/-- e^y. -/
def fxExp (y : Int) : Int := fxExp2 (fxDiv y fxLn2)

/-- log₂ of `m × 2^e`, by the series of the area hyperbolic tangent. -/
def fxLog2 (m : Nat) (e : Int) : Int :=
  let k := ilog m e
  let x := fxOf false m (e - k)
  let z := fxDiv (x - fxOne) (x + fxOne)
  let z2 := fxMul z z
  let s := ((List.range 110).foldl (fun (p : Int × Int) i => (p.1 + p.2 / ((2 * i + 1 : Nat) : Int), fxMul p.2 z2)) (0, z)).1
  k * fxOne + fxDiv (2 * s) fxLn2

/-- tanh y. -/
def fxTanh (y : Int) : Int :=
  if 128 * fxOne ≤ y then fxOne else if y ≤ -128 * fxOne then -fxOne
  else let v := fxExp (2 * y); fxDiv (v - fxOne) (v + fxOne)

/-- 1 ÷ (1 + e^−y). -/
def fxSigm (y : Int) : Int :=
  if 256 * fxOne ≤ y then fxOne else if y ≤ -256 * fxOne then 0
  else fxDiv fxOne (fxOne + fxExp (-y))

/-- arctan(1 ÷ n), by its series. -/
def fxAtanInv (n : Nat) : Int :=
  ((List.range 160).foldl (fun (p : Int × Int) i =>
    (if i % 2 = 0 then p.1 + p.2 / ((2 * i + 1 : Nat) : Int) else p.1 - p.2 / ((2 * i + 1 : Nat) : Int), p.2 / ((n * n : Nat) : Int)))
    (0, fxOne / (n : Int))).1

/-- √(2 ÷ π), π by Machin's formula. -/
def fxRoot2Pi : Int :=
  let pi := 16 * fxAtanInv 5 - 4 * fxAtanInv 239
  (isqrt ((fxDiv (2 * fxOne) pi) * fxOne).toNat 330 0 : Nat)

/-! ### A free result within a bound -/

/-- Encodings in order of value: a signed rank, both zeros 0. -/
def rankOf (f : Fmt) (v : Nat) : Int :=
  let a : Int := (bits v 0 (f.eb + f.mb) : Nat)
  if bit v (f.eb + f.mb) then -a else a

def ofRank (f : Fmt) (r : Int) : Nat := withSign f (decide (r < 0)) r.natAbs

/-- An exact value of a fixed-point number. -/
def fxVal (x : Int) : Val := .fin (decide (x < 0)) x.natAbs (-(fxBits : Int))

/-- Half a unit's slack for the cut series. -/
def fxSlack : Int := 2 ^ 40

/-- A result within `ulps` units in the last place of the true value `x`, or within `absE` where that is larger; `pick` chooses among
the encodings there. An overflow follows R150 under RNE. -/
def within (f : Fmt) (ctl fzo : Bool) (ulps : Nat) (absE x : Int) (pick : Nat) : Nat :=
  let v := fxVal x
  let near := encFp f rne v
  if maxFin f < bits near 0 (f.eb + f.mb) then overflowed f { ctl := ctl } (decide (x < 0))
  else
    let low : Int := 1 - (f.bias : Int) - (f.mb : Int)
    let q := if x = 0 then low else max (ilog x.natAbs (-(fxBits : Int)) - (f.mb : Int)) low
    let b := max ((ulps : Int) * fxOf false 1 q) absE + fxSlack
    let lo := rankOf f (encFp f { rm := 2 } (fxVal (x - b)))
    let hi := rankOf f (encFp f { rm := 3 } (fxVal (x + b)))
    let r := lo + ((pick % (hi - lo + 1).toNat : Nat) : Int)
    if fzo && f.flushes && decide (r.natAbs < 2 ^ f.mb) then withSign f (decide (r < 0)) 0 else ofRank f r

/-! ### The special functions (R294) -/

/-- A number that is a power of two, as its exponent. -/
def pow2Exp (m : Nat) (e : Int) : Option Int := if m = 2 ^ Nat.log2 m then some (ilog m e) else none

/-- Function `fn` of R294 (4, `vsqrt`, apart) on a value of a format, as an encoding. -/
def special (fn : Nat) (f : Fmt) (r : Rnd) (t v : Nat) : Nat :=
  let pick := (Config.special fn t (BitVec.ofNat 32 v)).toNat
  let wide := decide (f = fp32)
  let out := fun (x : Val) => encFp f { ctl := r.ctl, fzo := r.fzo } x
  let one := Val.fin false 1 0
  match decTy r.fzi (.fp f) v with
  | .nan => nanOf f
  | .inf s =>
    match fn with
    | 0 => out (if s then .fin false 0 0 else .inf false)
    | 1 => out (if s then .nan else .inf false)
    | 2 => out (.fin s 0 0)
    | 3 => out (if s then .nan else .fin false 0 0)
    | 5 => out (.fin s 1 0)
    | _ => out (if s then .fin false 0 0 else one)
  | .fin s m e =>
    if m = 0 then
      match fn with
      | 0 => out one
      | 1 => out (.inf true)
      | 2 => out (.inf s)
      | 3 => out (.inf s)
      | 5 => out (.fin s 0 0)
      | _ => out (.fin false 1 (-1))
    else
      match fn with
      | 0 =>
        if 9 ≤ ilog m e then
          (if s then within f r.ctl r.fzo (if wide then 2 else 1) 0 0 pick else overflowed f { ctl := r.ctl } false)
        else
          let x := fxOf s m e
          if x % fxOne = 0 ∧ 1 - (f.bias : Int) - (f.mb : Int) ≤ x / fxOne then out (.fin false 1 (x / fxOne))
          else within f r.ctl r.fzo (if wide then 2 else 1) 0 (fxExp2 x) pick
      | 1 =>
        if s then nanOf f
        else match pow2Exp m e with
          | some n => out (.fin (decide (n < 0)) n.natAbs 0)
          | none => within f r.ctl r.fzo (if wide then 2 else 1) (fxOf false 1 (if wide then -22 else -10)) (fxLog2 m e) pick
      | 2 =>
        match pow2Exp m e with
        | some n => out (.fin s 1 (-n))
        | none => match one.div (.fin s m e) with
          | .fin s' m' e' => within f r.ctl r.fzo 1 0 (fxOf s' m' e') pick
          | x => out x
      | 3 =>
        if s then nanOf f
        else match (one.div (.fin s m e)).sqrt with
          | .fin s' m' e' => within f r.ctl r.fzo 1 0 (fxOf s' m' e') pick
          | x => out x
      | 5 => within f r.ctl r.fzo (if wide then 2 else 1) (if wide then fxOf false 1 (-24) else 0)
          (if 7 ≤ ilog m e then (if s then -fxOne else fxOne) else fxTanh (fxOf s m e)) pick
      | _ => within f r.ctl r.fzo (if wide then 2 else 1) (if wide then fxOf false 1 (-26) else 0)
          (if 8 ≤ ilog m e then (if s then 0 else fxOne) else fxSigm (fxOf s m e)) pick

/-! ### The activations (R319) -/

/-- 0.5 v (1 + tanh(√(2/π) (v + 0.044715 v³))). -/
def fxGelu (v : Int) : Int :=
  let y := fxMul fxRoot2Pi (v + fxMul (44715 * fxOne / 1000000) (fxMul v (fxMul v v)))
  fxMul (fxMul (fxOne / 2) v) (fxOne + fxTanh y)

/-- Activation `act` on FP32 bits. -/
def activation (act v : Nat) : Nat :=
  let pick := (Config.activation act (BitVec.ofNat 32 v)).toNat
  match f32 v with
  | .nan => if act = 0 then v else nanOf fp32
  | .inf s =>
    if act = 0 then v
    else if s then (if act = 1 then 0 else 0x80000000) else v
  | .fin s m e =>
    match act with
    | 0 => v
    | 1 => if s ∨ m = 0 then 0 else v
    | k =>
      if m = 0 then v
      else if 8 ≤ ilog m e then (if s then within fp32 false false 4 (fxOf false 1 (if k = 2 then -24 else -26)) 0 pick
        else within fp32 false false 4 0 (fxOf s m e) pick)
      else
        let x := fxOf s m e
        if k = 2 then within fp32 false false 4 (fxOf false 1 (-24)) (fxGelu x) pick
        else within fp32 false false 4 (fxOf false 1 (-26)) (fxMul x (fxSigm x)) pick

end Sys2Proof.Machine
end

