-- ==== Sys2Proof/Machine/Vector.lean ====
section
/-! DEFINITION. Vector instructions (R171, R272 to R294). -/

namespace Sys2Proof.Machine

/-! ### Elements (R272) -/

/-- Elements per register of width `w`. -/
def perReg (w : Nat) : Nat := 4096 / w

def elemsOf (w : Nat) (v : BitVec 4096) : List Nat := (List.range (perReg w)).map fun i => bits v.toNat (w * i) w

def packElems (w : Nat) (l : List Nat) : BitVec 4096 := BitVec.ofNat 4096 (l.foldr (fun x a => x % 2 ^ w + 2 ^ w * a) 0)

/-- Element `i` of a group of `f` registers: register `i` mod `f`, position `i` div `f` (R291, R292). -/
def groupElems (f w : Nat) (rs : List (BitVec 4096)) : List Nat :=
  (List.range (f * perReg w)).map fun i => bits (rs.getD (i % f) 0).toNat (w * (i / f)) w

def packGroup (f w : Nat) (l : List Nat) : List (BitVec 4096) :=
  (List.range f).map fun j => packElems w (l.zipIdx.filterMap fun p => if p.2 % f = j then some p.1 else none)

/-- An element as an integer of its type (R275). -/
def elemInt (t v : Nat) : Int := if vtySigned t then sInt (vtyWidth t) v else (v : Int)

/-- An integer result: wrapped, or saturated under `.sat` (R275). -/
def intElem (t : Nat) (sat : Bool) (x : Int) : Nat := encInt (vtySigned t) (vtyWidth t) true { ctl := sat } (.fin (decide (x < 0)) x.natAbs 0)

/-! ### The prefix and the unit (R171, R274, R277) -/

/-- What the prefix gives the instruction, and the mode in force (R275). -/
structure VCtx where
  mask : Option (BitVec 4096)
  zero : Bool
  vc : Option (BitVec 4096)
  rm : Nat

def VCtx.act (c : VCtx) (i : Nat) : Bool := match c.mask with | some m => m.getLsbD i | none => true

def vecCtx : Ex VCtx := do
  let s ← get
  match s.latch.pfx with
  | none => pure ⟨none, false, none, fpcRM s.pre.fpc⟩
  | some p => do
    let m ← if p.men = 1#1 then some <$> readV p.mask.toNat else pure none
    let v ← if p.vcen = 1#1 then some <$> readV p.vc.toNat else pure none
    pure ⟨m, p.zero == 1#1, v, if p.rm = 7#3 then fpcRM s.pre.fpc else p.rm.toNat⟩

/-- The instruction takes the unit for `n` a-cycles of 2 s-cycles, the one it issues in among them, and is counted (R277, R338, R399). -/
def useUnit (n : Nat) : Ex Unit := modify fun s =>
  (s.count s.latch.core s.cur.x s.latch.slot 3 1).modCore s.latch.core fun k => { k with vecFree := max k.vecFree (2 * (s.dev.clock / 2 + n)) }

/-- A register written at issue: its 8 s-cycles are never waited for (R277). -/
def putV (i : Nat) (v : BitVec 4096) : Ex Unit := do
  let n ← freeV i
  writeV n v

/-- Registers written by VECTOR_RESULT_WRITE, pending until then (R277). -/
def putVLater (i : Nat) (vs : List (BitVec 4096)) : Ex Unit := do
  let ns ← (List.range vs.length).mapM fun j => freeV (i + j)
  let id := (← get).nextOp
  issue fun o => { o with kind := .vec, dest := .vregs ns, more := vs.map BitVec.toNat }
  modCur fun t => { t with vPend := t.vPend ++ ns.map fun n => (n, id) }

/-- A result-queue entry filled by VECTOR_RESULT_WRITE (R277). -/
def pushLater (v : Word) : Ex Unit := issueTo 0 fun o => { o with kind := .vec, data := v.setWidth 4096 }

/-! ### Element-wise instructions (R274) -/

/-- Destination elements in ascending order: `f` with the next step of the generator where active, else the old element or zero. -/
def fillElems (c : VCtx) (f : Nat → Nat → Nat) (old : Nat → Nat) : List Nat → List Nat → List Nat
  | [], _ => []
  | i :: l, g =>
    if c.act i then f (g.headD 0) i :: fillElems c f old l g.tail
    else (if c.zero then 0 else old i) :: fillElems c f old l g

/-- The elements of an instruction on `n` elements; `rounds` says whether its operation rounds, and so steps the generator once per active
element in SR (R149). -/
def elementwise (c : VCtx) (n : Nat) (rounds : Bool) (f : Nat → Nat → Nat) (old : Nat → Nat) : Ex (List Nat) := do
  let g ← if rounds && c.rm == 5 then drawMany ((List.range n).filter c.act).length else pure []
  pure (fillElems c f old (List.range n) g)

/-- The rounding of element arithmetic and conversions (R275). -/
def vecRnd (t : Thread) (c : VCtx) (ctl : Bool) (g : Nat) : Rnd := ⟨c.rm, fpcFZI t.fpc, fpcFZO t.fpc, ctl, g⟩

def elemAt (w : Nat) (v : BitVec 4096) (i : Nat) : Nat := bits v.toNat (w * i) w

/-- An element-wise instruction of one register: `f rnd i old` gives element `i`. -/
def vecMap (t vd : Nat) (rounds : Bool) (f : VCtx → Thread → Nat → Nat → Nat → Nat) : Ex Unit := do
  let c ← vecCtx
  let old ← readV vd
  let th := (← get).pre
  let w := vtyWidth t
  let l ← elementwise c (perReg w) rounds (fun g i => f c th g i (elemAt w old i)) (elemAt w old)
  putV vd (packElems w l)
  useUnit 1

/-- The scalar operand of an AVS form: the low bits of the register (R274). -/
def srcElem (t : Nat) (r : BitVec 6) : Ex Nat := do
  let v ← src r
  pure (v.toNat % 2 ^ vtyWidth t)

/-- Two-operand arithmetic on one element (R275, R278). -/
def arith (t : Nat) (sat : Bool) (fi : Int → Int → Int) (ff : Nat → Val → Val → Val) (c : VCtx) (th : Thread) (g a b : Nat) : Nat :=
  if vtyFloat t then
    let r := vecRnd th c false g
    encTy (vty t) false r (ff c.rm (decTy r.fzi (vty t) a) (decTy r.fzi (vty t) b))
  else intElem t sat (fi (elemInt t a) (elemInt t b))

def vecArith (f : Vvv) (v : BitVec 2) (fi : Int → Int → Int) (ff : Nat → Val → Val → Val) : Ex Unit := do
  let t := f.t.toNat
  let a ← readV f.a.toNat
  let b ← readV f.b.toNat
  vecMap t f.d.toNat (vtyFloat t) fun c th g i _ =>
    arith t (v == 1#2) fi ff c th g (elemAt (vtyWidth t) a i) (elemAt (vtyWidth t) b i)

def vecArithS (f : Vvs) (fi : Int → Int → Int) (ff : Nat → Val → Val → Val) : Ex Unit := do
  let t := f.t.toNat
  let a ← readV f.a.toNat
  let b ← srcElem t f.s
  vecMap t f.d.toNat (vtyFloat t) fun c th g i _ => arith t false fi ff c th g (elemAt (vtyWidth t) a i) b

/-- `vadd` (R278). -/
def execVadd (g : Guard) (f : Vvv) (v : BitVec 2) (s : State) : Host.Outcome State Fault Refusal :=
  runA g (vecArith f v (· + ·) fun rm a b => a.add rm b) s

/-- `vadd` with a scalar (R278). -/
def execVaddScalar (g : Guard) (f : Vvs) (s : State) : Host.Outcome State Fault Refusal :=
  runA g (vecArithS f (· + ·) fun rm a b => a.add rm b) s

/-- `vsub` (R278). -/
def execVsub (g : Guard) (f : Vvv) (v : BitVec 2) (s : State) : Host.Outcome State Fault Refusal :=
  runA g (vecArith f v (· - ·) fun rm a b => a.add rm b.neg) s

/-- `vsub` with a scalar (R278). -/
def execVsubScalar (g : Guard) (f : Vvs) (s : State) : Host.Outcome State Fault Refusal :=
  runA g (vecArithS f (· - ·) fun rm a b => a.add rm b.neg) s

/-- `vmul` (R278). -/
def execVmul (g : Guard) (f : Vvv) (v : BitVec 2) (s : State) : Host.Outcome State Fault Refusal :=
  runA g (vecArith f v (· * ·) fun _ a b => a.mul b) s

/-- `vmul` by a scalar (R278). -/
def execVmulScalar (g : Guard) (f : Vvs) (s : State) : Host.Outcome State Fault Refusal :=
  runA g (vecArithS f (· * ·) fun _ a b => a.mul b) s

/-- `vfma` on one element: product and sum rounded once (R278). -/
def fmaElem (t : Nat) (sat : Bool) (c : VCtx) (th : Thread) (g old a b : Nat) : Nat :=
  if vtyFloat t then
    let r := vecRnd th c false g
    let d := decTy r.fzi (vty t)
    encTy (vty t) false r ((d old).add c.rm ((d a).mul (d b)))
  else intElem t sat (elemInt t old + elemInt t a * elemInt t b)

/-- `vfma` (R278): the addend is VC where the prefix supplies it, else VD. -/
def execVfma (g : Guard) (f : Vvv) (v : BitVec 2) (s : State) : Host.Outcome State Fault Refusal :=
  runA g (do
    let t := f.t.toNat
    let w := vtyWidth t
    let a ← readV f.a.toNat
    let b ← readV f.b.toNat
    vecMap t f.d.toNat (vtyFloat t) fun c th g i old =>
      fmaElem t (v == 1#2) c th g (match c.vc with | some x => elemAt w x i | none => old) (elemAt w a i) (elemAt w b i)) s

/-- `vfma` by a scalar (R278). -/
def execVfmaScalar (g : Guard) (f : Vvs) (s : State) : Host.Outcome State Fault Refusal :=
  runA g (do
    let t := f.t.toNat
    let a ← readV f.a.toNat
    let b ← srcElem t f.s
    vecMap t f.d.toNat (vtyFloat t) fun c th g i old => fmaElem t false c th g old (elemAt (vtyWidth t) a i) b) s

/-- The smaller or larger of two elements, not rounded (R279). -/
def minMaxElem (t : Nat) (isMax : Bool) (th : Thread) (a b : Nat) : Nat :=
  if vtyFloat t then
    let d := decTy (fpcFZI th.fpc) (vty t)
    encTy (vty t) false (rndOf th 1 false) ((d a).minMax isMax (d b))
  else if isMax then (if elemInt t a < elemInt t b then b else a) else (if elemInt t b < elemInt t a then b else a)

def vecMinMax (isMax : Bool) (f : Vvv) : Ex Unit := do
  let t := f.t.toNat
  let w := vtyWidth t
  let a ← readV f.a.toNat
  let b ← readV f.b.toNat
  vecMap t f.d.toNat false fun _ th _ i _ => minMaxElem t isMax th (elemAt w a i) (elemAt w b i)

/-- `vmin` (R279). -/
def execVmin (g : Guard) (f : Vvv) (s : State) : Host.Outcome State Fault Refusal := runA g (vecMinMax false f) s

/-- `vmax` (R279). -/
def execVmax (g : Guard) (f : Vvv) (s : State) : Host.Outcome State Fault Refusal := runA g (vecMinMax true f) s

/-- Bitwise operations and shifts by vector counts (R280, R281). -/
def vecBits (t vd va vb : Nat) (op : Nat → Nat → Nat → Nat) : Ex Unit := do
  let w := vtyWidth t
  let a ← readV va
  let b ← readV vb
  vecMap t vd false fun _ _ _ i _ => op w (elemAt w a i) (elemAt w b i)

/-- `vand` (R280). -/
def execVand (g : Guard) (f : Vvv) (s : State) : Host.Outcome State Fault Refusal :=
  runA g (vecBits f.t.toNat f.d.toNat f.a.toNat f.b.toNat fun _ a b => a &&& b) s

/-- `vor` (R280). -/
def execVor (g : Guard) (f : Vvv) (s : State) : Host.Outcome State Fault Refusal :=
  runA g (vecBits f.t.toNat f.d.toNat f.a.toNat f.b.toNat fun _ a b => a ||| b) s

/-- `vxor` (R280). -/
def execVxor (g : Guard) (f : Vvv) (s : State) : Host.Outcome State Fault Refusal :=
  runA g (vecBits f.t.toNat f.d.toNat f.a.toNat f.b.toNat fun _ a b => a ^^^ b) s

/-- `vnot` (R280). -/
def execVnot (g : Guard) (t d a : BitVec 4) (s : State) : Host.Outcome State Fault Refusal :=
  runA g (vecBits t.toNat d.toNat a.toNat a.toNat fun w a _ => 2 ^ w - 1 - a) s

/-- Shifts of one element, the count modulo the width (R281). -/
def shlElem (w a n : Nat) : Nat := a * 2 ^ (n % w) % 2 ^ w
def shrElem (w a n : Nat) : Nat := a / 2 ^ (n % w)
def sarElem (w a n : Nat) : Nat := wrap w (sInt w a / (2 : Int) ^ (n % w))

/-- `vshl` (R281). -/
def execVshl (g : Guard) (f : Vvv) (s : State) : Host.Outcome State Fault Refusal :=
  runA g (vecBits f.t.toNat f.d.toNat f.a.toNat f.b.toNat shlElem) s

/-- `vshr` (R281). -/
def execVshr (g : Guard) (f : Vvv) (s : State) : Host.Outcome State Fault Refusal :=
  runA g (vecBits f.t.toNat f.d.toNat f.a.toNat f.b.toNat shrElem) s

/-- `vsar` (R281). -/
def execVsar (g : Guard) (f : Vvv) (s : State) : Host.Outcome State Fault Refusal :=
  runA g (vecBits f.t.toNat f.d.toNat f.a.toNat f.b.toNat sarElem) s

/-- The AVS shifts act in place (R281). -/
def vecShiftS (t vd : Nat) (sr : BitVec 6) (op : Nat → Nat → Nat → Nat) : Ex Unit := do
  let n ← srcElem t sr
  vecMap t vd false fun _ _ _ _ old => op (vtyWidth t) old n

/-- `vshl` by a scalar (R281). -/
def execVshlScalar (g : Guard) (t d : BitVec 4) (sr : BitVec 6) (s : State) : Host.Outcome State Fault Refusal :=
  runA g (vecShiftS t.toNat d.toNat sr shlElem) s

/-- `vshr` by a scalar (R281). -/
def execVshrScalar (g : Guard) (t d : BitVec 4) (sr : BitVec 6) (s : State) : Host.Outcome State Fault Refusal :=
  runA g (vecShiftS t.toNat d.toNat sr shrElem) s

/-- `vsar` by a scalar (R281). -/
def execVsarScalar (g : Guard) (t d : BitVec 4) (sr : BitVec 6) (s : State) : Host.Outcome State Fault Refusal :=
  runA g (vecShiftS t.toNat d.toNat sr sarElem) s

/-! ### Compares, selects, single elements (R282 to R285) -/

/-- The conditions of `vcmp` on one element (R282). -/
def cmpElem (t cc : Nat) (th : Thread) (a b : Nat) : Bool :=
  if vtyFloat t then (decTy (fpcFZI th.fpc) (vty t) a).cmp cc (decTy (fpcFZI th.fpc) (vty t) b)
  else
    let x := elemInt t a
    let y := elemInt t b
    match cc with
    | 0 => x == y
    | 1 => x != y
    | 2 => decide (x < y)
    | 3 => decide (x ≤ y)
    | 4 => decide (y < x)
    | _ => decide (y ≤ x)

/-- `vcmp` (R282): the result is a mask, positions past the elements zero. -/
def execVcmp (g : Guard) (f : Vvv) (c : BitVec 3) (s : State) : Host.Outcome State Fault Refusal :=
  runA g (do
    let t := f.t.toNat
    let w := vtyWidth t
    let a ← readV f.a.toNat
    let b ← readV f.b.toNat
    let x ← vecCtx
    let old ← readV f.d.toNat
    let th := (← get).pre
    let l ← elementwise x (perReg w) false (fun _ i => b2n (cmpElem t c.toNat th (elemAt w a i) (elemAt w b i))) fun i => b2n (old.getLsbD i)
    putV f.d.toNat (packElems 1 l)
    useUnit 1) s

/-- `vsel` (R283). -/
def execVsel (g : Guard) (f : Vvv) (m : BitVec 3) (s : State) : Host.Outcome State Fault Refusal :=
  runA g (do
    let t := f.t.toNat
    let w := vtyWidth t
    let sel ← readV m.toNat
    let a ← readV f.a.toNat
    let b ← readV f.b.toNat
    vecMap t f.d.toNat false fun _ _ _ i _ => if sel.getLsbD i then elemAt w a i else elemAt w b i) s

/-- `vbcast` (R284). -/
def execVbcast (g : Guard) (t d : BitVec 4) (sr : BitVec 6) (s : State) : Host.Outcome State Fault Refusal :=
  runA g (do
    let v ← srcElem t.toNat sr
    vecMap t.toNat d.toNat false fun _ _ _ _ _ => v) s

/-- `vins` (R284). -/
def execVins (g : Guard) (t d : BitVec 4) (sr : BitVec 6) (s : State) : Host.Outcome State Fault Refusal :=
  runA g (do
    let v ← src sr
    let w := vtyWidth t.toNat
    let j := bits v.toNat 32 10
    vecMap t.toNat d.toNat false fun _ _ _ i old => if i = j then v.toNat % 2 ^ w else old) s

/-- `vext` (R284): the entry comes later. -/
def execVext (g : Guard) (t a : BitVec 4) (sr : BitVec 6) (s : State) : Host.Outcome State Fault Refusal :=
  runA g (do
    let v ← src sr
    let _ ← vecCtx
    let x ← readV a.toNat
    let w := vtyWidth t.toNat
    let j := bits v.toNat 0 10
    pushLater (if j < perReg w then BitVec.ofInt 64 (elemInt t.toNat (elemAt w x j)) else 0)
    useUnit 2) s

/-- `vmov` (R285). -/
def execVmov (g : Guard) (d a : BitVec 4) (s : State) : Host.Outcome State Fault Refusal :=
  runA g (do let v ← readV a.toNat; putV d.toNat v; useUnit 1) s

/-- `vzero` (R285). -/
def execVzero (g : Guard) (d : BitVec 4) (s : State) : Host.Outcome State Fault Refusal :=
  runA g (do putV d.toNat 0; useUnit 1) s

/-- `vmov` of a scalar (R285). -/
def execVmovScalar (g : Guard) (d : BitVec 4) (sr : BitVec 6) (s : State) : Host.Outcome State Fault Refusal :=
  runA g (do let v ← src sr; putV d.toNat (v.setWidth 4096); useUnit 1) s

/-! ### Reductions (R286) -/

/-- Sum, minimum or maximum (0, 1, 2) of floating values to a type: one rounding for a sum, none for the others. -/
def redFloat (op : Nat) (c : VCtx) (th : Thread) (dst : Ty) (init : Val) (l : List Val) : Ex Nat := do
  if op = 0 then
    let g ← if c.rm = 5 then drawMany 1 else pure []
    let r := vecRnd th c false (g.headD 0)
    pure (encTy dst false r (if l.isEmpty then init else Val.sum c.rm (-149) (init :: l)))
  else pure (encTy dst false (rndOf th 1 false) (l.foldl (fun a b => a.minMax (op == 2) b) init))

def redInt (op : Nat) (init : Int) (l : List Int) : Int :=
  if op = 0 then l.foldl (· + ·) init
  else if op = 1 then l.foldl (fun a b => if b < a then b else a) init
  else l.foldl (fun a b => if a < b then b else a) init

/-- The active elements of a register. -/
def activeElems (c : VCtx) (t : Nat) (v : BitVec 4096) : List Nat :=
  ((elemsOf (vtyWidth t) v).zipIdx.filter fun p => c.act p.2).map (·.1)

/-- A reduction into element 0 of a register, the others zero. -/
def vecRed (op : Nat) (f : Vvv) : Ex Unit := do
  let t := f.t.toNat
  let c ← vecCtx
  let a ← readV f.a.toNat
  let b ← readV f.b.toNat
  let th := (← get).pre
  let l := activeElems c t a
  let i := elemAt (vtyWidth t) b 0
  let d := decTy (fpcFZI th.fpc) (vty t)
  let v ← if vtyFloat t then redFloat op c th (vty t) (d i) (l.map d)
    else pure (wrap (vtyWidth t) (redInt op (elemInt t i) (l.map (elemInt t))))
  putVLater f.d.toNat [packElems (vtyWidth t) [v]]
  useUnit 2

/-- A reduction pushed to the result queue. -/
def vecRedS (op : Nat) (t a : BitVec 4) (sr : BitVec 6) : Ex Unit := do
  let t := t.toNat
  let s0 ← src sr
  let c ← vecCtx
  let a ← readV a.toNat
  let th := (← get).pre
  let l := activeElems c t a
  let fz := fpcFZI th.fpc
  let v ← if vtyFloat t then redFloat op c th (.fp fp32) (decTy fz (.fp fp32) (s0.toNat % 2 ^ 32)) (l.map (decTy fz (vty t)))
    else pure (wrap 64 (redInt op (if vtySigned t then s0.toInt else s0.toNat) (l.map (elemInt t))))
  pushLater (BitVec.ofNat 64 v)
  useUnit 2

/-- `vredsum` (R286). -/
def execVredsum (g : Guard) (f : Vvv) (s : State) : Host.Outcome State Fault Refusal := runA g (vecRed 0 f) s

/-- `vredmin` (R286). -/
def execVredmin (g : Guard) (f : Vvv) (s : State) : Host.Outcome State Fault Refusal := runA g (vecRed 1 f) s

/-- `vredmax` (R286). -/
def execVredmax (g : Guard) (f : Vvv) (s : State) : Host.Outcome State Fault Refusal := runA g (vecRed 2 f) s

/-- `vredsum` to the result queue (R286). -/
def execVredsumScalar (g : Guard) (t a : BitVec 4) (sr : BitVec 6) (s : State) : Host.Outcome State Fault Refusal := runA g (vecRedS 0 t a sr) s

/-- `vredmin` to the result queue (R286). -/
def execVredminScalar (g : Guard) (t a : BitVec 4) (sr : BitVec 6) (s : State) : Host.Outcome State Fault Refusal := runA g (vecRedS 1 t a sr) s

/-- `vredmax` to the result queue (R286). -/
def execVredmaxScalar (g : Guard) (t a : BitVec 4) (sr : BitVec 6) (s : State) : Host.Outcome State Fault Refusal := runA g (vecRedS 2 t a sr) s

/-! ### Rearranging (R287 to R289) -/

/-- The indices of an index group, by element (R272). -/
def readIdx (t vb : Nat) : Ex (List Nat) := do
  let rs ← (List.range (idxGroup t)).mapM fun j => readV (vb + j)
  pure ((rs.flatMap (elemsOf 16)).take (perReg (vtyWidth t)))

/-- A rearrangement whose result comes later: `f` names the source element of each destination element, if any. -/
def vecMove (t vd : Nat) (a : BitVec 4096) (f : Nat → Option Nat) : Ex Unit := do
  let c ← vecCtx
  let old ← readV vd
  let w := vtyWidth t
  let l := fillElems c (fun _ i => match f i with | some j => if j < perReg w then elemAt w a j else 0 | none => 0) (elemAt w old)
    (List.range (perReg w)) []
  putVLater vd [packElems w l]
  useUnit 2

/-- `vperm` (R287). -/
def execVperm (g : Guard) (f : Vvv) (s : State) : Host.Outcome State Fault Refusal :=
  runA g (do
    let a ← readV f.a.toNat
    let ix ← readIdx f.t.toNat f.b.toNat
    vecMove f.t.toNat f.d.toNat a fun i => ix[i]?) s

/-- `vslideup` (R288). -/
def execVslideup (g : Guard) (f : Vvs) (s : State) : Host.Outcome State Fault Refusal :=
  runA g (do
    let n ← src f.s
    let a ← readV f.a.toNat
    vecMove f.t.toNat f.d.toNat a fun i => if n.toNat ≤ i then some (i - n.toNat) else none) s

/-- `vslidedn` (R288). -/
def execVslidedn (g : Guard) (f : Vvs) (s : State) : Host.Outcome State Fault Refusal :=
  runA g (do
    let n ← src f.s
    let a ← readV f.a.toNat
    vecMove f.t.toNat f.d.toNat a fun i => some (i + n.toNat)) s

/-- `vcompress` (R289): the selected elements to the front; their count is pushed. -/
def execVcompress (g : Guard) (f : Vvv) (s : State) : Host.Outcome State Fault Refusal :=
  runA g (do
    let w := vtyWidth f.t.toNat
    let _ ← vecCtx
    let a ← readV f.a.toNat
    let b ← readV f.b.toNat
    let l := ((elemsOf w a).zipIdx.filter fun p => b.getLsbD p.2).map (·.1)
    putVLater f.d.toNat [packElems w l]
    pushLater (BitVec.ofNat 64 l.length)
    useUnit 2) s

/-- Leading elements spread to the selected positions (R289). -/
def spread (b : BitVec 4096) : List Nat → List Nat → List Nat
  | [], _ => []
  | i :: l, src => if b.getLsbD i then src.headD 0 :: spread b l src.tail else 0 :: spread b l src

/-- `vexpand` (R289). -/
def execVexpand (g : Guard) (f : Vvv) (s : State) : Host.Outcome State Fault Refusal :=
  runA g (do
    let w := vtyWidth f.t.toNat
    let _ ← vecCtx
    let a ← readV f.a.toNat
    let b ← readV f.b.toNat
    putVLater f.d.toNat [packElems w (spread b (List.range (perReg w)) (elemsOf w a))]
    useUnit 2) s

/-! ### Conversions (R290 to R293) -/

/-- A conversion rounds where either type is not an integer (R149, R152). -/
def convRounds (src dst : Ty) : Bool := !(src.isInt && dst.isInt)

/-- `vcvt` (R290). -/
def execVcvt (g : Guard) (f : Vvv) (x : BitVec 1) (s : State) : Host.Outcome State Fault Refusal :=
  runA g (do
    let t := f.t.toNat
    let a ← readV f.a.toNat
    let st := vty f.b.toNat
    let dt := vty t
    vecMap t f.d.toNat (convRounds st dt) fun c th g i _ =>
      convTy st dt (vecRnd th c (x == 1#1 || fpcSATN th.fpc) g) (elemAt (vtyWidth t) a i)) s

/-- A widening instruction (R291): `n` source elements to a group of `k` registers of width `w`, written later. -/
def vecWiden (k w vd n : Nat) (rounds : Bool) (f : VCtx → Thread → Nat → Nat → Nat) : Ex Unit := do
  let c ← vecCtx
  let old ← (List.range k).mapM fun j => readV (vd + j)
  let th := (← get).pre
  let l ← elementwise c n rounds (f c th) fun i => bits (old.getD (i % k) 0).toNat (w * (i / k)) w
  putVLater vd (packGroup k w l)
  useUnit k

/-- Widening arithmetic (R291): exact integers, floating results rounded once to FP32. -/
def vecWideArith (f : Vvv) (fi : Int → Int → Int) (ff : Nat → Val → Val → Val) : Ex Unit := do
  let t := f.t.toNat
  let u := (vtyWiden t).getD 10
  let w := vtyWidth t
  let a ← readV f.a.toNat
  let b ← readV f.b.toNat
  vecWiden 2 (vtyWidth u) f.d.toNat (perReg w) (vtyFloat t) fun c th g i =>
    if vtyFloat t then
      let r := vecRnd th c false g
      encTy (vty u) false r (ff c.rm (decTy r.fzi (vty t) (elemAt w a i)) (decTy r.fzi (vty t) (elemAt w b i)))
    else intElem u false (fi (elemInt t (elemAt w a i)) (elemInt t (elemAt w b i)))

/-- `vwadd` (R291). -/
def execVwadd (g : Guard) (f : Vvv) (s : State) : Host.Outcome State Fault Refusal :=
  runA g (vecWideArith f (· + ·) fun rm a b => a.add rm b) s

/-- `vwmul` (R291). -/
def execVwmul (g : Guard) (f : Vvv) (s : State) : Host.Outcome State Fault Refusal :=
  runA g (vecWideArith f (· * ·) fun _ a b => a.mul b) s

/-- `vwcvt` (R291). -/
def execVwcvt (g : Guard) (f : Vvv) (s : State) : Host.Outcome State Fault Refusal :=
  runA g (do
    let k := vtyRatio f.t.toNat f.b.toNat
    let w := vtyWidth f.b.toNat
    let a ← readV f.a.toNat
    let st := vty f.b.toNat
    let dt := vty f.t.toNat
    vecWiden k (vtyWidth f.t.toNat) f.d.toNat (perReg w) (convRounds st dt) fun c th g i =>
      convTy st dt (vecRnd th c (fpcSATN th.fpc) g) (elemAt w a i)) s

/-- A narrowing instruction (R292): `k` registers of sources to one register of type `t`, written later. -/
def vecNarrow (k t vd : Nat) (rounds : Bool) (f : VCtx → Thread → Nat → Nat → Nat) : Ex Unit := do
  let c ← vecCtx
  let old ← readV vd
  let th := (← get).pre
  let w := vtyWidth t
  let l ← elementwise c (perReg w) rounds (f c th) (elemAt w old)
  putVLater vd [packElems w l]
  useUnit k

/-- `vnadd` (R292): the exact sum, rounded once. -/
def execVnadd (g : Guard) (f : Vvv) (x : BitVec 1) (s : State) : Host.Outcome State Fault Refusal :=
  runA g (do
    let t := f.t.toNat
    let u := (vtyWiden t).getD 10
    let w := vtyWidth u
    let a ← (List.range 2).mapM fun j => readV (f.a.toNat + j)
    let b ← (List.range 2).mapM fun j => readV (f.b.toNat + j)
    let el := fun (r : List (BitVec 4096)) i => bits (r.getD (i % 2) 0).toNat (w * (i / 2)) w
    vecNarrow 2 t f.d.toNat (vtyFloat t) fun c th g i =>
      let ctl := x == 1#1 || fpcSATN th.fpc
      if vtyFloat t then
        let r := vecRnd th c ctl g
        encTy (vty t) false r ((decTy r.fzi (vty u) (el a i)).add c.rm (decTy r.fzi (vty u) (el b i)))
      else intElem t ctl (elemInt u (el a i) + elemInt u (el b i))) s

/-- `vncvt` (R292). -/
def execVncvt (g : Guard) (f : Vvv) (x : BitVec 1) (s : State) : Host.Outcome State Fault Refusal :=
  runA g (do
    let k := vtyRatio f.b.toNat f.t.toNat
    let w := vtyWidth f.b.toNat
    let a ← (List.range k).mapM fun j => readV (f.a.toNat + j)
    let st := vty f.b.toNat
    let dt := vty f.t.toNat
    vecNarrow k f.t.toNat f.d.toNat (convRounds st dt) fun c th g i =>
      convTy st dt (vecRnd th c (x == 1#1 || fpcSATN th.fpc) g) (bits (a.getD (i % k) 0).toNat (w * (i / k)) w)) s

/-- The magnitude of an element, in its own encoding; none for a NaN (R293). -/
def magElem (t v : Nat) : Option Nat :=
  match vty t with
  | .fp f =>
    let a := bits v 0 (f.eb + f.mb)
    if maxFin f + 1 < a then none else some a
  | _ => some (elemInt t v).natAbs

/-- `vbmax` (R293): FPC does not apply. -/
def execVbmax (g : Guard) (t d a : BitVec 4) (b : BitVec 1) (s : State) : Host.Outcome State Fault Refusal :=
  runA g (do
    let c ← vecCtx
    let v ← readV a.toNat
    let t := t.toNat
    let w := vtyWidth t
    let blk := if b = 1#1 then 128 else 32
    let l := (List.range (perReg w / blk)).map fun j => (List.range blk).foldl (fun m i =>
      if c.act (j * blk + i) then (match magElem t (elemAt w v (j * blk + i)) with | some x => max m x | none => m) else m) 0
    putVLater d.toNat [packElems w l]
    useUnit 2) s

/-! ### Special functions (R294) -/

def vtyFmt (t : Nat) : Fmt := if t = 8 then bf16 else if t = 9 then fp16 else fp32

def vecSpecial (fn : Nat) (t d a : BitVec 4) : Ex Unit := do
  let t := t.toNat
  let w := vtyWidth t
  let c ← vecCtx
  let v ← readV a.toNat
  let old ← readV d.toNat
  let th := (← get).pre
  let l ← elementwise c (perReg w) false (fun _ i => special fn (vtyFmt t) { rndOf th 0 (fpcSATN th.fpc) with rm := 0 } t (elemAt w v i)) (elemAt w old)
  putVLater d.toNat [packElems w l]
  useUnit 2

/-- `vexp2` (R294). -/
def execVexp2 (g : Guard) (t d a : BitVec 4) (s : State) : Host.Outcome State Fault Refusal := runA g (vecSpecial 0 t d a) s

/-- `vlog2` (R294). -/
def execVlog2 (g : Guard) (t d a : BitVec 4) (s : State) : Host.Outcome State Fault Refusal := runA g (vecSpecial 1 t d a) s

/-- `vrcp` (R294). -/
def execVrcp (g : Guard) (t d a : BitVec 4) (s : State) : Host.Outcome State Fault Refusal := runA g (vecSpecial 2 t d a) s

/-- `vrsqrt` (R294). -/
def execVrsqrt (g : Guard) (t d a : BitVec 4) (s : State) : Host.Outcome State Fault Refusal := runA g (vecSpecial 3 t d a) s

/-- `vtanh` (R294). -/
def execVtanh (g : Guard) (t d a : BitVec 4) (s : State) : Host.Outcome State Fault Refusal := runA g (vecSpecial 5 t d a) s

/-- `vsigm` (R294). -/
def execVsigm (g : Guard) (t d a : BitVec 4) (s : State) : Host.Outcome State Fault Refusal := runA g (vecSpecial 6 t d a) s

/-- `vsqrt` (R294): correctly rounded under the mode in force. -/
def execVsqrt (g : Guard) (t d a : BitVec 4) (s : State) : Host.Outcome State Fault Refusal :=
  runA g (do
    let t := t.toNat
    let w := vtyWidth t
    let c ← vecCtx
    let v ← readV a.toNat
    let old ← readV d.toNat
    let th := (← get).pre
    let l ← elementwise c (perReg w) true (fun g i =>
      let r := vecRnd th c (fpcSATN th.fpc) g
      encTy (vty t) false r (decTy r.fzi (vty t) (elemAt w v i)).sqrt) (elemAt w old)
    putVLater d.toNat [packElems w l]
    useUnit 2) s

end Sys2Proof.Machine
end

