-- ==== Sys2Proof/Machine/Convert.lean ====
section
/-! DEFINITION. Converting accesses through alias windows (R80 to R84, R146, R147): data order, scales, checks, decoding and encoding. -/

namespace Sys2Proof.Machine

/-! ### Descriptors (R66) -/

structure Desc where
  en : Bool
  sat : Bool
  smode : Bool
  separate : Bool
  blk : Nat
  vtype : Nat
  fmt : Nat
  soff : Nat
deriving DecidableEq, Repr

def descOf (w : BitVec 32) : Desc :=
  let v := w.toNat
  let f := bits v 16 4
  ⟨bit v 31, bit v 30, fmtScaled f && bit v 29, bit v 28 || !fmtScaled f, if bit v 27 then 32 else 128, bits v 20 4, f, bits v 0 14⟩

def Desc.width (d : Desc) : Nat := (fmtTy d.fmt).width
def Desc.scaled (d : Desc) : Bool := fmtScaled d.fmt
/-- Data bytes of a block, and the superblock of 64 blocks with their scale line (R82). -/
def Desc.blockBytes (d : Desc) : Nat := d.blk * d.width / 8
def Desc.super (d : Desc) : Nat := 64 * (d.blockBytes + 1)

/-- An unconverted view: elements of format code `fmt` packed from offset 0. -/
def rawDesc (fmt : Nat) : Desc := ⟨true, false, false, true, 128, 10, fmt, 0⟩

/-! ### Data order (R82) -/

/-- The offset lies in a scale line. -/
def Desc.inScaleLine (d : Desc) (o : Nat) : Bool := !d.separate && decide (o % d.super < 64)

/-- The data-order index of the element at an offset. -/
def Desc.index (d : Desc) (o : Nat) : Nat :=
  if d.separate then o * 8 / d.width else o / d.super * (64 * d.blk) + (o % d.super - 64) * 8 / d.width

/-- The first bit of element `i`, from offset 0. -/
def Desc.bitAt (d : Desc) (i : Nat) : Nat :=
  if d.separate then i * d.width
  else (i / (64 * d.blk) * d.super + 64) * 8 + i % (64 * d.blk) * d.width

/-- The place of the scale of element `i`. -/
def Desc.scaleAt (d : Desc) (i : Nat) : Nat :=
  if d.separate then d.soff * 64 + i / d.blk else i / (64 * d.blk) * d.super + i % (64 * d.blk) / d.blk

/-- The bytes that hold element `i`. -/
def Desc.elemBytes (d : Desc) (i : Nat) : Nat × Nat :=
  let b := d.bitAt i
  (b / 8, (b % 8 + d.width + 7) / 8)

/-- Byte ranges that elements `i` to `i + n - 1` touch, scale bytes apart. -/
def Desc.dataRuns (d : Desc) (i n : Nat) : List (Nat × Nat) :=
  if n = 0 then []
  else if d.separate then
    let lo := d.bitAt i / 8
    [(lo, (d.bitAt (i + n - 1) + d.width + 7) / 8 - lo)]
  else
    let m := 64 * d.blk
    (List.range ((i + n - 1) / m - i / m + 1)).map fun k =>
      let a := max i ((i / m + k) * m)
      let b := min (i + n) ((i / m + k + 1) * m)
      (d.bitAt a / 8, (d.bitAt (b - 1) + d.width + 7) / 8 - d.bitAt a / 8)

/-- Byte ranges of the scales of elements `i` to `i + n - 1`. -/
def Desc.scaleRuns (d : Desc) (i n : Nat) : List (Nat × Nat) :=
  if n = 0 ∨ ¬ d.scaled then []
  else if d.separate then [(d.scaleAt i, d.scaleAt (i + n - 1) + 1 - d.scaleAt i)]
  else
    let m := 64 * d.blk
    (List.range ((i + n - 1) / m - i / m + 1)).map fun k =>
      let a := max i ((i / m + k) * m)
      let b := min (i + n) ((i / m + k + 1) * m)
      (d.scaleAt a, d.scaleAt (b - 1) + 1 - d.scaleAt a)

/-- Bytes of a group (R83). -/
def groupBytes (w : Nat) : Nat := if w = 6 then 3 else if w = 16 then 2 else if w = 32 then 4 else 1

/-- The offset starts a group (R83). -/
def Desc.onGroup (d : Desc) (o : Nat) : Bool :=
  if d.separate then o % groupBytes d.width == 0 else (o % d.super - 64) % groupBytes d.width == 0

/-! ### Checks (R77, R83) -/

/-- Share, lock and subscriber checks of byte ranges of the own scratchpad, in the order of R77; `kind` 0 reads, 1 writes. The value is
the cause and the offset. -/
def State.rangesErr (s : State) (c x kind : Nat) (rs : List (Nat × Nat)) : Option (Nat × Nat) :=
  match rs.find? fun r => decide (0x100000 < r.1 + r.2) with
  | some r => some (0x14, r.1)
  | none => match rs.find? fun r => !s.spShare c x r.1 r.2 with
    | some r => some (0x17, r.1)
    | none => match rs.find? fun r => (s.core c).locks.any fun l => overlap r.1 r.2 l.lo (l.hi + 1 - l.lo) && (l.dst || kind != 0) with
      | some r => some (0x05, r.1)
      | none => none

/-- The first check of R77 and R83 that a converting access of elements `i` on fails; `o` is its first offset, `ws` whether it writes
scales of whole blocks. -/
def State.convErr (s : State) (c x kind : Nat) (d : Desc) (o n : Nat) (blocks writes : Bool) : Option (Nat × Nat) :=
  let i := d.index o
  let runs := d.dataRuns i n
  let sc := d.scaleRuns i n
  if d.inScaleLine o then some (0x15, o)
  else if (runs ++ sc).any fun r => decide (0x100000 < r.1 + r.2) then some (0x14, o)
  else if !d.onGroup o || (blocks && (i % d.blk != 0 || n % d.blk != 0)) then some (0x13, o)
  else match s.rangesErr c x 0 sc with
    | some (0x17, a) => some (0x17, a)
    | _ => s.rangesErr c x kind (runs ++ if writes then sc else [])

/-! ### Reading and writing elements (R84) -/

/-- A byte of a core's scratchpad as the thread sees it, its own buffered stores over it (R111). -/
def State.seen (s : State) (c h o : Nat) : Byte :=
  ((overlay (s.thread c h) (spKey c o) [s.byte (spKey c o)])[0]?).getD 0

/-- The encoded element `i`, from bytes given by offset. -/
def Desc.get (d : Desc) (rd : Nat → Byte) (i : Nat) : Nat :=
  let p := d.elemBytes i
  ofBytes ((List.range p.2).map fun j => rd (p.1 + j)) / 2 ^ (d.bitAt i % 8) % 2 ^ d.width

/-- The scale byte of element `i`; 127 where the format has none. -/
def Desc.scale (d : Desc) (rd : Nat → Byte) (i : Nat) : Nat := if d.scaled then (rd (d.scaleAt i)).toNat else 127

/-- Element `i` decoded and converted to a vector type (R84, R146). -/
def Desc.load (d : Desc) (rd : Nat → Byte) (r : Rnd) (i : Nat) : Nat :=
  let t := fmtTy d.fmt
  let v := decTy (r.fzi && !d.scaled) t (d.get rd i)
  if d.scaled then encTy (vty d.vtype) false r (underScale v (d.scale rd i)) else encTy (vty d.vtype) t.isInt r v

/-- Encodings of the values of a run of elements: by blocks with their scale computed (SMODE 1), or each against the scale given, or
with none (R84, R147). `g` holds the generator's steps; `given` the scale of each element. -/
def Desc.encode (d : Desc) (fromInt : Bool) (r : Rnd) (given : Nat → Nat) (vs : List Val) (g : List Nat) : List Nat × List Nat :=
  let t := fmtTy d.fmt
  let one := fun (r : Rnd) (sc : Nat) (v : Val) => if d.scaled then encScaled t r sc v else encTy t fromInt r v
  if d.smode then
    let nb := vs.length / d.blk
    let scs := (List.range nb).map fun b => scaleOf t (slice vs (b * d.blk) d.blk)
    (vs.zipIdx.map fun p => one { r with ctl := true, g := g.getD p.2 0 } (scs.getD (p.2 / d.blk) 127) p.1, scs)
  else (vs.zipIdx.map fun p => one { r with g := g.getD p.2 0 } (given p.2) p.1, [])

/-- Bits of byte `o` that an element at bit `b` of width `w` covers, and its part of the value. -/
def bytePart (b w v o : Nat) : Nat × Nat :=
  let m := (2 ^ w - 1) * 2 ^ (b % 8)
  let x := v % 2 ^ w * 2 ^ (b % 8)
  (m / 256 ^ (o - b / 8) % 256, x / 256 ^ (o - b / 8) % 256)

/-- Pieces that write whole runs of consecutive elements: bytes of each run, cut at 64-byte lines; `bs` gives a byte by offset. -/
def runPieces (c : Nat) (va : Nat → Word) (bs : Nat → Byte) (rs : List (Nat × Nat)) : List BufStore :=
  rs.flatMap fun r => (linesOf r.1 r.2).map fun l =>
    let lo := max r.1 (64 * l)
    let hi := min (r.1 + r.2) (64 * l + 64)
    ⟨va lo, spKey c lo, (List.range (hi - lo)).map fun j => bs (lo + j), [], 0⟩

/-- The packed bytes of consecutive elements from index `i`, by offset (R81). -/
def Desc.packed (d : Desc) (i : Nat) (es : List Nat) (o : Nat) : Byte :=
  let cand := (List.range (9 / d.width + 2)).map fun k => d.index o + k
  let v := cand.foldl (fun a j =>
    let b := d.bitAt j
    if i ≤ j ∧ j < i + es.length ∧ b / 8 ≤ o ∧ o ≤ (b + d.width - 1) / 8 then a ||| (bytePart b d.width (es.getD (j - i) 0) o).2 else a) 0
  BitVec.ofNat 8 v

/-- A piece that writes one element, its neighbours in the byte intact (R121). -/
def Desc.piece (d : Desc) (c : Nat) (va : Nat → Word) (i v : Nat) : BufStore :=
  let p := d.elemBytes i
  let b := d.bitAt i
  let parts := (List.range p.2).map fun j => bytePart b d.width v (p.1 + j)
  ⟨va p.1, spKey c p.1, parts.map fun x => BitVec.ofNat 8 x.2, if d.width % 8 = 0 then [] else parts.map fun x => BitVec.ofNat 8 x.1, 0⟩

end Sys2Proof.Machine
end

