-- ==== Sys2Proof/Machine/LoadStore.lean ====
section
/-! DEFINITION. Loads and stores, vector and indexed ones among them, prefetch and touch, full/empty words, fences and scoreboard waits
(R119, R224 to R227, R230 to R234, R295 to R298). -/

namespace Sys2Proof.Machine

/-! ### Scalar loads and stores (R225, R226) -/

/-- `ld.1` (R225). -/
def execLd1 (f : Mem) (s : State) : Host.Outcome State Fault Refusal := runC f.w.toNat (doLoad f 1 false) s

/-- `ld.2` (R225). -/
def execLd2 (f : Mem) (s : State) : Host.Outcome State Fault Refusal := runC f.w.toNat (doLoad f 2 false) s

/-- `ld.4` (R225). -/
def execLd4 (f : Mem) (s : State) : Host.Outcome State Fault Refusal := runC f.w.toNat (doLoad f 4 false) s

/-- `ld.8` (R225). -/
def execLd8 (f : Mem) (s : State) : Host.Outcome State Fault Refusal := runC f.w.toNat (doLoad f 8 false) s

/-- `lds.1` (R225). -/
def execLds1 (f : Mem) (s : State) : Host.Outcome State Fault Refusal := runC f.w.toNat (doLoad f 1 true) s

/-- `lds.2` (R225). -/
def execLds2 (f : Mem) (s : State) : Host.Outcome State Fault Refusal := runC f.w.toNat (doLoad f 2 true) s

/-- `lds.4` (R225). -/
def execLds4 (f : Mem) (s : State) : Host.Outcome State Fault Refusal := runC f.w.toNat (doLoad f 4 true) s

/-- `st.1` (R226). -/
def execSt1 (f : Mem) (s : State) : Host.Outcome State Fault Refusal := runC f.w.toNat (scalarStore f 1) s

/-- `st.2` (R226). -/
def execSt2 (f : Mem) (s : State) : Host.Outcome State Fault Refusal := runC f.w.toNat (scalarStore f 2) s

/-- `st.4` (R226). -/
def execSt4 (f : Mem) (s : State) : Host.Outcome State Fault Refusal := runC f.w.toNat (scalarStore f 4) s

/-- `st.8` (R226). -/
def execSt8 (f : Mem) (s : State) : Host.Outcome State Fault Refusal := runC f.w.toNat (scalarStore f 8) s

/-! ### Vector loads and stores (R227) -/

/-- The descriptor of the own-core window that an address passes through, where its accesses convert (R80, R227). -/
def State.converting (s : State) (va : Nat) : Option (Desc × BitVec 32) :=
  match spaceOf va with
  | some (.own w o) =>
    let d := Table.get 0#32 w s.curCtx.wd
    if w ≠ 0 ∧ o < 0x100000 ∧ d.toNat.testBit 31 then some (descOf d, d) else none
  | _ => none

/-- A format or vector type code that the version, or approach mode before its calibration, reserves (R181, R444). -/
def State.fmtReserved (s : State) (ver fmt : Nat) : Bool :=
  (ver == 1 && decide (fmt ∈ [10, 11, 12])) || (decide (ver < 3) && decide (fmt ∈ [7, 13])) || (s.dev.active && !s.dev.caln && decide (3 ≤ fmt))

/-- A converting access whose codes are reserved traps at issue (R181). -/
def convGate (d : Desc) : Ex Unit := do
  let s ← get
  if s.fmtReserved s.curCtx.ver d.fmt ∨ (s.curCtx.ver = 1 ∧ d.vtype < 2) then trapWord 0x10 else pure ()

/-- The generator before the steps of `n` elements that a converting access rounds in SR (R149). -/
def seedFor (rounds : Bool) (n : Nat) : Ex (BitVec 32) := do
  let s ← get
  if rounds && fpcRM s.pre.fpc == 5 then do
    let _ ← drawMany n
    pure (s.latch.sr.getD s.pre.srst)
  else pure 0

/-- A conversion between a window's format and a vector type rounds (R149, R152). -/
def Desc.rounds (d : Desc) (t : Nat) : Bool := d.scaled || convRounds (fmtTy d.fmt) (vty t)

/-- A vector register becomes pending on a load (R227, R277). -/
def issueV (v : Nat) (f : Op → Op) : Ex Unit := do
  let n ← freeV v
  let id := (← get).nextOp
  issue fun o => { f o with kind := .vload, dest := .vregs [n] }
  modCur fun t => { t with vPend := t.vPend ++ [(n, id)] }

/-- `ldv` (R227). -/
def execLdv (f : VMem) (s : State) : Host.Outcome State Fault Refusal :=
  runC f.w.toNat (do
    let a ← src f.a
    let va := a + BitVec.ofNat 64 (f.i.toNat * 64)
    let _ ← vnum f.v.toNat
    memGate
    let s ← get
    match s.converting va.toNat with
    | some (d, w) => do
      convGate d
      let e := perReg (vty d.vtype).width
      match s.convErr s.latch.core s.cur.x 0 d (ownOff va.toNat) e false false with
      | some (k, _) => trap k va
      | none => pure ()
      setSlot f.s.toNat
      let g ← seedFor (d.rounds d.vtype) e
      issueV f.v.toNat fun o => { o with addr := va, n := e, aop := 1, wd := w, fpc := s.pre.fpc, seed := g, sb := f.s.toNat }
    | none => do
      checkAccess va (va.toNat + 511) 8 0
      tokenGate va
      setSlot f.s.toNat
      issueV f.v.toNat fun o => { o with addr := va, n := 512, sb := f.s.toNat }) s

/-- The rounding of a converting store (R84, R150, R154). -/
def storeRnd (t : Thread) (d : Desc) : Rnd := ⟨fpcRM t.fpc, fpcFZI t.fpc, fpcFZO t.fpc, d.sat, 0⟩

/-- The values of a register's elements, subnormals flushed under FZI. -/
def vecVals (fzi : Bool) (t : Nat) (v : BitVec 4096) : List Val := (elemsOf (vtyWidth t) v).map (decTy fzi (vty t))

/-- The bytes that a converting `stv` stores: the elements of its register encoded into the window's format, and the scales where the window scales by
itself (R84, R227); `g` is the generator before its steps. -/
def State.convPieces (s : State) (d : Desc) (va : Word) (v : BitVec 4096) (g : BitVec 32) : List BufStore :=
  let c := s.latch.core
  let e := perReg (vty d.vtype).width
  let o := ownOff va.toNat
  let r := storeRnd s.pre d
  let i := d.index o
  let rd := s.seen c s.latch.slot
  let es := d.encode (vty d.vtype).isInt r (fun k => d.scale rd (i + k)) (vecVals r.fzi d.vtype v)
    (if r.rm = 5 then (srSteps e g).map fun x => x.toNat % 65536 else [])
  let at_ := fun o' => va + BitVec.ofNat 64 (o' - o)
  let sc := d.scaleAt i
  let scPieces := if d.smode then runPieces c at_ (fun x =>
      BitVec.ofNat 8 (es.2.getD (if d.separate then x - sc else (x / d.super * 64 + x % d.super) - (sc / d.super * 64 + sc % d.super)) 127))
      (d.scaleRuns i e) else []
  runPieces c at_ (d.packed i es.1) (d.dataRuns i e) ++ scPieces

/-- `stv` (R227). -/
def execStv (f : VMem) (s : State) : Host.Outcome State Fault Refusal :=
  runC f.w.toNat (do
    let a ← src f.a
    let va := a + BitVec.ofNat 64 (f.i.toNat * 64)
    let v ← readV f.v.toNat
    memGate
    let s ← get
    let c := s.latch.core
    match s.converting va.toNat with
    | some (d, _) => do
      convGate d
      let e := perReg (vty d.vtype).width
      match s.convErr c s.cur.x 1 d (ownOff va.toNat) e d.smode d.smode with
      | some (k, _) => trap k va
      | none => pure ()
      let g ← seedFor (d.rounds d.vtype) e
      doStore .vstore va (s.convPieces d va v g) f.s.toNat
    | none => do
      checkAccess va (va.toNat + 511) 8 1
      tokenGate va
      doStore .vstore va (piecesAt c va (toBytes 512 v.toNat)) f.s.toNat) s

/-! ### Indexed loads and stores (R295 to R298) -/

/-- How the elements of an indexed access lie: the descriptor that converts them, or none, the base's offset, and the cause of the base itself that
comes after element 0's WINDOW_STRADDLE in the order of R77: MEM_ALIGN, or PROT of another space (R296). -/
structure Indexed where
  conv : Option (Desc × BitVec 32)
  off : Nat
  late : Option Nat := none

/-- The base of an indexed access and its checks (R296); `store` where a window with SMODE 1 refuses it (R298). -/
def indexedBase (va : Word) (t : Nat) (store : Bool) : Ex Indexed := do
  let s ← get
  let c := s.latch.core
  let o := ownOff va.toNat
  let w := vtyWidth t
  let odd : Option Nat := if o % (if w = 4 then 1 else w / 8) ≠ 0 then some 0x13 else none
  match spaceOf va.toNat with
  | none => trap 0x15 va
  | some sp =>
    if s.hole s.curCtx sp then trap 0x15 va
    else if !isOwn c va.toNat then pure ⟨none, o, some (odd.getD 0x17)⟩
    else match s.converting va.toNat with
      | some (d, x) =>
        if d.vtype = t then do
          convGate d
          if d.inScaleLine o then trap 0x15 va
          else pure ⟨some (d, x), o, if !d.onGroup o || (store && d.smode) then some 0x13 else none⟩
        else pure ⟨none, o, odd⟩
      | none => pure ⟨none, o, odd⟩

/-- The first bit of an element and its width, by index (R296). -/
def Indexed.place (x : Indexed) (t j : Nat) : Nat × Nat :=
  match x.conv with
  | some (d, _) => (d.bitAt (d.index x.off + j), d.width)
  | none => (x.off * 8 + j * vtyWidth t, vtyWidth t)

/-- The place of a check in the order of R77. -/
def checkRank (code : Nat) : Nat := if code = 0x14 then 2 else if code = 0x13 then 3 else if code = 0x17 then 4 else 6

/-- The first check of R77 that an element or its scale fails, and the offset (R296). -/
def State.elemErr (s : State) (x : Indexed) (va : Word) (t kind j : Nat) : Option (Nat × Nat) :=
  let c := s.latch.core
  let p := x.place t j
  let run := (p.1 / 8, (p.1 % 8 + p.2 + 7) / 8)
  if !isOwn c va.toNat then
    let far := fun (o : Nat) => spaceOf (va.toNat - x.off + o)
    match far run.1, far (run.1 + run.2 - 1) with
    | some a, some b => if sameSpace a b then none else some (0x14, run.1)
    | _, _ => some (0x14, run.1)
  else
    let sc := match x.conv with | some (d, _) => d.scaleRuns (d.index x.off + j) 1 | none => []
    match s.rangesErr c s.cur.x kind [run], s.rangesErr c s.cur.x 0 sc with
    | some e, some (k, _) => if checkRank k < checkRank e.1 then some (k, run.1) else some e
    | some e, none => some e
    | none, some (k, _) => some (k, run.1)
    | none, none => none

/-- Checks of each element in ascending order (R296): the first element that fails decides, the base's own checks standing among those of element 0. -/
def checkElems (x : Indexed) (va : Word) (t kind : Nat) (ix : List Nat) : Ex Unit := do
  let s ← get
  let bad := fun (e : Nat × Nat) => (trap e.1 (va + BitVec.ofInt 64 ((e.2 : Int) - (x.off : Int))) : Ex Unit)
  match ix.head?.bind (s.elemErr x va t kind), x.late with
  | some (0x14, a), _ => bad (0x14, a)
  | _, some k => trap k va
  | _, none => match ix.findSome? (s.elemErr x va t kind) with
    | some e => bad e
    | none => pure ()

/-- `vldx` (R297). -/
def execVldx (f : VIdx) (s : State) : Host.Outcome State Fault Refusal :=
  runC f.w.toNat (do
    let va ← src f.a
    let t := f.t.toNat
    let ix ← readIdx t f.i.toNat
    let _ ← vnum f.v.toNat
    memGate
    let x ← indexedBase va t false
    checkElems x va t 0 ix
    setSlot f.s.toNat
    let s ← get
    match x.conv with
    | some (d, w) => do
      let g ← seedFor (d.rounds t) ix.length
      issueV f.v.toNat fun o => { o with addr := va, n := t, aop := 2, wd := w, fpc := s.pre.fpc, seed := g, sb := f.s.toNat
                                         more := ix.map fun j => d.index x.off + j }
    | none => issueV f.v.toNat fun o => { o with addr := va, n := t, aop := 3, sb := f.s.toNat, more := ix.map fun j => (x.place t j).1 }) s

/-- The bytes that a `vstx` stores, element by element (R298); `g` is the generator before its steps. -/
def State.scatterPieces (s : State) (x : Indexed) (va : Word) (t : Nat) (ix : List Nat) (v : BitVec 4096) (g : BitVec 32) : List BufStore :=
  let c := s.latch.core
  let at_ := fun (o' : Nat) => va + BitVec.ofInt 64 ((o' : Int) - (x.off : Int))
  match x.conv with
  | some (d, _) =>
    let r := storeRnd s.pre d
    let rd := s.seen c s.latch.slot
    let is := ix.map fun j => d.index x.off + j
    let es := d.encode (vty t).isInt r (fun k => d.scale rd (is.getD k 0)) (vecVals r.fzi t v)
      (if r.rm = 5 then (srSteps ix.length g).map fun y => y.toNat % 65536 else [])
    (is.zip es.1).map fun p => d.piece c at_ p.1 p.2
  | none =>
    let w := vtyWidth t
    (ix.zip (elemsOf w v)).map fun p =>
      let b := (x.place t p.1).1
      if w = 4 then (⟨at_ (b / 8), spKey c (b / 8), [BitVec.ofNat 8 (bytePart b 4 p.2 (b / 8)).2], [BitVec.ofNat 8 (bytePart b 4 p.2 (b / 8)).1], 0⟩ : BufStore)
      else ⟨at_ (b / 8), spKey c (b / 8), toBytes (w / 8) p.2, [], 0⟩

/-- `vstx` (R298). -/
def execVstx (f : VIdx) (s : State) : Host.Outcome State Fault Refusal :=
  runC f.w.toNat (do
    let va ← src f.a
    let t := f.t.toNat
    let ix ← readIdx t f.i.toNat
    let v ← readV f.v.toNat
    memGate
    let x ← indexedBase va t true
    checkElems x va t 1 ix
    let s ← get
    let g ← match x.conv with
      | some (d, _) => seedFor (d.rounds t) ix.length
      | none => pure 0
    doStore .vstore va (s.scatterPieces x va t ix v g) f.s.toNat) s

/-! ### Prefetch and touch (R231, R232) -/

/-- A line of the own HBM, or of a copy held there under a token, that the leases open for reading fills the L1D, its translation being entered where the
TLB has none (R96, R231). -/
def State.prefetchLine (s : State) (c l va : Nat) : State :=
  let fill := fun (s : State) (e : Tlb) =>
    if hasRights (e.pr &&& e.lr) 1 then s.l1Fill c ⟨l, va, e.pa va, e.pr &&& e.lr, s.bytes (s.fwd (e.pa va)) 64, 0⟩ else s
  match spaceOf va with
  | some (.glob _) =>
    if !s.held va || s.regionBusy va || !hasRights (leaseRights (s.lease l) va 64) 1 || (s.core c).l1d.any (fun e => e.l == l && e.va == va) then s
    else match s.tlbFind (clusterOf c) l va with
      | some e => fill s e
      | none => match s.tlbEntry l va with
        | some e => fill (s.tlbFill (clusterOf c) e) e
        | none => s
  | _ => s

/-- `prefetch` (R231): a leased line of the own HBM is filled; in every other case nothing happens. -/
def execPrefetch (a : BitVec 6) (w : BitVec 3) (imm : BitVec 6) (s : State) : Host.Outcome State Fault Refusal :=
  runC w.toNat (do
    let b ← src a
    let va := (b + BitVec.ofNat 64 (imm.toNat * 64)).toNat / 64 * 64
    modify fun s => s.prefetchLine s.latch.core s.curCtx.l va) s

/-- `touch` (R102, R232): parks until PAGE_RESIDENT has answered. -/
def execTouch (a : BitVec 6) (w : BitVec 3) (imm : BitVec 6) (s : State) : Host.Outcome State Fault Refusal :=
  runC w.toNat (do
    let b ← src a
    let va := b + BitVec.ofNat 64 (imm.toNat * 64)
    match (← get).cur.wait with
    | .done v => do
      modCur fun t => { t with wait := .none }
      if v = 0 then pure () else trap 0x16 va
    | .touch _ => park 11
    | _ =>
      match spaceOf va.toNat with
      | some (.glob _) => parkWith 11 fun s => s.modCur fun t => { t with wait := .touch (va.toNat / 65536) }
      | _ => trap 0x15 va) s

/-! ### Fences and scoreboard waits (R119, R230) -/

/-- Scope `a` covers scope `b` (R106), the team as the given registers make it. -/
def covers (a b : Nat) : Bool :=
  a == b || (match a with
    | 0 => false
    | 1 => b == 0
    | 2 => decide (b ≤ 1)
    | 3 => decide (b ≤ 1)
    | 4 => b == 0 || b == 1 || b == 3
    | 5 => decide (b ≤ 4)
    | 6 | 7 => decide (b ≤ 5)
    | 8 => decide (b ≤ 5) || b == 7
    | 9 => decide (b ≤ 5) || b == 7 || b == 8
    | 10 => decide (b ≤ 5) || decide (7 ≤ b ∧ b ≤ 9)
    | _ => true)

/-- BG`n` of the context has EN set (R67). -/
def State.bgOn (s : State) (n : Nat) : Bool := bit (Table.get 0#32 n s.curCtx.bg).toNat 31

/-- Cluster scope or wider, for the L1D (R96, R119): scope 2 where the rectangle holds the whole cluster. -/
def State.dropsL1 (s : State) (core x scope bg : Nat) : Bool :=
  if scope = 2 then
    let v := (Table.get 0#32 bg (s.ctx core x).bg).toNat
    (clusterCores (clusterOf core)).all fun c =>
      decide (bits v 0 4 ≤ rowOf c ∧ rowOf c < bits v 0 4 + bits v 9 5 ∧ bits v 4 5 ≤ colOf c ∧ colOf c < bits v 4 5 + bits v 14 6)
  else decide (3 ≤ scope)

/-- Links of the torus between two devices. -/
def torusHops (d : Dev) (a b : Nat) : Nat :=
  let one := fun (n x y : Nat) => let k := (x + n - y % n) % n; min k (n - k)
  one d.xs (a % 32) (b % 32) + one d.ys (a / 32 % 16) (b / 32 % 16) + one d.zs (a / 512) (b / 512)

/-- Another device lies inside a scope (R106). -/
def inScope (d : Dev) (scope b : Nat) : Bool :=
  let same := b2n (d.devno % 32 == b % 32) + b2n (d.devno / 32 % 16 == b / 32 % 16) + b2n (d.devno / 512 == b / 512)
  match scope with
  | 7 => decide (torusHops d d.devno b ≤ 1)
  | 8 => decide (2 ≤ same) || decide (torusHops d d.devno b ≤ 1)
  | 9 => decide (1 ≤ same) || decide (torusHops d d.devno b ≤ 1)
  | 10 | 11 => true
  | _ => false

/-- Messages and remote stores that a thread has sent through the send engine to a device inside a scope, and that are not acknowledged (R119). -/
def remoteSends (s : State) (scope : Nat) : Bool :=
  (s.core s.latch.core).cmds.any (fun m => m.slot == s.latch.slot && m.x == s.cur.x &&
      (match m.ins with | .put .. => inScope s.dev scope (m.args.getD 1 0) | _ => false)) ||
    (s.opsOf s.latch.core s.latch.slot).any fun o => o.kind == .send && o.tgt != s.dev.devno && inScope s.dev scope o.tgt

/-- Host scope and wider wait until the stores to host windows are visible to the host: a read of no bytes of each window written (R136). -/
def hostFlush (scope : Nat) : Ex Unit := do
  let s ← get
  if (scope == 6 || scope == 11) && !s.cur.hostDirty.isEmpty then
    match s.cur.wait with
    | .reply _ _ => park 6
    | .done _ => modCur fun t => { t with wait := .none, hostDirty := [] }
    | _ => parkWith 6 fun s =>
      let outs := s.cur.hostDirty.map fun w => HostOut.read s.nextOp (s.hostAddr (0x0084000000000000 + w * 0x1000000000)) 0
      { (s.modCur fun t => { t with wait := .reply s.nextOp s.dev.devno }).modSched (fun q => { q with out := q.out ++ outs }) with nextOp := s.nextOp + 1 }
  else pure ()

/-- The global lines of the core's L1D are dropped at a scope that covers the cluster (R96, R119). -/
def dropLines (scope bg : Nat) : Ex Unit := modify fun s => if s.dropsL1 s.latch.core s.cur.x scope bg then s.modCore s.latch.core fun k => { k with l1d := [] } else s

/-- `fence` (R119, R230): every earlier access is performed and every scoreboard count is zero; the open BATCH windows of the core
close (R128); from cluster scope the L1D drops its lines; host scope and wider wait for the stores to host windows. -/
def execFence (r sr : BitVec 4) (s : State) : Host.Outcome State Fault Refusal :=
  runC 0 (do
    let s ← get
    let c := s.latch.core
    let scope := sr.toNat
    if scope = 2 ∧ ¬ s.bgOn r.toNat then trap 0x12 (BitVec.ofNat 64 r.toNat) else pure ()
    let t := s.pre
    if hasPending t ∨ ¬ (s.accessesOf c s.latch.slot).isEmpty ∨ t.sb.any (fun p => p.2 != 0) then park 6 else pure ()
    if remoteSends s scope then park 6 else pure ()
    hostFlush scope
    if !s.closeRoom c then park 6 else pure ()
    modify fun s => s.closeAll c
    dropLines scope r.toNat) s

/-- `sbwait` (R230). -/
def execSbwait (m : BitVec 8) (s : State) : Host.Outcome State Fault Refusal :=
  runC 0 (do
    let s ← get
    let t := s.pre
    if (ones 8 m.toNat).any fun i => Table.get 0 i t.sb != 0 then park 1
    else match t.t.findSome? (fun e => match e with | .bad sb z => if sb ≠ 0 ∧ bit m.toNat sb then some z else none | _ => none) with
      | some z => throw (.cause z)
      | none => pure ()) s

/-! ### Full/empty words (R234) -/

/-- A request for a base-camp word: checked as an atomic of device scope, sent to its bank. -/
def fullEmpty (f : Mem) (store : Bool) : Ex Unit := do
  let d ← if store then src f.d else pure 0
  let a ← src f.a
  let va := a + BitVec.ofNat 64 (f.i.toNat * 8)
  let s ← get
  if (s.accessesOf s.latch.core s.latch.slot).isEmpty then pure () else park 6
  match s.accessErr s.latch.core s.pre va.toNat (va.toNat + 7) 8 2, spaceOf va.toNat with
  | some 0x15, _ => trap 0x15 va
  | some 0x14, _ => trap 0x14 va
  | some 0x13, _ => trap 0x13 va
  | e, some (.camp _) => match e with | some k => trap k va | none => pure ()
  | _, _ => trap 0x17 va
  ropeGate va false
  headGate
  setSlot f.s.toNat
  dropLines 5 0
  let g := fun (o : Op) => { o with kind := .fe, addr := va, n := 8, aop := b2n store, data := d.setWidth 4096, sb := f.s.toNat, scope := 5 }
  if store then issue g else issueTo f.d.toNat g

/-- `ldfe` (R234). -/
def execLdfe (f : Mem) (s : State) : Host.Outcome State Fault Refusal := runC f.w.toNat (fullEmpty f false) s

/-- `stfe` (R234): its store stays unacknowledged, and the thread parked, until the word was empty. -/
def execStfe (f : Mem) (s : State) : Host.Outcome State Fault Refusal := runC f.w.toNat (fullEmpty f true) s

end Sys2Proof.Machine
end

