-- ==== Sys2Proof/Machine/Atomic.lean ====
section
/-! DEFINITION. Atomics (R120, R228, R229): issue; the operation itself is `atomicValue`, applied at the home of the location. -/

namespace Sys2Proof.Machine

/-- Bytes of an AOP (R228). -/
def aopSize (aop : Nat) : Nat := if aop ∈ [0, 2, 3, 5, 7, 8, 10, 12, 16] then 4 else 8

/-- What an atomic writes over the old value `m`, with operand `b` and expected value `e` (R228, R90). -/
def atomicValue (aop m b e : Nat) : Nat :=
  let w := 8 * aopSize aop
  let b := b % 2 ^ w
  match aop with
  | 0 | 1 => (m + b) % 2 ^ w
  | 2 => f32Add m b
  | 3 | 4 => if sInt w b < sInt w m then b else m
  | 5 | 6 => min m b
  | 7 => f32MinMax false m b
  | 8 | 9 => if sInt w m < sInt w b then b else m
  | 10 | 11 => max m b
  | 12 => f32MinMax true m b
  | 13 => m &&& b
  | 14 => m ||| b
  | 15 => m ^^^ b
  | 16 | 17 => b
  | _ => if m = e then b else m

/-- AtomicOps that the PCI Express link carries: FetchAdd, Swap and CAS (R229). -/
def hostAtomic (aop : Nat) : Bool := decide (aop ∈ [0, 1, 16, 17, 18])

/-- The completer behind a host window supports AtomicOps (R434, R435). -/
def State.hostAtom (s : State) (va : Nat) : Bool :=
  match spaceOf va with
  | some (.host w _) => (match s.hostWin w s.curCtx.l with | some e => bit e 62 | none => false)
  | _ => false

/-- What orders an atomic of a scope wider than thread after the thread's earlier accesses (R119, R120). -/
def scopeGate (scope : Nat) : Ex Unit := do
  let s ← get
  if scope = 0 then memGate
  else do
    if scope = 2 ∧ ¬ s.bgOn 0 then trap 0x12 0 else pure ()
    if !(s.accessesOf s.latch.core s.latch.slot).isEmpty then park 6 else pure ()
    if remoteSends s scope then park 6 else pure ()
    hostFlush scope
    dropLines scope 0

/-- The D field of R228 as a 6-bit destination. -/
def shortDest (d : BitVec 5) : Nat := if d.toNat = 24 then 36 else d.toNat

/-- Issues an atomic (R228, R229). -/
def atomic (f : Atom) (aop : Nat) : Ex Unit := do
  let e ← if aop = 18 then srcShort f.d else pure 0
  let va ← srcShort f.a
  let b ← srcShort f.b
  let n := aopSize aop
  scopeGate f.s.toNat
  checkAccess va (va.toNat + n - 1) n 2
  let s ← get
  let c := s.latch.core
  let own := isOwn c va.toNat
  if isHostKey va.toNat && (!hostAtomic aop || !s.hostAtom va.toNat) then trap 0x1D va else pure ()
  if own && s.subHit c (ownOff va.toNat) n then trap 0x18 va else pure ()
  ropeGate va own
  tokenGate va
  headGate
  issueTo (shortDest f.d) fun o =>
    { o with kind := .atomic, addr := va, n := n, aop := aop, data := b.setWidth 4096, exp := e, scope := f.s.toNat }

/-- `aadd.4` (R228). -/
def execAadd4 (f : Atom) (s : State) : Host.Outcome State Fault Refusal := runC 0 (atomic f 0) s

/-- `aadd.8` (R228). -/
def execAadd8 (f : Atom) (s : State) : Host.Outcome State Fault Refusal := runC 0 (atomic f 1) s

/-- `afadd` (R228). -/
def execAfadd (f : Atom) (s : State) : Host.Outcome State Fault Refusal := runC 0 (atomic f 2) s

/-- `amin.s32` (R228). -/
def execAminS32 (f : Atom) (s : State) : Host.Outcome State Fault Refusal := runC 0 (atomic f 3) s

/-- `amin.s64` (R228). -/
def execAminS64 (f : Atom) (s : State) : Host.Outcome State Fault Refusal := runC 0 (atomic f 4) s

/-- `amin.u32` (R228). -/
def execAminU32 (f : Atom) (s : State) : Host.Outcome State Fault Refusal := runC 0 (atomic f 5) s

/-- `amin.u64` (R228). -/
def execAminU64 (f : Atom) (s : State) : Host.Outcome State Fault Refusal := runC 0 (atomic f 6) s

/-- `amin.f32` (R228). -/
def execAminF32 (f : Atom) (s : State) : Host.Outcome State Fault Refusal := runC 0 (atomic f 7) s

/-- `amax.s32` (R228). -/
def execAmaxS32 (f : Atom) (s : State) : Host.Outcome State Fault Refusal := runC 0 (atomic f 8) s

/-- `amax.s64` (R228). -/
def execAmaxS64 (f : Atom) (s : State) : Host.Outcome State Fault Refusal := runC 0 (atomic f 9) s

/-- `amax.u32` (R228). -/
def execAmaxU32 (f : Atom) (s : State) : Host.Outcome State Fault Refusal := runC 0 (atomic f 10) s

/-- `amax.u64` (R228). -/
def execAmaxU64 (f : Atom) (s : State) : Host.Outcome State Fault Refusal := runC 0 (atomic f 11) s

/-- `amax.f32` (R228). -/
def execAmaxF32 (f : Atom) (s : State) : Host.Outcome State Fault Refusal := runC 0 (atomic f 12) s

/-- `aand` (R228). -/
def execAand (f : Atom) (s : State) : Host.Outcome State Fault Refusal := runC 0 (atomic f 13) s

/-- `aor` (R228). -/
def execAor (f : Atom) (s : State) : Host.Outcome State Fault Refusal := runC 0 (atomic f 14) s

/-- `axor` (R228). -/
def execAxor (f : Atom) (s : State) : Host.Outcome State Fault Refusal := runC 0 (atomic f 15) s

/-- `aswap.4` (R228). -/
def execAswap4 (f : Atom) (s : State) : Host.Outcome State Fault Refusal := runC 0 (atomic f 16) s

/-- `aswap.8` (R228). -/
def execAswap8 (f : Atom) (s : State) : Host.Outcome State Fault Refusal := runC 0 (atomic f 17) s

/-- `acas` (R228). -/
def execAcas (f : Atom) (s : State) : Host.Outcome State Fault Refusal := runC 0 (atomic f 18) s

end Sys2Proof.Machine
end

