-- ==== Sys2Proof/Machine/Place.lean ====
section
/-! DEFINITION. The grant of vector windows, and the placement of threads by launches and spawns (R19, R26, R44, R243, R244, R439). -/

namespace Sys2Proof.Machine

/-! ### Vector windows (R44) -/

/-- The lowest aligned run of `n` registers of a core that no window holds (R44). -/
def State.vfreeRun (s : State) (c n : Nat) : Option Nat :=
  let held := (s.threadsOf c).filter fun p => decide (0 < p.2.vcnt)
  ((List.range (s.vregs c / n)).map (· * n)).find? fun b => !(held.any fun p => overlap b n p.2.vbase p.2.vcnt)

/-- Grants waiting requests from the head of the core's queue for as long as the head can be granted (R44). -/
def State.grantV (s : State) (c : Nat) : Nat → State
  | 0 => s
  | f + 1 =>
    match (s.core c).vwait with
    | [] => s
    | (h, n) :: r =>
      let t := s.thread c h
      let live := decide (t.st = .arriving) || (match t.wait with | .vwin _ => true | _ => false)
      let s' := s.modCore c fun k => { k with vwait := r }
      if !live then s'.grantV c f
      else match s.vfreeRun c n with
        | none => s
        | some b =>
          let s' := s'.modCore c fun k => (List.range n).foldl (fun k i => { k.mend 0 (b + i) with vreg := Table.set (b + i) 0 k.vreg }) k
          let s' := s'.modThread c h fun t =>
            let t := { t with vbase := b, vcnt := n }
            if t.st = .arriving then readyTh s.dev.clock t else { t with wait := .done 0 }
          s'.grantV c f

def State.grantAll (s : State) (c : Nat) : State := s.grantV c ((s.core c).vwait.length + 1)

/-- Registers of a count code (R49). -/
def vwinCount (code : Nat) : Nat := if code = 0 then 0 else 2 ^ code

/-! ### Completion counters (R396, R397) -/

def State.modLaunchLevel (s : State) (host num : Nat) (f : Level → Level) : State :=
  s.modHctx host fun h => { h with launches := h.launches.map fun l => if l.num = num then f l else l }

/-! ### Placement (R26, R58, R236, R463) -/

/-- A thread placed in a free slot, inside an implicit free task, which waits where the context drains (R236, R365). -/
def State.placeThread (s : State) (c x h : Nat) (pc : Word) (ks : List Word) (bpri : Nat) (mx sys xdev : Bool) (vw : Nat) : State :=
  let n := vwinCount vw
  let t : Thread := { st := if n = 0 then .ready else .arriving, uid := s.nextOp, x := x, rs := s.dev.clock, since := s.dev.clock, pc := pc
                      k := (List.range 4).map fun i => (i, ks.getD i 0), bpri := bpri, epri := bpri, mx := mx, sys := sys, xdev := xdev
                      fwm := s.isFw c, hdev := s.dev.devno, hcore := c, hslot := h }
  let t := { t with srst := srstWrite ((thidOf t) ^^^ 0x9E3779B9) }
  let t := { t with sp := BitVec.ofNat 64 (s.bivFT t) }
  let s := { (s.setThread c h t) with nextOp := s.nextOp + 1 }
  let s := s.modCtx c x fun k => { k with used := distinct (h :: k.used) }
  let s := (s.openNext c h).modThread c h fun t => { t with relSnap := some (snapAt t pc) }
  if n = 0 then s else (s.modCore c fun k => { k with vwait := k.vwait ++ [(h, n)] }).grantAll c

/-! ### Spawns (R243, R244, R346, R439) -/

inductive Spawned where
  | placed (thid : Nat)
  | refused (reason : Nat)
  | waits

/-- The launch whose saved image of a core holds the context a request asks for (R346). -/
def State.savedFor (s : State) (c x : Nat) (r : SpawnReq) : Option Launch :=
  s.sched.launches.find? fun l => decide (l.st = .saved) && l.job == r.job && (match r.host with | some h => l.host == h | none => true) &&
    l.images.any fun i => i.core == c && i.x == x

/-- The context belongs to the job of a request. -/
def jobMatch (k : Ctx) (r : SpawnReq) : Bool := k.placed && k.job == r.job && (match r.host with | some h => k.host == h | none => true)

/-- The target core tests a request in the order of R439, and places the thread or parks the request in the message area of a saved
context. -/
def State.trySpawn (s : State) (c : Nat) (r : SpawnReq) : State × Spawned :=
  let x := if r.bpri = 7 then 1 else 0
  let park := fun (l : Nat) =>
    if 4096 ≤ (s.lease l).area.length then (s, Spawned.refused 1)
    else (s.areaAdd l (.spawn c r), .waits)
  let k := s.ctx c x
  if !jobMatch k r then
    match s.savedFor c x r with
    | some l => park l.l
    | none => (s, .refused (if jobMatch (s.ctx c (1 - x)) r ∨ (s.savedFor c (1 - x) r).isSome then 3 else 4))
  else if (s.hctx k.host).barred then (s, .refused 2)
  else if k.away then park k.l
  else
    let mx := bit r.desc 27
    let held := ((s.threadsOf c).filter fun p => p.2.x == x && p.2.mx).length
    if mx ∧ (¬ bit k.caps.toNat 0 ∨ 4 ≤ held) then (s, .refused 5)
    else match s.freeSlot c x with
      | none => (s, .refused 1)
      | some h =>
        let s := s.placeThread c x h r.pc r.ks r.bpri mx r.sys r.xdev (bits r.desc 24 3)
        let s := s.modLaunchLevel k.host k.launch fun l => { l with open_ := l.open_ + 1 }
        (s, .placed (thidOf (s.thread c h)))

/-- The result of a spawn (R244). -/
def spawnValue : Spawned → Word
  | .placed t => BitVec.ofNat 64 t
  | .refused n => BitVec.ofNat 64 (2 ^ 63 + n)
  | .waits => 0

/-- A request's answer goes to the operation that waits for it, on this device or on another (R244, R439). -/
def State.answerSpawn (s : State) (r : SpawnReq) (v : Word) : State :=
  if r.dev = s.dev.devno then s.answer r.op v
  else s.sendPacket { dst := r.dev, cls := 1, ty := 6, tag := r.op, bank := 0, body := toBytes 8 v.toNat }

end Sys2Proof.Machine
end

