-- ==== Sys2Proof/Machine/ThreadInstr.lean ====
section
/-! DEFINITION. Spawning, joining, retiring, priority, migration and kill points (R242 to R250). -/

namespace Sys2Proof.Machine

/-- Asks another device and waits for its answer, which the thread then takes (R246, R255, R270); one that cannot be reached refuses with PROT. -/
def askAndWait (cause dev code : Nat) (ws : List Word) : Ex (List Word) := do
  let s ← get
  match s.cur.wait with
  | .got vs => do modCur fun t => { t with wait := .none }; pure vs
  | .reply _ _ => park cause
  | _ =>
    if !s.reach dev then pure [0x17]
    else parkWith cause fun s =>
      let id := s.nextOp
      ({ s with nextOp := id + 1 }.modCur fun t => { t with wait := .reply id dev }).tell dev code id ws

/-! ### Spawns -/

/-- The request of a spawn, from its operands (R242, R243). -/
def spawnReq (f : Rrrr) : Ex SpawnReq := do
  let pc ← src f.a
  let k0 ← src f.b
  let d ← src f.c
  let k1 ← readReg 17
  let k2 ← readReg 18
  let k3 ← readReg 19
  if 2 ^ 32 ≤ d.toNat ∨ 5 ≤ bits d.toNat 24 3 then trap 0x12 d else pure ()
  let s ← get
  let t := s.cur
  pure { dev := s.dev.devno, op := 0, pc := pc, ks := [k0, k1, k2, k3], desc := d.toNat
         bpri := if bit d.toNat 28 then bits d.toNat 29 3 else t.bpri, job := s.curCtx.job, host := some s.curCtx.host
         sys := t.sys, xdev := t.xdev }

/-- `spawn` (R243, R244): the own core answers within the issue slot. -/
def execSpawn (f : Rrrr) (s : State) : Host.Outcome State Fault Refusal :=
  runC 0 (do
    let r ← spawnReq f
    let s ← get
    let id := s.nextOp
    let p := s.trySpawn s.latch.core { r with op := id }
    match p.2 with
    | .waits => do
      issueTo f.d.toNat fun o => { o with kind := .spawn, at_ := 2 }
      modify fun s => (s.trySpawn s.latch.core { r with op := id }).1
    | v => do set p.1; dest f.d (spawnValue v)) s

/-- What `spawnc` and `spawnx` share: the checks, and an operation that waits for its answer (R243, R244). -/
def farSpawn (f : Rrrr) (x : Bool) : Ex Unit := do
  let r ← spawnReq f
  let s ← get
  let c := bits r.desc 0 9
  if !s.cur.xdev && (x || !inRect s.curCtx c) then trap 0x17 (BitVec.ofNat 64 r.desc) else pure ()
  ropeGate (BitVec.ofNat 64 r.desc) false
  headGate
  issueTo f.d.toNat fun o =>
    { o with kind := .spawn, addr := r.pc, exp := BitVec.ofNat 64 r.desc, more := (r.ks.map BitVec.toNat) ++ [r.bpri, r.job, s.curCtx.host, b2n r.sys, b2n r.xdev]
             tgt := if x then bits r.desc 9 15 else s.dev.devno, n := c }

/-- The request that an operation of `spawnc` or `spawnx` carries. -/
def Op.spawnReq (o : Op) (own : Nat) : SpawnReq :=
  let g := fun i => o.more.getD i 0
  { dev := own, op := o.id, pc := o.addr, ks := (List.range 4).map fun i => BitVec.ofNat 64 (g i), desc := o.exp.toNat, bpri := g 4, job := g 5
    host := some (g 6), sys := g 7 == 1, xdev := g 8 == 1 }

/-- `spawnc` (R243, R244). -/
def execSpawnc (f : Rrrr) (s : State) : Host.Outcome State Fault Refusal := runC 0 (farSpawn f false) s

/-- `spawnx` (R243, R244, R439). -/
def execSpawnx (f : Rrrr) (s : State) : Host.Outcome State Fault Refusal := runC 0 (farSpawn f true) s

/-! ### Join, exit, priority -/

/-- The thread that `join` waits for, by the number of its life, still lives, here, abroad or saved (R246). -/
def State.lives (s : State) (thid uid : Nat) : Bool :=
  ((s.allThreads ++ s.savedThreads).any fun t => t.uid == uid && thidOf t == thid) || s.sched.abroad.any fun p => p.1 == thid && p.2.uid == uid

/-- `join` (R246). -/
def execJoin (a : BitVec 6) (s : State) : Host.Outcome State Fault Refusal :=
  runC 0 (do
    let v ← src a
    let s ← get
    let id := v.toNat
    if 2 ^ 32 ≤ id ∨ id = thidOf s.cur then trap 0x12 v
    else if id / 2 ^ 17 ≠ s.dev.devno then do
      if !s.cur.xdev then trap 0x17 v else pure ()
      let _ ← askAndWait 11 (id / 2 ^ 17) 1 [v]
      pure ()
    else match s.cur.wait with
      | .join t u => if s.lives t u then park 11 else modCur fun t => { t with wait := .none }
      | _ =>
        match (s.allThreads ++ s.sched.abroad.map Prod.snd ++ s.savedThreads).find? fun t => thidOf t == id with
        | some t => parkWith 11 fun s => s.modCur fun u => { u with wait := .join id t.uid }
        | none => pure ()) s

/-- `exit` (R19, R247): the open task ends as by `tend`, and the thread is LEAVING. -/
def execExit (s : State) : Host.Outcome State Fault Refusal :=
  runC 0 (do
    if (← get).cur.arriving then park 8 else pure ()
    endTask
    modCur fun t => { t with st := .leaving, leave := .exit, task := false, wait := .none }) s

/-- `prio` (R248, R59). -/
def execPrio (a : BitVec 6) (s : State) : Host.Outcome State Fault Refusal :=
  runC 0 (do
    let v ← src a
    if 8 ≤ v.toNat then trap 0x12 v
    else if ((← get).cur.bpri = 7) ≠ (v.toNat = 7) then trap 0x17 v
    else modCur fun t => { t with bpri := v.toNat }) s

/-! ### Migration -/

/-- Whether a thread may leave its core (R20). -/
def State.migratable (s : State) (c h : Nat) : Bool :=
  let t := s.thread c h
  t.vcnt == 0 && !(t.sb.any fun p => p.2 != 0) && !((s.core c).cmds.any fun m => m.slot == h && m.x == t.x) && t.mem.isNone &&
    !(t.timed && !(s.bufUse c h).isEmpty)

/-- The conditions of R49: no result is pending and every scoreboard count is 0. -/
def State.settled (s : State) (c h : Nat) : Bool :=
  let t := s.thread c h
  (s.opsOf c h).isEmpty && !hasPending t && t.vPend.isEmpty && !(t.sb.any fun p => p.2 != 0)

/-- The device and core that `migr` moves to (R249), or the cause of an address that no core owns; none where nothing moves. -/
def State.migrTarget (s : State) (va : Nat) : Except Nat (Option (Nat × Nat)) :=
  let c := s.latch.core
  let k := s.curCtx
  let own := s.dev.devno
  match spaceOf va with
  | some (.other d _) => .ok (if d = c then none else some (own, d))
  | some (.pool j _) =>
    let l := ((clusterCores j).filter (inRect k)).mergeSort fun a b => decide (a ≤ b)
    match l.find? fun d => (s.freeSlot d s.cur.x).isSome with
    | some d => .ok (if d = c then none else some (own, d))
    | none => .ok (some (own, l.headD (coreOf j 0)))
  | some (.glob a) => .ok (if s.held a then none else some (s.holder a, c))
  | some (.own _ _) | some (.camp _) => .ok none
  | _ => .error 0x15

/-- `migr` (R249). Towards a device that cannot be reached it traps MIGRATE_DENIED, and a pool with no free slot in the launch's cores of its cluster sends the
thread to wait at the lowest-numbered of them: the model's choices (log 155). -/
def execMigr (a : BitVec 6) (s : State) : Host.Outcome State Fault Refusal :=
  runC 0 (do
    let va ← src a
    let s ← get
    let c := s.latch.core
    match s.migrTarget va.toNat with
    | .error k => trap k va
    | .ok none => pure ()
    | .ok (some (d, n)) =>
      if !s.settled c s.latch.slot || s.cur.arr.isSome then park 11
      else if !s.migratable c s.latch.slot || (d != s.dev.devno && s.cur.xdev && !s.reach d) then trap 0x08 va
      else if (d ≠ s.dev.devno ∧ ¬ s.cur.xdev) ∨ (d = s.dev.devno ∧ ¬ inRect s.curCtx n) then trap 0x17 va
      else modCur fun t => { t with st := .leaving, leave := .migrate d n }) s

/-- `kpt` (R250, R259): a pending kill notice is taken here. -/
def execKpt (s : State) : Host.Outcome State Fault Refusal :=
  runC 0 (do
    match (← get).cur.kill with
    | some k => throw (.become fun s => s.killThread s.latch.core s.latch.slot k.word)
    | none => pure ()) s

end Sys2Proof.Machine
end

