-- ==== Sys2Proof/Machine/Sync.lean ====
section
/-! DEFINITION. Semaphores and barriers (R41, R67, R127, R130, R251 to R254). -/

namespace Sys2Proof.Machine

/-! ### Semaphores (R41, R251, R252) -/

/-- The number of a semaphore, checked against the share (R28, R48, R251). -/
def semNum (k : BitVec 1) (n : BitVec 6) : Ex Nat := do
  let s ← get
  if k = 1#1 then (if 4 ≤ n.toNat then trapWord 0x10 else pure n.toNat)
  else if shareOk (s.core s.latch.core).share s.cur.x n.toNat 56 then pure n.toNat
  else trap 0x12 (BitVec.ofNat 64 n.toNat)

def State.sem (s : State) (k : BitVec 1) (n : Nat) : Nat := if k = 1#1 then Table.get 0 n s.cur.ts else Table.get 0 n s.curCtx.sm

def putSem (k : BitVec 1) (n v : Nat) : Ex Unit :=
  if k = 1#1 then modCur fun t => { t with ts := Table.set n v t.ts } else modCurCtx fun c => { c with sm := Table.set n v c.sm }

/-- `sinc` (R251): after the thread's earlier accesses. -/
def execSinc (a : BitVec 6) (n : BitVec 6) (k : BitVec 1) (s : State) : Host.Outcome State Fault Refusal :=
  runC 0 (do
    let v ← src a
    let i ← semNum k n
    let s ← get
    if (s.accessesOf s.latch.core s.latch.slot).isEmpty then putSem k i (min 65535 (s.sem k i + min v.toNat 65535)) else park 6) s

/-- `swait` (R251): a waiter that the release order of R41 has served holds its units already. -/
def execSwait (a : BitVec 6) (n : BitVec 6) (k : BitVec 1) (s : State) : Host.Outcome State Fault Refusal :=
  runC 0 (do
    let v ← src a
    let i ← semNum k n
    let s ← get
    if 65535 < v.toNat then trap 0x12 v
    else match s.cur.wait with
      | .granted _ => modCur fun t => { t with wait := .none }
      | _ => if v.toNat ≤ s.sem k i then putSem k i (s.sem k i - v.toNat) else park 4) s

/-- `sget` (R251). -/
def execSget (d : BitVec 6) (n : BitVec 6) (k : BitVec 1) (s : State) : Host.Outcome State Fault Refusal :=
  runC 0 (do
    let i ← semNum k n
    dest d (BitVec.ofNat 64 ((← get).sem k i))) s

/-- `sset` (R251). -/
def execSset (a : BitVec 6) (n : BitVec 6) (k : BitVec 1) (s : State) : Host.Outcome State Fault Refusal :=
  runC 0 (do
    let v ← src a
    let i ← semNum k n
    if 65535 < v.toNat then trap 0x12 v else putSem k i v.toNat) s

/-- `smwait` (R252). -/
def execSmwait (d : BitVec 6) (a : BitVec 6) (s : State) : Host.Outcome State Fault Refusal :=
  runC 0 (do
    let v ← src a
    let s ← get
    let m := ones 64 v.toNat
    if v = 0 ∨ m.any (fun n => !shareOk (s.core s.latch.core).share s.cur.x n 56) then trap 0x12 v
    else match s.cur.wait with
      | .granted n => do modCur fun t => { t with wait := .none }; dest d (BitVec.ofNat 64 n)
      | _ => match m.find? fun n => decide (0 < s.sem 0 n) with
        | some n => do putSem 0 n (s.sem 0 n - 1); dest d (BitVec.ofNat 64 n)
        | none => park 4) s

/-! ### Barrier registers (R67) -/

def bgTop (v : Nat) : Nat := bits v 0 4
def bgLeft (v : Nat) : Nat := bits v 4 5
def bgHigh (v : Nat) : Nat := bits v 9 5
def bgWide (v : Nat) : Nat := bits v 14 6
def bgGen (v : Nat) : Nat := bits v 24 6
def bgIn (v c : Nat) : Bool := decide (bgTop v ≤ rowOf c ∧ rowOf c < bgTop v + bgHigh v ∧ bgLeft v ≤ colOf c ∧ colOf c < bgLeft v + bgWide v)
def Ctx.bgv (k : Ctx) (n : Nat) : Nat := (Table.get 0#32 n k.bg).toNat

/-- The value a write leaves, or none where it breaks a limit of R67. -/
def bgWrite (k : Ctx) (c n v : Nat) : Option Nat :=
  let old := k.bgv n
  let bad := bit v 31 && (bgHigh v == 0 || bgWide v == 0 || decide (16 < bgTop v + bgHigh v) || decide (32 < bgLeft v + bgWide v) ||
    decide (bgTop v < k.top ∨ k.top + k.high < bgTop v + bgHigh v ∨ bgLeft v < k.left ∨ k.left + k.wide < bgLeft v + bgWide v) || !bgIn v c)
  if bad then none
  else some (putBits (putBits (putBits old 0 20 v) 31 1 (bits v 31 1)) 30 1 (if bit v 30 then 0 else bits old 30 1))

/-- A thread of the core is parked in `bar` on the register (R67). -/
def State.inBar (s : State) (c x n : Nat) : Bool :=
  (s.threadsOf c).any fun p => p.2.x == x && inBarrier p.2.wait && (match p.2.arr with | some a => a.bg == n | none => false)

/-! ### Barriers (R127, R253, R254) -/

/-- The arrival of a thread on register `n`: of the present generation, or of the next once its core has arrived (R254). -/
def State.arrival (s : State) (n : Nat) : BarArr :=
  let k := s.curCtx
  ⟨n, (bgGen (k.bgv n) + if Table.get 0 n k.barSent = 0 then 1 else 2) % 64, false, s.nextOp, s.cur.tseq⟩

/-- The launch of the context replays after recoverable faults (R178, R416). -/
def Ctx.replayable (k : Ctx) : Bool := bit k.caps.toNat 4

/-- The state after the open task has ended with none opened yet, where it ended. -/
def State.endedTask (s : State) (ended : Bool) : State := if ended then s.modCur fun t => { t with task := false } else s

/-- `bar` (R253); in a replayable launch the open task ends first, and the release opens the next (R417). -/
def execBar (r : BitVec 4) (s : State) : Host.Outcome State Fault Refusal :=
  runC 0 (do
    let n := r.toNat
    let s ← get
    let go := fun (a : BarArr) (s : State) => s.modCur fun t => { t with arr := some a, wait := .barrier }
    if !s.bgOn n then trap 0x12 (BitVec.ofNat 64 n)
    else match s.cur.wait, s.cur.arr with
      | .barrier, none => do
        modCur fun t => { t with wait := .none }
        if s.curCtx.replayable then setDefer .release else pure ()
      | .barrier, some _ => park 7
      | _, some a => if a.stood ∧ a.bg = n then parkWith 7 (go { a with stood := false }) else park 7
      | _, none => do
        if s.curCtx.replayable then endTask else pure ()
        let r := (← get).endedTask s.curCtx.replayable
        parkWith 7 fun _ => go (s.arrival n) r) s

/-- `barq` (R253); in a replayable launch it parks until the release, in a task that has ended (R417). -/
def execBarq (d : BitVec 6) (r : BitVec 4) (s : State) : Host.Outcome State Fault Refusal :=
  runC 0 (do
    let n := r.toNat
    let s ← get
    let go := fun (a : BarArr) => do modCur fun t => { t with arr := some a }; dest d (BitVec.ofNat 64 a.gen)
    if !s.bgOn n then trap 0x12 (BitVec.ofNat 64 n)
    else match s.cur.wait, s.cur.arr with
      | .barq g, none => do
        modCur fun t => { t with wait := .none }
        dest d (BitVec.ofNat 64 g)
        setDefer .release
      | .barq _, some _ => park 7
      | _, some a => if a.stood ∧ a.bg = n then go { a with stood := false } else park 7
      | _, none =>
        if !s.curCtx.replayable then go (s.arrival n)
        else do
          endTask
          let r := (← get).endedTask true
          let a := s.arrival n
          parkWith 7 fun _ => r.modCur fun t => { t with arr := some a, wait := .barq a.gen }) s

/-- `barq.wait` (R253). -/
def execBarqWait (r : BitVec 4) (s : State) : Host.Outcome State Fault Refusal :=
  runC 0 (do
    let n := r.toNat
    let s ← get
    if !s.bgOn n then trap 0x12 (BitVec.ofNat 64 n)
    else match s.cur.arr with
      | some a => if a.bg = n then park 7 else pure ()
      | none => pure ()) s

/-- Every live thread of the context on the core has arrived in the present generation of register `n`, and the accesses it had issued
before are performed (R127, R254). -/
def State.coreArrives (s : State) (c x n : Nat) : Bool :=
  let k := s.ctx c x
  k.placed && !k.away && bit (k.bgv n) 31 && Table.get 0 n k.barSent == 0 &&
    (s.threadsOf c).all fun p => p.2.x != x || (match p.2.arr with
      | some a => a.bg == n && a.gen == (bgGen (k.bgv n) + 1) % 64 && !((s.accessesOf c p.1).any fun o => decide (o.id < a.upto))
      | none => false)

/-- The cores from which an arrival sweep reaches a core, and the core it goes on to; none at the corner (R254). -/
def sweepFrom (v c : Nat) : List Nat :=
  (if colOf c + 1 < bgLeft v + bgWide v then [c + 1] else []) ++ if colOf c = bgLeft v ∧ rowOf c + 1 < bgTop v + bgHigh v then [c + 32] else []
def sweepTo (v c : Nat) : Option Nat := if bgLeft v < colOf c then some (c - 1) else if bgTop v < rowOf c then some (c - 32) else none

def State.fly (s : State) (f : Flight) : State := { s with flights := s.flights ++ [(s.nextOp, f)], nextOp := s.nextOp + 1 }

/-- The rectangle and EN bit that an arrival carries. -/
def bgKey (v : Nat) : BitVec 32 := BitVec.ofNat 32 (bits v 0 20 + bits v 31 1 * 2 ^ 31)

/-- The arrival of a core goes on once it and every core behind it have arrived; the corner releases (R254). -/
def State.sweepOn (s : State) (c x n : Nat) : State :=
  let k := s.ctx c x
  let v := k.bgv n
  if Table.get 0 n k.barSent = 1 ∧ (sweepFrom v c).all (fun d => (Table.get [] n k.barIn).contains d) then
    let s := s.modCtx c x fun k => { k with barSent := Table.set n 2 k.barSent }
    let q := Table.get [] n k.barSeq
    match sweepTo v c with
    | some d => s.fly (.arrive k.launch c d x n (bgKey v) q)
    | none => s.fly (.release k.launch c x n (bgKey v) q)
  else s

/-- A core arrives, once the out-queue has room: its BATCH windows close and its fixed lines' sequence numbers are recorded (R130, R254). -/
def State.coreArrival (s : State) (c x n : Nat) : State :=
  if s.coreArrives c x n ∧ s.closeRoom c then
    let s := s.closeAll c
    let q := (s.core c).src.filterMap fun p => if p.2.v ∧ p.2.x = x then some (64 * p.2.peer + p.2.pidx, p.2.seq) else none
    let s := s.modCtx c x fun k => { k with barSent := Table.set n 1 k.barSent, barSeq := Table.set n (Table.get [] n k.barSeq ++ q) k.barSeq }
    s.sweepOn c x n
  else s

/-- An arrival reaches a core: one whose rectangle differs sets MIS and is dropped (R67, R254). -/
def State.arriveAt (s : State) (src c x n : Nat) (rect : BitVec 32) (q : List (Nat × Nat)) : State :=
  let k := s.ctx c x
  let v := k.bgv n
  if bgKey v ≠ rect then s.modCtx c x fun k => { k with bg := Table.set n (BitVec.ofNat 32 (putBits v 30 1 1)) k.bg }
  else
    let s := s.modCtx c x fun k => { k with barIn := Table.set n (src :: Table.get [] n k.barIn) k.barIn
                                            barSeq := Table.set n (Table.get [] n k.barSeq ++ q) k.barSeq }
    s.sweepOn c x n

/-- The subscriber lines of the core have applied the numbers that bind them (R130); a line that lapsed is satisfied by its refresh. -/
def State.linesCaughtUp (s : State) (c : Nat) (q : List (Nat × Nat)) : Bool :=
  q.all fun p => p.1 / 64 != c || (
    let f := Table.get {} (p.1 % 64) (s.core c).sub
    !f.v || reached f.seq p.2)

/-- A core copies its checkpoint regions into the generation not in use, which becomes the current one (R416, R417). -/
def State.checkpoint (s : State) (c x : Nat) : State :=
  let k := s.ctx c x
  if !k.replayable then s
  else
    let bs := k.ckpt.map fun r => s.bytes (spKey c r.1) r.2
    let k := if k.genCur = 0 then { k with gen1 := bs, genCur := 1 } else { k with gen0 := bs, genCur := 0 }
    s.setCtx c x { k with replays := 0, relAt := s.nextOp }

/-- A release reaches a core (R67, R254): GEN rises, its members are released, and it goes on along the reverse path; a replayable launch's
checkpoint is taken before (R417). -/
def State.releaseAt (s : State) (c x n : Nat) (rect : BitVec 32) (q : List (Nat × Nat)) : State :=
  let k := s.ctx c x
  let v := k.bgv n
  let g := (bgGen v + 1) % 64
  let s := (s.checkpoint c x).modCtx c x fun k =>
    { k with lastRect := some rect, bg := Table.set n (BitVec.ofNat 32 (putBits v 24 6 g)) k.bg
             barSent := Table.set n 0 k.barSent, barIn := Table.set n [] k.barIn, barSeq := Table.set n [] k.barSeq }
  let s := (s.threadsOf c).foldl (fun s p => s.modThread c p.1 fun t =>
    if t.x = x then { t with arr := t.arr.filter fun a => !(a.bg == n && a.gen == g) } else t) s
  (sweepFrom rect.toNat c).foldl (fun s d => s.fly (.release k.launch d x n rect q)) s

end Sys2Proof.Machine
end

