-- ==== Sys2Proof/Machine/Rope.lean ====
section
/-! DEFINITION. Ropes: their registers, arming, joining, arriving, waiting and leaving (R73 to R75, R133, R134, R255 to R263). -/

namespace Sys2Proof.Machine

/-! ### Registers (R73, R74) -/

/-- Register `i` of rope `n` (R74). -/
def State.ropeReg (s : State) (n i : Nat) : Nat :=
  let r := s.rope n
  match i with
  | 0 => r.n + r.q * 2 ^ 16 + r.fill * 2 ^ 32 + r.kill * 2 ^ 34 + b2n r.remote * 2 ^ 36 + r.owner * 2 ^ 48 + b2n r.armed * 2 ^ 63
  | 1 => r.joined + r.arrived * 2 ^ 16 + r.killed * 2 ^ 32 + r.st * 2 ^ 48 + b2n r.filled * 2 ^ 51 + r.late * 2 ^ 52 +
      b2n r.deaddev * 2 ^ 60 + b2n r.short * 2 ^ 61
  | 2 => r.offs * 64 + r.len * 2 ^ 32 + b2n r.i32 * 2 ^ 48
  | 3 => r.warr + r.wtot * 2 ^ 32
  | 4 => r.round
  | _ => r.stale

/-- A thread with FWM writes a rope register whole (R74). -/
def Rope.putReg (r : Rope) (i v : Nat) : Rope :=
  match i with
  | 0 => { r with n := bits v 0 13, q := bits v 16 13, fill := bits v 32 2, kill := bits v 34 2, remote := bit v 36, owner := bits v 48 8, armed := bit v 63 }
  | 1 => { r with joined := bits v 0 13, arrived := bits v 16 13, killed := bits v 32 13, st := bits v 48 3, filled := bit v 51, late := bits v 52 8
                  deaddev := bit v 60, short := bit v 61 }
  | 2 => { r with offs := bits v 6 22, len := bits v 32 13, i32 := bit v 48 }
  | 3 => { r with warr := bits v 0 32, wtot := bits v 32 32 }
  | 4 => { r with round := bits v 0 32 }
  | _ => { r with stale := bits v 6 50 * 64 }

/-! ### The rope word (R255) -/

/-- A rope word's rope, member index and device, checked (R255). A rope that approach mode leaves unused traps REG_RANGE (R444; log 170). -/
def ropeOf (w : Word) (join : Bool) : Ex (Nat × Nat × Nat) := do
  let v := w.toNat
  let n := bits v 0 10
  let i := bits v 16 12
  let d := bits v 32 15
  let s ← get
  if v ≠ n + i * 2 ^ 16 + d * 2 ^ 32 ∨ (i ≠ 0 ∧ ¬ join) ∨ (d = s.dev.devno ∧ s.dev.active ∧ 256 ≤ n) then trap 0x12 w
  else if d ≠ s.dev.devno then do
    if s.cur.xdev then pure (n, i, d) else trap 0x17 w
  else if (s.rope n).st ≠ 0 ∧ (s.rope n).owner ≠ s.curCtx.l then trap 0x17 w
  else pure (n, i, d)

/-- The answer of another device to a rope request: values, or the cause it was refused with. -/
def ropeAnswer (w : Word) (l : List Word) : Ex (List Word) :=
  match l with
  | 0 :: vs => pure vs
  | k :: _ => trap k.toNat w
  | [] => pure []

/-! ### Arming (R256) -/

/-- Fields of an arm block. -/
structure ArmBlock where
  n : Nat
  q : Nat
  fill : Nat
  kill : Nat
  i32 : Bool
  len : Nat
  offs : Nat
  stale : Nat
  table : Nat
  reset : Bool
deriving DecidableEq, Repr

/-- The arm block from its 64 bytes; none where a field or a reserved byte breaks a limit of R256. -/
def armBlock (b : List Byte) : Option ArmBlock :=
  let w := fun i n => ofBytes (slice b i n)
  let c := w 0 8
  let t := w 8 8
  let z := w 16 8
  let a : ArmBlock := ⟨bits c 0 13, bits c 16 13, bits c 32 2, bits c 34 2, bit t 48, bits t 32 13, bits t 6 22, z, w 24 4, bit (w 28 1) 0⟩
  if c ≠ a.n + a.q * 2 ^ 16 + a.fill * 2 ^ 32 + a.kill * 2 ^ 34 ∨ t ≠ a.offs * 64 + a.len * 2 ^ 32 + b2n a.i32 * 2 ^ 48 ∨ z ≠ bits z 6 50 * 64 ∨
      1 < w 28 1 ∨ (b.drop 29).any (· != 0) then none
  else if a.n < 1 ∨ 4096 < a.n ∨ a.q < 1 ∨ a.n < a.q ∨ a.fill = 3 ∨ a.kill = 3 ∨ (a.fill = 1 ∧ a.i32) ∨ a.len < 1 ∨ 4096 < a.len then none
  else some a

/-- The leases of a context cover a range with the rights needed, page by page (R256). -/
def coveredBy (l : List Range) (a n need : Nat) : Bool :=
  (List.range ((a + n + 65535) / 65536 - a / 65536)).all fun i =>
    let lo := max a ((a / 65536 + i) * 65536)
    let hi := min (a + n) ((a / 65536 + i + 1) * 65536)
    opens l lo (hi - lo) need

/-- Why a rope may not be armed so by context `l`, as a cause (R256). -/
def State.armErr (s : State) (l n : Nat) (a : ArmBlock) (ws : List Nat) : Option Nat :=
  let r := s.rope n
  let e := s.lease l
  if ws.any fun w => decide (w < 1 ∨ 65535 < w) then some 0x12
  else if 1 ≤ r.st ∧ r.st ≤ 3 then some 0x12
  else if r.st = 4 ∧ ¬ a.reset ∧ r.mem.any (fun p => p.2.j && decide (a.n ≤ p.1)) then some 0x12
  else if !opens e.grants (a.offs * 64) (a.len * 64) 0 then some 0x17
  else if a.fill = 2 ∧ !coveredBy e.leases a.stale (a.n * a.len * 64) 2 then some 0x17
  else none

/-- A thread of this device is a member of a rope. -/
def memberOf (dev n : Nat) (t : Thread) : Bool := match t.mem with | some m => m.dev == dev && m.rope == n | none => false

/-- Members of a rope of this device leave it, with their handlers and kill notices, or, with `stay`, lose only the notices that the new round withdraws;
those on other devices are told (R256, R263, R386). -/
def State.membersGo (s : State) (n : Nat) (stay : Bool) (mem : Table RMem) : State :=
  let own := s.dev.devno
  let s := mem.foldl (fun s p =>
    if p.2.j ∧ p.2.dev ≠ own ∧ (!stay ∨ p.2.kp) then s.tell p.2.dev 23 0 [BitVec.ofNat 64 p.2.thid, BitVec.ofNat 64 n, BitVec.ofNat 64 (b2n stay)] else s) s
  s.mapEvery fun t =>
    if memberOf own n t then (if !stay then { t with mem := none, killPc := 0, kill := none }
      else if mem.any (fun q => q.2.kp && q.2.thid == thidOf t) then { t with kill := none } else t)
    else t

/-- The rope is armed (R256, R386). The members of a table that RESET empties are members no longer, wherever they run, and lose their handlers and their
pending kill notices; kept members lose the kill notices of the round before: the model's choices (log 156). -/
def State.ropeArm (s : State) (l n : Nat) (a : ArmBlock) (ws : List Nat) : State :=
  let r := s.rope n
  let fresh := r.st = 0 ∨ a.reset
  let s := s.membersGo n (!decide fresh) r.mem
  let s := s.put (campKey (a.offs * 64)) (List.replicate (a.len * 64) 0)
  let entry := fun i =>
    let old := Table.get {} i r.mem
    (i, if fresh then { weight := ws.getD i 1 } else { ({ old with cnt := false, kp := false, kd := false, dead := false } : RMem) with weight := ws.getD i 1 })
  let mem : Table RMem := (List.range a.n).map entry
  let far := mem.any fun (p : Nat × RMem) => p.2.j && p.2.dev != s.dev.devno
  let total := (mem.map fun (p : Nat × RMem) => p.2.weight).sum
  let joined := (mem.filter fun (p : Nat × RMem) => p.2.j).length
  s.modRope n fun r =>
    { r with armed := true, owner := l, kill := a.kill, fill := a.fill, q := a.q, n := a.n, short := false, deaddev := false, late := 0
             filled := false, st := 1, killed := 0, arrived := 0, joined := joined, remote := far
             i32 := a.i32, len := a.len, offs := a.offs, wtot := total, warr := 0, stale := a.stale, mem := mem, pend := [] }

/-- `rparm` (R255, R256, R456). An arm block outside the own scratchpad traps PROT, for which the rule names no cause: the model's choice (log 157). -/
def execRparm (a b : BitVec 6) (s : State) : Host.Outcome State Fault Refusal :=
  runC 0 (do
    let w ← src a
    let blk ← src b
    let (n, _, d) ← ropeOf w false
    let s ← get
    let c := s.latch.core
    match s.accessErr c s.pre blk.toNat (blk.toNat + 63) 64 0 with
    | some k => trap k blk
    | none => if isOwn c blk.toNat then pure () else trap 0x17 blk
    match armBlock (s.bytes (spKey c (ownOff blk.toNat)) 64) with
    | none => trap 0x12 w
    | some m => do
      let wa := BitVec.ofNat 64 (spKey c m.table)
      if m.table ≠ 0xFFFFFFFF then do
        if 0x100000 < m.table + 4 * m.n then trap 0x14 wa else checkAccess wa (wa.toNat + 4 * m.n - 1) 1 0
      else pure ()
      let ws := if m.table = 0xFFFFFFFF then [] else (List.range m.n).map fun i => s.word (spKey c (m.table + 4 * i)) 4
      if d ≠ s.dev.devno then do
        let _ ← askAndWait 8 d 2 (BitVec.ofNat 64 s.curCtx.job :: BitVec.ofNat 64 n :: ((List.range 8).map fun i => BitVec.ofNat 64 (s.word (spKey c (ownOff blk.toNat + 8 * i)) 8)) ++
          ws.map fun x => BitVec.ofNat 64 x) >>= ropeAnswer w
        pure ()
      else match s.armErr s.curCtx.l n m ws with
        | some k => trap k w
        | none => modify fun s => s.ropeArm s.curCtx.l n m ws) s

/-! ### Joining (R257) -/

/-- A thread may join as member `i`: not below N, not held, no IDLE or RELEASING rope (R257). -/
def joinable (r : Rope) (i : Nat) : Bool := decide (i < r.n) && !(Table.get {} i r.mem).j && r.st != 0 && r.st != 3

/-- The rope's side of a join (R257, R386). -/
def State.ropeJoin (s : State) (n i dev thid w : Nat) : State :=
  s.modRope n fun r =>
    let e := Table.get {} i r.mem
    let w' := if w = 0 then e.weight else w
    { r with joined := r.joined + 1, wtot := r.wtot + w' - e.weight, remote := r.remote || dev != s.dev.devno
             mem := Table.set i { j := true, dev := dev, weight := w', thid := thid } r.mem }

/-- `rpjoin` (R257, R456). -/
def execRpjoin (h a b : BitVec 6) (s : State) : Host.Outcome State Fault Refusal :=
  runC 0 (do
    let pc ← src h
    let w ← src a
    let wt ← src b
    let (n, i, d) ← ropeOf w true
    let s ← get
    let enter := fun (len : Nat) => modCur fun t => { t with mem := some ⟨n, i, d, len⟩, killPc := pc, kill := none }
    if s.cur.mem.isSome ∨ 65535 < wt.toNat then trap 0x12 w
    else if d ≠ s.dev.devno then do
      let vs ← askAndWait 8 d 3 [BitVec.ofNat 64 s.curCtx.job, w, wt, BitVec.ofNat 64 (thidOf s.cur)] >>= ropeAnswer w
      enter (vs.getD 0 0).toNat
    else if joinable (s.rope n) i then do modify fun s => s.ropeJoin n i s.dev.devno (thidOf s.cur) wt.toNat; enter 0
    else trap 0x12 w) s

/-! ### Arriving (R258) -/

/-- The rope takes an arrival: its entries wait to be written, and ARMED becomes COLLECTING (R258). -/
def State.ropeArrive (s : State) (n : Nat) (p : RPend) : State :=
  s.modRope n fun r => { r with st := if r.st = 1 then 2 else r.st, pend := r.pend ++ [p] }

/-- What a member's rope knows of it: counted, joined. A rope on another device is asked, and tests again as the arrival reaches it; one that does not answer
leaves the arrival to end as one towards a lost device does (R258, R387). -/
def memberState (m : Member) : Ex (Bool × Bool) := do
  let s ← get
  if m.dev = s.dev.devno then
    let e := s.member m
    pure (e.cnt, e.j)
  else
    match ← askAndWait 8 m.dev 24 [BitVec.ofNat 64 s.curCtx.job, BitVec.ofNat 64 (m.rope + 65536 * m.idx)] with
    | 0 :: v => pure (v.getD 0 0 == 1, v.getD 1 0 == 1)
    | _ => pure (false, true)

/-- `rparr` (R258). A contribution outside the own scratchpad traps PROT, for which the rule names no cause: the model's choice (log 157). -/
def execRparr (d a : BitVec 6) (s : State) : Host.Outcome State Fault Refusal :=
  runC 0 (do
    let va ← src a
    let s ← get
    let c := s.latch.core
    match s.cur.mem with
    | none => trap 0x12 va
    | some m => do
      let r := s.rope m.rope
      let here := m.dev = s.dev.devno
      match s.cur.kill with
      | some k => throw (.become fun s => s.killThread s.latch.core s.latch.slot k.word)
      | none => pure ()
      let (counted, joined) ← if s.cur.arriving then trap 0x12 va else memberState m
      if counted ∧ 0 < s.curCtx.replays then dest d 0
      else if counted ∨ ¬ joined then trap 0x12 va
      else do
        let len := if here then r.len * 64 else m.len * 64
        match s.accessErr c s.pre va.toNat (va.toNat + len - 1) 64 0 with
        | some k => trap k va
        | none => if isOwn c va.toNat then pure () else trap 0x17 va
        headGate
        if here ∧ 3 ≤ r.st then do
          modify fun s => s.modRope m.rope fun r => { r with late := min 255 (r.late + 1) }
          dest d 1
        else if 64 ≤ (s.core c).locks.length then park 5
        else do
          let v ← get
          let id := v.nextOp
          let o := ownOff va.toNat
          let bs := v.bytes (spKey c o) len
          issueTo d.toNat fun q => { q with kind := .pre, addr := va, n := len }
          modCurCore fun k => { k with locks := k.locks ++ [⟨id, false, s.cur.x, 5, s.latch.slot, o, o + len - 1⟩] }
          modCur fun t => { t with arriving := true }
          if here then modify fun s => s.ropeArrive m.rope { m := m.idx, dev := m.dev, op := id, bytes := bs }
          else modify fun s => s.sendPacket { dst := m.dev, cls := 0, ty := 8, tag := id, bank := 0, body := toBytes 8 (m.rope + 65536 * m.idx) ++ bs }) s

/-! ### Waiting, reading, leaving (R261) -/

/-- `rpwait` (R261). -/
def execRpwait (a : BitVec 6) (s : State) : Host.Outcome State Fault Refusal :=
  runC 0 (do
    let w ← src a
    let (n, _, d) ← ropeOf w false
    let s ← get
    if d ≠ s.dev.devno then do
      let _ ← askAndWait 8 d 4 [BitVec.ofNat 64 s.curCtx.job, w] >>= ropeAnswer w
      pure ()
    else match s.cur.wait with
      | .done _ => modCur fun t => { t with wait := .none }
      | .rope _ => park 8
      | _ => if (s.rope n).st = 4 ∨ (s.rope n).st = 0 then pure () else parkWith 8 fun s => s.modCur fun t => { t with wait := .rope n }) s

/-- `rpstat` (R261): RPSTAT, RPWSUM and RPROUND as one consistent set. -/
def execRpstat (a : BitVec 6) (s : State) : Host.Outcome State Fault Refusal :=
  runC 0 (do
    let w ← src a
    let (n, _, d) ← ropeOf w false
    let s ← get
    let vs ← if d ≠ s.dev.devno then askAndWait 8 d 5 [BitVec.ofNat 64 s.curCtx.job, w] >>= ropeAnswer w
      else pure [BitVec.ofNat 64 (s.ropeReg n 1), BitVec.ofNat 64 (s.ropeReg n 3), BitVec.ofNat 64 (s.ropeReg n 4)]
    push (vs.getD 0 0)
    push (vs.getD 1 0)
    push (vs.getD 2 0)) s

/-- `rpleave` (R261, R456). -/
def execRpleave (s : State) : Host.Outcome State Fault Refusal :=
  runC 0 (do
    let t := (← get).cur
    if t.mem.isNone then trap 0x12 0
    else if t.arriving then park 8
    else modify fun s => s.leaveRope s.latch.core s.latch.slot) s

/-! ### Banks: pending entries, merges, the fill rule (R90, R133, R258, R260) -/

/-- One line operation of a bank (R90): an FP32 sum rounded RNE or a wrapping I32 sum, lane by lane. -/
def lineAdd (i32 : Bool) (a b : List Byte) : List Byte :=
  (List.range 16).flatMap fun i =>
    let x := ofBytes (slice a (4 * i) 4)
    let y := ofBytes (slice b (4 * i) 4)
    toBytes 4 (if i32 then (x + y) % 2 ^ 32 else f32Add x y)

/-- Entries of a rope that stand unmerged in a bank (R258). -/
def Rope.inBank (r : Rope) (b : Nat) : Nat :=
  (r.pend.map fun p => ((List.range p.wrote).filter fun i => !p.merged.contains i && bankOf ((r.offs + i) * 64) == b).length).sum

/-- Lines that must be acknowledged before a member is counted: the first eight of each bank (R258, log 12). -/
def Rope.needed (r : Rope) : Nat := min r.len 2048

/-- The next entry of a contribution may be written: its bank holds fewer than 8 lines of the rope and 64 of all ropes, and earlier arrivals
have written theirs (R258, R386). -/
def State.pendRoom (s : State) (n : Nat) (p : RPend) : Bool :=
  let r := s.rope n
  let b := bankOf ((r.offs + p.wrote) * 64)
  decide (p.wrote < r.len) && (decide (p.wrote < r.needed) || p.counted) && decide (r.inBank b < 8) &&
    decide ((s.ropes.map fun q => q.2.inBank b).sum < 64) &&
    ((r.pend.takeWhile fun q => q.m != p.m).all fun q => decide (r.needed ≤ q.wrote))

def State.modPend (s : State) (n m : Nat) (f : RPend → RPend) : State :=
  s.modRope n fun r => { r with pend := r.pend.map fun p => if p.m = m then f p else p }

/-- A member whose entries every bank has acknowledged is counted (R75, R258); at the quorum the release starts. -/
def State.countMember (s : State) (n : Nat) (p : RPend) : State :=
  let r := s.rope n
  if p.counted ∨ ¬ (r.st = 1 ∨ r.st = 2) ∨ ¬ (List.range r.needed).all fun i => p.acked.contains i then s
  else
    let e := Table.get {} p.m r.mem
    let s := s.modRope n fun r => { r with arrived := r.arrived + 1, warr := r.warr + e.weight }
    let s := ((s.modMember n p.m fun e => { e with cnt := true }).modPend n p.m fun q => { q with counted := true }).endArrival p 0
    let r := s.rope n
    if r.q ≤ r.arrived then s.startRelease n false else s

/-- The physical key of a place of the stale area, by the owner's mapping (R260). -/
def State.staleKey (s : State) (n i line : Nat) : Option Nat :=
  let r := s.rope n
  let va := r.stale + (i * r.len + line) * 64
  match s.walk r.owner va with
  | some (z, pa, _) => some (s.fwd (pa + va % pageBytes z))
  | none => none

/-- A bank merges one line of a counted member (R133); under FILL STALE it also writes the member's slot of the stale area. -/
def State.mergeLine (s : State) (n : Nat) (p : RPend) (i : Nat) : State :=
  let r := s.rope n
  let k := campKey ((r.offs + i) * 64)
  let bs := slice p.bytes (64 * i) 64
  let s := s.put k (lineAdd r.i32 (s.bytes k 64) bs)
  let s := if r.fill = 2 then match s.staleKey n p.m i with | some q => s.put q bs | none => s else s
  let s := s.modPend n p.m fun q => { q with merged := i :: q.merged }
  s.modRope n fun r => { r with pend := r.pend.filter fun q => !(q.counted && decide (r.len ≤ q.merged.length)) }

/-- One element under RESCALE: the exact product rounded once (R260). -/
def rescaled (wtot warr v : Nat) : Nat :=
  match f32 v with
  | .fin s m e => encFp fp32 rne ((Val.fin s (m * wtot) e).div (.fin false warr 0))
  | x => encFp fp32 rne x

/-- The fill rule on the merged sum (R260, R262). -/
def State.fillSum (s : State) (n : Nat) : State :=
  let r := s.rope n
  let k := campKey (r.offs * 64)
  if r.fill = 1 ∧ r.warr ≠ 0 then
    s.put k ((List.range (16 * r.len)).flatMap fun i => toBytes 4 (rescaled r.wtot r.warr (s.word (k + 4 * i) 4)))
  else if r.fill = 2 then
    (((List.range r.n).filter fun i => !(Table.get {} i r.mem).cnt).flatMap fun i => (List.range r.len).map fun j => (i, j)).foldl (fun s q =>
      match s.staleKey n q.1 q.2 with
      | some a => s.put (k + 64 * q.2) (lineAdd r.i32 (s.bytes (k + 64 * q.2) 64) (s.bytes a 64))
      | none => s) s
  else s

/-- Waiters of a rope are released (R134): those on other devices by message. -/
def State.wakeRope (s : State) (n : Nat) : State :=
  let s := s.mapThreads fun t => if t.wait = .rope n then { t with wait := .done 0 } else t
  let s := (s.rope n).away.foldl (fun s q => s.sendPacket { dst := q.1, cls := 2, ty := 9, tag := q.2, bank := 0, body := [] }) s
  s.modRope n fun r => { r with away := [] }

/-- The release ends once every counted member is merged (R133, R260 steps 3 to 6). -/
def State.endRelease (s : State) (n : Nat) : State :=
  if (s.rope n).st ≠ 3 ∨ (s.rope n).pend ≠ [] then s
  else
    let s := (s.fillSum n).modRope n fun r => { r with filled := true, armed := false, st := 4, round := (r.round + 1) % 2 ^ 32 }
    s.wakeRope n

/-- A rope returns to IDLE when the launch that armed it ends (R263). An arrival that is not counted gets a result that the spec does not state, a free
value (log 144). -/
def State.ropeIdle (s : State) (n : Nat) : State :=
  let r := s.rope n
  let s := (r.pend.filter fun p => !p.counted).foldl (fun s p => let (d, s) := s.drawn; s.endArrival p (Config.arrivalResult d)) s
  let s := (s.membersGo n false r.mem).wakeRope n
  s.modRope n fun r => { round := r.round }

end Sys2Proof.Machine
end

