-- ==== Sys2Proof/Machine/FixedLine.lean ====
section
/-! DEFINITION. Fixed lines: subscribing, ending, synchronising and reading status (R128 to R132, R265 to R267, R382, R383). -/

namespace Sys2Proof.Machine

/-- The status word of a subscriber entry (R267). -/
def lineStatus (f : FLine) : Word :=
  BitVec.ofNat 64 (f.seq + b2n f.refreshed * 2 ^ 32 + f.rcount % 256 * 2 ^ 40 + b2n f.lapsed * 2 ^ 48)

/-- The lowest free entry of a table of 64 (R382). -/
def freeEntry (t : Table FLine) : Option Nat := (List.range 64).find? fun i => !(Table.get {} i t).v

/-- A subscription (R266): entry `i` of the subscriber core `c` and entry `j` of the source core `d`, and the copy of the source region. -/
def State.subscribe (s : State) (c d i j x off so len win : Nat) (batch : Bool) : State :=
  let bs := s.bytes (spKey d so) (64 * len)
  let s := s.modCore d fun k => { k with src := Table.set j { v := true, batch := batch, x := x, peer := c, pidx := i, bwin := win, len := len, off := so } k.src }
  let s := s.modCore c fun k => { k with sub := Table.set i { v := true, batch := batch, x := x, peer := d, pidx := j, bwin := win, len := len, off := off } k.sub }
  s.land c (spKey c off) bs

/-- `flsub` (R266): the checks, both entries, and the copy of the source region. -/
def execFlsub (f : Rrr) (m : BitVec 1) (s : State) : Host.Outcome State Fault Refusal :=
  runC 0 (do
    let a ← src f.a
    let b ← src f.b
    let s ← get
    let c := s.latch.core
    let x := s.cur.x
    let av := a.toNat
    let bv := b.toNat
    let off := bits av 0 20
    let len := bits av 24 11
    let win := bits av 40 6
    let so := bits bv 0 20
    let d := bits bv 32 9
    if av ≠ off + len * 2 ^ 24 + win * 2 ^ 40 ∨ off % 64 ≠ 0 ∨ len < 1 ∨ 1024 < len ∨ (m = 0#1 ∧ win ≠ 0) ∨ 0x100000 < off + 64 * len ∨
        (s.core c).sub.any (fun p => p.2.v && overlap off (64 * len) p.2.off (64 * p.2.len)) then trap 0x12 a
    else if bv ≠ so + d * 2 ^ 32 ∨ so % 64 ≠ 0 ∨ 0x100000 < so + 64 * len ∨ d = c then trap 0x12 b
    else if !inRect s.curCtx d then trap 0x17 b
    else if !s.spShare c x off (64 * len) then trap 0x17 a
    else if !s.spShare d x so (64 * len) then trap 0x17 b
    else match freeEntry (s.core c).sub, freeEntry (s.core d).src with
      | none, _ => dest f.d (BitVec.ofNat 64 (2 ^ 63 + 1))
      | _, none => dest f.d (BitVec.ofNat 64 (2 ^ 63 + 2))
      | some i, some j => do
        modify fun s => s.subscribe c d i j x off so len win (m == 1#1)
        dest f.d (BitVec.ofNat 64 i)) s

/-- The subscriber entry that an operand names, checked (R267). -/
def lineOf (a : Word) : Ex (Nat × FLine) := do
  let s ← get
  let f := Table.get {} a.toNat (s.core s.latch.core).sub
  if 64 ≤ a.toNat ∨ ¬ f.v ∨ f.x ≠ s.cur.x then trap 0x12 a else pure (a.toNat, f)

/-- Waits until the line has applied what its source had generated when the request reached it (R130, R267); a refresh satisfies it, and `flsync` closes the line's
BATCH windows (R128). -/
def lineWait (i : Nat) (f : FLine) (close : Bool) : Ex Unit := do
  let s ← get
  match s.cur.wait with
  | .line e q => if e = i ∧ ¬ (reached f.seq q ∧ ¬ f.lapsed) then park 8 else modCur fun t => { t with wait := .none }
  | _ =>
    let s := if close then ((s.core f.peer).batch.filter fun p => p.1 == f.pidx).foldl (fun s p => s.closeBatch f.peer p.1 p.2) s else s
    let q := (Table.get {} f.pidx (s.core f.peer).src).seq
    if close && (s.core f.peer).batch.any (fun p => p.1 == f.pidx) then park 8
    else if reached f.seq q ∧ ¬ f.lapsed then set s
    else parkWith 8 fun _ => s.modCur fun t => { t with wait := .line i q }

/-- `flend` (R267): both entries are freed once every update generated before is applied. -/
def execFlend (a : BitVec 6) (s : State) : Host.Outcome State Fault Refusal :=
  runC 0 (do
    let v ← src a
    let (i, f) ← lineOf v
    lineWait i f false
    modify fun s =>
      let s := s.modCore s.latch.core fun k => { k with sub := Table.set i {} k.sub, inq := k.inq.filter fun u => u.entry != i }
      s.modCore f.peer fun k => { k with src := Table.set f.pidx {} k.src, batch := k.batch.filter fun p => p.1 != f.pidx
                                         outq := k.outq.filter fun u => !(u.dst == s.latch.core && u.entry == i) }) s

/-- `flsync` (R130). -/
def execFlsync (a : BitVec 6) (s : State) : Host.Outcome State Fault Refusal :=
  runC 0 (do
    let v ← src a
    let (i, f) ← lineOf v
    lineWait i f true) s

/-- `flstat` (R267). -/
def execFlstat (d a : BitVec 6) (s : State) : Host.Outcome State Fault Refusal :=
  runC 0 (do
    let v ← src a
    let (_, f) ← lineOf v
    dest d (lineStatus f)) s

/-- `flstat.clr` (R267). -/
def execFlstatClr (d a : BitVec 6) (s : State) : Host.Outcome State Fault Refusal :=
  runC 0 (do
    let v ← src a
    let (i, f) ← lineOf v
    dest d (lineStatus f)
    modCurCore fun k => { k with sub := Table.set i { f with refreshed := false } k.sub }) s

end Sys2Proof.Machine
end

