-- ==== Sys2Proof/Machine/Message.lean ====
section
/-! DEFINITION. Messages between threads and ownership tokens (R104, R268 to R270, R345, R346, R384). -/

namespace Sys2Proof.Machine

/-! ### Messages -/

/-- `send` (R269): its status comes when the message is delivered or refused. -/
def execSend (f : Rrr) (q : BitVec 3) (s : State) : Host.Outcome State Fault Refusal :=
  runC 0 (do
    let a ← src f.a
    let v ← src f.b
    let s ← get
    let dev := bits a.toNat 17 15
    let far := dev ≠ s.dev.devno
    if far ∧ ¬ s.cur.xdev then trap 0x17 a else pure ()
    ropeGate a false
    if !(s.accessesOf s.latch.core s.latch.slot).isEmpty || (far && remoteSends s 10) then park 6 else pure ()
    headGate
    issueTo f.d.toNat fun o =>
      { o with kind := .send, addr := BitVec.ofNat 64 (bits a.toNat 0 32), n := q.toNat, data := v.setWidth 4096, tgt := dev }) s

/-- What becomes of a message for a thread of this device (R269, R345, R346). -/
inductive Delivery where
  | status (v : Word)
  | stays
  | refused
  | waits
  | forward (dev : Nat)

/-- A message reaches the core of its thread's context (R345): it enters the queue register, waits in the inbound queue, or is refused. -/
def State.deliverMsg (s : State) (c x q : Nat) (v : Word) (op dev snd : Nat) : State × Delivery :=
  let k := s.ctx c x
  if !shareOk (s.core c).share x q 6 then (s, .status (BitVec.ofNat 64 (2 ^ 63 + 5)))
  else if k.away then
    if 4096 ≤ (s.lease k.l).area.length then (s, .status (BitVec.ofNat 64 (2 ^ 63 + 3)))
    else (s.areaAdd k.l (.msg c x q v snd), .status 1)
  else
    let l := Table.get [] q k.q
    let box := (s.core c).inbox
    let mine := box.filter fun m => m.x == x && m.q == q
    let held := (s.lease k.l).area.any fun p => match p with | .msg d y n _ _ => d == c && y == x && n == q | _ => false
    if held then (s, .refused)
    else if l.length < 16 ∧ mine.isEmpty then (s.setCtx c x { k with q := Table.set q (l ++ [.word v]) k.q }, .status 0)
    else if box.length < 64 ∧ mine.length < 16 then (s.modCore c fun d => { d with inbox := d.inbox ++ [⟨x, q, v, op, dev, snd⟩] }, .waits)
    else (s, .refused)

/-- The saved launch that holds a thread, by identifier, with its core and context (R346). -/
def State.savedThread (s : State) (thid : Nat) : Option (Launch × Nat × Nat) :=
  s.sched.launches.findSome? fun l => if l.st = .saved then
      (l.images.find? fun i => i.slots.any fun p => thidOf p.2 == thid).map fun i => (l, i.core, i.x) else none

/-- A message for the thread with an identifier of this device reaches its home core and is forwarded to its present place, on this device or on
another (R269). -/
def State.routeMsg (s : State) (thid q : Nat) (v : Word) (op dev snd : Nat) : State × Delivery :=
  match s.threads.find? fun p => decide (p.2.st ≠ .empty) && thidOf p.2 == thid with
  | some p => (match p.2.leave with
    | .migrate _ _ => (s, .stays)
    | _ => s.deliverMsg (p.1 / 256) p.2.x q v op dev snd)
  | none =>
    if s.allThreads.any fun t => thidOf t == thid then (s, .stays)
    else match s.savedThread thid with
      | some (l, c, x) =>
        if 4096 ≤ (s.lease l.l).area.length then (s, .status (BitVec.ofNat 64 (2 ^ 63 + 3)))
        else (s.areaAdd l.l (.msg c x q v snd), .status 1)
      | none =>
        match s.sched.abroad.find? fun p => p.1 == thid with
        | some (_, t) => (s, match t.leave with | .migrate d _ => .forward d | _ => .stays)
        | none =>
        if thid / 2 ^ 17 ≠ s.dev.devno then (s, .forward (thid / 2 ^ 17))
        else
        let c := bits thid 8 9
        let h := bits thid 0 8
        if (s.ctx c 0).used.contains h || (s.ctx c 1).used.contains h then (s, .status (BitVec.ofNat 64 (2 ^ 63 + 1)))
        else (s, .status (BitVec.ofNat 64 (2 ^ 63 + 2)))

/-! ### Ownership tokens (R104, R270, R384) -/

def regionBytes : Nat := 0x200000

/-- The checks of `acqr` and `relr` (R270): the region's number. -/
def tokenRegion (a : Word) : Ex Nat := do
  let s ← get
  if !s.cur.xdev then trap 0x17 a else pure ()
  let r := a.toNat / regionBytes
  if 2 ^ 55 ≤ a.toNat ∨ ¬ coveredBy (allLeases (s.lease s.curCtx.l)) (r * regionBytes) regionBytes 0 then trap 0x16 a else pure ()
  ropeGate a false
  if s.cur.timed && !s.cur.serial && !s.isHead s.cur then park 10 else pure r

/-- The lowest free way in a region's set of the directory (R384). -/
def State.tokenWay (s : State) (r : Nat) : Option Nat :=
  (List.range 4).find? fun w => !(s.sched.tokens.any fun k => k.region % 4096 == r % 4096 && k.way == w)

/-- A packet about a region's token: 0 asks for it for a launch context; 1 brings it, with the rights and bytes of the region, and 3 brings it for a page
migration of job `job`; 2 never leaves its device, where a token waits to be given back (R103, R104). -/
def State.tokenPacket (s : State) (dev kind job r tag : Nat) (bs : List Byte) : State :=
  s.sendPacket { dst := dev, cls := 0, ty := 13, tag := tag, bank := 0, body := toBytes 4 kind ++ toBytes 4 job ++ toBytes 8 r ++ bs }

/-- Nothing that was issued to a region, and no buffered store to it, is under way (R99; log 152). -/
def State.regionQuiet (s : State) (r : Nat) : Bool :=
  let here := fun (a n : Nat) => overlap (r * regionBytes) regionBytes a n
  !(s.ops.any fun o => (o.kind == .load || o.kind == .vload || o.kind == .atomic) && here o.addr.toNat (max 1 o.n) ||
      o.pieces.any fun b => here b.va.toNat b.bytes.length) &&
    !(s.allThreads.any fun t => t.buf.any fun b => here b.va.toNat b.bytes.length)

/-- Every translation of a region is dropped: TLB entries of all clusters, and cached lines (R99, R104). -/
def State.dropRegion (s : State) (lo n : Nat) (l : Option Nat) : State :=
  let mine := fun (k : Nat) => match l with | some x => k == x | none => true
  { s with clusters := s.clusters.map (fun p => (p.1, { p.2 with inval := (p.2.inval + 1) % 2 ^ 32
                                                                 tlb := p.2.tlb.filter fun e => !(mine e.l && overlap lo n (e.vpn * 65536 / pageBytes e.size * pageBytes e.size) (pageBytes e.size)) }))
           cores := s.cores.map fun p =>
             let keep := fun (e : Line) => !(mine e.l && overlap lo n e.va 64)
             (p.1, { p.2 with l1d := p.2.l1d.filter keep, l1i := p.2.l1i.filter keep }) }

/-- The physical place and rights of a page of this device, by the first launch context that maps it. -/
def State.anyLeaf (s : State) (va : Nat) : Option (Nat × Nat) :=
  s.sched.lease.findSome? fun p => if !p.2.used then none else (s.leafAt p.1 va).map fun q =>
    (s.fwd (bits q.2.2 8 48 * 256 + va % pageBytes q.1), bits q.2.2 2 3)

/-- The bytes of a region of this device, page by page. -/
def State.regionData (s : State) (r : Nat) : List Byte :=
  (List.range 32).flatMap fun i => match s.anyLeaf (r * regionBytes + 65536 * i) with
    | some (k, _) => s.bytes k 65536
    | none => List.replicate 65536 0

/-- This device gives the token of a region of its own away, with the region's bytes; the entry is BUSY until they are acknowledged (R104, R384). -/
def State.giveToken (s : State) (dev kind job r way : Nat) : State :=
  let rights := match s.anyLeaf (r * regionBytes) with | some (_, k) => k | none => 0
  let bs := s.regionData r
  let s := s.dropRegion (r * regionBytes) regionBytes none
  let tag := s.nextOp
  let s := { (s.modSched fun q => { q with tokens := q.tokens ++ [⟨false, true, 0, dev, r, 0, 0, way, tag⟩] }) with nextOp := tag + 1 }
  s.tokenPacket dev kind job r tag (toBytes 8 rights ++ bs)

/-- This device gives a region's token back, with the region's bytes, to the device that the address names, once nothing is under way in the region; the
entry is BUSY until they are acknowledged (R99, R104, R384). -/
def State.returnToken (s : State) (r : Nat) : State :=
  match s.sched.tokens.find? fun k => k.inward && k.region == r with
  | none => s
  | some k =>
    if k.busy ∨ !s.reach k.peer then s
    else if !s.regionQuiet r then
      { s with laterSteps := s.laterSteps ++ [⟨.evhToken, { c := s.dev.devno, bytes := toBytes 8 2 ++ toBytes 8 r }⟩] }
    else
      let bs := s.bytes k.lcopy regionBytes
      let s := s.dropRegion (r * regionBytes) regionBytes none
      let tag := s.nextOp
      let s := { (s.modSched fun q => { q with tokens := q.tokens.map fun j => if j.inward && j.region == r then { j with busy := true, tag := tag } else j }) with
        nextOp := tag + 1 }
      s.tokenPacket k.peer 1 0 r tag (toBytes 8 k.rights ++ bs)

/-- The region of a packet has reached its device: an entry given back goes, one given away is BUSY no longer (R384). -/
def State.tokenLanded (s : State) (tag : Nat) : State :=
  s.modSched fun q => { q with tokens := q.tokens.filterMap fun k =>
    if k.tag = tag ∧ tag ≠ 0 then (if k.inward then none else some { k with busy := false, tag := 0 }) else some k }

/-- The thread's own accesses to a region that it gives back are done first: its buffered stores land, its task becoming head-serialised (log 152). -/
def ownQuiet (r : Nat) : Ex Unit := do
  let s ← get
  let here := fun (a n : Nat) => overlap (r * regionBytes) regionBytes a n
  if (s.opsOf s.latch.core s.latch.slot).any fun o => here o.addr.toNat (max 1 o.n) then park 6 else pure ()
  if s.cur.buf.any fun b => here b.va.toNat b.bytes.length then becomeSerial else pure ()

/-- `acqr` (R104, R270). Towards a holder that cannot be reached it traps PROT: the model's choice (log 151). -/
def execAcqr (a : BitVec 6) (s : State) : Host.Outcome State Fault Refusal :=
  runC 0 (do
    let v ← src a
    let r ← tokenRegion v
    let s ← get
    if s.regionBusy v.toNat then park 11
    else if s.held v.toNat then modCur fun t => { t with wait := .none }
    else match s.cur.wait with
      | .token _ => park 11
      | _ =>
        if !s.reach (s.holder v.toNat) then trap 0x17 v
        else if (s.tokenOf v.toNat).isNone && (s.tokenWay r).isNone then park 11
        else parkWith 11 fun s => (s.modCur fun t => { t with wait := .token r }).tokenPacket (s.holder v.toNat) 0 0 r 0 (toBytes 8 s.curCtx.l)) s

/-- `relr` (R104, R270). -/
def execRelr (a : BitVec 6) (s : State) : Host.Outcome State Fault Refusal :=
  runC 0 (do
    let v ← src a
    let r ← tokenRegion v
    ownQuiet r
    modify fun s => s.returnToken r) s

end Sys2Proof.Machine
end

