-- ==== Sys2Proof/Machine/Csr.lean ====
section
/-! DEFINITION. Control and status registers: their numbers, values, writes, and `mvc` and `mtc` (R52 to R74, R215). -/

namespace Sys2Proof.Machine

/-! ### The number space (R52, R56) -/

/-- The index table lists the number. -/
def csrListed (n : Nat) : Bool :=
  decide (n ≤ 4 ∨ 8 ≤ n ∧ n ≤ 0xB ∨ 0x100 ≤ n ∧ n ≤ 0x102 ∨ 0x108 ≤ n ∧ n ≤ 0x10B ∨ 0x111 ≤ n ∧ n ≤ 0x12F ∨ 0x140 ≤ n ∧ n ≤ 0x14F ∨
    0x180 ≤ n ∧ n ≤ 0x19F ∨ n = 0x400 ∨ n = 0x401 ∨ n = 0x500 ∨ n = 0x501 ∨ n = 0x508 ∨ n = 0x509 ∨ n = 0x510 ∨ 0x520 ≤ n ∧ n ≤ 0x527 ∨
    0x8000 ≤ n ∧ n ≤ 0x9FFF ∧ n % 8 < 6)

/-- Who may write a register: 0 nobody (a write is ignored), 1 any thread, 2 SYS or FWM, 3 FWM (R53, R56). -/
def csrWriters (n : Nat) : Nat :=
  if n ∈ [0, 1, 2, 8, 9, 0xA, 0xB] ∨ 0x140 ≤ n ∧ n ≤ 0x19F then 1
  else if 0x111 ≤ n ∧ n ≤ 0x12F then 2
  else if n ∈ [0x101, 0x102, 0x108, 0x109, 0x10A, 0x10B, 0x401, 0x501, 0x508, 0x509, 0x510] ∨ 0x520 ≤ n ∧ n ≤ 0x527 ∨ 0x8000 ≤ n then 3
  else 0

/-- What a write comes to: the state after it, or the cause it traps with and its TVAL. -/
abbrev Wrote := Except (Nat × Word) State

def badValue (v : Nat) : Wrote := .error (0x12, BitVec.ofNat 64 v)

/-! ### Core and context registers (R62 to R68, R45) -/

def coreCap (s : State) (c : Nat) : Nat :=
  let r := Table.get (0, 0) c s.dev.repair
  s.slots c + s.vregs c * 2 ^ 9 + b2n (s.isFw c) * 2 ^ 16 + b2n (r.1 != 0 || r.2 != 0) * 2 ^ 17 + 7 * 2 ^ 20 + c * 2 ^ 32 + clusterOf c * 2 ^ 48 +
    dieOf c * 2 ^ 56

/-- A shape register (R45). -/
def tileShape (t : Tile) : Nat := t.nrows + t.rowb * 2 ^ 8 + t.fmt * 2 ^ 24 + b2n t.scv * 2 ^ 30 + b2n (t.busy != 0) * 2 ^ 31

/-- A core-scope or context-scope register, by number. -/
def State.coreReg (s : State) (c x n : Nat) : Nat :=
  let q := s.core c
  let k := s.ctx c x
  if n = 0x100 then coreCap s c
  else if n = 0x101 then q.ageq
  else if n = 0x102 then b2n q.share + 16 * 2 ^ 8 + b2n (s.ctx c 1).placed * 2 ^ 16
  else if n = 0x108 then k.spBase * 2 ^ 6 + k.spSize * 2 ^ 32
  else if n = 0x109 then k.spOvf
  else if n = 0x10A then k.spLim
  else if n = 0x10B then k.tq + k.cq * 2 ^ 16
  else if 0x111 ≤ n ∧ n ≤ 0x11F then (Table.get 0#32 (n - 0x110) k.wd).toNat
  else if 0x120 ≤ n ∧ n ≤ 0x12F then k.bgv (n - 0x120)
  else if 0x140 ≤ n ∧ n ≤ 0x14F then tileShape (Table.get {} (n - 0x140) q.tiles)
  else if 0x180 ≤ n ∧ n ≤ 0x19F then (Table.get 0#32 (n - 0x180) k.lc).toNat
  else 0

/-- A write of a core-scope or context-scope register, with its limits (R54, R62 to R68). -/
def State.putCoreReg (s : State) (c x n v : Nat) : Wrote :=
  let k := s.ctx c x
  if n = 0x101 then
    if bits v 0 16 < 16 then badValue v else .ok (s.modCore c fun q => { q with ageq := bits v 0 16 })
  else if n = 0x102 then
    .ok (if (s.ctx c 0).placed ∨ (s.ctx c 1).placed then s else s.modCore c fun q => { q with share := bit v 0 })
  else if n = 0x108 then
    let size := bits v 32 12
    let base := bits v 6 14
    let lo := base * 64
    let hs := s.classSlots c x
    let part := (s.core c).share && if x = 1 then decide (lo + hs.headD 0 * size * 256 < 0xE0000) else decide (0xE0000 < lo + hs.length * size * 256)
    if size < 4 ∨ 0x100000 < lo + s.slots c * size * 256 ∨ part then badValue v
    else .ok (s.setCtx c x { k with spBase := base, spSize := size })
  else if n = 0x109 then .ok (s.setCtx c x { k with spOvf := bits v 6 50 * 64 })
  else if n = 0x10A then .ok (s.setCtx c x { k with spLim := bits v 0 24 })
  else if n = 0x10B then
    let cq := bits v 16 12
    let tq := bits v 0 12
    let other := s.ctx c (1 - x)
    if cq < 1 ∨ 2048 < cq ∨ tq < 1 ∨ 2048 < tq ∨ (other.placed ∧ 2048 < cq + other.cq) then badValue v
    else .ok (s.setCtx c x { k with cq := cq, tq := tq })
  else if 0x111 ≤ n ∧ n ≤ 0x11F then
    if 10 < bits v 20 4 then badValue v
    else .ok (s.setCtx c x { k with wd := Table.set (n - 0x110) (BitVec.ofNat 32 (v &&& 0xF8FF3FFF)) k.wd })
  else if 0x120 ≤ n ∧ n ≤ 0x12F then
    match bgWrite k c (n - 0x120) v with
    | some w => .ok (s.setCtx c x { k with bg := Table.set (n - 0x120) (BitVec.ofNat 32 w) k.bg })
    | none => badValue v
  else if 0x140 ≤ n ∧ n ≤ 0x14F then
    let t := Table.get {} (n - 0x140) (s.core c).tiles
    if 8 < bits v 8 4 ∨ 64 < bits v 0 7 then badValue v
    else if t.busy ≠ 0 then .error (6, BitVec.ofNat 64 (n - 0x140))
    else .ok (s.modCore c fun q => { q with tiles := Table.set (n - 0x140) { t with fmt := bits v 24 4, rowb := bits v 8 4, nrows := bits v 0 7 } q.tiles })
  else if 0x180 ≤ n ∧ n ≤ 0x19F then .ok (s.setCtx c x { k with lc := Table.set (n - 0x180) (BitVec.ofNat 32 v) k.lc })
  else .ok s

/-! ### Cluster registers (R69, R70) -/

def poolWord (p : Cluster) : Nat := p.osize + p.obase * 2 ^ 8 + p.isize * 2 ^ 16 + p.ibase * 2 ^ 24 + p.ksize * 2 ^ 32 + p.kbase * 2 ^ 40

def State.clusterReg (s : State) (k n : Nat) : Nat :=
  if n = 0x400 then (s.cluster k).cairn.toNat else if n = 0x401 then poolWord (s.cluster k) else 0

def State.putClusterReg (s : State) (k n v : Nat) : Wrote :=
  if n = 0x401 then
    let os := bits v 0 8
    let ob := bits v 8 7
    let is := bits v 16 8
    let ib := bits v 24 7
    let ks := bits v 32 8
    let kb := bits v 40 7
    if 128 < ob + os ∨ 128 < ib + is ∨ 128 < kb + ks ∨ (os ≠ 0 ∧ is ≠ 0 ∧ overlap ob os ib is) ∨ (os ≠ 0 ∧ ks ≠ 0 ∧ overlap ob os kb ks) ∨
        (is ≠ 0 ∧ ks ≠ 0 ∧ overlap ib is kb ks) then badValue v
    else .ok (s.modCluster k fun p => { p with osize := os, obase := ob, isize := is, ibase := ib, ksize := ks, kbase := kb })
  else .ok s

/-! ### Device registers (R71, R72) -/

/-- What falls due as DTIME goes on from an earlier value in nanoseconds: held TIMED packets and ladder limits at whole microseconds, the energy
window, the summary of corrected errors each second, wear each minute (R363, R365, R372, R405, R406). -/
def State.timeDue (s : State) (old : Nat) : State :=
  let now := s.now
  let past := fun (n : Nat) => decide (old / n ≠ now / n)
  let timers : List Event := if past 1000 then
      (s.sched.subq.filter fun p => p.2.hold == 3).map (fun p => ⟨.timedExpiry, { n := p.1 }⟩) ++
        s.sched.launches.filterMap fun n => if n.st = .draining ∧ n.t1End ≤ now then some ⟨.t1limExpiry, { id := n.id }⟩
          else if n.st = .saving ∧ n.t2End ≤ now then some ⟨.t2limExpiry, { id := n.id }⟩ else none
    else []
  let rest : List Event := (if past (s.dev.win * 1000) then [⟨.energyWindowBoundary, {}⟩] else []) ++ (if past 1000000000 then [⟨.cesum, {}⟩] else []) ++
    if past 60000000000 then [⟨.wearCompute, {}⟩] else []
  { s with agenda := s.agenda ++ timers ++ rest }

/-- A DTSTEP (R71): a negative one adds to the remainder, a positive one first lowers it. -/
def State.dtStep (s : State) (v : Word) : State :=
  (s.modDev fun d =>
    let m := v.toInt.natAbs * 2 ^ 32
    if v.toInt < 0 then { d with owed := d.owed + m }
    else { d with owed := d.owed - m, dtime := d.dtime + (m - d.owed) }).timeDue s.now

def State.devReg (s : State) (n : Nat) : Nat :=
  let d := s.dev
  if n = 0x500 then s.now
  else if n = 0x508 then d.budNext % 2 ^ 32 + d.erem * 2 ^ 32
  else if n = 0x509 then d.winNext
  else if n = 0x510 then d.glim
  else if 0x520 ≤ n ∧ n ≤ 0x527 then (Table.get 0#64 (n - 0x520) d.fwa).toNat
  else 0

def State.putDevReg (s : State) (n v : Nat) : Wrote :=
  if n = 0x501 then .ok (s.dtStep (BitVec.ofNat 64 v))
  else if n = 0x508 then .ok (s.modDev fun d => { d with budNext := bits v 0 32 })
  else if n = 0x509 then
    if bits v 0 32 < 100 ∨ 10000000 < bits v 0 32 then badValue v else .ok (s.modDev fun d => { d with winNext := bits v 0 32 })
  else if n = 0x510 then .ok (s.modDev fun d => { d with glim := bits v 0 8 })
  else if 0x520 ≤ n ∧ n ≤ 0x527 then
    let old := Table.get 0#64 (n - 0x520) s.dev.fwa
    if old.toNat.testBit 7 then .ok s
    else if bits v 0 2 = 3 ∨ bits v 2 2 = 3 ∨ (bits v 8 8 ≠ 0 ∧ (bits v 8 8 < 16 ∨ 40 < bits v 8 8)) then badValue v
    else .ok (s.modDev fun d => { d with fwa := Table.set (n - 0x520) (BitVec.ofNat 64 (v &&& 0x00FFFFFFFFFFFF8F)) d.fwa })
  else .ok s

/-! ### Rope registers (R73, R74) -/

/-- A value within the limits that the map of a rope register states: N 1 to 4,096, Q 1 to N, FILL and KILL not 3, STATE at most 4, LEN 1 to 4,096. -/
def ropeRegOk (i v : Nat) : Bool :=
  if i = 0 then decide (1 ≤ bits v 0 13 ∧ bits v 0 13 ≤ 4096 ∧ 1 ≤ bits v 16 13 ∧ bits v 16 13 ≤ bits v 0 13 ∧ bits v 32 2 ≠ 3 ∧ bits v 34 2 ≠ 3)
  else if i = 1 then decide (bits v 48 3 ≤ 4)
  else if i = 2 then decide (1 ≤ bits v 32 13 ∧ bits v 32 13 ≤ 4096)
  else true

def State.putRopeReg (s : State) (r i v : Nat) : Wrote :=
  if ropeRegOk i v then .ok (s.modRope r fun p => p.putReg i v) else badValue v

/-! ### Thread registers (R58 to R61) -/

/-- Where TCAUSE, TPC and TVAL stand in the trap window, and their lengths (R37, R59). -/
def trapField (n : Nat) : Nat × Nat := if n = 9 then (60, 4) else if n = 0xA then (32, 8) else (48, 8)

/-- A register of the trap window of a thread whose home lies on another device, which is asked for it (R37). -/
def homeField (n : Nat) : Ex Nat := do
  let t := (← get).cur
  match ← askAndWait 6 t.hdev 11 [BitVec.ofNat 64 (thidOf t), BitVec.ofNat 64 ((← get).trapWin t + (trapField n).1), BitVec.ofNat 64 (trapField n).2] with
  | 0 :: v => pure (v.getD 0 0).toNat
  | k :: _ => trap k.toNat (BitVec.ofNat 64 n)
  | [] => pure 0

/-- A thread's own register. -/
def State.threadReg (s : State) (c h n : Nat) : Nat :=
  let t := s.thread c h
  let w := s.trapWin t
  if n = 0 then tsrWord t
  else if n = 1 then t.fpc.toNat
  else if n = 2 then t.vbase + (if t.vcnt = 0 then 0 else t.vcnt.log2) * 2 ^ 8
  else if n = 3 then thidOf t + t.x * 2 ^ 32 + h * 2 ^ 40 + c * 2 ^ 48
  else if n = 4 then t.tstamp.toNat
  else if n = 8 then t.tvec.toNat
  else s.word (w + (trapField n).1) (trapField n).2

/-- A window of vector registers is given back (R44). -/
def State.releaseV (s : State) (c h : Nat) : State := (s.modThread c h fun t => { t with vbase := 0, vcnt := 0 }).grantAll c

/-- A write of a thread's own register. -/
def State.putThreadReg (s : State) (c h n v : Nat) : Wrote :=
  let t := s.thread c h
  let w := s.trapWin t
  let fp := fpcWrite (if n = 0 then bits v 16 8 else bits v 0 8)
  if n = 0 then
    if (bits v 3 3 = 7) ≠ (t.bpri = 7) then .error (0x17, 0)
    else match fp with
      | none => badValue v
      | some f => .ok (s.setThread c h { t with fpc := f, srst := srstWrite (v / 2 ^ 32), bpri := bits v 3 3 })
  else if n = 1 then
    match fp with
    | none => badValue v
    | some f => .ok (s.setThread c h { t with fpc := f })
  else if n = 8 then .ok (s.setThread c h { t with tvec := BitVec.ofNat 64 (bits v 2 54 * 4) })
  else if n = 9 then .ok (s.homePut t (w + 60) (toBytes 4 (v &&& 0x00FF03FF)))
  else if n = 0xA then .ok (s.homePut t (w + 32) (toBytes 8 v))
  else if n = 0xB then .ok (s.homePut t (w + 48) (toBytes 8 v))
  else .ok s

/-- `mtc VWIN` (R44): count 0 releases at once; another count parks the thread on a request, which VWIN_WRITE enters, until its grant. -/
def writeVwin (v : Nat) : Ex Unit := do
  let s ← get
  let code := bits v 8 3
  let t := s.cur
  match t.wait with
  | .done _ => modCur fun t => { t with wait := .none }
  | .vwin _ => park 11
  | _ =>
    if 4 < code then trap 0x12 (BitVec.ofNat 64 v)
    else if !t.vPend.isEmpty then park 0
    else if code = 0 then modify fun s => s.releaseV s.latch.core s.latch.slot
    else parkWith 11 fun s =>
      let s := s.modCur fun t => { t with wait := .vwin (vwinCount code) }
      { s with agenda := ⟨.vwinWrite, { c := s.latch.core, h := s.latch.slot, n := vwinCount code }⟩ :: s.agenda }

/-! ### `mvc` and `mtc` (R54, R55, R215) -/

/-- The value of a control register for the thread whose bundle executes, with its checks (R54). -/
def readCsr (n : Nat) : Ex Nat := do
  let s ← get
  let c := s.latch.core
  let x := s.cur.x
  if !csrListed n then trapWord 0x10
  else if n < 0x100 then (if 9 ≤ n ∧ n ≤ 0xB ∧ s.foreign s.cur then homeField n else pure (s.threadReg c s.latch.slot n))
  else if n < 0x400 then do
    if 0x140 ≤ n ∧ n ≤ 0x14F ∧ !shareOk (s.core c).share x (n - 0x140) 14 then trap 0x12 (BitVec.ofNat 64 n) else pure ()
    pure (s.coreReg c x n)
  else if n < 0x500 then pure (s.clusterReg (clusterOf c) n)
  else if n < 0x8000 then do
    if 0x520 ≤ n ∧ !s.cur.fwm then trap 0x17 (BitVec.ofNat 64 n) else pure ()
    pure (s.devReg n)
  else do
    let r := (n - 0x8000) / 8
    if (s.rope r).st = 0 ∨ (s.rope r).owner ≠ s.curCtx.l then trap 0x17 (BitVec.ofNat 64 n) else pure ()
    pure (s.ropeReg r (n % 8))

/-- A write of a control register by the thread whose bundle executes, with its checks (R54). -/
def writeCsr (n v : Nat) : Ex Unit := do
  let s ← get
  let c := s.latch.core
  let h := s.latch.slot
  let x := s.cur.x
  let w := csrWriters n
  if !csrListed n then trapWord 0x10
  else if (w = 3 ∧ !s.cur.fwm) ∨ (w = 2 ∧ !s.cur.fwm ∧ !s.cur.sys) then trap 0x17 (BitVec.ofNat 64 n)
  else if w = 0 then pure ()
  else if n = 2 then writeVwin v
  else if 0x140 ≤ n ∧ n ≤ 0x14F ∧ !shareOk (s.core c).share x (n - 0x140) 14 then trap 0x12 (BitVec.ofNat 64 n)
  else
    let r : Wrote :=
      if n < 0x100 then s.putThreadReg c h n v
      else if n < 0x400 then s.putCoreReg c x n v
      else if n < 0x500 then s.putClusterReg (clusterOf c) n v
      else if n < 0x8000 then s.putDevReg n v
      else s.putRopeReg ((n - 0x8000) / 8) (n % 8) v
    match r with
    | .error (k, a) => trap k (if k = 0x17 then BitVec.ofNat 64 n else a)
    | .ok s' => if 0x120 ≤ n ∧ n ≤ 0x12F ∧ s.inBar c x (n - 0x120) then park 7 else set s'

/-- `mvc` (R215). -/
def execMvc (d : BitVec 6) (n : BitVec 16) (s : State) : Host.Outcome State Fault Refusal :=
  runC 0 (do
    let v ← readCsr n.toNat
    dest d (BitVec.ofNat 64 v)) s

/-- `mtc` (R215). -/
def execMtc (d : BitVec 6) (n : BitVec 16) (s : State) : Host.Outcome State Fault Refusal :=
  runC 0 (do
    let v ← src d
    writeCsr n.toNat v.toNat) s

end Sys2Proof.Machine
end

