-- ==== Sys2Proof/Machine/Tables.lean ====
section
/-! DEFINITION. The tables of the control space as words: thread contexts and control parts, TLB, reverse map, locks, fixed lines, lease blocks,
counters, queue and channel blocks (R49, R351, R371, R374 to R398, R403, R432). -/

namespace Sys2Proof.Machine

/-! ### Thread contexts (R49, R376) -/

/-- Word `i` of the 256-byte context. -/
def contextWord (t : Thread) (i : Nat) : Nat :=
  if i = 0 then t.pc.toNat % 2 ^ 56
  else if i = 1 then t.pred.toNat + t.depth % 65536 * 2 ^ 16 + t.vbase * 2 ^ 32 + (if t.vcnt = 0 then 0 else t.vcnt.log2) * 2 ^ 38
  else if i = 2 then ((List.range 4).map fun j => Table.get 0 j t.ts * 2 ^ (16 * j)).sum
  else if i = 3 then tsrWord t
  else if i = 4 then t.tstamp.toNat
  else if i = 5 then t.sp.toNat
  else if i = 6 then t.tvec.toNat
  else if i = 7 then t.sc % 65536 + t.oc % 2 ^ 24 * 2 ^ 16 + t.tseq * 2 ^ 40
  else if i < 24 then (entVal (t.t.getD (i - 8) (.val 0))).toNat
  else (Table.get 0 (i - 24) t.k).toNat

def contextBytes (t : Thread) : List Byte := (List.range 32).flatMap fun i => toBytes 8 (contextWord t i)

/-- A thread's registers from a 256-byte context; what the context does not hold is taken from `t`. -/
def contextThread (t : Thread) (bs : List Byte) : Thread :=
  let w := fun i => ofBytes (slice bs (8 * i) 8)
  let z := w 3
  let n := bits (w 1) 38 3
  { t with pc := BitVec.ofNat 64 (bits (w 0) 0 56), src := none, pred := BitVec.ofNat 16 (w 1) ||| 1, depth := bits (w 1) 16 16
           vbase := bits (w 1) 32 6, vcnt := vwinCount n, ts := (List.range 4).map fun j => (j, bits (w 2) (16 * j) 16)
           srst := BitVec.ofNat 32 (bits z 32 32), task := bit z 28, timed := bit z 27, cdom := BitVec.ofNat 2 (bits z 25 2), serial := bit z 24
           fpc := BitVec.ofNat 8 (bits z 16 8), mx := bit z 15, sys := bit z 14, xdev := bit z 13, fwm := bit z 11, intrap := bit z 10
           bpri := bits z 3 3, epri := bits z 0 3, tstamp := BitVec.ofNat 64 (w 4), sp := BitVec.ofNat 64 (w 5), tvec := BitVec.ofNat 64 (w 6)
           sc := bits (w 7) 0 16, oc := bits (w 7) 16 24, tseq := bits (w 7) 40 16
           t := (List.range 16).map fun i => .val (BitVec.ofNat 64 (w (8 + i))), k := (List.range 8).map fun i => (i, BitVec.ofNat 64 (w (24 + i))) }

/-- The state code of R336. -/
def stateCode : TState → Nat
  | .empty => 0
  | .arriving => 1
  | .ready => 2
  | .parked => 3
  | .leaving => 4

/-- Word `i` of the slot control part (R376). -/
def controlWord (t : Thread) (i : Nat) : Nat :=
  if i = 0 then stateCode t.st + (if t.st = .parked then t.pcause else 0) * 2 ^ 3 + t.x * 2 ^ 7 + t.cr * 2 ^ 8 + t.acc % 65536 * 2 ^ 32 + t.tseq * 2 ^ 48
  else if i = 1 then t.rs
  else if i = 3 then (match t.mem with | some m => m.rope + m.idx * 2 ^ 16 + m.dev * 2 ^ 32 + 2 ^ 63 | none => 0)
  else if i = 4 then t.killPc.toNat
  else if i = 5 then t.snap.pc.toNat
  else if 6 ≤ i ∧ i < 14 then (Table.get 0 (i - 6) t.snap.k).toNat
  else if i = 14 then t.snap.sp.toNat
  else if i = 15 then t.snap.pred.toNat + t.snap.depth * 2 ^ 16
  else if i = 16 then t.snap.sc + t.snap.oc * 2 ^ 16
  else 0

def controlBytes (t : Thread) : List Byte := (List.range 17).flatMap fun i => toBytes 8 (controlWord t i)

/-! ### Entries of 16 bytes, as one number each -/

/-- A range-lock entry (R381). -/
def lockWord (l : Lock) : Nat := l.hi + l.lo * 2 ^ 20 + l.slot * 2 ^ 50 + l.eng * 2 ^ 58 + l.x * 2 ^ 61 + b2n l.dst * 2 ^ 62 + 2 ^ 63

/-- A fixed-line entry (R382). -/
def lineWord (src : Bool) (f : FLine) : Nat :=
  if !f.v then 0
  else f.seq + (if src then f.recseq else f.rcount % 2 ^ 32) * 2 ^ 32 + f.off * 2 ^ 64 + f.len * 2 ^ 92 +
    (if src then f.bwin * 2 ^ 103 else b2n f.refreshed * 2 ^ 108) + f.pidx * 2 ^ 109 + f.peer * 2 ^ 115 + f.x * 2 ^ 124 + b2n f.lapsed * 2 ^ 125 +
    b2n f.batch * 2 ^ 126 + 2 ^ 127

/-- A TLB entry (R380). -/
def tlbWord (e : Tlb) : Nat :=
  e.ppn * 2 ^ 16 + e.vpn * 2 ^ 64 + e.lr * 2 ^ 111 + e.pr * 2 ^ 114 + e.l * 2 ^ 117 + b2n e.pin * 2 ^ 110 + e.size * 2 ^ 125 + 2 ^ 127

/-- A reverse-map entry (R381). -/
def reverseWord (e : Line) : Nat := e.pa / 64 + e.va / 2 ^ 13 * 2 ^ 34 + 2 ^ 127

/-- The eight bytes at `o` of an entry of 16 bytes. -/
def half (w o : Nat) : Nat := bits w (64 * (o / 8 % 2)) 64

/-! ### Lease blocks (R377, R379) -/

def leaseWord (r : Range) : Nat := r.lo + r.len / 65536 * 2 ^ 64 + r.rights * 2 ^ 96 + b2n r.v * 2 ^ 103
def grantWord (r : Range) : Nat := r.lo + r.len / 64 * 2 ^ 64 + b2n r.v * 2 ^ 96
def noRange : Range := ⟨0, 0, 0, false⟩

/-- A range from a written lease entry, or from a grant entry, whose rights stay (R379). -/
def leaseOf (w : Nat) : Range := ⟨bits w 16 40 * 65536, bits w 64 32 * 65536, bits w 96 3, bit w 103⟩
def grantOf (old : Range) (w : Nat) : Range := ⟨bits w 6 22 * 64, bits w 64 22 * 64, if old.v then old.rights else 3, bit w 96⟩

def State.leaseReg (s : State) (l o : Nat) : Nat :=
  let e := s.lease l
  if o < 0x400 then half (leaseWord (e.leases.getD (o / 16) noRange)) o
  else if o < 0x410 then half (leaseWord (e.text.getD noRange)) o
  else if 0x480 ≤ o ∧ o < 0x500 then half (grantWord (e.grants.getD ((o - 0x480) / 16) noRange)) o
  else if o = 0x500 then e.mbxLo + e.mbxLen * 2 ^ 32
  else if o = 0x600 then e.root * 2 ^ 13 + b2n e.rootV * 2 ^ 63
  else if o = 0x610 then e.saveBase
  else if o = 0x618 then e.fcnt
  else if 0x8000 ≤ o then match e.touched.find? fun p => p.1 == (o - 0x8000) / 8 with | some p => p.2.1 + b2n p.2.2 * 2 ^ 62 + 2 ^ 63 | none => 0
  else 0

/-- `l` with place `i` set, padded with `d`. -/
def setAt {α : Type} (d : α) (i : Nat) (v : α) (l : List α) : List α := (l ++ List.replicate (i + 1 - l.length) d).set i v

def halfPut (old o v : Nat) : Nat := putBits old (64 * (o / 8 % 2)) 64 v

def State.putLeaseReg (s : State) (l o v : Nat) : State :=
  s.modLease l fun e =>
    if o < 0x400 then
      let r := leaseOf (halfPut (leaseWord (e.leases.getD (o / 16) noRange)) o v)
      if r.v ∧ r.len = 0 then e else { e with leases := setAt noRange (o / 16) r e.leases }
    else if o < 0x410 then
      let r := leaseOf (halfPut (leaseWord (e.text.getD noRange)) o v)
      if r.v ∧ r.len = 0 then e else { e with text := some r }
    else if 0x480 ≤ o ∧ o < 0x500 then
      let old := e.grants.getD ((o - 0x480) / 16) noRange
      let r := grantOf old (halfPut (grantWord old) o v)
      if r.v ∧ r.len = 0 then e else { e with grants := setAt noRange ((o - 0x480) / 16) r e.grants }
    else if o = 0x500 then { e with mbxLo := bits v 0 32, mbxLen := bits v 32 32 }
    else if o = 0x600 then { e with root := bits v 13 43, rootV := bit v 63 }
    else if o = 0x610 then { e with saveBase := v }
    else if o = 0x618 then { e with fcnt := v }
    else if 0x8000 ≤ o then
      let i := (o - 0x8000) / 8
      let rest := e.touched.filter fun p => p.1 != i
      { e with touched := if bit v 63 then rest ++ [(i, v % 2 ^ 40, bit v 62)] else rest }
    else e

/-! ### Counter sets, capture and trace (R398 to R404) -/

def Counters.reg (k : Counters) (o : Nat) : Nat :=
  let i := o / 8
  if o < 0x40 then (Table.get 0#64 i k.sel).toNat
  else if o < 0x80 then Table.get 0 (i - 8) k.pc
  else if o < 0x140 then Table.get 0 (i - 16) k.tlc
  else if o < 0x1A0 then Table.get 0 (i - 40) k.hist
  else if o = 0x1A0 then k.capBase
  else if o = 0x1A8 then b2n k.capEn + k.capIval * 2 + k.capSz * 2 ^ 32
  else if o = 0x1B0 then k.capIdx
  else if 0x1C0 ≤ o then half (Table.get 0#128 ((o - 0x1C0) / 16) k.watch).toNat o
  else 0

def Counters.putReg (k : Counters) (o v : Nat) : Counters :=
  let i := o / 8
  if o < 0x40 then
    let old := (Table.get 0#64 i k.sel).toNat
    if 22 ≤ bits v 0 8 then k
    else { k with sel := Table.set i (BitVec.ofNat 64 ((v &&& 0x1FF01FF) ||| if bit v 25 then 0 else bits old 25 1 * 2 ^ 25)) k.sel }
  else if o < 0x80 then { k with pc := Table.set (i - 8) (v % 2 ^ 48) k.pc }
  else if o < 0x140 then { k with tlc := Table.set (i - 16) (v % 2 ^ 48) k.tlc }
  else if o < 0x1A0 then { k with hist := Table.set (i - 40) (v % 2 ^ 48) k.hist }
  else if o = 0x1A0 then { k with capBase := bits v 7 49 * 128 }
  else if o = 0x1A8 then
    if (bit v 0 ∧ bits v 1 15 = 0) ∨ bits v 32 5 < 4 ∨ 16 < bits v 32 5 then k
    else { k with capEn := bit v 0, capIval := bits v 1 15, capSz := bits v 32 5 }
  else if 0x1C0 ≤ o then
    let n := (o - 0x1C0) / 16
    { k with watch := Table.set n (BitVec.ofNat 128 (halfPut (Table.get 0#128 n k.watch).toNat o v % 2 ^ 101)) k.watch }
  else k

def traceReg (q : Core) (o : Nat) : Nat :=
  if o = 0 then q.trState + b2n q.trXarm * 4 + q.trPost * 2 ^ 32
  else if o = 8 then q.trBase
  else if o = 0x10 then q.trIdx
  else q.trigClk

/-! ### The device counter block and completion counters (R394, R396) -/

def State.counterBlock (s : State) (o : Nat) : Nat :=
  let d := s.dev
  let die := fun i => Table.get ({} : Die) i d.dies
  if o = 0 then wrap 32 d.trim
  else if o = 8 then d.ppsCap
  else if o = 0x10 then d.ppsClk
  else if o = 0x18 then d.ppsCnt
  else if o = 0x20 then b2n d.xBken * 2 + b2n d.xFired * 4
  else if o = 0x40 then d.ecnt
  else if 0x48 ≤ o ∧ o < 0x68 then (die ((o - 0x48) / 8)).ecnt
  else if 0x80 ≤ o ∧ o < 0xA0 then let e := die ((o - 0x80) / 8); e.eold + e.stress * 2 ^ 16 + e.hot * 2 ^ 32
  else 0

def levelWord (l : List Level) (o : Nat) : Nat :=
  match l[o / 16]? with
  | some e => if o % 16 = 0 then (if e.open_ = 0 then 0 else e.open_ + b2n e.canc * 2 ^ 62 + 2 ^ 63) else e.num
  | none => 0

def State.completionReg (s : State) (c o : Nat) : Nat :=
  let h := s.hctx c
  if o < 0x1000 then levelWord h.launches o
  else if o < 0x2000 then levelWord h.graphs (o - 0x1000)
  else if o < 0x2400 then levelWord h.phases (o - 0x2000)
  else if o < 0x2440 then levelWord h.jobs (o - 0x2400)
  else 0

/-! ### Queue and channel blocks (R351, R371) -/

def State.queueReg (s : State) (q r : Nat) : Nat :=
  let k := s.subq q
  let h := s.hctx k.ctx
  if r = 0 then k.base
  else if r = 1 then k.cbase
  else if r = 2 then k.sz * 2 ^ 16 + b2n k.iclass * 2 ^ 22 + b2n k.en * 2 ^ 23 + k.ctx * 2 ^ 24 + k.t1lim * 2 ^ 32 + k.t2lim * 2 ^ 48
  else k.head + b2n (!k.pkts.isEmpty) * 2 ^ 49 + k.rung * 2 ^ 50 + k.hold * 2 ^ 52 + b2n h.barred * 2 ^ 55 + h.guilt * 2 ^ 56

def State.chan (s : State) (m : Nat) : Chan := Table.get {} m s.sched.chans
def State.modChan (s : State) (m : Nat) (f : Chan → Chan) : State :=
  s.modSched fun q => { q with chans := Table.set m (f (Table.get {} m q.chans)) q.chans }

def chanReg (k : Chan) (r : Nat) : Nat :=
  if r = 0 then k.base
  else if r = 1 then k.rbase
  else if r = 2 then k.ctx + b2n k.admin * 2 ^ 8 + k.sz * 2 ^ 16 + b2n k.en * 2 ^ 23
  else if r = 4 then k.head
  else if r = 5 then k.rtail
  else if r = 6 then k.rhead
  else if r = 7 then k.drop * 2 ^ 32
  else 0

/-! ### Reading the control space (R374, R375, R393, R432) -/

def fabcfg (d : Dev) : Nat := d.xs + d.ys * 2 ^ 8 + d.zs * 2 ^ 16 + d.portUp * 2 ^ 24 + d.devno * 2 ^ 32
def apstat (d : Dev) : Nat := b2n d.caln + b2n d.call6 * 2 + b2n d.cfgok * 4 + b2n d.active * 8
def rtctl (d : Dev) : Nat := d.rtInj + Table.get 0 0 d.occ % 65536 * 2 ^ 16 + Table.get 0 1 d.occ % 65536 * 2 ^ 32

/-- The thread whose home a slot of this device is, wherever it runs (R37, R50). -/
def State.homed (s : State) (c h : Nat) : Option Thread :=
  let mine := fun (t : Thread) => t.hdev == s.dev.devno && t.hcore == c && t.hslot == h
  (s.allThreads.find? mine).or ((s.sched.abroad.find? fun p => mine p.2).map Prod.snd)

/-- The control part of a slot (R376): its snapshot fields are those of the thread whose home the slot is (R50). -/
def State.slotControl (s : State) (c h i : Nat) : Nat :=
  let t := s.thread c h
  controlWord { t with snap := match s.homed c h with | some u => u.snap | none => if t.st = .empty then t.snap else {} } i

/-- A control part of an EMPTY slot with word `i` written (R375, R376). -/
def putControl (t : Thread) (i v : Nat) : Thread :=
  if i = 0 then { t with tseq := bits v 48 16, acc := bits v 32 16, cr := bits v 8 2, x := bits v 7 1 }
  else if i = 1 then { t with rs := v }
  else if i = 3 then { t with mem := if bit v 63 then some { rope := bits v 0 10, idx := bits v 16 12, dev := bits v 32 15 } else none }
  else if i = 4 then { t with killPc := BitVec.ofNat 64 v }
  else if i = 5 then { t with snap := { t.snap with pc := BitVec.ofNat 64 v } }
  else if 6 ≤ i ∧ i < 14 then { t with snap := { t.snap with k := Table.set (i - 6) (BitVec.ofNat 64 v) t.snap.k } }
  else if i = 14 then { t with snap := { t.snap with sp := BitVec.ofNat 64 v } }
  else if i = 15 then { t with snap := { t.snap with pred := BitVec.ofNat 16 v ||| 1, depth := bits v 16 16 } }
  else if i = 16 then { t with snap := { t.snap with sc := bits v 0 16, oc := bits v 16 24 } }
  else t

/-- The word at offset `b` of the block of core `c`. -/
def State.coreBlock (s : State) (c b : Nat) : Nat :=
  let q := s.core c
  let two := fun (t : Table (BitVec 32)) (o : Nat) => (Table.get 0#32 (o / 4) t).toNat + (Table.get 0#32 (o / 4 + 1) t).toNat * 2 ^ 32
  if b < 0x10000 then contextWord (s.thread c (b / 256)) (b % 256 / 8)
  else if b < 0x20000 then s.slotControl c ((b - 0x10000) / 256) (b % 256 / 8)
  else if b < 0x20400 then match q.locks[(b - 0x20000) / 16]? with | some l => half (lockWord l) b | none => 0
  else if b < 0x20800 then half (lineWord true (Table.get {} ((b - 0x20400) / 16) q.src)) b
  else if b < 0x20C00 then half (lineWord false (Table.get {} ((b - 0x20800) / 16) q.sub)) b
  else if b < 0x22000 then two (s.ctx c 0).kmap (b - 0x21000)
  else if b < 0x23000 then two (s.ctx c 1).kmap (b - 0x22000)
  else if b < 0x32000 then s.coreReg c 0 (0x100 + (b - 0x30000) / 8)
  else if b < 0x33800 then (if 8 ≤ (b - 0x32000) / 8 then s.coreReg c 1 (0x100 + (b - 0x32000) / 8) else 0)
  else if b = 0x40000 then s.dev.clock % 2 ^ 64
  else if 0x40100 ≤ b ∧ b < 0x40500 then (s.ctx c ((b - 0x40100) / 0x200)).cnt.reg ((b - 0x40100) % 0x200)
  else if 0x41000 ≤ b then traceReg q (b - 0x41000)
  else 0

/-- The word at offset `b` of the block of cluster `k`. -/
def State.clusterBlock (s : State) (k b : Nat) : Nat :=
  let p := s.cluster k
  if b < 0x10000 then
    match p.tlb.find? fun e => tlbSet e == b / 128 && e.way == b / 16 % 8 with | some e => half (tlbWord e) b | none => 0
  else if b < 0x30000 then
    let j := (b - 0x10000) / 0x4000
    let set := (b - 0x10000) % 0x4000 / 128
    match (s.core (coreOf k j)).l1d.find? fun e => e.va / 64 % 128 == set && e.way == b / 16 % 8 with | some e => half (reverseWord e) b | none => 0
  else if b < 0x40800 then s.clusterReg k (0x400 + (b - 0x40000) / 8)
  else p.inval

/-- The word at offset `b` of the device part. -/
def State.deviceBlock (s : State) (b : Nat) : Nat :=
  let d := s.dev
  let four := fun (i : Nat) => (Table.get 0#16 i d.routes).toNat
  if b < 0x1800 then s.devReg (0x500 + b / 8)
  else if b = 0x8000 then rtctl d
  else if 0x10000 ≤ b ∧ b < 0x20000 then s.queueReg ((b - 0x10000) / 0x40) (b % 0x40 / 8 % 4)
  else if 0x100000 ≤ b ∧ b < 0x1100000 then s.leaseReg ((b - 0x100000) / 0x10000) (b % 0x10000)
  else if 0x2000000 ≤ b ∧ b < 0x2008000 then
    let i := (b - 0x2000000) / 2
    four i + four (i + 1) * 2 ^ 16 + four (i + 2) * 2 ^ 32 + four (i + 3) * 2 ^ 48
  else if 0x3000000 ≤ b ∧ b < 0x3010000 then (if (b - 0x3000000) / 8 % 8 < 6 then s.ropeReg ((b - 0x3000000) / 64) ((b - 0x3000000) / 8 % 8) else 0)
  else if 0x4000000 ≤ b ∧ b < 0x4010000 then ofBytes (slice d.cfgBytes (b - 0x4000000) 8)
  else if 0x4010000 ≤ b ∧ b < 0x4010080 then
    let role := fun i => match d.roles[i]? with | some r => rowOf r.1 + colOf r.1 * 2 ^ 8 + r.2.1 * 2 ^ 16 + r.2.2 * 2 ^ 24 | none => 0
    role ((b - 0x4010000) / 4) + role ((b - 0x4010000) / 4 + 1) * 2 ^ 32
  else if 0x5000000 ≤ b ∧ b < 0x5000100 then s.counterBlock (b - 0x5000000)
  else if 0x5010000 ≤ b ∧ b < 0x5410000 then s.completionReg ((b - 0x5010000) / 0x4000) ((b - 0x5010000) % 0x4000)
  else if 0x6000000 ≤ b ∧ b < 0x6000100 then half (Table.get 0#128 ((b - 0x6000000) / 16) s.sched.apert).toNat b
  else if 0x6001000 ≤ b ∧ b < 0x6001100 then half (Table.get 0#128 ((b - 0x6001000) / 16) s.sched.hostWin).toNat b
  else if b = 0x6002000 then fabcfg d
  else if b = 0x6003000 then apstat d
  else if b = 0x6004000 then d.bootState + d.bootCode * 2 ^ 8
  else if 0x6005000 ≤ b ∧ b < 0x6005040 then bits s.sched.ishare.toNat (8 * (b - 0x6005000)) 64
  else if 0x6008000 ≤ b ∧ b < 0x6008200 then chanReg (s.chan ((b - 0x6008000) / 0x40)) (b % 0x40 / 8)
  else if 0x8000000 ≤ b ∧ b < 0x9000000 then s.word (bootKey (b - 0x8000000)) 8
  else 0

/-- The aligned 8-byte word of the control space at an address. -/
def State.ctlWord (s : State) (a : Nat) : Nat :=
  let o := a - 0x00FF000000000000
  if o < 0x20000000 then s.coreBlock (o / 0x100000) (o % 0x100000)
  else if o < 0x200000000 then s.clusterBlock ((o - 0x100000000) / 0x100000) (o % 0x100000)
  else s.deviceBlock (o - 0x200000000)

/-- Bytes of the control space. -/
def State.ctlBytes (s : State) (a n : Nat) : List Byte :=
  let w := (List.range ((a % 8 + n + 7) / 8)).flatMap fun i => toBytes 8 (s.ctlWord (a / 8 * 8 + 8 * i))
  slice w (a % 8) n

/-! ### Tables in reserved base-camp memory (R384 to R386) -/

/-- A rope member entry (R386). -/
def memberWord (m : RMem) : Nat :=
  m.thid % 2 ^ 32 + m.weight * 2 ^ 32 + b2n m.dead * 2 ^ 59 + b2n m.kd * 2 ^ 60 + b2n m.kp * 2 ^ 61 + b2n m.cnt * 2 ^ 62 + b2n m.j * 2 ^ 63

/-- A token-directory entry (R384). -/
def tokenWord (k : Token) : Nat :=
  (if k.inward then k.lcopy / 2 ^ 21 * 2 ^ 21 + k.l * 2 ^ 117 + 2 ^ 126 else 0) + k.region * 2 ^ 68 + k.peer * 2 ^ 102 + b2n k.busy * 2 ^ 125 + 2 ^ 127

/-- An aligned word of base-camp memory where it shows a table: the token directory, a rope's member table, or an unused place (R385). -/
def State.campTable (s : State) (o : Nat) : Option Nat :=
  let d := o / 0x4000000
  let b := o % 0x4000000
  if d = 0 ∧ 0x3680000 ≤ b ∧ b < 0x36C0000 then
    some (match s.sched.tokens.find? fun k => k.region % 4096 == (b - 0x3680000) / 64 && k.way == b / 16 % 4 with
      | some k => half (tokenWord k) b
      | none => 0)
  else if 0x3700000 ≤ b ∧ b < 0x3F00000 then
    some (match (s.rope (256 * d + (b - 0x3700000) / 0x8000)).mem.find? fun p => p.1 == (b - 0x3700000) % 0x8000 / 8 with
      | some m => memberWord m.2
      | none => 0)
  else if 0x3500000 ≤ b ∧ b < 0x3700000 ∧ (d ≠ 0 ∨ 0x36C0000 ≤ b) then some 0
  else none

/-- Bytes of base-camp memory as a load sees them (R385). -/
def State.campBytes (s : State) (o n : Nat) : List Byte :=
  (List.range n).map fun i => match s.campTable ((o + i) / 8 * 8) with
    | some w => BitVec.ofNat 8 (w / 256 ^ ((o + i) % 8))
    | none => s.byte (campKey (o + i))

/-- The channel whose MSTAT the bytes read, which the read then clears (R371). -/
def mstatOf (a n : Nat) : Option Nat :=
  (List.range 8).find? fun m => overlap a n (0x00FF000206008000 + 0x40 * m + 0x3C) 4

/-! ### Writing the control space -/

/-- The step that a write of an aligned word stands for, where the write has a row of its own (R352, R361, R351, R371, R71, R394, R403,
R375, R67, R137, R387, R441). -/
def ctlEvent (a : Nat) (v : Word) : Option Event :=
  let o := a - 0x00FF000000000000
  let b := o % 0x100000
  if o < 0x20000000 then
    let c := o / 0x100000
    let bg := fun x => some (⟨.bgWrite, { c := c, x := x, n := (b % 0x2000) / 8 - 0x20, v := v }⟩ : Event)
    if b = 0x3F000 then some ⟨.wake, { c := c }⟩
    else if 0x30100 ≤ b ∧ b < 0x30180 then bg 0
    else if 0x32100 ≤ b ∧ b < 0x32180 then bg 1
    else if b = 0x41000 then
      let arg : Arg := { c := c, v := v }
      some ⟨match bits v.toNat 0 2 with | 0 => .traceOff | 1 => .traceStart | 2 => .traceStop | _ => .traceStopped, arg⟩
    else none
  else if o < 0x200000000 then none
  else
    let d := o - 0x200000000
    if d = 8 then some ⟨.dtstepWrite, { v := v }⟩
    else if d = 0x8000 then some ⟨.rtctlInjWrite, { v := v }⟩
    else if 0x10000 ≤ d ∧ d < 0x20000 ∧ d % 0x20 = 0x10 ∧ d % 0x40 < 0x20 then some ⟨.qcfgWrite, { n := (d - 0x10000) / 0x40, v := v }⟩
    else if d = 0x20000 then some ⟨.kick, { v := v }⟩
    else if d = 0x20008 then some ⟨.gclr, { v := v }⟩
    else if 0x2000000 ≤ d ∧ d < 0x2008000 then some ⟨.routingBankWrite, { n := (d - 0x2000000) / 2, v := v, m := 4 }⟩
    else if d = 0x5000020 ∧ bit v.toNat 0 then some ⟨.xtrigPulse, { v := v }⟩
    else if d = 0x5000020 ∧ bit v.toNat 2 then some ⟨.xtrigFiredClear, { v := v }⟩
    else if d = 0x6004008 then some ⟨.bootgo, {}⟩
    else if 0x6008000 ≤ d ∧ d < 0x6008200 then
      let m := (d - 0x6008000) / 0x40
      match d % 0x40 with
      | 0x10 => some ⟨.mcfgWrite, { m := m, v := v }⟩
      | 0x18 => some ⟨.mqtail, { m := m, v := v }⟩
      | 0x30 => some ⟨.mrheadWrite, { m := m, v := v }⟩
      | _ => none
    else none

/-- `s` after a register write, or `s` where the write breaks a limit (R54). -/
def State.orSame (s : State) : Wrote → State
  | .ok r => r
  | .error _ => s

/-- The state after a write of an aligned word that has no row of its own; `host` where the host wrote it (R374, R375, R393, R432). -/
def State.ctlPut (s : State) (a v : Nat) (host : Bool) : State :=
  let o := a - 0x00FF000000000000
  let b := o % 0x100000
  if o < 0x20000000 then
    let c := o / 0x100000
    if b < 0x10000 then
      let h := b / 256
      let t := s.thread c h
      if t.st = .empty then
        let bs := contextBytes t
        s.setThread c h (contextThread t (bs.take (b % 256) ++ toBytes 8 v ++ bs.drop (b % 256 + 8)))
      else s
    else if b < 0x20000 then
      let h := (b - 0x10000) / 256
      if (s.thread c h).st = .empty then s.modThread c h fun t => putControl t (b % 256 / 8) v else s
    else if 0x30000 ≤ b ∧ b < 0x31800 then s.orSame (s.putCoreReg c 0 (0x100 + (b - 0x30000) / 8) v)
    else if 0x32040 ≤ b ∧ b < 0x33800 then s.orSame (s.putCoreReg c 1 (0x100 + (b - 0x32000) / 8) v)
    else if 0x40100 ≤ b ∧ b < 0x40500 then
      s.modCtx c ((b - 0x40100) / 0x200) fun k => { k with cnt := k.cnt.putReg ((b - 0x40100) % 0x200) v }
    else if b = 0x41008 then
      s.modCore c fun q => if q.trState = 1 ∨ q.trState = 2 then q else { q with trBase := bits v 17 39 * 2 ^ 17 }
    else s
  else if o < 0x200000000 then
    let k := (o - 0x100000000) / 0x100000
    if 0x40000 ≤ b ∧ b < 0x40800 then s.orSame (s.putClusterReg k (0x400 + (b - 0x40000) / 8) v) else s
  else
    let d := o - 0x200000000
    if d < 0x1800 then s.orSame (s.putDevReg (0x500 + d / 8) v)
    else if 0x10000 ≤ d ∧ d < 0x20000 then
      let q := (d - 0x10000) / 0x40
      let k := s.subq q
      if k.en ∨ !k.pkts.isEmpty ∨ v % 64 ≠ 0 then s
      else if d % 0x40 = 0 then s.modSubq q fun k => { k with base := v }
      else if d % 0x40 = 8 then s.modSubq q fun k => { k with cbase := v }
      else s
    else if 0x100000 ≤ d ∧ d < 0x1100000 then s.putLeaseReg ((d - 0x100000) / 0x10000) (d % 0x10000) v
    else if 0x3000000 ≤ d ∧ d < 0x3010000 ∧ (d - 0x3000000) / 8 % 8 < 6 then
      s.orSame (s.putRopeReg ((d - 0x3000000) / 64) ((d - 0x3000000) / 8 % 8) v)
    else if d = 0x5000000 then
      let t := sInt 32 v
      if t < -(2 ^ 23) ∨ 2 ^ 23 < t then s else s.modDev fun e => { e with trim := t }
    else if d = 0x5000020 then s.modDev fun e => { e with xBken := bit v 1 }
    else if 0x6000000 ≤ d ∧ d < 0x6000100 then
      if host then s
      else
        let i := (d - 0x6000000) / 16
        s.modSched fun q => { q with apert := Table.set i (BitVec.ofNat 128 (halfPut (Table.get 0#128 i q.apert).toNat d v &&&
          0x00FFFFFFFFFFF000F0000000000000FF)) q.apert }
    else if 0x6001000 ≤ d ∧ d < 0x6001100 then
      let i := (d - 0x6001000) / 16
      let w := halfPut (Table.get 0#128 i s.sched.hostWin).toNat d v
      if host ∨ bits w 59 2 = 3 ∨ 16777216 < bits w 8 25 then s
      else s.modSched fun q => { q with hostWin := Table.set i (BitVec.ofNat 128 (w &&& 0xFFFFFFFFFFFFF000F8000001FFFFFFFF)) q.hostWin }
    else if d = 0x6002000 then
      let x := bits v 0 6
      let y := bits v 8 5
      let z := bits v 16 5
      if s.dev.portUp ≠ 0 ∨ x < 1 ∨ 32 < x ∨ y < 1 ∨ 16 < y ∨ z < 1 ∨ 16 < z then s
      else s.modDev fun e => { e with xs := x, ys := y, zs := z, devno := bits v 32 15 }
    else if 0x6005000 ≤ d ∧ d < 0x6005040 then
      s.modSched fun q => { q with ishare := BitVec.ofNat 512 (putBits q.ishare.toNat (8 * (d - 0x6005000)) 64 v) }
    else if 0x6008000 ≤ d ∧ d < 0x6008200 then
      let m := (d - 0x6008000) / 0x40
      if (s.chan m).en ∨ v % 64 ≠ 0 then s
      else if d % 0x40 = 0 then s.modChan m fun k => { k with base := v }
      else if d % 0x40 = 8 then s.modChan m fun k => { k with rbase := v }
      else s
    else if 0x8000000 ≤ d ∧ d < 0x9000000 then s.put (bootKey (d - 0x8000000)) (toBytes 8 v)
    else s

/-- Bits that a write of part of a word must leave out of the merge, since writing 1 to them acts (R4). -/
def actBits (a : Nat) : Nat :=
  let o := a - 0x00FF000000000000
  let b := o % 0x100000
  if o < 0x20000000 then
    if 0x30100 ≤ b ∧ b < 0x30180 ∨ 0x32100 ≤ b ∧ b < 0x32180 then 2 ^ 30
    else if 0x40100 ≤ b ∧ b < 0x40500 ∧ (b - 0x40100) % 0x200 < 0x40 then 2 ^ 25 else 0
  else if o = 0x205000020 then 4 else 0

/-- Bytes written to the control space: one aligned word after another, each as the step it stands for or at once. -/
def State.ctlWrite (s : State) (host : Bool) (a : Nat) (bs : List Byte) : State :=
  (List.range ((a % 8 + bs.length + 7) / 8)).foldl (fun s i =>
    let w := a / 8 * 8 + 8 * i
    let old := s.ctlWord w
    let keep := toBytes 8 (old - (old &&& actBits w))
    let v := ofBytes (keep.mapIdx fun j x => if a ≤ w + j ∧ w + j < a + bs.length then bs.getD (w + j - a) 0 else x)
    match ctlEvent w (BitVec.ofNat 64 v) with
    | some e => { s with agenda := s.agenda ++ [{ e with arg := { e.arg with ok := host } }] }
    | none => s.ctlPut w v host) s

end Sys2Proof.Machine
end

