-- ==== Sys2Proof/Machine/Engine.lean ====
section
/-! DEFINITION. Engine commands in general: ports, checks, range locks, holds on tiles and accumulators, completion, cancel and faults
(R300 to R306, R341 to R343). -/

namespace Sys2Proof.Machine

/-! ### Ports (R341) -/

/-- Entries, entries kept for the interactive context, and commands running at once, of ports 0 tile, 1 macro sequencer, 2 epilogue, 3 copy,
4 send. -/
def portSize (e : Nat) : Nat := if e < 3 then 16 else if e = 3 then 64 else 32
def portKept (e : Nat) : Nat := if e < 3 then 2 else if e = 3 then 8 else 4
def portRuns (e : Nat) : Nat := if e < 2 then 1 else if e = 2 then 2 else if e = 3 then 8 else 4

/-- A port has an entry within the context's part. -/
def portFree (k : Core) (e x : Nat) : Bool :=
  let n := (k.cmds.filter fun m => m.eng == e && m.x == x && !m.running).length
  decide (n < if k.share then (if x = 0 then portSize e - portKept e else portKept e) else portSize e)

/-! ### Checks at issue (R300, R302, R304) -/

def mxGate : Ex Unit := do if (← get).cur.mx then pure () else trapWord 0x1C

/-- A command that writes outside the scratchpad (R304). -/
def outsideGate (va : Word) : Ex Unit := do
  let s ← get
  let t := s.cur
  if t.timed ∧ ¬ t.serial ∧ ¬ s.isHead t then trap 0x1A va
  else if t.mem.isSome then trap 0x19 va else pure ()

/-- Tiles of the context's share (R48). -/
def tileGate (n : Nat) : Ex Unit := do
  let s ← get
  if shareOk (s.core s.latch.core).share s.cur.x n 14 then pure () else trap 0x12 (BitVec.ofNat 64 n)

def accShare (k : Core) (x n : Nat) : Bool := shareOk k.share x n 3

def accGate (n : Nat) : Ex Unit := do
  let s ← get
  if accShare (s.core s.latch.core) s.cur.x n then pure () else trap 0x12 (BitVec.ofNat 64 n)

def Core.tile (k : Core) (n : Nat) : Tile := Table.get {} n k.tiles
def Core.acc (k : Core) (n : Nat) : Acc := Table.get {} n k.accs
def Core.modTile (k : Core) (n : Nat) (f : Tile → Tile) : Core := { k with tiles := Table.set n (f (k.tile n)) k.tiles }
def Core.modAcc (k : Core) (n : Nat) (f : Acc → Acc) : Core := { k with accs := Table.set n (f (k.acc n)) k.accs }

/-- A command in flight fills the tile: `tld` or `tzero`. -/
def fills (n : Nat) (m : Cmd) : Bool := match m.ins with
  | .tld .. | .tzero .. => m.tiles.contains n
  | _ => false

/-- The tile is held by a command (R45, R305). -/
def idleTile (n : Nat) : Ex Unit := do
  let s ← get
  if ((s.core s.latch.core).tile n).busy = 0 then pure () else trap 6 (BitVec.ofNat 64 n)

/-- Elements per row of a tile (R309). -/
def tileK (t : Tile) : Nat := t.rowb * 256 / (fmtTy t.fmt).width
def blkOf (b : Nat) : Nat := if b = 1 then 32 else 128

/-- An empty tile, or a scaled one without scales that no command in flight fills, is refused (R305, R310, R313). -/
def Core.tileReady (k : Core) (n : Nat) : Bool :=
  let t := k.tile n
  t.nrows != 0 && t.rowb != 0 && (!fmtScaled t.fmt || t.scv || k.cmds.any (fills n))

/-! ### Issue -/

/-- The range-lock entry of a command. -/
structure Want where
  dst : Bool
  lo : Nat
  hi : Nat
deriving DecidableEq, Repr

/-- The lowest and highest byte of ranges. -/
def hull (l : List (Nat × Nat)) : Option (Nat × Nat) :=
  l.foldl (fun a r => if r.2 = 0 then a else match a with
    | none => some (r.1, r.1 + r.2 - 1)
    | some (lo, hi) => some (min lo r.1, max hi (r.1 + r.2 - 1))) none

def wantOf (dst : Bool) (l : List (Nat × Nat)) : List Want := match hull l with | some (lo, hi) => [⟨dst, lo, hi⟩] | none => []

/-- A command issues (R302, R342): it takes its range-lock entries and its port entry, or the thread parks; it captures FPC and, in SR, a
seed; `f` fills in what it does. -/
def issueCmd (eng : Nat) (ins : Instr) (q : Tail) (ws : List Want) (f : Cmd → Cmd) : Ex Unit := do
  let s ← get
  let k := s.core s.latch.core
  let x := s.cur.x
  if 64 < k.locks.length + ws.length ∨ ¬ portFree k eng x then park 5 else pure ()
  let _ ← if fpcRM s.pre.fpc = 5 then drawMany 1 else pure []
  modify fun s =>
    let t := s.cur
    let m := f { id := s.nextOp, eng := eng, core := s.latch.core, slot := s.latch.slot, x := x, ts := q.t.toNat, ns := q.n == 1#1, tseq := t.tseq
                 fpc := s.pre.fpc, seed := t.srst, ins := ins, a := 0, b := 0, thid := thidOf t, pc := t.pc, ws := q.w.toNat, stores := t.buf.length }
    let s := s.modCore s.latch.core fun k =>
      let k := { k with cmds := k.cmds ++ [m], locks := k.locks ++ ws.map fun w => ⟨m.id, w.dst, x, eng, s.latch.slot, w.lo, w.hi⟩ }
      m.tiles.foldl (fun k n => k.modTile n fun t => { t with busy := t.busy + 1 }) k
    { s with nextOp := s.nextOp + 1 }

/-! ### Running commands -/

def Cmd.n (m : Cmd) (i : Nat) : Nat := m.args.getD i 0
def Cmd.int (m : Cmd) (i : Nat) : Int := sInt 32 (m.n i)

/-- The trip count (R314): a loop register's value where LCEN is 1, else 1. -/
def State.trips (s : State) (m : Cmd) (eng lcen lc : Nat) : Nat :=
  if lcen = 1 then (Table.get 0#32 (8 * eng + lc) (s.ctx m.core m.x).lc).toNat else 1

/-- A page of 64 KiB lies in a range of a faultable copy in flight. -/
def Cmd.usesPage (m : Cmd) (page : Nat) : Bool := match m.ins with
  | .cpyf .. => overlap m.a.toNat (m.n 0) (page * 65536) 65536 || overlap m.b.toNat (m.n 0) (page * 65536) 65536
  | _ => false

/-- INUSE of a context's touched pages, set while a faultable copy in flight uses the page (R379). -/
def State.markTouched (s : State) (l : Nat) : State :=
  if (s.lease l).touched.isEmpty then s
  else s.modLease l fun e =>
    { e with touched := e.touched.map fun p => (p.1, p.2.1, s.cores.any fun k => k.2.cmds.any fun m => (s.ctx k.1 m.x).l == l && m.usesPage p.2.1) }

def State.cmd (s : State) (c id : Nat) : Option Cmd := (s.core c).cmds.find? (·.id == id)
def State.setCmd (s : State) (m : Cmd) : State := s.modCore m.core fun k => { k with cmds := k.cmds.map fun p => if p.id = m.id then m else p }

/-- A command ends without completing (R303). -/
def State.stopCmd (s : State) (m : Cmd) : State := (s.modCore m.core fun k => k.freeCmd m).markTouched (s.ctx m.core m.x).l

/-- A command completes (R125, R303): its locks and tiles go, and its thread semaphore rises. -/
def State.finishCmd (s : State) (m : Cmd) : State :=
  let s := (s.stopCmd m).count m.core m.x m.slot 14 1
  let s := s.modThread m.core m.slot fun t => { t with promises := t.promises.filter fun p => p.2 != m.id }
  if m.ns then s
  else s.modThread m.core m.slot fun t => if t.st = .empty then t else { t with ts := Table.set m.ts (min 65535 (Table.get 0 m.ts t.ts + 1)) t.ts }

/-- A command stops with a fault, which its thread takes at its next bundle boundary (R304). -/
def State.faultCmd (s : State) (m : Cmd) (code : Nat) (tval : Word) : State :=
  (s.stopCmd m).modThread m.core m.slot fun t =>
    { t with due := t.due ++ [⟨code, tval, m.pc, false, false, 0, m.id⟩], promises := t.promises.filter fun p => p.2 != m.id }

/-- An entry of an earlier command overlaps one of this command's, and either is a destination (R124). -/
def Core.lockWait (k : Core) (id : Nat) : Bool :=
  (k.locks.filter (·.cmd == id)).any fun l => k.locks.any fun o =>
    decide (o.cmd < id) && (l.dst || o.dst) && overlap l.lo (l.hi + 1 - l.lo) o.lo (o.hi + 1 - o.lo)

/-- The holds of R305: tiles still being filled by other commands, accumulators that earlier commands write, or read. -/
def Core.holdWait (k : Core) (m : Cmd) : Bool :=
  let reads := match m.ins with
    | .tld .. | .tzero .. => []
    | _ => m.tiles
  (reads.any fun n => k.cmds.any fun o => o.id != m.id && fills n o) ||
    k.cmds.any fun o => decide (o.id < m.id) &&
      (m.accR.any (fun n => o.accW.contains n) || m.accW.any fun n => o.eng == 2 && o.accR.contains n)

/-- What a step of a command comes to: done, done as the last one, not yet possible, or a fault. -/
inductive Did where
  | ok (s : State)
  | last (s : State)
  | waits (s : State)
  | fault (s : State) (code : Nat) (tval : Word)

/-- Entries of a command are widened to the ranges given, in their order (R306). -/
def Core.widen (k : Core) (id : Nat) (ws : List Want) : Core :=
  { k with locks := (k.locks.filter (·.cmd != id)) ++ match k.locks.find? (·.cmd == id) with
      | some l => ws.map fun w => { l with dst := w.dst, lo := w.lo, hi := w.hi }
      | none => [] }

/-! ### Engine writes (R126, R128) -/

/-- Pieces of an engine's write to its own scratchpad land, unless the update queue lacks room (R347). -/
def State.engineWrite (s : State) (c : Nat) (ps : List BufStore) : Option State :=
  if !(s.core c).src.isEmpty && !s.landRoom (ps.map fun b => (b.key, b.bytes.length)) then none
  else some (s.landTogether (fun s b => s.lay c b.key (s.merged b)) ps)

/-- The pieces that write elements from data-order index `i`, and their scales from block scales (R81, R121). -/
def Desc.rowPieces (d : Desc) (c i : Nat) (es scs : List Nat) : List BufStore :=
  let va := fun (o : Nat) => BitVec.ofNat 64 (spKey c o)
  let data := if d.width % 8 = 0 ∨ (i % 4 = 0 ∧ es.length % 4 = 0) then runPieces c va (d.packed i es) (d.dataRuns i es.length)
    else es.zipIdx.map fun p => d.piece c va (i + p.2) p.1
  let scale := if d.scaled then
      scs.zipIdx.map fun p => let o := d.scaleAt (i + p.2 * d.blk); (⟨va o, spKey c o, [BitVec.ofNat 8 p.1], [], 0⟩ : BufStore)
    else []
  data ++ scale

/-- TVAL of ECC_UNCORR for a poisoned word and its structure code (R407, R414): the physical address for HBM, else the code above the
word's number. -/
def eccTval (p : Nat × Nat) : Nat := if p.2 = 6 then p.1 else p.2 * 2 ^ 56 + p.1 % 2 ^ 48 / 8

/-- A poisoned word among ranges of keys, as the TVAL of its report. -/
def State.eccIn (s : State) (rs : List (Nat × Nat)) : Option Nat :=
  if s.poison.isEmpty then none else rs.findSome? fun r => (s.poisoned r.1 r.2).map eccTval

/-- Stores that set a wait slot and stand in the commit buffer, among the first `n` of a thread's open task (R125). -/
def Thread.setBy (t : Thread) (w n : Nat) : List BufStore := if w = 0 then [] else (t.buf.take n).filter fun b => b.sb == w

/-- A byte at a key with stores laid over it. -/
def State.under (s : State) (v : List BufStore) (a : Nat) : Byte :=
  v.foldl (fun x b =>
    let k := s.fwd b.key
    if k ≤ a ∧ a < k + b.bytes.length then
      let m := if b.mask.isEmpty then 0xFF#8 else b.mask.getD (a - k) 0
      (b.bytes.getD (a - k) 0 &&& m) ||| (x &&& ~~~m)
    else x) (s.byte a)

/-- The stores that a command sees although they are not performed: those of its own task that set its wait slot (R125). -/
def State.cmdView (s : State) (m : Cmd) : List BufStore :=
  let t := s.thread m.core m.slot
  if t.st = .empty ∨ t.tseq ≠ m.tseq then [] else t.setBy m.ws m.stores

/-- A byte, and bytes, at a key, as a command reads them. -/
def State.cmdByte (s : State) (m : Cmd) (a : Nat) : Byte := s.under (s.cmdView m) a
def State.cmdBytes (s : State) (m : Cmd) (a n : Nat) : List Byte := (List.range n).map fun i => s.cmdByte m (a + i)

/-! ### Operands of own-scratchpad commands (R309, R317) -/

/-- The place that an address names for a converting command (R309, R317): its offset, the descriptor of its window, none for a raw place, and the cause
of the first check of R77 that the address itself fails, which comes after the checks of the operands (R302); other spaces trap PROT. -/
structure OwnPlace where
  o : Nat
  w : Option (BitVec 32)
  late : Option Nat

/-- The format that a place transfers in is known. -/
def OwnPlace.known (p : OwnPlace) : Bool := p.late.isNone || p.w.isSome

def State.ownPlace (s : State) (va : Nat) : OwnPlace :=
  match spaceOf va with
  | none => ⟨0, none, some 0x15⟩
  | some (.own w o) =>
    let d := Table.get 0#32 w s.curCtx.wd
    let hole : Option Nat := if 0x100000 ≤ o then some 0x15 else none
    if w = 0 then ⟨o, none, hole⟩
    else if d.toNat.testBit 31 then ⟨o, some d, hole⟩ else ⟨o, none, some 0x15⟩
  | some (.other d o) => if d = s.latch.core then ⟨o, none, none⟩ else ⟨o, none, some 0x17⟩
  | some sp => ⟨0, none, some (if s.hole s.curCtx sp then 0x15 else 0x17)⟩

/-- The access check of an own-scratchpad place that is made of its address alone (R302 step 5). -/
def OwnPlace.check (p : OwnPlace) (va : Word) : Ex Unit := match p.late with | some k => trap k va | none => pure ()

/-- Checks of byte ranges of the own scratchpad, row by row, in the order of R77 but for the range locks, which bind threads only. -/
def State.rowsErr (s : State) (c x : Nat) (rs : List (Nat × Nat)) : Option (Nat × Nat) :=
  match rs.find? fun r => decide (0x100000 < r.1 + r.2) with
  | some r => some (0x14, r.1)
  | none => match rs.find? fun r => !s.spShare c x r.1 r.2 with
    | some r => some (0x17, r.1)
    | none => none

/-- The ranges checked row by row at issue (R309); a failure traps with the address of the range, `base` being that of offset 0. -/
def checkRows (base : Word) (rows : List (List (Nat × Nat))) : Ex Unit := do
  let s ← get
  match rows.findSome? fun rs => s.rowsErr s.latch.core s.cur.x rs with
  | some (k, o) => trap k (base + BitVec.ofNat 64 o)
  | none => pure ()

/-- A destination that overlaps a subscriber region traps (R131). -/
def subGate (base : Word) (rs : List (Nat × Nat)) : Ex Unit := do
  let s ← get
  match rs.find? fun r => r.2 != 0 && s.subHit s.latch.core r.1 r.2 with
  | some r => trap 0x18 (base + BitVec.ofNat 64 r.1)
  | none => pure ()

/-- Checks of `n` bytes at an own-scratchpad address, aligned; other spaces trap PROT, and range locks bind threads only (R302, R77). -/
def ownCheck (x : Word) (n align : Nat) : Ex Unit := do
  let s ← get
  match s.accessErr s.latch.core s.pre x.toNat (x.toNat + n - 1) align 0 with
  | some 0x15 => trap 0x15 x
  | some 0x14 => trap 0x14 x
  | some 0x13 => trap 0x13 x
  | e => if !isOwn s.latch.core x.toNat then trap 0x17 x else match e with
    | some 0x17 => trap 0x17 x
    | _ => pure ()

/-- The descriptor bytes of a command at an own-scratchpad address (R321, R326). -/
def descBytes (x : Word) (q : Tail) : Ex (List Byte) := do
  ownCheck x 32 32
  let s ← get
  pure ((List.range 32).map fun i => s.under (s.cur.setBy q.w.toNat s.cur.buf.length) (spKey s.latch.core (ownOff x.toNat + i)))

end Sys2Proof.Machine
end

