-- ==== Sys2Proof/Machine/Tile.lean ====
section
/-! DEFINITION. Tile transfers: `tld`, `tst`, `tzero`, `accz` (R307 to R311). -/

namespace Sys2Proof.Machine

/-! ### Shapes (R309) -/

/-- Rows, row length and format of a shape break a limit of R309. -/
def badShape (rows rowb fmt blk : Nat) : Bool :=
  let w := (fmtTy fmt).width
  let k := rowb * 256 / w
  decide (rows = 0 ∨ 64 < rows ∨ rowb = 0 ∨ 8 < rowb) || (w == 6 && rowb != 3 && rowb != 6) ||
    (fmtScaled fmt && (k % blk != 0 || decide (512 < rows * k / blk)))

/-- The tile row that holds elements of width `w`, from the lowest bits (R81). -/
def packRow (w : Nat) (es : List Nat) : Nat := es.foldr (fun e a => e % 2 ^ w + 2 ^ w * a) 0

/-- Element `j` of a tile row. -/
def rowElem (w : Nat) (row : BitVec 2048) (j : Nat) : Nat := bits row.toNat (w * j) w

def Tile.row (t : Tile) (r : Nat) : BitVec 2048 := Table.get 0 r t.rows

/-- The scale of block `j` of row `r` (R309). -/
def Tile.scale (t : Tile) (r j : Nat) : Nat := (Table.get 0 (r * (tileK t / blkOf t.blk) + j) t.side).toNat

/-- The descriptor through which a tile transfer goes: its window's, or a raw view of the tile's format. -/
def Cmd.tileDesc (m : Cmd) (t : Tile) : Desc := if m.wd.toNat.testBit 31 then descOf m.wd else rawDesc t.fmt

/-- What both transfers check of their scratchpad side (R309): the first byte, the alignment, then every row. -/
def transferCheck (va : Word) (d : Desc) (o stride k rows : Nat) : Ex (List (List (Nat × Nat))) := do
  let i := d.index o
  let ranges := (List.range rows).map fun r => d.dataRuns (i + r * stride) k ++ d.scaleRuns (i + r * stride) k
  if d.inScaleLine o then trap 0x15 va else pure ()
  if (ranges.headD []).any fun r => decide (0x100000 < r.1 + r.2) then trap 0x14 va else pure ()
  if !d.onGroup o || (d.scaled && (i % d.blk != 0 || stride % d.blk != 0)) then trap 0x13 va else pure ()
  checkRows (va - BitVec.ofNat 64 o) ranges
  pure ranges

/-- `tld` (R309). -/
def execTld (x y : BitVec 6) (k : BitVec 4) (q : Tail) (s : State) : Host.Outcome State Fault Refusal :=
  runC q.w.toNat (do
    let va ← src x
    let yv ← src y
    let n := k.toNat
    let v := yv.toNat
    let rows := bits v 0 7
    let rowb := bits v 8 4
    let fmt := bits v 24 4
    let stride := bits v 32 20
    let s ← get
    tileGate n
    if v ≠ rows + rowb * 2 ^ 8 + fmt * 2 ^ 24 + stride * 2 ^ 32 then trap 0x12 yv else pure ()
    let p := s.ownPlace va.toNat
    let o := p.o
    let w := p.w
    let d := match w with | some w => descOf w | none => rawDesc fmt
    if rows = 0 ∨ 64 < rows ∨ rowb = 0 ∨ 8 < rowb then trap 0x12 yv else pure ()
    if p.known ∧ ((w.isSome ∧ fmt ≠ 0) ∨ badShape rows rowb d.fmt d.blk) then trap 0x12 yv else pure ()
    if p.known ∧ (s.fmtReserved s.curCtx.ver d.fmt ∨ (w.isNone ∧ fmtScaled fmt)) then trapWord 0x10 else pure ()
    idleTile n
    p.check va
    let kk := rowb * 256 / d.width
    let ranges ← transferCheck va d o stride kk rows
    issueCmd 0 (.tld x y k q) q (wantOf false ranges.flatten) fun m =>
      { m with a := va, b := yv, wd := w.getD 0, tiles := [n], args := [n, d.index o, stride, kk], steps := rows }
    modCurCore fun c => c.modTile n fun t =>
      { t with fmt := d.fmt, rowb := rowb, nrows := rows, scv := false, blk := if d.blk = 32 then 1 else 0 }) s

/-- One step of `tld`: a row and its scales; SCV is set with the last one (R309). -/
def State.tldStep (s : State) (m : Cmd) : Did :=
  let n := m.n 0
  let t := (s.core m.core).tile n
  let d := m.tileDesc t
  let r := m.step
  let i := m.n 1 + r * m.n 2
  let rd := fun o => s.cmdByte m (spKey m.core o)
  let es := (List.range (m.n 3)).map fun j => d.get rd (i + j)
  let nb := m.n 3 / d.blk
  let side := if d.scaled then (List.range nb).foldl (fun a j => Table.set (r * nb + j) (rd (d.scaleAt (i + j * d.blk))) a) t.side else t.side
  let row := BitVec.ofNat 2048 (putBits (t.row r).toNat 0 (t.rowb * 256) (packRow d.width es))
  .ok (s.modCore m.core fun k => (if r + 1 = m.steps then k.mend 1 n else k).modTile n fun _ =>
    { t with rows := Table.set r row t.rows, side := side, scv := d.scaled && decide (r + 1 = m.steps) && !m.cancelled })

/-- `tst` (R310). -/
def execTst (x y : BitVec 6) (k : BitVec 4) (q : Tail) (s : State) : Host.Outcome State Fault Refusal :=
  runC q.w.toNat (do
    let va ← src x
    let yv ← src y
    let n := k.toNat
    let s ← get
    let c := s.latch.core
    tileGate n
    let stride := bits yv.toNat 32 20
    let t := (s.core c).tile n
    if yv.toNat ≠ stride * 2 ^ 32 ∨ ¬ (s.core c).tileReady n then trap 0x12 yv else pure ()
    let p := s.ownPlace va.toNat
    let o := p.o
    let w := p.w
    let ok := match w with
      | some w => let d := descOf w; d.fmt == t.fmt && (!d.scaled || d.blk == blkOf t.blk)
      | none => !fmtScaled t.fmt
    if (p.known && !ok) || s.fmtReserved s.curCtx.ver t.fmt then trapWord 0x10 else pure ()
    p.check va
    let d := match w with | some w => descOf w | none => rawDesc t.fmt
    let ranges ← transferCheck va d o stride (tileK t) t.nrows
    subGate (va - BitVec.ofNat 64 o) ranges.flatten
    issueCmd 0 (.tst x y k q) q (wantOf true ranges.flatten) fun m =>
      { m with a := va, b := yv, wd := w.getD 0, tiles := [n], args := [n, d.index o, stride, tileK t], steps := t.nrows }) s

/-- The last value of `n` steps of a generator. -/
def srAfter (n : Nat) (x : BitVec 32) : BitVec 32 := (srSteps n x).getLastD x

/-- One step of `tst`: a row, its elements unchanged, or re-encoded under computed scales, saturating by the window's SAT as R310 states (log 150). -/
def State.tstStep (s : State) (m : Cmd) : Did :=
  let t := (s.core m.core).tile (m.n 0)
  let d := m.tileDesc t
  let kk := m.n 3
  let i := m.n 1 + m.step * m.n 2
  if d.scaled ∧ ¬ t.scv then .fault s 0x12 m.b
  else
    let es := (List.range kk).map fun j => rowElem d.width (t.row m.step) j
    let nb := kk / d.blk
    let given := (List.range nb).map fun j => t.scale m.step j
    let sr := fpcRM m.fpc == 5
    let out : List Nat × List Nat :=
      if d.smode then
        let ty := fmtTy d.fmt
        let vs := es.zipIdx.map fun p => underScale (decTy false ty p.1) (given.getD (p.2 / d.blk) 127)
        let scs := (List.range nb).map fun j => scaleOf ty (slice vs (j * d.blk) d.blk)
        let g := if sr then srSteps kk m.seed else []
        let r : Rnd := ⟨fpcRM m.fpc, false, fpcFZO m.fpc, d.sat, 0⟩
        (vs.zipIdx.map fun p => encScaled ty { r with g := (g.getD p.2 0).toNat % 65536 } (scs.getD (p.2 / d.blk) 127) p.1, scs)
      else (es, given)
    match s.engineWrite m.core (d.rowPieces m.core i out.1 out.2) with
    | none => .waits s
    | some s => .ok (if d.smode && sr then s.setCmd { m with seed := srAfter kk m.seed } else s)

/-- `tzero` (R311). -/
def execTzero (x : BitVec 6) (k : BitVec 4) (q : Tail) (s : State) : Host.Outcome State Fault Refusal :=
  runC q.w.toNat (do
    let xv ← src x
    let n := k.toNat
    let v := xv.toNat
    let rows := bits v 0 7
    let rowb := bits v 8 4
    let fmt := bits v 24 4
    let blk := if fmtScaled fmt then bits v 32 1 else 0
    let s ← get
    tileGate n
    if v ≠ rows + rowb * 2 ^ 8 + fmt * 2 ^ 24 + blk * 2 ^ 32 ∨ badShape rows rowb fmt (blkOf blk) then trap 0x12 xv else pure ()
    if s.fmtReserved s.curCtx.ver fmt then trapWord 0x10 else pure ()
    idleTile n
    issueCmd 0 (.tzero x k q) q [] fun m => { m with a := xv, tiles := [n], args := [n], steps := 1 }
    modCurCore fun c => c.modTile n fun t => { t with fmt := fmt, rowb := rowb, nrows := rows, scv := false, blk := blk }) s

def State.tzeroStep (s : State) (m : Cmd) : Did :=
  .ok (s.modCore m.core fun k => (k.mend 1 (m.n 0)).modTile (m.n 0) fun t =>
    { t with rows := (List.range t.nrows).foldl (fun a r => Table.set r (BitVec.ofNat 2048 (putBits (Table.get 0 r a).toNat 0 (t.rowb * 256) 0)) a) t.rows
             side := if fmtScaled t.fmt then (List.range 512).map fun i => (i, 127#8) else t.side, scv := fmtScaled t.fmt && !m.cancelled })

/-- `accz` (R311). -/
def execAccz (c : BitVec 2) (q : Tail) (s : State) : Host.Outcome State Fault Refusal :=
  runC q.w.toNat (do
    mxGate
    accGate c.toNat
    issueCmd 1 (.accz c q) q [] fun m => { m with args := [c.toNat], accW := [c.toNat], steps := 1 }
    modCurCore fun k => k.modAcc c.toNat fun a => { a with ty := none }) s

def State.acczStep (s : State) (m : Cmd) : Did := .ok (s.modCore m.core fun k => (k.mend 2 (m.n 0)).modAcc (m.n 0) fun a => { a with el := [] })

end Sys2Proof.Machine
end

