-- ==== Sys2Proof/Machine/Matrix.lean ====
section
/-! DEFINITION. Matrix products and matrix-vector streaming: `mma`, `mmat`, `mvs` (R312 to R316, R155 to R158). -/

namespace Sys2Proof.Machine

/-! ### One group of one element (R156 to R158) -/

/-- An accumulator element after one group: `v` the element, `l` the products. -/
def accumulate (i32 : Bool) (v : BitVec 32) (l : List Val) : BitVec 32 :=
  if i32 then BitVec.ofInt 32 (groupSumI v.toInt l) else BitVec.ofNat 32 (groupSum (f32 v.toNat :: l))

/-- Element `j` of row `r` of a tile and its scale; 127 where the format has none. -/
def Tile.at (t : Tile) (r j : Nat) : Nat × Nat :=
  (rowElem (fmtTy t.fmt).width (t.row r) j, if fmtScaled t.fmt then t.scale r (j / blkOf t.blk) else 127)

def tileProduct (a b : Tile) (x y : Nat × Nat) : Val := product (fmtTy a.fmt) (fmtTy b.fmt) x.1 y.1 x.2 y.2

/-! ### `mma` and `mmat` (R312 to R314) -/

/-- Why tiles cannot be multiplied into an accumulator, as a cause (R302, R313): shapes and shares first, then formats and the type. -/
def State.mmaErr (s : State) (c x : Nat) (trans : Bool) (acc ta tb : Nat) (ty : Option Bool) : Option Nat :=
  let k := s.core c
  let a := k.tile ta
  let b := k.tile tb
  let ok := fun n => shareOk k.share x n 14
  if !ok ta || !ok tb || !accShare k x acc || !k.tileReady ta || !k.tileReady tb then some 0x12
  else if (if trans then b.nrows != tileK a || decide (64 < tileK b) else tileK a != tileK b) then some 0x12
  else if (trans && (fmtScaled a.fmt || fmtScaled b.fmt)) || s.fmtReserved (s.ctx c x).ver a.fmt || s.fmtReserved (s.ctx c x).ver b.fmt then some 0x10
  else match pairOf a.fmt b.fmt with
    | none => some 0x10
    | some (i, _) => if ty.isSome && ty != some i then some 0x10 else none

/-- The arguments of a product command: 0 accumulator, 1 `mmat`, 2 TA, 3 TB, 4 SA, 5 SB, 6 LCEN, 7 LC, 8 type, 9 trips, 10 iteration, 11 step in
the iteration. -/
def issueProduct (x : BitVec 6) (c : BitVec 2) (q : Tail) (trans : Bool) (ins : Instr) : Ex Unit := do
  let xv ← src x
  mxGate
  let v := xv.toNat
  let s ← get
  let k := s.core s.latch.core
  let acc := c.toNat
  if 2 ^ 20 ≤ v then trap 0x12 xv else pure ()
  let ta := bits v 0 4
  let tb := bits v 4 4
  match s.mmaErr s.latch.core s.cur.x trans acc ta tb (k.acc acc).ty with
  | some 0x10 => trapWord 0x10
  | some e => trap e xv
  | none => pure ()
  let ty := match pairOf (k.tile ta).fmt (k.tile tb).fmt with | some p => p.1 | none => false
  issueCmd 1 ins q [] fun m =>
    { m with a := xv, tiles := [ta, tb], accW := [acc]
             args := [acc, b2n trans, ta, tb, bits v 8 4, bits v 12 4, bits v 19 1, bits v 16 3, b2n ty, 1, 0, 0] }
  modCurCore fun k => k.modAcc acc fun a => { a with ty := some ty }

/-- `mma` (R312, R313). -/
def execMma (x : BitVec 6) (c : BitVec 2) (q : Tail) (s : State) : Host.Outcome State Fault Refusal :=
  runC q.w.toNat (issueProduct x c q false (.mma x c q)) s

/-- `mmat` (R312, R313). -/
def execMmat (x : BitVec 6) (c : BitVec 2) (q : Tail) (s : State) : Host.Outcome State Fault Refusal :=
  runC q.w.toNat (issueProduct x c q true (.mmat x c q)) s

/-- One group for the rows of one step: every element of rows `r0` to `r0 + q - 1` below M takes products `k0` to `k0 + g - 1` (R313). -/
def productGroup (trans i32 : Bool) (a b : Tile) (r0 q k0 g : Nat) (el : Table (BitVec 32)) : Table (BitVec 32) :=
  let n := if trans then tileK b else b.nrows
  let rows := (List.range q).map (r0 + ·) |>.filter (· < a.nrows)
  (rows.flatMap fun r => (List.range n).map fun c => (r, c)).foldl (fun el p =>
    let l := (List.range g).map fun i => tileProduct a b (a.at p.1 (k0 + i)) (if trans then b.at (k0 + i) p.2 else b.at p.2 (k0 + i))
    let key := 64 * p.1 + p.2
    Table.set key (accumulate i32 (Table.get 0 key el) l) el) el

/-- A command takes the tiles of its next iteration in place of those it holds (R305, R314). -/
def State.retile (s : State) (m : Cmd) (ts : List Nat) : State × Cmd :=
  let m' := { m with tiles := ts }
  let s := s.modCore m.core fun k =>
    let k := m.tiles.foldl (fun k n => k.modTile n fun t => { t with busy := t.busy - 1 }) k
    ts.foldl (fun k n => k.modTile n fun t => { t with busy := t.busy + 1 }) k
  (s.setCmd m', m')

/-- One step of `mma` or `mmat`; an iteration's tiles are checked when it begins (R313, R314). -/
def State.productStep (s : State) (m : Cmd) : Did :=
  let trans := m.n 1 == 1
  let i := m.n 10
  let st := m.n 11
  let ta := (m.n 2 + i * m.n 4) % 16
  let tb := (m.n 3 + i * m.n 5) % 16
  let (s, m) := if st = 0 ∧ 0 < i ∧ m.tiles ≠ [ta, tb] then s.retile m [ta, tb] else (s, m)
  let k := s.core m.core
  if k.holdWait m then .waits s
  else match if st = 0 then s.mmaErr m.core m.x trans (m.n 0) ta tb (some (m.n 8 == 1)) else none with
  | some e => .fault s e m.a
  | none =>
    let a := k.tile ta
    let b := k.tile tb
    if (fmtScaled a.fmt ∧ ¬ a.scv) ∨ (fmtScaled b.fmt ∧ ¬ b.scv) then .fault s 0x12 m.a
    else
      let g := match pairOf a.fmt b.fmt with | some p => p.2 | none => 1
      let q := if a.fmt = 0 then 4 else 8
      let h := (a.nrows + q - 1) / q
      let s := s.modCore m.core fun k => k.modAcc (m.n 0) fun c =>
        { c with el := productGroup trans (m.n 8 == 1) a b (q * (st % h)) q (g * (st / h)) g c.el }
      let s := s.count m.core m.x m.slot 4 1
      let ends := decide (tileK a / g * h ≤ st + 1)
      let s := s.setCmd { m with args := (m.args.set 10 (if ends then i + 1 else i)).set 11 (if ends then 0 else st + 1) }
      if ends ∧ m.n 9 ≤ i + 1 then .last s else .ok s

/-! ### `mvs` (R315, R316) -/

/-- What a global read of an engine comes to. -/
inductive GRead where
  | ok (bs : List Byte)
  | miss (va : Nat)
  | bad (code va : Nat)

/-- Bytes of the global space at their home, line by line, under the lease check (R100, R316). -/
def State.readGlob (s : State) (m : Cmd) (c l : Nat) : List (Nat × Nat) → GRead
  | [] => .ok []
  | (va, n) :: r =>
    match s.locate c l va 1 with
    | .miss => .miss va
    | .bad e => .bad e va
    | .ok k => if let some e := s.eccIn [(s.fwd k, n)] then .bad 0x30 e else match s.readGlob m c l r with
      | .ok bs => .ok (s.cmdBytes m (s.fwd k) n ++ bs)
      | e => e

/-- A range cut at 64-byte lines. -/
def cutLines (a n : Nat) : List (Nat × Nat) :=
  (linesOf a n).map fun l => let lo := max a (64 * l); (lo, min (a + n) (64 * l + 64) - lo)

/-- The fields of a stream descriptor. -/
structure Stream where
  vt : Nat
  fmt : Nat
  blk : Nat
  cols : Nat
  stride : Nat

def streamOf (v : Nat) : Stream := ⟨bits v 0 4, bits v 4 4, blkOf (bits v 8 1), bits v 9 9, bits v 18 20⟩

/-- `mvs` (R315): arguments 0 AF, 1 LCEN, 2 LC, 3 type, 4 trips, 5 iteration, 6 step in the iteration, 7 B, 8 K, 9 VT's format. -/
def execMvs (x y : BitVec 6) (e : BitVec 1) (g : BitVec 3) (c : BitVec 2) (q : Tail) (s : State) : Host.Outcome State Fault Refusal :=
  runC q.w.toNat (do
    let va ← src x
    let yv ← src y
    mxGate
    let v := yv.toNat
    let d := streamOf v
    let s ← get
    let k := s.core s.latch.core
    let t := k.tile d.vt
    let af := c.toNat
    let na := (d.cols + 63) / 64
    let re := d.stride * 8 / (fmtTy d.fmt).width
    let accs := (List.range na).map (af + ·)
    tileGate d.vt
    if 2 ^ 38 ≤ v ∨ d.stride = 0 ∨ d.stride % 64 ≠ 0 ∨ t.nrows < 1 ∨ 8 < t.nrows ∨ t.rowb = 0 ∨ d.cols < 1 ∨ 256 < d.cols ∨ 4 < af + na ∨
        accs.any (fun n => !accShare k s.cur.x n) ∨ (fmtScaled d.fmt ∧ (re % d.blk ≠ 0 ∨ d.stride * 8 % (fmtTy d.fmt).width ≠ 0)) ∨
        ¬ k.tileReady d.vt then trap 0x12 yv else pure ()
    if s.fmtReserved s.curCtx.ver t.fmt || s.fmtReserved s.curCtx.ver d.fmt then trapWord 0x10 else pure ()
    let ty ← match pairOf t.fmt d.fmt with
      | some p => if accs.any fun n => (k.acc n).ty.isSome && (k.acc n).ty != some p.1 then trapWord 0x10 else pure p.1
      | none => trapWord 0x10
    match spaceOf va.toNat with
    | none => trap 0x15 va
    | some (.glob a) => if a / 2 ^ 40 ≠ s.dev.devno then trap 0x17 va else pure ()
    | some _ => trap 0x17 va
    issueCmd 1 (.mvs x y e g c q) q [] fun m =>
      { m with a := va, b := yv, tiles := [d.vt], accW := accs, args := [af, e.toNat, g.toNat, b2n ty, 1, 0, 0, t.nrows, tileK t, t.fmt] }
    modCurCore fun k => accs.foldl (fun k n => k.modAcc n fun a => { a with ty := some ty }) k) s

/-- One weight row against the batch vectors, group by group (R316). -/
def streamRow (i32 : Bool) (t : Tile) (fmt g : Nat) (w : List (Nat × Nat)) (b : Nat) (v : BitVec 32) : BitVec 32 :=
  (List.range (w.length / g)).foldl (fun v n =>
    accumulate i32 v ((List.range g).map fun i =>
      let j := n * g + i
      let p := w.getD j (0, 127)
      let e := t.at b j
      product (fmtTy t.fmt) (fmtTy fmt) e.1 p.1 e.2 p.2)) v

/-- One step of `mvs`, a beat of up to 256 bytes of weights; a row acts with its last beat (R303, R316). The scale of an element is that of the block
of its weight row that it lies in, also where an iteration holds no whole number of blocks (log 149). -/
def State.streamStep (s : State) (m : Cmd) : Did :=
  let d := streamOf m.b.toNat
  let i := m.n 5
  let st := m.n 6
  let kk := m.n 8
  let vt := (d.vt + i) % 16
  let (s, m) := if st = 0 ∧ 0 < i ∧ m.tiles ≠ [vt] then s.retile m [vt] else (s, m)
  let k := s.core m.core
  let t := k.tile vt
  let wd := (fmtTy d.fmt).width
  let kw := kk * wd / 8
  let bpr := max 1 ((kw + 255) / 256)
  let row := st / bpr
  if k.holdWait m then .waits s
  else if (st = 0 ∧ (!shareOk k.share m.x vt 14 ∨ t.fmt ≠ m.n 9 ∨ t.nrows ≠ m.n 7 ∨ tileK t ≠ kk)) ∨ (fmtScaled t.fmt ∧ ¬ t.scv) then .fault s 0x12 m.b
  else if d.stride < (i + 1) * kw then .fault s 0x12 m.b
  else
    let ends := decide (d.cols * bpr ≤ st + 1)
    let next := fun (s : State) =>
      let s := s.setCmd { m with args := (m.args.set 5 (if ends then i + 1 else i)).set 6 (if ends then 0 else st + 1) }
      let s := s.count m.core m.x m.slot 4 1
      if ends ∧ m.n 4 ≤ i + 1 then Did.last s else .ok s
    if st % bpr + 1 < bpr then next s
    else
      let l := (s.ctx m.core m.x).l
      let x := m.a.toNat
      let re := d.stride * 8 / wd
      let wa := x + row * d.stride + i * kw
      let b0 := i * kk / d.blk
      let sa := x + d.cols * d.stride + row * (re / d.blk) + b0
      let ns := if fmtScaled d.fmt then (i * kk + kk - 1) / d.blk + 1 - b0 else 0
      let ends2 := [wa, wa + kw - 1] ++ if ns = 0 then [] else [sa, sa + ns - 1]
      if ends2.any s.regionBusy then .waits s
      else match ends2.find? fun a => !s.held a with
      | some a => .fault s 0x17 (BitVec.ofNat 64 a)
      | none =>
      match s.readGlob m m.core l (cutLines wa kw ++ cutLines sa ns) with
      | .miss va => .waits (s.startWalk (clusterOf m.core) l va m.core m.x m.slot)
      | .bad e va => .fault s e (BitVec.ofNat 64 va)
      | .ok bs =>
        let v := ofBytes (bs.take kw)
        let w := (List.range kk).map fun j => (bits v (wd * j) wd, if ns = 0 then 127 else (bs.getD (kw + ((i * kk + j) / d.blk - b0)) 127).toNat)
        let g := match pairOf t.fmt d.fmt with | some p => p.2 | none => 1
        let s := s.count m.core m.x m.slot 15 (cutLines wa kw ++ cutLines sa ns).length
        next (s.modCore m.core fun k => k.modAcc (m.n 0 + row / 64) fun c =>
          { c with el := (List.range (m.n 7)).foldl (fun el b =>
              let key := 64 * b + row % 64
              Table.set key (streamRow (m.n 3 == 1) t d.fmt g w b (Table.get 0 key el)) el) c.el })

end Sys2Proof.Machine
end

