-- ==== Sys2Proof/Machine/Epi.lean ====
section
/-! DEFINITION. The epilogue: `epi` (R317 to R320). -/

namespace Sys2Proof.Machine

/-! ### The descriptor (R317) -/

structure Epi where
  gscale : Nat
  dstride : Nat
  boff : Nat
  soff : Nat
  act : Nat
  bias : Bool
  scale : Nat
  cols : Nat
  rows : Nat

def epiOf (v : Nat) : Epi :=
  ⟨bits v 56 8, bits v 45 11, bits v 31 14, bits v 17 14, bits v 15 2, bit v 14, bits v 12 2, bits v 6 6 + 1, bits v 0 6 + 1⟩

/-- Byte ranges of the scale vector and the bias vector of `n` iterations (R318). -/
def Epi.vectors (e : Epi) (n : Nat) : List (Nat × Nat) :=
  (if e.scale = 0 then [] else [(e.soff * 64, 4 * if e.scale = 1 then e.rows else e.cols * n)]) ++
    if e.bias then [(e.boff * 64, 4 * (e.cols * n))] else []

/-- Byte ranges of the destination rows of `n` iterations from data-order index `i` (R318, R320). -/
def Epi.rowRanges (e : Epi) (d : Desc) (i n : Nat) : List (List (Nat × Nat)) :=
  (List.range n).flatMap fun k => (List.range e.rows).map fun r =>
    let j := i + e.cols * k + r * e.dstride
    d.dataRuns j e.cols ++ d.scaleRuns j e.cols

/-- Range-lock entries of `n` iterations (R306). -/
def Epi.wants (e : Epi) (d : Desc) (i n : Nat) : List Want :=
  ((e.vectors n).flatMap fun r => wantOf false [r]) ++ wantOf true (e.rowRanges d i n).flatten

/-- The descriptor through which the destination is written (R320). -/
def Cmd.epiDesc (m : Cmd) : Desc := if m.wd.toNat.testBit 31 then descOf m.wd else rawDesc 0

/-- `epi` (R317): arguments 0 accumulator, 1 LCEN, 2 LC, 3 the accumulators of type I32 as a mask, 4 trips, 5 first data-order index. -/
def execEpi (x y : BitVec 6) (e : BitVec 1) (g : BitVec 3) (c : BitVec 2) (q : Tail) (s : State) : Host.Outcome State Fault Refusal :=
  runC q.w.toNat (do
    let va ← src x
    let yv ← src y
    mxGate
    let p := epiOf yv.toNat
    let n := c.toNat
    accGate n
    if p.scale = 3 ∨ p.dstride = 0 then trap 0x12 yv else pure ()
    let s ← get
    let pl := s.ownPlace va.toNat
    let o := pl.o
    let w := pl.w
    let d := match w with | some w => descOf w | none => rawDesc 0
    if d.scaled ∧ (p.cols % d.blk ≠ 0 ∨ (¬ d.smode ∧ p.gscale = 255)) then trap 0x12 yv else pure ()
    if s.fmtReserved s.curCtx.ver d.fmt then trapWord 0x10 else pure ()
    pl.check va
    if d.inScaleLine o then trap 0x15 va else pure ()
    let i := d.index o
    let rows := p.rowRanges d i 1
    if (rows.headD []).any fun r => decide (0x100000 < r.1 + r.2) then trap 0x14 va else pure ()
    if !d.onGroup o || (d.scaled && (i % d.blk != 0 || p.dstride % d.blk != 0)) ||
        (d.width == 6 && (p.dstride % 4 != 0 || p.cols % 4 != 0)) then trap 0x13 va else pure ()
    checkRows (va - BitVec.ofNat 64 o) rows
    match (p.vectors 1).find? fun r => decide (0x100000 < r.1 + r.2) || !s.spShare s.latch.core s.cur.x r.1 r.2 with
    | some r => trap 0x17 (BitVec.ofNat 64 (spKey s.latch.core r.1))
    | none => pure ()
    subGate (va - BitVec.ofNat 64 o) rows.flatten
    let k := s.core s.latch.core
    let types := ((List.range 4).map fun a => if (k.acc a).ty = some true then 2 ^ a else 0).sum
    issueCmd 2 (.epi x y e g c q) q (p.wants d i 1) fun m =>
      { m with a := va, b := yv, wd := w.getD 0, args := [n, e.toNat, g.toNat, types, 1, i], steps := p.rows
               accR := if e = 1#1 then (List.range 4).filter (accShare k s.cur.x) else [n] }) s

/-- The engine begins an `epi` (R306, R318): its ranges are widened to every iteration, and checked. -/
def State.epiBegin (s : State) (m : Cmd) (t : Nat) : Did :=
  let p := epiOf m.b.toNat
  let d := m.epiDesc
  let rows := p.rowRanges d (m.n 5) t
  match rows.findSome? fun rs => s.rowsErr m.core m.x rs with
  | some (k, o) => .fault s k (BitVec.ofNat 64 (spKey m.core o))
  | none =>
    match (p.vectors t).find? fun r => decide (0x100000 < r.1 + r.2) || !s.spShare m.core m.x r.1 r.2 with
    | some r => .fault s 0x17 (BitVec.ofNat 64 (spKey m.core r.1))
    | none =>
      match rows.flatten.find? fun r => r.2 != 0 && s.subHit m.core r.1 r.2 with
      | some r => .fault s 0x18 (BitVec.ofNat 64 (spKey m.core r.1))
      | none =>
        .ok ((s.modCore m.core fun k => k.widen m.id (p.wants d (m.n 5) t)).setCmd
          { m with steps := p.rows * t, args := m.args.set 4 t
                   accR := (List.range 4).filter fun a => (List.range t).any fun i => (m.n 0 + i) % 4 == a })

/-- One element through scale, bias and activation (R318): FP32 bits. -/
def epiStage (i32 : Bool) (act x s b : Nat) : Nat :=
  let v := if i32 then decTy false (.int true 32) x else f32 x
  activation act (encFp fp32 rne ((v.mul (f32 s)).add 0 (f32 b)))

/-- One row of an iteration, as element encodings and block scales (R318, R320); `g` holds the generator's steps. -/
def State.epiRow (s : State) (m : Cmd) (p : Epi) (d : Desc) (it row : Nat) (g : List (BitVec 32)) : List Nat × List Nat :=
  let a := (m.n 0 + it) % 4
  let i32 := bit (m.n 3) a
  let el := ((s.core m.core).acc a).el
  let xs := (List.range p.cols).map fun c => (Table.get 0#32 (64 * row + c) el).toNat
  let ty := fmtTy d.fmt
  let fp := fun (i : Nat) => ofBytes (s.cmdBytes m (spKey m.core i) 4)
  let rnd := fun (j : Nat) => (⟨fpcRM m.fpc, fpcFZI m.fpc, fpcFZO m.fpc, fpcSATN m.fpc, (g.getD j 0).toNat % 65536⟩ : Rnd)
  if i32 ∧ p.scale = 0 ∧ ¬ p.bias ∧ p.act = 0 ∧ (d.fmt = 5 ∨ d.fmt = 6) then (xs.zipIdx.map fun q => convTy (.int true 32) ty (rnd q.2) q.1, [])
  else
    let vs := xs.zipIdx.map fun q =>
      let c := p.cols * it + q.2
      let sc := if p.scale = 0 then 0x3F800000 else fp (p.soff * 64 + 4 * if p.scale = 1 then row else c)
      decTy (fpcFZI m.fpc) (.fp fp32) (epiStage i32 p.act q.1 sc (if p.bias then fp (p.boff * 64 + 4 * c) else 0))
    if !d.scaled then (vs.zipIdx.map fun q => encTy ty false (rnd q.2) q.1, [])
    else
      let scs := (List.range (p.cols / d.blk)).map fun b => if d.smode then scaleOf ty (slice vs (b * d.blk) d.blk) else p.gscale
      (vs.zipIdx.map fun q =>
        encScaled ty { rnd q.2 with ctl := d.smode || fpcSATN m.fpc } (scs.getD (q.2 / d.blk) 127) q.1, scs)

/-- One step of `epi`: a row (R303, R318). -/
def State.epiStep (s : State) (m : Cmd) : Did :=
  let p := epiOf m.b.toNat
  let d := m.epiDesc
  let it := m.step / p.rows
  let row := m.step % p.rows
  if !accShare (s.core m.core) m.x ((m.n 0 + it) % 4) then .fault s 0x12 m.b
  else
    let sr := fpcRM m.fpc == 5
    let g := if sr then srSteps p.cols m.seed else []
    let out := s.epiRow m p d it row g
    match s.engineWrite m.core (d.rowPieces m.core (m.n 5 + p.cols * it + row * p.dstride) out.1 out.2) with
    | none => .waits s
    | some s => .ok (if sr then s.setCmd { m with seed := srAfter p.cols m.seed } else s)

end Sys2Proof.Machine
end

