-- ==== Sys2Proof/Machine/Copy.lean ====
section
/-! DEFINITION. Copies and remote transfers: `cpy`, `cpyp`, `cpyf`, `put`, `get` (R101, R321 to R327, R438). -/

namespace Sys2Proof.Machine

/-! ### The copy descriptor (R321) -/

structure CopyDesc where
  dst : Nat
  src : Nat
  ds : Nat
  ss : Nat
  acc : Nat
  hback : Nat

def copyDesc (b : List Byte) : CopyDesc :=
  let w := fun i n => ofBytes (slice b i n)
  ⟨w 0 8, w 8 8, w 16 4, w 20 4, w 24 4, w 28 4⟩

/-- Address of a row: `r` times a signed 32-bit distance away, modulo 2^64. -/
def rowAt (base stride r : Nat) : Nat := wrap 64 (base + sInt 32 stride * r)

/-- The scratchpad range that those of `rows` rows take which lie in the own scratchpad, as one range-lock entry (R306). -/
def endWant (dst : Bool) (c base stride len rows : Nat) : List Want :=
  wantOf dst ((List.range rows).filterMap fun r =>
    let a := rowAt base stride r
    if isOwn c a then some (ownOff a, len) else none)

def copyWants (c dst src ds ss len rows : Nat) : List Want := endWant false c src ss len rows ++ endWant true c dst ds len rows

/-- Why one end of a row may not be reached (R77, R322): lease and range locks apart; a global address of another device needs XDEV. -/
def State.endErr (s : State) (c : Nat) (t : Thread) (va len kind : Nat) : Option Nat :=
  match s.accessErr c t va (va + max len 1 - 1) 1 kind with
  | some 0x05 | none => match spaceOf va with
    | some (.glob a) => if a / 2 ^ 40 ≠ s.dev.devno ∧ ¬ t.xdev then some 0x17 else none
    | _ => none
  | e => e

/-- The alignment of an accumulate copy's operands among the checks of an end, in the order of R77. -/
def alignedErr (odd : Bool) : Option Nat → Option Nat
  | some 0x15 => some 0x15
  | some 0x14 => some 0x14
  | e => if odd then some 0x13 else e

/-- Why a row may not be copied, with the address (R302, R322); `ds` and `ss` are the strides of an accumulate copy, else 0. -/
def State.copyErr (s : State) (c : Nat) (t : Thread) (dst src len kind ds ss : Nat) : Option (Nat × Nat) :=
  match alignedErr (kind == 2 && (dst % 64 != 0 || ds % 64 != 0 || len % 64 != 0)) (s.endErr c t dst len kind) with
  | some k => some (k, dst)
  | none => match alignedErr (kind == 2 && (src % 4 != 0 || ss % 4 != 0)) (s.endErr c t src len 0) with
    | some k => some (k, src)
    | none => if isOwn c dst ∧ len ≠ 0 ∧ s.subHit c (ownOff dst) len then some (0x18, dst) else none

/-! ### Promises (R323) -/

def meshHops (a b : Nat) : Nat := (max (rowOf a) (rowOf b) - min (rowOf a) (rowOf b)) + (max (colOf a) (colOf b) - min (colOf a) (colOf b))

/-- D of an end, in a-cycles. -/
def State.endDelay (s : State) (c va : Nat) : Nat :=
  match spaceOf va with
  | some (.own _ _) => 3
  | some (.other d _) => if d = c then 3 else 8 + meshHops c d
  | some (.pool k _) => if k = clusterOf c then 24 else if dieOf (coreOf k 0) = dieOf c then 160 else 220
  | some (.camp o) => if bits o 26 2 = dieOf c then 160 else 220
  | some (.glob a) => if a / 2 ^ 40 = s.dev.devno then 600 else 600 + 298 * torusHops s.dev s.dev.devno (a / 2 ^ 40)
  | _ => 1200

/-- Loop register `lc`*n* of an engine, for the context on a core. -/
def State.loopReg (s : State) (c x eng lc : Nat) : Nat := (Table.get 0#32 (8 * eng + lc) (s.ctx c x).lc).toNat

/-- Bytes that a copy command has still to move: arguments 0 row length, 1 trips, 2 row, 3 offset, 6 LCEN, 7 LC. -/
def State.bytesLeft (s : State) (m : Cmd) : Nat :=
  match m.ins with
  | .cpy .. | .cpyp .. | .cpyf .. =>
    (if m.running then m.n 1 else if m.n 6 = 1 then s.loopReg m.core m.x 2 (m.n 7) else 1) * m.n 0 - (m.n 2 * m.n 0 + m.n 3)
  | _ => 0

def State.promise (s : State) (c rows len dst src : Nat) : Nat :=
  let w := ((s.core c).cmds.map fun m => (s.bytesLeft m + 127) / 128).sum
  s.dev.clock + 2 * (w + (rows * len + 127) / 128 + max (s.endDelay c dst) (s.endDelay c src))

/-! ### Issue (R321 to R325) -/

/-- Arguments of a copy: 0 row length, 1 trips, 2 row, 3 offset in the row, 4 accumulate code, 5 hand-back offset, 6 LCEN, 7 LC, 8 DSTRIDE,
9 SSTRIDE, 10 whether it is faultable. -/
def issueCopy (kind : Nat) (x y : BitVec 6) (e : BitVec 1) (g : BitVec 3) (q : Tail) (ins : Instr) : Ex Unit := do
  let dv ← src x
  let lv ← src y
  if 16777216 < lv.toNat then trap 0x12 lv else pure ()
  let d := copyDesc (← descBytes dv q)
  let len := lv.toNat
  let s ← get
  let c := s.latch.core
  let t := s.cur
  if 11 < d.acc ∨ (kind ≠ 2 ∧ d.hback ≠ 0) ∨ (kind = 2 ∧ (e = 1#1 ∨ d.acc ≠ 0 ∨ d.hback % 32 ≠ 0)) then trap 0x12 dv else pure ()
  let camp : Bool := match spaceOf d.dst with | some (.camp _) => true | _ => false
  if d.acc ≠ 0 ∧ ¬ camp then trap 0x12 (BitVec.ofNat 64 d.dst) else pure ()
  match s.copyErr c s.pre d.dst d.src len (if d.acc = 0 then 1 else 2) d.ds d.ss with
  | some (k, a) => trap k (BitVec.ofNat 64 a)
  | none => pure ()
  if kind = 2 then
    match s.rowsErr c t.x [(d.hback, 32)] with
    | some (k, o) => trap k (BitVec.ofNat 64 (spKey c o))
    | none => subGate (BitVec.ofNat 64 (spKey c 0)) [(d.hback, 32)]
  else pure ()
  if !isOwn c d.dst then outsideGate (BitVec.ofNat 64 d.dst) else pure ()
  let rows := if e = 1#1 then s.loopReg c t.x 2 g.toNat else 1
  let p := s.promise c rows len d.dst d.src
  if kind = 1 then push (BitVec.ofNat 64 p) else pure ()
  let id := (← get).nextOp
  issueCmd 3 ins q (copyWants c d.dst d.src d.ds d.ss len 1 ++ if kind = 2 then wantOf true [(d.hback, 32)] else []) fun m =>
    { m with a := BitVec.ofNat 64 d.dst, b := BitVec.ofNat 64 d.src
             args := [len, 1, 0, 0, d.acc, d.hback, e.toNat, g.toNat, d.ds, d.ss, b2n (kind == 2)] }
  if kind = 1 then modCur fun t => { t with promises := t.promises ++ [(p, id)] } else pure ()
  if kind = 2 then modify fun s => s.markTouched (s.ctx c t.x).l else pure ()

/-- `cpy` (R321, R322). -/
def execCpy (x y : BitVec 6) (e : BitVec 1) (g : BitVec 3) (q : Tail) (s : State) : Host.Outcome State Fault Refusal :=
  runC q.w.toNat (issueCopy 0 x y e g q (.cpy x y e g q)) s

/-- `cpyp` (R323). -/
def execCpyp (x y : BitVec 6) (e : BitVec 1) (g : BitVec 3) (q : Tail) (s : State) : Host.Outcome State Fault Refusal :=
  runC q.w.toNat (issueCopy 1 x y e g q (.cpyp x y e g q)) s

/-- `cpyf` (R325). -/
def execCpyf (x y : BitVec 6) (e : BitVec 1) (g : BitVec 3) (q : Tail) (s : State) : Host.Outcome State Fault Refusal :=
  runC q.w.toNat (issueCopy 2 x y e g q (.cpyf x y e g q)) s

/-- A command whose writes go outside the scratchpad may not make them (R304): the cause. -/
def State.outsideErr (s : State) (m : Cmd) : Option Nat :=
  let t := s.thread m.core m.slot
  if t.st = .empty ∨ t.tseq ≠ m.tseq then none
  else if t.timed ∧ ¬ t.serial ∧ ¬ s.isHead t then some 0x1A
  else if t.mem.isSome then some 0x19 else none

/-- The copy engine begins a copy (R304, R306, R322): the rows after the first are checked and its ranges widened. -/
def State.copyBegin (s : State) (m : Cmd) (t : Nat) : Did :=
  let m := { m with args := m.args.set 1 t }
  if m.n 0 = 0 then .last s
  else if m.n 6 = 0 then .ok (s.setCmd m)
  else
    let th := s.thread m.core m.slot
    match (List.range (t - 1)).findSome? fun r =>
      let da := rowAt m.a.toNat (m.n 8) (r + 1)
      match s.copyErr m.core th da (rowAt m.b.toNat (m.n 9) (r + 1)) (m.n 0) (if m.n 4 = 0 then 1 else 2) (m.n 8) (m.n 9) with
      | some e => some e
      | none => if isOwn m.core da then none else (s.outsideErr m).map fun k => (k, da) with
    | some (k, a) => .fault s k (BitVec.ofNat 64 a)
    | none => .ok ((s.modCore m.core fun k => k.widen m.id (copyWants m.core m.a.toNat m.b.toNat (m.n 8) (m.n 9) (m.n 0) t)).setCmd m)

/-! ### Ends (R100, R101, R322) -/

/-- Where the bytes of one step's end stand: memory keys, the control space, the host, another device; or why they cannot be reached
now. -/
inductive End where
  | here (ks : List Nat)
  | ctl
  | host
  | far (dev : Nat)
  | waits
  | walk (va : Nat)
  | bad (code va : Nat)
  | page (va : Nat)

/-- Keys of a range of the global space, line by line; a faultable copy needs only the context's mapping (R101). -/
def State.globKeys (s : State) (c l need : Nat) (faultable : Bool) : List (Nat × Nat) → End
  | [] => .here []
  | (va, n) :: r =>
    let one : End :=
      if faultable then match s.walk l va with
        | some (z, pa, rights) => if hasRights rights need then .here [pa + va % pageBytes z] else .bad 0x16 va
        | none => .page va
      else match s.locate c l va need with
        | .ok k => .here [k]
        | .miss => .walk va
        | .bad k => .bad k va
    match one with
    | .here (k :: _) => match s.globKeys c l need faultable r with
      | .here ks => .here ((List.range n).map (fun i => s.fwd (k + i)) ++ ks)
      | e => e
    | e => e

/-- A lock of another core holds back an access from this one (R86): `store` waits for any range, a load for destinations. -/
def State.farLock (s : State) (d o n : Nat) (store : Bool) : Bool :=
  (s.core d).locks.any fun l => overlap o n l.lo (l.hi + 1 - l.lo) && (l.dst || store)

/-- One end of a step of `n` bytes; `kind` 0 reads, 1 writes, 2 both. -/
def State.endOf (s : State) (m : Cmd) (va n kind : Nat) : End :=
  let keys := fun (k : Nat) => End.here ((List.range n).map (k + ·))
  match spaceOf va with
  | none => .bad 0x15 va
  | some (.own _ o) => keys (spKey m.core o)
  | some (.other d o) =>
    if d = m.core then keys (spKey d o)
    else if kind ≠ 0 ∧ s.subHit d o n then .bad 0x18 va
    else if s.farLock d o n (kind != 0) then .waits
    else keys (spKey d o)
  | some (.pool k o) => keys (poolKey k o)
  | some (.camp o) => keys (campKey o)
  | some (.host _ _) => .host
  | some (.ctl _) => .ctl
  | some (.glob a) =>
    if s.regionBusy a then .waits
    else if !s.held a then (if s.reach (s.holder a) then .far (s.holder a) else .bad 0x17 va)
    else s.globKeys m.core (s.ctx m.core m.x).l (needOf kind) (m.n 10 == 1) (cutLines va n)

/-! ### Line operations of accumulate copies (R90, R321) -/

/-- The scalar operation of an accumulate code, as an AOP. -/
def accAop (k : Nat) : Nat := [0, 0, 2, 3, 8, 5, 10, 7, 12, 13, 14, 15].getD k 0

/-- A line operation, lane by lane. -/
def lineOp (k : Nat) (old bs : List Byte) : List Byte :=
  (List.range (bs.length / 4)).flatMap fun i =>
    toBytes 4 (atomicValue (accAop k) (ofBytes (slice old (4 * i) 4)) (ofBytes (slice bs (4 * i) 4)) 0 % 2 ^ 32)

/-! ### Steps of a copy -/

/-- A command sends a packet and counts its flits (R399). -/
def State.cmdPacket (s : State) (m : Cmd) (p : Packet) (bytes : Nat) : State :=
  (s.count m.core m.x m.slot 18 (1 + (bytes + 63) / 64)).sendPacket p

/-- The command is a `put` or `get`, whose target checks its range against the mesh and base-camp spaces alone (R326, R327). -/
def isTransferCmd (m : Cmd) : Bool := match m.ins with | .put .. | .get .. => true | _ => false

/-- A store or get request packet: remote address, range that the target checks, whether a copy sends it, and bytes (R327, R438). -/
def transferBody (addr lo len n job host : Nat) (copy : Bool) (bs : List Byte) : List Byte :=
  toBytes 8 addr ++ toBytes 8 lo ++ toBytes 4 len ++ toBytes 4 n ++ toBytes 2 job ++ toBytes 2 host ++ toBytes 1 (b2n copy) ++ bs

def State.storePacket (s : State) (m : Cmd) (dev tag addr lo len : Nat) (bs : List Byte) : State :=
  let k := s.ctx m.core m.x
  s.cmdPacket m { dst := dev, cls := 0, ty := 1, tag := tag, bank := 0, body := transferBody addr lo len bs.length k.job k.host (!isTransferCmd m) bs } bs.length

def State.getPacket (s : State) (m : Cmd) (dev tag addr lo len n : Nat) : State :=
  let k := s.ctx m.core m.x
  s.cmdPacket m { dst := dev, cls := 0, ty := 2, tag := tag, bank := 0, body := transferBody addr lo len n k.job k.host (!isTransferCmd m) [] } 0

/-- A fresh tag, which the command waits for where `wait`. -/
def State.tagged (s : State) (m : Cmd) (wait : Bool) : State × Cmd :=
  let id := s.nextOp
  let m := if wait then { m with waiting := id } else { m with tags := m.tags ++ [id] }
  ({ s with nextOp := id + 1 }.setCmd m, m)

/-- Bytes read from keys, where earlier bytes of the step may be copied over later ones (R322). -/
def State.pull (s : State) (m : Cmd) : List Nat → List Nat → List (Nat × Byte) → List Byte
  | k :: ks, d :: ds, done =>
    let b := match done.find? fun p => p.1 == k with | some p => p.2 | none => s.cmdByte m k
    b :: s.pull m ks ds ((d, b) :: done)
  | k :: ks, [], done => s.cmdByte m k :: s.pull m ks [] done
  | [], _, _ => []

/-- The hand-back record of a faultable copy at a page that is not resident (R101): its locks go and ENGINE_PAGE is raised. -/
def State.handBack (s : State) (m : Cmd) (sa da left va : Nat) : State :=
  let rec32 := toBytes 8 sa ++ toBytes 8 da ++ toBytes 8 left ++ toBytes 8 va
  let s := (s.land m.core (spKey m.core (m.n 5)) rec32).stopCmd m
  s.modThread m.core m.slot fun t => { t with held := t.held ++ [⟨3, BitVec.ofNat 64 va, m.pc, false, false, 0, m.id⟩] }

/-- The copy goes on after `n` bytes of its row; its last line waits for acknowledgements (R125). -/
def State.copied (s : State) (m : Cmd) (n : Nat) : Did :=
  let off := m.n 3 + n
  let row := m.n 2 + off / m.n 0
  let m := { m with data := [], args := (m.args.set 2 row).set 3 (off % m.n 0) }
  if row < m.n 1 ∨ m.tags ≠ [] then .ok (s.setCmd m) else .last (s.setCmd m)

/-- One step of a copy: one line of the destination (R303, R322). -/
def State.copyStep (s : State) (m : Cmd) : Did :=
  if m.waiting ≠ 0 ∨ m.n 1 ≤ m.n 2 then (if m.tags = [] ∧ m.waiting = 0 then .last s else .waits s)
  else
    let da := wrap 64 (rowAt m.a.toNat (m.n 8) (m.n 2) + m.n 3)
    let sa := wrap 64 (rowAt m.b.toNat (m.n 9) (m.n 2) + m.n 3)
    let all := min (m.n 0 - m.n 3) (64 - da % 64)
    let have_ := m.data.length
    let sb := wrap 64 (sa + have_)
    let part := min (all - have_) (0x10000 - sb % 0x10000)
    let l := (s.ctx m.core m.x).l
    let acc := m.n 4
    let from_ := s.endOf m sb part 0
    let short : Bool := match from_ with | .page _ => decide (have_ ≠ 0 ∧ have_ < all) | _ => false
    let n := if short then have_ else all
    let into := s.endOf m da n (if acc = 0 then 1 else 2)
    let dk := match into with | .here ks => ks | _ => []
    let left := m.n 0 - m.n 3
    let got : Except Did (List Byte) :=
      if n ≤ have_ then .ok (m.data.take n)
      else match from_ with
        | .here ks => match s.eccIn (ks.map fun k => (k, 1)) with
          | some v => .error (.fault s 0x30 (BitVec.ofNat 64 v))
          | none =>
            let bs := m.data ++ s.pull m ks (dk.drop have_) []
            if bs.length < n then .error (.waits (s.setCmd { m with data := bs })) else .ok bs
        | .ctl => .ok (s.ctlBytes sb part)
        | .host => let (s, m) := s.tagged m true; .error (.waits (s.modSched fun q => { q with out := q.out ++ [.read m.waiting (s.hostAddr sb) part] }))
        | .far d => let (s, m) := s.tagged m true; .error (.waits (s.getPacket m d m.waiting sb sb part part))
        | .waits => .error (.waits s)
        | .walk va => .error (.waits (s.startWalk (clusterOf m.core) l va m.core m.x m.slot))
        | .bad k va => .error (.fault s k (BitVec.ofNat 64 va))
        | .page va => .error (.waits (if s.updateRoom m.core (m.n 5) 32 then s.handBack m sa da left va else s))
    match got with
    | .error e => e
    | .ok bs =>
      let s := match from_, mstatOf sb part with | .ctl, some i => { s with agenda := ⟨.mstatRead, { m := i }⟩ :: s.agenda } | _, _ => s
      match into with
      | .here [] => s.copied m n
      | .here (k :: ks) =>
        let room := match spOf k with | some (d, o) => s.updateRoom d o n | none => true
        if !room then .waits s
        else
          let s := match from_ with | .here _ => if sa < 2 ^ 55 then s.count m.core m.x m.slot 15 1 else s | _ => s
          let bs := if acc = 0 then bs else lineOp acc ((k :: ks).map s.byte) bs
          (s.land m.core k bs).copied m n
      | .ctl => match s.ctlHolds da with
        | some _ => .waits s
        | none => (s.ctlWrite false da bs).copied m n
      | .host => (s.modSched fun q => { q with out := q.out ++ [.write (s.hostAddr da) bs] }).copied m n
      | .far d => let (s, m) := s.tagged m false; (s.storePacket m d (m.tags.getLastD 0) da da n bs).copied m n
      | .waits => .waits s
      | .walk va => .waits (s.startWalk (clusterOf m.core) l va m.core m.x m.slot)
      | .bad k va => .fault s k (BitVec.ofNat 64 va)
      | .page va => .waits (if s.updateRoom m.core (m.n 5) 32 then s.handBack m sa da left va else s)

/-! ### `put` and `get` (R326, R327) -/

/-- Arguments of a transfer: 0 length, 1 device, 2 local offset, 3 offset of STATUS, 4 stage (0 begun, 1 range being checked, 2 moving), 5 bytes
moved, 6 status, 7 bytes asked for. -/
def issueTransfer (isPut : Bool) (x y : BitVec 6) (q : Tail) (ins : Instr) : Ex Unit := do
  let dv ← src x
  let lv ← src y
  let s ← get
  let c := s.latch.core
  if !s.cur.xdev then trap 0x17 dv else pure ()
  if 1048576 < lv.toNat then trap 0x12 lv else pure ()
  let b ← descBytes dv q
  let w := fun i n => ofBytes (slice b i n)
  let dev := w 16 2
  let loc := BitVec.ofNat 64 (w 0 8)
  if w 18 6 ≠ 0 ∨ 2 ^ 15 ≤ dev ∨ dev = s.dev.devno then trap 0x12 dv else pure ()
  ownCheck loc (max lv.toNat 1) 1
  let o := ownOff loc.toNat
  let st := ownOff dv.toNat + 24
  subGate (BitVec.ofNat 64 (spKey c 0)) ((if isPut then [] else [(o, lv.toNat)]) ++ [(st, 8)])
  if isPut then outsideGate (BitVec.ofNat 64 (w 8 8)) else pure ()
  issueCmd 4 ins q (wantOf (!isPut) [(o, lv.toNat)] ++ wantOf true [(st, 8)]) fun m =>
    { m with a := loc, b := BitVec.ofNat 64 (w 8 8), args := [lv.toNat, dev, o, st, 0, 0, 0, 0] }

/-- `put` (R326, R327). -/
def execPut (x y : BitVec 6) (q : Tail) (s : State) : Host.Outcome State Fault Refusal :=
  runC q.w.toNat (issueTransfer true x y q (.put x y q)) s

/-- `get` (R326, R327). -/
def execGet (x y : BitVec 6) (q : Tail) (s : State) : Host.Outcome State Fault Refusal :=
  runC q.w.toNat (issueTransfer false x y q (.get x y q)) s

/-- STATUS is written, before the command completes (R327). -/
def State.transferEnd (s : State) (m : Cmd) : Did :=
  if !s.updateRoom m.core (m.n 3) 8 then .waits s else .last (s.land m.core (spKey m.core (m.n 3)) (toBytes 8 (m.n 6)))

/-- REMOTE lies in one of the spaces that `put` and `get` may name (R326). -/
def remoteSpace (a : Nat) : Bool := match spaceOf a with | some (.other _ _) | some (.pool _ _) | some (.camp _) => true | _ => false

/-- One step of `put`: the range is checked at the target first; then 64-byte lines gather into packets of up to 4 KiB, and the last packet's
acknowledgement ends the command. -/
def State.putStep (s : State) (m : Cmd) : Did :=
  let len := m.n 0
  let ra := m.b.toNat
  if m.tags ≠ [] ∧ (m.n 4 = 1 ∨ len ≤ m.n 5) then .waits s
  else if m.n 6 ≠ 0 ∨ (m.n 4 ≠ 0 ∧ len ≤ m.n 5) then s.transferEnd m
  else if !remoteSpace ra then .ok (s.setCmd { m with args := m.args.set 6 1 })
  else if !s.reach (m.n 1) then .ok (s.setCmd { m with args := m.args.set 6 2 })
  else if m.n 4 = 0 then
    let (s, m) := s.tagged { m with args := m.args.set 4 1 } false
    .waits (s.storePacket m (m.n 1) (m.tags.getLastD 0) ra ra len [])
  else
    let done := m.n 5
    let n := min (len - done) (64 - (ra + done) % 64)
    match s.eccIn [(spKey m.core (m.n 2 + done), n)] with
    | some v => .fault s 0x30 (BitVec.ofNat 64 v)
    | none =>
      let bs := m.data ++ s.cmdBytes m (spKey m.core (m.n 2 + done)) n
      let m := { m with args := (m.args.set 4 2).set 5 (done + n), data := bs }
      if done + n = len ∨ 4096 ≤ bs.length + 64 then
        let (s, m) := s.tagged { m with data := [] } false
        .ok (s.storePacket m (m.n 1) (m.tags.getLastD 0) (ra + done + n - bs.length) ra len bs)
      else .ok (s.setCmd m)

/-- One step of `get`: the bytes are asked for 4 KiB at a time and written line by line as they stand in the command. -/
def State.getStep (s : State) (m : Cmd) : Did :=
  let len := m.n 0
  let ra := m.b.toNat
  let done := m.n 5
  if m.waiting ≠ 0 then .waits s
  else if m.n 6 ≠ 0 ∨ (m.n 4 ≠ 0 ∧ len ≤ done) then s.transferEnd m
  else if !m.data.isEmpty then
    let o := m.n 2 + done
    let n := min m.data.length (64 - o % 64)
    if !s.updateRoom m.core o n then .waits s
    else .ok ((s.land m.core (spKey m.core o) (m.data.take n)).setCmd { m with data := m.data.drop n, args := m.args.set 5 (done + n) })
  else if !remoteSpace ra then .ok (s.setCmd { m with args := m.args.set 6 1 })
  else if !s.reach (m.n 1) then .ok (s.setCmd { m with args := m.args.set 6 2 })
  else
    let n := min 4096 (len - done)
    let (s, m) := s.tagged { m with args := m.args.set 4 2 } true
    .waits (s.getPacket m (m.n 1) m.waiting (ra + done) ra len n)

end Sys2Proof.Machine
end

