-- ==== Sys2Proof/Machine/Keyed.lean ====
section
/-! DEFINITION. Keyed sends: `ksend`, `kflush`, `kbins` and the receive-and-accumulate unit (R328 to R334). -/

namespace Sys2Proof.Machine

abbrev Pair := BitVec 32 × BitVec 32

/-! ### Bins (R330, R332) -/

/-- A bin after a pair with value `v` (R330). -/
def binOp (op old v : Nat) : Nat :=
  match op with
  | 0 => (old + v) % 2 ^ 32
  | 1 => f32Add old v
  | 2 => max old v
  | _ => (old + 1) % 2 ^ 32

/-- The bin of a key, as a scratchpad offset. -/
def Bins.slot (b : Bins) (k : BitVec 32) : Option Nat :=
  let i := (k.toNat + 2 ^ 32 - b.kbase) % 2 ^ 32
  if b.valid && decide (i < b.count) then some (b.boff + 4 * i) else none

/-- One pair at its receiving core (R332). -/
def State.applyPair (s : State) (c x : Nat) (p : Pair) : State :=
  let b := (s.ctx c x).bins
  match b.slot p.1 with
  | some o =>
    let s := s.land c (spKey c o) (toBytes 4 (binOp b.op (s.word (spKey c o) 4) p.2.toNat))
    s.modCtx c x fun k => { k with bins := { k.bins with applied := k.bins.applied + 1 } }
  | none => s.modCtx c x fun k => { k with bins := { k.bins with rdrop := k.bins.rdrop + 1 } }

/-- A bin of the pairs lies in an engine's destination range, or its updates find no room (R332, R347). -/
def State.pairsWait (s : State) (c x : Nat) (ps : List Pair) : Bool :=
  ps.any fun p => match (s.ctx c x).bins.slot p.1 with
    | some o => (s.core c).locks.any (fun l => l.dst && overlap o 4 l.lo (l.hi + 1 - l.lo)) ||
      (let us := ps.flatMap fun q => match (s.ctx c x).bins.slot q.1 with | some r => s.updatesOf [(spKey c r, 4)] | none => []
       !us.all fun u => s.queueRoom us u.1)
    | none => false

/-- The saved image of a context of a core, changed in place. -/
def State.modSavedCtx (s : State) (l c : Nat) (f : Ctx → Ctx) : State :=
  s.modSched fun q => { q with launches := q.launches.map fun n =>
    if n.l = l ∧ n.st = .saved then { n with images := n.images.map fun i => if i.core = c then { i with ctx := f i.ctx } else i } else n }

/-- Pairs reach a core (R332): applied, held in the message area of a context that is not placed, or dropped; none where they wait. -/
def State.receive (s : State) (c x l : Nat) (ps : List Pair) : Option State :=
  let k := s.ctx c x
  if k.placed && !k.away && k.l == l then
    if s.pairsWait c x ps then none else some (ps.foldl (fun s p => s.applyPair c x p) s)
  else if (s.lease l).area.length < 4096 then some (s.areaAdd l (.keyed c ps))
  else
    let drop := fun (k : Ctx) => { k with bins := { k.bins with rdrop := k.bins.rdrop + ps.length } }
    some (if k.placed && k.l == l then s.modCtx c x drop else s.modSavedCtx l c drop)

/-! ### Coalescing buffers (R331, R333) -/

/-- Pairs leave for their receiver: by the mesh, or by Evhorn; towards a device that cannot be reached they are send drops (R387). -/
def State.sendPairs (s : State) (c x r : Nat) (ps : List Pair) : State :=
  if ps.isEmpty then s
  else
    let k := s.ctx c x
    let dev := r / 512
    if dev = s.dev.devno then
      { s with flights := s.flights ++ [(s.nextOp, .keyed c (r % 512) x k.l ps)], nextOp := s.nextOp + 1 }
    else if !s.reach dev then s.modCtx c x fun k => { k with bins := { k.bins with sdrop := k.bins.sdrop + ps.length } }
    else
      let id := s.nextOp
      let body := toBytes 8 (r % 512) ++ toBytes 2 k.job ++ toBytes 2 k.host ++ toBytes 4 x ++
        ps.flatMap fun p => toBytes 4 p.1.toNat ++ toBytes 4 p.2.toNat
      let s := { s with nextOp := id + 1 }.modCore c fun q => { q with keyOut := q.keyOut ++ [(x, id, dev, ps.length)] }
      (s.count c x 0 18 2).sendPacket { dst := dev, cls := 0, ty := 7, tag := id, bank := 0, body := body }

/-- The buffer of a core for a receiver is sent (R331). -/
def State.sendBuffer (s : State) (c x r : Nat) : State :=
  match (s.core c).coal.find? fun b => b.1 == r && b.2.1 == x with
  | some b => (s.modCore c fun q => { q with coal := q.coal.filter fun p => !(p.1 == r && p.2.1 == x) }).sendPairs c x r b.2.2
  | none => s

/-- A pair is dropped or joins the buffer of its receiver, which is sent when it holds 8 (R329, R331). -/
def State.placePair (s : State) (c x : Nat) (p : Pair) : State :=
  let e := (Table.get 0#32 (p.1.toNat / 2 ^ 22) (s.ctx c x).kmap).toNat
  if !bit e 31 then s.modCtx c x fun k => { k with bins := { k.bins with sdrop := k.bins.sdrop + 1 } }
  else
    let r := e % 2 ^ 24
    let s := s.modCore c fun q =>
      { q with coalClk := Table.set (2 * r + x) s.dev.clock q.coalClk
               coal := if q.coal.any fun b => b.1 == r && b.2.1 == x then q.coal.map fun b => if b.1 = r ∧ b.2.1 = x then (r, x, b.2.2 ++ [p]) else b
                 else q.coal ++ [(r, x, [p])] }
    if ((s.core c).coal.any fun b => b.1 == r && b.2.1 == x && decide (8 ≤ b.2.2.length)) then s.sendBuffer c x r else s

/-! ### `ksend` (R331) -/

/-- Arguments of `ksend`: 0 pairs, 1 offset, 2 LCEN, 3 LC, 4 pairs read. -/
def execKsend (x y : BitVec 6) (e : BitVec 1) (c : BitVec 3) (q : Tail) (s : State) : Host.Outcome State Fault Refusal :=
  runC q.w.toNat (do
    let va ← src x
    let nv ← src y
    let n := if e = 1#1 then 1 else nv.toNat
    if 131072 < n then trap 0x12 nv else pure ()
    ownCheck va (max (8 * n) 1) 8
    outsideGate va
    let o := ownOff va.toNat
    issueCmd 4 (.ksend x y e c q) q (wantOf false [(o, 8 * n)]) fun m =>
      { m with a := va, b := nv, args := [n, o, e.toNat, c.toNat, 0] }) s

/-- The send engine begins a `ksend`, with the pair count of its loop register where it names one (R306, R331). -/
def State.ksendBegin (s : State) (m : Cmd) : Did :=
  if m.n 2 = 0 then (if m.n 0 = 0 then .last s else .ok s)
  else
    let n := s.loopReg m.core m.x 3 (m.n 3)
    if n = 0 then .last s
    else if 131072 < n then .fault s 0x12 (BitVec.ofNat 64 n)
    else match s.rowsErr m.core m.x [(m.n 1, 8 * n)] with
      | some (k, o) => .fault s k (BitVec.ofNat 64 (spKey m.core o))
      | none => .ok ((s.modCore m.core fun k => k.widen m.id (wantOf false [(m.n 1, 8 * n)])).setCmd { m with args := m.args.set 0 n })

/-- One step of `ksend`: one line of pairs (R303). -/
def State.ksendStep (s : State) (m : Cmd) : Did :=
  let o := m.n 1 + 8 * m.n 4
  let n := min (m.n 0 - m.n 4) ((64 - o % 64) / 8)
  match s.eccIn [(spKey m.core o, 8 * n)] with
  | some v => .fault s 0x30 (BitVec.ofNat 64 v)
  | none =>
    let ps : List Pair := (List.range n).map fun j =>
      (BitVec.ofNat 32 (ofBytes (s.cmdBytes m (spKey m.core (o + 8 * j)) 4)), BitVec.ofNat 32 (ofBytes (s.cmdBytes m (spKey m.core (o + 8 * j + 4)) 4)))
    let s := (ps.foldl (fun s p => s.placePair m.core m.x p) s).setCmd { m with args := m.args.set 4 (m.n 4 + n) }
    if m.n 0 ≤ m.n 4 + n then .last s else .ok s

/-! ### `kflush` (R333) -/

/-- `kflush`: argument 0 is 1 once its buffers are sent; its tags name the flits it waits for. -/
def execKflush (q : Tail) (s : State) : Host.Outcome State Fault Refusal :=
  runC q.w.toNat (issueCmd 4 (.kflush q) q [] fun m => { m with args := [0], steps := 1 }) s

def State.kflushStep (s : State) (m : Cmd) : Did :=
  let out := fun (s : State) => (s.flights.filterMap fun f => match f.2 with
    | .keyed c _ x _ _ => if c = m.core ∧ x = m.x then some f.1 else none
    | _ => none) ++ (s.core m.core).keyOut.filterMap fun p => if p.1 = m.x then some p.2.1 else none
  if m.n 0 = 0 then
    let s := (s.core m.core).coal.foldl (fun s b => s.sendBuffer m.core b.2.1 b.1) s
    .waits (s.setCmd { m with args := [1], tags := out s })
  else if m.tags.any (out s).contains then .waits s else .last s

/-! ### `kbins` (R329, R330, R334) -/

/-- `kbins` (R330). -/
def execKbins (x y : BitVec 6) (q : Tail) (s : State) : Host.Outcome State Fault Refusal :=
  runC q.w.toNat (do
    let d ← src x
    let kb ← src y
    let v := d.toNat
    let count := bits v 20 16
    let off := bits v 0 20
    if 2 ^ 38 ≤ v ∨ off % 64 ≠ 0 then trap 0x12 d else pure ()
    if 2 ^ 32 ≤ kb.toNat then trap 0x12 kb else pure ()
    let s ← get
    let c := s.latch.core
    let at_ := BitVec.ofNat 64 (spKey c off)
    if count ≠ 0 ∧ (0x100000 < off + 4 * count ∨ !s.spShare c s.cur.x off (4 * count)) then trap 0x17 at_ else pure ()
    subGate (BitVec.ofNat 64 (spKey c 0)) [(off, 4 * count)]
    issueCmd 4 (.kbins x y q) q [] fun m => { m with a := d, b := kb, steps := 1 }) s

def State.kbinsStep (s : State) (m : Cmd) : Did :=
  let v := m.a.toNat
  .last (s.modCtx m.core m.x fun k =>
    { k with bins := { op := bits v 36 2, count := bits v 20 16, boff := bits v 0 20, kbase := m.b.toNat, sdrop := k.bins.sdrop, valid := true } })

/-- `kbins.map` (R329). -/
def execKbinsMap (x y : BitVec 6) (q : Tail) (s : State) : Host.Outcome State Fault Refusal :=
  runC q.w.toNat (do
    let i ← src x
    let v ← src y
    if 1024 ≤ i.toNat then trap 0x12 i else pure ()
    let w := v.toNat
    if w ≠ w % 2 ^ 24 + b2n (bit w 31) * 2 ^ 31 then trap 0x12 v else pure ()
    let s ← get
    let dev := bits w 9 15
    if (dev = s.dev.devno ∧ !inRect s.curCtx (bits w 0 9)) ∨ (dev ≠ s.dev.devno ∧ !s.cur.xdev) then trap 0x17 v else pure ()
    if dev ≠ s.dev.devno then outsideGate v else pure ()
    issueCmd 4 (.kbinsMap x y q) q [] fun m => { m with a := i, b := v, steps := 1 }) s

/-- Every core's copy of the launch's key map takes the entry (R329). -/
def State.kbinsMapStep (s : State) (m : Cmd) : Did :=
  let n := (s.ctx m.core m.x).launch
  .last { s with ctxs := s.ctxs.map fun p =>
    if p.2.placed ∧ p.2.launch = n then (p.1, { p.2 with kmap := Table.set m.a.toNat (m.b.setWidth 32) p.2.kmap }) else p }

/-- `kbins.stat` (R334). -/
def execKbinsStat (x : BitVec 6) (q : Tail) (s : State) : Host.Outcome State Fault Refusal :=
  runC q.w.toNat (do
    let va ← src x
    ownCheck va 16 16
    let o := ownOff va.toNat
    subGate (BitVec.ofNat 64 (spKey (← get).latch.core 0)) [(o, 16)]
    issueCmd 4 (.kbinsStat x q) q (wantOf true [(o, 16)]) fun m => { m with a := va, args := [o], steps := 1 }) s

def State.kbinsStatStep (s : State) (m : Cmd) : Did :=
  let b := (s.ctx m.core m.x).bins
  if !s.updateRoom m.core (m.n 0) 16 then .waits s
  else .last (s.land m.core (spKey m.core (m.n 0)) (toBytes 8 b.applied ++ toBytes 4 b.rdrop ++ toBytes 4 b.sdrop))

end Sys2Proof.Machine
end

