-- ==== Sys2Proof/Machine/EngineRun.lean ====
section
/-! DEFINITION. Engine commands running: ENGINE_COMMAND_BEGIN and ENGINE_STEP (R124, R303 to R306, R341 to R343). -/

namespace Sys2Proof.Machine

/-- Scratchpad ranges that the next step of a transfer or an epilogue reads (R414). -/
def State.stepReads (s : State) (m : Cmd) : List (Nat × Nat) :=
  let sp := fun (l : List (Nat × Nat)) => l.map fun r => (spKey m.core r.1, r.2)
  match m.ins with
  | .tld .. =>
    let d := m.tileDesc ((s.core m.core).tile (m.n 0))
    let i := m.n 1 + m.step * m.n 2
    sp (d.dataRuns i (m.n 3) ++ d.scaleRuns i (m.n 3))
  | .epi .. =>
    let p := epiOf m.b.toNat
    let it := m.step / p.rows
    sp ((if p.scale = 1 then [(p.soff * 64 + 4 * (m.step % p.rows), 4)]
      else if p.scale = 2 then [(p.soff * 64 + 4 * p.cols * it, 4 * p.cols)] else []) ++
      if p.bias then [(p.boff * 64 + 4 * p.cols * it, 4 * p.cols)] else [])
  | _ => []

/-- A tile or an accumulator that the command reads holds an uncorrectable word (R414). -/
def State.stepEcc (s : State) (m : Cmd) : Option Nat :=
  let bad := (s.core m.core).bad
  let hit := fun (kind : Nat) (ns : List Nat) => (ns.find? fun n => bad.contains (kind, n)).map eccReg
  if bad.isEmpty then none
  else match m.ins with
    | .tst .. => hit 1 m.tiles
    | .mma .. | .mmat .. | .mvs .. => (hit 1 m.tiles).or (hit 2 m.accW)
    | .epi .. => hit 2 m.accR
    | _ => none

/-- The command's own step. -/
def State.famStep (s : State) (m : Cmd) : Did :=
  match (s.eccIn (s.stepReads m)).or (s.stepEcc m) with
  | some v => .fault s 0x30 (BitVec.ofNat 64 v)
  | none =>
  match m.ins with
  | .tld .. => s.tldStep m
  | .tst .. => s.tstStep m
  | .tzero .. => s.tzeroStep m
  | .accz .. => s.acczStep m
  | .mma .. | .mmat .. => s.productStep m
  | .mvs .. => s.streamStep m
  | .epi .. => s.epiStep m
  | .cpy .. | .cpyp .. | .cpyf .. => s.copyStep m
  | .put .. => s.putStep m
  | .get .. => s.getStep m
  | .ksend .. => s.ksendStep m
  | .kflush .. => s.kflushStep m
  | .kbins .. => s.kbinsStep m
  | .kbinsMap .. => s.kbinsMapStep m
  | .kbinsStat .. => s.kbinsStatStep m
  | _ => .last s

/-- The loop fields of a command: whether LCEN is 1, and LC. -/
def loopOf : Instr → Nat × Nat
  | .mma .. | .mmat .. => (0, 0)
  | .mvs _ _ e g .. | .epi _ _ e g .. => (e.toNat, g.toNat)
  | .cpy _ _ e g _ | .cpyp _ _ e g _ | .cpyf _ _ e g _ => (e.toNat, g.toNat)
  | _ => (0, 0)

/-- What beginning does in each family: the trip count is read, later rows are checked, entries are widened (R304, R306, R314). -/
def State.famBegin (s : State) (m : Cmd) : Did :=
  match m.ins with
  | .mma .. | .mmat .. =>
    let t := s.trips m 0 (m.n 6) (m.n 7)
    if t = 0 then .last s else .ok (s.setCmd { m with args := m.args.set 9 t })
  | .mvs .. =>
    let t := s.trips m 0 (m.n 1) (m.n 2)
    if t = 0 then .last s else .ok (s.setCmd { m with args := m.args.set 4 t })
  | .epi .. =>
    let t := s.trips m 1 (m.n 1) (m.n 2)
    if t = 0 then .last s else s.epiBegin m t
  | .cpy .. | .cpyp .. | .cpyf .. =>
    let t := s.trips m 2 (m.n 6) (m.n 7)
    if t = 0 then .last s else s.copyBegin m t
  | .ksend .. => s.ksendBegin m
  | _ => .ok s

/-- A command may stop here (R303). -/
def Cmd.interruptible (m : Cmd) : Bool := m.step % 16 == 0

/-- ENGINE_COMMAND_BEGIN (R301, R343): the oldest command waiting at an engine begins, as far as the engine runs commands side by side. -/
def execEngineCommandBegin (s : State) : Host.Outcome State Fault Refusal :=
  match s.cmd s.arg.c s.arg.id with
  | none => .next s
  | some m =>
    let k := s.core m.core
    if m.running ∨ (s.ctx m.core m.x).away ∨ k.cmds.any (fun o => decide (o.id < m.id) && o.eng == m.eng && !o.running && !(s.ctx m.core o.x).away) ∨
        portRuns m.eng ≤ (k.cmds.filter fun o => o.eng == m.eng && o.running).length then .next s
    else
      let m := { m with running := true }
      match (s.setCmd m).famBegin m with
      | .ok s | .waits s => .next s
      | .last s => .next (s.finishCmd m)
      | .fault s k v => .next (s.faultCmd m k v)

/-- ENGINE_STEP (R303 to R305): one step of a running command, unless an earlier command's range or a hold keeps it waiting; a cancelled command
stops at an interruptible point, and so does one whose context is being saved. -/
def execEngineStep (s : State) : Host.Outcome State Fault Refusal :=
  match s.cmd s.arg.c s.arg.id with
  | none => .next s
  | some m =>
    let k := s.core m.core
    if !m.running then .next s
    else if m.cancelled ∧ m.interruptible then .next (s.stopCmd m)
    else if (s.ctx m.core m.x).away ∧ m.interruptible then .next s
    else if k.lockWait m.id || k.holdWait m then .next s
    else
      let done := fun (s : State) =>
        match s.cmd m.core m.id with
        | none => s
        | some n => if n.cancelled then s.stopCmd n else s.finishCmd n
      match s.famStep m with
      | .waits s => .next s
      | .fault s k v => .next (match s.cmd m.core m.id with
        | none => s
        | some n => if n.cancelled then s.stopCmd n else s.faultCmd n k v)
      | .last s => .next (done s)
      | .ok s =>
        match s.cmd m.core m.id with
        | none => .next s
        | some n =>
          let n := { n with step := n.step + 1 }
          let s := s.setCmd n
          .next (if n.steps ≠ 0 ∧ n.steps ≤ n.step then done s else s)

end Sys2Proof.Machine
end

