-- ==== Sys2Proof/Machine/Fetch.lean ====
section
/-! DEFINITION. Fetching the words of a bundle, and framing (R95, R161, R162, R206). -/

namespace Sys2Proof.Machine

/-- What fetching a word comes to: the word, a wait for a walk, or a cause (R95, R206). -/
inductive Fetch where
  | word (w : BitVec 32)
  | wait
  | bad (code : Nat)
deriving DecidableEq, Repr

/-- The line of the L1 instruction cache that holds an address for a context (R95). -/
def State.textLine (s : State) (c l a : Nat) : Option Line := (s.core c).l1i.find? fun e => e.l == l && e.va == a / 64 * 64

/-- The word of the text at an address: from the L1 instruction cache, or through the TLB (R95, R97, R206). -/
def State.fetch (s : State) (c l : Nat) (pc : Word) : Fetch :=
  let a := pc.toNat
  if 2 ^ 56 ≤ a then .bad 0x15
  else if !opens (s.lease l).text.toList a 4 4 then .bad 0x16
  else match s.textLine c l a with
    | some e => .word (BitVec.ofNat 32 (ofBytes (slice e.bytes (a % 64) 4)))
    | none =>
      match s.tlbFind (clusterOf c) l a with
      | some e => if hasRights (e.pr &&& e.lr) 4 then .word (BitVec.ofNat 32 (s.word (s.fwd (e.pa a)) 4)) else .bad 0x16
      | none => .wait

/-- The line that a fetched word stands in fills: 256 sets of 4 ways (R95). The words of a pair stand in one line. -/
def State.textFill (s : State) (c l : Nat) (pc : Word) : State :=
  let va := pc.toNat / 64 * 64
  match s.textLine c l va, s.tlbFind (clusterOf c) l va with
  | none, some e =>
    let set := fun (x : Line) => x.va / 64 % 256
    let new : Line := ⟨l, va, e.pa va, e.pr &&& e.lr, s.bytes (s.fwd (e.pa va)) 64, 0⟩
    let (w, s) := s.wayFor (((s.core c).l1i.filter fun x => set x == set new).map (·.way)) 4
    s.modCore c fun k => { k with l1i := { new with way := w } :: k.l1i.filter fun x => !(set x == set new && x.way == w) }
  | _, _ => s

/-- A bundle at the PC (R161, R162): one word or two, or the framing cause with the word that breaks the rule and its slot. -/
inductive Framed where
  | lone (w : BitVec 32)
  | pair (w v : BitVec 32)
  | vec (p v : BitVec 32)
  | wait
  | bad (code : Nat) (w : BitVec 32) (aslot : Bool)
deriving DecidableEq, Repr

/-- Framing in the order of R162. -/
def State.frame (s : State) (c l ver : Nat) (pc : Word) : Framed :=
  if pc.toNat % 4 ≠ 0 then .bad 0x11 0 false
  else match s.fetch c l pc with
    | .bad k => .bad k 0 false
    | .wait => .wait
    | .word w =>
      if w.getLsbD 31 then (if isPfx w && ver != 1 then .bad 0x10 w false else .lone w)
      else if pc.toNat % 8 ≠ 0 then .bad 0x11 w false
      else if w.getLsbD 30 then .bad 0x10 w false
      else match s.fetch c l (pc + 4) with
        | .bad k => .bad k 0 false
        | .wait => .wait
        | .word v =>
          if v.getLsbD 31 ∨ ¬ v.getLsbD 30 then .bad 0x10 v true
          else if isPfx w && ver != 1 then (if isVectorWord v then .vec w v else .bad 0x10 v true)
          else .pair w v

/-- The word is of an instruction that the table of R277 puts in the vector unit: a vector opcode, or major 0x3C. -/
def takesUnit (w : BitVec 32) : Bool := isVectorWord w || (w.extractLsb' 24 7 == 0x7C#7)

/-- The next bundle holds a vector instruction (R277, R338). -/
def State.nextVector (s : State) (c h : Nat) : Bool :=
  let t := s.thread c h
  let k := s.ctx c t.x
  match s.frame c k.l k.ver t.pc with
  | .lone w => takesUnit w
  | .pair _ v => takesUnit v
  | .vec _ _ => true
  | _ => false

/-- Ordinary contexts of a core may not issue: the budget is spent or the die is too hot (R405, R447). -/
def State.gated (s : State) (c : Nat) : Bool :=
  decide (s.dev.erem = 0) || (Table.get {} (dieOf c) s.dev.dies).gated

end Sys2Proof.Machine
end

