-- ==== Sys2Proof/Machine/Digest.lean ====
section
/-! DEFINITION. SHAKE256 (R422, R441 to R443), which the spec names and FIPS 202 defines (log 13). -/

namespace Sys2Proof.Machine

/-- The lanes of the sponge, lane (x, y) at place x + 5y. -/
abbrev Lanes := List (BitVec 64)

/-- The lanes that the rotation walks through from (1, 0): after (x, y) comes (y, 2x + 3y). -/
def walkFrom : Nat → Nat → Nat → List Nat
  | 0, _, _ => []
  | n + 1, x, y => (x + 5 * y) :: walkFrom n y ((2 * x + 3 * y) % 5)

/-- The rotation of each lane: the lane met after `t` steps of the walk turns by the sum of 1 to t + 1, lane (0, 0) not at all. -/
def rotationOf (lane : Nat) : Nat :=
  match (walkFrom 24 1 0).idxOf? lane with
  | some t => (t + 1) * (t + 2) / 2
  | none => 0

def rotations : List Nat := (List.range 25).map rotationOf

/-- The register of eight bits whose low bit is the constants' bit sequence, after `t` steps. -/
def feedback : Nat → Nat
  | 0 => 1
  | t + 1 => let r := 2 * feedback t; if r < 256 then r else (r - 256) ^^^ 0x71

/-- The constant of round `i`: bits 2 ^ j - 1, for j up to 6, come from the sequence at 7 i + j. -/
def roundConstant (i : Nat) : BitVec 64 :=
  BitVec.ofNat 64 (((List.range 7).map fun j => if (feedback (7 * i + j)).testBit 0 then 2 ^ (2 ^ j - 1) else 0).sum)

def roundConstants : List (BitVec 64) := (List.range 24).map roundConstant

def keccakRound (a : Lanes) (rc : BitVec 64) : Lanes :=
  let at_ := fun (l : Lanes) (i : Nat) => l.getD i 0
  let c : Lanes := (List.range 5).map fun x => (List.range 5).foldl (fun v y => v ^^^ at_ a (x + 5 * y)) 0
  let d : Lanes := (List.range 5).map fun x => at_ c ((x + 4) % 5) ^^^ (at_ c ((x + 1) % 5)).rotateLeft 1
  let t : Lanes := (List.range 25).map fun i => (at_ a i ^^^ at_ d (i % 5)).rotateLeft (rotations.getD i 0)
  let b : Lanes := (List.range 25).map fun i => at_ t ((i % 5 + 3 * (i / 5)) % 5 + 5 * (i % 5))
  (List.range 25).map fun i =>
    let v := at_ b i ^^^ (~~~at_ b (5 * (i / 5) + (i % 5 + 1) % 5) &&& at_ b (5 * (i / 5) + (i % 5 + 2) % 5))
    if i = 0 then v ^^^ rc else v

def keccak (a : Lanes) : Lanes := roundConstants.foldl keccakRound a

/-- One block of 136 bytes is absorbed. -/
def absorb (a : Lanes) (bs : List Byte) : Lanes :=
  keccak (a.zipIdx.map fun p => if p.2 < 17 then p.1 ^^^ BitVec.ofNat 64 (ofBytes (slice bs (8 * p.2) 8)) else p.1)

def absorbAll : Nat → List Byte → Lanes → Lanes
  | 0, _, a => a
  | n + 1, bs, a => absorbAll n (bs.drop 136) (absorb a (bs.take 136))

/-- SHAKE256 with an output of 32 bytes. -/
def shake256 (m : List Byte) : List Byte :=
  let n := m.length / 136 + 1
  let pad := 136 * n - m.length
  let tail := if pad = 1 then [0x9F#8] else [0x1F#8] ++ List.replicate (pad - 2) 0 ++ [0x80#8]
  ((absorbAll n (m ++ tail) (List.replicate 25 0)).take 4).flatMap fun v => toBytes 8 v.toNat

end Sys2Proof.Machine
end

