-- ==== Sys2Proof/Machine/Switch.lean ====
section
/-! DEFINITION. Context images: the save rung, the image, restore, the lapse and refresh of fixed lines, the message area (R51, R132, R346, R365,
R421 to R427). -/

namespace Sys2Proof.Machine

/-- The threads of a context on a core, by slot. -/
def State.ctxThreads (s : State) (c x : Nat) : List (Nat × Thread) := (s.threadsOf c).filter fun p => p.2.x == x

/-- Operations of a context's threads on a core. -/
def State.ctxOps (s : State) (c x : Nat) : List Op := s.ops.filter fun o => o.core == c && (s.thread c o.slot).x == x

/-! ### Lapse and refresh of fixed lines (R132) -/

/-- The line of a source entry lapses: it generates no more updates, and those not applied are dropped. -/
def State.lapseLine (s : State) (c i : Nat) : State :=
  let f := Table.get {} i (s.core c).src
  if !f.v || f.lapsed then s
  else
    let s := s.modCore c fun k =>
      { k with src := Table.set i { f with lapsed := true, recseq := f.seq } k.src, batch := k.batch.filter fun p => p.1 != i
               outq := k.outq.filter fun u => !(u.dst == f.peer && u.entry == f.pidx) }
    s.modCore f.peer fun k =>
      { k with sub := Table.set f.pidx { (Table.get {} f.pidx k.sub) with lapsed := true } k.sub, inq := k.inq.filter fun u => u.entry != f.pidx }

/-- The lines of a context of a core lapse, at whichever end it stands. -/
def State.lapseAll (s : State) (c x : Nat) : State :=
  let mine := fun (t : Table FLine) => t.filter fun p => p.2.v && p.2.x == x
  let s := (mine (s.core c).src).foldl (fun s p => s.lapseLine c p.1) s
  (mine (s.core c).sub).foldl (fun s p => s.lapseLine p.2.peer p.2.pidx) s

/-- A lapsed line whose two ends are placed is refreshed: the whole region is copied, the recorded number is applied, and updates go on. -/
def State.refreshLine (s : State) (c i : Nat) : State :=
  let f := Table.get {} i (s.core c).src
  let g := Table.get {} f.pidx (s.core f.peer).sub
  let on := fun (d : Nat) => let k := s.ctx d f.x; k.placed && !k.away
  if f.v && f.lapsed && on c && on f.peer && g.v && g.peer == c then
    let bs := s.bytes (spKey c f.off) (64 * f.len)
    let s := s.land f.peer (spKey f.peer g.off) bs
    let s := s.modCore c fun k => { k with src := Table.set i { f with lapsed := false, seq := f.recseq } k.src }
    s.modCore f.peer fun k =>
      { k with sub := Table.set f.pidx { g with lapsed := false, seq := f.recseq, refreshed := true, rcount := (g.rcount + 1) % 2 ^ 32 } k.sub }
  else s

def State.refreshAll (s : State) (c x : Nat) : State :=
  let mine := fun (t : Table FLine) => t.filter fun p => p.2.v && p.2.x == x
  let s := (mine (s.core c).src).foldl (fun s p => s.refreshLine c p.1) s
  (mine (s.core c).sub).foldl (fun s p => s.refreshLine p.2.peer p.2.pidx) s

/-! ### The save rung (R365) -/

/-- An operation that a save withdraws and a restore sends again: a bank wait, or an arrival that is not counted (R234, R271). -/
def Op.resent (o : Op) : Bool := (o.kind == .fe && o.at_ != 0 && o.at_ != 1) || o.kind == .pre

/-- Inbound messages of a context move to its message area, and their sends are answered (R345, R346). -/
def State.boxToArea (s : State) (c x : Nat) : State :=
  let l := (s.ctx c x).l
  let box := (s.core c).inbox.filter fun m => m.x == x
  let s := s.modCore c fun k => { k with inbox := k.inbox.filter fun m => m.x != x }
  box.foldl (fun s m =>
    let tell := fun (s : State) (v : Word) => if m.dev = s.dev.devno then s.answer m.op v else s.ack m.dev m.op [v]
    if (s.lease l).area.length < 4096 then tell (s.areaAdd l (.msg c x m.q m.v m.snd)) 1
    else tell s (BitVec.ofNat 64 (2 ^ 63 + 3))) s

/-- Bank waits and uncounted arrivals of a context are withdrawn, an arrival at a rope of another device by message (R234, R271). -/
def State.withdrawAll (s : State) (c x : Nat) : State :=
  let gone := (s.ctxOps c x).filter Op.resent
  let ids := gone.map (·.id)
  let s := gone.foldl (fun s o => match o.kind, (s.thread c o.slot).mem with
    | .pre, some m => if m.dev = s.dev.devno then s else s.tell m.dev 7 0 [BitVec.ofNat 64 (m.rope + 65536 * m.idx)]
    | _, _ => s) s
  { s with bankWait := s.bankWait.map fun (p : Nat × List BankReq) => (p.1, p.2.filter fun r => match r with | .op id => !ids.contains id | _ => true)
           ropes := s.ropes.map fun p => (p.1, { p.2 with pend := p.2.pend.filter fun e => e.counted || e.dev != s.dev.devno || !ids.contains e.op })
           ops := s.ops.map fun o => if ids.contains o.id then { o with at_ := 4 } else o
           cores := s.cores.map fun p => (p.1, { p.2 with locks := p.2.locks.filter fun l => !ids.contains l.cmd }) }

/-- The save rung begins on a core: open timed tasks abort, open free tasks become head-serialised, the context issues no more, its buffers are
sent, its lines lapse, its waits are withdrawn. -/
def State.saveRung (s : State) (c x : Nat) : State :=
  let s := (s.ctxThreads c x).foldl (fun s p =>
    if !p.2.task || p.2.st == .leaving then s else if p.2.timed then s.abortTask c p.1 else s.serialise c p.1) s
  let s := s.modCtx c x fun k => { k with away := true }
  let s := ((s.core c).coal.filter fun b => b.2.1 == x).foldl (fun s b => s.sendBuffer c x b.1) s
  let s := ((s.lapseAll c x).withdrawAll c x).boxToArea c x
  s.modCore c fun k => { k with vwait := k.vwait.filter fun p => !((s.thread c p.1).x == x && (s.thread c p.1).st != .arriving) }

/-- The registers that the threads of a context share on a core are as at launch start, within its share (R27). -/
def Core.freshShare (k : Core) (x : Nat) : Core :=
  { k with tiles := k.tiles.filter fun p => !shareOk k.share x p.1 14, accs := k.accs.filter fun p => !shareOk k.share x p.1 3
           bad := k.bad.filter fun p => !(p.1 == 1 && shareOk k.share x p.2 14 || p.1 == 2 && shareOk k.share x p.2 3) }

/-- Nothing of the context is under way: its image may be written (R421). -/
def State.saveReady (s : State) (c x : Nat) : Bool :=
  ((s.ctxThreads c x).all fun p => p.2.st != .arriving && p.2.st != .leaving && !p.2.restart) &&
  ((s.ctxOps c x).all fun o => o.at_ == 4) &&
  ((s.core c).cmds.all fun m => m.x != x || !m.running ||
    (m.interruptible && m.waiting == 0 && (m.tags.isEmpty || (match m.ins with | .kflush .. => true | _ => false))))

/-! ### The image (R421, R422) -/

/-- The part of a scratchpad that belongs to a context, as keys from and below (R85). -/
def State.padPart (s : State) (c x : Nat) : Nat × Nat :=
  if (s.core c).share then (if x = 1 then (spKey c 0xE0000, spKey (c + 1) 0) else (spKey c 0, spKey c 0xE0000)) else (spKey c 0, spKey (c + 1) 0)

/-- The part of a cluster pool that belongs to a context (R70). -/
def State.poolPart (s : State) (k x : Nat) : Nat × Nat :=
  let p := s.cluster k
  let lo := (if x = 1 then p.ibase else p.obase) * 65536
  (poolKey k lo, poolKey k (lo + (if x = 1 then p.isize else p.osize) * 65536))

def cellsIn (r : Nat × Nat) (m : List Host.Cell) : List Host.Cell := m.filter fun p => decide (r.1 ≤ p.1 ∧ p.1 < r.2)

/-- The cells of a range give place to others. -/
def cellsPut (r : Nat × Nat) (l m : List Host.Cell) : List Host.Cell :=
  (l.filter fun p => decide (r.1 ≤ p.1 ∧ p.1 < r.2)).foldl (fun m p => memPut p.1 p.2 m) (m.filter fun p => !decide (r.1 ≤ p.1 ∧ p.1 < r.2))

/-- The lowest-numbered core of the launch in its cluster, whose image holds the pool part (R422). -/
def State.poolOwner (s : State) (c x : Nat) : Bool :=
  ((clusterCores (clusterOf c)).filter fun d => (s.ctx d x).placed && (s.ctx d x).launch == (s.ctx c x).launch).foldl min c == c

/-- A thread as its context is written where operations of its last bundle have been withdrawn: that bundle is to issue again, no entry is pending and
every scoreboard count is 0 (R49, R234, R271; log 158). -/
def Thread.rewound (t : Thread) (ops : List Op) : Thread :=
  match ops with
  | [] => t
  | o :: _ => { t with pc := o.pc, t := t.t.filter (fun e => ops.all fun o => e != .pend o.id), sb := [] }

/-- Slots of an image: 512 bytes each, with the park record at byte 392. -/
def slotBytes (t : Thread) : List Byte :=
  let svc := match t.wait with | .service n => 2 ^ 4 + n % 2 ^ 32 * 2 ^ 32 | _ => 0
  let park := (if t.st = .parked then t.pcause else 0) + svc + b2n (t.held.any (·.code == 3)) * 2 ^ 5 + b2n (t.held.any (·.code == 4)) * 2 ^ 6
  contextBytes t ++ controlBytes t ++ toBytes 8 park ++ List.replicate 112 0

def sectionHead (kind len count : Nat) : List Byte := toBytes 2 kind ++ toBytes 2 0 ++ toBytes 4 len ++ toBytes 4 count ++ toBytes 4 0

/-- The bytes of an image from its header's fields and what follows the header. -/
def imageBytes (c x l slots sections now : Nat) (body : List Byte) : List Byte :=
  let a := toBytes 4 0x474D494B ++ toBytes 2 1 ++ toBytes 2 sections ++ toBytes 4 (128 + body.length) ++ toBytes 2 c ++ toBytes 1 x ++ toBytes 1 0 ++
    toBytes 2 slots ++ toBytes 2 0 ++ toBytes 1 l ++ toBytes 3 0 ++ toBytes 8 now
  let z := List.replicate 64 0 ++ body
  a ++ shake256 (a ++ z) ++ z

/-- A slot of an image from its 512 bytes; what they do not hold is taken from `t` (R49, R376, R422). -/
def slotThread (t : Thread) (b : List Byte) : Thread :=
  let u := (List.range 17).foldl (fun t i => putControl t i (ofBytes (slice b (256 + 8 * i) 8))) (contextThread t b)
  let code := bits (ofBytes (slice b 256 1)) 0 3
  { u with st := if code = 3 then .parked else .ready, pcause := if code = 3 then bits (ofBytes (slice b 392 8)) 0 4 else 0 }

/-- MAGIC, FORMAT and the digest of an image's bytes are good (R424). -/
def imageGood (b : List Byte) : Bool :=
  slice b 0 6 == toBytes 4 0x474D494B ++ toBytes 2 1 && shake256 (b.take 32 ++ b.drop 64) == slice b 32 32

/-- The image that good bytes are: the record of the same bytes; else one with the same sections after the slots, or what those sections say, with the
header's fields and the slots as they stand (R422, R424). -/
def imageOf (kept : List Image) (addr : Nat) (b : List Byte) : Image :=
  match kept.find? fun i => i.bytes == b with
  | some i => { i with addr := addr }
  | none =>
    let n := ofBytes (slice b 16 2)
    let tail := b.drop (144 + 512 * n)
    let i := (kept.find? fun i => i.slots.length == n && i.bytes.drop (144 + 512 * n) == tail).getD (Config.imageRest b)
    { i with
      addr := addr, core := ofBytes (slice b 12 2), x := ofBytes (slice b 14 1), bytes := b, ctx := { i.ctx with l := ofBytes (slice b 20 1) }
      slots := i.slots.zipIdx.map fun p => (p.1.1, slotThread p.1.2 (slice b (144 + 512 * p.2) 512)) }

/-- What a saved thread keeps of what it waits for (R425): an open timed task has aborted, and the handler's state with it. -/
def Thread.forImage (t : Thread) : Thread :=
  { t with wait := (match t.wait with
      | .sleep _ | .service _ | .barrier | .barq _ | .granted _ | .done _ | .got _ => t.wait
      | _ => .none) }

/-- The image of a context of a core, to stand at an address. -/
def State.buildImage (s : State) (c x addr : Nat) : Image × State :=
  let k := s.core c
  let t := s.ctx c x
  let (d, s') := s.drawn
  let slots : List (Nat × Thread) := (s.ctxThreads c x).map fun (p : Nat × Thread) => (p.1, p.2.forImage)
  let body : List Byte := sectionHead 1 (512 * slots.length) slots.length ++ (slots.flatMap fun (p : Nat × Thread) => slotBytes (p.2.rewound ((s.opsOf c p.1).filter fun o => o.at_ == 4))) ++ Config.imageTail d
  let mine := fun (n split : Nat) => (List.range n).filter fun i => shareOk k.share x i split
  let lines := fun (f : Table FLine) => (f.filter fun (p : Nat × FLine) => p.2.v && p.2.x == x).map fun (p : Nat × FLine) => (p.1, { p.2 with lapsed := true })
  ({ addr := addr, core := c, x := x, bytes := imageBytes c x t.l slots.length (if s.poolOwner c x then 11 else 10) s.now body, ctx := t, slots := slots
     scratch := cellsIn (s.padPart c x) s.mem, pool := if s.poolOwner c x then some (cellsIn (s.poolPart (clusterOf c) x) s.mem) else none
     vwins := (s.ctxThreads c x).filterMap fun (p : Nat × Thread) => if p.2.vcnt = 0 then none else
       some (p.1, (List.range p.2.vcnt).map fun i => Table.get 0 (p.2.vbase + i) k.vreg)
     tiles := (mine 16 14).map fun (i : Nat) => (i, k.tile i), accs := (mine 4 3).map fun i => (i, k.acc i)
     cmds := k.cmds.filter fun m => m.x == x, locks := k.locks.filter fun l => l.x == x && l.eng != 5
     ops := (s.ctxOps c x).filter Op.resent, src := lines k.src, sub := lines k.sub }, s')

/-- A context leaves a core: its slots, commands, locks and entries are free. -/
def State.removeCtx (s : State) (c x : Nat) : State :=
  let mine := (s.ctxOps c x).map (·.id)
  let s := { s with ops := s.ops.filter fun o => !mine.contains o.id
                    bankWait := s.bankWait.map fun (p : Nat × List BankReq) => (p.1, p.2.filter fun r => match r with | .op id => !mine.contains id | _ => true)
                    bankQ := s.bankQ.map fun (p : Nat × List BankReq) => (p.1, p.2.filter fun r => match r with | .op id => !mine.contains id | _ => true) }
  let gone := (s.ctxThreads c x).map Prod.fst
  let s := { s with threads := s.threads.filter fun (p : Nat × Thread) => !(p.1 / 256 == c && gone.contains (p.1 % 256)) }
  let s := s.modCore c fun k =>
    { k with locks := k.locks.filter fun l => l.x != x, cmds := k.cmds.filter fun m => m.x != x
             tiles := k.tiles.map fun (p : Nat × Tile) => if shareOk k.share x p.1 14 then (p.1, { p.2 with busy := 0 }) else p
             src := k.src.map fun (p : Nat × FLine) => if p.2.x = x then (p.1, {}) else p, sub := k.sub.map fun (p : Nat × FLine) => if p.2.x = x then (p.1, {}) else p
             inbox := k.inbox.filter fun m => m.x != x, coal := k.coal.filter fun (b : Nat × Nat × List (BitVec 32 × BitVec 32)) => b.2.1 != x, keyOut := k.keyOut.filter fun (p : Nat × Nat × Nat × Nat) => p.1 != x
             vwait := k.vwait.filter fun (p : Nat × Nat) => !gone.contains p.1 }
  s.setCtx c x {}

/-! ### Restore (R424 to R426) -/

/-- Places for a saved thread, in the order of R426: its slot, another of its class on the core, one on another core of the cluster that holds
the context. -/
def State.placesFor (s : State) (c x h : Nat) (launch : Nat) : List (Nat × Nat) :=
  (if (s.classSlots c x).contains h then [(c, h)] else []) ++ (s.classSlots c x).map (fun i => (c, i)) ++
    ((clusterCores (clusterOf c)).filter fun d => d != c && (s.ctx d x).placed && (s.ctx d x).launch == launch).flatMap fun d =>
      (s.classSlots d x).map fun i => (d, i)

/-- A saved thread takes a place, with its vector window at the lowest free aligned base (R44, R425, R426). -/
def State.placeSaved (s : State) (img : Image) (p : Nat × Thread) : Option State :=
  let t := p.2
  let homes := (img.slots.filter fun q => thidOf q.2 != thidOf t).map fun q => (q.2.hcore, q.2.hslot)
  let ok := fun (d i : Nat) => decide ((s.thread d i).st = .empty) && (decide (d = t.hcore ∧ i = t.hslot ∧ t.hdev = s.dev.devno) ||
    (s.slotFree d i && !homes.contains (d, i))) && (t.vcnt == 0 || (s.vfreeRun d t.vcnt).isSome)
  match (s.placesFor img.core img.x p.1 img.ctx.launch).find? fun q => ok q.1 q.2 with
  | none => none
  | some (d, i) =>
    let b := (s.vfreeRun d t.vcnt).getD 0
    let vs := (img.vwins.find? fun w => w.1 == p.1).map Prod.snd |>.getD []
    let s := if t.vcnt = 0 then s else s.modCore d fun k => vs.zipIdx.foldl (fun k v => { k.mend 0 (b + v.2) with vreg := Table.set (b + v.2) v.1 k.vreg }) k
    let kp := match t.mem with
      | some m => if m.dev = s.dev.devno ∧ (s.member m).kp then some (⟨s.ropeWord m.rope, false⟩ : KillNote) else t.kill
      | none => t.kill
    let s := s.setThread d i { t with vbase := if t.vcnt = 0 then 0 else b, cr := 0, acc := 0, rs := s.dev.clock, kill := kp }
    let move := fun (s : State) => s.modCore img.core fun k =>
      { k with cmds := k.cmds.map fun m => if m.x = img.x ∧ m.slot = p.1 ∧ m.thid = thidOf t then { m with slot := i } else m }
    some (if d = img.core ∧ i ≠ p.1 then move s else s)

/-- Threads are placed one after another; none where one finds no place. -/
def State.placeAll (s : State) (img : Image) : List (Nat × Thread) → Option State
  | [] => some s
  | p :: l => match s.placeSaved img p with
    | some s => s.placeAll img l
    | none => none

/-- Operations withdrawn at the save are sent again (R234, R271): an arrival at a rope that has released meanwhile is late. -/
def State.resend (s : State) (o : Op) : State :=
  match s.find o.thid with
  | none => s
  | some (c, h) =>
    let o := { o with core := c, slot := h, at_ := 0 }
    let s := { s with ops := s.ops ++ [o] }
    if o.kind ≠ .pre then s
    else match (s.thread c h).mem with
      | none => s
      | some m =>
        let off := ownOff o.addr.toNat
        let bs := s.bytes (spKey c off) o.n
        if m.dev ≠ s.dev.devno then s.sendPacket { dst := m.dev, cls := 0, ty := 8, tag := o.id, bank := 0, body := toBytes 8 (m.rope + 65536 * m.idx) ++ bs }
        else
          let r := s.rope m.rope
          if r.st = 0 ∨ 3 ≤ r.st then
            (s.modRope m.rope fun r => { r with late := min 255 (r.late + 1) }).endArrival { m := m.idx, dev := m.dev, op := o.id, bytes := [] } 1
          else
            (s.modCore c fun k => { k with locks := k.locks ++ [⟨o.id, false, (s.thread c h).x, 5, h, off, off + o.n - 1⟩] }).ropeArrive m.rope
              { m := m.idx, dev := m.dev, op := o.id, bytes := bs }

/-- The message area gives a core what it holds for it, in arrival order (R346); what finds no room stays. -/
def State.drainArea (s : State) (l c x : Nat) : State :=
  let area := (s.lease l).area
  let here := fun (p : Parked) => match p with
    | .msg d y _ _ _ => d == c && y == x
    | .keyed d _ => d == c
    | .spawn d r => d == c && (if r.bpri = 7 then 1 else 0) == x
  let s := if area.any here then s.putArea l (area.filter fun p => !here p) else s
  (area.filter here).foldl (fun s p =>
    let back := fun (s : State) => s.areaAdd l p
    match p with
    | .keyed _ ps => match s.receive c x l ps with
      | some s => s
      | none => { s with flights := s.flights ++ [(s.nextOp, .keyed c c x l ps)], nextOp := s.nextOp + 1 }
    | .spawn _ r =>
      let q := s.trySpawn c r
      (match q.2 with | .waits => q.1 | v => q.1.answerSpawn r (spawnValue v))
    | .msg _ _ n v t =>
      let held := (s.lease l).area.any fun p => match p with | .msg d y m _ _ => d == c && y == x && m == n | _ => false
      if held then back s
      else
        let k := s.ctx c x
        let q := Table.get [] n k.q
        let box := (s.core c).inbox
        let mine := box.filter fun m => m.x == x && m.q == n
        if q.length < 16 ∧ mine.isEmpty then s.setCtx c x { k with q := Table.set n (q ++ [.word v]) k.q }
        else if box.length < 64 ∧ mine.length < 16 then s.modCore c fun d => { d with inbox := d.inbox ++ [⟨x, n, v, 0, s.dev.devno, t⟩] }
        else back s) s

/-- An image goes back into place (R425); none where a thread finds no place. -/
def State.restoreImage (s : State) (img : Image) : Option State :=
  let c := img.core
  let x := img.x
  let s := s.setCtx c x { img.ctx with placed := true, away := false, drain := false, cnt := { img.ctx.cnt with capGap := true } }
  let s := { s with mem := cellsPut (s.padPart c x) img.scratch s.mem }
  let s := match img.pool with | some m => { s with mem := cellsPut (s.poolPart (clusterOf c) x) m s.mem } | none => s
  let s := s.modCore c fun k =>
    { k with tiles := img.tiles.foldl (fun t p => Table.set p.1 p.2 t) k.tiles, accs := img.accs.foldl (fun t p => Table.set p.1 p.2 t) k.accs
             locks := img.locks ++ k.locks, cmds := img.cmds ++ k.cmds
             bad := k.bad.filter fun b => !(b.1 == 1 && img.tiles.any (·.1 == b.2) || b.1 == 2 && img.accs.any (·.1 == b.2))
             src := img.src.foldl (fun t p => Table.set p.1 p.2 t) k.src, sub := img.sub.foldl (fun t p => Table.set p.1 p.2 t) k.sub }
  let keeps := fun (p : Nat × Thread) => (s.classSlots c x).contains p.1
  match s.placeAll img (img.slots.filter keeps ++ img.slots.filter fun p => !keeps p) with
  | none => none
  | some s => some (img.ops.foldl State.resend s)

/-- After the images are in place the lines are refreshed and the area drained (R132, R346, R425). -/
def State.afterRestore (s : State) (img : Image) : State := (s.refreshAll img.core img.x).drainArea img.ctx.l img.core img.x

/-- An image is written: its bytes stand at its address. -/
def State.writeImage (s : State) (img : Image) : State := s.put img.addr img.bytes

end Sys2Proof.Machine
end

