-- ==== Sys2Proof/Machine/System.lean ====
section
/-! DEFINITION. System instructions: `rte`, `sysc`, `bkpt`, `halt`, `csave`, `crest`, `tlbinv` (R216 to R221, R99, R424). -/

namespace Sys2Proof.Machine

/-- `rte` (R216, R411): at the depth of the delivery; a faulted entry that it would replace is taken (R31). What a home on another device holds is asked for
(R37). -/
def execRte (s : State) : Host.Outcome State Fault Refusal :=
  runC 0 (do
    let s ← get
    let t := s.pre
    if !t.intrap || t.depth != t.trapDepth then trapWord 0x10
    else if t.regPend.any fun p => p.1 == 37 || decide (20 ≤ p.1 ∧ p.1 < 24) then park 0
    else match badEntry t with
      | some z => throw (.cause z)
      | none => do
        if s.foreign t then
          match ← askAndWait 6 t.hdev 11 [BitVec.ofNat 64 (thidOf t), BitVec.ofNat 64 (s.trapWin t - 128), 192] with
          | 0 :: v => modCur fun t => { t with wait := .got (0 :: v) }
          | k :: _ => trap k.toNat 0
          | [] => pure ()
        else pure ()
        setDefer .rte) s

/-! ### Services of the firmware (R217, R370) -/

/-- The step that serves a request, by code; the answer to any other code has k0 all ones. -/
def serviceStep (code : Nat) (a : Arg) : Event :=
  match code with
  | 1 => ⟨.log, a⟩
  | 2 => ⟨.syscMbxput, a⟩
  | 3 => ⟨.mbxget, a⟩
  | 4 => ⟨.syscCancel, a⟩
  | _ => ⟨.syscAnswer, { a with v := BitVec.ofInt 64 (-1) }⟩

/-- `sysc` (R217): the request, with the code, the thread, k0 to k3 and the launch context number, goes to the scheduler with a number of its own, and the
thread parks until its answer. -/
def execSysc (c : BitVec 12) (s : State) : Host.Outcome State Fault Refusal :=
  runC 0 (do
    let k0 ← readReg 16
    let k1 ← readReg 17
    let k2 ← readReg 18
    let k3 ← readReg 19
    match (← get).cur.wait with
    | .done _ => modCur fun t => { t with wait := .none }
    | .service _ => park 11
    | _ =>
      if (← get).cur.fwm then trapWord 0x10
      else parkWith 11 fun s =>
        let t := s.cur
        let a : Arg := { c := s.latch.core, h := s.latch.slot, x := t.x, id := thidOf t, m := s.nextOp, n := s.curCtx.l, addr := c.toNat, v := k0, w := k1
                         ks := [k0, k1, k2, k3] }
        let s := s.modCur fun t => { t with wait := .service s.nextOp }
        { s with nextOp := s.nextOp + 1, agenda := s.agenda ++ [serviceStep c.toNat a] }) s

/-- `bkpt` (R218); the cross-trigger is pulsed where the cause is taken. -/
def execBkpt (c : BitVec 12) (s : State) : Host.Outcome State Fault Refusal :=
  runC 0 (trap 0x02 (BitVec.ofNat 64 (c.toNat + 4096 * s.latch.len))) s

/-- `halt` (R219): parks until WAKE. -/
def execHalt (s : State) : Host.Outcome State Fault Refusal :=
  runC 0 (do
    let t := (← get).cur
    if !t.fwm then trap 0x17 0
    else match t.wait with
      | .done _ => modCur fun t => { t with wait := .none }
      | .halt => park 11
      | _ => parkWith 11 fun s => s.modCur fun t => { t with wait := .halt }) s

/-! ### Images by instruction (R220, R424) -/

/-- The memory key of a place of an image area. -/
def State.areaKey (s : State) (l va : Nat) : Option Nat :=
  match spaceOf va with
  | some (.camp o) => some (campKey o)
  | some (.glob _) => match s.walk l va with
    | some (z, pa, _) => some (s.fwd (pa + va % pageBytes z))
    | none => none
  | _ => none

/-- Image bytes written, and read, at an area's address, line by line. -/
def State.areaPut (s : State) (l va : Nat) (bs : List Byte) : State :=
  (List.range ((bs.length + 63) / 64)).foldl (fun s i =>
    match s.areaKey l (va + 64 * i) with
    | some k => s.put k (slice bs (64 * i) 64)
    | none => s) s
def State.areaBytes (s : State) (l va n : Nat) : List Byte :=
  ((List.range ((n + 63) / 64)).flatMap fun i => match s.areaKey l (va + 64 * i) with
    | some k => s.bytes k 64
    | none => List.replicate 64 0).take n

/-- The operands of `csave` and `crest`, checked: address, core, context (R220). -/
def imageOperands (f : Rrr) : Ex (Nat × Nat × Nat) := do
  let a ← src f.a
  let b ← src f.b
  let s ← get
  let v := b.toNat
  if !s.cur.fwm then trap 0x17 0
  else if v ≠ bits v 0 9 + b2n (bit v 16) * 2 ^ 16 then trap 0x12 b
  else if a.toNat % 64 ≠ 0 then trap 0x13 a
  else match spaceOf a.toNat with
    | none => trap 0x15 a
    | some (.camp _) | some (.glob _) =>
      if (s.areaKey s.curCtx.l a.toNat).isNone then trap 0x16 a else pure (a.toNat, bits v 0 9, b2n (bit v 16))
    | some _ => trap 0x17 a

/-- `csave` (R220, R421): the context comes to the points that R421 names, its image is written, and it goes on, unless a pre-emption holds it. -/
def execCsave (f : Rrr) (s : State) : Host.Outcome State Fault Refusal :=
  runC 0 (do
    let (a, c, x) ← imageOperands f
    let s ← get
    let l := s.curCtx.l
    let stage ← match s.cur.wait with
      | .image n => pure n
      | _ => parkWith 11 fun s =>
        let away := (s.ctx c x).away
        let s := s.modCur fun t => { t with wait := .image (if away then 2 else 1) }
        if away then s else s.saveRung c x
    if !s.saveReady c x then park 11
    else
      let r := s.buildImage c x a
      modify fun _ => r.2.modSched fun q => { q with images := r.1 :: q.images }
      modify fun s => s.areaPut l a r.1.bytes
      if stage = 1 then modify fun s =>
        match (s.removeCtx c x).restoreImage r.1 with
        | some s => s.afterRestore r.1
        | none => s
      else pure ()
      modCur fun t => { t with wait := .none }
      dest f.d (BitVec.ofNat 64 r.1.bytes.length)) s

/-- The image that the bytes at an address are, where its check is good (R422, R424). -/
def State.imageAt (s : State) (l a : Nat) : Option Image :=
  let b := s.areaBytes l a (ofBytes (slice (s.areaBytes l a 12) 8 4))
  if imageGood b then some (imageOf (s.sched.images ++ s.sched.launches.flatMap (·.images)) a b) else none

/-- The image names the core and context of the operand, and its launch context number belongs to a launch of its job (R424). -/
def State.imageFits (s : State) (i : Image) (c x : Nat) : Bool :=
  i.core == c && i.x == x && s.sched.launches.any fun n => n.l == i.ctx.l && n.job == i.ctx.job && n.st != .ended && n.st != .lost

/-- `crest` (R220, R424). -/
def execCrest (f : Rrr) (s : State) : Host.Outcome State Fault Refusal :=
  runC 0 (do
    let (a, c, x) ← imageOperands f
    let s ← get
    match (s.imageAt s.curCtx.l a).filter fun i => s.imageFits i c x with
    | none => dest f.d 2
    | some i => match (s.removeCtx c x).restoreImage i with
      | none => dest f.d 1
      | some r => do modify fun _ => r.afterRestore i; dest f.d 0) s

/-! ### Shoot-downs (R99, R221) -/

/-- The entries of a context and range leave a cluster: its TLB, and the L1D and L1I lines of its cores (R99). -/
def State.shootCluster (s : State) (l lo hi k : Nat) : State :=
  let s := s.modCluster k fun q =>
    { q with inval := (q.inval + 1) % 2 ^ 32
             tlb := q.tlb.filter fun e => !(e.l == l && overlap lo (hi - lo) (e.vpn * 65536 / pageBytes e.size * pageBytes e.size) (pageBytes e.size)) }
  let keep := fun (e : Line) => !(e.l == l && overlap lo (hi - lo) e.va 64)
  (clusterCores k).foldl (fun s c =>
    if (s.core c).l1d.isEmpty && (s.core c).l1i.isEmpty then s
    else s.modCore c fun q => { q with l1d := q.l1d.filter keep, l1i := q.l1i.filter keep }) s

/-- The clusters that hold cores of a context. -/
def State.clustersOf (s : State) (l : Nat) : List Nat :=
  distinct ((s.ctxs.filter fun p => p.2.placed && p.2.l == l).map fun p => clusterOf (p.1 / 2))

/-- A shoot-down starts, with its first cluster; its number is the next one before the call (R99). -/
def State.startShoot (s : State) (l lo hi : Nat) (mig : Option Nat) : State :=
  let ks := s.clustersOf l
  let s := { s with shoots := s.shoots ++ [⟨s.nextOp, l, lo, hi, ks, mig⟩], nextOp := s.nextOp + 1 }
  match ks with
  | k :: _ => s.shootCluster l lo hi k
  | [] => s

/-- What both forms share: the range, and the wait for every cluster. -/
def shootDown (l : Nat) (a : Word) (start len : Nat) : Ex Unit := do
  let lo := if len = 0 then 0 else start / 65536 * 65536
  let hi := if len = 0 then 2 ^ 56 else lo + (len + 65535) / 65536 * 65536
  match (← get).cur.wait with
  | .done _ => modCur fun t => { t with wait := .none }
  | .shoot _ => park 11
  | _ =>
    if 2 ^ 56 < hi then trap 0x15 a
    else parkWith 11 fun s => (s.modCur fun t => { t with wait := .shoot s.nextOp }).startShoot l lo hi none

/-- `tlbinv` (R221). -/
def execTlbinv (a b : BitVec 6) (s : State) : Host.Outcome State Fault Refusal :=
  runC 0 (do
    let v ← src a
    let n ← src b
    if 2 ^ 56 ≤ v.toNat then trap 0x15 v else shootDown (← get).curCtx.l v v.toNat n.toNat) s

/-- `tlbinv.ctx` (R221). -/
def execTlbinvCtx (a b : BitVec 6) (s : State) : Host.Outcome State Fault Refusal :=
  runC 0 (do
    let v ← src a
    let n ← src b
    if !(← get).cur.fwm then trap 0x17 v else shootDown (v.toNat / 2 ^ 56) v (v.toNat % 2 ^ 56) n.toNat) s

end Sys2Proof.Machine
end

