-- ==== Sys2Proof/Machine/EvMem.lean ====
section
/-! DEFINITION. Steps of the memories: data returning, stores acknowledged, banks, walks, shoot-downs, page migration, resident pages, scrubbing
(R30, R40, R84 to R91, R96 to R103, R116, R126, R188, R234, R277, R415). -/

namespace Sys2Proof.Machine

/-! ### Records of causes that belong to no thread (R413) -/

/-- The firmware core of a role, the belayer of rank 0 among its kind (R391). -/
def State.roleCore (s : State) (role : Nat) : Option Nat := (s.dev.roles.find? fun r => r.2.1 == role && r.2.2 == 0).map Prod.fst

/-- A core's control-space wake, or a device-level fault routed to it, ends `halt` there (R219). -/
def State.wakeHalted (s : State) (c : Nat) : State :=
  (s.threadsOf c).foldl (fun s p => s.modThread c p.1 fun t => if t.wait = .halt then { t with wait := .done 0 } else t) s

/-- A device-level fault is routed to the core of a role. -/
def State.wakeRole (s : State) (role : Nat) : State := match s.roleCore role with | some c => s.wakeHalted c | none => s

/-- A device-level cause that strikes a context is recorded in its fault ring and in the device fault log. -/
def State.contextFault (s : State) (c l code tval : Nat) : State :=
  let e := s.lease l
  let n := match s.sched.launches.find? fun n => n.l == l && n.st != .ended with | some n => n.id | none => 0
  let rec64 := toBytes 1 code ++ toBytes 1 3 ++ toBytes 6 0 ++ toBytes 8 0 ++ toBytes 8 tval ++ toBytes 8 s.now ++ toBytes 8 0 ++ toBytes 8 n ++
    toBytes 2 c ++ toBytes 14 0
  let s := s.put (e.saveBase + 64 * (e.fcnt % 1024)) rec64
  ((s.modLease l fun e => { e with fcnt := e.fcnt + 1 }).flog code 3 c l (BitVec.ofNat 64 tval)).wakeRole 1

/-! ### Reading for a load (R84, R86, R96, R111, R116) -/

/-- What reading the bytes of an access comes to. -/
inductive Got where
  | bytes (s : State) (bs : List Byte)
  | waits (s : State)
  | bad (code tval : Nat)

/-- The name under which an access stands in signatures and buffers (R116). -/
def accessName (c va : Nat) : Nat :=
  match spaceOf va with
  | some (.own _ o) => spKey c o
  | some (.other d o) => spKey d o
  | _ => va

/-- The physical place of a global byte, from the L1D line or the TLB entry that served it, with whether the L1D holds it. -/
def State.physOf (s : State) (c l va : Nat) : Option (Nat × Bool) :=
  match (s.core c).l1d.find? fun e => e.l == l && e.va == va / 64 * 64 with
  | some e => some (e.pa + va % 64, true)
  | none => (s.tlbFind (clusterOf c) l va).map fun e => (e.pa va, false)

/-- A poisoned word among global bytes that no L1D line holds (R414, R415). -/
def State.globEcc (s : State) (c l va n : Nat) : Option Nat :=
  if s.poison.isEmpty then none
  else (cutLines va n).findSome? fun p => match s.physOf c l p.1 with
    | some (pa, false) => (s.poisoned (s.fwd pa) p.2).map eccTval
    | _ => none

/-- Bytes at a key, unless a word among them is poisoned. -/
def State.keyBytes (s : State) (k n : Nat) : Got :=
  match s.eccIn [(k, n)] with
  | some v => .bad 0x30 v
  | none => .bytes s (s.bytes k n)

/-- An operation names a place of its thread's bivouac area on another device, which that device serves (R37). -/
def State.farPlace (s : State) (o : Op) : Bool :=
  match spaceOf o.addr.toNat with
  | some (.other d p) => s.farHome (s.thread o.core o.slot) d p o.n
  | _ => false

/-- The home device of an operation's thread is asked to perform it: 11 a read, 15 an atomic (R37). -/
def State.askArea (s : State) (o : Op) (code : Nat) (ws : List Word) : State :=
  if o.at_ ≠ 0 then s else (s.setOp { o with at_ := 1 }).tell (s.thread o.core o.slot).hdev code o.id (BitVec.ofNat 64 o.thid :: o.addr :: ws)

/-- The bytes of a load, as memory holds them now. -/
def State.readAccess (s : State) (o : Op) (n : Nat) : Got :=
  let c := o.core
  let t := s.thread c o.slot
  let va := o.addr.toNat
  let l := (s.ctx c t.x).l
  match spaceOf va with
  | none => .bad 0x15 va
  | some (.own _ p) => s.keyBytes (spKey c p) n
  | some (.other d p) => if d ≠ c ∧ s.farLock d p n false then .waits s else s.keyBytes (spKey d p) n
  | some (.pool k p) => s.keyBytes (poolKey k p) n
  | some (.camp p) =>
    if s.bankPending c (bankOf p) o.id then .waits s
    else match s.keyBytes (campKey p) n with
      | .bytes s _ => .bytes s (s.campBytes p n)
      | r => r
  | some (.host _ _) => .waits s
  | some (.ctl a) =>
    let bs := s.ctlBytes a n
    match mstatOf a n with
    | some m => .bytes { s with agenda := ⟨.mstatRead, { m := m }⟩ :: s.agenda } bs
    | none => .bytes s bs
  | some (.glob a) =>
    if s.regionBusy a || !s.held a then .waits s
    else match s.globLoad c t.x o.slot l a ((a + n - 1) / 64 - a / 64 + 1) with
      | .ok (s, bs) => match s.globEcc c l a n with
        | some v => .bad 0x30 v
        | none => .bytes s (bs.take n)
      | .miss => .waits (s.startWalk (clusterOf c) l a c t.x o.slot)
      | .bad k => .bad k a

/-- What a load, plain, vector or atomic, has read sets its bits in the signature of its timed task (R116, R224). -/
def State.noteSig (s : State) (o : Op) (name n : Nat) : State :=
  s.modThread o.core o.slot fun t =>
    if t.timed ∧ t.tseq = o.tseq ∧ ¬ o.dropped then { t with sigHere := (linesOf name n).foldl (fun g l => setSig g (64 * l)) t.sigHere } else t

/-- A load is performed: its watchpoints and its signature bits (R116, R404). -/
def State.noteLoad (s : State) (o : Op) (name n : Nat) : State := (s.watch o.core (s.thread o.core o.slot).x o.slot name n 0).noteSig o name n

/-- The value that a load's bytes become. -/
def loadValue (o : Op) (bs : List Byte) : Word :=
  if o.sgn then BitVec.ofInt 64 (sInt (8 * o.n) (ofBytes bs)) else BitVec.ofNat 64 (ofBytes bs)

/-- Vector registers filled by an operation, after an abort of its task too (R227, R277, R299). -/
def State.fillV (s : State) (o : Op) (vs : List (BitVec 4096)) : State :=
  match o.dest with
  | .vregs rs => s.modCore o.core fun k => (rs.zip vs).foldl (fun k p => { k.mend 0 p.1 with vreg := Table.set p.1 p.2 k.vreg }) k
  | _ => s

/-- A load's fill stands: a result of the same bundle's A-slot for the register is not written after it (R299). -/
def State.fillStands (s : State) (o : Op) : State :=
  match o.dest with
  | .vregs rs => { s with ops := s.ops.map fun (q : Op) => if q.kind = .vec ∧ q.core = o.core ∧ q.slot = o.slot then
      (match q.dest with
        | .vregs vs => let left := (vs.zip q.more).filter fun p => !rs.contains p.1
                       { q with dest := .vregs (left.map Prod.fst), more := left.map Prod.snd }
        | _ => q) else q }
  | _ => s

/-- The bytes of a load have arrived. -/
def State.loaded (s : State) (o : Op) (bs : List Byte) : State :=
  let name := accessName o.core o.addr.toNat
  let bs := if o.dropped then bs else overlay (s.thread o.core o.slot) name bs
  let s := s.noteLoad o name bs.length
  if o.kind = .vload then ((s.fillV o [BitVec.ofNat 4096 (ofBytes bs)]).fillStands o).complete o 0 else s.complete o (loadValue o bs)

/-- The steps of the generator behind a converting load (R149). -/
def loadSteps (o : Op) (n : Nat) : List Nat := if fpcRM o.fpc = 5 then (srSteps n o.seed).map fun x => x.toNat % 65536 else []

/-- The elements that a converting or indexed load reads, and the scratchpad ranges they stand in (R84, R227, R297). -/
def State.loadElems (s : State) (o : Op) : BitVec 4096 × List (Nat × Nat) :=
  let rd := s.seen o.core o.slot
  let d := descOf o.wd
  let r : Rnd := { rm := fpcRM o.fpc, fzi := fpcFZI o.fpc, fzo := fpcFZO o.fpc, ctl := fpcSATN o.fpc }
  if o.aop = 3 then
    let w := vtyWidth o.n
    (packElems w (o.more.map fun b => ofBytes ((List.range ((b % 8 + w + 7) / 8)).map fun j => rd (b / 8 + j)) / 2 ^ (b % 8) % 2 ^ w),
      o.more.map fun b => (b / 8, (b % 8 + w + 7) / 8))
  else
    let is := if o.aop = 1 then (List.range o.n).map (d.index (ownOff o.addr.toNat) + ·) else o.more
    let g := loadSteps o is.length
    (packElems (vtyWidth d.vtype) (is.zipIdx.map fun p => d.load rd { r with g := g.getD p.2 0 } p.1),
      if o.aop = 1 then d.dataRuns (is.headD 0) o.n ++ d.scaleRuns (is.headD 0) o.n else is.map d.elemBytes ++ is.flatMap fun i => d.scaleRuns i 1)

/-- A load's own step (R30, R225, R227, R297). -/
def State.serveLoad (s : State) (o : Op) : State :=
  let va := o.addr.toNat
  if o.kind = .vload ∧ o.aop ≠ 0 then
    let e := s.loadElems o
    match s.eccIn (e.2.map fun r => (spKey o.core r.1, r.2)) with
    | some v => s.failOp o 0x30 (BitVec.ofNat 64 v)
    | none =>
      let s := e.2.foldl (fun s r => s.noteLoad o (spKey o.core r.1) r.2) s
      ((s.fillV o [e.1]).fillStands o).complete o 0
  else if s.farPlace o then s.askArea o 11 [BitVec.ofNat 64 o.n]
  else if isHostKey va then
    if o.at_ = 0 then
      (s.setOp { o with at_ := 1 }).modSched fun q => { q with out := q.out ++ [.read o.id (s.hostAddr va) o.n] }
    else s
  else match s.readAccess o o.n with
    | .waits s => s
    | .bad k v => s.failOp o k (BitVec.ofNat 64 v)
    | .bytes s bs => s.loaded o bs

/-! ### Atomics (R90, R91, R120, R126, R228, R229) -/

/-- The fence that stands after an atomic of a scope wider than thread drops what its core's L1D holds (R96, R119, R120). -/
def State.afterAtomic (s : State) (o : Op) : State :=
  if s.dropsL1 o.core (s.thread o.core o.slot).x o.scope 0 && wideOp o then s.modCore o.core fun k => { k with l1d := [] } else s

/-- An atomic has been performed: its signature bits, its fence and its result. -/
def State.atomicDone (s : State) (o : Op) (v : Word) : State := ((s.noteSig o (accessName o.core o.addr.toNat) o.n).afterAtomic o).complete o v

/-- The home of a thread's areas has answered an operation: a cause, or the bytes or the old value (R37). -/
def State.areaAnswer (s : State) (o : Op) (ws : List Word) : State :=
  let code := (ws.getD 0 0).toNat
  if code ≠ 0 then s.failOp o code (if code = 0x30 then ws.getD 1 0 else o.addr)
  else match o.kind with
    | .load | .vload => s.loaded o (((ws.drop 1).flatMap fun w => toBytes 8 w.toNat).take o.n)
    | _ => s.atomicDone o (ws.getD 1 0)

/-- The atomic operation at a key. -/
def State.atomicAt (s : State) (o : Op) (k : Nat) : State :=
  match s.eccIn [(s.fwd k, o.n)] with
  | some v => s.failOp o 0x30 (BitVec.ofNat 64 v)
  | none =>
    let old := s.word (s.fwd k) o.n
    let s := s.land o.core k (toBytes o.n (atomicValue o.aop old o.data.toNat o.exp.toNat))
    let s := s.watch o.core (s.thread o.core o.slot).x o.slot (accessName o.core o.addr.toNat) o.n 2
    s.atomicDone o (BitVec.ofNat 64 old)

/-- An atomic at a scratchpad waits for room in the update queue. -/
def State.atomicSp (s : State) (o : Op) (d p : Nat) : State := if s.updateRoom d p o.n then s.atomicAt o (spKey d p) else s

/-- An atomic or a full/empty request reaches its home. -/
def State.serveAtomic (s : State) (o : Op) : State :=
  let c := o.core
  let t := s.thread c o.slot
  let va := o.addr.toNat
  let l := (s.ctx c t.x).l
  match spaceOf va with
  | none => s.failOp o 0x15 o.addr
  | some (.own _ p) => s.atomicSp o c p
  | some (.other d p) =>
    if s.farHome t d p o.n then s.askArea o 15 [BitVec.ofNat 64 o.n, BitVec.ofNat 64 o.aop, o.data.setWidth 64, o.exp]
    else if d = c then s.atomicSp o d p
    else if s.farLock d p o.n true then s
    else if s.subHit d p o.n then s.failOp o 0x18 o.addr
    else s.atomicSp o d p
  | some (.pool k p) => s.atomicAt o (poolKey k p)
  | some (.camp p) =>
    let b := bankOf p
    if s.bankPending c b o.id then s
    else { s.setOp { o with at_ := 1 } with bankQ := Table.set b (Table.get [] b s.bankQ ++ [.op o.id]) s.bankQ }
  | some (.host _ _) =>
    if o.at_ = 0 then
      (s.setOp { o with at_ := 1 }).modSched fun q => { q with out := q.out ++ [.atomic o.id (s.hostAddr va) o.aop o.n (o.data.setWidth 64) o.exp] }
    else s
  | some (.ctl a) =>
    let old := ofBytes (s.ctlBytes a o.n)
    (s.ctlWrite false a (toBytes o.n (atomicValue o.aop old o.data.toNat o.exp.toNat))).atomicDone o (BitVec.ofNat 64 old)
  | some (.glob a) =>
    if s.regionBusy a || !s.held a then s
    else match s.locate c l a 3 with
      | .ok k => s.atomicAt o k
      | .miss => s.startWalk (clusterOf c) l a c t.x o.slot
      | .bad k => s.failOp o k o.addr

/-! ### Stores (R40, R100, R112, R126, R131) -/

/-- The key of a piece of a store, with the checks made as it arrives. -/
def State.placePiece (s : State) (o : Op) (b : BufStore) : Look Nat :=
  let c := o.core
  let t := s.thread c o.slot
  let va := b.va.toNat
  match spaceOf va with
  | some (.other d p) =>
    if s.farHome t d p b.bytes.length then .ok (farKey va)
    else if d ≠ c ∧ s.subHit d p b.bytes.length then .bad 0x18
    else .ok (spKey d p)
  | some (.glob a) => if s.regionBusy a || !s.held a then .miss else s.locate c (s.ctx c t.x).l a 2
  | _ => .ok b.key

/-- Stores written through together wait for locks at their targets, for room, for accesses that the core sent to their bank before, and for registers
that must not be written yet (R86, R91, R126, R347, R387). -/
def State.piecesWait (s : State) (o : Op) (ps : List BufStore) : Bool :=
  !s.landRoom (ps.map fun b => (b.key, b.bytes.length)) || ps.any fun b =>
    (match spOf b.key with | some (d, p) => s.farLock d p b.bytes.length true | none => false) ||
      (match campOff b.key with | some p => s.bankPending o.core (bankOf p) o.id | none => false) || (isCtlKey b.key && (s.ctlHolds b.key).isSome)

/-- A store is acknowledged (R40): its pieces stand in the commit buffer or, in a head-serialised task, are written through. -/
def State.serveStore (s : State) (o : Op) : State :=
  let c := o.core
  let h := o.slot
  let t := s.thread c h
  if o.at_ = 1 ∨ o.pieces = [] then s.complete o 0
  else
    let ks := o.pieces.map fun b => (b, s.placePiece o b)
    match ks.findSome? fun p => match p.2 with | .bad k => some (k, p.1.va) | _ => none with
    | some (k, va) => s.failOp o k va
    | none =>
      match ks.find? fun p => match p.2 with | .miss => true | _ => false with
      | some (b, _) => if s.held b.va.toNat then s.startWalk (clusterOf c) (s.ctx c t.x).l b.va.toNat c t.x h else s
      | none =>
        let ps := ks.map fun p => match p.2 with | .ok k => { p.1 with key := k, sb := o.sb } | _ => p.1
        if t.serial then
          if s.piecesWait o ps then s else (s.landTogether (fun s b => s.landStore c h b) ps).complete o 0
        else (s.modThread c h fun t => { t with buf := t.buf ++ ps }).complete o 0

/-! ### The steps -/

/-- LOAD_DATA_RETURN (R30): argument `id`, the operation. -/
def execLoadDataReturn (s : State) : Host.Outcome State Fault Refusal :=
  match s.opById s.arg.id with
  | some o => .next (match o.kind with
    | .load | .vload => s.serveLoad o
    | .atomic | .fe => if o.at_ = 0 then s.serveAtomic o else s
    | _ => s)
  | none => .next s

/-- STORE_ACK (R40): argument `id`. -/
def execStoreAck (s : State) : Host.Outcome State Fault Refusal :=
  match s.opById s.arg.id with
  | some o => .next (if o.kind = .store ∨ o.kind = .vstore then s.serveStore o else s)
  | none => .next s

/-- REMOTE_SCRATCHPAD_ACCESS (R86): an access of operation `id` to another core's scratchpad is served once no lock there blocks it. -/
def execRemoteScratchpadAccess (s : State) : Host.Outcome State Fault Refusal :=
  match s.opById s.arg.id with
  | none => .next s
  | some o =>
    match spaceOf o.addr.toNat with
    | some (.other d _) =>
      if d = o.core then .next s
      else match o.kind with
        | .load | .vload => .next (s.serveLoad o)
        | .atomic => .next (s.serveAtomic o)
        | .store | .vstore => .next (s.serveStore o)
        | _ => .next s
    | _ => .next s

/-- LONG_RESULT_READY (R188): argument `id`. -/
def execLongResultReady (s : State) : Host.Outcome State Fault Refusal :=
  match s.opById s.arg.id with
  | some o => .next (if o.kind = .long then s.complete o (o.data.setWidth 64) else s)
  | none => .next s

/-- VECTOR_RESULT_WRITE (R277): argument `id`. -/
def execVectorResultWrite (s : State) : Host.Outcome State Fault Refusal :=
  match s.opById s.arg.id with
  | some o => .next (if o.kind = .vec then (s.fillV o (o.more.map fun v => BitVec.ofNat 4096 v)).complete o (o.data.setWidth 64) else s)
  | none => .next s

/-! ### Banks (R91, R233, R234, R362) -/

/-- The bank serves a request now, where the word's bit allows: the state after it, and whether the bit changed. A mailbox request with
`put` waits for an empty word and fills it; one without waits for a full word, and empties it unless it peeks; `tell` posts its packet's
result. -/
def State.bankServe (s : State) (tell : State → Nat → Nat → Word → State) (r : BankReq) : Option (State × Bool) :=
  let isFull := fun (p : Nat) => s.full.contains p
  let fill := fun (s : State) (p : Nat) (v : Word) => { (s.put (campKey p) (toBytes 8 v.toNat)) with full := p :: s.full.filter (· != p) }
  let drain := fun (s : State) (p : Nat) => { s with full := s.full.filter (· != p) }
  match r with
  | .op id =>
    match s.opById id with
    | none => some (s, false)
    | some o =>
      let p := o.addr.toNat % 0x10000000
      let s := if o.kind = .fe then s.watch o.core (s.thread o.core o.slot).x o.slot o.addr.toNat 8 2 else s
      if o.kind ≠ .fe then some (s.atomicAt o (campKey p), false)
      else if o.aop = 0 then
        if isFull p then
          match s.eccIn [(campKey p, 8)] with
          | some v => some (s.failOp o 0x30 (BitVec.ofNat 64 v), false)
          | none => some ((drain s p).atomicDone o (BitVec.ofNat 64 (s.word (campKey p) 8)), true)
        else none
      else if isFull p then none else some ((fill s p (o.data.setWidth 64)).atomicDone o 0, true)
  | .mbx q i p put peek v =>
    if put then (if isFull p then none else some (tell (fill s p v) q i 0, true))
    else if !isFull p then none
    else
      let w := BitVec.ofNat 64 (s.word (campKey p) 8)
      some (tell (if peek then s else drain s p) q i w, !peek)

/-- The word that a request names. -/
def State.reqWord (s : State) (r : BankReq) : Nat :=
  match r with
  | .op id => match s.opById id with | some o => o.addr.toNat % 0x10000000 | none => 0
  | .mbx _ _ p _ _ _ => p

/-- After a word's bit has changed, its waiting requests are served in arrival order, as far as the new state allows. -/
def State.bankWake (s : State) (tell : State → Nat → Nat → Word → State) (b p : Nat) : Nat → State
  | 0 => s
  | f + 1 =>
    let l := Table.get [] b s.bankWait
    match l.findSome? fun r => if s.reqWord r = p then (s.bankServe tell r).map fun x => (r, x) else none with
    | none => s
    | some (r, s', _) => { s' with bankWait := Table.set b ((Table.get [] b s'.bankWait).erase r) s'.bankWait }.bankWake tell b p f

/-- A request is executed at its bank, enters the waiting list, or is refused by a full list and sent again after 256 s-cycles. -/
def State.bankTake (s : State) (tell : State → Nat → Nat → Word → State) (b : Nat) (r : BankReq) : State :=
  let w := s.reqWord r
  match s.bankServe tell r with
  | some (s, changed) => if changed then s.bankWake tell b w ((Table.get [] b s.bankWait).length + 1) else s
  | none =>
    let gone := match r with
      | .op id => (match s.opById id with | some o => (s.ctx o.core (s.thread o.core o.slot).x).away | none => true)
      | _ => false
    if gone then { s with ops := s.ops.map fun o => if r = .op o.id then { o with at_ := 4 } else o }
    else
    let l := Table.get [] b s.bankWait
    let mark := fun (n : Nat) => match r with
      | .op id => { s with ops := s.ops.map fun o => if o.id = id then { o with at_ := n, exp := BitVec.ofNat 64 (s.dev.clock + 256) } else o }
      | _ => s
    if l.length < 256 then { mark 2 with bankWait := Table.set b (l ++ [r]) s.bankWait }
    else match r with
      | .op _ => mark 3
      | _ => { s with bankQ := Table.set b (Table.get [] b s.bankQ ++ [r]) s.bankQ }

/-- FE_RETRY (R234): a refused request, argument `id`, is sent again after 256 s-cycles. -/
def execFeRetry (s : State) : Host.Outcome State Fault Refusal :=
  match s.opById s.arg.id with
  | some o => .next (if o.kind = .fe ∧ o.at_ = 3 ∧ o.exp.toNat ≤ s.dev.clock then s.setOp { o with at_ := 0 } else s)
  | none => .next s

/-! ### Walks and shoot-downs (R97, R99, R378) -/

/-- TLB_WALK_COMPLETE (R97, R99): argument `id`. A walk overtaken by a shoot-down is made again; one that finds no page reports WALK_FAULT once
and waits for the mapping; where another device holds the region the access moves its thread (R105). -/
def execTlbWalkComplete (s : State) : Host.Outcome State Fault Refusal :=
  match s.clusters.findSome? fun p => (p.2.walks.find? fun w => w.id == s.arg.id).map fun w => (p.1, w) with
  | none => .next s
  | some (k, w) =>
    let q := s.cluster k
    let put := fun (l : List Walk) => s.modCluster k fun q => { q with walks := l }
    let rest := q.walks.filter fun x => x.id != w.id
    if w.seq ≠ q.inval then .next (put (q.walks.map fun x => if x.id = w.id then { x with seq := q.inval } else x))
    else if !s.held w.va then .next (put rest)
    else match s.tlbEntry w.l w.va with
      | some e => .next ((put rest).tlbFill k e)
      | none =>
        if w.told then .next s
        else
          let s := put (q.walks.map fun x => if x.id = w.id then { x with told := true } else x)
          .next (s.contextFault (coreOf k 0) w.l 0x40 w.va)

/-- Stores buffered, or on their way, to a physical range. -/
def State.buffered (s : State) (lo n : Nat) : Bool :=
  s.allThreads.any fun t => t.buf.any fun b => overlap b.key b.bytes.length lo n

/-- SHOOTDOWN_COMPLETE (R99, R103): one cluster of shoot-down `id` is done; the next is shot down, and with the last the requester goes on; one
that ends a page migration takes its forwarding entry away, once no store still stands translated to the old page. -/
def execShootdownComplete (s : State) : Host.Outcome State Fault Refusal :=
  match s.shoots.find? fun x => x.id == s.arg.id with
  | none => .next s
  | some x =>
    let held := match x.mig with
      | some m => s.sched.migs.any fun g => g.id == m && s.buffered g.old g.len
      | none => false
    if held then .next s
    else match x.clusters with
      | _ :: k :: r =>
        let s := { s with shoots := s.shoots.map fun (y : Shoot) => if y.id = x.id then { y with clusters := k :: r } else y }
        .next (s.shootCluster x.l x.lo x.hi k)
      | _ =>
        let s := { s with shoots := s.shoots.filter fun (y : Shoot) => y.id != x.id }
        let s := s.mapThreads fun t => if t.wait = .shoot x.id then { t with wait := .done 0 } else t
        .next (match x.mig with
          | some m => s.modSched fun q => { q with migs := q.migs.filter fun g => g.id != m }
          | none => s)

/-! ### Page migration and resident pages (R101 to R103) -/

/-- A leaf entry with its page address and MIG bit changed. -/
def State.putLeaf (s : State) (p v pa : Nat) (mig : Bool) : State := s.put p (toBytes 8 (putBits (putBits v 8 48 (pa / 256)) 6 1 (b2n mig)))

/-- A page of 2 MiB moves to another device as the token of its region does (R103, R104; log 153): once nothing is under way there, and both have room. -/
def State.moveRegion (s : State) (l va dev : Nat) : State :=
  let r := va / regionBytes
  match s.leafAt l va, s.tokenWay r with
  | some (1, _, v), some w =>
    if bit v 6 ∨ !s.reach dev ∨ (s.tokenOf va).isSome ∨ !s.regionQuiet r then s
    else
      let job := match s.ctxs.find? fun p => p.2.placed && p.2.l == l with | some p => p.2.job | none => 0
      s.giveToken dev 3 job r w
  | _, _ => s

/-- PAGE_MIGRATION_LINE (R103): with `id` 0 the firmware starts to move the page of context `x` at `addr` to the physical address `v`, or, where `ok`, to
device `m`; else one line of migration `id` is copied, and after the last the mapping is changed and shot down. -/
def execPageMigrationLine (s : State) : Host.Outcome State Fault Refusal :=
  let a := s.arg
  if a.id = 0 ∧ a.ok then .next (s.moveRegion a.x a.addr (a.m % 2 ^ 15))
  else if a.id = 0 then
    match s.leafAt a.x a.addr with
    | none => .next s
    | some (z, p, v) =>
      let new := a.v.toNat
      let old := bits v 8 48 * 256
      if bit v 6 ∨ new % pageBytes z ≠ 0 ∨ 0xC000000000 < new + pageBytes z ∨ overlap old (pageBytes z) new (pageBytes z) then .next s
      else .next { (s.putLeaf p v old true).modSched (fun q =>
          { q with migs := q.migs ++ [⟨s.nextOp, a.x, a.addr / pageBytes z * pageBytes z, old, new, pageBytes z, 0⟩] }) with nextOp := s.nextOp + 1 }
  else match s.sched.migs.find? fun m => m.id == a.id with
    | none => .next s
    | some m =>
      if m.len ≤ m.done then .next s
      else
        let s := (s.put (m.new + m.done) (s.bytes (m.old + m.done) 64)).modSched fun q =>
          { q with migs := q.migs.map fun g => if g.id = m.id then { g with done := m.done + 64 } else g }
        if m.done + 64 < m.len then .next s
        else match s.leafAt m.l m.va with
          | some (_, p, v) => .next ((s.putLeaf p v m.new false).startShoot m.l m.va (m.va + m.len) (some m.id))
          | none => .next (s.startShoot m.l m.va (m.va + m.len) (some m.id))

/-- Bytes padded with zeros to a length. -/
def padTo (n : Nat) (l : List Byte) : List Byte := l.take n ++ List.replicate (n - l.length) 0

/-- The firmware makes a page of 64 KiB resident at a physical address, with rights and, where it brings any, its bytes (R102, R378). -/
def State.mapPage (s : State) (l va pa rights : Nat) (bs : List Byte) : State :=
  match s.leafSlot l va with
  | some p =>
    if pa % 65536 ≠ 0 ∨ s.hbmEnd < pa + 65536 ∨ bit (s.word p 8) 0 then s
    else (if bs.isEmpty then s else s.put pa (padTo 65536 bs)).put p (toBytes 8 (pa + rights % 8 * 4 + 3))
  | none => s

/-- The touched set with a page touched now, in the lowest free place of 4,096 or in that of the page touched least recently and not in use, which is
evicted (R102, R379). -/
def Lease.touch (e : Lease) (page : Nat) : Lease × Option Nat :=
  match e.touched.find? fun p => p.2.1 == page with
  | some p => ({ e with touched := e.touched.filter (fun q => q.2.1 != page) ++ [p] }, none)
  | none => match (List.range 4096).find? fun i => e.touched.all fun p => p.1 != i with
    | some i => ({ e with touched := e.touched ++ [(i, page, false)] }, none)
    | none => match e.touched.find? fun p => !p.2.2 with
      | some p => ({ e with touched := e.touched.filter (fun q => q.1 != p.1) ++ [(p.1, page, false)] }, some p.2.1)
      | none => (e, none)

/-- The mapping of an evicted page goes, where it is one of 64 KiB that no lease covers or pins, with a shoot-down (R99, R102; log 154). -/
def State.evict (s : State) (l page : Nat) : State :=
  match s.leafAt l (page * 65536) with
  | some (0, p, v) =>
    if bit v 5 ∨ (allLeases (s.lease l)).any fun r => r.v && overlap (page * 65536) 65536 r.lo r.len then s
    else (s.put p (toBytes 8 (putBits v 0 1 0))).startShoot l (page * 65536) ((page + 1) * 65536) none
  | _ => s

/-- PAGE_RESIDENT (R102): the firmware makes the page `n` of 64 KiB resident for context `x`, at the physical address `addr` with rights `m` and the bytes
it brings where no mapping covers it yet, or, where `ok` is false, has found that none can; the threads that touch it become ready, and the touched set
takes it. -/
def execPageResident (s : State) : Host.Outcome State Fault Refusal :=
  let a := s.arg
  let was := s
  let s := if a.ok ∧ a.m % 8 ≠ 0 ∧ (s.walk a.x (a.n * 65536)).isNone then s.mapPage a.x (a.n * 65536) a.addr a.m a.bytes else s
  let found := (s.walk a.x (a.n * 65536)).isSome
  if found ≠ a.ok then .next was
  else
    let r : Word := if found then 0 else 1
    let s := { s with threads := s.threads.map fun p =>
      if p.2.st ≠ .empty ∧ p.2.wait = .touch a.n ∧ (s.ctx (p.1 / 256) p.2.x).l = a.x then (p.1, { p.2 with wait := .done r }) else p }
    if !found then .next s
    else
      let e := (s.lease a.x).touch a.n
      let s := (s.modLease a.x fun _ => e.1).markTouched a.x
      .next (match e.2 with | some page => s.evict a.x page | none => s)

/-! ### Scrubbing (R414, R415) -/

/-- An uncorrectable error of the structure of code `n` goes to the device fault log (R372, R414). -/
def State.logEcc (s : State) : State :=
  let a := s.arg
  s.flog 0x30 2 (if a.n = 1 ∨ a.n = 2 ∨ a.n = 3 ∨ a.n = 4 then a.c else 0xFFFF) (match a.n with | 1 | 2 | 3 | 4 => (s.ctx a.c (s.thread a.c a.h).x).l | _ => 0)
    (BitVec.ofNat 64 (eccTval (a.addr, a.n)))

/-- The uncounted arrival of member `m` of rope `n` is withdrawn (R414); no rule says what its result entry receives (log 144). -/
def State.dropPending (s : State) (n m : Nat) : State :=
  match (s.rope n).pend.find? fun p => p.m == m && !p.counted with
  | some p =>
    let (d, s) := s.drawn
    (s.endArrival p (Config.arrivalResult d)).modRope n fun r => { r with pend := r.pend.filter fun q => q.counted || q.m != m }
  | none => s

/-- PATROL_SCRUB (R415): scrubbing finds an error in the structure of code `n` of R414, correctable or, where `ok`, not, which is logged (R372). A
correctable error is counted; an uncorrectable word of a memory, at key `addr`, is poisoned; one of a commit buffer aborts the task of slot `h` of core `c`; with `x` 2, 3 and 4 it is vector register, tile or accumulator `m` of
core `c`; in a pending line of an uncounted arrival, of member `m` of rope `id` with `x` 1, the arrival is withdrawn; a line or entry
of the L1D or TLB is dropped, with `m` 1 of the L1I; one of a slot is raised at its thread, task-fatal in the snapshot; one of firmware memory is FW_IMEM, after which nothing is served until a belayer takes over
(R368). -/
def execPatrolScrub (s : State) : Host.Outcome State Fault Refusal :=
  let a := s.arg
  if !a.ok then .next (s.modDev fun d => { d with corrected := Table.set a.n (Table.get 0 a.n d.corrected + 1) d.corrected })
  else match a.n with
    | 1 | 5 | 6 =>
      if a.x = 1 then .next (s.logEcc.dropPending a.id a.m)
      else if 2 ≤ a.x then .next (s.logEcc.modCore a.c fun k => { k with bad := (a.x - 2, a.m) :: k.bad.filter (· != (a.x - 2, a.m)) })
      else
      let k := a.addr / 8 * 8
      .next { s.logEcc with poison := (k, a.n) :: s.poison.filter fun p => p.1 != k }
    | 2 => .next (if (s.thread a.c a.h).st = .empty ∨ (s.thread a.c a.h).buf = [] then s else s.logEcc.abortTask a.c a.h)
    | 3 =>
      let keep := fun (e : Line) => e.va / 64 != a.addr / 64
      .next (if a.m = 1 then s.logEcc.modCore a.c fun k => { k with l1i := k.l1i.filter keep }
        else (s.logEcc.modCore a.c fun k => { k with l1d := k.l1d.filter keep }).modCluster (clusterOf a.c) fun q =>
          { q with tlb := q.tlb.filter fun e => e.vpn != a.addr / 65536 })
    | 4 =>
      let t := s.thread a.c a.h
      if t.st = .empty ∨ t.st = .leaving then .next s
      else
        let z : Cause := ⟨0x30, BitVec.ofNat 64 (4 * 2 ^ 56 + a.h), t.pc, false, false, 0, 0⟩
        .next (if a.m = 1 then (s.fatal a.c a.h z 1 0) else s.modThread a.c a.h fun t => { t with due := t.due ++ [z] })
    | 7 =>
      let s := s.flog 0x41 3 a.c (s.ctx a.c 0).l (BitVec.ofNat 64 a.c)
      let primary := s.dev.roles.any fun r => r.1 == a.c && r.2.1 == 1
      .next { s.modSched (fun q => { q with down := q.down || primary }) with agenda := s.agenda ++ [⟨.takeover, { c := a.c }⟩] }
    | _ => .next s

end Sys2Proof.Machine
end

