-- ==== Sys2Proof/Machine/Sched.lean ====
section
/-! DEFINITION. What the scheduler's steps share: its journal, completions, completion counters, guilt, kernel images and their checks, placement,
the end and the cancel of launches, the pre-emption ladder, replies and notices (R17, R18, R177 to R180, R351 to R373, R396, R397, R449, R454, R455,
R461 to R463). -/

namespace Sys2Proof.Machine

/-! ### The journal (R367 to R369) -/

/-- Bytes and numbers of a packet (R356). -/
def pktN (p : BitVec 512) (i n : Nat) : Nat := bits p.toNat (8 * i) (8 * n)

/-- A record goes to the journal's ring; a SKIP record fills the space before the ring's end (R367). -/
def State.journalPut (s : State) (ty : Nat) (body : List Byte) : State :=
  let pos := s.sched.journal % 2 ^ 20
  let need := 8 + body.length
  let skip := if 2 ^ 20 < pos + need then 2 ^ 20 - pos else 0
  let s := if skip = 0 then s else s.put (campKey (0x3500000 + pos)) (toBytes 8 (skip - 8 + 2 ^ 63))
  let s := s.put (campKey (0x3500000 + (pos + skip) % 2 ^ 20)) (ringRec ty body)
  s.modSched fun q => { q with journal := (q.journal + skip + need) % 2 ^ 32, sinceCkpt := q.sinceCkpt + 1 }

/-- The body of a checkpoint record (R369): queue state, the pending-kick bitmap, the launches, with the rungs of those being pre-empted, and the working role
map. -/
def State.queueState (s : State) : List Byte :=
  let qs := s.sched.subq.filter fun p => p.2.en
  (qs.flatMap fun p =>
    toBytes 4 p.1 ++ toBytes 4 p.2.head ++ toBytes 4 p.2.tail ++ toBytes 4 p.2.comps ++ toBytes 8 p.2.hold ++
      toBytes 64 (match p.2.pkts.find? fun h => !h.started with | some h => h.pkt.toNat | none => 0)) ++
  toBytes 128 ((qs.map fun p => if p.2.kicked then 2 ^ p.1 else 0).sum) ++
  (s.sched.launches.flatMap fun n => toBytes 8 n.id ++ toBytes 4 (pktN n.pkt 16 4) ++ toBytes 2 n.l ++ toBytes 2 n.rung) ++
  (List.range 32).flatMap fun i => match s.dev.roles[i]? with
    | some r => toBytes 1 (rowOf r.1) ++ toBytes 1 (colOf r.1) ++ toBytes 1 r.2.1 ++ toBytes 1 r.2.2
    | none => toBytes 4 0

/-- A record of the scheduler's work, and a checkpoint where R369 asks for one, to which the consumer index then moves. -/
def State.journalled (s : State) (ty : Nat) (body : List Byte) : State :=
  let s := s.journalPut ty body
  let used := (s.sched.journal + 2 ^ 32 - s.sched.journalTail) % 2 ^ 32
  if 4096 ≤ s.sched.sinceCkpt ∨ 2 ^ 18 ≤ used then
    let s := s.journalPut 1 s.queueState
    s.modSched fun q => { q with journalTail := (q.journal + 2 ^ 32 - (8 + s.queueState.length)) % 2 ^ 32, sinceCkpt := 0 }
  else s

/-- The record of an action on a packet (R368): queue, index, action. Of the record types that the spec leaves to the firmware, 2 is a packet consumed, with its
type or, malformed, 0; 3 a completion posted, with its status; 4 a placement; 5 a hold; 6 the rung of a launch (log 159). -/
def actionRec (q idx act : Nat) : List Byte := toBytes 4 q ++ toBytes 4 idx ++ toBytes 8 act

/-! ### Completions (R355, R356) -/

/-- The step that looks again at a packet of a type. -/
def packetStep (ty : Nat) : Instr :=
  match ty with
  | 1 => .launch
  | 2 => .mbxwait
  | 3 => .mbxput
  | 4 => .signal
  | 5 => .timed
  | 6 => .fencePacket
  | 7 => .cancel
  | _ => .nopPacket

/-- The packet of a queue that has not started, behind which the queue waits (R357). -/
def SubQ.unstarted (k : SubQ) : Option Held := k.pkts.find? fun h => !h.started

/-- A packet completes: its slot is written, its vector raised, and the packet that waits behind it is looked at again. While no scheduler serves, the
completion is held back (R368). -/
def State.postCompletion (s : State) (q idx status extra : Nat) : State :=
  let k := s.subq q
  match k.pkts.find? fun h => h.idx == idx with
  | none => s
  | some h =>
    if s.sched.down then s.modSched fun d => { d with heldComps := d.heldComps ++ [(q, idx, status, extra)] }
    else
    let c := k.comps
    let slot := toBytes 1 (pktN h.pkt 0 1) ++ toBytes 1 (bits c k.sz 1) ++ toBytes 2 status ++ toBytes 4 (pktN h.pkt 4 4) ++ toBytes 4 idx ++
      toBytes 4 0 ++ toBytes 8 s.now ++ toBytes 8 extra ++ toBytes 32 0
    let out := HostOut.write (k.cbase + 64 * (c % 2 ^ k.sz)) slot :: if bit (pktN h.pkt 1 1) 2 then [HostOut.msix q] else []
    let k := { k with comps := (c + 1) % 2 ^ 32, pkts := k.pkts.filter (fun p => p.idx != idx), hold := if h.started then k.hold else 0
                      kicked := if h.started then k.kicked else k.head != k.tail }
    let s := (s.modSubq q fun _ => k).modSched fun d => { d with out := d.out ++ out }
    let s := s.journalled 3 (actionRec q idx status)
    match k.unstarted with
    | some w => { s with agenda := s.agenda ++ [⟨packetStep (pktN w.pkt 0 1), { n := q, ok := true }⟩] }
    | none => s

/-- The packet of a queue with an index starts (R357). -/
def State.startPacket (s : State) (q idx : Nat) : State :=
  s.modSubq q fun k => { k with hold := 0, kicked := k.head != k.tail, pkts := k.pkts.map fun h => if h.idx = idx then { h with started := true } else h }

/-- The head packet of a queue is held, with its record, and the queue's bit stays set (R354, R368); with 0 it waits for cores, or no longer. -/
def State.setHold (s : State) (q n : Nat) : State :=
  let was := (s.subq q).hold
  let s := s.modSubq q fun k => { k with hold := n, kicked := true }
  match (s.subq q).unstarted with
  | some h => if n = 0 ∨ n = was then s else s.journalled 5 (actionRec q h.idx n)
  | none => s

/-! ### Completion counters (R396, R397) -/

/-- One table with `n` more units in the entry of a number, opened in the lowest free entry where none is open; none where it is full. -/
def levelOpen (cap n num : Nat) (l : List Level) : Option (List Level) :=
  if l.any fun e => e.open_ != 0 && e.num == num then
    some (l.map fun e => if e.open_ ≠ 0 ∧ e.num = num then { e with open_ := e.open_ + n } else e)
  else match l.findIdx? fun e => e.open_ == 0 with
    | some i => some (l.set i ⟨false, n, num⟩)
    | none => if l.length < cap then some (l ++ [⟨false, n, num⟩]) else none

def levelClose (num n : Nat) (l : List Level) : List Level :=
  l.map fun e => if e.open_ ≠ 0 ∧ e.num = num then { e with open_ := e.open_ - n } else e

def levelIn (num : Nat) (l : List Level) : Option Level := l.find? fun e => e.open_ != 0 && e.num == num

/-- The table of a level of R357: 1 launch, 2 graph, 3 phase, 4 job. -/
def HCtx.level (h : HCtx) (k : Nat) : List Level :=
  if k = 1 then h.launches else if k = 2 then h.graphs else if k = 3 then h.phases else h.jobs

/-- The three entries of a LAUNCH packet take one unit more (R397); none where a table is full. -/
def openUnits (h : HCtx) (p : BitVec 512) : Option HCtx :=
  match levelOpen 256 1 (pktN p 24 2) h.graphs, levelOpen 64 1 (pktN p 26 2) h.phases, levelOpen 4 1 (pktN p 28 2) h.jobs with
  | some g, some f, some j => some { h with graphs := g, phases := f, jobs := j }
  | _, _, _ => none

def closeUnits (p : BitVec 512) (h : HCtx) : HCtx :=
  { h with graphs := levelClose (pktN p 24 2) 1 h.graphs, phases := levelClose (pktN p 26 2) 1 h.phases, jobs := levelClose (pktN p 28 2) 1 h.jobs }

/-- A level that the packet names has been cancelled (R397). -/
def unitCancelled (h : HCtx) (p : BitVec 512) : Bool :=
  [(h.graphs, 24), (h.phases, 26), (h.jobs, 28)].any fun x => match levelIn (pktN p x.2 2) x.1 with | some e => e.canc | none => false

/-- Queues of a host context. -/
def State.queuesOf (s : State) (host : Nat) : List (Nat × SubQ) := s.sched.subq.filter fun p => p.2.ctx == host

/-- CANCEL packets of a host context's queues are looked at again (R357). -/
def State.recheckCancels (s : State) (host : Nat) : State :=
  let qs := (s.queuesOf host).filter fun p => p.2.pkts.any fun h => h.started && pktN h.pkt 0 1 == 7
  { s with agenda := s.agenda ++ qs.map fun p => ⟨.cancel, { n := p.1, m := 1, ok := true }⟩ }

/-! ### Replies and notices on the management channels (R371, R372) -/

/-- A reply waits, or goes out, with its 16 bytes before its body; one of a channel that has been disabled is discarded. -/
def State.reply (s : State) (m idx ty status : Nat) (body : List Byte) : State :=
  let r := ringRec ((ty + 0x8000) % 65536) (toBytes 4 idx ++ toBytes 2 status ++ toBytes 10 0 ++ body)
  let ch := s.chan m
  if !ch.en then s
  else if ch.replies.isEmpty && chanRoom ch r.length then s.channelOut m r
  else s.modChan m fun c => { c with replies := c.replies ++ [r] }

/-- An unasked record on a channel: where it finds no room it is dropped and counted, or, on channel 0, kept. -/
def State.unasked (s : State) (m ty : Nat) (body : List Byte) : State :=
  let r := ringRec ty body
  let ch := s.chan m
  if !ch.en then s
  else if ch.replies.isEmpty && chanRoom ch r.length then s.channelOut m r
  else if m = 0 then s.keepRecord r
  else s.modChan m fun c => { c with drop := min (2 ^ 32 - 1) (c.drop + 1) }

/-- A NOTICE (R372): on every enabled channel that acts for all contexts, and on those whose context has a launch affected. -/
def State.notice (s : State) (kind arg : Nat) (hosts : List Nat) : State :=
  (List.range 8).foldl (fun s m =>
    if (s.chan m).admin || hosts.contains (s.chan m).ctx then s.unasked m 0x9002 (toBytes 8 kind ++ toBytes 8 arg) else s) s

/-- A ladder or a placement of a launch has ended: the requests that waited for it go on, and are answered with their last. -/
def State.ladderEnd (s : State) (id rung saved : Nat) (failed : Bool) : State :=
  (List.range 8).foldl (fun s m =>
    let ch := s.chan m
    let busy := ch.busy.map fun r => if r.left.contains id then
      { r with left := r.left.filter (· != id), rung := max r.rung rung, saved := r.saved + saved, failed := r.failed || failed } else r
    let s := s.modChan m fun c => { c with busy := busy.filter fun r => !r.left.isEmpty }
    (busy.filter fun r => r.left.isEmpty).foldl (fun s r =>
      if r.ty = 1 then s.reply m r.idx 1 0 (toBytes 4 r.rung ++ toBytes 4 r.saved) else s.reply m r.idx 2 (if r.failed then 4 else 0) []) s) s

/-! ### The end of a launch (R18, R263, R374, R379, R397) -/

def State.launch (s : State) (id : Nat) : Option Launch := s.sched.launches.find? fun n => n.id == id
def State.modLaunch (s : State) (id : Nat) (f : Launch → Launch) : State :=
  s.modSched fun q => { q with launches := q.launches.map fun n => if n.id = id then f n else n }

/-- The places of a launch's contexts. -/
def State.placesOf (s : State) (id : Nat) : List (Nat × Nat) :=
  (s.ctxs.filter fun p => p.2.placed && p.2.launch == id).map fun p => (p.1 / 2, p.1 % 2)

/-- Every translation of a launch context number goes: TLB entries, cached lines and walks. -/
def State.forget (s : State) (l : Nat) : State :=
  let s := s.dropRegion 0 (2 ^ 56) (some l)
  { s with clusters := s.clusters.map fun (p : Nat × Cluster) => (p.1, { p.2 with walks := p.2.walks.filter fun w => w.l != l }) }

/-- Waiters of other devices are told that a thread has retired (R246). -/
def State.tellJoiners (s : State) (uid : Nat) : State :=
  let go := s.sched.joiners.filter fun j => j.2.2.2 == uid
  go.foldl (fun s j => s.ack j.1 j.2.1 [0]) (s.modSched fun q => { q with joiners := q.joiners.filter fun j => j.2.2.2 != uid })

/-- The threads that a launch loses with its contexts and images end, and what joins them goes on (R246). -/
def State.tellGone (s : State) (n : Launch) : State :=
  let here := (s.placesOf n.id).flatMap fun p => (s.ctxThreads p.1 p.2).map fun q => q.2.uid
  let saved := n.images.flatMap fun i => i.slots.map fun q => q.2.uid
  (here ++ saved).foldl (fun s u => s.tellJoiners u) s

/-- Threads of a launch of this device that run on others. -/
def State.abroadOf (s : State) (id : Nat) : List (Nat × Thread) := s.sched.abroad.filter fun p => p.2.owner == id

/-- The devices where threads of a cancelled launch run are told to end them (R18, R19). -/
def State.cancelAbroad (s : State) (id : Nat) : State :=
  (s.abroadOf id).foldl (fun s p => match p.2.leave with
    | .migrate d _ => s.tell d 20 0 [BitVec.ofNat 64 p.1, BitVec.ofNat 64 id]
    | _ => s) s

/-- The threads that a launch loses leave their ropes (R262). -/
def State.leaveRopes (s : State) (n : Launch) : State :=
  let s := (s.placesOf n.id).foldl (fun s p => (s.ctxThreads p.1 p.2).foldl (fun s q => s.leaveRope p.1 q.1) s) s
  (n.images.flatMap fun i => i.slots.map fun p => p.2.mem).foldl State.memberGone s

/-- What a message area still holds is discarded (R346). -/
def State.dropArea (s : State) (l : Nat) : State :=
  (s.lease l).area.foldl (fun s p => match p with
    | .spawn _ r => s.answerSpawn r (BitVec.ofNat 64 (2 ^ 63 + 4))
    | .keyed c ps =>
      let drop := fun (k : Ctx) => { k with bins := { k.bins with rdrop := k.bins.rdrop + ps.length } }
      (match [0, 1].find? fun x => (s.ctx c x).placed && (s.ctx c x).l == l with | some x => s.modCtx c x drop | none => s.modSavedCtx l c drop)
    | _ => s) s

/-- A leaf entry's PIN bit is set, or cleared where no other launch holds its page (R100, R378). -/
def State.pinLeaf (s : State) (l : Nat) (on : Bool) (va z p v : Nat) : State :=
  let base := va / pageBytes z * pageBytes z
  let other := s.sched.lease.any fun q => q.1 != l && q.2.used && q.2.rootV && q.2.root == (s.lease l).root &&
    (allLeases q.2).any fun r => r.v && overlap base (pageBytes z) r.lo r.len
  if bit v 5 = on ∨ (!on && other) then s else s.put p (toBytes 8 (putBits v 5 1 (b2n on)))

/-- The leaves of a range from `va` up to `hi`, `n` at most. -/
def State.pinLeaves (s : State) (l : Nat) (on : Bool) (hi : Nat) : Nat → Nat → State
  | 0, _ => s
  | n + 1, va =>
    if hi ≤ va then s
    else match s.leafAt l va with
      | some (z, p, v) => (s.pinLeaf l on va z p v).pinLeaves l on hi n ((va / pageBytes z + 1) * pageBytes z)
      | none => s.pinLeaves l on hi n ((va / 65536 + 1) * 65536)

/-- The pages of a launch context's leases are pinned, or no longer (R100). -/
def State.pin (s : State) (l : Nat) (on : Bool) : State :=
  ((allLeases (s.lease l)).filter (·.v)).foldl (fun s r => s.pinLeaves l on (r.lo + r.len) (r.len / 65536 + 1) r.lo) s

/-- A launch leaves its cores and its number: its threads leave their ropes, those that it armed return to IDLE, its contexts go, its tokens go back (R104),
its area is emptied, its pages are unpinned and its lease block is free (R263, R346, R374, R379). -/
def State.vacate (s : State) (n : Launch) : State :=
  let away := s.abroadOf n.id
  let s := (((s.cancelAbroad n.id).modSched fun q => { q with abroad := q.abroad.filter fun p => !away.any fun a => a.1 == p.1 }).tellGone n).leaveRopes n
  let s := (s.ropes.filter fun p => p.2.st != 0 && p.2.owner == n.l).foldl (fun s p => s.ropeIdle p.1) s
  let s := (s.dropArea n.l).pin n.l false
  let s := (s.placesOf n.id).foldl (fun s p => s.removeCtx p.1 p.2) s
  let s := (s.sched.tokens.filter fun k => k.inward && k.l == n.l).foldl (fun s k => s.returnToken k.region) s
  (s.forget n.l).modLease n.l fun _ => {}

/-- A launch ends with a status: it leaves what it held, its units close, and its packet completes. -/
def State.endLaunch (s : State) (id status : Nat) : State :=
  match s.launch id with
  | none => s
  | some n =>
    let s := if n.st ≠ .held ∧ n.st ≠ .waiting then s.vacate n else s
    let s := s.modHctx n.host fun h =>
      (if n.opened then closeUnits n.pkt else fun h => h) { h with launches := h.launches.map fun e => if e.num = id then { e with open_ := 0 } else e }
    let s := s.modSched fun q => { q with launches := q.launches.filter fun m => m.id != id }
    ((s.postCompletion n.q n.idx status id).recheckCancels n.host).ladderEnd id 0 0 false

/-- A unit of a launch is gone; with its last the launch ends. -/
def State.unitGone (s : State) (host id : Nat) : State :=
  let s := s.modHctx host fun h => { h with launches := levelClose id 1 h.launches }
  match levelIn id (s.hctx host).launches with
  | some _ => s
  | none => s.endLaunch id (match s.launch id with | some n => n.status | none => 0)

/-- A thread of a cancelled launch ends (R18): its task is ended as an abort, and it exits. -/
def State.endThread (s : State) (c h : Nat) : State :=
  let t := s.thread c h
  if t.st = .empty ∨ (t.st = .leaving ∧ (t.leave = .exit ∨ t.leave = .fatal)) then s
  else ((s.abandon c h).orphanOps c h).modThread c h fun t =>
    { t with st := .leaving, leave := .fatal, task := false, wait := .none, trapDue := none, due := [], held := [], kill := none, arr := none, restart := false
             regPend := [], vPend := [] }

/-- Every command of a context leaves its port, or stops at its next interruptible step (R18, R342). -/
def State.cancelAll (s : State) (c x : Nat) : State :=
  let ids := ((s.core c).cmds.filter fun m => m.x == x).map (·.id)
  let s := (s.ctxThreads c x).foldl (fun s p => s.modThread c p.1 fun t => { t with promises := t.promises.filter fun q => !ids.contains q.2 }) s
  s.modCore c fun k =>
    let k := (k.cmds.filter fun m => m.x == x && !m.running).foldl Core.freeCmd k
    { k with cmds := k.cmds.map fun m => if m.x = x then { m with cancelled := true } else m }

/-- A launch is cancelled (R18), to complete with a status. -/
def State.cancelLaunch (s : State) (id status : Nat) : State :=
  match s.launch id with
  | none => s
  | some n =>
    match n.st with
    | .held | .waiting | .saved | .lost | .ended => s.endLaunch id status
    | _ =>
      let s := s.modLaunch id fun n => { n with status := status }
      let ps := s.placesOf id
      ps.foldl (fun s p => ((s.ctxThreads p.1 p.2).foldl (fun s q => s.endThread p.1 q.1) s).cancelAll p.1 p.2) (s.cancelAbroad id)

/-- The rung that a host context's pre-emption has reached stands in each of its queues (R351, R366). -/
def State.setRung (s : State) (host rung : Nat) : State :=
  s.modSched fun q => { q with subq := q.subq.map fun (p : Nat × SubQ) => if p.2.ctx = host then (p.1, { p.2 with rung := rung }) else p }

/-- The context of a launch is lost (R366, R428): every launch of its host context is cancelled at once. -/
def State.loseLaunch (s : State) (id : Nat) : State :=
  match s.launch id with
  | none => s
  | some n =>
    let c := match s.placesOf id with | p :: _ => p.1 | [] => 0
    let s := s.contextFault c n.l 0x43 n.l
    ((s.sched.launches.filter fun m => m.host == n.host).map (·.id)).foldl (fun s i => (s.ladderEnd i 3 0 false).endLaunch i 4) s

/-- The open entry of a level is cancelled with every level and every launch in it (R18, R397); false where the number is not open. A level that also holds launches
outside is not in it. -/
def State.cancelLevel (s : State) (host k num : Nat) : State × Bool :=
  match levelIn num ((s.hctx host).level k) with
  | none =>
    -- a launch that is read and not placed has no entry of its own yet
    match (if k = 1 then s.sched.launches.find? fun n => n.host == host && n.id == num else none) with
    | some n => (s.cancelLaunch n.id 1, true)
    | none => (s, false)
  | some _ =>
    let mark := fun (nums : List Nat) (l : List Level) => l.map fun e => if e.open_ ≠ 0 ∧ nums.contains e.num then { e with canc := true } else e
    let off := if k = 2 then 24 else if k = 3 then 26 else 28
    let inner := s.sched.launches.filter fun n => n.host == host && (if k = 1 then n.id == num else pktN n.pkt off 2 == num)
    let outer := s.sched.launches.filter fun n => n.host == host && n.opened && !inner.any fun m => m.id == n.id
    let named := fun (o : Nat) => (inner.map fun n => pktN n.pkt o 2).filter fun i => !outer.any fun n => pktN n.pkt o 2 == i
    let s := s.modHctx host fun h =>
      { h with launches := mark (inner.map (·.id)) h.launches, graphs := if k = 2 then mark [num] h.graphs else if 2 < k then mark (named 24) h.graphs else h.graphs
               phases := if k = 3 then mark [num] h.phases else if 3 < k then mark (named 26) h.phases else h.phases, jobs := if k = 4 then mark [num] h.jobs else h.jobs }
    (inner.foldl (fun s n => s.cancelLaunch n.id 1) s, true)

/-! ### Guilt (R361, R373) -/

/-- Mailbox requests of a queue are withdrawn from their banks (R351, R373). -/
def State.withdrawMbx (s : State) (q : Nat) : State :=
  let keep := fun (p : Nat × List BankReq) => (p.1, p.2.filter fun r => match r with | .mbx k _ _ _ _ _ => k != q | _ => true)
  { s with bankQ := s.bankQ.map keep, bankWait := s.bankWait.map keep }

/-- The packet of a queue that has not started is withdrawn, and completes with a status. -/
def State.withdrawPacket (s : State) (q status : Nat) : State :=
  match (s.subq q).unstarted with
  | none => s
  | some h =>
    let s := s.withdrawMbx q
    match s.sched.launches.find? fun n => n.q == q && n.idx == h.idx with
    | some n => s.endLaunch n.id status
    | none => s.postCompletion q h.idx status 0

/-- Guilt rises by one; above GLIM the context is barred, and what its queues have not started completes with status 3. -/
def State.guilty (s : State) (host : Nat) : State :=
  let g := min 255 ((s.hctx host).guilt + 1)
  let s := s.modHctx host fun h => { h with guilt := g }
  if s.dev.glim < g ∧ !(s.hctx host).barred then
    let s := s.modHctx host fun h => { h with barred := true }
    (s.queuesOf host).foldl (fun s p => s.withdrawPacket p.1 3) s
  else s

/-- A malformed packet completes with status 2, and its guilt counts (R361). -/
def State.malformed (s : State) (q idx : Nat) : State := (s.postCompletion q idx 2 0).guilty (s.subq q).ctx

/-! ### Kernel images (R177 to R179, R444, R449, R454, R461, R463) -/

structure Kern where
  magic : Nat
  ver : Nat
  caps : Nat
  textOff : Nat
  textSz : Nat
  entry : Nat
  dataOff : Nat
  dataSz : Nat
  threads : Nat
  mxthr : Nat
  bpri : Nat
  vwin : Nat
  zero : Nat
  biv : Nat
  descOff : Nat
  descCnt : Nat
  ovfLim : Nat
  tq : Nat
  cq : Nat
  digest : List Byte

def kernOf (b : List Byte) : Kern :=
  let w := fun i n => ofBytes (slice b i n)
  ⟨w 0 4, w 4 2, w 6 2, w 8 4, w 12 4, w 16 4, w 20 4, w 24 4, w 28 2, w 30 1, w 31 1, w 32 1, w 33 1, w 34 2, w 36 4, w 40 2, w 42 3,
    bits (w 45 3) 0 12, bits (w 45 3) 12 12, slice b 48 16⟩

/-- The areas of an image (R177). -/
def Kern.areas (k : Kern) : List (Nat × Nat) := [(0, 64), (k.textOff, k.textSz), (k.dataOff, k.dataSz), (k.descOff, 16 * k.descCnt)]

/-- The length of an image, within which each area lies, an empty one too (R177). DEDUCED. -/
def Kern.size (k : Kern) : Nat := (k.areas.map fun a => a.1 + a.2).foldl max 64

def noOverlap : List (Nat × Nat) → Bool
  | [] => true
  | a :: l => (a.2 == 0 || l.all fun b => b.2 == 0 || !overlap a.1 a.2 b.1 b.2) && noOverlap l

/-- The header's fields keep the limits of R177. -/
def Kern.limitsOk (k : Kern) : Bool :=
  decide (k.magic = 0x4F4C5341 ∧ 1 ≤ k.ver ∧ k.ver ≤ 3 ∧ k.caps < 32 ∧ k.textOff % 64 = 0 ∧ 64 ≤ k.textOff ∧ k.textSz % 8 = 0 ∧ 8 ≤ k.textSz ∧
    k.textSz ≤ 2 ^ 24 ∧ k.entry % 4 = 0 ∧ k.entry < k.textSz ∧ k.dataOff % 64 = 0 ∧ 1 ≤ k.threads ∧ k.threads ≤ (if k.bpri = 7 then 16 else 240) ∧
    k.mxthr ≤ 4 ∧ k.mxthr ≤ k.threads ∧ (k.mxthr = 0 ∨ bit k.caps 0) ∧ k.bpri ≤ 7 ∧ k.vwin ≤ 4 ∧ k.zero = 0 ∧ 4 ≤ k.biv ∧ k.biv ≤ 4095 ∧
    k.descOff % 16 = 0 ∧ k.descCnt ≤ 95 ∧ k.tq ≤ 2048 ∧ k.cq ≤ 2048) && noOverlap k.areas

/-- The header keeps the limits of R177; `b` is the image. -/
def Kern.headerOk (k : Kern) (b : List Byte) : Bool :=
  k.limitsOk && !(k.entry % 8 == 4 && !bit (ofBytes (slice b (k.textOff + k.entry - 4) 4)) 31) && b.length == k.size &&
  (shake256 (b.drop 64)).take 16 == k.digest

def Kern.records (k : Kern) (b : List Byte) : List (List Byte) := (List.range k.descCnt).map fun i => slice b (k.descOff + 16 * i) 16

def recN (r : List Byte) (i n : Nat) : Nat := ofBytes (slice r i n)

/-- Window, lease, grant and checkpoint records. -/
def windowsOf (rs : List (List Byte)) : List (Nat × Nat) := (rs.filter fun r => recN r 0 1 == 1).map fun r => (recN r 1 1, recN r 4 4)
def isCamp (a : Nat) : Bool := match spaceOf a with | some (.camp _) => true | _ => false
def leasesOf (rs : List (List Byte)) : List Range :=
  (rs.filter fun r => recN r 0 1 == 2 && !isCamp (recN r 8 8)).map fun r => ⟨recN r 8 8, recN r 4 4 * 65536, recN r 1 1, true⟩
def grantsOf (rs : List (List Byte)) : List Range :=
  (rs.filter fun r => recN r 0 1 == 2 && isCamp (recN r 8 8)).map fun r => ⟨recN r 8 8 % 0x10000000, recN r 4 4 * 65536, recN r 1 1, true⟩
def ckptsOf (rs : List (List Byte)) : List (Nat × Nat) := (rs.filter fun r => recN r 0 1 == 3).map fun r => (recN r 8 4, recN r 4 4)

/-- One record keeps the limits of its kind (R66, R178, R454). A lease or grant of size 0 is refused: the model's choice (log 160). -/
def recordOk (r : List Byte) : Bool :=
  let v := recN r 4 4
  match recN r 0 1 with
  | 1 => decide (1 ≤ recN r 1 1 ∧ recN r 1 1 ≤ 15 ∧ recN r 2 2 = 0 ∧ recN r 8 8 = 0 ∧ bits v 20 4 ≤ 10) && (v &&& 0xF8FF3FFF) == v
  | 2 =>
    let a := recN r 8 8
    decide (recN r 1 1 < 8 ∧ recN r 2 2 = 0 ∧ 1 ≤ v ∧ a % 65536 = 0) &&
      (if isCamp a then decide (recN r 1 1 < 4 ∧ a % 0x10000000 % 0x4000000 + v * 65536 ≤ 0x3500000) else decide (a + v * 65536 ≤ 2 ^ 55))
  | 3 => decide (recN r 1 3 = 0 ∧ v % 64 = 0 ∧ recN r 8 4 % 64 = 0 ∧ recN r 12 4 = 0 ∧ recN r 8 4 + v ≤ 0x100000)
  | _ => false

/-- Formats of the narrow datapaths, reserved while they are not calibrated (R181, R444). -/
def State.fmtBarred (s : State) (wd : Nat) : Bool := s.dev.active && !s.dev.caln && decide (3 ≤ bits wd 16 4)

/-- A format or vector type code that the image's version reserves (R179, R181). -/
def versionBarred (ver wd : Nat) : Bool := fmtReserved ver false (bits wd 16 4) || (ver == 1 && decide (bits wd 20 4 < 2))

/-- The launches that run: those with leases. -/
def State.running (s : State) : List Launch :=
  s.sched.launches.filter fun n => n.st == .placed || n.st == .draining || n.st == .saving

/-- The records keep their limits together (R178, R179, R416, R454). -/
def State.recordsOk (s : State) (k : Kern) (rs : List (List Byte)) (cores : List Nat) : Bool :=
  let ws := windowsOf rs
  let gs := grantsOf rs
  let ck := ckptsOf rs
  rs.all recordOk && !(ws.any fun w => versionBarred k.ver w.2) && decide ((distinct (ws.map Prod.fst)).length = ws.length) && decide ((leasesOf rs).length ≤ 64 ∧ gs.length ≤ 8 ∧ ck.length ≤ 16) &&
  decide ((ck.map Prod.snd).sum ≤ 65536) &&
  (!bit k.caps 4 || cores.all fun c => decide ((ck.map Prod.snd).sum ≤ (s.cluster (clusterOf c)).ksize * 4096))

/-- The records stand against a launch that runs: a grant over its grants, a text over its writable leases, a writable lease over its text (R454, R461). -/
def State.clashes (s : State) (rs : List (List Byte)) (text size : Nat) : Bool :=
  let lo := text / 65536 * 65536
  let hi := (text + size + 65535) / 65536 * 65536
  s.running.any fun n =>
    let e := s.lease n.l
    (grantsOf rs).any (fun g => e.grants.any fun x => x.v && overlap g.lo g.len x.lo x.len) ||
      (e.leases.any fun x => x.v && bit x.rights 1 && overlap lo (hi - lo) x.lo x.len) ||
      (leasesOf rs).any fun x => bit x.rights 1 && e.text.any fun y => overlap x.lo x.len y.lo y.len

/-- IRES.SHARE as it will stand when a context is placed on the core (R359). -/
def State.shareAt (s : State) (c : Nat) : Bool :=
  if (s.ctx c 0).placed ∨ (s.ctx c 1).placed then (s.core c).share else bit s.sched.ishare.toNat c

/-- The carve-out of the bivouac areas and the start of the context's part (R449, R463); none where it does not fit beside the data. -/
def State.carve (s : State) (k : Kern) (c : Nat) : Option Nat :=
  let x := k.bpri = 7
  let n := s.slots c
  let size := k.biv * 256
  let P := if x ∨ ¬ s.shareAt c then 0x100000 else 0xE0000
  let low := if x then 0xE0000 + k.dataSz else k.dataSz
  let first := P - n * size + (if x then (n - 16) * size else 0)
  if P < n * size ∨ first < low then none else some (P - n * size)

/-- Bytes of a launch's image, of `n` bytes: through the context's page tables, or as the scheduler read them from another device. -/
def State.imageBytes (s : State) (n : Launch) (len : Nat) : List Byte :=
  let a := pktN n.pkt 8 8
  if a / 2 ^ 40 = s.dev.devno then (s.modLease 256 fun _ => { root := n.root, rootV := true }).areaBytes 256 a len else n.remote.take len

def State.kern (s : State) (n : Launch) : Kern × List Byte :=
  let k := kernOf (s.imageBytes n 64)
  (k, s.imageBytes n k.size)

/-- The machine with a root of page tables under a launch context number that none has. -/
def State.underRoot (s : State) (root : Nat) : State := s.modLease 256 fun _ => { root := root, rootV := true }

/-- A range is covered by the mappings of a root, but for pages that the firmware names. -/
def State.mapped (s : State) (root a n : Nat) (absent : List (Nat × Nat)) : Bool :=
  let s := s.underRoot root
  (List.range ((a + n + 65535) / 65536 - a / 65536)).all fun i =>
    let p := a / 65536 + i
    (s.walk 256 (p * 65536)).isSome || absent.any fun q => decide (q.1 ≤ p % 2 ^ 24 ∧ p % 2 ^ 24 < q.1 + q.2)

/-- Cores of a packet's rectangle. -/
def rectOf (p : BitVec 512) : List Nat :=
  rectCores { top := pktN p 16 1, left := pktN p 17 1, high := pktN p 18 1, wide := pktN p 19 1 }

/-- The packet's rectangle and image pass the checks of R358, R359 and R444; a failure makes the packet malformed. -/
def State.launchOk (s : State) (n : Launch) (iclass : Bool) : Bool :=
  let p := n.pkt
  let a := pktN p 8 8
  let cores := rectOf p
  let own := decide (a / 2 ^ 40 = s.dev.devno)
  let first := decide (a % 64 = 0 ∧ a < 2 ^ 55 ∧ 1 ≤ pktN p 18 1 ∧ 1 ≤ pktN p 19 1 ∧ pktN p 16 1 + pktN p 18 1 ≤ 16 ∧ pktN p 17 1 + pktN p 19 1 ≤ 32) &&
    cores.all (fun c => !s.isFw c && (!s.dev.active || dieOf c == 0)) && (if own then s.mapped n.root a 64 [] else s.reach (a / 2 ^ 40))
  let k := kernOf (s.imageBytes n 64)
  if !first || !k.limitsOk || !cores.all (fun c => (s.carve k c).isSome) || (own && !s.mapped n.root a k.size []) then false
  else
    let b := s.imageBytes n k.size
    let rs := k.records b
    k.headerOk b && s.recordsOk k rs cores && (k.bpri != 7 || (iclass && cores.all fun c => bit s.sched.ishare.toNat c)) &&
      (windowsOf rs).all (fun w => !s.fmtBarred w.2) &&
      (leasesOf rs).all (fun r => r.lo / 2 ^ 40 == s.dev.devno &&
        decide (r.lo % 2 ^ 40 + r.len ≤ if s.dev.active then 0x3000000000 else 0xC000000000) && s.mapped n.root r.lo r.len n.absent) &&
      (grantsOf rs).all fun g => !s.dev.active || decide (g.lo + g.len ≤ 0x4000000)

/-- Every page of a launch's leases is resident (R100, R358). -/
def State.resident (s : State) (n : Launch) : Bool :=
  let (k, b) := s.kern n
  (leasesOf (k.records b)).all fun r => s.mapped n.root r.lo r.len []

/-- The firmware makes pages of a launch's leases resident: each a page of this device and the frame for it (R100, R358). -/
def State.makeResident (s : State) (n : Launch) (ps : List (Nat × Nat)) : State :=
  let t := ps.foldl (fun s p => s.mapPage 256 (s.dev.devno * 2 ^ 40 + p.1 * 65536) (p.2 * 65536) 7 []) (s.underRoot n.root)
  t.modSched fun q => { q with lease := s.sched.lease }

/-- A launch that would start stands against one that runs (R454, R461). -/
def State.launchClash (s : State) (n : Launch) : Bool :=
  let (k, b) := s.kern n
  s.clashes (k.records b) (pktN n.pkt 8 8 + k.textOff) k.textSz

/-- A launch is refused as it would start (R179, R361). -/
def State.refuseLaunch (s : State) (n : Launch) : State := (s.endLaunch n.id 2).guilty n.host

/-! ### Placement (R48, R65, R100, R178, R358, R359, R449, R454, R455, R462, R463) -/

/-- CQUOTA.CQ on a core: the header's, or every line the other context does not hold. -/
def State.cqOn (s : State) (k : Kern) (c : Nat) : Nat :=
  let x := if k.bpri = 7 then 1 else 0
  let other := s.ctx c (1 - x)
  let free := if other.placed then 2048 - other.cq else 2048
  if k.cq ≠ 0 then k.cq else min free (if s.shareAt c then (if x = 1 then 256 else 1792) else 2048)

/-- A core has room for a context of the image's class (R48, R178, R358). -/
def State.coreRoom (s : State) (k : Kern) (c : Nat) : Bool :=
  let x := if k.bpri = 7 then 1 else 0
  let other := s.ctx c (1 - x)
  !(s.ctx c x).placed && (x == 0 || s.shareAt c) && decide (1 ≤ s.cqOn k c) && (!other.placed || decide (other.cq + s.cqOn k c ≤ 2048)) &&
    (!other.placed || x == 1 || (s.core c).share) &&
    decide (k.threads ≤ ((s.classSlots c x).filter (s.slotFree c)).length)

/-- A free launch context number: the lowest. -/
def State.freeL (s : State) : Option Nat := (List.range 256).find? fun l => !(s.lease l).used

/-- One core of a launch: its share field, its shared registers as at launch start, no L1I line of its number, its context with what R178 and R455 write, and
its data section (R27, R95). -/
def State.placeCore (s : State) (n : Launch) (k : Kern) (b : List Byte) (l c ovf : Nat) : State :=
  let x := if k.bpri = 7 then 1 else 0
  let p := n.pkt
  let share := s.shareAt c
  let cq := s.cqOn k c
  let base := (s.carve k c).getD 0
  let rs := k.records b
  let s := s.modCore c fun q => { ({ q with share := share } : Core).freshShare x with l1i := q.l1i.filter fun e => e.l != l }
  let rect := pktN p 16 1 + pktN p 17 1 * 2 ^ 4 + pktN p 18 1 * 2 ^ 9 + pktN p 19 1 * 2 ^ 14 + 2 ^ 31
  let ctx : Ctx := { placed := true, l := l, job := pktN p 28 2, host := n.host, launch := n.id, caps := BitVec.ofNat 16 k.caps, ver := k.ver, bpri := k.bpri
                     top := pktN p 16 1, left := pktN p 17 1, high := pktN p 18 1, wide := pktN p 19 1, spSize := k.biv, spBase := base / 64
                     spOvf := if k.ovfLim = 0 then 0 else ovf, spLim := k.ovfLim, cq := cq, tq := if k.tq = 0 then cq else k.tq
                     wd := (windowsOf rs).map fun w => (w.1, BitVec.ofNat 32 w.2), bg := [(0, BitVec.ofNat 32 rect)], ckpt := ckptsOf rs }
  let s := s.setCtx c x ctx
  let s := s.put (spKey c (if x = 1 then 0xE0000 else 0)) (slice b k.dataOff k.dataSz)
  if ctx.replayable then s.modCtx c x fun q => { q with gen0 := q.ckpt.map fun r => s.bytes (spKey c r.1) r.2 } else s

/-- The threads of one core of a launch, each in the lowest free slot; the first MXTHR receive TSR.MX. -/
def State.placeThreads (s : State) (n : Launch) (k : Kern) (c : Nat) : State :=
  let x := if k.bpri = 7 then 1 else 0
  let pc := BitVec.ofNat 64 (pktN n.pkt 8 8 + k.textOff + k.entry)
  let ks := (List.range 4).map fun i => BitVec.ofNat 64 (pktN n.pkt (32 + 8 * i) 8)
  (List.range k.threads).foldl (fun s i =>
    match s.freeSlot c x with
    | some h => s.placeThread c x h pc ks k.bpri (decide (i < k.mxthr)) (bit k.caps 1) (bit k.caps 2) k.vwin
    | none => s) s

/-- Overflow areas of a launch, one after another from its base: SLOTS × OVFLIM × 64 bytes for each core (R178). -/
def State.ovfAreas (s : State) (n : Launch) (k : Kern) : List (Nat × Nat × Nat) :=
  ((rectOf n.pkt).foldl (fun (a : List (Nat × Nat × Nat) × Nat) c =>
    let len := s.slots c * k.ovfLim * 64
    (a.1 ++ [(c, a.2, len)], a.2 + (len + 65535) / 65536 * 65536)) ([], n.ovfBase)).1

/-- A launch is placed under launch context number `l` (R358). -/
def State.placeLaunch (s : State) (n : Launch) (l : Nat) : State :=
  let (k, b) := s.kern n
  let rs := k.records b
  let text := pktN n.pkt 8 8 + k.textOff
  let cores := rectOf n.pkt
  let ovf := if k.bpri = 7 ∨ k.ovfLim = 0 then [] else s.ovfAreas n k
  let mbx := Config.mailboxRange n.host
  let lo := text / 65536 * 65536
  let e : Lease := { used := true, leases := leasesOf rs, text := some ⟨lo, (text + k.textSz + 65535) / 65536 * 65536 - lo, 5, true⟩
                     ovf := ovf.map fun a => ⟨a.2.1, (a.2.2 + 65535) / 65536 * 65536, 3, true⟩, grants := grantsOf rs
                     mbxLo := mbx.1, mbxLen := mbx.2, root := n.root, rootV := true, saveBase := n.saveAt }
  let s := (s.modLease l fun _ => e).pin l true
  let s := { s with full := s.full.filter fun p => !(e.grants.any fun g => decide (g.lo ≤ p ∧ p < g.lo + g.len)) }
  let s := cores.foldl (fun s c => s.placeCore n k b l c ((ovf.find? fun a => a.1 == c).map (·.2.1) |>.getD 0)) s
  let s := cores.foldl (fun s c => s.placeThreads n k c) s
  let s := cores.foldl (fun s c => s.modCtx c (if k.bpri = 7 then 1 else 0) fun q => { q with relAt := s.nextOp }) s
  let s := s.modHctx n.host fun h => { h with launches := (levelOpen 256 (k.threads * cores.length) n.id h.launches).getD h.launches }
  let s := s.modLaunch n.id fun n => { n with st := .placed, l := l }
  (s.journalled 4 (actionRec n.q n.idx n.id)).startPacket n.q n.idx

/-! ### The pre-emption ladder (R365, R366) -/

/-- The rung of a launch that is being pre-empted, recorded for a take-over (R368, R373). -/
def State.rungRecord (s : State) (id rung : Nat) : State := s.journalled 6 (toBytes 8 id ++ toBytes 8 rung)

/-- The drain rung begins (R365), with the limits of the queue that placed the launch. -/
def State.preemptLaunch (s : State) (id : Nat) : State :=
  match s.launch id with
  | some n =>
    if n.st ≠ .placed then s
    else
      let s := (s.placesOf id).foldl (fun s p => s.modCtx p.1 p.2 fun k => { k with drain := true }) s
      let s := s.modSched fun d => { d with launches := d.launches.map fun (m : Launch) =>
        if m.host = n.host ∧ m.st = .held then { m with after := id :: m.after } else m }
      (s.modLaunch id fun n => { n with st := .draining, rung := 0, t1End := s.now + (s.subq n.q).t1lim * 1000 }).rungRecord id 0
  | none => s

/-- The condition that ends the drain rung (R365). -/
def State.drained (s : State) (id : Nat) : Bool :=
  (s.placesOf id).all fun p =>
    ((s.ctxThreads p.1 p.2).all fun q => q.2.st == .parked && (q.2.pcause == 10 && !q.2.task || [4, 2, 3, 7, 8, 9, 11].contains q.2.pcause)) &&
      !((s.core p.1).cmds.any fun m => m.x == p.2)

/-- The save rung begins (R365). -/
def State.beginSave (s : State) (id rung : Nat) : State :=
  match s.launch id with
  | some n =>
    if n.st ≠ .draining then s
    else
      let s := (s.placesOf id).foldl (fun s p => s.saveRung p.1 p.2) s
      (s.modLaunch id fun n => { n with st := .saving, rung := rung, t2End := s.now + (s.subq n.q).t2lim * 1000 }).rungRecord id rung
  | none => s

/-- Where the image of a core stands in the save area (R427). -/
def imagePlace (e : Lease) (i : Nat) : Nat := e.saveBase + 0x90000 + i * 0x400000

/-- The save rung ends once nothing of the launch is under way: its images are written, its contexts leave their cores, its lease block is emptied but
for its save area (R365, R366, R379, R421). -/
def State.endSave (s : State) (id : Nat) : State :=
  match s.launch id with
  | none => s
  | some n =>
    let ps := s.placesOf id
    if n.st ≠ .saving ∨ !(ps.all fun p => s.saveReady p.1 p.2) then s
    else
      let e := s.lease n.l
      let r := ps.zipIdx.foldl (fun (a : List Image × State) p =>
        let b := a.2.buildImage p.1.1 p.1.2 (imagePlace e p.2)
        (a.1 ++ [b.1], b.2)) ([], s)
      let s := r.1.foldl State.writeImage r.2
      let s := ps.foldl (fun s p => s.removeCtx p.1 p.2) s
      let e := s.lease n.l
      let s := ((s.pin n.l false).forget n.l).modLease n.l fun _ => { used := true, saveBase := e.saveBase, fcnt := e.fcnt, area := e.area }
      let s := s.modLaunch id fun n => { n with st := .saved, images := r.1, kept := some e }
      (s.setRung n.host n.rung).ladderEnd id n.rung 1 false

/-- The images of a saved launch stand in memory as they were written (R424). -/
def State.imagesWhole (s : State) (n : Launch) : Bool :=
  n.images.all fun i => (s.poisoned i.addr i.bytes.length).isNone && s.bytes i.addr i.bytes.length == i.bytes

/-- A saved launch is placed back where its cores have room (R372, R424, R425); the second component is false where an image fails. -/
def State.resumeLaunch (s : State) (n : Launch) : State × Bool :=
  let room := n.images.all fun i =>
    let other := s.ctx i.core (1 - i.x)
    !(s.ctx i.core i.x).placed && (!other.placed || decide (other.cq + i.ctx.cq ≤ 2048)) && (i.x == 0 || s.shareAt i.core)
  if n.st ≠ .saved ∨ !room then (s, true)
  else if !s.imagesWhole n then (s, false)
  else
    let now := s.lease n.l
    let e := match n.kept with | some e => { e with area := now.area, fcnt := now.fcnt } | none => now
    let r := (s.modLease n.l fun _ => e).pin n.l true
    let r := n.images.foldl (fun (r : State) i => r.modCore i.core fun q => { q with share := s.shareAt i.core }) r
    let put := n.images.foldl (fun (a : Option State) i => a.bind fun a => a.restoreImage i) (some r)
    match put with
    | none => (s, false)
    | some r =>
      let r := n.images.foldl (fun (a : State) i => a.afterRestore i) r
      (((r.modLaunch n.id fun n => { n with st := .placed, images := [], kept := none, back := false }).ladderEnd n.id 0 0 false), true)

end Sys2Proof.Machine
end

