-- ==== Sys2Proof/Machine/EvThread.lean ====
section
/-! DEFINITION. Bundle boundaries, and the steps of threads: traps, kills, commits and restarts that waited, windows, vector windows, waking,
retirement, migration, messages, spawns, answers of services, rollback (R19, R20, R34, R36, R44, R47, R105, R115, R209, R213, R217, R243 to R249, R259,
R269, R338, R345, R349, R410, R418 to R420). -/

namespace Sys2Proof.Machine

/-! ### Bundle boundaries (R410) -/

/-- The cause due at a boundary that is taken first: team-replay, then the task-fatal one whose operation issued first, then
ENGINE_PAGE, then PROMISE_MISS. -/
def dueFirst (l : List Cause) : Option Cause :=
  let least := fun (m : List Cause) => m.foldl (fun b z => match b with | none => some z | some y => if z.op < y.op then some z else some y) none
  match least (l.filter fun z => classOf z.code == 2) with
  | some z => some z
  | none => match least (l.filter fun z => classOf z.code == 1) with
    | some z => some z
    | none => least l

/-- What a thread takes at its bundle boundary, before its next bundle (R47, R259, R410); none where nothing is due. -/
def State.boundary (s : State) (c h : Nat) : Option State :=
  let t := s.thread c h
  if t.restart then none
  else match t.kill with
  | some k => if k.now then some (s.killThread c h k.word) else none
  | none =>
    match dueFirst t.due with
    | some z => some ((s.modThread c h fun t => { t with due := t.due.filter (· != z) }).takeException c h z)
    | none =>
      match t.trapDue with
      | some z => if hasPending t then none else some ((s.modThread c h fun t => { t with trapDue := none }).takeNow c h z)
      | none =>
        if t.intrap then none
        else match t.held.find? (·.code == 3) with
          | some z => some ((s.modThread c h fun t => { t with held := t.held.filter (· != z) }).takeException c h { z with pc := t.pc })
          | none => match t.held.find? (·.code == 4) with
            | some z => some ((s.modThread c h fun t => { t with held := t.held.filter (· != z) }).takeException c h { z with pc := t.pc })
            | none => none

/-- A thread stands at a boundary, in a context that may issue. -/
def State.atBoundary (s : State) (c h : Nat) : Bool :=
  let t := s.thread c h
  (t.st == .ready || t.st == .parked) && !(s.ctx c t.x).away && t.wait != .stuck

/-- DEFERRED_FAULT (R410): thread `c`, `h` takes what is due at its boundary. -/
def execDeferredFault (s : State) : Host.Outcome State Fault Refusal :=
  let a := s.arg
  if s.atBoundary a.c a.h && !(s.thread a.c a.h).due.isEmpty then .next ((s.boundary a.c a.h).getD s) else .next s

/-- TRAP_DELIVERY (R47): the trap that thread `c`, `h` holds is delivered once no entry is pending. -/
def execTrapDelivery (s : State) : Host.Outcome State Fault Refusal :=
  let a := s.arg
  if s.atBoundary a.c a.h && (s.thread a.c a.h).trapDue.isSome then .next ((s.boundary a.c a.h).getD s) else .next s

/-- STRAGGLER_KILL (R259): thread `c`, `h` takes its kill notice under NOW; one under POINT waits for a kill point. -/
def execStragglerKill (s : State) : Host.Outcome State Fault Refusal :=
  let a := s.arg
  match (s.thread a.c a.h).kill with
  | some k => if s.atBoundary a.c a.h && k.now && !(s.thread a.c a.h).restart then .next (s.killThread a.c a.h k.word) else .next s
  | none => .next s

/-- TASK_RESTART (R34): the restart of thread `c`, `h` goes on once its earlier operations have completed. -/
def execTaskRestart (s : State) : Host.Outcome State Fault Refusal := .next (s.finishRestart s.arg.c s.arg.h)

/-- The instruction ends the open task. -/
def endsTask : Instr → Bool
  | .tend | .tbeg .. | .exit | .ret | .bar .. | .barq .. => true
  | _ => false

/-- TIMED_TASK_COMMIT (R115): the timed task of thread `c`, `h`, parked at its end, commits as head of its instance, and the thread is READY from the next
s-cycle (R337); where the end stands in a pair, the bundle issues and commits it. -/
def execTimedTaskCommit (s : State) : Host.Outcome State Fault Refusal :=
  let c := s.arg.c
  let h := s.arg.h
  let t := s.thread c h
  let k := s.ctx c t.x
  if s.atBoundary c h && t.st == .parked && t.pcause == 10 && t.task && t.timed && s.isHead t && (s.commitWait c h).isNone && (badEntry t).isNone &&
      (s.boundary c h).isNone then
    match s.frame c k.l k.ver t.pc with
    | .lone w => match decodeIn k.ver w with
      | some i => .next (if endsTask i then (s.commit c h).modThread c h fun t => { t with task := false } else s)
      | none => .next s
    | _ => .next s
  else .next s

/-- SLEEP_WAKE (R213): the counter has reached the target of sleeping thread `c`, `h`, which is READY from the next s-cycle (R337). -/
def execSleepWake (s : State) : Host.Outcome State Fault Refusal :=
  let t := s.thread s.arg.c s.arg.h
  match t.wait with
  | .sleep g => .next (if t.st = .parked ∧ g ≤ s.dev.clock then s.modThread s.arg.c s.arg.h fun t => { t with wait := .sleep 0 } else s)
  | _ => .next s

/-- A READY thread that did not issue has waited one s-cycle more (R338). -/
def aged (ageq : Nat) (t : Thread) : Thread :=
  if ageq ≤ t.acc + 1 then { t with acc := 0, cr := min (t.cr + 1) 3 } else { t with acc := t.acc + 1 }

/-- AGEING_CREDIT (R338): the accumulator of ready thread `c`, `h` has reached AGEQ, as after a write that lowered it. -/
def execAgeingCredit (s : State) : Host.Outcome State Fault Refusal :=
  let t := s.thread s.arg.c s.arg.h
  if t.st = .ready ∧ (s.core s.arg.c).ageq ≤ t.acc then
    .next (s.modThread s.arg.c s.arg.h fun t => { t with acc := 0, cr := min (t.cr + 1) 3 })
  else .next s

/-! ### Windows (R36, R64, R208 to R210) -/

def windowBytes (w : Window) : List Byte :=
  [w.k4, w.k5, w.k6, w.k7, w.ret, w.sp].flatMap (fun v => toBytes 8 v.toNat) ++ toBytes 2 w.pred.toNat ++ toBytes 14 0

def windowOf (b : List Byte) : Window :=
  let w := fun i => BitVec.ofNat 64 (ofBytes (slice b (8 * i) 8))
  ⟨w 0, w 1, w 2, w 3, w 4, w 5, BitVec.ofNat 16 (ofBytes (slice b 48 2))⟩

/-- Keys outside every memory, where the core keeps a window that leaves it by a migration and has no room elsewhere (R37; log 161). -/
def stashKey (t : Thread) (w : Nat) : Nat := 0x0086000000000000 + (256 * t.hcore + t.hslot) * 128 + 64 * (w % 2)
def isStashKey (a : Nat) : Bool := decide (0x0086000000000000 ≤ a ∧ a < 0x0087000000000000)

/-- Where a place of a thread's window storage stands: a bivouac area's key, a place that its home device serves, or, in the overflow area, one that the leases
open and the context maps; a refused place is an error, an unmapped one is none (R37, R64). -/
def State.storeKey (s : State) (c : Nat) (t : Thread) (a need : Nat) : Except Unit (Option Nat) :=
  let l := (s.ctx c t.x).l
  if (spOf a).isSome ∨ isStashKey a ∨ s.foreign t then .ok (some a)
  else if !opens (allLeases (s.lease l)) a 64 need then .error ()
  else .ok ((s.walk l a).map fun p => s.fwd (p.2.1 + a % pageBytes p.1))

/-- Where window `w` of a thread is stored. -/
def State.windowPlace (s : State) (c : Nat) (t : Thread) (w need : Nat) : Except Unit (Option Nat) := s.storeKey c t (s.windowKey t w) need

/-- A window's bytes are put at a place of its thread's storage; the home device of a thread from elsewhere acknowledges them (R37). -/
def State.putWindow (s : State) (c h : Nat) (k : Nat) (w : Window) : State :=
  if s.foreign (s.thread c h) then s.askHome c h 7 10 (areaWords k (windowBytes w)) else s.put k (windowBytes w)

/-- The bundle of the call that made a window, from its return PC: a lone word, or a pair (R161). -/
def State.callOf (s : State) (c l : Nat) (w : Window) : Word :=
  match s.fetch c l (w.ret - 4) with
  | .word v => if v.getLsbD 31 then w.ret - 4 else w.ret - 8
  | _ => w.ret - 4

/-- The oldest resident window of a thread beyond two goes to its storage; a place outside the leases ends the task (R36, R64). A window waits for its own
registers that are pending (R164, R188). -/
def State.spillOldest (s : State) (c h : Nat) : State :=
  let t := s.thread c h
  let n := t.depth - t.win.length + 1
  match t.win.getLast? with
  | some w =>
    if t.win.length ≤ 2 ∨ t.regPend.any fun p => decide (64 ≤ p.1 ∧ (p.1 - 64) / 4 = n) then s
    else match s.windowPlace c t n 2 with
      | .ok (some k) => (s.putWindow c h k w).modThread c h fun t => { t with win := t.win.dropLast }
      | .ok none => s
      | .error _ => s.modThread c h fun t =>
          { t with win := t.win.dropLast, due := t.due ++ [⟨0x16, BitVec.ofNat 64 (s.windowKey t n), s.callOf c (s.ctx c t.x).l w, false, false, 0, 0⟩] }
  | none => s

/-- WINDOW_SPILL (R36): thread `c`, `h`. -/
def execWindowSpill (s : State) : Host.Outcome State Fault Refusal :=
  .next (if (s.thread s.arg.c s.arg.h).st = .empty then s else s.spillOldest s.arg.c s.arg.h)

/-- Window `w` of a thread is resident again; a restart that waited for it may go on (R34, R47). -/
def State.windowBack (s : State) (c h w : Nat) (v : Window) : State :=
  (s.modThread c h fun t => { t with win := t.win ++ [v], winAt := t.winAt.filter fun p => p.1 != w }).finishRestart c h

/-- WINDOW_REFILL (R36, R209): the newest window of thread `c`, `h` that is not resident comes back, from its home device where that is another one (R37). -/
def execWindowRefill (s : State) : Host.Outcome State Fault Refusal :=
  let c := s.arg.c
  let h := s.arg.h
  let t := s.thread c h
  let w := t.depth - t.win.length
  if t.st = .empty ∨ min 3 t.depth ≤ t.win.length ∨ (s.opsOf c h).any fun o => o.kind == .home && o.aop == 6 then .next s
  else match s.windowPlace c t w 1 with
    | .ok (some k) => .next (if s.foreign t then s.askHome c h 6 11 [BitVec.ofNat 64 k, 64] else s.windowBack c h w (windowOf (s.bytes k 64)))
    | .ok none => .next s
    | .error _ => .next (s.modThread c h fun t =>
        { t with due := t.due ++ [⟨0x16, BitVec.ofNat 64 (s.windowKey t w), t.pc, false, false, 0, 0⟩] })

/-! ### Vector windows (R44) -/

/-- VWIN_WRITE (R44): thread `c`, `h` gives its window back and enters the core's queue with a request for `n` registers. -/
def execVwinWrite (s : State) : Host.Outcome State Fault Refusal :=
  let a := s.arg
  match (s.thread a.c a.h).wait with
  | .vwin k =>
    if k ≠ a.n ∨ (s.core a.c).vwait.any (fun p => p.1 == a.h) then .next s
    else
      let s := s.modThread a.c a.h fun t => { t with vbase := 0, vcnt := 0 }
      .next ((s.modCore a.c fun k => { k with vwait := k.vwait ++ [(a.h, a.n)] }).grantAll a.c)
  | _ => .next s

/-- VWIN_GRANT (R44): requests that wait on core `c` are granted from the head of the queue. -/
def execVwinGrant (s : State) : Host.Outcome State Fault Refusal := .next (s.grantAll s.arg.c)

/-! ### Retirement (R19, R246, R247, R397, R412) -/

/-- THREAD_RETIREMENT (R19, R247, R412): leaving thread `c`, `h` waits for its engine commands and accesses; then its rope is left, its window
released, its slot freed, and its launch has one thread less. -/
def execThreadRetirement (s : State) : Host.Outcome State Fault Refusal :=
  let c := s.arg.c
  let h := s.arg.h
  let t := s.thread c h
  let going := t.st == .leaving && (t.leave == .exit || t.leave == .fatal)
  let busy := ((s.core c).cmds.any fun m => m.slot == h && m.thid == thidOf t) || (s.opsOf c h).any fun o => o.kind != .send && o.kind != .spawn
  if !going || busy then .next s
  else
    let s := s.leaveRope c h
    let s := { s with ops := s.ops.map fun (o : Op) => if o.core = c ∧ o.slot = h then { o with slot := 131072, sb := 0 } else o }
    let s := ((s.setThread c h {}).modCore c fun k => { k with vwait := k.vwait.filter fun p => p.1 != h }).grantAll c
    let s := s.tellJoiners t.uid
    if t.hdev = s.dev.devno then .next (s.unitGone (s.ctx c t.x).host (s.ctx c t.x).launch)
    else .next (s.tell t.hdev 8 0 [BitVec.ofNat 64 (thidOf t)])

/-! ### Migration (R20, R37, R50, R105, R249, R349) -/

/-- Where a window that leaves the core by a migration is put, the kind of the place, and the two counts after it: the places follow those assigned, as at the
`call`s that would assign them; one with no room goes to the core's own store (R37, R210, R223; log 161). Kinds: 1 bivouac area, 2 overflow area, 3 own store. -/
def State.leavePlace (s : State) (c : Nat) (t : Thread) (w sc oc : Nat) : Nat × Nat × Nat × Nat :=
  let k := s.homeArea t
  let ovf := k.2.2.1 + t.hslot * k.2.2.2 * 64 + 64 * oc
  if oc = 0 ∧ s.bivB t + 64 * (sc + 1) ≤ t.sp.toNat then (s.bivB t + 64 * sc, 1, sc + 1, oc)
  else match s.storeKey c t ovf 2 with
    | .ok (some _) => if t.x = 0 ∧ oc + 1 ≤ k.2.2.2 then (ovf, 2, sc, oc + 1) else (stashKey t w, 3, sc, oc)
    | _ => (stashKey t w, 3, sc, oc)

/-- The resident windows of a thread that leaves its core, oldest first: number, place, kind, window. -/
def State.leavePlaces (s : State) (c : Nat) (t : Thread) : List (Nat × Nat × Nat × Window) :=
  (t.win.reverse.foldl (fun (a : List (Nat × Nat × Nat × Window) × Nat × Nat) v =>
    let w := t.depth - t.win.length + 1 + a.1.length
    let q := s.leavePlace c t w a.2.1 a.2.2
    (a.1 ++ [(w, q.1, q.2.1, v)], q.2.2)) ([], t.sc, t.oc)).1

/-- The two newest windows of a thread leave the core (R37, R349). -/
def State.spillAll (s : State) (c h : Nat) : State :=
  let t := s.thread c h
  let ps := s.leavePlaces c t
  let s := ps.foldl (fun s p => match s.storeKey c t p.2.1 2 with | .ok (some k) => s.putWindow c h k p.2.2.2 | _ => s) s
  s.modThread c h fun t => { t with win := [], winAt := t.winAt ++ ps.map fun p => (p.1, p.2.1) }

/-- Places of windows as kinds, two bits for the newest and two for the one before it, and back (log 162). -/
def placeKinds (t : Thread) : Nat :=
  let kind := fun (w : Nat) => match t.winAt.find? fun p => p.1 == w with
    | some p => if (spOf p.2).isSome then 1 else if isStashKey p.2 then 3 else 2
    | none => 0
  kind t.depth + 4 * kind (t.depth - 1)

def State.kindPlaces (s : State) (t : Thread) (n : Nat) : Table Nat :=
  let k := s.homeArea t
  let place := fun (w kind i : Nat) => if kind = 0 then [] else
    [(w, if kind = 1 then s.bivB t + 64 * (t.sc + i) else if kind = 2 then k.2.2.1 + t.hslot * k.2.2.2 * 64 + 64 * (t.oc + i) else stashKey t w)]
  let old := n / 4 % 4
  place (t.depth - 1) old 0 ++ place t.depth (n % 4) (b2n (old == n % 4))

/-- The 48 bytes of a thread packet's header flit that the spec leaves to its type (R438; log 162), with the context as four payload flits (R49). -/
def State.threadBody (s : State) (c : Nat) (t : Thread) : List Byte :=
  let k := s.homeArea t
  let q := s.ctx c t.x
  let i := t.inst.getD ⟨3, 0, 0⟩
  toBytes 4 (thidOf t) ++ toBytes 2 q.job ++ toBytes 2 q.host ++ toBytes 8 t.owner ++ toBytes 2 c ++ toBytes 1 t.x ++
    toBytes 1 (b2n t.begun + 2 * placeKinds t + 32 * b2n t.opening) ++ toBytes 2 t.trapDepth ++ toBytes 2 t.tq ++
    toBytes 2 k.1 ++ toBytes 2 k.2.1 ++ toBytes 4 k.2.2.2 ++ toBytes 8 k.2.2.1 ++
    toBytes 1 i.kind ++ toBytes 1 0 ++ toBytes 2 i.num ++ toBytes 2 i.dev ++ toBytes 2 0 ++ contextBytes t

/-- The slot that an arriving thread takes on a core: its own home slot, or the lowest free one of its class (R105, R463). -/
def State.arrivalSlot (s : State) (c : Nat) (t : Thread) : Option Nat :=
  if t.hdev = s.dev.devno ∧ t.hcore = c ∧ (s.thread c t.hslot).st = .empty then some t.hslot else s.freeSlot c t.x

/-- A thread takes a slot, ARRIVING, with ageing afresh (R336, R338). In a context that is being saved its timed task aborts and its free one becomes
head-serialised (R365). -/
def State.arrive (s : State) (c h : Nat) (t : Thread) : State :=
  let s := s.modCtx c t.x fun k => { k with used := distinct (h :: k.used) }
  let s := s.setThread c h { t with st := .arriving, leave := .no, cr := 0, acc := 0, elig := s.dev.clock, wait := .none }
  if !(s.ctx c t.x).away ∨ !t.task then s else if t.timed then s.abortTask c h else s.serialise c h

/-- The message with the context leaves: to a slot of this device, or by Evhorn to another one; the read signature's present part is merged into the part at
the home slot (R37, R50, R105, R336). The instance's device keeps a record of a timed task that is elsewhere (R115). -/
def State.moveThread (s : State) (c h dev core : Nat) : State :=
  let t := s.thread c h
  let out := { t with sigHome := t.sigHome ||| t.sigHere, sigHere := 0, headOk := false, owner := if s.foreign t then t.owner else (s.ctx c t.x).launch }
  let left := ((s.count c t.x h 21 1).setThread c h {}).grantAll c
  if dev = s.dev.devno then
    if !(s.ctx core t.x).placed then s
    else match s.arrivalSlot core t with
      | none => s
      | some i => left.arrive core i out
  else if !s.reach dev then s
  else
    let r := left.sendPacket { dst := dev, cls := 0, ty := 14, tag := 0, bank := 0, body := s.threadBody c out }
    let r := match t.timed, t.inst with
      | true, some i => if i.dev = s.dev.devno then r.modSched fun q => { q with roaming := (thidOf t, out) :: q.roaming.filter fun p => p.1 != thidOf t } else r
      | _, _ => r
    if s.foreign t then r.tell t.hdev 9 0 [BitVec.ofNat 64 (thidOf t), BitVec.ofNat 64 dev]
    else r.modSched fun q => { q with abroad := q.abroad ++ [(thidOf t, out)] }

/-- The steps by which a thread in LEAVING goes to a core or a device: what it has asked for is answered, its windows are spilled, the present part of its read
signature is merged into the part at its home slot, what a free task has buffered lands before another device, and the context leaves once the target has
room (R37, R50, R105, R249, R336). -/
def State.migrate (s : State) (c h dev core : Nat) : State :=
  let t := s.thread c h
  if !(s.opsOf c h).isEmpty then s
  else if 2 < t.win.length then s.spillOldest c h
  else
    let s := if t.win.isEmpty then s else s.spillAll c h
    let s := if s.foreign t ∧ t.timed ∧ t.sigHere ≠ 0 then
        (s.askHome c h 1 14 ((List.range 16).map fun i => (t.sigHere >>> (64 * i)).setWidth 64)).modThread c h fun t => { t with sigHere := 0, sigAway := true }
      else s
    if !(s.opsOf c h).isEmpty then s
    else if dev = s.dev.devno ∨ t.buf.isEmpty then s.moveThread c h dev core
    else if (s.serialWait c h).isSome then s
    else (s.serialise c h).moveThread c h dev core

/-- MIGRATION_ARRIVAL (R20, R105, R249, R336): LEAVING thread `c`, `h` goes on towards its target; an ARRIVING one whose windows are back and that waits for no
vector window becomes READY. -/
def execMigrationArrival (s : State) : Host.Outcome State Fault Refusal :=
  let c := s.arg.c
  let h := s.arg.h
  let t := s.thread c h
  match t.st, t.leave with
  | .leaving, .migrate dev core => .next (s.migrate c h dev core)
  | .arriving, _ => .next (if t.winAt.isEmpty ∧ !(s.core c).vwait.any (fun p => p.1 == h) then s.modThread c h (readyTh s.dev.clock) else s)
  | _, _ => .next s

/-- What the device that holds a thread's home, or its task's instance, has answered (R37, R50, R115). A home that cannot be reached any more ends the
thread, and an instance on such a device holds no other task: the model's choices (log 163). -/
def State.homeAnswer (s : State) (o : Op) (ws : List Word) : State :=
  let c := o.core
  let h := o.slot
  let s := s.dropOp o
  let t := s.thread c h
  let lost := decide (ws.getD 0 0 ≠ 0)
  if t.st = .empty ∨ thidOf t ≠ o.thid then s
  else match o.aop with
    | 2 => if lost then s.endThread c h else
        let u := { s.restored { t with snap := snapOf (ws.drop 1) } with restart := true, st := t.st, leave := t.leave }
        (s.setThread c h u).finishRestart c h
    | 4 => s.modThread c h fun t => { t with headOk := lost || ws.getD 1 0 == 1 }
    | 5 => s.modThread c h fun t => match t.wait with
        | .reply _ _ => { t with wait := .done (if lost then 0 else ws.getD 1 0) }
        | _ => t
    | 6 => if lost then s.endThread c h
        else s.windowBack c h (t.depth - t.win.length) (windowOf ((ws.drop 1).flatMap fun v => toBytes 8 v.toNat))
    | _ => s.finishRestart c h

/-- Ready threads of a core, saturated, or 255 where no ordinary slot is free, and on the firmware column (R69). -/
def State.loadByte (s : State) (c : Nat) : Nat :=
  if s.isFw c ∨ (s.freeSlot c 0).isNone then 255 else min 254 ((s.threadsOf c).filter fun p => p.2.st == .ready).length

def State.loadWord (s : State) (k : Nat) : BitVec 64 := BitVec.ofNat 64 (((List.range 8).map fun j => s.loadByte (coreOf k j) * 2 ^ (8 * j)).sum)

/-- CAIRN_REFRESH (R69): the load bytes of cluster `n` are refreshed; cores with CAPS.REBAL consider rebalancing in the next s-cycle (R349). -/
def execCairnRefresh (s : State) : Host.Outcome State Fault Refusal :=
  let k := s.arg.n
  let w := s.loadWord k
  let cs := (clusterCores k).filter fun c => let q := s.ctx c 0; q.placed && !q.away && bit q.caps.toNat 3
  let s := s.modCluster k fun p => { p with cairn := w }
  .next { s with laterSteps := s.laterSteps ++ cs.map fun c => ⟨.rebalance, { c := c }⟩ }

/-- REBALANCE (R69, R349): core `c` sends its candidate to the least loaded core of its cluster that holds the launch context. -/
def execRebalance (s : State) : Host.Outcome State Fault Refusal :=
  let c := s.arg.c
  let q := s.ctx c 0
  let load := fun (d : Nat) => bits (s.cluster (clusterOf c)).cairn.toNat (8 * localOf d) 8
  let ok := fun (p : Nat × Thread) => p.2.x == 0 && p.2.st == .ready && s.settled c p.1 && s.migratable c p.1 && p.2.arr.isNone &&
    !(match p.2.kill with | some k => k.now | none => false)
  let best := (((s.threadsOf c).filter ok).mergeSort fun a b => decide (a.2.rs < b.2.rs ∨ a.2.rs = b.2.rs ∧ a.1 ≤ b.1)).head?
  let goals := ((clusterCores (clusterOf c)).filter fun d => d != c && (s.ctx d 0).placed && (s.ctx d 0).launch == q.launch && (s.freeSlot d 0).isSome).mergeSort
    fun a b => decide (load a < load b ∨ load a = load b ∧ localOf a ≤ localOf b)
  if !q.placed || q.away || !bit q.caps.toNat 3 then .next s
  else match best, goals with
    | some p, d :: _ =>
      if load d = 255 ∨ load c < load d + 2 then .next s
      else .next (s.modThread c p.1 fun t => { t with st := .leaving, leave := .migrate s.dev.devno d })
    | _, _ => .next s

/-! ### Messages and spawns (R244, R269, R345, R438, R439) -/

/-- A message for a thread that is on another device (R269, R438). -/
def messagePacket (dev tag thid q : Nat) (v : Word) (snd : Nat) : Packet :=
  { dst := dev, cls := 0, ty := 4, tag := tag, bank := 0, body := toBytes 8 0 ++ toBytes 8 thid ++ toBytes 8 q ++ toBytes 8 v.toNat ++ toBytes 8 snd }

/-- MESSAGE_ARRIVAL (R269, R345): the message of operation `id` reaches its core, or its device; nothing overtakes a message to the same core that the core has
refused. -/
def execMessageArrival (s : State) : Host.Outcome State Fault Refusal :=
  match s.opById s.arg.id with
  | none => .next s
  | some o =>
    let thid := o.addr.toNat
    let at_ := match s.find thid with | some p => p.1 | none => bits thid 8 9
    let held := s.ops.any fun p => p.kind == .send && p.id != o.id && p.core == o.core && p.at_ == 3 && p.tgt == o.tgt && p.more == [at_]
    if o.kind ≠ .send ∨ o.at_ ≠ 0 ∨ held then .next s
    else if o.tgt ≠ s.dev.devno then
      if s.reach o.tgt then
        .next ((s.setOp { o with at_ := 1 }).sendPacket (messagePacket o.tgt o.id thid o.n (o.data.setWidth 64) o.thid))
      else .next (s.complete o (BitVec.ofNat 64 (2 ^ 63 + 4)))
    else
      let r := s.routeMsg thid o.n (o.data.setWidth 64) o.id s.dev.devno o.thid
      .next (match r.2 with
        | .status v => r.1.complete o v
        | .stays => r.1
        | .refused => r.1.setOp { o with at_ := 3, more := [at_], exp := BitVec.ofNat 64 (s.dev.clock + 256) }
        | .waits => r.1.setOp { o with at_ := 2 }
        | .forward d =>
          if r.1.reach d then (r.1.setOp { o with at_ := 1, tgt := d }).sendPacket (messagePacket d o.id thid o.n (o.data.setWidth 64) o.thid)
          else r.1.complete o (BitVec.ofNat 64 (2 ^ 63 + 4)))

/-- SEND_RETRY (R345): the refused message of operation `id` is sent again after 256 s-cycles. -/
def execSendRetry (s : State) : Host.Outcome State Fault Refusal :=
  match s.opById s.arg.id with
  | some o => .next (if o.kind = .send ∧ o.at_ = 3 ∧ o.exp.toNat ≤ s.dev.clock then s.setOp { o with at_ := 0 } else s)
  | none => .next s

/-- SPAWN_ANSWER (R244, R439): the request of operation `id` reaches its target core, or leaves for its device. -/
def execSpawnAnswer (s : State) : Host.Outcome State Fault Refusal :=
  match s.opById s.arg.id with
  | none => .next s
  | some o =>
    let r := o.spawnReq s.dev.devno
    if o.kind ≠ .spawn ∨ o.at_ ≠ 0 then .next s
    else if o.tgt = s.dev.devno then
      let p := s.trySpawn o.n r
      .next (match p.2 with
        | .waits => p.1.setOp { o with at_ := 2 }
        | v => p.1.complete o (spawnValue v))
    else if !s.reach o.tgt then .next (s.complete o (BitVec.ofNat 64 (2 ^ 63 + 6)))
    else
      let body := toBytes 8 r.pc.toNat ++ r.ks.flatMap (fun k => toBytes 8 k.toNat) ++ toBytes 4 r.desc ++ toBytes 2 r.job ++
        toBytes 1 (b2n r.sys + 2 * b2n r.xdev) ++ toBytes 1 r.bpri
      .next ((s.setOp { o with at_ := 1 }).sendPacket { dst := o.tgt, cls := 0, ty := 5, tag := o.id, bank := 0, body := body })

/-- SYSC_ANSWER (R217): the answer to request `m` of thread `id`: `v` to k0, and `w` to k1 where `ok`, else a value the spec does not state. -/
def execSyscAnswer (s : State) : Host.Outcome State Fault Refusal :=
  let a := s.arg
  let (d, s) := s.drawn
  let w := if a.ok then a.w else Config.serviceSecond d
  let give := fun (t : Thread) => if t.wait = .service a.m then { t with k := Table.set 0 a.v (Table.set 1 w t.k), wait := .done 0 } else t
  match s.find a.id with
  | some (c, h) => .next (s.modThread c h give)
  | none => .next (s.modSaved a.id give)

/-! ### Rollback (R416 to R420) -/

/-- The cores of a team: those of the rectangle of the last release on the faulting core, or of the launch (R418). -/
def State.team (s : State) (c x : Nat) : List Nat :=
  let k := s.ctx c x
  let all := (s.placesOf k.launch).map Prod.fst
  match k.lastRect with
  | some v => all.filter (bgIn v.toNat)
  | none => all

/-- A member goes back to its snapshot; a thread spawned since the release retires, one that the release has reached and that has not gone on stays. -/
def State.rollThread (s : State) (c h : Nat) : State :=
  let t := s.thread c h
  let k := s.ctx c t.x
  if t.st = .empty ∨ (t.st = .leaving ∧ (t.leave = .exit ∨ t.leave = .fatal)) then s
  else if k.relAt < t.uid then s.endThread c h
  else if inBarrier t.wait ∧ t.arr.isNone then s
  else match t.relSnap with
    | none => s
    | some z =>
      let s := ((s.cancelCmds c h).withdrawArrival c h).orphanOps c h
      let s := s.modThread c h fun t => parkTh 0 s.dev.clock
        { s.restored { t with snap := z } with arr := none, win := t.relWin, winAt := [], restart := true, timed := false, inst := none, serial := false }
      (s.openNext c h).finishRestart c h

/-- A core's checkpoint regions take the bytes of their current generation, but for places inside a subscriber region (R418). -/
def State.rollRegions (s : State) (c x : Nat) : State :=
  let k := s.ctx c x
  let g := if k.genCur = 0 then k.gen0 else k.gen1
  (k.ckpt.zip g).foldl (fun s p =>
    (List.range (p.1.2 / 64)).foldl (fun s i =>
      if s.subHit c (p.1.1 + 64 * i) 64 then s else s.land c (spKey c (p.1.1 + 64 * i)) (slice p.2 (64 * i) 64)) s) s

/-- The subscriber regions of a core are refreshed (R132, R418). -/
def State.refreshSubs (s : State) (c x : Nat) : State :=
  ((s.core c).sub.filter fun p => p.2.v && p.2.x == x && !p.2.lapsed).foldl (fun s p => (s.lapseLine p.2.peer p.2.pidx).refreshLine p.2.peer p.2.pidx) s

/-- TEAM_ROLLBACK (R418, R420): the team of faulting thread `c`, `h` of context `x` goes back to its last release; with `m` 1 its members end with
cause ECC_UNCORR instead; with `ok` the firmware could not service the fault, and the context is lost. -/
def execTeamRollback (s : State) : Host.Outcome State Fault Refusal :=
  let a := s.arg
  let k := s.ctx a.c a.x
  let cs := s.team a.c a.x
  if !k.placed then .next s
  else if a.m = 1 then
    .next (cs.foldl (fun s c => (s.ctxThreads c a.x).foldl (fun s p =>
      if p.2.st = .leaving ∧ (p.2.leave = .exit ∨ p.2.leave = .fatal) then s
      else s.fatal c p.1 ⟨0x30, a.v, p.2.pc, false, false, 0, 0⟩ 1 k.replays) s) s)
  else if (s.thread a.c a.h).wait ≠ .stuck then .next s
  else if a.ok then .next (s.loseLaunch k.launch)
  else if s.flights.any (fun f => match f.2 with | .release n _ _ _ _ _ => n == k.launch | _ => false) then
    .next { s with laterSteps := s.laterSteps ++ [⟨.teamRollback, a⟩] }
  else
    let s := cs.foldl (fun s c => (s.ctxThreads c a.x).foldl (fun s p => s.rollThread c p.1) s) s
    let s := { s with flights := s.flights.filter fun f => match f.2 with | .arrive n _ c _ _ _ _ => !(n == k.launch && cs.contains c) | _ => true }
    let s := cs.foldl (fun s c => s.modCtx c a.x fun k => { k with barSent := [], barIn := [], barSeq := [], replays := k.replays + 1 }) s
    let s := cs.foldl (fun s c => s.rollRegions c a.x) s
    .next (cs.foldl (fun s c => s.refreshSubs c a.x) s)

end Sys2Proof.Machine
end

