-- ==== Sys2Proof/Machine/EvQueue.lean ====
section
/-! DEFINITION. Steps of the scheduler: kicks, packets, mailbox words, energy, the pre-emption ladder, take-over, services (R351 to R370, R397, R405). -/

namespace Sys2Proof.Machine

/-! ### Kicks and queue registers (R351, R352, R361) -/

/-- KICK (R352, R448): argument `v`, the word written; dropped before the firmware runs. -/
def execKick (s : State) : Host.Outcome State Fault Refusal :=
  let q := bits s.arg.v.toNat 0 10
  let tail := bits s.arg.v.toNat 32 32
  let k := s.subq q
  let d := (tail + 2 ^ 32 - k.head) % 2 ^ 32
  if !k.en ∨ s.dev.bootState ≠ 2 then .next s
  else if 2 ^ k.sz < d ∨ d < (k.tail + 2 ^ 32 - k.head) % 2 ^ 32 then .next (s.guilty k.ctx)
  else .next (s.modSubq q fun k => { k with tail := tail, kicked := true })

/-- GCLR (R361): argument `v`, a context number in bits 7:0. -/
def execGclr (s : State) : Host.Outcome State Fault Refusal :=
  .next (s.modHctx (bits s.arg.v.toNat 0 8) fun h => { h with guilt := 0, barred := false })

/-- QCFG_WRITE (R351): queue `n`, word `v`. -/
def execQcfgWrite (s : State) : Host.Outcome State Fault Refusal :=
  let q := s.arg.n
  let v := s.arg.v.toNat
  let k := s.subq q
  let sz := bits v 16 5
  let new : SubQ := { k with sz := sz, iclass := bit v 22, en := bit v 23, ctx := bits v 24 8, t1lim := bits v 32 16, t2lim := bits v 48 16 }
  let clears := k.en && !new.en && decide (new = { k with en := false })
  if clears then .next ((s.modSubq q fun _ => { k with en := false, kicked := false }).withdrawPacket q 1)
  else if k.en ∨ !k.pkts.isEmpty ∨ sz < 4 ∨ 16 < sz ∨ bits v 32 16 < 10 ∨ bits v 48 16 < 100 then .next s
  else .next (s.modSubq q fun _ => if new.en then { new with head := 0, tail := 0, comps := 0, kicked := false, hold := 0 } else new)

/-! ### Reading and starting packets (R353 to R357, R361) -/

/-- A queue has a packet that may be read (R353, R354, R357). -/
def SubQ.waits (k : SubQ) : Bool := k.en && k.kicked && k.head != k.tail && k.unstarted.isNone

/-- The queue that the scheduler serves next: of those that it has not served in this turn, or of all where the turn has ended, those with ICLASS 1 first, in
the order of the scan from the queue after the one served last (R354). -/
def State.nextQueue (s : State) : Option Nat :=
  let ready := s.sched.subq.filter fun p => p.2.waits
  let fresh := ready.filter fun p => !s.sched.served.contains p.1
  let turn := if fresh.isEmpty then ready else fresh
  let l := if turn.any fun p => p.2.iclass then turn.filter fun p => p.2.iclass else turn
  let far := fun (q : Nat) => (q + 1023 - s.sched.lastServed) % 1024
  l.foldl (fun (b : Option Nat) p => match b with | none => some p.1 | some r => if far p.1 < far r then some p.1 else some r) none

/-- A slot may be taken from the head of a queue (R353, R354, R357). -/
def State.mayTake (s : State) (q : Nat) : Bool := (s.subq q).waits && !s.dev.thermHold && !s.sched.down && s.nextQueue == some q

/-- The slot at the head is read: HEAD rises, and the packet stands in the queue; `act` is the action that the journal records (R353, R354, R368). -/
def State.takeSlot (s : State) (q : Nat) (p : BitVec 512) (act : Nat) : State :=
  let k := s.subq q
  let head := (k.head + 1) % 2 ^ 32
  let s := s.modSched fun d => { d with lastServed := q, served := if d.served.contains q then [q] else q :: d.served }
  (s.journalled 2 (actionRec q k.head act)).modSubq q fun k => { k with head := head, kicked := head != k.tail, pkts := k.pkts ++ [⟨k.head, p, false⟩] }

/-- The step that is being made waits for a later s-cycle, as one of the firmware does while no scheduler serves (R368). -/
def State.stepLater (s : State) (i : Instr) : State := { s with laterSteps := s.laterSteps ++ [⟨i, s.arg⟩] }

/-- Bytes of a packet from `i` up to `j` are zero. -/
def zeroBytes (p : BitVec 512) (i j : Nat) : Bool := pktN p i (j - i) == 0

/-- Byte 1 and bytes 2 and 3 keep their reserved parts zero (R356). -/
def headOk (p : BitVec 512) : Bool := decide (pktN p 1 1 < 8) && zeroBytes p 2 4

/-- A packet that waits for every earlier one of its queue, where ORDER asks for it (R356). -/
def State.ordered (s : State) (q : Nat) (h : Held) (start : State → State) : State :=
  if bit (pktN h.pkt 1 1) 1 ∧ (s.subq q).pkts.any (fun p => p.idx != h.idx) then s.setHold q 5 else start s

/-- A step of a packet of type `ty`: the slot `pkt` of queue `n` is read and checked, or, where `ok`, the packet that waits is looked at again. -/
def State.servePacket (s : State) (ty : Nat) (fine : State → Held → Bool) (start : State → Nat → Held → State) : State :=
  let q := s.arg.n
  let p := s.arg.pkt
  if s.arg.ok then match (s.subq q).unstarted with
    | some h => if pktN h.pkt 0 1 = ty ∧ !s.sched.down then s.ordered q h fun s => start s q h else s
    | none => s
  else
    let k := s.subq q
    if !s.mayTake q ∨ pktN p 0 1 ≠ ty ∨ bit (pktN p 1 1) 0 ≠ bit k.head k.sz then s
    else
      let h : Held := ⟨k.head, p, false⟩
      let good := headOk p && fine s h
      let s := s.takeSlot q p (if good then ty else 0)
      if (s.hctx k.ctx).barred then s.postCompletion q h.idx 3 0
      else if !good then s.malformed q h.idx
      else s.ordered q h fun s => start s q h

/-- MALFORMED_SLOT (R353, R361): the slot `pkt` at the head of queue `n` has the wrong phase or no type. -/
def execMalformedSlot (s : State) : Host.Outcome State Fault Refusal :=
  let q := s.arg.n
  let p := s.arg.pkt
  let k := s.subq q
  if !s.mayTake q ∨ (bit (pktN p 1 1) 0 = bit k.head k.sz ∧ 1 ≤ pktN p 0 1 ∧ pktN p 0 1 ≤ 8) then .next s
  else
    let barred := (s.hctx k.ctx).barred
    let s := s.takeSlot q p 0
    .next (if barred then s.postCompletion q k.head 3 0 else s.malformed q k.head)

/-- NOP_PACKET (R357). -/
def execNopPacket (s : State) : Host.Outcome State Fault Refusal :=
  .next (s.servePacket 8 (fun _ h => zeroBytes h.pkt 8 64) fun s q h => s.postCompletion q h.idx 0 0)

/-- SIGNAL (R357): the value goes to the host address. -/
def execSignal (s : State) : Host.Outcome State Fault Refusal :=
  .next (s.servePacket 4 (fun _ h => pktN h.pkt 8 8 % 8 == 0 && zeroBytes h.pkt 24 64) fun s q h =>
    (s.modSched fun d => { d with out := d.out ++ [.write (pktN h.pkt 8 8) (toBytes 8 (pktN h.pkt 16 8))] }).postCompletion q h.idx 0 0)

/-- TIMED (R363). -/
def execTimed (s : State) : Host.Outcome State Fault Refusal :=
  .next (s.servePacket 5 (fun _ h => zeroBytes h.pkt 16 64) fun s q h =>
    if pktN h.pkt 8 8 ≤ s.now then s.postCompletion q h.idx 0 0 else s.setHold q 3)

/-- TIMED_EXPIRY (R363): the held packet of queue `n` has reached its target. -/
def execTimedExpiry (s : State) : Host.Outcome State Fault Refusal :=
  let q := s.arg.n
  match (s.subq q).unstarted with
  | some h => .next (if (s.subq q).hold = 3 ∧ pktN h.pkt 0 1 = 5 ∧ pktN h.pkt 8 8 ≤ s.now then s.postCompletion q h.idx 0 0 else s)
  | none => .next s

/-- FENCE_PACKET (R357): it completes when every earlier packet has, whose effects are then performed. -/
def execFencePacket (s : State) : Host.Outcome State Fault Refusal :=
  .next (s.servePacket 6 (fun _ h => [5, 6, 11].contains (pktN h.pkt 8 1) && zeroBytes h.pkt 9 64) fun s q h =>
    if (s.subq q).pkts.all fun p => p.idx == h.idx then s.postCompletion q h.idx 0 0 else s.setHold q 5)

/-! ### Mailbox words (R360, R362, R370) -/

/-- A word index lies in the range of a host context. -/
def mailboxOk (host w : Nat) : Bool := let r := Config.mailboxRange host; decide (r.1 ≤ w ∧ w < r.1 + r.2 ∧ w < 65536)

def mailboxAt (w : Nat) : Nat := 0x3600000 + 8 * w

/-- A request goes to a word's bank. -/
def State.toBank (s : State) (r : BankReq) (p : Nat) : State :=
  let b := bankOf p
  { s with bankQ := Table.set b (Table.get [] b s.bankQ ++ [r]) s.bankQ }

/-- A mailbox packet's request: a queue has at most one at the banks. -/
def State.mailbox (s : State) (q : Nat) (h : Held) (put peek : Bool) (v : Word) : State :=
  if (s.subq q).hold = 1 ∨ (s.subq q).hold = 2 then s
  else
    let p := mailboxAt (pktN h.pkt 8 4)
    (s.setHold q (if put then 2 else 1)).toBank (.mbx q h.idx p put peek v) p

/-- MBXWAIT (R362). -/
def execMbxwait (s : State) : Host.Outcome State Fault Refusal :=
  .next (s.servePacket 2 (fun s h => decide (pktN h.pkt 12 1 < 2) && zeroBytes h.pkt 13 64 && mailboxOk (s.subq s.arg.n).ctx (pktN h.pkt 8 4)) fun s q h =>
    s.mailbox q h false (bit (pktN h.pkt 12 1) 0) 0)

/-- MBXPUT (R362). -/
def execMbxput (s : State) : Host.Outcome State Fault Refusal :=
  .next (s.servePacket 3 (fun s h => zeroBytes h.pkt 12 16 && zeroBytes h.pkt 24 64 && mailboxOk (s.subq s.arg.n).ctx (pktN h.pkt 8 4)) fun s q h =>
    s.mailbox q h true false (BitVec.ofNat 64 (pktN h.pkt 16 8)))

/-- BANK_OPERATION (R91, R233, R234, R362): bank `n` executes the oldest request that has arrived. -/
def execBankOperation (s : State) : Host.Outcome State Fault Refusal :=
  let b := s.arg.n
  match Table.get [] b s.bankQ with
  | [] => .next s
  | r :: l => .next ({ s with bankQ := Table.set b l s.bankQ }.bankTake (fun s q i w => s.postCompletion q i 0 w.toNat) b r)

/-- A service answers its thread; the step that follows writes k0 and k1. -/
def State.answerService (s : State) (v : Word) (second : Option Word) : State :=
  { s with agenda := ⟨.syscAnswer, { id := s.arg.id, m := s.arg.m, v := v, w := second.getD 0, ok := second.isSome }⟩ :: s.agenda }

/-- The host context of the thread that asks for a service: argument `c`, `x`. -/
def State.askingHost (s : State) : Nat := (s.ctx s.arg.c s.arg.x).host

/-- SYSC_MBXPUT (R370): argument `v` the word's index, `w` the value. -/
def execSyscMbxput (s : State) : Host.Outcome State Fault Refusal :=
  let i := s.arg.v.toNat
  let p := mailboxAt i
  if s.sched.down then .next (s.stepLater .syscMbxput)
  else if !mailboxOk s.askingHost i then .next (s.answerService 2 none)
  else if s.full.contains p then .next (s.answerService 1 none)
  else
    let s := s.answerService 0 none
    let s := { (s.put (campKey p) (toBytes 8 s.arg.w.toNat)) with full := p :: s.full }
    .next (s.bankWake (fun s q i w => s.postCompletion q i 0 w.toNat) (bankOf p) p ((Table.get [] (bankOf p) s.bankWait).length + 1))

/-- MBXGET (R370): argument `v` the word's index. -/
def execMbxget (s : State) : Host.Outcome State Fault Refusal :=
  let i := s.arg.v.toNat
  let p := mailboxAt i
  if s.sched.down then .next (s.stepLater .mbxget)
  else if !mailboxOk s.askingHost i then .next (s.answerService 2 none)
  else if !s.full.contains p then .next (s.answerService 1 none)
  else
    let s := s.answerService 0 (some (BitVec.ofNat 64 (s.word (campKey p) 8)))
    let s := { s with full := s.full.filter (· != p) }
    .next (s.bankWake (fun s q i w => s.postCompletion q i 0 w.toNat) (bankOf p) p ((Table.get [] (bankOf p) s.bankWait).length + 1))

/-- LOG (R370): argument `v` the record's address, in the own scratchpad or a lease, `w` its length. -/
def execLog (s : State) : Host.Outcome State Fault Refusal :=
  let a := s.arg
  let va := a.v.toNat
  let n := a.w.toNat
  let l := (s.ctx a.c a.x).l
  let (d, s) := s.drawn
  let bs : Option (List Byte) := match spaceOf va with
    | some (.own _ o) => if o + n ≤ 0x100000 then some (s.bytes (spKey a.c o) n) else none
    | some (.other e o) => if e = a.c ∧ o + n ≤ 0x100000 then some (s.bytes (spKey a.c o) n) else none
    | some (.glob _) => if coveredBy (allLeases (s.lease l)) va n 1 then some ((List.range n).map fun i => match s.areaKey l (va + i) with
        | some k => s.byte k
        | none => emptyByte) else none
    | _ => none
  if s.sched.down then .next (s.stepLater .log)
  else match bs, decide (n ≤ 4096) with
  | some bs, true =>
    if Config.logFull d then .next (s.answerService 1 none)
    else .next ((s.modHctx s.askingHost fun h => { h with log := h.log ++ [bs] }).answerService 0 none)
  | _, _ => .next (s.answerService (Config.serviceSecond d) none)

/-! ### Launches and their cancel (R18, R357, R358, R364, R397) -/

/-- A launch that has been read opens its units, where the tables have room (R397). -/
def State.openLaunch (s : State) (n : Launch) : Option State :=
  if n.opened then some s
  else (openUnits (s.hctx n.host) n.pkt).map fun x => (s.modHctx n.host fun _ => x).modLaunch n.id fun n => { n with opened := true }

/-- A launch as it is read: a level that is cancelled ends it, or its units open (R397). -/
def State.readLaunch (s : State) (n : Launch) : State :=
  if unitCancelled (s.hctx n.host) n.pkt then s.endLaunch n.id 1 else (s.openLaunch n).getD s

/-- A LAUNCH packet whose turn it is: a level that is cancelled ends it, a full table keeps it, energy holds it; else it waits for its cores. -/
def State.launchStep (s : State) (q : Nat) (h : Held) : State :=
  match s.sched.launches.find? fun n => n.q == q && n.idx == h.idx with
  | none => s
  | some n =>
    if unitCancelled (s.hctx n.host) n.pkt && !n.opened then s.endLaunch n.id 1
    else if n.st ≠ .waiting ∧ s.launchClash n then s.refuseLaunch n
    else
      match s.openLaunch n with
      | none => s
      | some s =>
        if n.st = .waiting ∨ (s.subq q).hold = 4 then s
        else if n.bpri ≠ 7 ∧ s.dev.erem < min n.est s.dev.bud then
          (s.modSched fun d => { d with launches := (d.launches.filter fun m => m.id != n.id) ++ d.launches.filter fun m => m.id == n.id }).setHold q 4
        else (s.modLaunch n.id fun n => { n with st := .waiting }).setHold q 0

/-- LAUNCH (R357, R358): slot `pkt` of queue `n`; the firmware brings the root of the page tables of the packet's context (`addr`), the image where it lies on another
device (`bytes`), places for overflow areas (`v`) and the save area (`w`), and the pages of the context's mappings that are not resident (`pairs`: the first page
of this device, and their number). -/
def execLaunch (s : State) : Host.Outcome State Fault Refusal :=
  let a := s.arg
  let make := fun (s : State) (h : Held) =>
    let k := s.subq a.n
    ({ id := s.sched.nextLaunch, st := .held, q := a.n, idx := h.idx, host := k.ctx, pkt := h.pkt, graph := pktN h.pkt 24 2, phase := pktN h.pkt 26 2
       job := pktN h.pkt 28 2, est := pktN h.pkt 20 4, root := a.addr, remote := a.bytes, ovfBase := a.v.toNat, saveAt := a.w.toNat
       absent := a.pairs.map fun p => (p.1.toNat, p.2.toNat) } : Launch)
  let fine := fun (s : State) (h : Held) => zeroBytes h.pkt 30 32 && s.launchOk (make s h) (s.subq a.n).iclass
  .next (if a.ok then s.servePacket 1 fine State.launchStep
    else
      let h : Held := ⟨(s.subq a.n).head, a.pkt, false⟩
      let s := s.servePacket 1 fine fun s _ _ => s
      -- the packet stands in the queue where it was read and is not malformed
      if (s.subq a.n).unstarted = some h ∧ pktN h.pkt 0 1 = 1 ∧ (s.sched.launches.all fun n => n.q != a.n || n.idx != h.idx) then
        let n := make s h
        let k := (s.kern n).1
        let s := s.modSched fun d => { d with launches := d.launches ++ [{ n with bpri := k.bpri }], nextLaunch := d.nextLaunch + 1 }
        (s.readLaunch n).ordered a.n h fun s => s.launchStep a.n h
      else s)

/-- LAUNCH_PLACE (R100, R358, R373, R462): waiting launch `id` is placed once its leases are resident, for which the firmware finds memory (`pairs`: a page of this
device and its frame), and its cores have room, and after the resume of launches that were pre-empted while it was held (R373); where they do not and the scheduler so chooses (`ok`), contexts of lower base priority on them are pre-empted. -/
def execLaunchPlace (s : State) : Host.Outcome State Fault Refusal :=
  match s.launch s.arg.id with
  | none => .next s
  | some n =>
    let s := if s.arg.pairs.isEmpty ∨ n.st ≠ .waiting then s else s.makeResident n (s.arg.pairs.map fun p => (p.1.toNat, p.2.toNat))
    let k := (s.kern n).1
    let cores := rectOf n.pkt
    let entry := (levelOpen 256 1 n.id (s.hctx n.host).launches).isSome
    let paused := s.sched.launches.any fun m => n.after.contains m.id && (m.st == .draining || m.st == .saving || m.st == .saved)
    if n.st ≠ .waiting ∨ s.dev.thermHold ∨ s.sched.down ∨ !entry ∨ paused ∨ !s.resident n then .next s
    else match s.freeL, cores.all (s.coreRoom k) with
      | some l, true => .next (if s.launchClash n then s.refuseLaunch n else s.placeLaunch n l)
      | _, _ =>
        if !s.arg.ok then .next s
        else
          let ids := distinct (cores.flatMap fun c => [0, 1].filterMap fun x =>
            let q := s.ctx c x
            if q.placed ∧ q.bpri < k.bpri ∧ !s.coreRoom k c then some q.launch else none)
          .next (ids.foldl (fun s i => (s.preemptLaunch i).modLaunch i fun n => { n with back := true }) s)

/-- CANCEL (R357, R397): it completes once the level it names is no longer open; `m` 1 looks again at packets that have started. -/
def execCancel (s : State) : Host.Outcome State Fault Refusal :=
  let level := fun (p : BitVec 512) => pktN p 8 1
  let num := fun (p : BitVec 512) => pktN p 12 4
  let gone := fun (s : State) (q : Nat) (p : BitVec 512) => (levelIn (num p) ((s.hctx (s.subq q).ctx).level (level p))).isNone
  if s.arg.ok ∧ s.arg.m = 1 then
    let q := s.arg.n
    .next ((((s.subq q).pkts.filter fun h => h.started && pktN h.pkt 0 1 == 7).foldl fun s h => if gone s q h.pkt then s.postCompletion q h.idx 0 0 else s) s)
  else .next (s.servePacket 7 (fun _ h => decide (1 ≤ level h.pkt ∧ level h.pkt ≤ 4) && zeroBytes h.pkt 9 12 && zeroBytes h.pkt 16 64) fun s q h =>
    let r := ((s.startPacket q h.idx).cancelLevel (s.subq q).ctx (level h.pkt) (num h.pkt)).1
    if gone r q h.pkt then r.postCompletion q h.idx 0 0 else r)

/-- SYSC_CANCEL (R370): argument `v` the level, `w` the number. -/
def execSyscCancel (s : State) : Host.Outcome State Fault Refusal :=
  let k := s.arg.v.toNat
  let n := s.arg.w.toNat
  let host := s.askingHost
  if s.sched.down then .next (s.stepLater .syscCancel)
  else if k < 1 ∨ 4 < k then
    let (d, s) := s.drawn
    .next (s.answerService (Config.serviceSecond d) none)
  else if k = 1 ∧ s.sched.launches.any fun m => m.id == n && m.host != host then .next (s.answerService 2 none)
  else .next ((s.answerService 0 none).cancelLevel host k n).1

/-! ### Energy (R364, R405) -/

/-- ENERGY_SAMPLE (R405): the supply monitors' sample, in µJ: `n` for the module, `ks` for the dies. -/
def execEnergySample (s : State) : Host.Outcome State Fault Refusal :=
  let a := s.arg
  .next (s.modDev fun d =>
    let e := d.ecarry + a.n
    { d with ecnt := (d.ecnt + a.n) % 2 ^ 64, erem := d.erem - e / 1000, ecarry := e % 1000
             dies := (List.range 4).foldl (fun t i => let y := Table.get ({} : Die) i t; Table.set i { y with ecnt := (y.ecnt + (a.ks.getD i 0).toNat) % 2 ^ 64 } t) d.dies })

/-- ENERGY_WINDOW_BOUNDARY (R364, R405): EREM is loaded from BUD, a new BUD and WIN take effect, and held launches are compared again in the order in
which they became held. -/
def execEnergyWindowBoundary (s : State) : Host.Outcome State Fault Refusal :=
  if s.now / (s.dev.win * 1000) = s.dev.ewin then .next s
  else
    let s := s.modDev fun d => { d with bud := d.budNext, erem := d.budNext, win := d.winNext, ewin := s.now / (d.winNext * 1000) }
    .next (s.sched.launches.foldl (fun s n =>
      if (s.subq n.q).hold = 4 ∧ n.st = .held ∧ min n.est s.dev.bud ≤ s.dev.erem then (s.modLaunch n.id fun n => { n with st := .waiting }).setHold n.q 0
      else s) s)

/-! ### The ladder (R365, R366) -/

/-- DRAIN_END (R365): launch `id` has drained. -/
def execDrainEnd (s : State) : Host.Outcome State Fault Refusal :=
  .next (if s.drained s.arg.id ∧ !s.sched.down then s.beginSave s.arg.id 1 else s)

/-- T1LIM_EXPIRY (R365): the drain limit of launch `id` has passed. -/
def execT1limExpiry (s : State) : Host.Outcome State Fault Refusal :=
  match s.launch s.arg.id with
  | some n => .next (if n.t1End ≤ s.now ∧ !s.sched.down then s.beginSave n.id 2 else s)
  | none => .next s

/-- SAVE_COMPLETE (R365, R421): the images of launch `id` are complete. -/
def execSaveComplete (s : State) : Host.Outcome State Fault Refusal := .next (if s.sched.down then s else s.endSave s.arg.id)

/-- T2LIM_EXPIRY (R366): the save limit of launch `id` has passed. -/
def execT2limExpiry (s : State) : Host.Outcome State Fault Refusal :=
  match s.launch s.arg.id with
  | some n => .next (if n.st = .saving ∧ n.t2End ≤ s.now ∧ !s.sched.down then ((s.rungRecord n.id 3).setRung n.host 3).loseLaunch n.id else s)
  | none => .next s

/-! ### Take-over (R368, R391) -/

/-- The records of the journal from a place on: type, and the place of the body; SKIP records are passed over (R367). -/
def State.journalFrom (s : State) : Nat → Nat → List (Nat × Nat)
  | 0, _ => []
  | f + 1, pos =>
    let p := pos % 2 ^ 32
    if p = s.sched.journal then []
    else
      let h := s.word (campKey (0x3500000 + p % 2 ^ 20)) 8
      let l := s.journalFrom f (p + 8 + bits h 0 32)
      if bit h 63 then l else (bits h 32 16, (p + 8) % 2 ^ 20) :: l

/-- The records since the last checkpoint (R369). -/
def State.journalRecords (s : State) : List (Nat × Nat) := s.journalFrom ((s.sched.journal + 2 ^ 32 - s.sched.journalTail) % 2 ^ 32 / 8) s.sched.journalTail

/-- Number `n` bytes from byte `i` of a record's body. -/
def State.recField (s : State) (r : Nat × Nat) (i n : Nat) : Nat := s.word (campKey (0x3500000 + r.2 + i)) n

/-- A packet's action has a second record: a completion, a placement or a hold (R368). -/
def State.actedOn (s : State) (rs : List (Nat × Nat)) (q idx : Nat) : Bool :=
  rs.any fun r => decide (3 ≤ r.1 ∧ r.1 ≤ 5) && s.recField r 0 4 == q && s.recField r 4 4 == idx

/-- The rung of a launch, by the last record of it (R373). -/
def State.rungRead (s : State) (rs : List (Nat × Nat)) (n : Launch) : Nat :=
  match (rs.filter fun r => r.1 == 6 && s.recField r 0 8 == n.id).getLast? with
  | some r => s.recField r 8 8
  | none => n.rung

/-- The belayer goes on where the primary stopped (R368, R373): ladders at the rung that the journal names, packets whose action has no second record, every
enabled queue as if kicked, and the completions held back. -/
def State.replay (s : State) : State :=
  let rs := s.journalRecords
  let held := s.sched.heldComps
  let s := s.modSched fun q =>
    { q with down := false, heldComps := [], launches := q.launches.map fun n => if n.st = .draining ∨ n.st = .saving then { n with rung := s.rungRead rs n } else n
             subq := q.subq.map fun p => (p.1, if p.2.en then { p.2 with kicked := true } else p.2) }
  let redo := s.sched.subq.filterMap fun p => match p.2.unstarted with
    | some h => if s.actedOn rs p.1 h.idx then none else some ⟨packetStep (pktN h.pkt 0 1), { n := p.1, ok := true }⟩
    | none => none
  held.foldl (fun s c => s.postCompletion c.1 c.2.1 c.2.2.1 c.2.2.2) { s with agenda := s.agenda ++ redo }

/-- TAKEOVER (R368): the primary on core `c` has failed; the belayer of rank 0 wakes, becomes primary, and replays the journal. -/
def execTakeover (s : State) : Host.Outcome State Fault Refusal :=
  let c := s.arg.c
  match s.dev.roles.find? fun r => r.1 == c && r.2.1 == 1, s.dev.roles.find? fun r => r.2.1 == 2 && r.2.2 == 0 with
  | some _, some b =>
    let s := s.modDev fun d => { d with roles := d.roles.map fun r =>
      if r.1 = c ∧ r.2.1 = 1 then (r.1, 0, 0) else if r.1 = b.1 ∧ r.2.1 = 2 ∧ r.2.2 = 0 then (r.1, 1, 0) else if r.2.1 = 2 then (r.1, 2, r.2.2 - 1) else r }
    .next (s.wakeHalted b.1).replay
  | _, _ => .next s

end Sys2Proof.Machine
end

