-- ==== Sys2Proof/Machine/EvSched.lean ====
section
/-! DEFINITION. Steps of the clocks, counters and traces, and of the core's queues: barriers, fixed lines, keyed flits, ropes (R69, R71, R128 to R134,
R254, R258 to R260, R331, R332, R338, R347, R348, R394, R395, R398 to R406). -/

namespace Sys2Proof.Machine

/-! ### Keyed flits (R331, R332) -/

/-- KEY_BUFFER_TIMEOUT (R331): the buffer of context `x` of core `c` for receiver `n` is sent 256 a-cycles after its last pair. -/
def execKeyBufferTimeout (s : State) : Host.Outcome State Fault Refusal :=
  let a := s.arg
  .next (if Table.get 0 (2 * a.n + a.x) (s.core a.c).coalClk + 512 ≤ s.dev.clock then s.sendBuffer a.c a.x a.n else s)

/-- KEYED_FLIT_ARRIVAL (R331, R332): flit `id` reaches its core, after those that its sender sent there before; it waits where a bin does. -/
def execKeyedFlitArrival (s : State) : Host.Outcome State Fault Refusal :=
  match s.flights.find? fun f => f.1 == s.arg.id with
  | some (id, .keyed src c x l ps) =>
    let first := s.flights.find? fun f => match f.2 with | .keyed p d _ _ _ => p == src && d == c | _ => false
    if (first.map Prod.fst) ≠ some id then .next s
    else match s.receive c x l ps with
      | some r => .next { r with flights := r.flights.filter fun f => f.1 != id }
      | none => .next s
  | _ => .next s

/-! ### Fixed lines (R128, R129, R347, R348) -/

/-- s-cycles of a source entry's BATCH window (R266). -/
def windowTime (f : FLine) : Nat := 2 * (if f.bwin = 0 then 64 else f.bwin)

/-- BATCH_WINDOW_CLOSE (R128, R348): the window of source entry `n` of core `c` for line `m` has run its time; its update waits for room. -/
def execBatchWindowClose (s : State) : Host.Outcome State Fault Refusal :=
  let a := s.arg
  let k := s.core a.c
  let due := Table.get 0 (16384 * a.n + a.m) k.batchClk + windowTime (Table.get {} a.n k.src)
  .next (if due ≤ s.dev.clock ∧ k.outq.length < 128 then s.closeBatch a.c a.n a.m else s)

/-- The oldest update of a core's out-queue leaves for its subscriber's in-queue, where that has room (R347). -/
def State.updateOut (s : State) (c : Nat) : State :=
  match (s.core c).outq with
  | [] => s
  | u :: l =>
    if 32 ≤ (s.core u.dst).inq.length then s
    else
      let x := (Table.get {} u.entry (s.core u.dst).sub).x
      let s := (s.modCore c fun k => { k with outq := l }).count c x 256 16 1
      s.modCore u.dst fun k => { k with inq := k.inq ++ [u] }

/-- The oldest update of a core's in-queue is applied to its region, where the updates that it generates itself find room (R128, R347). -/
def State.updateIn (s : State) (c : Nat) : State :=
  match (s.core c).inq with
  | [] => s
  | u :: l =>
    let f := Table.get {} u.entry (s.core c).sub
    let o := f.off + u.off
    if !s.updateRoom c o u.bytes.length then s
    else
      let s := s.modCore c fun k => { k with inq := l, sub := Table.set u.entry { f with seq := u.seq } k.sub }
      s.land c (spKey c o) u.bytes

/-- FL_UPDATE_APPLY (R129, R347): on core `c` the oldest update is applied, and the oldest of its own leaves. -/
def execFlUpdateApply (s : State) : Host.Outcome State Fault Refusal := .next ((s.updateIn s.arg.c).updateOut s.arg.c)

/-! ### Barriers (R67, R254) -/

/-- The context of a core is in place for a launch's barrier packet. -/
def State.barrierHere (s : State) (launch c x : Nat) : Bool := let k := s.ctx c x; k.placed && !k.away && k.launch == launch

def State.landed (s : State) (id : Nat) : State := { s with flights := s.flights.filter fun f => f.1 != id }

/-- BARRIER_ARRIVAL_HOP (R254): with `id` 0 core `c` arrives on register `n` of context `x`; else the arrival of flight `id` reaches its next core, and waits
there for a context that is being switched. -/
def execBarrierArrivalHop (s : State) : Host.Outcome State Fault Refusal :=
  let a := s.arg
  if a.id = 0 then .next (s.coreArrival a.c a.x a.n)
  else match s.flights.find? fun f => f.1 == a.id with
    | some (_, .arrive launch src c x bg rect q) =>
      if s.barrierHere launch c x then .next ((s.landed a.id).arriveAt src c x bg rect q)
      else if (s.launch launch).isNone then .next (s.landed a.id) else .next s
    | _ => .next s

/-- BARRIER_RELEASE (R130, R254): the release of flight `id` reaches a core, which releases its members once its lines have caught up. -/
def execBarrierRelease (s : State) : Host.Outcome State Fault Refusal :=
  match s.flights.find? fun f => f.1 == s.arg.id with
  | some (id, .release launch c x bg rect q) =>
    if s.barrierHere launch c x then .next (if s.linesCaughtUp c q then (s.landed id).releaseAt c x bg rect q else s)
    else if (s.launch launch).isNone then .next (s.landed id) else .next s
  | _ => .next s

/-! ### Ropes (R90, R133, R134, R258 to R260) -/

/-- ROPE_PENDING_WRITE (R258): the next line of the contribution of member `m` of rope `id` is written to its bank, where there is room. -/
def execRopePendingWrite (s : State) : Host.Outcome State Fault Refusal :=
  let n := s.arg.id
  match (s.rope n).pend.find? fun p => p.m == s.arg.m with
  | some p => .next (if s.pendRoom n p then s.modPend n p.m fun q => { q with wrote := q.wrote + 1 } else s)
  | none => .next s

/-- ROPE_BANK_ACK (R75, R258): line `n` of the contribution of member `m` of rope `id` is acknowledged; with the last the member is counted. -/
def execRopeBankAck (s : State) : Host.Outcome State Fault Refusal :=
  let a := s.arg
  match (s.rope a.id).pend.find? fun p => p.m == a.m with
  | some p =>
    if p.wrote ≤ a.n ∨ p.acked.contains a.n then .next s
    else
      let p := { p with acked := a.n :: p.acked }
      let thid := (Table.get {} a.m (s.rope a.id).mem).thid
      let r := (s.modPend a.id a.m fun _ => p).countMember a.id p
      let counted := (Table.get {} a.m (r.rope a.id).mem).cnt && !p.counted
      match s.find thid with
      | some (c, h) => .next (if counted then r.count c (s.thread c h).x h 17 1 else r)
      | none => .next r
  | none => .next s

/-- ROPE_MERGE (R133): a bank merges line `n` of counted member `m` of rope `id`. -/
def execRopeMerge (s : State) : Host.Outcome State Fault Refusal :=
  let a := s.arg
  match (s.rope a.id).pend.find? fun p => p.m == a.m with
  | some p => .next (if p.counted ∧ a.n < p.wrote ∧ ¬ p.merged.contains a.n then s.mergeLine a.id p a.n else s)
  | none => .next s

/-- ROPE_RELEASE (R133, R134, R260): the release of rope `id` ends once every counted member is merged. -/
def execRopeRelease (s : State) : Host.Outcome State Fault Refusal := .next (s.endRelease s.arg.id)

/-! ### Issue trace and cross-trigger (R394, R403, R404) -/

/-- A stop of a core's trace begins (R403). -/
def State.traceStopping (s : State) (c : Nat) : State :=
  let s := s.modCore c fun k => { k with trState := 2, trLeft := k.trPost, trigClk := s.dev.clock }
  if (s.core c).trPost = 0 then { s with agenda := s.agenda ++ [⟨.tracePostEnd, { c := c }⟩] } else s

/-- The fields of TRCTL that a write gives (R403). -/
def State.traceFields (s : State) (c : Nat) (v : Word) : State :=
  s.modCore c fun k => { k with trPost := bits v.toNat 32 16, trXarm := bit v.toNat 2 }

/-- CROSS_TRIGGER_ARRIVAL (R404): the cross-trigger reaches core `c`. -/
def execCrossTriggerArrival (s : State) : Host.Outcome State Fault Refusal :=
  let k := s.core s.arg.c
  .next (if k.trState = 1 ∧ k.trXarm then s.traceStopping s.arg.c else s)

/-- TRACE_START (R403): STATE 1 is written to TRCTL of core `c`, with the word `v`. -/
def execTraceStart (s : State) : Host.Outcome State Fault Refusal :=
  .next ((s.traceFields s.arg.c s.arg.v).modCore s.arg.c fun k => { k with trState := 1 })

/-- TRACE_STOP (R403): STATE 2 is written. -/
def execTraceStop (s : State) : Host.Outcome State Fault Refusal := .next ((s.traceFields s.arg.c s.arg.v).traceStopping s.arg.c)

/-- TRACE_OFF (R403): STATE 0 is written. -/
def execTraceOff (s : State) : Host.Outcome State Fault Refusal :=
  .next ((s.traceFields s.arg.c s.arg.v).modCore s.arg.c fun k => { k with trState := 0 })

/-- TRACE_STOPPED (R403): STATE 3 is written. -/
def execTraceStopped (s : State) : Host.Outcome State Fault Refusal :=
  .next ((s.traceFields s.arg.c s.arg.v).modCore s.arg.c fun k => { k with trState := 3 })

/-- TRACE_POST_END (R403): the entries after the stop are written. -/
def execTracePostEnd (s : State) : Host.Outcome State Fault Refusal :=
  let k := s.core s.arg.c
  .next (if k.trState = 2 ∧ k.trLeft = 0 then s.modCore s.arg.c fun k => { k with trState := 3 } else s)

/-- XTRIG_PULSE (R394, R404): XTRIG is written with PULSE 1, the word `v`; FIRED written 1 with it is cleared first. -/
def execXtrigPulse (s : State) : Host.Outcome State Fault Refusal :=
  let v := s.arg.v.toNat
  .next (s.modDev fun d => { d with xBken := bit v 1, xFired := d.xFired && !bit v 2 }).fireTrigger

/-- XTRIG_FIRED_CLEAR (R394): FIRED is written 1, in the word `v`. -/
def execXtrigFiredClear (s : State) : Host.Outcome State Fault Refusal :=
  .next (s.modDev fun d => { d with xBken := bit s.arg.v.toNat 1, xFired := false })

/-! ### The s-cycle (R69, R338, R395, R399 to R403) -/

/-- READY threads of a context on a core. -/
def readyIn (ts : List (Nat × Thread)) (x : Nat) : List (Nat × Thread) := ts.filter fun p => p.2.x == x && p.2.st == .ready

/-- The park cause of most parked threads of a context, ties to the lower code (R400). -/
def commonCause (ts : List (Nat × Thread)) (x : Nat) : Nat :=
  let n := fun (k : Nat) => (ts.filter fun p => p.2.x == x && p.2.st == .parked && p.2.pcause == k).length
  (List.range 14).foldl (fun b k => if n b < n k then k else b) 0

/-- The TLC code of a context in this s-cycle (R400). -/
def State.tlcCode (s : State) (c x : Nat) : Nat :=
  let ts := s.threadsOf c
  let ready := readyIn ts x
  match (s.core c).issued with
  | some (_, y) => if y = x then 16 else 20
  | none =>
    if !ready.isEmpty then
      if x = 0 ∧ s.gated c then 19
      else if ready.any fun p => decide (p.2.elig ≤ s.dev.clock ∧ s.dev.clock < (s.core c).vecFree) && s.nextVector c p.1 then 18
      else 17
    else if ts.any fun p => p.2.x == x && p.2.st == .parked then commonCause ts x
    else 21

/-- The HIST bucket of a number of READY threads (R401). -/
def histBucket (n : Nat) : Nat := if n < 8 then n else if n < 16 then 8 else if n < 32 then 9 else if n < 64 then 10 else 11

/-- The counters of one placed context after an s-cycle (R399 to R402); the capture record that is due. -/
def State.countCycle (s : State) (c x : Nat) : State :=
  let k := s.ctx c x
  if !k.placed then s
  else
    let tlc := s.tlcCode c x
    let b := histBucket (readyIn (s.threadsOf c) x).length
    let add := fun (n : Nat) (t : Table Nat) => Table.set n ((Table.get 0 n t + 1) % 2 ^ 48) t
    let s := s.count c x 256 1 1
    let s := s.modCtx c x fun k => { k with cnt := { k.cnt with tlc := add tlc k.cnt.tlc, hist := add b k.cnt.hist
                                                                capAge := if k.cnt.capEn then k.cnt.capAge + 1 else 0 } }
    let n := (s.ctx c x).cnt
    if n.capEn ∧ 1024 * n.capIval ≤ n.capAge then { s with agenda := s.agenda ++ [⟨.captureRecord, { c := c, x := x }⟩] } else s

/-- The trace entry of an s-cycle (R403). -/
def State.traceEntry (s : State) (c : Nat) : State :=
  let k := s.core c
  if k.trState = 1 ∨ (k.trState = 2 ∧ k.trLeft ≠ 0) then
    let x := match k.issued with | some (_, y) => y | none => 0
    let h := match k.issued with | some (i, _) => i | none => 0xFF
    let s := s.put (s.fwd (k.trBase + 2 * (k.trIdx % 65536))) (toBytes 2 (s.tlcCode c x * 4 + x * 128 + h * 256))
    let s := s.modCore c fun k => { k with trIdx := k.trIdx + 1, trLeft := if k.trState = 2 then k.trLeft - 1 else k.trLeft }
    if k.trState = 2 ∧ k.trLeft = 1 then { s with agenda := s.agenda ++ [⟨.tracePostEnd, { c := c }⟩] } else s
  else s

/-- READY threads that did not issue age (R338). -/
def State.ageAll (s : State) : State :=
  { s with threads := s.threads.map fun p =>
      if p.2.st = .ready ∧ (s.core (p.1 / 256)).issued.map Prod.fst ≠ some (p.1 % 256) then (p.1, aged (s.core (p.1 / 256)).ageq p.2) else p }

/-- Clusters whose load register is to be refreshed: those that change, and those of a core that may rebalance (R69, R349). -/
def State.loadsDue (s : State) : List Nat :=
  (List.range 64).filter fun k => (s.cluster k).cairn != s.loadWord k ||
    (clusterCores k).any fun c => let q := s.ctx c 0; q.placed && !q.away && bit q.caps.toNat 3

/-- S_CYCLE (R69, R338, R395, R400, R401, R403): an s-cycle ends. -/
def execSCycle (s : State) : Host.Outcome State Fault Refusal :=
  let s := s.ctxs.foldl (fun s p => s.countCycle (p.1 / 2) (p.1 % 2)) s
  let s := s.cores.foldl (fun s p => s.traceEntry p.1) s
  let s := s.ageAll
  let s : State := { s with cores := s.cores.map fun (p : Nat × Core) => (p.1, { p.2 with issued := none }) }
  let s := s.modDev fun d => { d with clock := (d.clock + 1) % 2 ^ 64 }
  .next (if s.dev.clock % 64 = 0 then { s with agenda := s.agenda ++ s.loadsDue.map fun k => ⟨.cairnRefresh, { n := k }⟩ } else s)

/-- CAPTURE_RECORD (R402): the interval of context `x` of core `c` has ended. -/
def execCaptureRecord (s : State) : Host.Outcome State Fault Refusal :=
  let c := s.arg.c
  let x := s.arg.x
  let n := (s.ctx c x).cnt
  if !n.capEn ∨ n.capAge < 1024 * n.capIval then .next s
  else
    let ovf := fun (i : Nat) => b2n (bit (Table.get 0#64 i n.sel).toNat 25)
    let b19 := b2n n.capGap + ((List.range 7).map fun i => ovf (i + 1) * 2 ^ (i + 1)).sum
    let rec128 := toBytes 8 s.now ++ toBytes 8 s.dev.clock ++ toBytes 2 c ++ toBytes 1 x ++ toBytes 1 b19 ++ toBytes 1 (ovf 0) ++ List.replicate 43 0 ++
      (List.range 8).flatMap fun i => toBytes 8 (Table.get 0 i n.pc)
    let s := s.put (s.fwd (n.capBase + 128 * (n.capIdx % 2 ^ n.capSz))) rec128
    .next (s.modCtx c x fun k => { k with cnt := { k.cnt with capIdx := k.cnt.capIdx + 1, capAge := 0, capGap := false } })

/-! ### Time (R71, R394, R395) -/

/-- REFERENCE_PERIOD (R71, R395): 10 ns of the reference, trimmed; half of it is withheld while a remainder stands. -/
def execReferencePeriod (s : State) : Host.Outcome State Fault Refusal :=
  .next ((s.modDev fun d =>
    let inc := (10 * (2 ^ 32 + d.trim)).toNat
    let w := min (inc / 2) d.owed
    { d with dtime := d.dtime + (inc - w), owed := d.owed - w }).timeDue s.now)

/-- DTSTEP_WRITE (R71): argument `v`. -/
def execDtstepWrite (s : State) : Host.Outcome State Fault Refusal := .next (s.dtStep s.arg.v)

/-- PPS_EDGE (R395). -/
def execPpsEdge (s : State) : Host.Outcome State Fault Refusal :=
  .next (s.modDev fun d => { d with ppsCap := s.now, ppsClk := d.clock, ppsCnt := (d.ppsCnt + 1) % 2 ^ 32 })

/-- WEAR_COMPUTE (R406): the wear of each die is computed; EOLD keeps 0xFFFF for the dies that approach mode leaves unused. -/
def execWearCompute (s : State) : Host.Outcome State Fault Refusal :=
  .next ((List.range 4).foldl (fun s i =>
    let (n, s) := s.drawn
    let w := (Config.wear n).toNat
    let unused := s.dev.active && i != 0
    s.modDev fun d => { d with dies := Table.set i { (Table.get ({} : Die) i d.dies) with
      hot := bits w 32 16, stress := bits w 16 16, eold := if unused then 0xFFFF else bits w 0 16 } d.dies }) s)

end Sys2Proof.Machine
end

