-- ==== Sys2Proof/Machine/EvMgmt.lean ====
section
/-! DEFINITION. Steps of the management channels: their registers, requests and records (R371, R372, R395, R443, R447). -/

namespace Sys2Proof.Machine

/-! ### The registers (R371) -/

/-- What waits for room in a channel's reply ring goes out: replies in order, then, on channel 0, the kept records, oldest first, and the count of those
lost. -/
def State.flushChan (s : State) (m : Nat) : Nat → State
  | 0 => s
  | f + 1 =>
    let ch := s.chan m
    let lost := ringRec 0x9003 (toBytes 8 s.sched.flogLost)
    if !ch.en then s
    else match ch.replies, (if m = 0 then s.sched.flog else []) with
      | r :: l, _ => if chanRoom ch r.length then ((s.modChan m fun c => { c with replies := l }).channelOut m r).flushChan m f else s
      | [], r :: l => if chanRoom ch r.length then ((s.modSched fun q => { q with flog := l }).channelOut m r).flushChan m f else s
      | [], [] => if m = 0 ∧ s.sched.flogLost ≠ 0 ∧ chanRoom ch lost.length then (s.modSched fun q => { q with flogLost := 0 }).channelOut m lost else s

def State.flushed (s : State) (m : Nat) : State := s.flushChan m ((s.chan m).replies.length + s.sched.flog.length + 1)

/-- MQTAIL (R371): channel `m`, word `v`. -/
def execMqtail (s : State) : Host.Outcome State Fault Refusal :=
  .next (s.modChan s.arg.m fun c => { c with tail := s.arg.v.toNat % 2 ^ 32 })

/-- MRHEAD_WRITE (R371, R372): channel `m`, word `v`; what waited for room goes out. -/
def execMrheadWrite (s : State) : Host.Outcome State Fault Refusal :=
  .next ((s.modChan s.arg.m fun c => { c with rhead := s.arg.v.toNat % 2 ^ 32 }).flushed s.arg.m)

/-- MCFG_WRITE (R371): channel `m`, word `v`. Clearing EN drops the requests not yet read, and discards the replies of those being served. -/
def execMcfgWrite (s : State) : Host.Outcome State Fault Refusal :=
  let m := s.arg.m
  let v := s.arg.v.toNat
  let c := s.chan m
  let new : Chan := { c with en := bit v 23, sz := bits v 16 5, admin := bit v 8, ctx := bits v 0 8 }
  if c.en then
    .next (if new = { c with en := false } then s.modChan m fun c => { c with en := false, head := c.tail, replies := [], busy := [] } else s)
  else if new.sz < 12 ∨ 24 < new.sz then .next s
  else .next ((s.modChan m fun _ => new).flushed m)

/-- MSTAT_READ (R371): the read of MSTAT of channel `m` clears DROP. -/
def execMstatRead (s : State) : Host.Outcome State Fault Refusal := .next (s.modChan s.arg.m fun c => { c with drop := 0 })

/-! ### Requests (R371, R372) -/

/-- The next record of a channel's request ring, with a body of `n` bytes, is read: its byte index, and the state after the read; none where the write of
MQTAIL does not cover it, or a reply waits for room. -/
def State.request (s : State) (m n : Nat) : Option (Nat × State) :=
  let c := s.chan m
  let sz := 2 ^ c.sz
  let pos := c.head % sz
  let skip := if sz < pos + 8 + n then sz - pos else 0
  let len := skip + 8 + n
  if !c.en ∨ !c.replies.isEmpty ∨ n % 8 ≠ 0 ∨ sz < 8 + n ∨ (c.tail + 2 ^ 32 - c.head) % 2 ^ 32 < len then none
  else some ((c.head + skip) % 2 ^ 32, s.modChan m fun c => { c with head := (c.head + len) % 2 ^ 32 })

/-- A request of type `ty` with a body of `n` bytes is read and served; one of another length is answered with status 3. -/
def State.serve (s : State) (ty n : Nat) (f : State → Nat → State) : State :=
  match s.request s.arg.m s.arg.bytes.length with
  | none => s
  | some (i, s) => if s.arg.bytes.length ≠ n then s.reply s.arg.m i ty 3 [] else f s i

/-- The launches of the context and number that a request names; none where the channel may not act for the context. -/
def State.named (s : State) : Option (List Launch) :=
  let b := s.arg.bytes
  let host := ofBytes (slice b 0 4)
  let num := ofBytes (slice b 4 4)
  let c := s.chan s.arg.m
  if !c.admin ∧ host ≠ c.ctx then none else some (s.sched.launches.filter fun n => n.host == host && (num == 2 ^ 32 - 1 || n.id == num))

/-- PREEMPT (R372): channel `m`, body `bytes`; with `x` not 0 the request's type is `x`, which no row of R372 has. -/
def execPreempt (s : State) : Host.Outcome State Fault Refusal :=
  let m := s.arg.m
  if s.arg.x ≠ 0 then
    match s.request m s.arg.bytes.length with
    | some (i, r) => .next (if 1 ≤ s.arg.x ∧ s.arg.x ≤ 6 then s else r.reply m i s.arg.x 3 [])
    | none => .next s
  else .next (s.serve 1 8 fun s i =>
    match s.named with
    | none => s.reply m i 1 2 []
    | some l =>
      let ids := (l.filter fun n => n.st == .placed || n.st == .draining || n.st == .saving).map fun n => n.id
      if ids.isEmpty then s.reply m i 1 0 (toBytes 8 0)
      else ids.foldl (fun s i => s.preemptLaunch i) (s.modChan m fun c => { c with busy := c.busy ++ [⟨i, 1, ids, 0, 0, false⟩] }))

/-- A saved launch is placed back, or its image fails, or it waits for its cores. -/
def State.tryResume (s : State) (id : Nat) : State :=
  match s.launch id with
  | none => s
  | some n =>
    if n.st ≠ .saved ∨ !n.back then s
    else match s.resumeLaunch n with
      | (r, true) => r
      | (r, false) =>
        let r := r.modLaunch id fun n => { n with back := false }
        let core := match n.images with | i :: _ => i.core | [] => 0xFFFF
        (if s.imagesWhole n then r.contextFault core n.l 0x44 core else r).ladderEnd id 0 0 true

/-- RESUME (R372): channel `m`, body `bytes`; with `ok` saved launch `id`, which is to be placed back, is looked at again. -/
def execResume (s : State) : Host.Outcome State Fault Refusal :=
  let m := s.arg.m
  if s.arg.ok then .next (s.tryResume s.arg.id)
  else .next (s.serve 2 8 fun s i =>
    match s.named with
    | none => s.reply m i 2 2 []
    | some l =>
      let ids := (l.filter fun n => n.st == .saved).map fun n => n.id
      if ids.isEmpty then s.reply m i 2 0 []
      else
        let s := s.modChan m fun c => { c with busy := c.busy ++ [⟨i, 2, ids, 0, 0, false⟩] }
        ids.foldl (fun s i => (s.modLaunch i fun n => { n with back := true }).tryResume i) s)

/-- The trim that takes an offset in over a second (R395). -/
def trimFor (off : Int) : Int := Int.tdiv (-off * 2 ^ 32) 1000000000

/-- PTPOFF (R372, R395): channel `m`, body `bytes`: an offset of magnitude up to 1 ms is applied by trim over the following second, with `ok` the end of that second,
reached at time `n`; a larger one by DTSTEP. -/
def execPtpoff (s : State) : Host.Outcome State Fault Refusal :=
  let a := s.arg
  let put := fun (s : State) (t : Int) => s.modDev fun d => { d with trim := satInt (-(2 ^ 23)) (2 ^ 23) t }
  if a.ok then
    .next (if a.n ≤ s.now then put s (s.dev.trim - a.v.toInt) else { s with laterSteps := s.laterSteps ++ [⟨.ptpoff, a⟩] })
  else .next (s.serve 3 16 fun s i =>
    let off := sInt 64 (ofBytes (slice a.bytes 0 8))
    let s := if off.natAbs ≤ 1000000 then
        let r := put s (s.dev.trim + trimFor off)
        { r with laterSteps := r.laterSteps ++ [⟨.ptpoff, { ok := true, n := s.now + 1000000000, v := BitVec.ofInt 64 (r.dev.trim - s.dev.trim) }⟩] }
      else s.dtStep (BitVec.ofInt 64 (-off))
    s.reply a.m i 3 0 [])

/-! ### Attestation (R442, R443) -/

/-- The first 128 bytes of the report for a nonce, which the signature covers. -/
def State.reportHead (s : State) (nonce : List Byte) : List Byte :=
  let d := s.dev
  let locked := (List.range 8).all fun i => (Table.get 0#64 i d.fwa).toNat.testBit 7
  toBytes 4 0x41545354 ++ toBytes 2 1 ++ toBytes 2 (b2n d.active + 2 * b2n (d.bootCode == 4) + 4 * b2n locked) ++ shake256 Config.publicKey ++
    toBytes 32 Config.imageDigest.toNat ++ padTo 4 (slice d.cfgBytes 12 4) ++ toBytes 4 Config.firmwareVersion.toNat ++ nonce ++ toBytes 8 s.now ++ toBytes 8 0

/-- ATTEST (R372, R443): channel `m`, the nonce in `bytes`. -/
def execAttest (s : State) : Host.Outcome State Fault Refusal :=
  .next (s.serve 4 32 fun s i =>
    let h := s.reportHead s.arg.bytes
    let g := (Config.signature h).take 1534
    s.reply s.arg.m i 4 0 (h ++ toBytes 2 g.length ++ padTo 1534 g))

/-- PUBKEY (R372): channel `m`. -/
def execPubkey (s : State) : Host.Outcome State Fault Refusal :=
  .next (s.serve 5 0 fun s i =>
    let k := Config.publicKey
    s.reply s.arg.m i 5 0 (padTo ((k.length + 2 + 7) / 8 * 8) (toBytes 2 k.length ++ k)))

/-- THERMCLR (R372, R447): channel `m`; `ok` where every junction and the input are within limits. -/
def execThermclr (s : State) : Host.Outcome State Fault Refusal :=
  .next (s.serve 6 0 fun s i =>
    if s.arg.ok then (s.modDev fun d => { d with thermHold := false }).reply s.arg.m i 6 0 [] else s.reply s.arg.m i 6 4 [])

/-- CESUM (R372): the summary of corrected errors goes out where a count has changed since the last. -/
def execCesum (s : State) : Host.Outcome State Fault Refusal :=
  let n := fun (t : Table Nat) (i : Nat) => Table.get 0 (i + 1) t
  if (List.range 7).all fun i => n s.dev.corrected i == n s.dev.correctedSent i then .next s
  else
    let body := (List.range 7).flatMap fun i => toBytes 8 (n s.dev.corrected i)
    .next ((s.modDev fun d => { d with correctedSent := d.corrected }).unasked 0 0x9001 body)

end Sys2Proof.Machine
end

