-- ==== Sys2Proof/Machine/EvHost.lean ====
section
/-! DEFINITION. Steps of control-space writes that have a row of their own, and of the PCI Express link (R67, R137, R219, R375, R387, R431 to
R436). -/

namespace Sys2Proof.Machine

/-! ### Control-space writes (R54, R67, R137, R219, R387) -/

/-- WAKE (R219, R375): core `c`. -/
def execWake (s : State) : Host.Outcome State Fault Refusal := .next (s.wakeHalted s.arg.c)

/-- BG_WRITE (R67): register `n` of context `x` of core `c` is written with the word `v`; a write by the host waits while a thread is parked in `bar`
on it, as the store of a thread does before it lands. -/
def execBgWrite (s : State) : Host.Outcome State Fault Refusal :=
  let a := s.arg
  .next (if s.inBar a.c a.x a.n then { s with laterSteps := s.laterSteps ++ [⟨.bgWrite, a⟩] } else s.orSame (s.putCoreReg a.c a.x (0x120 + a.n) a.v.toNat))

/-- REGISTER_WRITE (R54): a thread's store to the control space lands: `bytes` at `addr`. -/
def execRegisterWrite (s : State) : Host.Outcome State Fault Refusal := .next (s.ctlWrite false s.arg.addr s.arg.bytes)

/-- RTCTL_INJ_WRITE (R137, R387): the word `v`; requests to a destination that the old bank still serves are held back as they are sent. -/
def execRtctlInjWrite (s : State) : Host.Outcome State Fault Refusal := .next (s.modDev fun d => { d with rtInj := bits s.arg.v.toNat 0 1 })

/-- ROUTING_BANK_WRITE (R387): `m` entries from entry `n` on, in the word `v`. The bank that INJ names is closed once a port is up; the other waits until
it holds no packet. -/
def execRoutingBankWrite (s : State) : Host.Outcome State Fault Refusal :=
  let a := s.arg
  let bank := a.n / 8192
  if bank = s.dev.rtInj ∧ s.dev.portUp ≠ 0 then .next s
  else if bank ≠ s.dev.rtInj ∧ Table.get 0 bank s.dev.occ ≠ 0 then .next { s with laterSteps := s.laterSteps ++ [⟨.routingBankWrite, a⟩] }
  else .next (s.modDev fun d => { d with routes := (List.range a.m).foldl (fun t i =>
    Table.set (a.n + i) (BitVec.ofNat 16 (bits a.v.toNat (16 * i) 16 &&& 0x8017)) t) d.routes })

/-! ### Requests of the host (R431 to R433, R436, R441) -/

/-- The control-space address behind a place of BAR0 or BAR4 (R432). -/
def barAddr (bar off n : Nat) : Option Nat :=
  if bar = 0 ∧ off + n ≤ 0x10000000 then some (0x00FF000200000000 + off)
  else if bar = 4 ∧ off + n ≤ 0x20000000 then some (0x00FF000000000000 + off)
  else if bar = 4 ∧ 0x20000000 ≤ off ∧ off + n ≤ 0x24000000 then some (0x00FF000100000000 + (off - 0x20000000))
  else none

/-- What BAR0 opens before the firmware runs: the boot buffer, BOOTSTAT to read and BOOTGO to write (R441). -/
def State.bootOpen (s : State) (a n need : Nat) : Bool :=
  s.dev.bootState != 2 && (decide (0x00FF000208000000 ≤ a ∧ a + n ≤ 0x00FF000209000000) ||
    decide (need = 1 ∧ 0x00FF000206004000 ≤ a ∧ a + n ≤ 0x00FF000206004008) || decide (need = 2 ∧ 0x00FF000206004008 ≤ a ∧ a + n ≤ 0x00FF000206004010))

/-- The host may reach the control-space bytes (R72, R432): `need` is 1 to read and 2 to write. -/
def State.hostMay (s : State) (a n need : Nat) : Bool :=
  (List.range ((a % 8 + n + 7) / 8)).all (fun i => ctlMapped (a / 8 * 8 + 8 * i)) &&
    (s.bootOpen a n need || s.fwaOpen a n need true)

/-- What an access through an aperture comes to. -/
inductive Ap where
  | refused
  | unmapped (l va : Nat)
  | keys (ks : List (Nat × Nat))

/-- The memory keys and lengths behind `n` bytes of BAR2 at an offset (R433); `kind` is 0 read, 1 write, 2 AtomicOp. -/
def State.aperture (s : State) (off n kind : Nat) : Ap :=
  let i := off / 2 ^ 32
  let e := (Table.get 0#128 i s.sched.apert).toNat
  let l := bits e 0 8
  let le := s.lease l
  let a := bits e 76 44 * 4096 + off % 2 ^ 32
  let right := if kind = 0 then 62 else if kind = 1 then 61 else 60
  if n = 0 ∨ 16 ≤ i ∨ (off + n - 1) / 2 ^ 32 ≠ i ∨ !bit e 63 ∨ !bit e right ∨ !le.used then .refused
  else match spaceOf a, spaceOf (a + n - 1) with
    | some (.camp o), some (.camp _) => if opens le.grants o n (needOf kind) then .keys [(campKey o, n)] else .refused
    | some (.glob _), some (.glob _) =>
      if a / 2 ^ 40 ≠ s.dev.devno ∨ !coveredBy (allLeases le) a n (needOf kind) ∨
          !((cutLines a n).all fun p => s.held p.1 && !s.regionBusy p.1) then .refused
      else
        let ks := (cutLines a n).map fun p => (s.areaKey l p.1, p.2, p.1)
        match ks.find? fun p => p.1.isNone with
        | some p => .unmapped l p.2.2
        | none => .keys (ks.map fun p => (p.1.getD 0, p.2.1))
    | _, _ => .refused

/-- A write of the host that was refused is dropped and logged with its BAR address (R372, R432). -/
def State.barLog (s : State) (addr : Nat) : State := s.flog 0x17 3 0xFFFF 0 (BitVec.ofNat 64 addr)

/-- A posted write of the host still waits to be performed (R436). -/
def State.postedWaits (s : State) : Bool :=
  s.laterSteps.any fun e => match e.ins with | .inboundWrite | .bgWrite | .routingBankWrite => true | _ => false

/-- A step of the link is made again later, behind those that wait already. -/
def State.linkLater (s : State) (i : Instr) (a : Arg) : State := { s with laterSteps := s.laterSteps ++ [⟨i, a⟩] }

/-- A lease covers a page that no mapping covers: the access waits, and the cause is recorded once (R97, R428). -/
def State.linkUnmapped (s : State) (i : Instr) (l va : Nat) : State :=
  (if s.arg.ok then s else s.contextFault 0xFFFF l 0x40 va).linkLater i { s.arg with ok := true }

def State.putParts (s : State) : List (Nat × Nat) → List Byte → State
  | (k, n) :: r, bs => (s.put k (bs.take n)).putParts r (bs.drop n)
  | [], _ => s

/-- What the step writes to registers is performed before anything that waits (R436). -/
def State.atOnce (s : State) (f : State → State) : State :=
  let r := f { s with agenda := [] }
  { r with agenda := r.agenda ++ s.agenda }

/-- INBOUND_WRITE (R432, R433, R436): a posted write of `bytes` at offset `addr` of BAR `m`. -/
def execInboundWrite (s : State) : Host.Outcome State Fault Refusal :=
  let a := s.arg
  let n := a.bytes.length
  if n = 0 then .next s
  else if s.postedWaits then .next (s.linkLater .inboundWrite a)
  else if a.m = 2 then match s.aperture a.addr n 1 with
    | .refused => .next (s.barLog a.addr)
    | .unmapped l va => .next (s.linkUnmapped .inboundWrite l va)
    | .keys ks => .next (s.putParts ks a.bytes)
  else match barAddr a.m a.addr n with
    | none => .next (s.barLog a.addr)
    | some w => .next (if s.hostMay w n 2 then s.atOnce fun s => s.ctlWrite true w a.bytes else s.barLog a.addr)

/-- A completion goes out on the link. -/
def State.hostOut (s : State) (o : HostOut) : State := s.modSched fun q => { q with out := q.out ++ [o] }

/-- INBOUND_READ (R432, R433, R436): a read of `n` bytes at offset `addr` of BAR `m`, after every posted write before it. -/
def execInboundRead (s : State) : Host.Outcome State Fault Refusal :=
  let a := s.arg
  if s.postedWaits then .next (s.linkLater .inboundRead a)
  else if a.m = 2 then match s.aperture a.addr a.n 0 with
    | .refused => .next ((s.barLog a.addr).hostOut .refused)
    | .unmapped l va => .next (s.linkUnmapped .inboundRead l va)
    | .keys ks => .next (s.hostOut (if (s.eccIn ks).isSome then .refused else .completion (ks.flatMap fun k => s.bytes k.1 k.2)))
  else match barAddr a.m a.addr a.n with
    | none => .next ((s.barLog a.addr).hostOut .refused)
    | some w =>
      if a.n = 0 ∨ !s.hostMay w a.n 1 then .next ((s.barLog a.addr).hostOut .refused)
      else
        let s := s.hostOut (.completion (s.ctlBytes w a.n))
        .next (match mstatOf w a.n with | some m => { s with agenda := ⟨.mstatRead, { m := m }⟩ :: s.agenda } | none => s)

/-- The AtomicOps that the link carries (R431): FetchAdd, Swap and CAS by `x` 0, 1 and 2, and a size, as the operation of R228. -/
def linkAop (x n : Nat) : Option Nat :=
  match x, n with
  | 0, 4 => some 0
  | 0, 8 => some 1
  | 1, 4 => some 16
  | 1, 8 => some 17
  | 2, 8 => some 18
  | _, _ => none

/-- INBOUND_ATOMIC (R431, R433): AtomicOp `x` of `n` bytes at offset `addr` of BAR `m`, with operand `v` and compare value `w`, at its home. -/
def execInboundAtomic (s : State) : Host.Outcome State Fault Refusal :=
  let a := s.arg
  if s.postedWaits then .next (s.linkLater .inboundAtomic a)
  else match linkAop a.x a.n, decide (a.m = 2 ∧ a.addr % a.n = 0) with
    | some k, true => match s.aperture a.addr a.n 2 with
      | .keys [(p, _)] =>
        if (s.eccIn [(p, a.n)]).isSome then .next (s.hostOut .refused)
        else
          let old := s.word p a.n
          .next ((s.put p (toBytes a.n (atomicValue k old a.v.toNat a.w.toNat))).hostOut (.completion (toBytes a.n old)))
      | .unmapped l va => .next (s.linkUnmapped .inboundAtomic l va)
      | _ => .next ((s.barLog a.addr).hostOut .refused)
    | _, _ => .next ((s.barLog a.addr).hostOut .refused)

/-! ### Completions of the device's own requests (R119, R435) -/

/-- The engine command that waits for an answer with a tag. -/
def State.cmdWaiting (s : State) (tag : Nat) : Option Cmd := s.cores.findSome? fun p => p.2.cmds.find? fun m => tag != 0 && m.waiting == tag

/-- An engine command gets the bytes it asked for. -/
def State.cmdGot (s : State) (m : Cmd) (bs : List Byte) : State := s.setCmd { m with waiting := 0, data := m.data ++ bs }

/-- An engine command's request has failed. -/
def State.cmdFailed (s : State) (m : Cmd) (code : Nat) (tval : Word) : State :=
  let m := { m with waiting := 0 }
  let s := s.setCmd m
  if m.cancelled then s.stopCmd m else s.faultCmd m code tval

/-- The thread that waits for an answer with a tag. -/
def State.replyWaiter (s : State) (tag : Nat) : Option (Nat × Nat) :=
  (s.threads.find? fun p => match p.2.wait with | .reply i _ => i == tag && p.2.st != .empty | _ => false).map fun p => (p.1 / 256, p.1 % 256)

/-- The end of a host request: `bytes` where it succeeded, else a cause. -/
def State.hostEnds (s : State) (id : Nat) (r : Except Nat (List Byte)) : State :=
  match s.opById id with
  | some o =>
    if !isHostKey o.addr.toNat ∨ o.at_ ≠ 1 then s
    else match r, o.kind with
      | .error k, _ => s.failOp o k o.addr
      | .ok bs, .atomic =>
        let s := s.watch o.core (s.thread o.core o.slot).x o.slot o.addr.toNat o.n 2
        s.atomicDone o (BitVec.ofNat 64 (ofBytes (bs.take o.n)))
      | .ok bs, _ => s.loaded o (padTo o.n bs)
  | none => match s.cmdWaiting id with
    | some m => (match r with
      | .ok bs => s.cmdGot m bs
      | .error _ => s.cmdFailed m 0x17 m.b)
    | none => match s.replyWaiter id with
      | some (c, h) => s.modThread c h fun t =>
        { t with hostDirty := t.hostDirty.drop 1, wait := if t.hostDirty.length ≤ 1 then .done 0 else t.wait }
      | none => s

/-- HOST_COMPLETION (R435): a completion for the device's request `id`, with `bytes` where `ok`, else with an error: HOST_ATOMIC for an AtomicOp, PROT for
a read. -/
def execHostCompletion (s : State) : Host.Outcome State Fault Refusal :=
  let a := s.arg
  let atomic : Bool := match s.opById a.id with | some o => o.kind == .atomic | none => false
  .next (s.hostEnds a.id (if a.ok then .ok a.bytes else .error (if atomic then 0x1D else 0x17)))

/-- HOST_READ_TIMEOUT (R435): the device's read `id` has not completed in 50 ms. -/
def execHostReadTimeout (s : State) : Host.Outcome State Fault Refusal :=
  let read : Bool := match s.opById s.arg.id with | some o => o.kind != .atomic | none => (s.cmdWaiting s.arg.id).isSome
  .next (if read then s.hostEnds s.arg.id (.error 0x17) else s)

end Sys2Proof.Machine
end

