-- ==== Sys2Proof/Machine/EvEvh.lean ====
section
/-! DEFINITION. Steps of Evhorn: packets that arrive, routing, ports, and the loss of a device (R86, R87, R89, R104, R105, R134, R137, R246, R255 to R261,
R269, R327, R332, R387, R429, R437 to R440). -/

namespace Sys2Proof.Machine

/-! In every step of an arriving packet `c` is the source device, `id` the tag and `bytes` the bytes from 16 on. -/

/-- Number `n` bytes from byte `i` of the packet being received. -/
def State.argN (s : State) (i n : Nat) : Nat := ofBytes (slice s.arg.bytes i n)

/-- The step waits, and so does what the same device sends after it. -/
def State.packetLater (s : State) (i : Instr) (a : Arg) : State := { s with laterSteps := s.laterSteps ++ [⟨i, a⟩] }

def State.sourceWaits (s : State) (f : Instr → Bool) : Bool := s.laterSteps.any fun e => e.arg.c == s.arg.c && f e.ins

/-! ### Remote stores and reads (R137, R327) -/

/-- A context of the job may reach the bytes (R86, R87, R89), in the global space for a copy's packet alone (R100, R321); `kind` is 0 read, 1 write. -/
def State.ctxReaches (s : State) (k : Ctx) (x a n kind : Nat) (copy : Bool) : Bool :=
  match spaceOf a, spaceOf (a + n - 1) with
  | some (.other d o), some (.other e _) =>
    d == e && (if s.isFw d then s.fwaOpen a n (min (needOf kind) 2) true else inRect k d && s.spShare d x o n) && (kind == 0 || !s.subHit d o n)
  | some (.pool j o), some (.pool i _) =>
    let p := s.cluster j
    let lo := (if x = 1 then p.ibase else p.obase) * 65536
    let len := (if x = 1 then p.isize else p.osize) * 65536
    i == j && (clusterCores j).any (inRect k) && decide (lo ≤ o ∧ o + n ≤ lo + len)
  | some (.camp o), some (.camp _) => opens (s.lease k.l).grants o n (needOf kind)
  | some (.glob _), some (.glob _) =>
    copy && coveredBy (allLeases (s.lease k.l)) a n (needOf kind) && (kind == 0 || !((s.lease k.l).text.any fun r => overlap a n r.lo r.len)) &&
      (cutLines a n).all fun p => s.held p.1
  | _, _ => false

/-- The context of a job on this device, with its place, that may reach a whole range. -/
def State.jobReach (s : State) (job lo len kind : Nat) (copy : Bool) : Option (Nat × Ctx) :=
  (s.ctxs.find? fun p => p.2.placed && p.2.job == job && s.ctxReaches p.2 (p.1 % 2) lo (max len 1) kind copy).map fun p => (p.1, p.2)

/-- The memory keys of `n` bytes that a context may reach. -/
def State.reachKeys (s : State) (l a n : Nat) : Ap :=
  match spaceOf a with
  | some (.other d o) => .keys [(spKey d o, n)]
  | some (.pool k o) => .keys [(poolKey k o, n)]
  | some (.camp o) => .keys [(campKey o, n)]
  | _ =>
    let ks := (cutLines a n).map fun p => (s.areaKey l p.1, p.2, p.1)
    match ks.find? fun p => p.1.isNone with
    | some p => .unmapped l p.2.2
    | none => .keys (ks.map fun p => (p.1.getD 0, p.2.1))

/-- Bytes at a core's scratchpad wait for a lock or for room there (R86, R347). -/
def State.spotWaits (s : State) (ks : List (Nat × Nat)) (store : Bool) : Bool :=
  ks.any fun k => match spOf k.1 with
    | some (d, o) => s.farLock d o k.2 store || (store && !s.updateRoom d o k.2)
    | none => false

def State.landParts (s : State) : List (Nat × Nat) → List Byte → State
  | (k, n) :: r, bs =>
    let c := match spOf k with | some (d, _) => d | none => 512
    (s.land c k (bs.take n)).landParts r (bs.drop n)
  | [], _ => s

def isTransfer : Instr → Bool
  | .evhStore | .evhGetRequest => true
  | _ => false

/-- EVH_STORE (R137, R327, R438): the whole range is checked, the bytes land, and the packet is acknowledged with 0, or with 1 where it is refused. -/
def execEvhStore (s : State) : Host.Outcome State Fault Refusal :=
  let a := s.arg
  let addr := s.argN 0 8
  let n := s.argN 20 4
  let bs := padTo n (a.bytes.drop 29)
  if s.sourceWaits isTransfer then .next (s.packetLater .evhStore a)
  else match s.jobReach (s.argN 24 2) (s.argN 8 8) (s.argN 16 4) 1 (s.argN 28 1 == 1) with
    | none => .next (s.ack a.c a.id [1])
    | some (_, k) =>
      if n = 0 then .next (s.ack a.c a.id [0])
      else match s.reachKeys k.l addr n with
        | .keys ks => .next (if s.spotWaits ks true then s.packetLater .evhStore a else (s.landParts ks bs).ack a.c a.id [0])
        | .unmapped l va => .next ((if a.ok then s else s.contextFault 0xFFFF l 0x40 va).packetLater .evhStore { a with ok := true })
        | .refused => .next (s.ack a.c a.id [1])

/-- The data of a get request, or its status (R327). -/
def State.getData (s : State) (dev tag status : Nat) (bs : List Byte) : State :=
  s.sendPacket { dst := dev, cls := 1, ty := 3, tag := tag, bank := 0, body := toBytes 8 status ++ bs }

/-- EVH_GET_REQUEST (R327, R438): the range is checked and the bytes go back, or the status 1, or the cause of an uncorrectable error. -/
def execEvhGetRequest (s : State) : Host.Outcome State Fault Refusal :=
  let a := s.arg
  let addr := s.argN 0 8
  let n := s.argN 20 4
  if s.sourceWaits isTransfer then .next (s.packetLater .evhGetRequest a)
  else match s.jobReach (s.argN 24 2) (s.argN 8 8) (s.argN 16 4) 0 (s.argN 28 1 == 1) with
    | none => .next (s.getData a.c a.id 1 [])
    | some (_, k) => match s.reachKeys k.l addr n with
      | .keys ks =>
        .next (if s.spotWaits ks false then s.packetLater .evhGetRequest a
          else if (s.eccIn ks).isSome then s.getData a.c a.id 0x30 [] else s.getData a.c a.id 0 (ks.flatMap fun p => s.bytes p.1 p.2))
      | .unmapped l va => .next ((if a.ok then s else s.contextFault 0xFFFF l 0x40 va).packetLater .evhGetRequest { a with ok := true })
      | .refused => .next (s.getData a.c a.id 1 [])

/-- A request of a command has ended with a status: `put` and `get` keep it for their STATUS (R327), a copy stops with its cause. -/
def State.cmdStatus (s : State) (m : Cmd) (status : Nat) : State :=
  if status = 0x30 then s.cmdFailed m 0x30 m.b
  else if isTransferCmd m then s.setCmd { m with waiting := 0, args := m.args.set 6 status }
  else s.cmdFailed m 0x17 m.a

/-- EVH_GET_DATA (R327): the command that asked gets its bytes, which its next steps write, or its status. -/
def execEvhGetData (s : State) : Host.Outcome State Fault Refusal :=
  let a := s.arg
  let r := s.answeredFrom a.c
  match r.cmdWaiting a.id with
  | none => .next r
  | some m => .next (if s.argN 0 8 = 0 then r.cmdGot m (a.bytes.drop 8) else r.cmdStatus m (s.argN 0 8))

/-! ### Messages (R246, R255 to R261, R269, R345) -/

/-- Word `i` of a message after its code. -/
def State.argW (s : State) (i : Nat) : Word := BitVec.ofNat 64 (s.argN (8 + 8 * i) 8)

/-- The rope of a request belongs to the asker's job (R255). -/
def State.ropeOfJob (s : State) (n job : Nat) : Bool :=
  let r := s.rope n
  r.st == 0 || s.sched.launches.any fun m => m.l == r.owner && m.job == job && m.st != .held && m.st != .waiting

/-- The launch context of a job that an armed target lies in, or else any of the job. -/
def State.armerOf (s : State) (job : Nat) (m : ArmBlock) : Option Nat :=
  let mine := (s.ctxs.filter fun p => p.2.placed && p.2.job == job).map fun p => p.2.l
  (mine.find? fun l => opens (s.lease l).grants (m.offs * 64) (m.len * 64) 0) <|> mine.head?

/-- `rparm` asked for by another device (R256): the answer. -/
def State.armAsked (s : State) : State × List Word :=
  let n := (s.argW 1).toNat
  let block := slice s.arg.bytes 24 64
  match armBlock block with
  | none => (s, [0x12])
  | some m =>
    let ws := (List.range m.n).map fun i => if s.arg.bytes.length ≤ 88 then 1 else (s.argW (10 + i)).toNat
    let ws := if s.arg.bytes.length ≤ 88 then [] else ws
    match s.armerOf (s.argW 0).toNat m with
    | none => (s, [0x17])
    | some l =>
      if 1024 ≤ n ∨ ((s.rope n).st ≠ 0 ∧ (s.rope n).owner ≠ l) then (s, [0x17])
      else match s.armErr l n m ws with
        | some k => (s, [BitVec.ofNat 64 k])
        | none => (s.ropeArm l n m ws, [0])

/-- The answer to a request about a rope of this device, code 2 to 5 or 24; none where it comes with the release (R134, R255 to R261). -/
def State.ropeAsked (s : State) (code : Nat) : State × Option (List Word) :=
  let job := (s.argW 0).toNat
  let w := (s.argW 1).toNat
  let n := bits w 0 10
  let i := bits w 16 12
  if code = 2 then let r := s.armAsked; (r.1, some r.2)
  else if !s.ropeOfJob n job then (s, some [0x17])
  else if code = 3 then
    let thid := (s.argW 3).toNat
    if joinable (s.rope n) i then (s.ropeJoin n i s.arg.c thid (s.argW 2).toNat, some [0, BitVec.ofNat 64 (s.rope n).len]) else (s, some [0x12])
  else if code = 4 then
    if (s.rope n).st = 4 ∨ (s.rope n).st = 0 then (s, some [0]) else (s.modRope n fun r => { r with away := r.away ++ [(s.arg.c, s.arg.id)] }, none)
  else if code = 24 then
    let e := Table.get {} (bits w 16 12) (s.rope n).mem
    (s, some [0, BitVec.ofNat 64 (b2n e.cnt), BitVec.ofNat 64 (b2n e.j)])
  else (s, some [0, BitVec.ofNat 64 (s.ropeReg n 1), BitVec.ofNat 64 (s.ropeReg n 3), BitVec.ofNat 64 (s.ropeReg n 4)])

/-- A thread of this device that is abroad has retired there (R247, R397). -/
def State.abroadGone (s : State) (thid : Nat) : State :=
  match s.sched.abroad.find? fun p => p.1 == thid with
  | none => s
  | some (_, t) =>
    let s := (s.modSched fun q => { q with abroad := q.abroad.filter (fun p => p.1 != thid), roaming := q.roaming.filter fun p => p.1 != thid }).tellJoiners t.uid
    match s.launch t.owner with
    | some n => s.unitGone n.host n.id
    | none => s

/-! ### What stands at a home slot for a thread that runs elsewhere (R37, R50, R115, R116) -/

/-- The step of a thread packet that waits for a slot here. -/
def threadWaits (thid : Nat) (e : Event) : Bool :=
  match e.ins with
  | .evhThread => ofBytes (slice e.arg.bytes 0 4) == thid
  | _ => false

/-- A change to the record of a thread of this device that runs elsewhere. -/
def State.modAbroad (s : State) (thid : Nat) (f : Thread → Thread) : State :=
  s.modSched fun q => { q with abroad := q.abroad.map fun p => if p.1 = thid then (p.1, f p.2) else p }

/-- The place of an address of a thread's home areas: a key of the bivouac area or of the core's own store, or of the overflow area, where the home context's
mapping has it; none while that context is not in place. -/
def State.homeKey (s : State) (t : Thread) (a : Nat) : Option Nat :=
  let k := s.ctx t.hcore t.x
  if k.launch ≠ t.owner ∨ !k.placed ∨ k.away then none
  else if (spOf a).isSome ∨ isStashKey a then some a
  else (s.walk k.l a).map fun p => s.fwd (p.2.1 + a % pageBytes p.1)

/-- A thread from elsewhere asks for, or changes, bytes of its home areas, by code 10 a write, 11 a read, 15 an atomic: none where the request waits for a lock,
for room or for its context; the answer is 0 and what is asked for, or ECC_UNCORR and its TVAL (R37, R86, R126, R347). -/
def State.homeArea? (s : State) (code : Nat) : Option (State × List Word) :=
  match s.sched.abroad.find? fun p => p.1 == (s.argW 0).toNat with
  | none => some (s, [0x17])
  | some (_, t) =>
    let n := (s.argW 2).toNat
    match s.homeKey t (s.argW 1).toNat with
    | none => none
    | some k =>
      if s.spotWaits [(k, n)] (code ≠ 11) then none
      else if code = 10 then some (s.landParts [(k, n)] (padTo n (s.arg.bytes.drop 32)), [0])
      else match s.eccIn [(k, n)] with
        | some v => some (s, [0x30, BitVec.ofNat 64 v])
        | none =>
          if code = 11 then some (s, 0 :: (areaWords 0 (s.bytes k n)).drop 2)
          else
            let old := s.word k n
            some (s.landParts [(k, n)] (toBytes n (atomicValue (s.argW 3).toNat old (s.argW 4).toNat (s.argW 5).toNat)), [0, BitVec.ofNat 64 old])

/-- A timed task that is elsewhere, by what a message of it says: thread, timestamp and instance (R115). -/
def State.toldTask (s : State) : Thread :=
  let thid := (s.argW 0).toNat
  let i := (s.argW 2).toNat
  { hdev := thid / 2 ^ 17, hcore := bits thid 8 9, hslot := bits thid 0 8, timed := true, tstamp := s.argW 1, inst := some ⟨i / 1024, i % 1024, s.dev.devno⟩ }

/-- The device of an instance is asked by a task that is elsewhere: whether it is head, which then stays so as a head-serialised one does, or for a new
timestamp, with 1 where that is behind (R115; log 164). -/
def State.instanceAsked (s : State) : State × List Word :=
  let t := s.toldTask
  let thid := (s.argW 0).toNat
  let change := fun (f : Thread → Thread) => s.modSched fun q => { q with roaming := q.roaming.map fun p => if p.1 = thid then (p.1, f p.2) else p }
  if s.argW 3 = 0 then
    let head := s.isHead t
    (if head then change fun u => { u with serial := true } else s, [0, BitVec.ofNat 64 (b2n head)])
  else match t.inst with
    | some i => if s.behind i t t.tstamp then (s, [0, 1]) else (change fun u => { u with tstamp := t.tstamp }, [0, 0])
    | none => (s, [0, 0])

/-- A timed task that is elsewhere has left its instance; a commit advances the frontier (R115). -/
def State.instanceLeft (s : State) : State :=
  let thid := (s.argW 0).toNat
  let i := (s.argW 3).toNat
  let s := s.modSched fun q => { q with roaming := q.roaming.filter fun p => p.1 != thid }
  if s.argW 1 = 0 then s
  else
    let old : Word := Table.get 0 i s.frontier
    { s with frontier := Table.set i (if old.toNat < (s.argW 2).toNat then s.argW 2 else old) s.frontier }

/-- A line of a committed store is tested against a thread that runs here, with what its home has found (R50, R116). -/
def State.conflictHere (s : State) (thid name : Nat) (atHome : Bool) : State :=
  match s.find thid with
  | none => s
  | some (c, h) =>
    let t := s.thread c h
    if t.timed && !t.serial && (atHome || inSig t name) then s.conflictAt c h else s

/-- A launch is cancelled whose thread runs here, or is on its way here (R18, R19). -/
def State.endGuest (s : State) (thid launch : Nat) : State :=
  match s.find thid with
  | some (c, h) => s.endThread c h
  | none =>
    if (s.agenda ++ s.laterSteps).any (threadWaits thid) then
      let keep := fun (l : List Event) => l.filter fun e => !threadWaits thid e
      { s with agenda := keep s.agenda, laterSteps := keep s.laterSteps }.tell (thid / 2 ^ 17) 8 0 [BitVec.ofNat 64 thid]
    else s.modSched fun q => { q with doomed := (thid, launch) :: q.doomed }

/-- A thread of this device has gone on to device `d`; the cancel of its launch follows it (R18, R105). -/
def State.wentOn (s : State) (thid d : Nat) : State :=
  let f := fun (t : Thread) => { t with leave := .migrate d 0 }
  let s := (s.modAbroad thid f).modSched fun q => { q with roaming := q.roaming.map fun p => if p.1 = thid then (p.1, f p.2) else p }
  match s.sched.abroad.find? fun p => p.1 == thid with
  | some (_, t) => (match s.launch t.owner with
    | some n => if n.status = 0 then s else s.tell d 20 0 [BitVec.ofNat 64 thid, BitVec.ofNat 64 n.id]
    | none => s)
  | none => s

/-- A member here of a rope of device `dev` leaves it as that returns to IDLE or empties its table, or, with `stay`, loses its kill notice (R256, R263). -/
def State.memberReset (s : State) (dev thid n : Nat) (stay : Bool) : State :=
  s.mapEvery fun t =>
    if thidOf t = thid ∧ memberOf dev n t then (if stay then { t with kill := none } else { t with mem := none, killPc := 0, kill := none }) else t

/-- What a message that wants no answer does (log 165): 6 a member leaves its rope, 7 an arrival is withdrawn, 8 a thread has retired, 9 it has gone on, 17 a
timed task has left its instance, 18 a line of one has landed, 19 and 21 a line is tested at a thread's home and where it runs, 20 its launch is cancelled, 22 a
member was killed at a kill point, 23 a rope has let its members go. -/
def State.told (s : State) (code : Nat) : State :=
  let a := (s.argW 0).toNat
  let b := (s.argW 1).toNat
  match code with
  | 6 => s.memberLeaves (a % 65536) (a / 65536)
  | 7 => s.modRope (a % 65536) fun r => { r with pend := r.pend.filter fun p => p.m != a / 65536 || p.dev != s.arg.c || p.counted }
  | 8 => s.abroadGone a
  | 9 => s.wentOn a b
  | 17 => s.instanceLeft
  | 18 => s.conflict s.toldTask (s.argW 3).toNat
  | 19 => s.checkHome a b
  | 20 => s.endGuest a b
  | 21 => s.conflictHere a b (s.argW 2 == 1)
  | 22 => s.killedAt (a % 65536) (a / 65536)
  | 23 => s.memberReset s.arg.c a b (s.argW 2 == 1)
  | _ => s

/-- What is asked of this device as the home of a thread that runs elsewhere, or as the device of its instance: none where the request waits (log 165). -/
def State.asked (s : State) (code : Nat) : Option (State × List Word) :=
  let thid := (s.argW 0).toNat
  let ws := (List.range 16).map fun i => s.argW (1 + i)
  match code with
  | 12 => some (s.modAbroad thid fun t => { t with snap := snapOf ws, sigHome := 0 }, [0])
  | 13 => match s.sched.abroad.find? fun p => p.1 == thid with
    | some (_, t) => some (s.modAbroad thid fun t => { t with sigHome := 0 }, 0 :: snapWords t.snap)
    | none => some (s, [0x17])
  | 14 =>
    let g : BitVec 1024 := ws.foldr (fun w g => (g <<< 64) ||| w.setWidth 1024) 0
    some (s.modAbroad thid fun t => { t with sigHome := t.sigHome ||| g }, [0])
  | 16 => some s.instanceAsked
  | _ => s.homeArea? code

def isMessage : Instr → Bool
  | .evhMessage => true
  | _ => false

/-- EVH_MESSAGE (R246, R255, R269, R345): by its code a message for a thread's queue register, or a request of another device. -/
def execEvhMessage (s : State) : Host.Outcome State Fault Refusal :=
  let a := s.arg
  let code := s.argN 0 8
  let thid := (s.argW 0).toNat
  if code = 0 then
    if s.sourceWaits isMessage then .next (s.packetLater .evhMessage a)
    else if a.ok ∧ s.dev.clock < a.n then .next (s.packetLater .evhMessage a)
    else
      let r := s.routeMsg thid (s.argW 1).toNat (s.argW 2) a.id a.c (s.argW 3).toNat
      .next (match r.2 with
        | .status v => r.1.ack a.c a.id [v]
        | .waits => r.1
        | .stays => r.1.packetLater .evhMessage a
        | .refused => r.1.packetLater .evhMessage { a with ok := true, n := s.dev.clock + 256 }
        | .forward d =>
          if r.1.reach d then r.1.enterRouter { (messagePacket d a.id thid (s.argW 1).toNat (s.argW 2) (s.argW 3).toNat) with src := a.c, bank := s.dev.rtInj }
          else r.1.ack a.c a.id [BitVec.ofNat 64 (2 ^ 63 + 4)])
  else if code = 1 then
    match (s.allThreads ++ s.sched.abroad.map Prod.snd ++ s.savedThreads).find? fun t => thidOf t == thid with
    | some t => .next (s.modSched fun q => { q with joiners := q.joiners ++ [(a.c, a.id, thid, t.uid)] })
    | none => .next (s.ack a.c a.id [0])
  else if code ≤ 5 ∨ code = 24 then
    let r := s.ropeAsked code
    .next (match r.2 with | some ws => r.1.ack a.c a.id ws | none => r.1)
  else if 10 ≤ code ∧ code ≤ 16 then
    .next (match s.asked code with
      | some (r, ws) => r.ack a.c a.id ws
      | none => s.packetLater .evhMessage a)
  else .next ((s.told code).ack a.c 0 [])

/-! ### Spawns and keyed pairs (R244, R332, R346, R439) -/

/-- EVH_SPAWN (R439): the request is tested at its core, and answered, at once or when its context is back. -/
def execEvhSpawn (s : State) : Host.Outcome State Fault Refusal :=
  let a := s.arg
  let f := s.argN 46 1
  let r : SpawnReq :=
    { dev := a.c, op := a.id, pc := BitVec.ofNat 64 (s.argN 0 8), ks := (List.range 4).map fun i => BitVec.ofNat 64 (s.argN (8 + 8 * i) 8), desc := s.argN 40 4
      bpri := s.argN 47 1, job := s.argN 44 2, host := none, sys := bit f 0, xdev := bit f 1 }
  let p := s.trySpawn (bits r.desc 0 9) r
  .next (match p.2 with
    | .waits => p.1
    | v => p.1.answerSpawn r (spawnValue v))

/-- EVH_SPAWN_REPLY (R244, R439): the spawner's entry is filled. -/
def execEvhSpawnReply (s : State) : Host.Outcome State Fault Refusal :=
  .next ((s.answeredFrom s.arg.c).answer s.arg.id (BitVec.ofNat 64 (s.argN 0 8)))

def isKeyed : Instr → Bool
  | .evhKeyedPairs => true
  | _ => false

/-- The launch context number of a job's context on a core, placed or saved. -/
def State.jobContext (s : State) (c x job : Nat) : Option Nat :=
  let k := s.ctx c x
  if k.placed && k.job == job then some k.l
  else (s.sched.launches.find? fun n => n.st == .saved && n.job == job && n.images.any fun i => i.core == c && i.x == x).map fun n => n.l

/-- EVH_KEYED_PAIRS (R332, R333): pairs reach the bins of their core, in the order sent; those for no context of the job are dropped. -/
def execEvhKeyedPairs (s : State) : Host.Outcome State Fault Refusal :=
  let a := s.arg
  let c := s.argN 0 8
  let x := s.argN 12 4
  let n := (a.bytes.length - 16) / 8
  let ps : List Pair := (List.range n).map fun i => (BitVec.ofNat 32 (s.argN (16 + 8 * i) 4), BitVec.ofNat 32 (s.argN (20 + 8 * i) 4))
  if s.sourceWaits isKeyed then .next (s.packetLater .evhKeyedPairs a)
  else match s.jobContext c x (s.argN 8 2) with
    | none => .next (s.ack a.c a.id [0])
    | some l => match s.receive c x l ps with
      | some r => .next (r.ack a.c a.id [0])
      | none => .next (s.packetLater .evhKeyedPairs a)

/-! ### Ropes (R134, R258, R259) -/

/-- EVH_ROPE_ARRIVAL (R258): a contribution of a member on another device enters the rope's banks, or is late; one of a member that has not joined ends in
REG_RANGE, and one already counted has its result. -/
def execEvhRopeArrival (s : State) : Host.Outcome State Fault Refusal :=
  let a := s.arg
  let n := s.argN 0 8 % 65536
  let i := s.argN 0 8 / 65536
  let r := s.rope n
  let e := Table.get {} i r.mem
  if e.cnt then .next (s.ack a.c a.id [0])
  else if r.st = 0 ∨ !e.j then .next (s.ack a.c a.id [0, 0x12])
  else if 3 ≤ r.st then .next ((s.modRope n fun r => { r with late := min 255 (r.late + 1) }).ack a.c a.id [1])
  else .next (s.ropeArrive n { m := i, dev := a.c, op := a.id, bytes := padTo (64 * r.len) (a.bytes.drop 8) })

/-- EVH_ROPE_RELEASE (R134): a waiter of this device is released. -/
def execEvhRopeRelease (s : State) : Host.Outcome State Fault Refusal :=
  let s := s.answeredFrom s.arg.c
  match s.replyWaiter s.arg.id with
  | some (c, h) => .next (s.modThread c h fun t => { t with wait := .got [0] })
  | none => .next s

/-- EVH_KILL_NOTICE (R259): member `id` of a rope on another device is to be killed. -/
def execEvhKillNotice (s : State) : Host.Outcome State Fault Refusal :=
  .next (s.killNotice s.dev.devno s.arg.id (BitVec.ofNat 64 (s.argN 0 8)) (s.argN 8 8 == 1))

/-! ### Acknowledgements (R137, R333) -/

/-- An arrival is answered: its lock goes, and its `rparr` has its result, or a second word's cause (R258). -/
def State.arrivalAnswer (s : State) (o : Op) (ws : List Word) : State :=
  let s := s.modCore o.core fun k => { k with locks := k.locks.filter (·.cmd != o.id) }
  let s := s.modThread o.core o.slot fun t => { t with arriving := false }
  if ws.getD 1 0 = 0 then s.complete o (ws.getD 0 0) else s.failOp o (ws.getD 1 0).toNat o.addr

/-- What an answer to tag `tag` with values does: an operation completes, a command goes on, pairs are delivered, a region has arrived, a thread has its answer. -/
def State.acked (s : State) (tag : Nat) (ws : List Word) : State :=
  let v := ws.getD 0 0
  match s.opById tag with
  | some o =>
    (match o.kind with
      | .pre => s.arrivalAnswer o ws
      | .home => s.homeAnswer o ws
      | .load | .vload | .atomic => s.areaAnswer o ws
      | _ => s.complete o v)
  | none => match s.cores.findSome? fun p => p.2.cmds.find? fun m => m.tags.contains tag with
    | some m =>
      let m := { m with tags := m.tags.filter (· != tag) }
      if v = 0 then s.setCmd m else (s.setCmd m).cmdStatus m v.toNat
    | none => match s.replyWaiter tag with
      | some (c, h) => s.modThread c h fun t => { t with wait := .got ws }
      | none => { s.tokenLanded tag with cores := s.cores.map fun p => (p.1, { p.2 with keyOut := p.2.keyOut.filter fun k => k.2.1 != tag }) }

/-- EVH_ACKNOWLEDGEMENT (R137, R438). -/
def execEvhAcknowledgement (s : State) : Host.Outcome State Fault Refusal :=
  let a := s.arg
  let ws := (List.range (a.bytes.length / 8)).map fun i => BitVec.ofNat 64 (s.argN (8 * i) 8)
  let r := s.answeredFrom a.c
  .next (if a.id = 0 then r else r.acked a.id ws)

/-! ### The loss of a device (R387, R428, R429) -/

/-- Threads of this device that are lost with another one are gone (R429); a thread on its way there stays where it is. -/
def State.lostThreads (s : State) (d : Nat) : State :=
  let s := (s.sched.abroad.filter fun p => match p.2.leave with | .migrate e _ => e == d | _ => false).foldl (fun s p => s.abroadGone p.1) s
  let s := s.modSched fun q => { q with roaming := q.roaming.filter fun p => match p.2.leave with | .migrate e _ => e != d | _ => true }
  s.mapThreads fun t => match t.st, t.leave with
    | .leaving, .migrate e _ => if e = d then { t with st := .arriving, leave := .no } else t
    | _, _ => t

/-- Members of a lost device are stragglers with DEADDEV; their uncounted contributions go (R259, R262). -/
def State.deadMembers (s : State) (d : Nat) : State :=
  s.ropes.foldl (fun s p =>
    let hit := p.2.mem.any fun q => q.2.j && q.2.dev == d
    if !hit then s
    else
      let s := s.modRope p.1 fun r =>
        { r with deaddev := true, pend := r.pend.filter fun e => e.dev != d || e.counted
                 mem := r.mem.map fun (q : Nat × RMem) => if q.2.j ∧ q.2.dev = d then (q.1, { q.2 with dead := true }) else q }
      s.shortTest p.1) s

/-- What an operation towards a device that cannot be reached comes to (R244, R269, R387): the status of a `send` or a spawn, LATE of an arrival; what was asked of a thread's
home is refused (log 163). -/
def State.opUnreachable (s : State) (o : Op) : State :=
  match o.kind with
  | .send => s.complete o (BitVec.ofNat 64 (2 ^ 63 + 4))
  | .spawn => s.complete o (BitVec.ofNat 64 (2 ^ 63 + 6))
  | .pre => s.acked o.id [1]
  | .home | .load | .vload | .atomic => s.acked o.id [0x17]
  | _ => s

/-- The device that an operation waits for. -/
def State.opDevice (s : State) (o : Op) : Option Nat :=
  match o.kind with
  | .send | .spawn => if o.tgt ≠ s.dev.devno ∧ o.at_ ≤ 1 then some o.tgt else none
  | .pre => match (s.thread o.core o.slot).mem with | some m => if m.dev ≠ s.dev.devno then some m.dev else none | none => none
  | .home => some o.tgt
  | .load | .vload | .atomic => if o.at_ = 1 ∧ s.farPlace o then some (s.thread o.core o.slot).hdev else none
  | _ => none

/-- The device that a command's requests go to. -/
def State.cmdDevice (s : State) (m : Cmd) : Option Nat :=
  match m.ins with
  | .put .. | .get .. => some (m.n 1)
  | .cpy .. | .cpyp .. | .cpyf .. =>
    let far := fun (v : Word) => match spaceOf v.toNat with | some (.glob a) => if s.held a then none else some (s.holder a) | _ => none
    if m.waiting ≠ 0 then far m.b else far m.a
  | _ => none

/-- Operations towards a lost device end with their loss results; threads that wait for its answers are refused (R387, R429). -/
def State.endTowards (s : State) (d : Nat) : State :=
  let s := (s.ops.filter fun o => s.opDevice o == some d).foldl State.opUnreachable s
  let cmds := s.cores.flatMap fun p => p.2.cmds.filter fun m => (m.waiting != 0 || !m.tags.isEmpty) && s.cmdDevice m == some d
  let s := cmds.foldl (fun s m => s.cmdStatus { m with tags := [] } 2) s
  let s := s.cores.foldl (fun s p => (p.2.keyOut.filter fun k => k.2.2.1 == d).foldl (fun s k =>
    (s.modCtx p.1 k.1 fun q => { q with bins := { q.bins with sdrop := q.bins.sdrop + k.2.2.2 } }).acked k.2.1 []) s) s
  s.mapThreads fun t => match t.wait with
    | .reply _ e => if e = d then { t with wait := .got [0x17] } else t
    | .token r => if s.holder (r * regionBytes) = d then { t with wait := .none } else t
    | _ => t

/-- Host contexts of the launches that a device's loss affects. -/
def State.affected (s : State) (d : Nat) : List Nat :=
  let ropes := (s.ropes.filter fun p => p.2.mem.any fun q => q.2.j && q.2.dev == d).map fun p => p.2.owner
  let byRope := (s.sched.launches.filter fun n => ropes.contains n.l).map fun n => n.host
  let byOp := (s.ops.filter fun o => s.opDevice o == some d).map fun o => (s.ctx o.core (s.thread o.core o.slot).x).host
  let byThread := s.threads.filterMap fun p => match p.2.wait with
    | .reply _ e => if e = d ∧ p.2.st ≠ .empty then some (s.ctx (p.1 / 256) p.2.x).host else none
    | _ => none
  distinct (byRope ++ byOp ++ byThread)

/-- A device is lost (R429). -/
def State.loseDevice (s : State) (d : Nat) : State :=
  if d = s.dev.devno ∨ s.sched.lostDevs.contains d then s
  else
    let hosts := s.affected d
    let s := s.modSched fun q =>
      { q with lostDevs := d :: q.lostDevs, sentTo := q.sentTo.filter fun p => p.1 != d, heldBack := q.heldBack.filter fun p => p.dst != d
               joiners := q.joiners.filter fun j => j.1 != d }
    let s := { s with ropes := s.ropes.map fun (p : Nat × Rope) => (p.1, { p.2 with away := p.2.away.filter fun w => w.1 != d }) }
    let s := ((s.deadMembers d).endTowards d).lostThreads d
    ((s.flog 0x42 3 0xFFFF 0 (BitVec.ofNat 64 d)).notice 1 d hosts).wakeRole 3

/-- EVH_LOSS_NOTICE (R429): a notice that device `n` is lost. -/
def execEvhLossNotice (s : State) : Host.Outcome State Fault Refusal := .next (s.loseDevice (s.arg.n % 2 ^ 15))

/-- DEVICE_LOST (R429): every link to neighbour `n` has been silent for 100 µs; the notice goes on to the other devices that this one reaches. -/
def execDeviceLost (s : State) : Host.Outcome State Fault Refusal :=
  let d := s.arg.n
  if d = s.dev.devno ∨ s.sched.lostDevs.contains d then .next s
  else
    let s := s.loseDevice d
    let others := distinct (s.dev.routes.filterMap fun p => if p.1 / 8192 = s.dev.rtInj ∧ bit p.2.toNat 15 ∧ bits p.2.toNat 0 3 < 6 then some (p.1 % 8192) else none)
    .next ((others.filter fun e => e != d && e != s.dev.devno).foldl (fun s e =>
      s.sendPacket { dst := e, cls := 2, ty := 12, tag := d, bank := 0, body := toBytes 8 d }) s)

/-! ### Ownership tokens (R104, R384) -/

/-- The bytes of a region of this device stand at their pages again. -/
def State.putRegion (s : State) (r : Nat) (bs : List Byte) : State :=
  (List.range 32).foldl (fun s i => match s.anyLeaf (r * regionBytes + 65536 * i) with
    | some (k, _) => s.put k (slice bs (65536 * i) 65536)
    | none => s) s

def State.modTokens (s : State) (f : List Token → List Token) : State := s.modSched fun q => { q with tokens := f q.tokens }

/-- The launch context that a region from elsewhere is for: that of a thread which waits for its token, or, for a page that moves, one of its job. -/
def State.tokenFor (s : State) (kind job r : Nat) : Option Nat :=
  if kind = 3 then (s.ctxs.find? fun p => p.2.placed && p.2.job == job).map fun p => p.2.l
  else s.threads.findSome? fun p => if p.2.st ≠ .empty ∧ p.2.wait = .token r then some (s.ctx (p.1 / 256) p.2.x).l else none

/-- EVH_TOKEN (R103, R104, R384): a request for the token of a region of this device waits until the token is here, nothing is under way in the region and the
directory has room. A region with its token comes home, or comes for a thread of this device that waits for it, or for a job whose page moves here, to the local
memory at `addr` that the firmware has chosen: its entry is BUSY until its bytes stand here, in the next s-cycle. A token that waits to be given back is looked at
again. -/
def execEvhToken (s : State) : Host.Outcome State Fault Refusal :=
  let a := s.arg
  let kind := s.argN 0 4
  let r := s.argN 8 8
  let own := decide (r * regionBytes / 2 ^ 40 % 2 ^ 15 = s.dev.devno)
  let lo := r * regionBytes
  if kind = 2 then .next (s.returnToken r)
  else if kind = 0 then
    let s := if a.ok then s else s.ack a.c 0 []
    if !own then .next s
    else match s.tokenWay r with
      | some w => .next (if (s.tokenOf lo).isSome ∨ !s.regionQuiet r then s.packetLater .evhToken { a with ok := true } else s.giveToken a.c 1 0 r w)
      | none => .next (s.packetLater .evhToken { a with ok := true })
  else
    let bs := padTo regionBytes (a.bytes.drop 24)
    let later := fun (s : State) => s.packetLater .evhToken { a with ok := true }
    match s.tokenOf lo with
    | some k =>
      if !a.ok then .next (if own ∧ !k.inward then later (s.modTokens fun l => l.map fun j => if j.region = r then { j with busy := true } else j) else s.ack a.c a.id [0])
      else if own then .next (((s.modTokens fun l => l.filter fun j => j.region != r).putRegion r bs).ack a.c a.id [0])
      else
        let s := ((s.put k.lcopy bs).modTokens fun l => l.map fun j => if j.region = r then { j with busy := false } else j).ack a.c a.id [0]
        .next (if (s.tokenFor kind (s.argN 4 4) r).isSome then s else s.returnToken r)
    | none => match s.tokenWay r with
      | none => .next (s.packetLater .evhToken a)
      | some w =>
        if own then .next (s.ack a.c a.id [0])
        else .next (later (s.modTokens fun l => l ++ [⟨true, true, (s.tokenFor kind (s.argN 4 4) r).getD 0, a.c, r, a.addr / regionBytes * regionBytes, s.argN 16 8 % 8, w, 0⟩]))

/-! ### Arriving threads (R37, R50, R105, R249) -/

/-- The core for a thread that comes from another device: the one with its own core's number, else the lowest-numbered with a free slot of its launch on this
device, which its host context and number name, or else of its job (R105; log 166); with the slot. -/
def State.coreFor (s : State) (c x job host launch : Nat) (t : Thread) : Option (Nat × Nat) :=
  let all := c :: ((s.ctxs.filter fun p => p.1 % 2 == x).map fun p => p.1 / 2).mergeSort fun a b => decide (a ≤ b)
  let first := fun (mine : Ctx → Bool) => all.findSome? fun d =>
    let k := s.ctx d x
    if k.placed && !k.away && mine k then (s.arrivalSlot d t).map fun h => (d, h) else none
  let same := fun (k : Ctx) => k.host == host && k.launch == launch
  if s.ctxs.any fun p => p.2.placed && same p.2 then first same else first fun k => k.job == job

/-- A thread as a packet brings it: its own record where it comes home, or a new guest with its home's place and its task's instance (R37, R50, R105, R115). -/
def State.guest (s : State) (own : Option Thread) : Thread :=
  let b : Thread := own.getD { uid := s.nextOp, hdev := s.argN 0 4 / 2 ^ 17, hcore := bits (s.argN 0 4) 8 9, hslot := bits (s.argN 0 4) 0 8
                               far := some (s.argN 24 2, s.argN 26 2, s.argN 32 8, s.argN 28 4) }
  let f := s.argN 19 1
  let t := contextThread b (slice s.arg.bytes 48 256)
  let t := { t with x := s.argN 18 1 % 2, begun := bit f 0, opening := bit f 5, trapDepth := s.argN 20 2, tq := s.argN 22 2, owner := s.argN 8 8
                    inst := if t.timed then some ⟨s.argN 40 1, s.argN 42 2, s.argN 44 2⟩ else none, sigAway := own.isNone && t.timed }
  { t with win := [], winAt := s.kindPlaces t (f / 2 % 16) }

/-- EVH_THREAD (R37, R105): a thread arrives with its context and takes a slot, or waits in transit for one. One of a launch that has been cancelled ends here
(R18, R19). -/
def execEvhThread (s : State) : Host.Outcome State Fault Refusal :=
  let a := s.arg
  let thid := s.argN 0 4
  let home := thid / 2 ^ 17 % 2 ^ 15
  let own := if home = s.dev.devno then (s.sched.abroad.find? fun p => p.1 == thid).map Prod.snd else none
  let t := s.guest own
  let s := if a.ok then s else s.ack a.c 0 []
  let ended := match own with | some u => (match s.launch u.owner with | some n => n.status != 0 | none => true) | none => false
  if home = s.dev.devno ∧ own.isNone then .next s
  else if ended then .next (s.abroadGone thid)
  else if s.sched.doomed.any fun d => d.1 == thid && d.2 == t.owner then
    .next ((s.modSched fun q => { q with doomed := q.doomed.filter fun d => d.1 != thid }).tell home 8 0 [BitVec.ofNat 64 thid])
  else match s.coreFor (s.argN 16 2 % 512) t.x (s.argN 4 2) (s.argN 6 2) t.owner t with
    | none => .next (s.packetLater .evhThread { a with ok := true })
    | some (c, h) =>
      let here := match t.inst with | some i => i.dev == s.dev.devno | none => false
      let s := { (s.modSched fun q => { q with abroad := q.abroad.filter (fun p => p.1 != thid)
                                               roaming := if here then q.roaming.filter fun p => p.1 != thid else q.roaming }) with nextOp := s.nextOp + 1 }
      let s := if own.isNone ∧ a.c = s.dev.devno then s.tell home 9 0 [BitVec.ofNat 64 thid, BitVec.ofNat 64 s.dev.devno] else s
      .next (s.arrive c h t)

/-! ### Routing and ports (R387, R437, R438) -/

/-- The step that a packet of a type is, with the class that it must have (R438). -/
def packetIns (ty : Nat) : Option (Instr × Nat) :=
  match ty with
  | 1 => some (.evhStore, 0)
  | 2 => some (.evhGetRequest, 0)
  | 3 => some (.evhGetData, 1)
  | 4 => some (.evhMessage, 0)
  | 5 => some (.evhSpawn, 0)
  | 6 => some (.evhSpawnReply, 1)
  | 7 => some (.evhKeyedPairs, 0)
  | 8 => some (.evhRopeArrival, 0)
  | 9 => some (.evhRopeRelease, 2)
  | 10 => some (.evhKillNotice, 2)
  | 11 => some (.evhAcknowledgement, 1)
  | 12 => some (.evhLossNotice, 2)
  | 13 => some (.evhToken, 0)
  | 14 => some (.evhThread, 0)
  | _ => none

/-- A packet is for this device: its step is made; one whose type does not match its class is discarded and logged. -/
def State.deliverPacket (s : State) (p : Packet) : State :=
  match packetIns p.ty with
  | some (i, k) =>
    if k = p.cls then { s with agenda := s.agenda ++ [⟨i, { c := p.src, id := p.tag, n := p.tag, addr := s.arg.addr, bytes := p.body }⟩] }
    else s.flog 0x42 3 0xFFFF 0 (BitVec.ofNat 64 p.src)
  | none => s.flog 0x42 3 0xFFFF 0 (BitVec.ofNat 64 p.src)

/-- The operation that sent a packet which was discarded ends as for a lost device (R387); a thread comes back. -/
def State.packetLost (s : State) (p : Packet) : State :=
  if p.src ≠ s.dev.devno then s
  else
    let s := s.deliveredTo p.dst p.cls
    match p.ty with
    | 1 | 2 => match s.cores.findSome? fun q => q.2.cmds.find? fun m => p.tag != 0 && (m.waiting == p.tag || m.tags.contains p.tag) with
      | some m => s.cmdStatus { m with tags := m.tags.filter (· != p.tag) } 2
      | none => s
    | 4 | 5 | 8 => match s.opById p.tag with
      | some o => s.opUnreachable o
      | none => match s.replyWaiter p.tag with
        | some (c, h) => s.modThread c h fun t => { t with wait := .got [0x17] }
        | none => s
    | 7 =>
      let s := s.cores.foldl (fun s q => (q.2.keyOut.filter fun k => k.2.1 == p.tag).foldl (fun s k =>
        s.modCtx q.1 k.1 fun c => { c with bins := { c.bins with sdrop := c.bins.sdrop + k.2.2.2 } }) s) s
      s.acked p.tag []
    | 13 =>
      let s := s.modTokens fun l => l.filterMap fun k => if p.tag ≠ 0 ∧ k.tag = p.tag then (if k.inward then some { k with busy := false, tag := 0 } else none) else some k
      if p.tag ≠ 0 then s
      else s.mapThreads fun t => match t.wait with
        | .token r => if s.holder (r * regionBytes) = p.dst then { t with wait := .none } else t
        | _ => t
    | 14 => { s with agenda := s.agenda ++ [⟨.evhThread, { c := s.dev.devno, ok := true, bytes := p.body }⟩] }
    | _ => s

/-- ROUTER_FORWARD (R137, R387, R438, R440): with `ok` a packet in transit reaches this device's router, with destination `m`, source `c`, class `x`, type `h`, tag `id`,
bank `n` and virtual-channel bit `v`, by port `addr`, or, with `w` not 0, a response or notice of this device, of class `x`, is known to be delivered at device `m`; else the oldest
packet in the router is forwarded by the table of its bank, delivered here, or discarded. The bit of one that leaves is 1 on a link that crosses the dateline, and 0 on another
one where it enters the link's dimension. -/
def execRouterForward (s : State) : Host.Outcome State Fault Refusal :=
  let a := s.arg
  if s.dev.active then .next s
  else if a.ok ∧ a.w ≠ 0 then .next (s.deliveredTo (a.m % 2 ^ 15) a.x)
  else if a.ok then
    .next (s.enterRouter { dst := a.m % 2 ^ 15, src := a.c % 2 ^ 15, cls := a.x, ty := a.h, tag := a.id, bank := a.n % 2, vc := a.v.toNat % 2, inp := a.addr % 8, body := a.bytes })
  else match s.sched.fabric with
    | [] => .next s
    | p :: l =>
      let e := s.route p.bank p.dst
      let port := if bit e 15 ∧ p.dst < 8192 then bits e 0 3 else 7
      let s := (s.modSched fun q => { q with fabric := l }).modDev fun d => { d with occ := Table.set p.bank (Table.get 0 p.bank d.occ - 1) d.occ }
      if port = 6 then .next ((if p.src = s.dev.devno ∧ p.cls ≠ 0 then s.deliveredTo p.dst p.cls else s).deliverPacket p)
      else if port = 7 then .next ((s.packetLost p).wakeRole 3)
      else .next (s.modSched fun q =>
        { q with sent := q.sent ++ [(port, { p with vc := if bit e 4 then 1 else if p.inp < 6 ∧ p.inp / 2 = port / 2 then p.vc else 0 })] })

/-- PORT_TRAINED (R437, R444): port `n`; none trains in approach mode. -/
def execPortTrained (s : State) : Host.Outcome State Fault Refusal :=
  .next (if s.arg.n < 6 ∧ !s.dev.active then s.modDev fun d => { d with portUp := putBits d.portUp s.arg.n 1 1 } else s)

/-- PORT_DOWN (R437): port `n`. -/
def execPortDown (s : State) : Host.Outcome State Fault Refusal :=
  .next (if s.arg.n < 6 then s.modDev fun d => { d with portUp := putBits d.portUp s.arg.n 1 0 } else s)

/-- FLIT_CRC_FAILURE (R414, R437): the link repeats the flit; no reader sees it in error. -/
def execFlitCrcFailure (s : State) : Host.Outcome State Fault Refusal := .next s

end Sys2Proof.Machine
end

