-- ==== Sys2Proof/Machine/EvDevice.lean ====
section
/-! DEFINITION. Steps of the whole device: reset and boot, the configuration table, approach mode, heat (R12, R62, R72, R388 to R391, R441, R444,
R445, R447). -/

namespace Sys2Proof.Machine

/-! ### Reset and boot (R441) -/

/-- DEVICE_RESET (R6, R441): everything is as right after reset; what the outside world is still to do stays in the agenda. -/
def execDeviceReset (s : State) : Host.Outcome State Fault Refusal := .next { State.reset with agenda := s.agenda, draw := s.draw }

/-- BOOTGO (R441): the checks start, once in each reset. -/
def execBootgo (s : State) : Host.Outcome State Fault Refusal := .next (if s.dev.bootState = 0 then s.modDev fun d => { d with bootState := 1 } else s)

/-! ### The configuration table (R388 to R390) -/

/-- Fields of a configuration table. -/
structure CfgTable where
  fww : Nat
  roles : List (Nat × Nat × Nat × Nat)
  repairs : List (Nat × Nat × Nat)

/-- No value stands twice. -/
def noRepeat (l : List Nat) : Bool := (distinct l).length == l.length

def zeroFrom (b : List Byte) (i n : Nat) : Bool := (slice b i n).all (· == 0)

/-- The entries of a table's image (R388, R389): role entries as row, column, role and rank, repair entries as core, slots code and register code. -/
def tableOf (b : List Byte) : CfgTable :=
  let n := fun i k => ofBytes (slice b i k)
  { fww := n 8 1
    roles := (List.range (n 9 1)).map fun i => (n (32 + 4 * i) 1, n (33 + 4 * i) 1, n (34 + 4 * i) 1, n (35 + 4 * i) 1)
    repairs := (List.range (n 10 2)).map fun i => let j := 32 + 4 * (n 9 1) + 4 * i; (n j 2, n (j + 2) 1, n (j + 3) 1) }

/-- The fixed part, the padding and the signature block keep their limits (R388). -/
def tableFormOk (b : List Byte) : Bool :=
  let n := fun i k => ofBytes (slice b i k)
  let len := n 6 2
  let ends := 32 + 4 * (n 9 1 + n 10 2)
  let sig := n len 2
  decide (n 0 4 = 0x4B434647 ∧ n 4 2 = 1 ∧ len % 8 = 0 ∧ len ≤ 63488 ∧ ends ≤ len ∧ b.length = len + 1536) &&
    decide (1 ≤ n 8 1 ∧ n 8 1 ≤ 4 ∧ 1 ≤ n 9 1 ∧ n 9 1 ≤ 32 ∧ n 10 2 ≤ 512 ∧ 1 ≤ sig ∧ sig ≤ 1534) &&
    zeroFrom b 16 16 && zeroFrom b ends (len - ends) && zeroFrom b (len + 2 + sig) (1534 - sig)

/-- The entries keep their limits and agree with one another (R389, R390). -/
def entriesOk (t : CfgTable) : Bool :=
  let has := fun k => t.roles.any fun r => r.2.2.1 == k
  let of := fun k => t.roles.filter fun r => r.2.2.1 == k
  t.roles.all (fun r => decide (r.1 < 8 ∧ r.2.1 < t.fww ∧ r.2.2.1 ≤ 6 ∧ (r.2.2.1 = 2 ∨ r.2.2.2 = 0))) &&
    noRepeat (t.roles.map fun r => 32 * r.1 + r.2.1) && decide ((of 1).length = 1) && noRepeat ((of 2).map fun r => r.2.2.2) &&
    has 3 && has 4 && has 5 && has 6 &&
    t.repairs.all (fun r => decide (r.1 < 512 ∧ r.2.1 ≤ 2 ∧ r.2.2 ≤ 2)) && noRepeat (t.repairs.map fun r => r.1)

/-- An accepted table sets the column's width, the working role map and the repairs, and its image becomes readable. -/
def State.takeTable (s : State) (b : List Byte) : State :=
  let t := tableOf b
  s.modDev fun d => { d with
    cfgok := true, fww := t.fww, cfgBytes := b, repair := t.repairs.foldl (fun m r => Table.set r.1 (r.2.1, r.2.2) m) []
    roles := t.roles.map fun r => (32 * r.1 + r.2.1, r.2.2.1, r.2.2.2) }

/-- BOOT_CHECKS_DONE (R390, R391, R441): the image check has come to `m`: 0 good, else the CODE of its failure; `bytes` is the table found in the boot
buffer, its signature good where `ok`; the firmware sets FWA0 to FWA7 to `ks` with LOCK. -/
def execBootChecksDone (s : State) : Host.Outcome State Fault Refusal :=
  let a := s.arg
  if s.dev.bootState ≠ 1 then .next s
  else if 1 ≤ a.m ∧ a.m ≤ 3 then .next (s.modDev fun d => { d with bootState := 3, bootCode := a.m })
  else
    let good := a.ok && tableFormOk a.bytes && entriesOk (tableOf a.bytes)
    let s := if good then s.takeTable a.bytes else s.modDev fun d => { d with bootCode := 4 }
    .next (s.modDev fun d => { d with
      bootState := 2
      fwa := (List.range 8).foldl (fun m i => Table.set i (((a.ks.getD i 0) &&& 0x00FFFFFFFFFFFF0F) ||| 0x80) m) d.fwa })

/-! ### Approach mode (R444, R445) -/

/-- CALIBRATION_DONE (R445): `x` 0 the L6 table has been verified, else the narrow datapaths have been calibrated; one that finishes while launches run
waits for them to end. -/
def execCalibrationDone (s : State) : Host.Outcome State Fault Refusal :=
  if s.ctxs.any fun p => p.2.placed then .next { s with laterSteps := s.laterSteps ++ [⟨.calibrationDone, s.arg⟩] }
  else .next (s.modDev fun d => if s.arg.x = 0 then { d with call6 := true } else { d with caln := true })

/-- The conditions on which approach mode ends. -/
def State.mayLeaveApproach (s : State) : Bool :=
  s.dev.active && s.dev.cfgok && s.dev.call6 && s.dev.caln && s.ctxs.all fun p => !p.2.placed

/-- APPROACH_EXIT (R372, R445): ACTIVE is cleared, and a NOTICE of kind 5 goes out. -/
def execApproachExit (s : State) : Host.Outcome State Fault Refusal :=
  .next (if s.mayLeaveApproach then (s.modDev fun d => { d with active := false }).notice 5 s.dev.devno [] else s)

/-! ### Heat (R405, R447, R448) -/

/-- The host contexts with a launch on a die. -/
def State.hostsOn (s : State) (d : Nat) : List Nat :=
  distinct ((s.ctxs.filter fun p => p.2.placed && dieOf (p.1 / 2) == d).map fun p => p.2.host)

def State.modDie (s : State) (d : Nat) (f : Die → Die) : State :=
  s.modDev fun v => { v with dies := Table.set d (f (Table.get {} d v.dies)) v.dies }

/-- THERMAL_GATING_BEGIN (R447): die `n` is above 110 °C. -/
def execThermalGatingBegin (s : State) : Host.Outcome State Fault Refusal :=
  let d := s.arg.n % 4
  .next (if (Table.get {} d s.dev.dies).gated then s
    else ((s.modDie d fun e => { e with gated := true }).notice 2 d (s.hostsOn d)).wakeRole 4)

/-- THERMAL_GATING_END (R447): die `n` is below 105 °C; an empty energy budget still gates it (R448). -/
def execThermalGatingEnd (s : State) : Host.Outcome State Fault Refusal :=
  let d := s.arg.n % 4
  .next (if (Table.get {} d s.dev.dies).gated then
      ((s.modDie d fun e => { e with gated := false }).notice 3 d (s.hostsOn d)).wakeRole 4
    else s)

/-- THERMAL_RESET_HOLD (R447): every launch is cancelled with status 4, the fault is logged, and the module holds itself in reset until THERMCLR. -/
def execThermalResetHold (s : State) : Host.Outcome State Fault Refusal :=
  if s.dev.thermHold then .next s
  else
    let hosts := distinct (s.sched.launches.map fun n => n.host)
    let z := Config.thermalRecord s.draw
    let s := { s with draw := s.draw + 1 }.modDev fun d => { d with thermHold := true }
    let s := (s.sched.launches.map fun n => n.id).foldl (fun s i => s.cancelLaunch i 4) s
    .next (((s.flog z.1.toNat 3 0xFFFF 0 z.2).notice 4 s.dev.devno hosts).wakeRole 4)

end Sys2Proof.Machine
end

