-- ==== Sys2Proof/Machine/Dispatch.lean ====
section
/-! DEFINITION. Which meaning each instruction has: one arm per constructor. -/

namespace Sys2Proof.Machine

/-- The meaning of an instruction. -/
def exec (i : Instr) (s : State) : Host.Outcome State Fault Refusal :=
  match i with
  | .nop => Sys2Proof.Machine.execNop s
  | .br n p o => Sys2Proof.Machine.execBr n p o s
  | .jmp o => Sys2Proof.Machine.execJmp o s
  | .jmpr a => Sys2Proof.Machine.execJmpr a s
  | .call o => Sys2Proof.Machine.execCall o s
  | .callr a => Sys2Proof.Machine.execCallr a s
  | .ret => Sys2Proof.Machine.execRet s
  | .frame imm => Sys2Proof.Machine.execFrame imm s
  | .trap c => Sys2Proof.Machine.execTrap c s
  | .sleep a => Sys2Proof.Machine.execSleep a s
  | .sleepRel a => Sys2Proof.Machine.execSleepRel a s
  | .yield => Sys2Proof.Machine.execYield s
  | .movi d imm => Sys2Proof.Machine.execMovi d imm s
  | .movhi d imm => Sys2Proof.Machine.execMovhi d imm s
  | .ld1 f => Sys2Proof.Machine.execLd1 f s
  | .ld2 f => Sys2Proof.Machine.execLd2 f s
  | .ld4 f => Sys2Proof.Machine.execLd4 f s
  | .ld8 f => Sys2Proof.Machine.execLd8 f s
  | .lds1 f => Sys2Proof.Machine.execLds1 f s
  | .lds2 f => Sys2Proof.Machine.execLds2 f s
  | .lds4 f => Sys2Proof.Machine.execLds4 f s
  | .st1 f => Sys2Proof.Machine.execSt1 f s
  | .st2 f => Sys2Proof.Machine.execSt2 f s
  | .st4 f => Sys2Proof.Machine.execSt4 f s
  | .st8 f => Sys2Proof.Machine.execSt8 f s
  | .ldv f => Sys2Proof.Machine.execLdv f s
  | .stv f => Sys2Proof.Machine.execStv f s
  | .vldx f => Sys2Proof.Machine.execVldx f s
  | .vstx f => Sys2Proof.Machine.execVstx f s
  | .aadd4 f => Sys2Proof.Machine.execAadd4 f s
  | .aadd8 f => Sys2Proof.Machine.execAadd8 f s
  | .afadd f => Sys2Proof.Machine.execAfadd f s
  | .aminS32 f => Sys2Proof.Machine.execAminS32 f s
  | .aminS64 f => Sys2Proof.Machine.execAminS64 f s
  | .aminU32 f => Sys2Proof.Machine.execAminU32 f s
  | .aminU64 f => Sys2Proof.Machine.execAminU64 f s
  | .aminF32 f => Sys2Proof.Machine.execAminF32 f s
  | .amaxS32 f => Sys2Proof.Machine.execAmaxS32 f s
  | .amaxS64 f => Sys2Proof.Machine.execAmaxS64 f s
  | .amaxU32 f => Sys2Proof.Machine.execAmaxU32 f s
  | .amaxU64 f => Sys2Proof.Machine.execAmaxU64 f s
  | .amaxF32 f => Sys2Proof.Machine.execAmaxF32 f s
  | .aand f => Sys2Proof.Machine.execAand f s
  | .aor f => Sys2Proof.Machine.execAor f s
  | .axor f => Sys2Proof.Machine.execAxor f s
  | .aswap4 f => Sys2Proof.Machine.execAswap4 f s
  | .aswap8 f => Sys2Proof.Machine.execAswap8 f s
  | .acas f => Sys2Proof.Machine.execAcas f s
  | .fence r sr => Sys2Proof.Machine.execFence r sr s
  | .sbwait m => Sys2Proof.Machine.execSbwait m s
  | .prefetch a w imm => Sys2Proof.Machine.execPrefetch a w imm s
  | .touch a w imm => Sys2Proof.Machine.execTouch a w imm s
  | .ldfe f => Sys2Proof.Machine.execLdfe f s
  | .stfe f => Sys2Proof.Machine.execStfe f s
  | .tbeg a k => Sys2Proof.Machine.execTbeg a k s
  | .tend => Sys2Proof.Machine.execTend s
  | .tabort => Sys2Proof.Machine.execTabort s
  | .tserial => Sys2Proof.Machine.execTserial s
  | .tstamp a => Sys2Proof.Machine.execTstamp a s
  | .spawn f => Sys2Proof.Machine.execSpawn f s
  | .spawnc f => Sys2Proof.Machine.execSpawnc f s
  | .spawnx f => Sys2Proof.Machine.execSpawnx f s
  | .join a => Sys2Proof.Machine.execJoin a s
  | .exit => Sys2Proof.Machine.execExit s
  | .prio a => Sys2Proof.Machine.execPrio a s
  | .migr a => Sys2Proof.Machine.execMigr a s
  | .kpt => Sys2Proof.Machine.execKpt s
  | .sinc a n k => Sys2Proof.Machine.execSinc a n k s
  | .swait a n k => Sys2Proof.Machine.execSwait a n k s
  | .sget d n k => Sys2Proof.Machine.execSget d n k s
  | .sset a n k => Sys2Proof.Machine.execSset a n k s
  | .smwait d a => Sys2Proof.Machine.execSmwait d a s
  | .bar r => Sys2Proof.Machine.execBar r s
  | .barq d r => Sys2Proof.Machine.execBarq d r s
  | .barqWait r => Sys2Proof.Machine.execBarqWait r s
  | .rparm a b => Sys2Proof.Machine.execRparm a b s
  | .rpjoin h a b => Sys2Proof.Machine.execRpjoin h a b s
  | .rparr d a => Sys2Proof.Machine.execRparr d a s
  | .rpwait a => Sys2Proof.Machine.execRpwait a s
  | .rpstat a => Sys2Proof.Machine.execRpstat a s
  | .rpleave => Sys2Proof.Machine.execRpleave s
  | .flsub f m => Sys2Proof.Machine.execFlsub f m s
  | .flend a => Sys2Proof.Machine.execFlend a s
  | .flsync a => Sys2Proof.Machine.execFlsync a s
  | .flstat d a => Sys2Proof.Machine.execFlstat d a s
  | .flstatClr d a => Sys2Proof.Machine.execFlstatClr d a s
  | .send f q => Sys2Proof.Machine.execSend f q s
  | .acqr a => Sys2Proof.Machine.execAcqr a s
  | .relr a => Sys2Proof.Machine.execRelr a s
  | .ksend x y e c q => Sys2Proof.Machine.execKsend x y e c q s
  | .kflush q => Sys2Proof.Machine.execKflush q s
  | .kbins x y q => Sys2Proof.Machine.execKbins x y q s
  | .kbinsMap x y q => Sys2Proof.Machine.execKbinsMap x y q s
  | .kbinsStat x q => Sys2Proof.Machine.execKbinsStat x q s
  | .tld x y k q => Sys2Proof.Machine.execTld x y k q s
  | .tst x y k q => Sys2Proof.Machine.execTst x y k q s
  | .tzero x k q => Sys2Proof.Machine.execTzero x k q s
  | .accz c q => Sys2Proof.Machine.execAccz c q s
  | .mma x c q => Sys2Proof.Machine.execMma x c q s
  | .mmat x c q => Sys2Proof.Machine.execMmat x c q s
  | .mvs x y e g c q => Sys2Proof.Machine.execMvs x y e g c q s
  | .epi x y e g c q => Sys2Proof.Machine.execEpi x y e g c q s
  | .cpy x y e g q => Sys2Proof.Machine.execCpy x y e g q s
  | .cpyp x y e g q => Sys2Proof.Machine.execCpyp x y e g q s
  | .cpyf x y e g q => Sys2Proof.Machine.execCpyf x y e g q s
  | .put x y q => Sys2Proof.Machine.execPut x y q s
  | .get x y q => Sys2Proof.Machine.execGet x y q s
  | .mvc d c => Sys2Proof.Machine.execMvc d c s
  | .mtc d c => Sys2Proof.Machine.execMtc d c s
  | .rte => Sys2Proof.Machine.execRte s
  | .sysc c => Sys2Proof.Machine.execSysc c s
  | .bkpt c => Sys2Proof.Machine.execBkpt c s
  | .halt => Sys2Proof.Machine.execHalt s
  | .csave f => Sys2Proof.Machine.execCsave f s
  | .crest f => Sys2Proof.Machine.execCrest f s
  | .tlbinv a b => Sys2Proof.Machine.execTlbinv a b s
  | .tlbinvCtx a b => Sys2Proof.Machine.execTlbinvCtx a b s
  | .anop g => Sys2Proof.Machine.execAnop g s
  | .add g f x => Sys2Proof.Machine.execAdd g f x s
  | .sub g f x => Sys2Proof.Machine.execSub g f x s
  | .mul g f x => Sys2Proof.Machine.execMul g f x s
  | .mulh g f x => Sys2Proof.Machine.execMulh g f x s
  | .div g f x => Sys2Proof.Machine.execDiv g f x s
  | .rem g f x => Sys2Proof.Machine.execRem g f x s
  | .min g f x => Sys2Proof.Machine.execMin g f x s
  | .max g f x => Sys2Proof.Machine.execMax g f x s
  | .and g f => Sys2Proof.Machine.execAnd g f s
  | .or g f => Sys2Proof.Machine.execOr g f s
  | .xor g f => Sys2Proof.Machine.execXor g f s
  | .andn g f => Sys2Proof.Machine.execAndn g f s
  | .shl g f x => Sys2Proof.Machine.execShl g f x s
  | .shr g f x => Sys2Proof.Machine.execShr g f x s
  | .sar g f x => Sys2Proof.Machine.execSar g f x s
  | .lea g f x => Sys2Proof.Machine.execLea g f x s
  | .addi g d a imm => Sys2Proof.Machine.execAddi g d a imm s
  | .andi g d a imm => Sys2Proof.Machine.execAndi g d a imm s
  | .ori g d a imm => Sys2Proof.Machine.execOri g d a imm s
  | .xori g d a imm => Sys2Proof.Machine.execXori g d a imm s
  | .shli g d a imm => Sys2Proof.Machine.execShli g d a imm s
  | .shri g d a imm => Sys2Proof.Machine.execShri g d a imm s
  | .sari g d a imm => Sys2Proof.Machine.execSari g d a imm s
  | .bext g f x => Sys2Proof.Machine.execBext g f x s
  | .bins g f => Sys2Proof.Machine.execBins g f s
  | .clz g d a x => Sys2Proof.Machine.execClz g d a x s
  | .ctz g d a x => Sys2Proof.Machine.execCtz g d a x s
  | .popc g d a x => Sys2Proof.Machine.execPopc g d a x s
  | .sel g p e a b => Sys2Proof.Machine.execSel g p e a b s
  | .cmp g p a b c => Sys2Proof.Machine.execCmp g p a b c s
  | .cmpi g p a imm c => Sys2Proof.Machine.execCmpi g p a imm c s
  | .pand g f => Sys2Proof.Machine.execPand g f s
  | .por g f => Sys2Proof.Machine.execPor g f s
  | .pxor g f => Sys2Proof.Machine.execPxor g f s
  | .pnot g d e a => Sys2Proof.Machine.execPnot g d e a s
  | .ppack g d a j => Sys2Proof.Machine.execPpack g d a j s
  | .punpack g a j => Sys2Proof.Machine.execPunpack g a j s
  | .fadd g f => Sys2Proof.Machine.execFadd g f s
  | .fsub g f => Sys2Proof.Machine.execFsub g f s
  | .fmul g f => Sys2Proof.Machine.execFmul g f s
  | .ffma g f => Sys2Proof.Machine.execFfma g f s
  | .fdiv g f => Sys2Proof.Machine.execFdiv g f s
  | .fsqrt g d a => Sys2Proof.Machine.execFsqrt g d a s
  | .fmin g f => Sys2Proof.Machine.execFmin g f s
  | .fmax g f => Sys2Proof.Machine.execFmax g f s
  | .fcmp g p a b c => Sys2Proof.Machine.execFcmp g p a b c s
  | .fcvt g d a k x => Sys2Proof.Machine.execFcvt g d a k x s
  | .vadd g f v => Sys2Proof.Machine.execVadd g f v s
  | .vaddScalar g f => Sys2Proof.Machine.execVaddScalar g f s
  | .vsub g f v => Sys2Proof.Machine.execVsub g f v s
  | .vsubScalar g f => Sys2Proof.Machine.execVsubScalar g f s
  | .vmul g f v => Sys2Proof.Machine.execVmul g f v s
  | .vmulScalar g f => Sys2Proof.Machine.execVmulScalar g f s
  | .vfma g f v => Sys2Proof.Machine.execVfma g f v s
  | .vfmaScalar g f => Sys2Proof.Machine.execVfmaScalar g f s
  | .vmin g f => Sys2Proof.Machine.execVmin g f s
  | .vmax g f => Sys2Proof.Machine.execVmax g f s
  | .vand g f => Sys2Proof.Machine.execVand g f s
  | .vor g f => Sys2Proof.Machine.execVor g f s
  | .vxor g f => Sys2Proof.Machine.execVxor g f s
  | .vnot g t d a => Sys2Proof.Machine.execVnot g t d a s
  | .vshl g f => Sys2Proof.Machine.execVshl g f s
  | .vshr g f => Sys2Proof.Machine.execVshr g f s
  | .vsar g f => Sys2Proof.Machine.execVsar g f s
  | .vshlScalar g t d sr => Sys2Proof.Machine.execVshlScalar g t d sr s
  | .vshrScalar g t d sr => Sys2Proof.Machine.execVshrScalar g t d sr s
  | .vsarScalar g t d sr => Sys2Proof.Machine.execVsarScalar g t d sr s
  | .vcmp g f c => Sys2Proof.Machine.execVcmp g f c s
  | .vsel g f m => Sys2Proof.Machine.execVsel g f m s
  | .vbcast g t d sr => Sys2Proof.Machine.execVbcast g t d sr s
  | .vins g t d sr => Sys2Proof.Machine.execVins g t d sr s
  | .vext g t a sr => Sys2Proof.Machine.execVext g t a sr s
  | .vredsum g f => Sys2Proof.Machine.execVredsum g f s
  | .vredmin g f => Sys2Proof.Machine.execVredmin g f s
  | .vredmax g f => Sys2Proof.Machine.execVredmax g f s
  | .vredsumScalar g t a sr => Sys2Proof.Machine.execVredsumScalar g t a sr s
  | .vredminScalar g t a sr => Sys2Proof.Machine.execVredminScalar g t a sr s
  | .vredmaxScalar g t a sr => Sys2Proof.Machine.execVredmaxScalar g t a sr s
  | .vperm g f => Sys2Proof.Machine.execVperm g f s
  | .vslideup g f => Sys2Proof.Machine.execVslideup g f s
  | .vslidedn g f => Sys2Proof.Machine.execVslidedn g f s
  | .vcompress g f => Sys2Proof.Machine.execVcompress g f s
  | .vexpand g f => Sys2Proof.Machine.execVexpand g f s
  | .vcvt g f x => Sys2Proof.Machine.execVcvt g f x s
  | .vwadd g f => Sys2Proof.Machine.execVwadd g f s
  | .vwmul g f => Sys2Proof.Machine.execVwmul g f s
  | .vwcvt g f => Sys2Proof.Machine.execVwcvt g f s
  | .vnadd g f x => Sys2Proof.Machine.execVnadd g f x s
  | .vncvt g f x => Sys2Proof.Machine.execVncvt g f x s
  | .vbmax g t d a b => Sys2Proof.Machine.execVbmax g t d a b s
  | .vexp2 g t d a => Sys2Proof.Machine.execVexp2 g t d a s
  | .vlog2 g t d a => Sys2Proof.Machine.execVlog2 g t d a s
  | .vrcp g t d a => Sys2Proof.Machine.execVrcp g t d a s
  | .vrsqrt g t d a => Sys2Proof.Machine.execVrsqrt g t d a s
  | .vsqrt g t d a => Sys2Proof.Machine.execVsqrt g t d a s
  | .vtanh g t d a => Sys2Proof.Machine.execVtanh g t d a s
  | .vsigm g t d a => Sys2Proof.Machine.execVsigm g t d a s
  | .vmov g d a => Sys2Proof.Machine.execVmov g d a s
  | .vzero g d => Sys2Proof.Machine.execVzero g d s
  | .vmovScalar g d sr => Sys2Proof.Machine.execVmovScalar g d sr s
  | .loadDataReturn => Sys2Proof.Machine.execLoadDataReturn s
  | .storeAck => Sys2Proof.Machine.execStoreAck s
  | .longResultReady => Sys2Proof.Machine.execLongResultReady s
  | .vectorResultWrite => Sys2Proof.Machine.execVectorResultWrite s
  | .deferredFault => Sys2Proof.Machine.execDeferredFault s
  | .trapDelivery => Sys2Proof.Machine.execTrapDelivery s
  | .threadRetirement => Sys2Proof.Machine.execThreadRetirement s
  | .timedTaskCommit => Sys2Proof.Machine.execTimedTaskCommit s
  | .taskRestart => Sys2Proof.Machine.execTaskRestart s
  | .stragglerKill => Sys2Proof.Machine.execStragglerKill s
  | .windowSpill => Sys2Proof.Machine.execWindowSpill s
  | .windowRefill => Sys2Proof.Machine.execWindowRefill s
  | .vwinWrite => Sys2Proof.Machine.execVwinWrite s
  | .vwinGrant => Sys2Proof.Machine.execVwinGrant s
  | .sleepWake => Sys2Proof.Machine.execSleepWake s
  | .ageingCredit => Sys2Proof.Machine.execAgeingCredit s
  | .cairnRefresh => Sys2Proof.Machine.execCairnRefresh s
  | .rebalance => Sys2Proof.Machine.execRebalance s
  | .migrationArrival => Sys2Proof.Machine.execMigrationArrival s
  | .remoteScratchpadAccess => Sys2Proof.Machine.execRemoteScratchpadAccess s
  | .bankOperation => Sys2Proof.Machine.execBankOperation s
  | .feRetry => Sys2Proof.Machine.execFeRetry s
  | .tlbWalkComplete => Sys2Proof.Machine.execTlbWalkComplete s
  | .shootdownComplete => Sys2Proof.Machine.execShootdownComplete s
  | .pageMigrationLine => Sys2Proof.Machine.execPageMigrationLine s
  | .messageArrival => Sys2Proof.Machine.execMessageArrival s
  | .sendRetry => Sys2Proof.Machine.execSendRetry s
  | .spawnAnswer => Sys2Proof.Machine.execSpawnAnswer s
  | .syscAnswer => Sys2Proof.Machine.execSyscAnswer s
  | .engineCommandBegin => Sys2Proof.Machine.execEngineCommandBegin s
  | .engineStep => Sys2Proof.Machine.execEngineStep s
  | .keyBufferTimeout => Sys2Proof.Machine.execKeyBufferTimeout s
  | .keyedFlitArrival => Sys2Proof.Machine.execKeyedFlitArrival s
  | .batchWindowClose => Sys2Proof.Machine.execBatchWindowClose s
  | .flUpdateApply => Sys2Proof.Machine.execFlUpdateApply s
  | .barrierArrivalHop => Sys2Proof.Machine.execBarrierArrivalHop s
  | .barrierRelease => Sys2Proof.Machine.execBarrierRelease s
  | .ropePendingWrite => Sys2Proof.Machine.execRopePendingWrite s
  | .ropeBankAck => Sys2Proof.Machine.execRopeBankAck s
  | .ropeMerge => Sys2Proof.Machine.execRopeMerge s
  | .ropeRelease => Sys2Proof.Machine.execRopeRelease s
  | .crossTriggerArrival => Sys2Proof.Machine.execCrossTriggerArrival s
  | .teamRollback => Sys2Proof.Machine.execTeamRollback s
  | .patrolScrub => Sys2Proof.Machine.execPatrolScrub s
  | .kick => Sys2Proof.Machine.execKick s
  | .gclr => Sys2Proof.Machine.execGclr s
  | .qcfgWrite => Sys2Proof.Machine.execQcfgWrite s
  | .launch => Sys2Proof.Machine.execLaunch s
  | .launchPlace => Sys2Proof.Machine.execLaunchPlace s
  | .mbxwait => Sys2Proof.Machine.execMbxwait s
  | .mbxput => Sys2Proof.Machine.execMbxput s
  | .signal => Sys2Proof.Machine.execSignal s
  | .timed => Sys2Proof.Machine.execTimed s
  | .timedExpiry => Sys2Proof.Machine.execTimedExpiry s
  | .fencePacket => Sys2Proof.Machine.execFencePacket s
  | .cancel => Sys2Proof.Machine.execCancel s
  | .nopPacket => Sys2Proof.Machine.execNopPacket s
  | .energySample => Sys2Proof.Machine.execEnergySample s
  | .energyWindowBoundary => Sys2Proof.Machine.execEnergyWindowBoundary s
  | .drainEnd => Sys2Proof.Machine.execDrainEnd s
  | .t1limExpiry => Sys2Proof.Machine.execT1limExpiry s
  | .saveComplete => Sys2Proof.Machine.execSaveComplete s
  | .t2limExpiry => Sys2Proof.Machine.execT2limExpiry s
  | .takeover => Sys2Proof.Machine.execTakeover s
  | .log => Sys2Proof.Machine.execLog s
  | .syscMbxput => Sys2Proof.Machine.execSyscMbxput s
  | .mbxget => Sys2Proof.Machine.execMbxget s
  | .syscCancel => Sys2Proof.Machine.execSyscCancel s
  | .mqtail => Sys2Proof.Machine.execMqtail s
  | .mrheadWrite => Sys2Proof.Machine.execMrheadWrite s
  | .mcfgWrite => Sys2Proof.Machine.execMcfgWrite s
  | .mstatRead => Sys2Proof.Machine.execMstatRead s
  | .preempt => Sys2Proof.Machine.execPreempt s
  | .resume => Sys2Proof.Machine.execResume s
  | .ptpoff => Sys2Proof.Machine.execPtpoff s
  | .attest => Sys2Proof.Machine.execAttest s
  | .pubkey => Sys2Proof.Machine.execPubkey s
  | .thermclr => Sys2Proof.Machine.execThermclr s
  | .cesum => Sys2Proof.Machine.execCesum s
  | .dtstepWrite => Sys2Proof.Machine.execDtstepWrite s
  | .ppsEdge => Sys2Proof.Machine.execPpsEdge s
  | .xtrigPulse => Sys2Proof.Machine.execXtrigPulse s
  | .xtrigFiredClear => Sys2Proof.Machine.execXtrigFiredClear s
  | .traceStart => Sys2Proof.Machine.execTraceStart s
  | .traceStop => Sys2Proof.Machine.execTraceStop s
  | .traceOff => Sys2Proof.Machine.execTraceOff s
  | .traceStopped => Sys2Proof.Machine.execTraceStopped s
  | .tracePostEnd => Sys2Proof.Machine.execTracePostEnd s
  | .captureRecord => Sys2Proof.Machine.execCaptureRecord s
  | .wearCompute => Sys2Proof.Machine.execWearCompute s
  | .wake => Sys2Proof.Machine.execWake s
  | .bgWrite => Sys2Proof.Machine.execBgWrite s
  | .registerWrite => Sys2Proof.Machine.execRegisterWrite s
  | .rtctlInjWrite => Sys2Proof.Machine.execRtctlInjWrite s
  | .routingBankWrite => Sys2Proof.Machine.execRoutingBankWrite s
  | .deviceReset => Sys2Proof.Machine.execDeviceReset s
  | .bootgo => Sys2Proof.Machine.execBootgo s
  | .bootChecksDone => Sys2Proof.Machine.execBootChecksDone s
  | .calibrationDone => Sys2Proof.Machine.execCalibrationDone s
  | .approachExit => Sys2Proof.Machine.execApproachExit s
  | .inboundWrite => Sys2Proof.Machine.execInboundWrite s
  | .inboundRead => Sys2Proof.Machine.execInboundRead s
  | .inboundAtomic => Sys2Proof.Machine.execInboundAtomic s
  | .hostCompletion => Sys2Proof.Machine.execHostCompletion s
  | .hostReadTimeout => Sys2Proof.Machine.execHostReadTimeout s
  | .evhStore => Sys2Proof.Machine.execEvhStore s
  | .evhGetRequest => Sys2Proof.Machine.execEvhGetRequest s
  | .evhGetData => Sys2Proof.Machine.execEvhGetData s
  | .evhMessage => Sys2Proof.Machine.execEvhMessage s
  | .evhSpawn => Sys2Proof.Machine.execEvhSpawn s
  | .evhSpawnReply => Sys2Proof.Machine.execEvhSpawnReply s
  | .evhKeyedPairs => Sys2Proof.Machine.execEvhKeyedPairs s
  | .evhRopeArrival => Sys2Proof.Machine.execEvhRopeArrival s
  | .evhRopeRelease => Sys2Proof.Machine.execEvhRopeRelease s
  | .evhKillNotice => Sys2Proof.Machine.execEvhKillNotice s
  | .evhAcknowledgement => Sys2Proof.Machine.execEvhAcknowledgement s
  | .evhLossNotice => Sys2Proof.Machine.execEvhLossNotice s
  | .evhToken => Sys2Proof.Machine.execEvhToken s
  | .evhThread => Sys2Proof.Machine.execEvhThread s
  | .deviceLost => Sys2Proof.Machine.execDeviceLost s
  | .thermalGatingBegin => Sys2Proof.Machine.execThermalGatingBegin s
  | .thermalGatingEnd => Sys2Proof.Machine.execThermalGatingEnd s
  | .thermalResetHold => Sys2Proof.Machine.execThermalResetHold s
  | .malformedSlot => Sys2Proof.Machine.execMalformedSlot s
  | .sCycle => Sys2Proof.Machine.execSCycle s
  | .referencePeriod => Sys2Proof.Machine.execReferencePeriod s
  | .portTrained => Sys2Proof.Machine.execPortTrained s
  | .portDown => Sys2Proof.Machine.execPortDown s
  | .flitCrcFailure => Sys2Proof.Machine.execFlitCrcFailure s
  | .routerForward => Sys2Proof.Machine.execRouterForward s
  | .pageResident => Sys2Proof.Machine.execPageResident s

end Sys2Proof.Machine
end

