-- ==== Sys2Proof/Machine/Bundle.lean ====
section
/-! DEFINITION. Bundles: the two slots of a pair, what is taken at a bundle boundary, the issue choice, and the
re-test of parked threads. -/

namespace Sys2Proof.Machine

abbrev Out := Host.Outcome State Fault Refusal

def andThen (o : Out) (f : State → Out) : Out :=
  match o with
  | .next s => f s
  | .fault r => .fault r
  | .refused r => .refused r

/-- A latch for the bundle of slot `h` on core `c`. -/
def State.latched (s : State) (c h len : Nat) (w : BitVec 32) (p : Option Pfx) : State :=
  { s with latch := { core := c, slot := h, len := len, word := w, pfx := p } }

/-- The cause of a bundle whose decoding fails (R163, R409). -/
def State.decodeTrap (s : State) (c h : Nat) (w : BitVec 32) (aslot both : Bool) : State :=
  s.takeException c h ⟨0x10, w.setWidth 64, (s.thread c h).pc, aslot, both, if both then 0x10 else 0, 0⟩

/-- The earlier of two park causes (R337). -/
def parkMin (a b : Nat) : Nat := min a b

/-- A pair whose words are decoded (R164): both slots read the registers as they stood before; if either must park the bundle waits;
if either traps neither takes effect; else the C-slot's writes come first and its transfer of control last. What a C-slot's wait starts, it starts only where the
A-slot does not trap (R8). -/
def State.runPair (s : State) (ci ai : Instr) (cw aw : BitVec 32) (g : Guard) : Out :=
  let c := s.latch.core
  let h := s.latch.slot
  let t := s.cur
  let on := guardOn g t
  let s1 := { s with latch := { s.latch with mode := .pairC, exec := on, len := 8, word := cw } }
  let aMode := fun (r : State) => { r with latch := { r.latch with mode := .pairA, exec := on, pre := t, word := aw } }
  let done := fun (r : State) => { r with latch := { r.latch with mode := .lone, exec := true, res := .ok, pushed := [], pre := {}, defer := .no } }
  let cause := fun (r : Res) (a : Bool) => match r with
    | .trap k v => some (s.causeOf k v a)
    | .stop z => some z
    | _ => none
  andThen (exec ci s1) fun r1 =>
    match r1.latch.res with
    | .ok => andThen (exec ai (aMode r1)) fun r2 =>
      match r2.latch.res with
      | .park p | .wait p => .next (done (s.parkCur p))
      | .ok | .over => .next (done { r2 with latch := { r2.latch with mode := .lone } }.finish)
      | r => .next (done (match cause r true with | some z => s.takeException c h z | none => s))
    | .over => andThen (exec ai (aMode s1)) fun r2 =>
      match r2.latch.res with
      | .park p | .wait p => .next (done (s.parkCur p))
      | _ => .next (done r1)
    | .park p => andThen (exec ai (aMode s1)) fun r2 =>
      match r2.latch.res with
      | .park q | .wait q => .next (done (s.parkCur (parkMin p q)))
      | _ => .next (done (r1.parkCur p))
    | .wait p => andThen (exec ai (aMode s1)) fun r2 =>
      match r2.latch.res with
      | .ok | .over => .next (done (r1.parkCur p))
      | .park q | .wait q => .next (done (s.parkCur (parkMin p q)))
      | r => .next (done (match cause r true with | some z => s.takeException c h z | none => s))
    | r => andThen (exec ai (aMode s1)) fun r2 =>
      match r2.latch.res with
      | .park p | .wait p => .next (done (s.parkCur p))
      | .trap k _ => .next (done (match cause r false with | some z => s.takeException c h { z with both := true, code2 := k } | none => s))
      | _ => .next (done (match cause r false with | some z => s.takeException c h z | none => s))

/-- The bundle at the PC of slot `h` of core `c` is fetched, framed, decoded and executed (R161 to R167). -/
def State.runBundle (s : State) (c h : Nat) : Out :=
  let t := s.thread c h
  let k := s.ctx c t.x
  let s0 := s.latched c h 4 0 none
  let s := s.textFill c k.l t.pc
  match s.frame c k.l k.ver t.pc with
  | .wait => .next ((s0.startWalk (clusterOf c) k.l t.pc.toNat c t.x h).parkCur 12)
  | .bad code w a =>
    let tval := match t.src with
      | some p => p
      | none => if code = 0x11 ∨ code = 0x10 then w.setWidth 64 else t.pc
    .next (s0.takeException c h ⟨code, tval, t.pc, a, false, 0, 0⟩)
  | .lone w =>
    match decodeIn k.ver w with
    | some i => exec i (s.latched c h 4 w none)
    | none => .next (s0.decodeTrap c h w (isAClass w) false)
  | .vec p v =>
    match decodePfx p, decodeIn k.ver v with
    | some q, some i =>
      if pfxFits q i then exec i (s.latched c h 8 v (some q)) else .next (s0.decodeTrap c h p false false)
    | none, some _ => .next (s0.decodeTrap c h p false false)
    | some _, none => .next (s0.decodeTrap c h v true false)
    | none, none => .next (s0.decodeTrap c h p false true)
  | .pair w v =>
    match decodeIn k.ver w, decodeIn k.ver v with
    | some ci, some ai => (s.latched c h 8 w none).runPair ci ai w v (guardOf (v.extractLsb' 0 24))
    | none, some _ => .next (s0.decodeTrap c h w false false)
    | some _, none => .next (s0.decodeTrap c h v true false)
    | none, none => .next (s0.decodeTrap c h w false true)

/-- An implicit task that was left to open, as the context drained, opens before the bundle (R365). -/
def State.opened (s : State) (c h : Nat) : State := if (s.thread c h).opening then s.openTask c h (s.thread c h).pc false none else s

/-- One turn of a thread: what is due at its boundary, or else its bundle; a thread whose trap, restart or windows wait, or whose home has not answered, stays
parked, and so does one that is to open a task in a context that drains. -/
def State.turnOf (s : State) (c h : Nat) : Out :=
  match s.boundary c h with
  | some r => .next r
  | none =>
    let t := s.thread c h
    if t.restart ∨ t.trapDue.isSome then .next ((s.latched c h 4 0 none).parkCur 0)
    else if t.wait = .stuck then .next ((s.latched c h 4 0 none).parkCur 11)
    else if (s.opsOf c h).any fun o => o.kind == .fe then .next ((s.latched c h 4 0 none).parkCur 6)
    else if ((s.opsOf c h).any fun o => o.kind == .home && o.aop != 4 && o.aop != 5) ∨ !t.winAt.isEmpty then .next ((s.latched c h 4 0 none).parkCur 0)
    else if t.opening ∧ (s.ctx c t.x).drain then .next ((s.latched c h 4 0 none).parkCur 10)
    else (s.opened c h).runBundle c h

/-! ### The issue choice (R338) -/

/-- Threads of a core that may issue in this s-cycle (R338, R405, R447). -/
def State.eligible (s : State) (c : Nat) : List (Nat × Thread) :=
  (s.threadsOf c).filter fun p =>
    decide (p.2.st = .ready) && decide (p.2.elig ≤ s.dev.clock) && !(s.ctx c p.2.x).away && !(p.2.x == 0 && s.gated c) && !s.dev.thermHold &&
      (decide ((s.core c).vecFree ≤ s.dev.clock) || !s.nextVector c p.1)

/-- `p` comes before `q` in the choice: the highest effective priority, the lowest *rs*, the lowest slot. -/
def before (p q : Nat × Thread) : Bool :=
  decide (effPri q.2 < effPri p.2 ∨ effPri q.2 = effPri p.2 ∧ (p.2.rs < q.2.rs ∨ p.2.rs = q.2.rs ∧ p.1 < q.1))

def State.choose (s : State) (c : Nat) : Option (Nat × Thread) :=
  (s.eligible c).foldl (fun b p => match b with | none => some p | some q => if before p q then some p else some q) none

/-- What issuing does to the thread's place in the choice (R338). -/
def issued (clock : Nat) (t : Thread) : Thread := { t with cr := 0, acc := 0, rs := clock, elig := clock + 8, epri := effPri t }

/-- A core issues the bundle it has chosen; a bundle that must park has not issued and leaves the s-cycle to another thread. -/
def State.issueOn (s : State) (c : Nat) (p : Nat × Thread) : Out :=
  let go := s.modThread c p.1 (issued s.dev.clock)
  andThen (go.turnOf c p.1) fun r =>
    let u := r.thread c p.1
    let moving : Bool := match u.leave with | .migrate _ _ => u.st == .leaving && u.pc == p.2.pc | _ => false
    if (u.st = .parked ∧ u.pc = p.2.pc ∧ u.trapDue.isNone) ∨ moving then s.turnOf c p.1
    else
      let r := (r.count c p.2.x p.1 2 1).modCore c fun k => { k with issued := some (p.1, p.2.x) }
      .next { r with turn := c + 1 }

/-- Cores that hold a thread, from `lo` up. -/
def State.liveCores (s : State) (lo : Nat) : List Nat :=
  (distinct (s.threads.filterMap fun p => if p.2.st ≠ .empty ∧ lo ≤ p.1 / 256 then some (p.1 / 256) else none)).mergeSort fun a b => decide (a ≤ b)

/-! ### Waking (R41, R336, R337) -/

/-- The order in which waiters are released (R41). -/
def wakeBefore (p q : Nat × Thread) : Bool :=
  decide (effPri q.2 < effPri p.2 ∨ effPri q.2 = effPri p.2 ∧ (p.2.since < q.2.since ∨ p.2.since = q.2.since ∧ p.1 ≤ q.1))

/-- A turn left a thread parked as it was. -/
def stays (t u : Thread) : Bool := decide (u.st = .parked ∧ u.pc = t.pc ∧ u.trapDue.isNone ∧ u.wait = t.wait)

/-- The thread's next turn would do more than leave it parked as it is; the state after that turn. -/
def State.wouldGo (s : State) (c h : Nat) : Option State :=
  match s.turnOf c h with
  | .next r => if stays (s.thread c h) (r.thread c h) then none else some r
  | _ => none

/-- A ready thread whose next bundle meets a park condition parks, and a parked thread whose condition has given way to another parks on that
one (R336, R337). -/
def State.repark (s : State) (c h : Nat) : State :=
  let t := s.thread c h
  match s.turnOf c h with
  | .next r =>
    if stays t (r.thread c h) ∧ (t.st = .ready ∨ (r.thread c h).pcause ≠ t.pcause) then { r with latch := s.latch, turn := s.turn } else s
  | _ => s

/-- The ready threads of a core whose next bundle cannot issue park (R336). -/
def State.settle (s : State) (c : Nat) : State :=
  ((s.threadsOf c).filter fun p => decide (p.2.st = .ready) && !(s.ctx c p.2.x).away).foldl (fun s p => s.repark c p.1) s

/-- The semaphore whose units a released waiter takes at its release (R41, R252). -/
def semTaken (a b : Table Nat) : Option Nat := (List.range 64).find? fun n => decide (Table.get 0 n b < Table.get 0 n a)

/-- Re-tests the parked threads of a core in the order of R41: `r` shows each what the threads released before it will take. -/
def wakeCore (c : Nat) : List (Nat × Thread) → State → State → State
  | [], s, _ => s
  | (h, t) :: l, s, r =>
    match r.wouldGo c h with
    | none => wakeCore c l (s.repark c h) r
    | some r2 =>
      let s := s.modThread c h (readyTh s.dev.clock)
      let b := (r2.ctx c t.x).sm
      match (if t.pcause = 4 then semTaken (r.ctx c t.x).sm b else none) with
      | some n =>
        let s := s.modCtx c t.x fun k => { k with sm := Table.set n (Table.get 0 n b) k.sm }
        wakeCore c l (s.modThread c h fun u => { u with wait := .granted n, ts := (r2.thread c h).ts }) r2
      | none => wakeCore c l s r2

/-- What the threads of a core that were released and have not issued since will take (R41, R43). -/
def State.claims (s : State) (c : Nat) : State :=
  (((s.threadsOf c).filter fun p => decide (p.2.st = .ready) && p.2.released).mergeSort wakeBefore).foldl
    (fun r p => (r.wouldGo c p.1).getD r) s

/-- Every thread is re-tested, core by core: the ready ones, then the parked ones in the order of R41. -/
def State.wakeAll (s : State) : State :=
  (s.liveCores 0).foldl (fun s c =>
    let s := s.settle c
    wakeCore c (((s.threadsOf c).filter fun p => decide (p.2.st = .parked)).mergeSort wakeBefore) s (s.claims c)) s

/-! ### What goes on by itself -/

/-- The step that is due for an operation in flight. -/
def opStep (o : Op) : List Event :=
  match o.kind, o.at_ with
  | .load, _ | .vload, _ => [⟨.loadDataReturn, { id := o.id }⟩]
  | .store, _ | .vstore, _ => [⟨.storeAck, { id := o.id }⟩]
  | .atomic, 0 | .fe, 0 => [⟨.loadDataReturn, { id := o.id }⟩]
  | .fe, 3 => [⟨.feRetry, { id := o.id }⟩]
  | .long, _ => [⟨.longResultReady, { id := o.id }⟩]
  | .vec, _ => [⟨.vectorResultWrite, { id := o.id }⟩]
  | .spawn, 0 => [⟨.spawnAnswer, { id := o.id }⟩]
  | .send, 0 => [⟨.messageArrival, { id := o.id }⟩]
  | .send, 3 => [⟨.sendRetry, { id := o.id }⟩]
  | _, _ => []

/-- The step that is due for what travels on the mesh. -/
def flightStep (p : Nat × Flight) : Event :=
  match p.2 with
  | .keyed .. => ⟨.keyedFlitArrival, { id := p.1 }⟩
  | .arrive .. => ⟨.barrierArrivalHop, { id := p.1 }⟩
  | .release .. => ⟨.barrierRelease, { id := p.1 }⟩

/-- The steps that are due on a core: engines, updates, coalescing buffers and BATCH windows whose time has run, window requests. -/
def State.coreSteps (s : State) (c : Nat) (k : Core) : List Event :=
  k.cmds.map (fun m => ⟨if m.running then .engineStep else .engineCommandBegin, { c := c, id := m.id }⟩) ++
  (if k.outq.isEmpty ∧ k.inq.isEmpty then [] else [⟨.flUpdateApply, { c := c }⟩]) ++
  (k.coal.filterMap fun b => if Table.get 0 (2 * b.1 + b.2.1) k.coalClk + 512 ≤ s.dev.clock then
    some ⟨.keyBufferTimeout, { c := c, x := b.2.1, n := b.1 }⟩ else none) ++
  (k.batch.filterMap fun b => if Table.get 0 (16384 * b.1 + b.2) k.batchClk + windowTime (Table.get {} b.1 k.src) ≤ s.dev.clock then
    some ⟨.batchWindowClose, { c := c, n := b.1, m := b.2 }⟩ else none) ++
  if k.vwait.isEmpty then [] else [⟨.vwinGrant, { c := c }⟩]

/-- The step that is due for a slot: leaving it, or its windows (R36); a window brought back for a `ret` stays until that has issued (R209). -/
def threadStep (c h : Nat) (t : Thread) : List Event :=
  match t.st, t.leave with
  | .empty, _ => []
  | .leaving, .migrate .. => [⟨.migrationArrival, { c := c, h := h }⟩]
  | .leaving, _ => [⟨.threadRetirement, { c := c, h := h }⟩]
  | .arriving, _ => [⟨if t.winAt.isEmpty then .migrationArrival else .windowRefill, { c := c, h := h }⟩]
  | _, _ =>
    if !t.winAt.isEmpty then [⟨.windowRefill, { c := c, h := h }⟩]
    else if t.win.length < min 3 t.depth ∧ t.st = .parked ∧ t.pcause = 12 then [⟨.windowRefill, { c := c, h := h }⟩]
    else if 2 < t.win.length ∧ ¬ (t.st = .parked ∧ t.pcause = 12) ∧ ¬ (t.st = .ready ∧ t.released) then [⟨.windowSpill, { c := c, h := h }⟩]
    else []

/-- The steps that are due for a rope (R133, R258). -/
def ropeStep (id : Nat) (r : Rope) : List Event :=
  (r.pend.flatMap fun e =>
    [⟨.ropePendingWrite, { id := id, m := e.m }⟩] ++
    ((List.range e.wrote).filterMap fun b => if e.acked.contains b then none else some ⟨.ropeBankAck, { id := id, m := e.m, n := b }⟩) ++
    if e.counted then (List.range e.wrote).filterMap fun b => if e.merged.contains b then none else some ⟨.ropeMerge, { id := id, m := e.m, n := b }⟩ else []) ++
  if r.st = 3 then [⟨.ropeRelease, { id := id }⟩] else []

/-- The steps that are due for a launch (R357, R358, R365, R421, R425). -/
def launchSteps (n : Launch) : List Event :=
  match n.st with
  | .waiting => [⟨.launchPlace, { id := n.id }⟩]
  | .draining => [⟨.drainEnd, { id := n.id }⟩]
  | .saving => [⟨.saveComplete, { id := n.id }⟩]
  | .saved => if n.back then [⟨.resume, { id := n.id, ok := true }⟩] else []
  | _ => []

/-- The steps that are due for a submission queue: a packet that stands unstarted is looked at again. -/
def queueSteps (q : Nat) (k : SubQ) : List Event :=
  match k.unstarted with
  | some h => [⟨packetStep (pktN h.pkt 0 1), { n := q, ok := true }⟩]
  | none => []

/-- The steps of the hardware and the firmware that are due when an s-cycle has ended: operations in flight, banks, walks, shoot-downs, cores, travelling
threads and packets, ropes, slots, barriers, page migrations, launches and queues (log 3). -/
def State.internal (s : State) : List Event :=
  s.ops.flatMap opStep ++
  (s.bankQ.filter fun p => !p.2.isEmpty).map (fun p => ⟨.bankOperation, { n := p.1 }⟩) ++
  s.clusters.flatMap (fun p => p.2.walks.map fun w => ⟨.tlbWalkComplete, { id := w.id }⟩) ++
  s.shoots.map (fun x => ⟨.shootdownComplete, { id := x.id }⟩) ++
  s.cores.flatMap (fun p => s.coreSteps p.1 p.2) ++
  s.flights.map flightStep ++
  s.ropes.flatMap (fun p => ropeStep p.1 p.2) ++
  s.threads.flatMap (fun p => threadStep (p.1 / 256) (p.1 % 256) p.2) ++
  s.ctxs.flatMap (fun p => p.2.bg.filterMap fun b =>
    if s.coreArrives (p.1 / 2) (p.1 % 2) b.1 then some ⟨.barrierArrivalHop, { c := p.1 / 2, x := p.1 % 2, n := b.1 }⟩ else none) ++
  s.sched.migs.map (fun g => ⟨.pageMigrationLine, { id := g.id }⟩) ++
  s.sched.launches.flatMap launchSteps ++
  s.sched.subq.flatMap (fun p => queueSteps p.1 p.2) ++
  (if s.sched.fabric.isEmpty then [] else [⟨.routerForward, {}⟩]) ++
  if s.mayLeaveApproach then [⟨.approachExit, {}⟩] else []

/-- A task that waits to be head of an instance of another device asks there (R115; log 164). -/
def State.askHeads (s : State) : State :=
  s.threads.foldl (fun s p =>
    let c := p.1 / 256
    let h := p.1 % 256
    match p.2.inst with
    | some i =>
      if i.dev ≠ s.dev.devno ∧ p.2.timed ∧ !p.2.headOk ∧ p.2.st = .parked ∧ (p.2.pcause = 10 ∨ p.2.pcause = 6) ∧ s.reach i.dev ∧
          !((s.opsOf c h).any fun o => o.kind == .home && o.aop == 4) then s.askInstance c h i 4 0 p.2.tstamp
      else s
    | none => s) s

/-- What follows the end of an s-cycle: messages enter the queue registers that have room, the waiting threads are re-tested, and the steps that waited and those
now due are offered. -/
def State.nextCycle (s : State) : State :=
  let s := (distinct (s.ctxs.map fun p => p.1 / 2)).foldl State.moveMessages s
  let s := s.wakeAll.askHeads
  { s with turn := 0, agenda := s.agenda ++ s.laterSteps ++ s.internal, laterSteps := [] }

/-! ### Placing a word where the next step fetches it -/

/-- A state in which slot 0 of core 1 is ready to run `bundle` next, and nothing else may issue before it: a placed context, its text page in
the cluster TLB, the words in HBM (log 7). -/
def State.placedAt (s : State) (bundle : List (BitVec 32)) : State :=
  let c := 1
  let s := s.setCtx c 0 { s.ctx c 0 with placed := true, l := 1, ver := 3, top := 0, left := 1, high := 8, wide := 8, spBase := 256 }
  let s := s.setThread c 0 { st := .ready, uid := 1, hcore := c, pc := 0x10000, sp := BitVec.ofNat 64 (spKey c (256 * 64 + 16 * 256 - 192)), elig := 0
                             snap := { pc := 0x10000, sp := BitVec.ofNat 64 (spKey c (256 * 64 + 16 * 256 - 192)) } }
  let s := s.modLease 1 fun e => { e with text := some ⟨0x10000, 0x10000, 5, true⟩ }
  let s := s.modCluster (clusterOf c) fun k => { k with tlb := [⟨1, 2, 0, 0, 7, 7, false, 0⟩] }
  let s := s.put 0x10000 (bundle.flatMap fun w => toBytes 4 w.toNat)
  { s with agenda := [], turn := 0 }

/-- The bundle that holds a word: itself when L is 1; a C-class word with L 0 is followed by an `anop`, a prefix by a `vmov`, an A-class
word with L 0 follows a `nop`. -/
def bundleOf (w : BitVec 32) : List (BitVec 32) :=
  if w.getLsbD 31 then [w]
  else if w.getLsbD 30 then [0x01000000, w]
  else if isPfx w then [w, 0x7C000000] else [w, 0x40000000]

end Sys2Proof.Machine
end

