-- ==== Sys2Proof/Machine/Step.lean ====
section
/-! DEFINITION. One step of the machine. -/

namespace Sys2Proof.Machine

/-- One step: the oldest waiting event; else the next core that can issue its chosen bundle in this s-cycle; else the end of the s-cycle,
after which the waiting threads are re-tested and the hardware's own steps are due (log 3). -/
def step (s : State) : Host.Outcome State Fault Refusal :=
  match s.agenda with
  | e :: l => exec e.ins { s with agenda := l, arg := e.arg }
  | [] =>
    match (s.liveCores s.turn).findSome? fun c => (s.choose c).map fun p => (c, p) with
    | some (c, p) => s.issueOn c p
    | none => andThen (exec .sCycle { s with arg := {} }) fun r => .next r.nextCycle

/-- `s` with the instruction of a table row, its bits above `nbits` zero, where the next step fetches (log 7). -/
def State.withFetchWord (s : State) (nbits w : Nat) : State := s.placedAt (bundleOf (tableWord nbits w))

end Sys2Proof.Machine
end

