-- ==== Sys2Proof/Safety.lean ====
section
/-! DEFINITION. What counts as a safe run, in the terms that claims use. -/

namespace Sys2Proof.Machine

/-- Memory stands in its one canonical form. -/
def State.MemOk (s : State) : Prop := Memory.wf s.mem = true

/-- An outcome that is a next state. -/
def Completes (o : Host.Outcome State Fault Refusal) : Prop := ∃ t, o = .next t

/-- What a slot's effect comes to: where the word is the whole bundle its end follows, in a pair the bundle ends later (R164). -/
def State.ended (s u : State) : State := if s.latch.mode = .lone then u.finish else u

/-- An A-class word executes: its guard reads 1 or, in a pair, the bundle's does (R167). -/
def State.goesA (s : State) (g : Guard) : Prop := if s.latch.mode = .lone then guardOn g s.cur = true else s.latch.exec = true

/-- A C-class word executes: the bundle's guard reads 1, which holds of every lone word, and its wait slot holds nothing back (R40, R167). -/
def State.goesC (s : State) (w : Nat) : Prop := s.latch.exec = true ∧ waitSlot w s = .ok ((), s)

/-- A fresh operation of the executing thread. -/
def State.newOp (s : State) (k : OpKind) : Op :=
  { id := s.nextOp, kind := k, core := s.latch.core, slot := s.latch.slot, thid := thidOf s.cur, tseq := s.cur.tseq, pc := s.cur.pc }

/-- An operation is under way. -/
def State.withOp (s : State) (o : Op) : State := { s with ops := s.ops ++ [o], nextOp := s.nextOp + 1 }

/-- States that some number of steps leads to. -/
inductive Reaches : State → State → Prop where
  | refl (s : State) : Reaches s s
  | tail {s t u : State} : Reaches s t → step t = .next u → Reaches s u

/-- From `s` on, no step ever stops, and memory keeps its form. -/
def State.Safe (s : State) : Prop := ∀ t, Reaches s t → Completes (step t) ∧ t.MemOk

end Sys2Proof.Machine
end

