-- ==== Sys2Proof/WellFormed.lean ====
section
/-! DEFINITION. Well-formed instructions: those whose every field the spec's entry allows. -/

namespace Sys2Proof

/-- Every field of `i` is one its entry allows (R163, R165, R166, R276): the instructions that decode accepts. -/
abbrev WellFormed (i : Instr) : Prop := legal i = true

/-- The rows of the table that have a word. -/
abbrev HasWord (i : Instr) : Prop := (encodeFields i).isSome = true

end Sys2Proof
end

