-- ==== Sys2Proof/Certificates/Slice0/Obligations.lean ====
section
/-! DEFINITION. The statements for the provers, with the tables of instructions and results that they range over. -/

/-! ### Scalar integer instructions (R165 to R198) -/

namespace Sys2Proof.Claims

open Sys2Proof.Machine

/-- A `.w` form: bits 31:0 of each source, and the 32-bit result sign-extended (R189). -/
def low (f : BitVec 32 → BitVec 32 → BitVec 32) (a b : Word) : Word := (f (a.setWidth 32) (b.setWidth 32)).signExtend 64

/-- Position and count of bits of the field that `b` describes (R193). -/
def fieldOf (b : Word) : Nat × Nat :=
  let pos := b.toNat % 64
  let len := b.toNat / 256 % 64
  (pos, min (if len = 0 then 64 else len) (64 - pos))

/-- `bext` and `bext.s` (R193). -/
def extract (sgn : Bool) (a b : Word) : Word :=
  let (pos, n) := fieldOf b
  let v := a.toNat / 2 ^ pos % 2 ^ n
  if sgn ∧ v.testBit (n - 1) then BitVec.ofInt 64 (v - 2 ^ n) else BitVec.ofNat 64 v

/-- `bins` (R193). -/
def insert (old a b : Word) : Word :=
  let (pos, n) := fieldOf b
  let m : Word := BitVec.ofNat 64 ((2 ^ n - 1) * 2 ^ pos)
  (old &&& ~~~m) ||| ((a <<< pos) &&& m)

/-- The instructions of two sources and one result that is ready at once, form by form, with the result (R189, R193). -/
def twoSource : List ((Guard → Rrr → Instr) × (Word → Word → Word)) := [
  (fun g f => .add g f 0, fun a b => a + b),
  (fun g f => .add g f 1, low fun x y => x + y),
  (fun g f => .sub g f 0, fun a b => a - b),
  (fun g f => .sub g f 1, low fun x y => x - y),
  (fun g f => .mul g f 0, fun a b => a * b),
  (fun g f => .mul g f 1, low fun x y => x * y),
  (fun g f => .min g f 0, fun a b => if a.toInt ≤ b.toInt then a else b),
  (fun g f => .min g f 1, fun a b => if a.toNat ≤ b.toNat then a else b),
  (fun g f => .max g f 0, fun a b => if b.toInt ≤ a.toInt then a else b),
  (fun g f => .max g f 1, fun a b => if b.toNat ≤ a.toNat then a else b),
  (fun g f => .and g f, fun a b => a &&& b),
  (fun g f => .or g f, fun a b => a ||| b),
  (fun g f => .xor g f, fun a b => a ^^^ b),
  (fun g f => .andn g f, fun a b => a &&& ~~~b),
  (fun g f => .shl g f 0, fun a b => a <<< (b.toNat % 64)),
  (fun g f => .shl g f 1, low fun x y => x <<< (y.toNat % 32)),
  (fun g f => .shr g f 0, fun a b => a >>> (b.toNat % 64)),
  (fun g f => .shr g f 1, low fun x y => x >>> (y.toNat % 32)),
  (fun g f => .sar g f 0, fun a b => a.sshiftRight (b.toNat % 64)),
  (fun g f => .sar g f 1, low fun x y => x.sshiftRight (y.toNat % 32)),
  (fun g f => .lea g f 0, fun a b => a + (b <<< 2)),
  (fun g f => .lea g f 1, fun a b => a + (b <<< 3)),
  (fun g f => .bext g f 0, extract false),
  (fun g f => .bext g f 1, extract true)]

/-- Quotient and remainder (R190). -/
def divided (u : Bool) (a b : Word) : Word × Word :=
  if b = 0 then (0xFFFFFFFFFFFFFFFF, a)
  else if u = false ∧ a.toInt = -2 ^ 63 ∧ b.toInt = -1 then (a, 0)
  else
    let q : Word := if u then a / b else BitVec.ofInt 64 (a.toInt.tdiv b.toInt)
    (q, a - q * b)

/-- The slow instructions of two sources: their results come with LONG_RESULT_READY (R188 to R190). -/
def slowTwo : List ((Guard → Rrr → Instr) × (Word → Word → Word)) := [
  (fun g f => .mulh g f 0, fun a b => BitVec.ofInt 64 (a.toInt * b.toInt / 2 ^ 64)),
  (fun g f => .mulh g f 1, fun a b => BitVec.ofNat 64 (a.toNat * b.toNat / 2 ^ 64)),
  (fun g f => .div g f 0, fun a b => (divided false a b).1),
  (fun g f => .div g f 1, fun a b => (divided true a b).1),
  (fun g f => .rem g f 0, fun a b => (divided false a b).2),
  (fun g f => .rem g f 1, fun a b => (divided true a b).2)]

/-- Zeros above the highest 1, zeros below the lowest 1, and 1 bits, among the `w` low bits (R194). -/
def leading (w v : Nat) : Nat := (List.range w).countP fun i => decide (v % 2 ^ w < 2 ^ i)
def trailing (w v : Nat) : Nat := (List.range w).countP fun i => decide (v % 2 ^ (i + 1) = 0)
def population (w v : Nat) : Nat := (List.range w).countP v.testBit

/-- The instructions of one source, an immediate and one result (R191, R194). -/
def oneSource (imm : BitVec 7) (n : BitVec 6) : List ((Guard → BitVec 6 → BitVec 6 → Instr) × (Word → Word)) := [
  (fun g d a => .addi g d a imm, fun v => v + imm.signExtend 64),
  (fun g d a => .andi g d a imm, fun v => v &&& imm.signExtend 64),
  (fun g d a => .ori g d a imm, fun v => v ||| imm.signExtend 64),
  (fun g d a => .xori g d a imm, fun v => v ^^^ imm.signExtend 64),
  (fun g d a => .shli g d a n, fun v => v <<< n.toNat),
  (fun g d a => .shri g d a n, fun v => v >>> n.toNat),
  (fun g d a => .sari g d a n, fun v => v.sshiftRight n.toNat),
  (fun g d a => .clz g d a 0, fun v => BitVec.ofNat 64 (leading 64 v.toNat)),
  (fun g d a => .clz g d a 1, fun v => BitVec.ofNat 64 (leading 32 v.toNat)),
  (fun g d a => .ctz g d a 0, fun v => BitVec.ofNat 64 (trailing 64 v.toNat)),
  (fun g d a => .ctz g d a 1, fun v => BitVec.ofNat 64 (trailing 32 v.toNat)),
  (fun g d a => .popc g d a 0, fun v => BitVec.ofNat 64 (population 64 v.toNat)),
  (fun g d a => .popc g d a 1, fun v => BitVec.ofNat 64 (population 32 v.toNat))]

/-- The conditions of `cmp` and `cmpi` (R195). -/
def holds (cc : Nat) (a b : Word) : Bool :=
  match cc with
  | 0 => decide (a = b)
  | 1 => decide (a ≠ b)
  | 2 => decide (a.toInt < b.toInt)
  | 3 => decide (b.toInt ≤ a.toInt)
  | 4 => decide (a.toNat < b.toNat)
  | 5 => decide (b.toNat ≤ a.toNat)
  | _ => decide (a &&& b ≠ 0)

/-- The executing thread's predicate word with p`d` written; p0 is never written (R39). -/
def predWritten (s : State) (d : BitVec 4) (v : Bool) : State :=
  s.modCur fun t => { t with pred := if d = 0 then t.pred else if v then t.pred ||| (1#16 <<< d.toNat) else t.pred &&& ~~~(1#16 <<< d.toNat) }

/-- Predicate `p`, inverted where `n` is 1, as it stood before the bundle (R164, R196). -/
def predIs (s : State) (p : BitVec 4) (n : BitVec 1) : Bool := s.pre.pred.getLsbD p.toNat ^^ decide (n = 1)

end Sys2Proof.Claims

section
open Sys2Proof Sys2Proof.Machine Sys2Proof.Claims

/-- R187, R189, R193: where a word executes, its sources can be read and its destination takes the result, it completes, and the result is
the one its row gives. Sources are read before the destination is written. They are `add`, `sub`, `mul`, `min`, `max`, `and`, `or`, `xor`, `andn`, `shl`, `shr`, `sar`, `lea` and `bext`. -/
def Sys2Proof.Claims.ScalarTwoSourceResult : Prop :=
  ∀ p ∈ twoSource, ∀ (g : Guard) (f : Rrr) (s u v t : State) (a b : Word), s.goesA g →
    src f.a s = .ok (a, u) → src f.b u = .ok (b, v) → dest f.d (p.2 a b) v = .ok ((), t) →
    exec (p.1 g f) s = .next (s.ended t)

/-- R188 to R190: a slow instruction completes its issue with the destination pending on an operation that carries its result. They are `mulh`, `div` and `rem`. -/
def Sys2Proof.Claims.ScalarSlowResult : Prop :=
  ∀ p ∈ slowTwo, ∀ (g : Guard) (f : Rrr) (s u v t : State) (a b : Word) (r : Dest), s.goesA g →
    src f.a s = .ok (a, u) → src f.b u = .ok (b, v) → reserve f.d.toNat v.nextOp v = .ok (r, t) →
    exec (p.1 g f) s = .next (s.ended (t.withOp { t.newOp .long with dest := r, data := (p.2 a b).setWidth 4096 }))

/-- R191, R194: the immediate forms and the bit counts. They are `addi`, `andi`, `ori`, `xori`, `shli`, `shri`, `sari`, `clz`, `ctz` and `popc`. -/
def Sys2Proof.Claims.ScalarOneSourceResult : Prop :=
  ∀ (imm : BitVec 7) (n : BitVec 6), ∀ p ∈ oneSource imm n, ∀ (g : Guard) (d a : BitVec 6) (s u t : State) (v : Word), s.goesA g →
    src a s = .ok (v, u) → dest d (p.2 v) u = .ok ((), t) →
    exec (p.1 g d a) s = .next (s.ended t)

/-- R192, R193, R197, R198: constants, `bins`, `sel`, `ppack` and `punpack`, and `anop` (R173). `movi` and `movhi` are C-class. -/
def Sys2Proof.Claims.ScalarMoveResult : Prop :=
  (∀ (g : Guard) (s : State), s.goesA g → exec (.anop g) s = .next (s.ended s)) ∧
  (∀ (d : BitVec 6) (imm : BitVec 18) (s t : State), s.goesC 0 → dest d (imm.signExtend 64) s = .ok ((), t) →
    exec (.movi d imm) s = .next (s.ended t)) ∧
  (∀ (d : BitVec 6) (imm : BitVec 18) (s u t : State) (old : Word), s.goesC 0 → src d s = .ok (old, u) →
    dest d ((old <<< 18) ||| imm.zeroExtend 64) u = .ok ((), t) → exec (.movhi d imm) s = .next (s.ended t)) ∧
  (∀ (g : Guard) (f : Rrr) (s u v w t : State) (old a b : Word), s.goesA g → src f.d s = .ok (old, u) → src f.a u = .ok (a, v) →
    src f.b v = .ok (b, w) → dest f.d (Claims.insert old a b) w = .ok ((), t) → exec (.bins g f) s = .next (s.ended t)) ∧
  (∀ (g : Guard) (p : BitVec 4) (n : BitVec 1) (a b : BitVec 6) (s u v t : State) (x y : Word), s.goesA g → src a s = .ok (x, u) →
    src b u = .ok (y, v) → push (if predIs v p n then x else y) v = .ok ((), t) → exec (.sel g p n a b) s = .next (s.ended t)) ∧
  (∀ (g : Guard) (d a : BitVec 6) (j : BitVec 2) (s u t : State) (x : Word), s.goesA g → src a s = .ok (x, u) →
    dest d ((x &&& ~~~(0xFFFF#64 <<< (16 * j.toNat))) ||| (u.pre.pred.setWidth 64 <<< (16 * j.toNat))) u = .ok ((), t) →
    exec (.ppack g d a j) s = .next (s.ended t)) ∧
  (∀ (g : Guard) (a : BitVec 6) (j : BitVec 2) (s u : State) (x : Word), s.goesA g → src a s = .ok (x, u) →
    exec (.punpack g a j) s = .next (s.ended (u.modCur fun t => { t with pred := (x >>> (16 * j.toNat)).setWidth 16 ||| 1 })))

/-- R195, R196: compares and predicate logic write one predicate, p0 excepted, and nothing else. -/
def Sys2Proof.Claims.PredicateResult : Prop :=
  (∀ (g : Guard) (p : BitVec 4) (a b : BitVec 6) (c : BitVec 3) (s u v : State) (x y : Word), s.goesA g → src a s = .ok (x, u) →
    src b u = .ok (y, v) → exec (.cmp g p a b c) s = .next (s.ended (predWritten v p (holds c.toNat x y)))) ∧
  (∀ (g : Guard) (p : BitVec 4) (a imm : BitVec 6) (c : BitVec 3) (s u : State) (x : Word), s.goesA g → src a s = .ok (x, u) →
    exec (.cmpi g p a imm c) s = .next (s.ended (predWritten u p (holds c.toNat x (imm.signExtend 64))))) ∧
  (∀ (g : Guard) (f : Pp) (s : State), s.goesA g →
    exec (.pand g f) s = .next (s.ended (predWritten s f.d (predIs s f.a f.e && predIs s f.b f.f))) ∧
    exec (.por g f) s = .next (s.ended (predWritten s f.d (predIs s f.a f.e || predIs s f.b f.f))) ∧
    exec (.pxor g f) s = .next (s.ended (predWritten s f.d (predIs s f.a f.e ^^ predIs s f.b f.f)))) ∧
  (∀ (g : Guard) (d : BitVec 4) (e : BitVec 1) (a : BitVec 4) (s : State), s.goesA g →
    exec (.pnot g d e a) s = .next (s.ended (predWritten s d (!predIs s a e))))

end


/-! ### Scalar FP32 (R149, R199 to R202) -/

namespace Sys2Proof.Claims

open Sys2Proof.Machine

/-- The rounding of a thread's FPC in mode `rm` (R61, R154): FZI and FZO as FPC has them. -/
def roundingIn (s : State) (rm : Nat) (sat : Bool) (g : Nat) : Rnd := ⟨rm, fpcFZI s.pre.fpc, fpcFZO s.pre.fpc, sat, g⟩

/-- One step of the thread's generator, seen by what comes later in the bundle and by TSR (R149). -/
def stepped (s : State) : BitVec 32 × State :=
  let x := srStep (s.latch.sr.getD s.pre.srst)
  (x, { s with latch := { s.latch with sr := some x } }.modCur fun t => { t with srst := x })

/-- The rounding that a scalar instruction takes, and the state after it: in SR the generator steps once, in every other mode it stands
(R149, R199). -/
def rounding (s : State) (rm : Nat) (sat : Bool) : Rnd × State :=
  if rm = 5 then let (x, u) := stepped s; (roundingIn s 5 sat (x.toNat % 65536), u) else (roundingIn s rm sat 0, s)

def modeOf (s : State) : Nat := fpcRM s.pre.fpc

/-- Two FP32 sources and one rounded result (R199). -/
def floatTwo : List ((Guard → Rrr → Instr) × (Nat → Val → Val → Val)) := [
  (fun g f => .fadd g f, fun rm a b => a.add rm b),
  (fun g f => .fsub g f, fun rm a b => a.add rm b.neg),
  (fun g f => .fmul g f, fun _ a b => a.mul b)]

/-- The result, zero-extended to 64 bits (R199). -/
def floatBits (r : Rnd) (v : Val) : Word := BitVec.ofNat 64 (encFp fp32 r v)

/-- Source and result of the conversion codes, in their order (R202). -/
def conversions : List (Ty × Ty) := [
  (.fp fp32, .int true 32), (.fp fp32, .int false 32), (.int true 32, .fp fp32), (.int false 32, .fp fp32), (.fp fp32, .int true 64),
  (.int true 64, .fp fp32), (.fp fp32, .fp bf16), (.fp bf16, .fp fp32), (.fp fp32, .fp fp16), (.fp fp16, .fp fp32)]

end Sys2Proof.Claims

section
open Sys2Proof Sys2Proof.Machine Sys2Proof.Claims

/-- R199 to R201: the exact result is rounded once in FPC.RM, SRST steps once in SR and not otherwise; `fmin`, `fmax` and `fcmp` neither
round nor step. The operands are bits 31:0 of the sources. Each of `fadd`, `fsub`, `fmul`, `ffma`, `fmin`, `fmax` and `fcmp` completes. -/
def Sys2Proof.Claims.FloatResult : Prop :=
  (∀ p ∈ floatTwo, ∀ (g : Guard) (f : Rrr) (s u v t : State) (a b : Val), s.goesA g → srcF f.a s = .ok (a, u) → srcF f.b u = .ok (b, v) →
    dest f.d (floatBits (rounding v (modeOf v) false).1 (p.2 (modeOf v) a b)) (rounding v (modeOf v) false).2 = .ok ((), t) →
    exec (p.1 g f) s = .next (s.ended t)) ∧
  (∀ (g : Guard) (f : Rrr) (s u v w t : State) (old a b : Val), s.goesA g → srcF f.d s = .ok (old, u) → srcF f.a u = .ok (a, v) →
    srcF f.b v = .ok (b, w) →
    dest f.d (floatBits (rounding w (modeOf w) false).1 (old.add (modeOf w) (a.mul b))) (rounding w (modeOf w) false).2 = .ok ((), t) →
    exec (.ffma g f) s = .next (s.ended t)) ∧
  (∀ (g : Guard) (f : Rrr) (s u v t : State) (a b : Val), s.goesA g → srcF f.a s = .ok (a, u) → srcF f.b u = .ok (b, v) →
    (dest f.d (floatBits (roundingIn v 1 false 0) (a.minMax false b)) v = .ok ((), t) → exec (.fmin g f) s = .next (s.ended t)) ∧
    (dest f.d (floatBits (roundingIn v 1 false 0) (a.minMax true b)) v = .ok ((), t) → exec (.fmax g f) s = .next (s.ended t))) ∧
  (∀ (g : Guard) (p : BitVec 4) (a b : BitVec 6) (c : BitVec 3) (s u v : State) (x y : Val), s.goesA g → srcF a s = .ok (x, u) →
    srcF b u = .ok (y, v) → exec (.fcmp g p a b c) s = .next (s.ended (predWritten v p (x.cmp c.toNat y))))

/-- R188, R199, R202: `fdiv` and `fsqrt` leave their destination pending on an operation that carries the rounded result; `fcvt` converts by its
code, towards zero under `.rtz`, with I32 results sign-extended and all others zero-extended. -/
def Sys2Proof.Claims.FloatDivideConvert : Prop :=
  (∀ (g : Guard) (f : Rrr) (s u v t : State) (a b : Val) (r : Dest), s.goesA g → srcF f.a s = .ok (a, u) → srcF f.b u = .ok (b, v) →
    reserve f.d.toNat (rounding v (modeOf v) false).2.nextOp (rounding v (modeOf v) false).2 = .ok (r, t) →
    exec (.fdiv g f) s = .next (s.ended (t.withOp
      { t.newOp .long with dest := r, data := (floatBits (rounding v (modeOf v) false).1 (a.div b)).setWidth 4096 }))) ∧
  (∀ (g : Guard) (d a : BitVec 6) (s u t : State) (x : Val) (r : Dest), s.goesA g → srcF a s = .ok (x, u) →
    reserve d.toNat (rounding u (modeOf u) false).2.nextOp (rounding u (modeOf u) false).2 = .ok (r, t) →
    exec (.fsqrt g d a) s = .next (s.ended (t.withOp
      { t.newOp .long with dest := r, data := (floatBits (rounding u (modeOf u) false).1 x.sqrt).setWidth 4096 }))) ∧
  (∀ (g : Guard) (d a k : BitVec 6) (x : BitVec 1) (s u t : State) (v : Word) (c : Ty × Ty), s.goesA g → conversions[k.toNat]? = some c →
    src a s = .ok (v, u) →
    (let q := rounding u (if x = 1 then 1 else modeOf u) (fpcSATN u.pre.fpc)
     let e := convTy c.1 c.2 q.1 (v.toNat % 2 ^ c.1.width)
     dest d (if k = 0 then (BitVec.ofNat 32 e).signExtend 64 else BitVec.ofNat 64 e) q.2 = .ok ((), t)) →
    exec (.fcvt g d a k x) s = .next (s.ended t))

/-- R149: the generator never comes to 0 from a value other than 0, and no two values step to one. -/
def Sys2Proof.Claims.GeneratorNeverZero : Prop :=
  (∀ x : BitVec 32, x ≠ 0 → srStep x ≠ 0) ∧ ∀ x y : BitVec 32, srStep x = srStep y → x = y

end


/-! ### Control flow, windows, traps and waits (R164, R203 to R214, R47, R216, R411) -/

namespace Sys2Proof.Claims

open Sys2Proof.Machine

/-- What a C-slot leaves for the end of its bundle (R164). -/
def leaving (s : State) (d : Defer) : State := { s with latch := { s.latch with defer := d } }

/-- A slot traps: alone, the exception is taken; in a pair it stands for the bundle to decide (R8, R409). -/
def trapped (s : State) (code : Nat) (tval : Word) (aslot : Bool) : State :=
  if s.latch.mode = .lone then s.takeException s.latch.core s.latch.slot (s.causeOf code tval aslot) else s.slotStopped (.trap code tval)

/-- A slot parks with a cause: alone, the thread parks; in a pair the bundle does (R164, R337). -/
def parked (s : State) (cause : Nat) : State :=
  if s.latch.mode = .lone then s.parkCur cause else { s with latch := { s.latch with res := .park cause } }

/-- A slot parks with a cause, having started its wait, which leaves the state `q` (R164, R337). -/
def waiting (s q : State) (cause : Nat) : State :=
  if s.latch.mode = .lone then q.parkCur cause else { q with latch := { q.latch with res := .wait cause } }

/-- The thread's request goes to another device, and the thread waits for the answer to it (R246, R255, R438). -/
def asked (s : State) (dev code : Nat) (ws : List Word) : State :=
  ({ s with nextOp := s.nextOp + 1 }.modCur fun t => { t with wait := .reply s.nextOp dev }).tell dev code s.nextOp ws

/-- The executing thread waits for nothing any more. -/
def calm (s : State) : State := s.modCur fun t => { t with wait := .none }

/-- The target of a PC-relative transfer: the bundle's address plus 4 times the offset (R204, R205, R207). -/
def relative (s : State) (n : Nat) (off : BitVec n) : Word := s.cur.pc + (off.signExtend 64 <<< 2)

/-- `RoomCheck()` (R210): the state with the window's storage assigned, or none where it traps. -/
def room (s : State) : Option State :=
  let t := s.cur
  if 65535 ≤ t.depth then none
  else if ¬ t.depth + 1 > 2 then some s
  else if t.oc = 0 ∧ s.bivB t + 64 * (t.sc + 1) ≤ t.sp.toNat then some (s.modCur fun t => { t with sc := t.sc + 1 })
  else if t.x = 0 ∧ t.oc + 1 ≤ (s.homeArea t).2.2.2 then some (s.modCur fun t => { t with oc := t.oc + 1 })
  else none

/-- k4 to k7 at zero, every other register kept (R207, R411). -/
def zeroed (k : Table Word) : Table Word := Table.set 7 0 (Table.set 6 0 (Table.set 5 0 (Table.set 4 0 k)))

/-- The open task ends, as `tend` ends it, and commits; none where it must wait or take a fault first (R31, R110, R114, R238). -/
def ends (s : State) : Option State :=
  if s.cur.task = false then some s
  else if badEntry s.pre = none ∧ s.commitWait s.latch.core s.latch.slot = none then some (s.commit s.latch.core s.latch.slot)
  else none

end Sys2Proof.Claims

section
open Sys2Proof Sys2Proof.Machine Sys2Proof.Claims

/-- R203 to R205: `nop` does nothing; `br`, `jmp` and `jmpr` leave their target for the end of the bundle, `br` where its predicate, inverted by N, reads 1. Each of
the four completes wherever its word executes and, for `jmpr`, its register can be read. -/
def Sys2Proof.Claims.JumpsAndBranches : Prop :=
  ∀ s : State, s.goesC 0 →
    exec .nop s = .next (s.ended s) ∧
    (∀ (n : BitVec 1) (p : BitVec 4) (o : BitVec 19),
      exec (.br n p o) s = .next (s.ended (if predIs s p n then leaving s (.jump (relative s 19 o)) else s))) ∧
    (∀ o : BitVec 24, exec (.jmp o) s = .next (s.ended (leaving s (.jump (relative s 24 o))))) ∧
    (∀ (a : BitVec 6) (u : State) (v : Word), src a s = .ok (v, u) → exec (.jmpr a) s = .next (s.ended (leaving u (.jump v))))

/-- R161, R164, R206: at the end of a lone bundle the PC goes to the bundle after it, or to the target left, at which the framing checks name this
bundle; nothing else of the thread, no other thread, and no byte of memory changes. -/
def Sys2Proof.Claims.BundleEnds : Prop :=
  ∀ s : State,
    (s.latch.defer = .no → s.finish.cur = { s.cur with pc := s.cur.pc + BitVec.ofNat 64 s.latch.len, src := none }) ∧
    (∀ v, s.latch.defer = .jump v → s.finish.cur = { s.cur with pc := v, src := some s.cur.pc }) ∧
    (s.latch.defer = .no ∨ (∃ v, s.latch.defer = .jump v) →
      (∀ c h, ¬ (c = s.latch.core ∧ h = s.latch.slot) → h < 256 → s.latch.slot < 256 → s.finish.thread c h = s.thread c h) ∧
      ∀ a, s.finish.byte a = s.byte a)

/-- R188, R207, R210: `call` and `callr` complete where there is room and no register that they save is pending, park on a pending one, and trap STACK_LIMIT with
sp in TVAL where there is no room, before any state changes. -/
def Sys2Proof.Claims.CallResult : Prop :=
  ∀ s : State, s.goesC 0 →
    (windowPending false s.pre = false →
      (∀ (o : BitVec 24) (u : State), room s = some u → exec (.call o) s = .next (s.ended (leaving u (.call (relative s 24 o))))) ∧
      (∀ o : BitVec 24, room s = none → exec (.call o) s = .next (trapped s 0x07 s.cur.sp false))) ∧
    (windowPending false s.pre = true → ∀ o : BitVec 24, exec (.call o) s = .next (parked s 0)) ∧
    (∀ (a : BitVec 6) (v : Word) (r : State), src a s = .ok (v, r) →
      (windowPending false r.pre = false →
        (∀ u : State, room r = some u → exec (.callr a) s = .next (s.ended (leaving u (.call v)))) ∧
        (room r = none → exec (.callr a) s = .next (trapped s 0x07 r.cur.sp false))) ∧
      (windowPending false r.pre = true → exec (.callr a) s = .next (parked s 0)))

/-- R164, R207: at the end of its bundle a call pushes a window of k4 to k7, the return PC, sp and the predicate word, zeroes k4 to k7, and goes to its
target; sp, k0 to k3, the predicate word and the result queue pass unchanged. A register that the bundle's other slot has made pending is filled in the window. -/
def Sys2Proof.Claims.CallPushesWindow : Prop :=
  ∀ (s : State) (target : Word), s.latch.defer = .call target →
    let t := s.cur
    s.finish.cur = { t with
      win := ⟨Table.get 0 4 t.k, Table.get 0 5 t.k, Table.get 0 6 t.k, Table.get 0 7 t.k, t.pc + BitVec.ofNat 64 s.latch.len, t.sp, t.pred⟩ :: t.win
      depth := t.depth + 1, k := zeroed t.k, regPend := t.regPend.map (savedPend (t.depth + 1)), src := some t.pc, pc := target }

/-- R188, R209, R236: `ret` completes where its windows are resident, no register that it restores is pending, and it stays at or above the depth at which the open task
began, or ends an implicit task below that depth; at depth 0, and below that depth in a task that `tbeg` opened, it traps ILLEGAL_OP with its word in TVAL. On a pending
register, and where a window has left the core, it parks. -/
def Sys2Proof.Claims.ReturnResult : Prop :=
  ∀ s : State, s.goesC 0 →
    (windowPending true s.cur = false → 0 < s.cur.depth → min 3 s.cur.depth ≤ s.cur.win.length →
      (s.cur.snap.depth ≤ s.cur.depth - 1 → exec .ret s = .next (s.ended (leaving s .ret))) ∧
      (∀ u, s.cur.depth - 1 < s.cur.snap.depth → s.cur.begun = false → ends s = some u → exec .ret s = .next (s.ended (leaving u .retOpen)))) ∧
    (0 < s.cur.depth → s.cur.snap.depth ≤ s.cur.depth - 1 ∨ s.cur.begun = false →
      (windowPending true s.cur = true → exec .ret s = .next (parked s 0)) ∧
      (windowPending true s.cur = false → s.latch.skip = 0 → s.cur.win.length < min 3 s.cur.depth → exec .ret s = .next (parked s 12))) ∧
    (s.cur.depth = 0 ∨ (s.cur.depth - 1 < s.cur.snap.depth ∧ s.cur.begun = true) →
      exec .ret s = .next (trapped s 0x10 (s.latch.word.setWidth 64) false))

/-- R209: at the end of its bundle a `ret` pops the top window into k4 to k7, sp, the predicate word and the PC, and above depth 2 releases the
storage assigned last. -/
def Sys2Proof.Claims.ReturnPopsWindow : Prop :=
  ∀ (s : State) (w : Window) (l : List Window), s.latch.defer = .ret → s.cur.win = w :: l →
    let t := s.cur
    let u := s.finish.cur
    u.win = l ∧ u.depth = t.depth - 1 ∧ u.sp = w.sp ∧ u.pred = w.pred ||| 1 ∧ u.pc = w.ret ∧ u.src = some t.pc ∧
    (∀ i, Table.get 0 i u.k = if i = 4 then w.k4 else if i = 5 then w.k5 else if i = 6 then w.k6 else if i = 7 then w.k7 else Table.get 0 i t.k) ∧
    (u.sc, u.oc) = (if 2 < t.depth then (if 0 < t.oc then (t.sc, t.oc - 1) else (t.sc - 1, 0)) else (t.sc, t.oc)) ∧
    u.t = t.t ∧ s.finish.mem = s.mem

/-- R211: `frame` moves sp within the frame area, and traps STACK_LIMIT outside it; sp is no operand that is pending. -/
def Sys2Proof.Claims.FrameResult : Prop :=
  ∀ (s : State) (imm : BitVec 18), s.goesC 0 → (s.pre.regPend.any fun p => p.1 == 37) = false →
    let n := s.pre.sp - 8 * imm.signExtend 64
    if n.toNat < s.bivB s.pre + 64 * s.pre.sc ∨ s.bivFT s.pre < n.toNat then exec (.frame imm) s = .next (trapped s 0x07 s.pre.sp false)
    else exec (.frame imm) s = .next (s.ended (s.modCur fun t => { t with sp := n }))

/-- R212, R218: `trap` and `bkpt` raise their causes, TVAL holding the code and above it the bundle's length in bytes. -/
def Sys2Proof.Claims.TrapInstructions : Prop :=
  ∀ (s : State) (c : BitVec 12), s.goesC 0 →
    exec (.trap c) s = .next (trapped s 0x01 (BitVec.ofNat 64 (c.toNat + 4096 * s.latch.len)) false) ∧
    exec (.bkpt c) s = .next (trapped s 0x02 (BitVec.ofNat 64 (c.toNat + 4096 * s.latch.len)) false)

/-- R37, R47, R60, R411: a user-recoverable cause with no entry pending or faulted is delivered: TPC, sp, TVAL, the predicate word, TCAUSE and k4 to k7
go to the trap window and t0 to t15 to the trap queue save 128 bytes below it, k4 to k7 become zero, INTRAP is set and the thread starts at TVEC; the depth, the
task and the result queue stand, and so does every byte of memory outside those 192. Where the thread's home lies on another device its bytes go there by message, and no byte of
this device's memory changes. -/
def Sys2Proof.Claims.ExceptionEntered : Prop :=
  ∀ (s : State) (c h : Nat) (z : Cause), s.MemOk → s.classAt c h z = 0 → hasPending (s.thread c h) = false → badEntry (s.thread c h) = none →
    (z.code = 2 → s.dev.xBken = false) →
    let t := s.thread c h
    let r := s.takeException c h z
    let u := r.thread c h
    let w := s.trapWin t
    128 ≤ w →
    u.pc = t.tvec ∧ u.intrap = true ∧ u.st = .ready ∧ u.k = zeroed t.k ∧ u.sp = t.sp ∧ u.pred = t.pred ∧ u.t = t.t ∧ u.depth = t.depth ∧
    u.task = t.task ∧ u.snap = t.snap ∧ u.mem = t.mem ∧ u.trapDepth = t.depth ∧ (s.foreign t = true → r.mem = s.mem) ∧
    (s.foreign t = false →
    (∀ i < 4, r.word (w + 8 * i) 8 = (Table.get 0 (4 + i) t.k).toNat) ∧ r.word (w + 32) 8 = z.pc.toNat ∧ r.word (w + 40) 8 = t.sp.toNat ∧
    r.word (w + 48) 8 = z.tval.toNat ∧ r.word (w + 56) 2 = t.pred.toNat ∧ r.word (w + 60) 4 = tcause z % 2 ^ 32 ∧
    (∀ i < 16, r.word (w - 128 + 8 * i) 8 = (entVal (t.t.getD i (.val 0))).toNat) ∧
    (∀ a, a < w - 128 ∨ w + 64 ≤ a → r.byte a = s.byte a))

/-- R37, R47, R216, R411: `rte` in a handler at the depth of its delivery completes; at the bundle's end t0 to t15, k4 to k7, sp and the predicate word
are restored, INTRAP is clear and the thread resumes at TPC. Outside a handler, or at another depth, it traps ILLEGAL_OP. A thread whose home lies on another device first asks there
for what was saved, and goes on with the answer. -/
def Obligations.ExceptionReturn : Prop :=
  (∀ s : State, s.goesC 0 → s.pre.intrap = true → s.pre.depth = s.pre.trapDepth →
    (s.pre.regPend.any fun p => p.1 == 37 || decide (20 ≤ p.1 ∧ p.1 < 24)) = false → badEntry s.pre = none →
    (s.foreign s.pre = false → exec .rte s = .next (s.ended (leaving s .rte))) ∧
    (s.foreign s.pre = true → s.cur.wait = .none → s.latch.skip = 0 → s.reach s.pre.hdev = true →
      exec .rte s = .next (waiting s (asked s s.pre.hdev 11 [BitVec.ofNat 64 (thidOf s.pre), BitVec.ofNat 64 (s.trapWin s.pre - 128), 192]) 6)) ∧
    (∀ ws, s.foreign s.pre = true → s.cur.wait = .got (0 :: ws) → exec .rte s = .next (s.ended (leaving ((calm s).modCur fun t => { t with wait := .got (0 :: ws) }) .rte)))) ∧
  (∀ s : State, s.goesC 0 → s.pre.intrap = false ∨ s.pre.depth ≠ s.pre.trapDepth →
    exec .rte s = .next (trapped s 0x10 (s.latch.word.setWidth 64) false)) ∧
  (∀ (s : State) (ws : List Word), s.latch.defer = .rte → s.cur.wait = .got (0 :: ws) →
    (∀ i < 16, s.finish.cur.t[i]? = some (.val (ws.getD i 0))) ∧ s.finish.cur.pc = ws.getD 20 0 ∧ s.finish.cur.intrap = false) ∧
  (∀ s : State, s.latch.defer = .rte → (∀ ws, s.cur.wait ≠ .got ws) →
    let t := s.cur
    let u := s.finish.cur
    let w := s.trapWin t
    u.intrap = false ∧ u.pc = BitVec.ofNat 64 (s.word (w + 32) 8) ∧ u.sp = BitVec.ofNat 64 (s.word (w + 40) 8) ∧
    u.pred = BitVec.ofNat 16 (s.word (w + 56) 2) ||| 1 ∧
    (∀ i < 16, u.t[i]? = some (.val (BitVec.ofNat 64 (s.word (w - 128 + 8 * i) 8)))) ∧
    (∀ i < 4, Table.get 0 (4 + i) u.k = BitVec.ofNat 64 (s.word (w + 8 * i) 8)) ∧ (∀ i < 4, Table.get 0 i u.k = Table.get 0 i t.k) ∧
    u.depth = t.depth ∧ s.finish.mem = s.mem)

/-- R213: a sleep whose target has been reached at issue does not park; another parks with its target fixed at its first issue; a sleeper whose target
has come goes on. -/
def Sys2Proof.Claims.SleepResult : Prop :=
  ∀ (a : BitVec 6) (s u : State) (v : Word), s.goesC 0 → src a s = .ok (v, u) →
    ((∀ g, u.cur.wait ≠ .sleep g) →
      (v.toNat ≤ u.dev.clock → exec (.sleep a) s = .next (s.ended u)) ∧
      (s.latch.skip = 0 → u.dev.clock < v.toNat →
        exec (.sleep a) s = .next (waiting s (s.modCur fun t => { t with wait := .sleep v.toNat }) 9)) ∧
      (s.dev.clock + v.toNat ≤ u.dev.clock → exec (.sleepRel a) s = .next (s.ended u)) ∧
      (s.latch.skip = 0 → u.dev.clock < s.dev.clock + v.toNat →
        exec (.sleepRel a) s = .next (waiting s (s.modCur fun t => { t with wait := .sleep (s.dev.clock + v.toNat) }) 9))) ∧
    (∀ g, u.cur.wait = .sleep g → g ≤ u.dev.clock → (∀ p ∈ u.cur.promises, u.dev.clock < p.1) →
      exec (.sleep a) s = .next (s.ended (u.modCur fun t => { t with wait := .none })) ∧
      exec (.sleepRel a) s = .next (s.ended (u.modCur fun t => { t with wait := .none })))

/-- R214: `yield` sets the ageing credit and the time spent ready to zero, and nothing else. -/
def Sys2Proof.Claims.YieldResult : Prop :=
  ∀ s : State, s.goesC 0 → exec .yield s = .next (s.ended (s.modCur fun t => { t with cr := 0, acc := 0, rs := s.dev.clock }))

/-- R167: an A-class word whose guard, which its bits 23 to 19 name, reads 0 has no effect, whichever of the A-class instructions it holds: alone it only lets the bundle end, in
a pair it leaves all as it was. -/
def Sys2Proof.Claims.GuardOff : Prop :=
  ∀ (s : State) (i : Instr) (w : BitVec 32), encode 1#1 i = some w → w.getLsbD 30 = true →
    (if s.latch.mode = .lone then guardOn (guardOf (w.extractLsb' 0 24)) s.cur = false else s.latch.exec = false) →
    exec i s = .next (if s.latch.mode = .lone then s.finish else s)

end


/-! ### Loads, stores, atomics, fences (R40, R77, R111, R112, R119, R120, R224 to R234, R295 to R298) -/

namespace Sys2Proof.Claims

open Sys2Proof.Machine

/-- The set slot raised, where its count has room (R40). -/
def raised (s : State) (sb : Nat) : Option State :=
  if sb = 0 then some s
  else if Table.get 0 sb s.cur.sb < 15 then some (s.modCur fun t => { t with sb := Table.set sb (Table.get 0 sb t.sb + 1) t.sb })
  else none

/-- No earlier atomic of a scope wider than thread is waiting to be performed (R120). -/
def ordered (s : State) : Prop := (s.opsOf s.latch.core s.latch.slot).any wideOp = false

/-- Every earlier access of the thread is performed (R119). -/
def performed (s : State) : Prop := s.accessesOf s.latch.core s.latch.slot = []

/-- An access of `n` bytes passes the checks of R77 that are made at issue. -/
def allowed (s : State) (va : Word) (n align kind : Nat) : Prop := s.accessErr s.latch.core s.pre va.toNat (va.toNat + n - 1) align kind = none

/-- A global address whose region's token this device holds, or an address of another space (R105). -/
def homeHere (s : State) (va : Word) : Prop := ∀ a, spaceOf va.toNat = some (.glob a) → s.regionBusy a = false ∧ s.held a = true

/-- The thread may act outside its core: its open task is not timed or is head-serialised, or becomes so as it is the head and its stores can land (R117, R126). -/
def headed (s : State) : Option State :=
  if s.cur.timed = false ∨ s.cur.serial = true then some s
  else if s.isHead s.cur = true ∧ s.serialWait s.latch.core s.latch.slot = none then some (s.serialise s.latch.core s.latch.slot)
  else none

/-- The global lines of the core's L1D are dropped at a scope that covers the cluster (R96, R119, R120). -/
def linesDropped (s : State) (scope bg : Nat) : State :=
  if s.dropsL1 s.latch.core s.cur.x scope bg then s.modCore s.latch.core fun k => { k with l1d := [] } else s

/-- The commit buffer takes the stores within the task's and the context's quota, or the task writes through (R65, R118). -/
def fits (s : State) (ps : List BufStore) : Prop :=
  s.cur.serial = true ∨
    (let all := (distinct (s.bufUse s.latch.core s.latch.slot ++ pieceLines ps)).length
     let others := (s.threadsOf s.latch.core).foldl (fun a p => if p.1 ≠ s.latch.slot ∧ p.2.x = s.cur.x then a + (s.bufUse s.latch.core p.1).length else a) 0
     all ≤ s.cur.tq ∧ others + all ≤ s.curCtx.cq)

/-- No piece stands in a fixed-line subscriber region of the core (R131). -/
def writable (s : State) (ps : List BufStore) : Prop := ∀ b ∈ ps, s.subHit s.latch.core (b.key % 0x100000) b.bytes.length = false

/-- A piece stands in a fixed-line source region of the core (R112). -/
def atSource (s : State) (b : BufStore) : Bool := !(s.srcHits s.latch.core (b.key % 0x100000) b.bytes.length).isEmpty

/-- The operation that a load leaves, and a store. -/
def loadOp (s : State) (d : Dest) (va : Word) (n : Nat) (sgn : Bool) (sb : Nat) : Op :=
  { s.newOp .load with dest := d, addr := va, n := n, sgn := sgn, sb := sb }
def storeOp (s : State) (k : OpKind) (va : Word) (ps : List BufStore) (sb at_ : Nat) : Op :=
  { s.newOp k with addr := va, sb := sb, pieces := ps, at_ := at_ }

/-- Scalar loads: size and sign extension (R225). -/
def scalarLoads : List ((Mem → Instr) × Nat × Bool) :=
  [(.ld1, 1, false), (.ld2, 2, false), (.ld4, 4, false), (.ld8, 8, false), (.lds1, 1, true), (.lds2, 2, true), (.lds4, 4, true)]

/-- Scalar stores: size (R226). -/
def scalarStores : List ((Mem → Instr) × Nat) := [(.st1, 1), (.st2, 2), (.st4, 4), (.st8, 8)]

/-- Atomics: AOP and size (R228). -/
def atomics : List ((Atom → Instr) × Nat × Nat) :=
  [(.aadd4, 0, 4), (.aadd8, 1, 8), (.afadd, 2, 4), (.aminS32, 3, 4), (.aminS64, 4, 8), (.aminU32, 5, 4), (.aminU64, 6, 8), (.aminF32, 7, 4),
   (.amaxS32, 8, 4), (.amaxS64, 9, 8), (.amaxU32, 10, 4), (.amaxU64, 11, 8), (.amaxF32, 12, 4), (.aand, 13, 8), (.aor, 14, 8), (.axor, 15, 8),
   (.aswap4, 16, 4), (.aswap8, 17, 8), (.acas, 18, 8)]

/-- The orders of R119 and R120 that an atomic's scope asks for: every earlier access performed, messages inside the scope delivered, stores to host windows visible. -/
def atScope (s : State) (scope : Nat) : Prop :=
  if scope = 0 then ordered s
  else (scope = 2 → s.bgOn 0 = true) ∧ performed s ∧ remoteSends s scope = false ∧ (scope = 6 ∨ scope = 11 → s.cur.hostDirty = [])

/-- What an atomic writes over the old value, as the table of R228 has it. -/
def atomicTable (aop : Nat) (m b e : BitVec 64) : Nat :=
  let m4 := m.setWidth 32
  let b4 := b.setWidth 32
  match aop with
  | 0 => (m4 + b4).toNat
  | 1 => (m + b).toNat
  | 3 => (if b4.toInt < m4.toInt then b4 else m4).toNat
  | 4 => (if b.toInt < m.toInt then b else m).toNat
  | 5 => min m4.toNat b4.toNat
  | 6 => min m.toNat b.toNat
  | 8 => (if m4.toInt < b4.toInt then b4 else m4).toNat
  | 9 => (if m.toInt < b.toInt then b else m).toNat
  | 10 => max m4.toNat b4.toNat
  | 11 => max m.toNat b.toNat
  | 13 => (m &&& b).toNat
  | 14 => (m ||| b).toNat
  | 15 => (m ^^^ b).toNat
  | 16 => b4.toNat
  | 17 => b.toNat
  | _ => (if m = e then b else m).toNat

/-- A vector register of the thread's window, not pending, with its number on the core (R28, R44, R277). -/
def vreg (s : State) (i n : Nat) : Prop := i < s.pre.vcnt ∧ n = s.pre.vbase + i ∧ s.pre.vPend.any (fun p => p.1 == n) = false

/-- A window's format and vector type are none that the launch's version, or approach mode, reserves (R181, R444). -/
def codesOpen (s : State) (d : Desc) : Prop := s.fmtReserved s.curCtx.ver d.fmt = false ∧ (s.curCtx.ver = 1 → 2 ≤ d.vtype)

/-- The generator before the steps of `n` elements that an access rounds in SR, and the state after them; without rounding in SR it stands (R149). -/
def seeded (s : State) (rounds : Bool) (n : Nat) : BitVec 32 × State :=
  if rounds = true ∧ fpcRM s.pre.fpc = 5 then
    let g := s.latch.sr.getD s.pre.srst
    let x := (List.range n).foldl (fun y _ => srStep y) g
    (g, { s with latch := { s.latch with sr := some x } }.modCur fun t => { t with srst := x })
  else (0, s)

/-- How the elements of an indexed access lie: by the window's descriptor where its vector type is the access's, else raw (R296). -/
def placing (s : State) (a : Word) (t : Nat) : Indexed :=
  ⟨match s.converting a.toNat with | some (d, w) => if d.vtype = t then some (d, w) else none | none => none, ownOff a.toNat, none⟩

/-- The checks of an indexed access: its base in the own scratchpad, in no hole and aligned, and every element and its scale within it and within the share, under no
lock that forbids it (R77, R181, R296, R298). -/
def indexFits (s : State) (a : Word) (t : Nat) (store : Bool) (ix : List Nat) : Prop :=
  let x := placing s a t
  let w := vtyWidth t
  isOwn s.latch.core a.toNat = true ∧ (∀ p, spaceOf a.toNat = some p → s.hole s.curCtx p = false) ∧
    (match x.conv with
      | some (d, _) => codesOpen s d ∧ d.inScaleLine x.off = false ∧ d.onGroup x.off = true ∧ (store = true → d.smode = false)
      | none => x.off % (if w = 4 then 1 else w / 8) = 0) ∧
    ∀ j ∈ ix, s.elemErr x a t (if store then 1 else 0) j = none

end Sys2Proof.Claims

section
open Sys2Proof Sys2Proof.Machine Sys2Proof.Claims

/-- R77, R224, R225: a scalar load (`ld.1`, `ld.2`, `ld.4`, `ld.8`, `lds.1`, `lds.2`, `lds.4`) completes its issue with its destination pending on an operation; an access that fails a check traps with the address in
TVAL, before any effect. -/
def Sys2Proof.Claims.ScalarLoadResult : Prop :=
  ∀ p ∈ scalarLoads, ∀ (f : Mem) (s u : State) (a : Word), s.goesC f.w.toNat → src f.a s = .ok (a, u) → ordered u →
    let va := a + BitVec.ofNat 64 (f.i.toNat * p.2.1)
    (∀ (v t : State) (r : Dest), allowed u va p.2.1 p.2.1 0 → homeHere u va → raised u f.s.toNat = some v →
      reserve f.d.toNat v.nextOp v = .ok (r, t) →
      exec (p.1 f) s = .next (s.ended (t.withOp (loadOp t r va p.2.1 p.2.2 f.s.toNat)))) ∧
    (∀ k, u.accessErr u.latch.core u.pre va.toNat (va.toNat + p.2.1 - 1) p.2.1 0 = some k → exec (p.1 f) s = .next (trapped s k va false))

/-- R112, R226, R131: a scalar store (`st.1`, `st.2`, `st.4`, `st.8`) to the own scratchpad outside every fixed line lands at issue; the bytes from its address are the low bytes of the D
register, every other byte of memory stands, and so do the thread's registers. A store to a subscriber region traps FL_READONLY, and one that fails a check of R77
its cause. -/
def Sys2Proof.Claims.DirectStoreResult : Prop :=
  ∀ p ∈ scalarStores, ∀ (f : Mem) (s r u : State) (d a : Word), s.MemOk → s.goesC f.w.toNat → src f.d s = .ok (d, r) → src f.a r = .ok (a, u) →
    ordered u →
    let va := a + BitVec.ofNat 64 (f.i.toNat * p.2)
    let b : BufStore := ⟨va, spKey u.latch.core (ownOff va.toNat), toBytes p.2 d.toNat, [], 0⟩
    (∀ v : State, allowed u va p.2 p.2 1 → isOwn u.latch.core va.toNat = true → raised u f.s.toNat = some v → writable u [b] → atSource u b = false →
      ∃ t : State, exec (p.1 f) s = .next (s.ended (t.withOp (storeOp t .store va [] f.s.toNat 1))) ∧
        (∀ x, t.byte x = if b.key ≤ x ∧ x < b.key + p.2 then BitVec.ofNat 8 (d.toNat / 256 ^ (x - b.key)) else s.byte x) ∧
        ((v.cur.timed && v.cur.serial) = false → t.cur = v.cur)) ∧
    (∀ v : State, allowed u va p.2 p.2 1 → isOwn u.latch.core va.toNat = true → raised u f.s.toNat = some v → ¬ writable u [b] →
      exec (p.1 f) s = .next (trapped s 0x18 va false)) ∧
    (∀ k, u.accessErr u.latch.core u.pre va.toNat (va.toNat + p.2 - 1) p.2 1 = some k → exec (p.1 f) s = .next (trapped s k va false))

/-- R65, R112, R118, R226: a scalar store to another space, and one to a fixed-line source region of the own scratchpad, leaves its bytes with an
operation that carries them to the commit buffer; no byte of memory changes at issue while the quota holds. -/
def Sys2Proof.Claims.BufferedStoreResult : Prop :=
  ∀ p ∈ scalarStores, ∀ (f : Mem) (s r u v : State) (d a : Word), s.goesC f.w.toNat → src f.d s = .ok (d, r) → src f.a r = .ok (a, u) →
    ordered u →
    let va := a + BitVec.ofNat 64 (f.i.toNat * p.2)
    let b : BufStore := ⟨va, keyAt u.latch.core va.toNat, toBytes p.2 d.toNat, [], 0⟩
    allowed u va p.2 p.2 1 → homeHere u va → raised u f.s.toNat = some v → fits v [b] →
    isOwn u.latch.core va.toNat = false ∨
      (writable u [b] ∧ atSource u b = true ∧ (v.cur.serial = true → u.updateRoom u.latch.core (b.key % 0x100000) p.2 = true)) →
    exec (p.1 f) s = .next (s.ended (v.withOp (storeOp v .store va [b] f.s.toNat 0)))

/-- R77, R181, R227, R295 to R298: the vector loads `ldv` and `vldx` complete their issue with the register pending: `ldv` raw for 512 bytes and converting for the elements of the window's
type; `vldx` names the place of each element of its gather. A raw `ldv` that fails a check of R77 traps with its address. -/
def Sys2Proof.Claims.VectorLoadResult : Prop :=
  (∀ (f : VMem) (s u : State) (a : Word) (n : Nat), s.goesC f.w.toNat → src f.a s = .ok (a, u) → ordered u → vreg u f.v.toNat n →
    let va := a + BitVec.ofNat 64 (f.i.toNat * 64)
    (∀ v : State, u.converting va.toNat = none → allowed u va 512 8 0 → homeHere u va → raised u f.s.toNat = some v →
      exec (.ldv f) s = .next (s.ended ((v.withOp { v.newOp .vload with dest := .vregs [n], addr := va, n := 512, sb := f.s.toNat }).modCur fun t =>
        { t with vPend := t.vPend ++ [(n, v.nextOp)] }))) ∧
    (∀ k, u.converting va.toNat = none → u.accessErr u.latch.core u.pre va.toNat (va.toNat + 511) 8 0 = some k → exec (.ldv f) s = .next (trapped s k va false)) ∧
    (∀ (v : State) (d : Desc) (w : BitVec 32), u.converting va.toNat = some (d, w) →
      let e := 4096 / (vty d.vtype).width
      codesOpen u d → u.convErr u.latch.core u.cur.x 0 d (ownOff va.toNat) e false false = none → raised u f.s.toNat = some v →
      let (g, q) := seeded v (d.rounds d.vtype) e
      exec (.ldv f) s = .next (s.ended ((q.withOp { q.newOp .vload with
        dest := .vregs [n], addr := va, n := e, aop := 1, wd := w, fpc := u.pre.fpc, seed := g, sb := f.s.toNat }).modCur fun t =>
          { t with vPend := t.vPend ++ [(n, q.nextOp)] })))) ∧
  (∀ (f : VIdx) (s u v : State) (a : Word) (n : Nat) (ix : List Nat), s.goesC f.w.toNat → src f.a s = .ok (a, u) →
    readIdx f.t.toNat f.i.toNat u = .ok (ix, u) → ordered u → vreg u f.v.toNat n → indexFits u a f.t.toNat false ix → raised u f.s.toNat = some v →
    let x := placing u a f.t.toNat
    (∀ d w, x.conv = some (d, w) →
      let (g, q) := seeded v (d.rounds f.t.toNat) ix.length
      exec (.vldx f) s = .next (s.ended ((q.withOp { q.newOp .vload with dest := .vregs [n], addr := a, n := f.t.toNat, aop := 2, wd := w, fpc := v.pre.fpc, seed := g, sb := f.s.toNat,
                                                                         more := ix.map fun j => d.index x.off + j }).modCur fun t => { t with vPend := t.vPend ++ [(n, q.nextOp)] }))) ∧
    (x.conv = none →
      exec (.vldx f) s = .next (s.ended ((v.withOp { v.newOp .vload with dest := .vregs [n], addr := a, n := f.t.toNat, aop := 3, sb := f.s.toNat,
                                                                         more := ix.map fun j => (x.place f.t.toNat j).1 }).modCur fun t => { t with vPend := t.vPend ++ [(n, v.nextOp)] }))))

/-- R77, R112, R181, R227, R298: the vector stores `stv` and `vstx` complete: in the own scratchpad, outside every fixed line, the pieces they compute land at issue in their order; elsewhere they leave
with an operation that carries them. A raw `stv` stores the 512 bytes of its register, and traps with its address where it fails a check of R77. -/
def Sys2Proof.Claims.VectorStoreResult : Prop :=
  (∀ (s u v q : State) (a va : Word) (ps : List BufStore) (sb : Nat) (i : Instr), s.MemOk →
    ((∃ (f : VMem) (x : BitVec 4096), i = .stv f ∧ sb = f.s.toNat ∧ s.goesC f.w.toNat ∧ src f.a s = .ok (a, u) ∧
        va = a + BitVec.ofNat 64 (f.i.toNat * 64) ∧ readV f.v.toNat u = .ok (x, u) ∧
        ((u.converting va.toNat = none ∧ allowed u va 512 8 1 ∧ homeHere u va ∧ q = u ∧ ps = piecesAt u.latch.core va (toBytes 512 x.toNat)) ∨
         ∃ (d : Desc) (w : BitVec 32), u.converting va.toNat = some (d, w) ∧ codesOpen u d ∧
          u.convErr u.latch.core u.cur.x 1 d (ownOff va.toNat) (4096 / (vty d.vtype).width) d.smode d.smode = none ∧
          q = (seeded u (d.rounds d.vtype) (4096 / (vty d.vtype).width)).2 ∧ ps = u.convPieces d va x (seeded u (d.rounds d.vtype) (4096 / (vty d.vtype).width)).1)) ∨
     (∃ (f : VIdx) (x : BitVec 4096) (ix : List Nat), i = .vstx f ∧ sb = f.s.toNat ∧ s.goesC f.w.toNat ∧
        src f.a s = .ok (a, u) ∧ va = a ∧ readIdx f.t.toNat f.i.toNat u = .ok (ix, u) ∧ readV f.v.toNat u = .ok (x, u) ∧ indexFits u a f.t.toNat true ix ∧
        (match (placing u a f.t.toNat).conv with
          | some (d, _) => q = (seeded u (d.rounds f.t.toNat) ix.length).2 ∧ ps = u.scatterPieces (placing u a f.t.toNat) a f.t.toNat ix x (seeded u (d.rounds f.t.toNat) ix.length).1
          | none => q = u ∧ ps = u.scatterPieces (placing u a f.t.toNat) a f.t.toNat ix x 0))) →
    ordered u → raised q sb = some v →
    (isOwn q.latch.core va.toNat = true → writable q ps → (∀ b ∈ ps, atSource q b = false) →
      ∃ t : State, exec i s = .next (s.ended (t.withOp (storeOp t .vstore va [] sb 1))) ∧
        ∀ x, (∀ b ∈ ps, x < b.key ∨ b.key + b.bytes.length ≤ x) → t.byte x = s.byte x) ∧
    (isOwn q.latch.core va.toNat = false → fits v ps → exec i s = .next (s.ended (v.withOp (storeOp v .vstore va ps sb 0))))) ∧
  (∀ (f : VMem) (s u : State) (a : Word) (x : BitVec 4096) (k : Nat), s.goesC f.w.toNat → src f.a s = .ok (a, u) → readV f.v.toNat u = .ok (x, u) → ordered u →
    let va := a + BitVec.ofNat 64 (f.i.toNat * 64)
    u.converting va.toNat = none → u.accessErr u.latch.core u.pre va.toNat (va.toNat + 511) 8 1 = some k → exec (.stv f) s = .next (trapped s k va false))

/-- R106, R117, R120, R126, R131, R228, R229: an atomic completes its issue, with its destination pending on an operation that carries its AOP, its operand, the expected
value of `acas` and its scope, to be performed at the home of its location. From cluster scope on the core's L1D holds no line then. They are `aadd.4`, `aadd.8`, `afadd`, `amin`, `amax`, `aand`, `aor`, `axor`, `aswap.4`, `aswap.8` and `acas`, `amin` and `amax` for each of their five types. -/
def Sys2Proof.Claims.AtomicResult : Prop :=
  ∀ p ∈ atomics, ∀ (f : Atom) (s e u v w t : State) (x a b : Word) (r : Dest), s.goesC 0 →
    (if p.2.1 = 18 then srcShort f.d s = .ok (x, e) else x = 0 ∧ e = s) → srcShort f.a e = .ok (a, u) → srcShort f.b u = .ok (b, v) →
    atScope v f.s.toNat →
    let q := if f.s.toNat = 0 then v else linesDropped v f.s.toNat 0
    allowed q a p.2.2 p.2.2 2 → (isHostKey a.toNat = true → hostAtomic p.2.1 = true ∧ q.hostAtom a.toNat = true) →
    (isOwn q.latch.core a.toNat = true → q.subHit q.latch.core (ownOff a.toNat) p.2.2 = false) →
    (q.cur.mem.isSome = true → isOwn q.latch.core a.toNat = true) → homeHere q a → headed q = some w →
    reserve (if f.d.toNat = 24 then 36 else f.d.toNat) w.nextOp w = .ok (r, t) →
    exec (p.1 f) s = .next (s.ended (t.withOp
      { t.newOp .atomic with dest := r, addr := a, n := p.2.2, aop := p.2.1, data := b.setWidth 4096, exp := x, scope := f.s.toNat }))

/-- R90, R228: what the integer atomics write is what the table gives, a word of 4 or 8 bytes. -/
def Sys2Proof.Claims.AtomicValues : Prop :=
  ∀ (aop : Nat) (m b e : BitVec 64), aop ≤ 18 → aop ∉ [2, 7, 12] →
    let n := aopSize aop
    let old := m.toNat % 2 ^ (8 * n)
    atomicValue aop old b.toNat (e.toNat % 2 ^ (8 * n)) = atomicTable aop m b e ∧ atomicValue aop old b.toNat e.toNat < 2 ^ (8 * n)

/-- R119, R128, R96: `fence` completes once nothing of the thread is pending, every earlier access is performed, every scoreboard count is 0, no message to a device inside the scope is
on its way and the update out-queue has room for the core's open BATCH windows, which it closes; from the scopes that ask for it the core's L1D holds no line then. `sbwait` completes
once the counts of its mask are 0 and no fault of their operations is recorded. Neither changes the thread or a byte of memory. -/
def Sys2Proof.Claims.FenceResult : Prop :=
  (∀ (r sr : BitVec 4) (s : State), s.goesC 0 → (sr = 2 → s.bgOn r.toNat = true) → hasPending s.pre = false → performed s →
    s.pre.sb.any (fun p => p.2 != 0) = false → remoteSends s sr.toNat = false → (sr = 6 ∨ sr = 11 → s.cur.hostDirty = []) → s.closeRoom s.latch.core = true →
    ∃ t : State, exec (.fence r sr) s = .next (s.ended t) ∧ t.mem = s.mem ∧ t.threads = s.threads ∧ (t.core s.latch.core).batch = [] ∧
      (s.dropsL1 s.latch.core s.cur.x sr.toNat r.toNat = true → (t.core s.latch.core).l1d = [])) ∧
  (∀ (m : BitVec 8) (s : State), s.goesC 0 → (∀ i < 8, m.getLsbD i = true → Table.get 0 i s.pre.sb = 0) →
    (∀ sb z, REnt.bad sb z ∈ s.pre.t → sb = 0 ∨ m.getLsbD sb = false) → exec (.sbwait m) s = .next (s.ended s))

/-- R102, R231, R232: `prefetch` completes at every address, never traps and changes no register and no byte of memory; `touch` asks for the page of a global address and parks, and completes when the
firmware has answered that the page is resident. -/
def Sys2Proof.Claims.PrefetchTouchResult : Prop :=
  (∀ (a : BitVec 6) (w : BitVec 3) (imm : BitVec 6) (s u : State) (b : Word), s.goesC w.toNat → src a s = .ok (b, u) →
    ∃ t : State, exec (.prefetch a w imm) s = .next (s.ended t) ∧ t.mem = u.mem ∧ t.threads = u.threads) ∧
  (∀ (a : BitVec 6) (w : BitVec 3) (imm : BitVec 6) (s u : State) (b : Word), s.goesC w.toNat → src a s = .ok (b, u) →
    let va := b + BitVec.ofNat 64 (imm.toNat * 64)
    (u.cur.wait = .done 0 → exec (.touch a w imm) s = .next (s.ended (u.modCur fun t => { t with wait := .none }))) ∧
    (u.cur.wait = .none → va.toNat < 0x0080000000000000 →
      s.latch.skip = 0 → exec (.touch a w imm) s = .next (waiting s (s.modCur fun t => { t with wait := .touch (va.toNat / 65536) }) 11)) ∧
    (∀ v, u.cur.wait = .done v → v ≠ 0 → exec (.touch a w imm) s = .next (trapped s 0x16 va false)) ∧
    (u.cur.wait = .none → 0x0080000000000000 ≤ va.toNat → exec (.touch a w imm) s = .next (trapped s 0x15 va false)))

/-- R126, R234: `ldfe` and `stfe` complete their issue on a base-camp word of which the thread's context has the rights of an atomic, after every earlier access; the core's L1D then
holds no line. An address in the own scratchpad that passes the checks before it traps PROT. -/
def Sys2Proof.Claims.FullEmptyResult : Prop :=
  (∀ (f : Mem) (s u v w t : State) (a : Word) (r : Dest) (o : Nat), s.goesC f.w.toNat → src f.a s = .ok (a, u) → performed u →
    let va := a + BitVec.ofNat 64 (f.i.toNat * 8)
    allowed u va 8 8 2 → spaceOf va.toNat = some (.camp o) → u.cur.mem = none → headed u = some v → raised v f.s.toNat = some w →
    reserve f.d.toNat w.nextOp (linesDropped w 5 0) = .ok (r, t) →
    exec (.ldfe f) s = .next (s.ended (t.withOp { t.newOp .fe with dest := r, addr := va, n := 8, sb := f.s.toNat, scope := 5 }))) ∧
  (∀ (f : Mem) (s q u v w : State) (d a : Word) (o : Nat), s.goesC f.w.toNat → src f.d s = .ok (d, q) → src f.a q = .ok (a, u) → performed u →
    let va := a + BitVec.ofNat 64 (f.i.toNat * 8)
    allowed u va 8 8 2 → spaceOf va.toNat = some (.camp o) → u.cur.mem = none → headed u = some v → raised v f.s.toNat = some w →
    exec (.stfe f) s = .next (s.ended ((linesDropped w 5 0).withOp
      { w.newOp .fe with addr := va, n := 8, aop := 1, data := d.setWidth 4096, sb := f.s.toNat, scope := 5 }))) ∧
  (∀ (f : Mem) (s u : State) (a : Word), s.goesC f.w.toNat → src f.a s = .ok (a, u) → performed u →
    let va := a + BitVec.ofNat 64 (f.i.toNat * 8)
    va.toNat < 0x0080000000000000 + 0x100000 → 0x0080000000000000 ≤ va.toNat → va.toNat % 8 = 0 → exec (.ldfe f) s = .next (trapped s 0x17 va false))

/-- R76, R77, R85, R89, R94, R101, R123: the checks made at issue, each where those before it pass: an address in no row of the map and a hole, a straddle, an
alignment, a right, a range lock. -/
def Obligations.AccessChecks : Prop :=
  ∀ (s : State) (c : Nat) (t : Thread) (va n kind : Nat), 0 < n →
    (spaceOf va = none → s.accessErr c t va (va + n - 1) n kind = some 0x15) ∧
    (va + n ≤ 0x0080000000000000 → va % n ≠ 0 → s.accessErr c t va (va + n - 1) n kind = some 0x13) ∧
    (va < 0x0080000000000000 → 0x0080000000000000 < va + n → s.accessErr c t va (va + n - 1) n kind = some 0x14) ∧
    (va + n ≤ 0x0080000000000000 → va % n = 0 → kind ≠ 0 → ((s.lease (s.ctx c t.x).l).text.any fun r => overlap va n r.lo r.len) = true →
      s.accessErr c t va (va + n - 1) n kind = some 0x17) ∧
    (va + n ≤ 0x0080000000000000 → va % n = 0 → kind = 0 → s.accessErr c t va (va + n - 1) n kind = none) ∧
    (∀ o, va = 0x0080000000000000 + o → o + n ≤ 0x100000 → o % n = 0 → n ∣ 8 →
      s.accessErr c t va (va + n - 1) n kind =
        if s.spShare c t.x o n = false then some 0x17
        else if ∃ l ∈ (s.core c).locks, overlap o n l.lo (l.hi + 1 - l.lo) = true ∧ (l.dst = true ∨ kind ≠ 0) then some 0x05 else none) ∧
    (∀ o, va = 0x0083000000000000 + o → o + n ≤ 0x4000000 → o % n = 0 → n ∣ 8 →
      s.accessErr c t va (va + n - 1) n kind =
        if t.fwm = true ∨ opens (s.lease (s.ctx c t.x).l).grants o n (needOf kind) = true then none else some 0x17)

end


/-! ### Tasks, threads, semaphores and barriers (R34, R41, R47, R112 to R118, R236 to R254) -/

namespace Sys2Proof.Claims

open Sys2Proof.Machine

/-- The instance of a domain kind that a core of this device belongs to (R115). -/
def domain (s : State) (kind c : Nat) : Instance :=
  if kind = 0 then ⟨0, clusterOf c, s.dev.devno⟩ else if kind = 1 then ⟨1, dieOf c, s.dev.devno⟩ else ⟨2, 0, s.dev.devno⟩

/-- The state after the task before has ended, with none opened yet. -/
def between (w : State) : State := w.modCur fun t => { t with task := false }

/-- A semaphore's number within the share, a thread semaphore's below 4 (R48, R251). -/
def semOk (s : State) (k : BitVec 1) (n : BitVec 6) : Prop :=
  if k = 1 then n.toNat < 4 else shareOk (s.core s.latch.core).share s.cur.x n.toNat 56 = true

/-- A semaphore with a new value (R251). -/
def semSet (s : State) (k : BitVec 1) (n v : Nat) : State :=
  if k = 1 then s.modCur fun t => { t with ts := Table.set n v t.ts } else s.modCtx s.latch.core s.cur.x fun c => { c with sm := Table.set n v c.sm }

/-- A waiter that the release order has served (R41). -/
def served (s : State) (n : Nat) : Prop := s.cur.wait = .granted n

end Sys2Proof.Claims

section
open Sys2Proof Sys2Proof.Machine Sys2Proof.Claims

/-- R237 to R241, R365: `tbeg` and `tend` complete where the open task can end, `tbeg` in a context that does not drain, where it ends the task and parks; `tabort` completes always;
`tserial` completes where its stores can land, for a timed task as the head; `tstamp` completes outside a timed task, and in one with a timestamp that is not behind the frontier. A
timestamp behind it traps TS_BEHIND, at `tbeg` after the open task has ended. Of a task whose instance is another device's `tstamp` asks there first. -/
def Obligations.TaskInstructions : Prop :=
  ∀ s : State, s.goesC 0 →
    (∀ a w, ends s = some w →
      (w.curCtx.drain = false → exec (.tbeg a 0) s = .next (s.ended (leaving w (.open_ true none)))) ∧
      (w.curCtx.drain = true → s.latch.skip = 0 → exec (.tbeg a 0) s = .next (waiting s (between w) 10)) ∧
      exec .tend s = .next (s.ended (leaving w .implicit))) ∧
    (∀ (a : BitVec 6) (k : BitVec 2) (u w : State) (ts : Word), k ≠ 0 → src a s = .ok (ts, u) → ends u = some w →
      w.curCtx.drain = false →
      (w.behind (domain w (k.toNat - 1) w.latch.core) w.cur ts = false →
        exec (.tbeg a k) s = .next (s.ended (leaving w (.open_ true (some (k.toNat - 1, ts)))))) ∧
      (w.behind (domain w (k.toNat - 1) w.latch.core) w.cur ts = true → s.latch.mode = .lone →
        exec (.tbeg a k) s = .next (
          let r := (if s.cur.task then s.commit s.latch.core s.latch.slot else s).openNext s.latch.core s.latch.slot
          r.takeException s.latch.core s.latch.slot (s.causeOf 0x1B ts false)))) ∧
    exec .tabort s = .next (s.ended (leaving (s.abandon s.latch.core s.latch.slot) .implicit)) ∧
    (s.cur.timed = false ∨ s.cur.serial = true ∨ s.isHead s.cur = true → s.serialWait s.latch.core s.latch.slot = none →
      exec .tserial s = .next (s.ended (s.serialise s.latch.core s.latch.slot))) ∧
    (∀ (a : BitVec 6) (u : State) (ts : Word), src a s = .ok (ts, u) →
      (u.cur.timed = false ∨ u.cur.inst = none → exec (.tstamp a) s = .next (s.ended (u.modCur fun t => { t with tstamp := ts }))) ∧
      (∀ i, u.cur.timed = true → u.cur.inst = some i →
        (u.cur.serial = true → exec (.tstamp a) s = .next (trapped s 0x10 (s.latch.word.setWidth 64) false)) ∧
        (u.cur.serial = false → i.dev = u.dev.devno →
          (u.behind i u.cur ts = true → exec (.tstamp a) s = .next (trapped s 0x1B ts false)) ∧
          (u.behind i u.cur ts = false → exec (.tstamp a) s = .next (s.ended (u.modCur fun t => { t with tstamp := ts })))) ∧
        (u.cur.serial = false → i.dev ≠ u.dev.devno →
          (u.cur.wait = .none → s.latch.skip = 0 → exec (.tstamp a) s = .next (waiting s
            ((s.modCur fun t => { t with wait := .reply s.nextOp i.dev }).askInstance s.latch.core s.latch.slot i 5 1 ts) 10)) ∧
          (u.cur.wait = .done 0 → exec (.tstamp a) s = .next (s.ended (u.modCur fun t => { t with wait := .none, tstamp := ts }))) ∧
          (∀ v, u.cur.wait = .done v → v ≠ 0 → exec (.tstamp a) s = .next (trapped s 0x1B ts false)))))

/-- R47, R235 to R237, R65: at the end of the bundle that opens a task the snapshot holds the PC of the following bundle, k0 to k7, sp, the predicate word and the depth, the
task's number and quota are taken, and its buffer and read signature are empty; no byte of memory changes. After `tend` and `tabort` the implicit task opens so, unless the context
drains: then it is left to open. -/
def Sys2Proof.Claims.TaskOpens : Prop :=
  ∀ (s : State) (b : Bool) (m : Option (Nat × Word)), s.latch.defer = .open_ b m →
    let t := s.cur
    let u := s.finish.cur
    u.task = true ∧ u.begun = b ∧ u.pc = t.pc + BitVec.ofNat 64 s.latch.len ∧
    u.snap = ⟨t.pc + BitVec.ofNat 64 s.latch.len, t.k, t.sp, t.pred, t.depth, t.sc, t.oc⟩ ∧ u.tseq = (t.tseq + 1) % 65536 ∧ u.tq = s.curCtx.tq ∧
    u.buf = [] ∧ u.sigHome = 0 ∧ u.sigHere = 0 ∧ u.k = t.k ∧ u.sp = t.sp ∧ u.pred = t.pred ∧ u.t = t.t ∧
    (m = none → u.timed = false ∧ u.inst = none) ∧
    (∀ kind ts, m = some (kind, ts) → u.timed = true ∧ u.tstamp = ts ∧ u.inst = some (domain s kind s.latch.core)) ∧
    (∀ a, s.finish.byte a = s.byte a) ∧
    (s.curCtx.drain = false → (leaving s .implicit).finish = (leaving s (.open_ false none)).finish) ∧
    (s.curCtx.drain = true →
      let v := (leaving s .implicit).finish.cur
      v.task = false ∧ v.opening = true ∧ v.pc = t.pc + BitVec.ofNat 64 s.latch.len ∧ v.tseq = t.tseq)

/-- R113, R115, R118: when a task that is not timed commits, every store it has buffered in a scratchpad, the pool or base camp becomes visible, the buffer is empty and the registers
stand; a timed one also leaves its instance, whose frontier does not fall. -/
def Sys2Proof.Claims.TaskCommits : Prop :=
  (∀ (s : State) (c h : Nat), (s.thread c h).timed = false →
    let u := (s.commit c h).thread c h
    u = { s.thread c h with buf := [], timed := false, inst := none, serial := false, headOk := false, sigHome := 0, sigHere := 0, sigAway := false, held := [], hostDirty := u.hostDirty }) ∧
  (∀ (s : State) (c h : Nat) (i : Instance), (s.thread c h).timed = true → (s.thread c h).inst = some i → i.dev = s.dev.devno →
    (s.frontierOf i).toNat ≤ ((s.commit c h).frontierOf i).toNat ∧ (s.thread c h).tstamp.toNat ≤ ((s.commit c h).frontierOf i).toNat) ∧
  (∀ (s : State) (c h : Nat) (b : BufStore), s.MemOk → (s.thread c h).timed = false → (s.thread c h).buf = [b] → b.mask = [] →
    b.key < 0x0084000000000000 → s.sched.migs = [] →
    ∀ a, (s.commit c h).byte a = if b.key ≤ a ∧ a < b.key + b.bytes.length then b.bytes.getD (a - b.key) 0 else s.byte a)

/-- R34, R47, R50, R116: an abort restores the snapshot, discards the windows pushed and the bytes buffered since, clears the scoreboard and INTRAP, and changes no byte of
memory; the thread runs again with a result queue of valid zeros once nothing that it waits for is at large. Where the snapshot stands on another device it is asked for there. -/
def Sys2Proof.Claims.TaskAborts : Prop :=
  ∀ (s : State) (c h : Nat), (s.thread c h).arriving = false → (s.thread c h).killing = false →
    let t := s.thread c h
    let r := s.abortTask c h
    let u := r.thread c h
    r.mem = s.mem ∧
    (s.foreign t = true → u.restart = true ∧ u.buf = [] ∧ (∃ o ∈ r.opsOf c h, o.kind = .home ∧ o.aop = 2 ∧ o.tgt = t.hdev)) ∧
    (s.foreign t = false →
    u.pc = t.snap.pc ∧ u.k = t.snap.k ∧ u.sp = t.snap.sp ∧ u.pred = t.snap.pred ∧ u.depth = t.snap.depth ∧ u.sc = t.snap.sc ∧ u.oc = t.snap.oc ∧
    u.win = t.win.drop (t.depth - t.snap.depth) ∧ u.buf = [] ∧ u.sb = [] ∧ u.intrap = false ∧ u.wait = .none ∧ u.sigHome = 0 ∧ u.sigHere = 0 ∧
    (∀ p ∈ u.promises, p ∈ t.promises ∧ ∀ m ∈ (s.core c).cmds, cmdOf t h m = true → p.2 ≠ m.id) ∧
    (r.mayRestart c h = true → u.t = [] ∧ u.restart = false ∧ u.st = if t.st = .leaving then .parked else t.st) ∧
    (r.mayRestart c h = false → u.restart = true ∧ u.st = .parked))

/-- R242 to R244: `spawn` is answered at once: the identifier of the thread placed, or the reason of the refusal; one that a saved context parks waits. `spawnc` and `spawnx`
leave with an operation that carries the request. -/
def Sys2Proof.Claims.SpawnResult : Prop :=
  ∀ (f : Rrrr) (s u : State) (r : SpawnReq), s.goesC 0 → spawnReq f s = .ok (r, u) →
    (∀ (w t : State) (thid : Nat), u.trySpawn u.latch.core { r with op := u.nextOp } = (w, .placed thid) →
      dest f.d (BitVec.ofNat 64 thid) w = .ok ((), t) → exec (.spawn f) s = .next (s.ended t)) ∧
    (∀ (w t : State) (n : Nat), u.trySpawn u.latch.core { r with op := u.nextOp } = (w, .refused n) →
      dest f.d (BitVec.ofNat 64 (2 ^ 63 + n)) w = .ok ((), t) → exec (.spawn f) s = .next (s.ended t)) ∧
    (∀ (w t : State) (d : Dest), u.trySpawn u.latch.core { r with op := u.nextOp } = (w, .waits) → reserve f.d.toNat u.nextOp u = .ok (d, t) →
      exec (.spawn f) s = .next (s.ended (let q := t.withOp { t.newOp .spawn with dest := d, at_ := 2 }
        (q.trySpawn q.latch.core { r with op := u.nextOp }).1))) ∧
    (∀ (w t : State) (d : Dest), u.cur.xdev = true ∨ inRect u.curCtx (bits r.desc 0 9) = true → u.cur.mem = none → headed u = some w →
      reserve f.d.toNat w.nextOp w = .ok (d, t) →
      ∃ o : Op, exec (.spawnc f) s = .next (s.ended (t.withOp o)) ∧ o.id = t.nextOp ∧ o.kind = .spawn ∧ o.dest = d ∧ o.addr = r.pc ∧
        o.n = bits r.desc 0 9 ∧ o.tgt = u.dev.devno) ∧
    (∀ (w t : State) (d : Dest), u.cur.xdev = true → u.cur.mem = none → headed u = some w → reserve f.d.toNat w.nextOp w = .ok (d, t) →
      ∃ o : Op, exec (.spawnx f) s = .next (s.ended (t.withOp o)) ∧ o.id = t.nextOp ∧ o.kind = .spawn ∧ o.dest = d ∧ o.addr = r.pc ∧
        o.n = bits r.desc 0 9 ∧ o.tgt = bits r.desc 9 15) ∧
    (u.cur.xdev = false → inRect u.curCtx (bits r.desc 0 9) = false →
      exec (.spawnc f) s = .next (trapped s 0x17 (BitVec.ofNat 64 r.desc) false)) ∧
    (u.cur.xdev = false → exec (.spawnx f) s = .next (trapped s 0x17 (BitVec.ofNat 64 r.desc) false))

/-- R26, R58, R236, R243: a thread placed with no vector window is ready at its entry in an implicit free task, with k0 to k3 as given, sp at the top of its frame area, an empty
result queue, predicates at reset and a generator that is not 0. -/
def Sys2Proof.Claims.ThreadPlaced : Prop :=
  ∀ (s : State) (c x h : Nat) (pc : Word) (ks : List Word) (bpri : Nat) (mx sys xdev : Bool), h < 256 → c < 512 →
    let t := (s.placeThread c x h pc ks bpri mx sys xdev 0).thread c h
    t.st = .ready ∧ t.pc = pc ∧ (∀ i < 4, Table.get 0 i t.k = ks.getD i 0) ∧ (∀ i, 4 ≤ i → Table.get 0 i t.k = 0) ∧ t.t = [] ∧ t.pred = 1 ∧
    t.sp = BitVec.ofNat 64 (s.bivFT t) ∧ t.depth = 0 ∧ t.win = [] ∧ t.vcnt = 0 ∧ t.task = true ∧ t.timed = false ∧ t.begun = false ∧ t.bpri = bpri ∧ t.mx = mx ∧
    t.sys = sys ∧ t.xdev = xdev ∧ t.fwm = s.isFw c ∧ t.intrap = false ∧ t.tvec = 0 ∧ t.srst ≠ 0 ∧ t.snap.pc = pc ∧
    thidOf t = 2 ^ 17 * s.dev.devno + 256 * c + h

/-- R19, R246 to R250: `join` completes when the thread it names does not live, and parks while it does; `exit` ends the task and the thread; `prio` sets a base priority
of its class; `migr` stays, or leaves for another core; `kpt` takes a kill notice, and without one does nothing. -/
def Obligations.ThreadInstructions : Prop :=
  ∀ s : State, s.goesC 0 →
    (∀ (a : BitVec 6) (u : State) (v : Word), src a s = .ok (v, u) → v.toNat < 2 ^ 32 → v.toNat ≠ thidOf u.cur → v.toNat / 2 ^ 17 = u.dev.devno →
      (u.cur.wait = .none → (u.allThreads ++ u.sched.abroad.map Prod.snd ++ u.savedThreads).find? (fun t => thidOf t == v.toNat) = none →
        exec (.join a) s = .next (s.ended u)) ∧
      (∀ t, u.cur.wait = .none → (u.allThreads ++ u.sched.abroad.map Prod.snd ++ u.savedThreads).find? (fun t => thidOf t == v.toNat) = some t →
        s.latch.skip = 0 → exec (.join a) s = .next (waiting s (s.modCur fun q => { q with wait := .join v.toNat t.uid }) 11)) ∧
      (∀ i q, u.cur.wait = .join i q → u.lives i q = false → exec (.join a) s = .next (s.ended (calm u)))) ∧
    (∀ w, s.cur.arriving = false → ends s = some w →
      exec .exit s = .next (s.ended (w.modCur fun t => { t with st := .leaving, leave := .exit, task := false, wait := .none }))) ∧
    (∀ (a : BitVec 6) (u : State) (v : Word), src a s = .ok (v, u) →
      (v.toNat < 8 → (u.cur.bpri = 7 ↔ v.toNat = 7) → exec (.prio a) s = .next (s.ended (u.modCur fun t => { t with bpri := v.toNat }))) ∧
      (v.toNat < 8 → ¬ (u.cur.bpri = 7 ↔ v.toNat = 7) → exec (.prio a) s = .next (trapped s 0x17 v false)) ∧
      (8 ≤ v.toNat → exec (.prio a) s = .next (trapped s 0x12 v false))) ∧
    (∀ (a : BitVec 6) (u : State) (v : Word), src a s = .ok (v, u) →
      (u.migrTarget v.toNat = .ok none → exec (.migr a) s = .next (s.ended u)) ∧
      (∀ d n, u.migrTarget v.toNat = .ok (some (d, n)) → u.settled u.latch.core u.latch.slot = true → u.cur.arr = none →
        u.migratable u.latch.core u.latch.slot = true → (if d = u.dev.devno then inRect u.curCtx n = true else u.cur.xdev = true ∧ u.reach d = true) →
        exec (.migr a) s = .next (s.ended (u.modCur fun t => { t with st := .leaving, leave := .migrate d n }))) ∧
      (∀ k, u.migrTarget v.toNat = .error k → exec (.migr a) s = .next (trapped s k v false))) ∧
    (s.cur.kill = none → exec .kpt s = .next (s.ended s)) ∧
    (∀ n, s.cur.kill = some n → s.latch.mode = .lone → exec .kpt s = .next (s.killThread s.latch.core s.latch.slot n.word))

/-- R41, R251, R252: semaphores saturate at 65,535; a waiter takes its units at its release, or parks; `smwait` takes 1 from the lowest of its mask that is not zero. -/
def Sys2Proof.Claims.SemaphoreResult : Prop :=
  (∀ (a n : BitVec 6) (k : BitVec 1) (s u : State) (v : Word), s.goesC 0 → src a s = .ok (v, u) → semOk u k n →
    (performed u → exec (.sinc a n k) s = .next (s.ended (semSet u k n.toNat (min 65535 (u.sem k n.toNat + v.toNat))))) ∧
    (v.toNat ≤ 65535 → (∀ i, ¬ served u i) → v.toNat ≤ u.sem k n.toNat →
      exec (.swait a n k) s = .next (s.ended (semSet u k n.toNat (u.sem k n.toNat - v.toNat)))) ∧
    (v.toNat ≤ 65535 → (∀ i, ¬ served u i) → u.sem k n.toNat < v.toNat → s.latch.skip = 0 → exec (.swait a n k) s = .next (parked s 4)) ∧
    (∀ i, v.toNat ≤ 65535 → served u i → exec (.swait a n k) s = .next (s.ended (calm u))) ∧
    (v.toNat ≤ 65535 → exec (.sset a n k) s = .next (s.ended (semSet u k n.toNat v.toNat))) ∧
    (65535 < v.toNat → exec (.sset a n k) s = .next (trapped s 0x12 v false) ∧ exec (.swait a n k) s = .next (trapped s 0x12 v false))) ∧
  (∀ (d n : BitVec 6) (k : BitVec 1) (s t : State), s.goesC 0 → semOk s k n → dest d (BitVec.ofNat 64 (s.sem k n.toNat)) s = .ok ((), t) →
    exec (.sget d n k) s = .next (s.ended t)) ∧
  (∀ (d a : BitVec 6) (s u : State) (v : Word), s.goesC 0 → src a s = .ok (v, u) → v ≠ 0 →
    (∀ i < 64, v.getLsbD i = true → shareOk (u.core u.latch.core).share u.cur.x i 56 = true) →
    (∀ (t : State) (i : Nat), (∀ j, ¬ served u j) → v.getLsbD i = true → 0 < u.sem 0 i → (∀ j < i, v.getLsbD j = true → u.sem 0 j = 0) →
      dest d (BitVec.ofNat 64 i) (semSet u 0 i (u.sem 0 i - 1)) = .ok ((), t) → exec (.smwait d a) s = .next (s.ended t)) ∧
    ((∀ j, ¬ served u j) → (∀ i < 64, v.getLsbD i = true → u.sem 0 i = 0) → s.latch.skip = 0 → exec (.smwait d a) s = .next (parked s 4)) ∧
    (∀ (t : State) (i : Nat), served u i → dest d (BitVec.ofNat 64 i) (calm u) = .ok ((), t) → exec (.smwait d a) s = .next (s.ended t)))

/-- R127, R253, R417: `bar` arrives and parks until its release, `barq` arrives and goes on with the GEN that the release will set, `barq.wait` completes once the arrival is
released; a register that is not enabled traps REG_RANGE. In a replayable launch a release opens a task. -/
def Sys2Proof.Claims.BarrierResult : Prop :=
  ∀ (s : State) (r : BitVec 4), s.goesC 0 →
    (s.bgOn r.toNat = false → exec (.bar r) s = .next (trapped s 0x12 (BitVec.ofNat 64 r.toNat) false) ∧
      exec (.barqWait r) s = .next (trapped s 0x12 (BitVec.ofNat 64 r.toNat) false)) ∧
    (s.bgOn r.toNat = true →
      (s.cur.wait = .barrier → s.cur.arr = none →
        exec (.bar r) s = .next (s.ended (if s.curCtx.replayable then leaving (calm s) .release else calm s))) ∧
      (s.cur.wait = .none → s.cur.arr = none → s.curCtx.replayable = false → s.latch.skip = 0 →
        exec (.bar r) s = .next (waiting s (s.modCur fun t => { t with arr := some (s.arrival r.toNat), wait := .barrier }) 7)) ∧
      (∀ w, s.cur.wait = .none → s.cur.arr = none → s.curCtx.replayable = true → ends s = some w → s.latch.skip = 0 →
        exec (.bar r) s = .next (waiting s ((between w).modCur fun t => { t with arr := some (s.arrival r.toNat), wait := .barrier }) 7) ∧
        ∀ d, exec (.barq d r) s =
          .next (waiting s ((between w).modCur fun t => { t with arr := some (s.arrival r.toNat), wait := .barq (s.arrival r.toNat).gen }) 7)) ∧
      (∀ d t, s.cur.wait = .none → s.cur.arr = none → s.curCtx.replayable = false →
        dest d (BitVec.ofNat 64 (s.arrival r.toNat).gen) (s.modCur fun t => { t with arr := some (s.arrival r.toNat) }) = .ok ((), t) →
        exec (.barq d r) s = .next (s.ended t)) ∧
      (∀ d t g, s.cur.wait = .barq g → s.cur.arr = none → dest d (BitVec.ofNat 64 g) (calm s) = .ok ((), t) →
        exec (.barq d r) s = .next (s.ended (leaving t .release))) ∧
      (s.cur.arr = none → exec (.barqWait r) s = .next (s.ended s)) ∧
      (∀ a, s.cur.arr = some a → a.bg = r.toNat → s.latch.skip = 0 → exec (.barqWait r) s = .next (parked s 7)) ∧
      (∀ a, s.cur.arr = some a → a.bg ≠ r.toNat → exec (.barqWait r) s = .next (s.ended s)))

end


/-! ### Ropes, fixed lines, messages and tokens (R73, R104, R128 to R135, R255 to R270) -/

section
open Sys2Proof Sys2Proof.Machine Sys2Proof.Claims

/-- R255, R256: `rparm` of a rope of this device completes where its arm block and its weight table pass their checks; a block with a field out of range, and a
rope that may not be armed so, trap with the rope word in TVAL. -/
def Sys2Proof.Claims.RopeArmResult : Prop :=
  ∀ (a b : BitVec 6) (s r u : State) (w blk : Word) (n i : Nat), s.goesC 0 → src a s = .ok (w, r) → src b r = .ok (blk, u) →
    ropeOf w false u = .ok ((n, i, u.dev.devno), u) → u.accessErr u.latch.core u.pre blk.toNat (blk.toNat + 63) 64 0 = none →
    isOwn u.latch.core blk.toNat = true →
    (armBlock (u.bytes (spKey u.latch.core (ownOff blk.toNat)) 64) = none → exec (.rparm a b) s = .next (trapped s 0x12 w false)) ∧
    (∀ m, armBlock (u.bytes (spKey u.latch.core (ownOff blk.toNat)) 64) = some m → m.table = 0xFFFFFFFF →
      (u.armErr u.curCtx.l n m [] = none → exec (.rparm a b) s = .next (s.ended (u.ropeArm u.curCtx.l n m []))) ∧
      (∀ k, u.armErr u.curCtx.l n m [] = some k → exec (.rparm a b) s = .next (trapped s k w false))) ∧
    (∀ m, armBlock (u.bytes (spKey u.latch.core (ownOff blk.toNat)) 64) = some m → m.table + 4 * m.n ≤ 0x100000 →
      (let t := BitVec.ofNat 64 (spKey u.latch.core m.table)
       u.accessErr u.latch.core u.pre t.toNat (t.toNat + 4 * m.n - 1) 1 0 = none) →
      (let ws := (List.range m.n).map fun j => u.word (spKey u.latch.core (m.table + 4 * j)) 4
       u.armErr u.curCtx.l n m ws = none → exec (.rparm a b) s = .next (s.ended (u.ropeArm u.curCtx.l n m ws))))

/-- R73, R256: arming zeroes every line of the target and no other byte, loads the configuration, and leaves the rope ARMED with nothing arrived, WARR 0 and WTOT the sum
of the weights; from IDLE or with RESET nobody is joined. -/
def Sys2Proof.Claims.RopeArmed : Prop :=
  ∀ (s : State) (l n : Nat) (a : ArmBlock) (ws : List Nat), s.MemOk →
    let t := s.ropeArm l n a ws
    let r := t.rope n
    r.st = 1 ∧ r.armed = true ∧ r.owner = l ∧ r.n = a.n ∧ r.q = a.q ∧ r.fill = a.fill ∧ r.kill = a.kill ∧ r.i32 = a.i32 ∧ r.len = a.len ∧ r.offs = a.offs ∧
    r.stale = a.stale ∧ r.arrived = 0 ∧ r.killed = 0 ∧ r.late = 0 ∧ r.filled = false ∧ r.deaddev = false ∧ r.warr = 0 ∧ r.pend = [] ∧
    r.wtot = ((List.range a.n).map fun i => ws.getD i 1).sum ∧ ((s.rope n).st = 0 ∨ a.reset = true → r.joined = 0) ∧
    (∀ x, t.byte x = if campKey (a.offs * 64) ≤ x ∧ x < campKey (a.offs * 64) + a.len * 64 then 0 else s.byte x) ∧
    (∀ m, m ≠ n → t.rope m = s.rope m)

/-- R257: `rpjoin` of a rope of this device enters the thread as a member whose index is below N and free, where the rope is neither IDLE nor RELEASING and the thread is a member of none;
any other traps REG_RANGE. -/
def Sys2Proof.Claims.RopeJoinResult : Prop :=
  ∀ (h a b : BitVec 6) (s p q u : State) (pc w wt : Word) (n i : Nat), s.goesC 0 → src h s = .ok (pc, p) → src a p = .ok (w, q) → src b q = .ok (wt, u) →
    ropeOf w true u = .ok ((n, i, u.dev.devno), u) →
    let ok := u.cur.mem = none ∧ wt.toNat ≤ 65535 ∧ i < (u.rope n).n ∧ (Table.get {} i (u.rope n).mem).j = false ∧ (u.rope n).st ≠ 0 ∧ (u.rope n).st ≠ 3
    (ok → exec (.rpjoin h a b) s = .next (s.ended ((u.ropeJoin n i u.dev.devno (thidOf u.cur) wt.toNat).modCur fun t =>
        { t with mem := some ⟨n, i, u.dev.devno, 0⟩, killPc := pc, kill := none })) ∧
      ((u.ropeJoin n i u.dev.devno (thidOf u.cur) wt.toNat).rope n).joined = (u.rope n).joined + 1) ∧
    (¬ ok → exec (.rpjoin h a b) s = .next (trapped s 0x12 w false))

/-- R255, R257, R261, R438: `rpjoin`, `rpwait` and `rpstat` of a rope of another device ask that device and park, and complete, or take the cause of the refusal, when its answer
has come; a device that cannot be reached refuses with PROT. -/
def Sys2Proof.Claims.RopeElsewhere : Prop :=
  (∀ (a : BitVec 6) (s u : State) (w : Word) (n i d : Nat), s.goesC 0 → src a s = .ok (w, u) → ropeOf w false u = .ok ((n, i, d), u) → d ≠ u.dev.devno →
    (u.cur.wait = .none → u.reach d = true → s.latch.skip = 0 →
      exec (.rpwait a) s = .next (waiting s (asked s d 4 [BitVec.ofNat 64 u.curCtx.job, w]) 8) ∧
      exec (.rpstat a) s = .next (waiting s (asked s d 5 [BitVec.ofNat 64 u.curCtx.job, w]) 8)) ∧
    (∀ vs, u.cur.wait = .got (0 :: vs) →
      exec (.rpwait a) s = .next (s.ended (calm u)) ∧
      ∀ p q t, push (vs.getD 0 0) (calm u) = .ok ((), p) → push (vs.getD 1 0) p = .ok ((), q) → push (vs.getD 2 0) q = .ok ((), t) →
        exec (.rpstat a) s = .next (s.ended t)) ∧
    (∀ k vs, k ≠ 0 → u.cur.wait = .got (k :: vs) →
      exec (.rpwait a) s = .next (trapped s k.toNat w false) ∧ exec (.rpstat a) s = .next (trapped s k.toNat w false)) ∧
    (u.cur.wait = .none → u.reach d = false →
      exec (.rpwait a) s = .next (trapped s 0x17 w false) ∧ exec (.rpstat a) s = .next (trapped s 0x17 w false))) ∧
  (∀ (h a b : BitVec 6) (s p q u : State) (pc w wt : Word) (n i d : Nat), s.goesC 0 → src h s = .ok (pc, p) → src a p = .ok (w, q) → src b q = .ok (wt, u) →
    ropeOf w true u = .ok ((n, i, d), u) → d ≠ u.dev.devno → u.cur.mem = none → wt.toNat ≤ 65535 →
    (u.cur.wait = .none → u.reach d = true → s.latch.skip = 0 →
      exec (.rpjoin h a b) s = .next (waiting s (asked s d 3 [BitVec.ofNat 64 u.curCtx.job, w, wt, BitVec.ofNat 64 (thidOf u.cur)]) 8)) ∧
    (∀ vs, u.cur.wait = .got (0 :: vs) → exec (.rpjoin h a b) s = .next (s.ended ((calm u).modCur fun t =>
      { t with mem := some ⟨n, i, d, (vs.getD 0 0).toNat⟩, killPc := pc, kill := none }))) ∧
    (∀ k vs, k ≠ 0 → u.cur.wait = .got (k :: vs) → exec (.rpjoin h a b) s = .next (trapped s k.toNat w false)))

/-- R123, R258: `rparr` of a joined member that has not arrived leaves its bytes as a pending contribution, its region locked as a source and its result pending; one that finds the rope
RELEASING or RELEASED is LATE; a thread that is no member, and a second arrival, trap REG_RANGE; in a team replay an arrival that was counted answers 0 again. That a contribution
outside the own scratchpad traps PROT is the model's choice (log 157). -/
def Sys2Proof.Claims.RopeArriveResult : Prop :=
  ∀ (d a : BitVec 6) (s u : State) (va : Word), s.goesC 0 → src a s = .ok (va, u) →
    (u.cur.mem = none → exec (.rparr d a) s = .next (trapped s 0x12 va false)) ∧
    (∀ m t, u.cur.mem = some m → m.dev = u.dev.devno → u.cur.kill = none → 0 < u.curCtx.replays → u.cur.arriving = false →
      (Table.get {} m.idx (u.rope m.rope).mem).cnt = true → dest d 0 u = .ok ((), t) → exec (.rparr d a) s = .next (s.ended t)) ∧
    (∀ m v, u.cur.mem = some m → m.dev = u.dev.devno → u.cur.kill = none → u.curCtx.replays = 0 →
      let e := Table.get {} m.idx (u.rope m.rope).mem
      let len := (u.rope m.rope).len * 64
      (u.cur.arriving = true ∨ e.cnt = true ∨ e.j = false → exec (.rparr d a) s = .next (trapped s 0x12 va false)) ∧
      (u.accessErr u.latch.core u.pre va.toNat (va.toNat + len - 1) 64 0 = none → isOwn u.latch.core va.toNat = false → u.cur.arriving = false → e.cnt = false → e.j = true →
        exec (.rparr d a) s = .next (trapped s 0x17 va false)) ∧
      (u.cur.arriving = false → e.cnt = false → e.j = true → u.accessErr u.latch.core u.pre va.toNat (va.toNat + len - 1) 64 0 = none →
        isOwn u.latch.core va.toNat = true → headed u = some v →
        (∀ t, 3 ≤ (u.rope m.rope).st → dest d 1 (v.modRope m.rope fun r => { r with late := min 255 (r.late + 1) }) = .ok ((), t) →
          exec (.rparr d a) s = .next (s.ended t)) ∧
        (∀ t g, (u.rope m.rope).st < 3 → (u.core u.latch.core).locks.length < 64 → reserve d.toNat v.nextOp v = .ok (g, t) →
          exec (.rparr d a) s = .next (s.ended (((((t.withOp { t.newOp .pre with dest := g, addr := va, n := len }).modCore u.latch.core fun k =>
            { k with locks := k.locks ++ [⟨v.nextOp, false, u.cur.x, 5, u.latch.slot, ownOff va.toNat, ownOff va.toNat + len - 1⟩] }).modCur fun q => { q with arriving := true })).ropeArrive
              m.rope { m := m.idx, dev := m.dev, op := v.nextOp, bytes := v.bytes (spKey u.latch.core (ownOff va.toNat)) len })))))

/-- R73, R261: `rpwait` completes when the rope is RELEASED or IDLE, and parks otherwise; `rpstat` pushes RPSTAT, RPWSUM and RPROUND, so that t0 holds RPROUND; `rpleave` ends the
membership, and of a thread that is no member traps REG_RANGE. -/
def Sys2Proof.Claims.RopeWaitResult : Prop :=
  (∀ (a : BitVec 6) (s u : State) (w : Word) (n i : Nat), s.goesC 0 → src a s = .ok (w, u) → ropeOf w false u = .ok ((n, i, u.dev.devno), u) →
    (u.cur.wait = .none → (u.rope n).st = 4 ∨ (u.rope n).st = 0 → exec (.rpwait a) s = .next (s.ended u)) ∧
    (u.cur.wait = .none → (u.rope n).st ≠ 4 → (u.rope n).st ≠ 0 →
      s.latch.skip = 0 → exec (.rpwait a) s = .next (waiting s (s.modCur fun t => { t with wait := .rope n }) 8)) ∧
    (∀ v, u.cur.wait = .done v → exec (.rpwait a) s = .next (s.ended (calm u))) ∧
    (∀ p q t, push (BitVec.ofNat 64 (u.ropeReg n 1)) u = .ok ((), p) → push (BitVec.ofNat 64 (u.ropeReg n 3)) p = .ok ((), q) →
      push (BitVec.ofNat 64 (u.ropeReg n 4)) q = .ok ((), t) → exec (.rpstat a) s = .next (s.ended t))) ∧
  (∀ s : State, s.goesC 0 →
    (s.cur.mem.isSome = true → s.cur.arriving = false → exec .rpleave s = .next (s.ended (s.leaveRope s.latch.core s.latch.slot))) ∧
    (s.cur.mem.isSome = true → s.cur.arriving = true → s.latch.skip = 0 → exec .rpleave s = .next (parked s 8)) ∧
    (s.cur.mem = none → exec .rpleave s = .next (trapped s 0x12 0 false)))

/-- R266, R382: `flsub` whose operands pass the checks takes an entry on both cores, copies the source region and answers the subscriber entry's index; with a table full it changes
nothing and answers which. -/
def Sys2Proof.Claims.FixedLineSubscribe : Prop :=
  ∀ (f : Rrr) (m : BitVec 1) (s p u : State) (a b : Word), s.goesC 0 → src f.a s = .ok (a, p) → src f.b p = .ok (b, u) →
    let c := u.latch.core
    let x := u.cur.x
    let off := a.toNat % 2 ^ 20
    let len := a.toNat / 2 ^ 24 % 2 ^ 11
    let win := a.toNat / 2 ^ 40 % 64
    let so := b.toNat % 2 ^ 20
    let d := b.toNat / 2 ^ 32 % 512
    a.toNat = off + len * 2 ^ 24 + win * 2 ^ 40 → off % 64 = 0 → 1 ≤ len → len ≤ 1024 → (m = 0 → win = 0) → off + 64 * len ≤ 0x100000 →
    (u.core c).sub.any (fun q => q.2.v && overlap off (64 * len) q.2.off (64 * q.2.len)) = false →
    b.toNat = so + d * 2 ^ 32 → so % 64 = 0 → so + 64 * len ≤ 0x100000 → d ≠ c →
    (inRect u.curCtx d = false → exec (.flsub f m) s = .next (trapped s 0x17 b false)) ∧
    (inRect u.curCtx d = true → u.spShare c x off (64 * len) = true → u.spShare d x so (64 * len) = true →
      (∀ t, freeEntry (u.core c).sub = none → dest f.d (0x8000000000000001 : Word) u = .ok ((), t) → exec (.flsub f m) s = .next (s.ended t)) ∧
      (∀ t i, freeEntry (u.core c).sub = some i → freeEntry (u.core d).src = none → dest f.d (0x8000000000000002 : Word) u = .ok ((), t) →
        exec (.flsub f m) s = .next (s.ended t)) ∧
      (∀ t i j, freeEntry (u.core c).sub = some i → freeEntry (u.core d).src = some j →
        dest f.d (BitVec.ofNat 64 i) (u.subscribe c d i j x off so len win (m == 1#1)) = .ok ((), t) → exec (.flsub f m) s = .next (s.ended t)))

/-- R130, R267: the instructions of a subscriber entry in use by the context. `flend` frees both entries once the line has caught up, `flsync` completes once it has, `flstat` reads the status and
`flstat.clr` clears REFRESHED besides; an entry not in use traps REG_RANGE. -/
def Sys2Proof.Claims.FixedLineUse : Prop :=
  ∀ (a : BitVec 6) (s u : State) (v : Word), s.goesC 0 → src a s = .ok (v, u) →
    let c := u.latch.core
    let f := Table.get {} v.toNat (u.core c).sub
    (64 ≤ v.toNat ∨ f.v = false ∨ f.x ≠ u.cur.x →
      exec (.flend a) s = .next (trapped s 0x12 v false) ∧ exec (.flsync a) s = .next (trapped s 0x12 v false) ∧
      ∀ d, exec (.flstat d a) s = .next (trapped s 0x12 v false) ∧ exec (.flstatClr d a) s = .next (trapped s 0x12 v false)) ∧
    (v.toNat < 64 → f.v = true → f.x = u.cur.x →
      (∀ d t, dest d (lineStatus f) u = .ok ((), t) → exec (.flstat d a) s = .next (s.ended t) ∧
        exec (.flstatClr d a) s = .next (s.ended (t.modCore t.latch.core fun k => { k with sub := Table.set v.toNat { f with refreshed := false } k.sub }))) ∧
      (u.cur.wait = .none → f.lapsed = false → reached f.seq (Table.get {} f.pidx (u.core f.peer).src).seq = true →
        (∃ t : State, exec (.flend a) s = .next (s.ended t) ∧ Table.get {} v.toNat (t.core c).sub = {} ∧ Table.get {} f.pidx (t.core f.peer).src = {} ∧
          t.mem = u.mem ∧ t.threads = u.threads) ∧
        ((u.core f.peer).batch = [] → exec (.flsync a) s = .next (s.ended u))) ∧
      (u.cur.wait = .none → s.latch.skip = 0 → f.lapsed = true ∨ reached f.seq (Table.get {} f.pidx (u.core f.peer).src).seq = false →
        let w := waiting s (u.modCur fun t => { t with wait := .line v.toNat (Table.get {} f.pidx (u.core f.peer).src).seq }) 8
        exec (.flend a) s = .next w ∧ ((u.core f.peer).batch = [] → exec (.flsync a) s = .next w)) ∧
      (∀ q, u.cur.wait = .line v.toNat q → f.lapsed = false → reached f.seq q = true → exec (.flsync a) s = .next (s.ended (calm u))) ∧
      (∀ q, u.cur.wait = .line v.toNat q → s.latch.skip = 0 → f.lapsed = true ∨ reached f.seq q = false → exec (.flsync a) s = .next (parked s 8)))

/-- R269: `send` completes its issue with its status pending, once every earlier access is performed; to another device it takes XDEV, and in a rope member's task it traps. -/
def Sys2Proof.Claims.SendResult : Prop :=
  ∀ (f : Rrr) (q : BitVec 3) (s p u : State) (a v : Word), s.goesC 0 → src f.a s = .ok (a, p) → src f.b p = .ok (v, u) →
    let dev := a.toNat / 2 ^ 17 % 2 ^ 15
    (∀ (w t : State) (r : Dest), (dev = u.dev.devno ∨ u.cur.xdev = true ∧ remoteSends u 10 = false) → u.cur.mem = none → performed u → headed u = some w →
      reserve f.d.toNat w.nextOp w = .ok (r, t) →
      exec (.send f q) s = .next (s.ended (t.withOp { t.newOp .send with
        dest := r, addr := BitVec.ofNat 64 (a.toNat % 2 ^ 32), n := q.toNat, data := v.setWidth 4096, tgt := dev }))) ∧
    (dev ≠ u.dev.devno → u.cur.xdev = false → exec (.send f q) s = .next (trapped s 0x17 a false)) ∧
    (dev = u.dev.devno ∨ u.cur.xdev = true → u.cur.mem.isSome = true → exec (.send f q) s = .next (trapped s 0x19 a false))

/-- R99, R104, R270, R384: `acqr` completes at once where this device holds the token of the region, parks while the region is being copied, and otherwise asks the holder and parks; `relr` gives
the token back once the thread's own accesses to the region are done; both take XDEV. That `acqr` traps PROT towards a holder that cannot be reached is the model's choice (log 151), and so is
that the thread's own buffered stores land first at `relr` (log 152). -/
def Sys2Proof.Claims.TokenResult : Prop :=
  ∀ (a : BitVec 6) (s u : State) (v : Word), s.goesC 0 → src a s = .ok (v, u) →
    (u.cur.xdev = false → exec (.acqr a) s = .next (trapped s 0x17 v false) ∧ exec (.relr a) s = .next (trapped s 0x17 v false)) ∧
    (u.cur.xdev = true → v.toNat < 2 ^ 55 → coveredBy (allLeases (u.lease u.curCtx.l)) (v.toNat / 0x200000 * 0x200000) 0x200000 0 = true → u.cur.mem = none →
      u.cur.timed = false ∨ u.cur.serial = true ∨ u.isHead u.cur = true →
      (let r := v.toNat / 0x200000
       let here := fun (b n : Nat) => overlap (r * 0x200000) 0x200000 b n
       (∀ o ∈ u.opsOf u.latch.core u.latch.slot, here o.addr.toNat (max 1 o.n) = false) →
        ((∀ b ∈ u.cur.buf, here b.va.toNat b.bytes.length = false) → exec (.relr a) s = .next (s.ended (u.returnToken r))) ∧
        ((∃ b ∈ u.cur.buf, here b.va.toNat b.bytes.length = true) → u.serialWait u.latch.core u.latch.slot = none →
          exec (.relr a) s = .next (s.ended ((u.serialise u.latch.core u.latch.slot).returnToken r)))) ∧
      (u.regionBusy v.toNat = true → s.latch.skip = 0 → exec (.acqr a) s = .next (parked s 11)) ∧
      (u.regionBusy v.toNat = false →
        (u.held v.toNat = true → exec (.acqr a) s = .next (s.ended (calm u))) ∧
        (u.held v.toNat = false → u.cur.wait = .none → u.reach (u.holder v.toNat) = true → (u.tokenOf v.toNat).isSome = true ∨ (u.tokenWay (v.toNat / 0x200000)).isSome = true →
          s.latch.skip = 0 → exec (.acqr a) s = .next (waiting s ((s.modCur fun t => { t with wait := .token (v.toNat / 0x200000) }).tokenPacket (s.holder v.toNat) 0 0
            (v.toNat / 0x200000) 0 (toBytes 8 s.curCtx.l)) 11)) ∧
        (u.held v.toNat = false → u.cur.wait = .none → u.reach (u.holder v.toNat) = false → exec (.acqr a) s = .next (trapped s 0x17 v false))))

end


/-! ### Engine commands (R45, R124, R300 to R334, R341, R342) -/

namespace Sys2Proof.Claims

open Sys2Proof.Machine

/-- A tile, or an accumulator, that the context may name, on the executing core (R48). -/
def mayTile (s : State) (n : Nat) : Prop := shareOk (s.core s.latch.core).share s.cur.x n 14 = true
def mayAcc (s : State) (n : Nat) : Prop := shareOk (s.core s.latch.core).share s.cur.x n 3 = true

/-- A format that the launch's version knows (R84, R446). -/
def known (s : State) (fmt : Nat) : Prop := s.fmtReserved s.curCtx.ver fmt = false

/-- A thread that may have a command write outside its scratchpad (R304): no rope member, and not timed, head-serialised or the head. -/
def mayWriteOut (s : State) : Prop := (s.cur.timed = true → s.cur.serial = true ∨ s.isHead s.cur = true) ∧ s.cur.mem = none

/-- A destination outside every subscriber region of the core (R131). -/
def outsideLines (s : State) (rs : List (Nat × Nat)) : Prop := ∀ r ∈ rs, r.2 ≠ 0 → s.subHit s.latch.core r.1 r.2 = false

/-- Rows of the own scratchpad within it and within the context's share (R77). -/
def rowsFit (s : State) (rows : List (List (Nat × Nat))) : Prop := ∀ rs ∈ rows, s.rowsErr s.latch.core s.cur.x rs = none

/-- `n` bytes of the own scratchpad from an address, aligned, which a command may read (R77, R302). -/
def ownBytes (s : State) (va : Word) (n align : Nat) : Prop :=
  isOwn s.latch.core va.toNat = true ∧
    (s.accessErr s.latch.core s.pre va.toNat (va.toNat + n - 1) align 0 = none ∨ s.accessErr s.latch.core s.pre va.toNat (va.toNat + n - 1) align 0 = some 0x05)

/-- The view of a tile transfer: its window's descriptor, or a raw place of format `fmt` (R309). -/
def viewOf (w : Option (BitVec 32)) (fmt : Nat) : Desc := match w with | some w => descOf w | none => rawDesc fmt

/-- Rows of a transfer, as byte ranges (R309). -/
def transferRows (d : Desc) (o stride k rows : Nat) : List (List (Nat × Nat)) :=
  (List.range rows).map fun r => d.dataRuns (d.index o + r * stride) k ++ d.scaleRuns (d.index o + r * stride) k

/-- The checks of a transfer's place (R309). -/
def transferFits (s : State) (d : Desc) (o stride k rows : Nat) : Prop :=
  d.inScaleLine o = false ∧ (∀ r ∈ (transferRows d o stride k rows).headD [], r.1 + r.2 ≤ 0x100000) ∧ d.onGroup o = true ∧
    (d.scaled = true → d.index o % d.blk = 0 ∧ stride % d.blk = 0) ∧ rowsFit s (transferRows d o stride k rows)

/-- The tile is named by no command in flight (R45). -/
def tileFree (s : State) (n : Nat) : Prop := ((s.core s.latch.core).tile n).busy = 0

/-- What a fill leaves of a tile at issue: its shape and format, without scales (R309, R311). -/
def shaped (s : State) (n rows rowb fmt blk : Nat) : State :=
  s.modCore s.latch.core fun k => { k with tiles := Table.set n { k.tile n with fmt := fmt, rowb := rowb, nrows := rows, scv := false, blk := blk } k.tiles }

/-- The accumulators' type set (R312). -/
def typed (s : State) (l : List Nat) (ty : Option Bool) : State :=
  s.modCore s.latch.core fun k => l.foldl (fun k n => { k with accs := Table.set n { k.acc n with ty := ty } k.accs }) k

/-- A command with `n` range-lock entries finds room for them, and an entry of its port in the context's part (R123, R341). -/
def mayIssue (s : State) (eng n : Nat) : Prop :=
  (s.core s.latch.core).locks.length + n ≤ 64 ∧ portFree (s.core s.latch.core) eng s.cur.x = true

/-- The command that a thread issues, with what it captures (R124, R302): `f` fills in what it does. -/
def commandOf (s : State) (eng : Nat) (ins : Instr) (q : Tail) (f : Cmd → Cmd) : Cmd :=
  f { id := s.nextOp, eng := eng, core := s.latch.core, slot := s.latch.slot, x := s.cur.x, ts := q.t.toNat, ns := q.n == 1#1, tseq := s.cur.tseq,
      fpc := s.pre.fpc, seed := s.cur.srst, ins := ins, a := 0, b := 0, thid := thidOf s.cur, pc := s.cur.pc, ws := q.w.toNat, stores := s.cur.buf.length }

/-- The state after a command has issued (R302, R341, R342): it stands in its port, its ranges are locked and its tiles held; in SR the generator has stepped once. -/
def commanded (s : State) (eng : Nat) (ins : Instr) (q : Tail) (ws : List Want) (f : Cmd → Cmd) : State :=
  let u := if fpcRM s.pre.fpc = 5 then (stepped s).2 else s
  let m := commandOf u eng ins q f
  { u.modCore u.latch.core fun k =>
      m.tiles.foldl (fun k n => { k with tiles := Table.set n { k.tile n with busy := (k.tile n).busy + 1 } k.tiles })
        { k with cmds := k.cmds ++ [m], locks := k.locks ++ ws.map fun w => ⟨m.id, w.dst, u.cur.x, eng, u.latch.slot, w.lo, w.hi⟩ } with
    nextOp := u.nextOp + 1 }

/-- A copy's descriptor at an address of the own scratchpad (R125, R321): 32 bytes, as the commands of a wait slot see them. -/
def descriptor (s : State) (va : Word) (q : Tail) : List Byte :=
  (List.range 32).map fun i => s.under (s.cur.setBy q.w.toNat s.cur.buf.length) (spKey s.latch.core (ownOff va.toNat + i))

end Sys2Proof.Claims

section
open Sys2Proof Sys2Proof.Machine Sys2Proof.Claims

/-- R124, R302, R341, R342: a command whose port has an entry and whose range locks find room joins its engine's queue with a captured FPC, a seed that is one step of the generator in
SR, its task and its wait slot, locks its ranges and holds its tiles; otherwise the thread parks with the cause of a full port. Nothing else changes. Every engine command of the next three
statements issues so. -/
def Obligations.EngineIssue : Prop :=
  ∀ (eng : Nat) (ins : Instr) (q : Tail) (ws : List Want) (f : Cmd → Cmd) (s : State),
    let c := s.latch.core
    let u := if fpcRM s.pre.fpc = 5 then (stepped s).2 else s
    let m := commandOf u eng ins q f
    let v := commanded s eng ins q ws f
    (mayIssue s eng ws.length → issueCmd eng ins q ws f s = .ok ((), v)) ∧
    (v.nextOp = u.nextOp + 1 ∧ v.mem = s.mem ∧ v.threads = u.threads ∧ v.agenda = s.agenda ∧ v.latch = u.latch ∧
      (v.core c).cmds = (s.core c).cmds ++ [m] ∧
      (v.core c).locks = (s.core c).locks ++ ws.map (fun w => ⟨m.id, w.dst, u.cur.x, eng, s.latch.slot, w.lo, w.hi⟩) ∧
      (∀ n, m.tiles.Nodup → ((v.core c).tile n).busy = ((s.core c).tile n).busy + (if n ∈ m.tiles then 1 else 0)) ∧
      ∀ d, d ≠ c → v.core d = s.core d) ∧
    (¬ mayIssue s eng ws.length → s.latch.skip = 0 → issueCmd eng ins q ws f s = .error (.park 5 id))

/-- R305, R309 to R311: `tld`, `tst` and `tzero` complete their issue where their tile, shape, format and place pass the checks, `accz` where the context has the
matrix unit. A fill sets the tile's shape at issue, `accz` takes the accumulator's type away. -/
def Sys2Proof.Claims.TileCommands : Prop :=
  (∀ (x y : BitVec 6) (k : BitVec 4) (q : Tail) (s p u : State) (va yv : Word) (o rows rowb fmt stride : Nat) (w : Option (BitVec 32)), s.goesC q.w.toNat →
    src x s = .ok (va, p) → src y p = .ok (yv, u) → mayTile u k.toNat → yv.toNat = rows + rowb * 2 ^ 8 + fmt * 2 ^ 24 + stride * 2 ^ 32 →
    rows < 128 → rowb < 16 → fmt < 16 → stride < 2 ^ 20 → u.ownPlace va.toNat = ⟨o, w, none⟩ →
    let d := viewOf w fmt
    let e := rowb * 256 / d.width
    (w.isSome = true → fmt = 0) → badShape rows rowb d.fmt d.blk = false → known u d.fmt → (w = none → fmtScaled fmt = false) → tileFree u k.toNat →
    transferFits u d o stride e rows →
    let ws := wantOf false (transferRows d o stride e rows).flatten
    mayIssue u 0 ws.length →
    exec (.tld x y k q) s = .next (s.ended (shaped (commanded u 0 (.tld x y k q) q ws fun m =>
      { m with a := va, b := yv, wd := w.getD 0, tiles := [k.toNat], args := [k.toNat, d.index o, stride, e], steps := rows }) k.toNat rows rowb d.fmt (if d.blk = 32 then 1 else 0)))) ∧
  (∀ (x y : BitVec 6) (k : BitVec 4) (q : Tail) (s p u : State) (va yv : Word) (o stride : Nat) (w : Option (BitVec 32)), s.goesC q.w.toNat →
    src x s = .ok (va, p) → src y p = .ok (yv, u) → mayTile u k.toNat → yv.toNat = stride * 2 ^ 32 → stride < 2 ^ 20 → u.ownPlace va.toNat = ⟨o, w, none⟩ →
    let l := (u.core u.latch.core).tile k.toNat
    let d := viewOf w l.fmt
    (u.core u.latch.core).tileReady k.toNat = true → known u l.fmt →
    (w.isSome = true → d.fmt = l.fmt ∧ (d.scaled = true → d.blk = blkOf l.blk)) → (w = none → fmtScaled l.fmt = false) →
    transferFits u d o stride (tileK l) l.nrows → outsideLines u (transferRows d o stride (tileK l) l.nrows).flatten →
    let ws := wantOf true (transferRows d o stride (tileK l) l.nrows).flatten
    mayIssue u 0 ws.length →
    exec (.tst x y k q) s = .next (s.ended (commanded u 0 (.tst x y k q) q ws fun m =>
      { m with a := va, b := yv, wd := w.getD 0, tiles := [k.toNat], args := [k.toNat, d.index o, stride, tileK l], steps := l.nrows }))) ∧
  (∀ (x : BitVec 6) (k : BitVec 4) (q : Tail) (s u : State) (v : Word) (rows rowb fmt blk : Nat), s.goesC q.w.toNat → src x s = .ok (v, u) → mayTile u k.toNat →
    v.toNat = rows + rowb * 2 ^ 8 + fmt * 2 ^ 24 + blk * 2 ^ 32 → rows < 128 → rowb < 16 → fmt < 16 → blk < 2 → (fmtScaled fmt = false → blk = 0) →
    badShape rows rowb fmt (blkOf blk) = false → known u fmt → tileFree u k.toNat →
    mayIssue u 0 0 →
    exec (.tzero x k q) s = .next (s.ended (shaped (commanded u 0 (.tzero x k q) q [] fun m =>
      { m with a := v, tiles := [k.toNat], args := [k.toNat], steps := 1 }) k.toNat rows rowb fmt blk))) ∧
  (∀ (c : BitVec 2) (q : Tail) (s : State), s.goesC q.w.toNat → s.cur.mx = true → mayAcc s c.toNat → mayIssue s 1 0 →
    exec (.accz c q) s = .next (s.ended (typed (commanded s 1 (.accz c q) q [] fun m => { m with args := [c.toNat], accW := [c.toNat], steps := 1 }) [c.toNat] none)))

/-- R312, R313, R315, R317, R318: `mma`, `mmat`, `mvs` and `epi` complete their issue for a context with the matrix unit where their operands pass the checks; a product sets the type of the accumulators
it names. Without the unit each traps MX_DENIED. -/
def Sys2Proof.Claims.MatrixCommands : Prop :=
  (∀ p ∈ [(Instr.mma, false), (.mmat, true)], ∀ (x : BitVec 6) (c : BitVec 2) (q : Tail) (s u : State) (v : Word) (ty : Bool) (g : Nat), s.goesC q.w.toNat →
    src x s = .ok (v, u) →
    (u.cur.mx = false → exec (p.1 x c q) s = .next (trapped s 0x1C (s.latch.word.setWidth 64) false)) ∧
    (u.cur.mx = true → v.toNat < 2 ^ 20 →
      let k := u.core u.latch.core
      let ta := v.toNat % 16
      let tb := v.toNat / 16 % 16
      u.mmaErr u.latch.core u.cur.x p.2 c.toNat ta tb (k.acc c.toNat).ty = none → pairOf (k.tile ta).fmt (k.tile tb).fmt = some (ty, g) →
      mayIssue u 1 0 →
      exec (p.1 x c q) s = .next (s.ended (typed (commanded u 1 (p.1 x c q) q [] fun m => { m with
        a := v, tiles := [ta, tb], accW := [c.toNat]
        args := [c.toNat, b2n p.2, ta, tb, v.toNat / 256 % 16, v.toNat / 4096 % 16, v.toNat / 2 ^ 19 % 2, v.toNat / 2 ^ 16 % 8, b2n ty, 1, 0, 0] }) [c.toNat] (some ty))))) ∧
  (∀ (x y : BitVec 6) (e : BitVec 1) (g : BitVec 3) (c : BitVec 2) (q : Tail) (s p u : State) (va yv : Word) (a z : Nat) (ty : Bool), s.goesC q.w.toNat →
    src x s = .ok (va, p) → src y p = .ok (yv, u) → u.cur.mx = true →
    let d := streamOf yv.toNat
    let k := u.core u.latch.core
    let l := k.tile d.vt
    let accs := (List.range ((d.cols + 63) / 64)).map (c.toNat + ·)
    mayTile u d.vt → yv.toNat < 2 ^ 38 → 0 < d.stride → d.stride % 64 = 0 → 1 ≤ l.nrows → l.nrows ≤ 8 → 1 ≤ d.cols → d.cols ≤ 256 →
    c.toNat + (d.cols + 63) / 64 ≤ 4 → (∀ n ∈ accs, mayAcc u n) →
    (fmtScaled d.fmt = true → d.stride * 8 % (fmtTy d.fmt).width = 0 ∧ d.stride * 8 / (fmtTy d.fmt).width % d.blk = 0) → k.tileReady d.vt = true →
    known u l.fmt → known u d.fmt → pairOf l.fmt d.fmt = some (ty, z) → (∀ n ∈ accs, (k.acc n).ty = none ∨ (k.acc n).ty = some ty) →
    spaceOf va.toNat = some (.glob a) → a / 2 ^ 40 = u.dev.devno →
    mayIssue u 1 0 →
    exec (.mvs x y e g c q) s = .next (s.ended (typed (commanded u 1 (.mvs x y e g c q) q [] fun m => { m with
      a := va, b := yv, tiles := [d.vt], accW := accs, args := [c.toNat, e.toNat, g.toNat, b2n ty, 1, 0, 0, l.nrows, tileK l, l.fmt] }) accs (some ty)))) ∧
  (∀ (x y : BitVec 6) (e : BitVec 1) (g : BitVec 3) (c : BitVec 2) (q : Tail) (s p u : State) (va yv : Word) (o : Nat) (w : Option (BitVec 32)), s.goesC q.w.toNat →
    src x s = .ok (va, p) → src y p = .ok (yv, u) → u.cur.mx = true → mayAcc u c.toNat →
    let f := epiOf yv.toNat
    let d := viewOf w 0
    let k := u.core u.latch.core
    let i := d.index o
    let rows := f.rowRanges d i 1
    f.scale ≠ 3 → f.dstride ≠ 0 → u.ownPlace va.toNat = ⟨o, w, none⟩ → (d.scaled = true → f.cols % d.blk = 0 ∧ (d.smode = true ∨ f.gscale ≠ 255)) → known u d.fmt →
    d.inScaleLine o = false → (∀ r ∈ rows.headD [], r.1 + r.2 ≤ 0x100000) → d.onGroup o = true → (d.scaled = true → i % d.blk = 0 ∧ f.dstride % d.blk = 0) →
    (d.width = 6 → f.dstride % 4 = 0 ∧ f.cols % 4 = 0) → rowsFit u rows →
    (∀ r ∈ f.vectors 1, r.1 + r.2 ≤ 0x100000 ∧ u.spShare u.latch.core u.cur.x r.1 r.2 = true) → outsideLines u rows.flatten →
    mayIssue u 2 (f.wants d i 1).length →
    exec (.epi x y e g c q) s = .next (s.ended (commanded u 2 (.epi x y e g c q) q (f.wants d i 1) fun m => { m with
      a := va, b := yv, wd := w.getD 0, steps := f.rows
      args := [c.toNat, e.toNat, g.toNat, ((List.range 4).map fun a => if (k.acc a).ty = some true then 2 ^ a else 0).sum, 1, i]
      accR := if e = 1#1 then (List.range 4).filter (fun n => shareOk k.share u.cur.x n 3) else [c.toNat] })))

/-- R101, R304, R321 to R325: `cpy`, `cpyp` and `cpyf` complete their issue where the descriptor and both ends pass the checks; `cpyp` pushes its promised time besides, and remembers it. -/
def Sys2Proof.Claims.CopyCommands : Prop :=
  ∀ (x y : BitVec 6) (e : BitVec 1) (g : BitVec 3) (q : Tail) (s p u : State) (dv lv : Word), s.goesC q.w.toNat → src x s = .ok (dv, p) → src y p = .ok (lv, u) →
    lv.toNat ≤ 0x1000000 → ownBytes u dv 32 32 →
    let c := u.latch.core
    let n := lv.toNat
    let d := copyDesc (descriptor u dv q)
    let want := copyWants c d.dst d.src d.ds d.ss n 1
    let fill := fun (k : Nat) (m : Cmd) => { m with
      a := BitVec.ofNat 64 d.dst, b := BitVec.ofNat 64 d.src, args := [n, 1, 0, 0, d.acc, d.hback, e.toNat, g.toNat, d.ds, d.ss, k] }
    let acc := d.acc ≠ 0 → ∃ o, spaceOf d.dst = some (.camp o)
    let out := isOwn c d.dst = false → mayWriteOut u
    d.acc ≤ 11 → u.copyErr c u.pre d.dst d.src n (if d.acc = 0 then 1 else 2) d.ds d.ss = none → out → acc →
    (d.hback = 0 →
      (mayIssue u 3 want.length → exec (.cpy x y e g q) s = .next (s.ended (commanded u 3 (.cpy x y e g q) q want (fill 0)))) ∧
      (∀ v, let w := u.promise c (if e = 1#1 then u.loopReg c u.cur.x 2 g.toNat else 1) n d.dst d.src
        push (BitVec.ofNat 64 w) u = .ok ((), v) → mayIssue v 3 want.length →
        exec (.cpyp x y e g q) s = .next (s.ended ((commanded v 3 (.cpyp x y e g q) q want (fill 0)).modCur fun r => { r with promises := r.promises ++ [(w, v.nextOp)] })))) ∧
    (e = 0#1 → d.acc = 0 → d.hback % 32 = 0 → u.rowsErr c u.cur.x [(d.hback, 32)] = none → outsideLines u [(d.hback, 32)] →
      let ws := want ++ wantOf true [(d.hback, 32)]
      mayIssue u 3 ws.length →
      exec (.cpyf x y e g q) s = .next (s.ended (let t := commanded u 3 (.cpyf x y e g q) q ws (fill 1); t.markTouched (t.ctx c u.cur.x).l)))

/-- R326, R327: `put` and `get` complete their issue for a thread with XDEV where the descriptor names another device and the local range passes the checks; without XDEV
they trap PROT, and longer than 1 MiB REG_RANGE. -/
def Sys2Proof.Claims.TransferCommands : Prop :=
  ∀ (x y : BitVec 6) (q : Tail) (s p u : State) (dv lv : Word), s.goesC q.w.toNat → src x s = .ok (dv, p) → src y p = .ok (lv, u) →
    let b := descriptor u dv q
    let w := fun i n => ofBytes (slice b i n)
    let loc := BitVec.ofNat 64 (w 0 8)
    let far := BitVec.ofNat 64 (w 8 8)
    let o := ownOff loc.toNat
    let st := ownOff dv.toNat + 24
    let fill := fun (m : Cmd) => { m with a := loc, b := far, args := [lv.toNat, w 16 2, o, st, 0, 0, 0, 0] }
    (u.cur.xdev = false → exec (.put x y q) s = .next (trapped s 0x17 dv false) ∧ exec (.get x y q) s = .next (trapped s 0x17 dv false)) ∧
    (u.cur.xdev = true → 0x100000 < lv.toNat → exec (.put x y q) s = .next (trapped s 0x12 lv false) ∧ exec (.get x y q) s = .next (trapped s 0x12 lv false)) ∧
    (u.cur.xdev = true → lv.toNat ≤ 0x100000 → ownBytes u dv 32 32 → w 18 6 = 0 → w 16 2 < 2 ^ 15 → w 16 2 ≠ u.dev.devno → ownBytes u loc (max lv.toNat 1) 1 →
      (let ws := wantOf false [(o, lv.toNat)] ++ wantOf true [(st, 8)]
       outsideLines u [(st, 8)] → mayWriteOut u → mayIssue u 4 ws.length → exec (.put x y q) s = .next (s.ended (commanded u 4 (.put x y q) q ws fill))) ∧
      (let ws := wantOf true [(o, lv.toNat)] ++ wantOf true [(st, 8)]
       outsideLines u [(o, lv.toNat), (st, 8)] → mayIssue u 4 ws.length → exec (.get x y q) s = .next (s.ended (commanded u 4 (.get x y q) q ws fill))))

/-- R328 to R334: `ksend`, `kflush`, `kbins`, `kbins.map` and `kbins.stat` complete their issue where their operands pass the checks. -/
def Obligations.KeyedCommands : Prop :=
  (∀ (x y : BitVec 6) (e : BitVec 1) (c : BitVec 3) (q : Tail) (s p u : State) (va v : Word), s.goesC q.w.toNat → src x s = .ok (va, p) → src y p = .ok (v, u) →
    let n := if e = 1#1 then 1 else v.toNat
    n ≤ 131072 → ownBytes u va (max (8 * n) 1) 8 → mayWriteOut u →
    let ws := wantOf false [(ownOff va.toNat, 8 * n)]
    mayIssue u 4 ws.length →
    exec (.ksend x y e c q) s = .next (s.ended (commanded u 4 (.ksend x y e c q) q ws fun m =>
      { m with a := va, b := v, args := [n, ownOff va.toNat, e.toNat, c.toNat, 0] }))) ∧
  (∀ (q : Tail) (s : State), s.goesC q.w.toNat → mayIssue s 4 0 →
    exec (.kflush q) s = .next (s.ended (commanded s 4 (.kflush q) q [] fun m => { m with args := [0], steps := 1 }))) ∧
  (∀ (x y : BitVec 6) (q : Tail) (s p u : State) (d b : Word), s.goesC q.w.toNat → src x s = .ok (d, p) → src y p = .ok (b, u) →
    let off := d.toNat % 2 ^ 20
    let n := d.toNat / 2 ^ 20 % 2 ^ 16
    d.toNat < 2 ^ 38 → off % 64 = 0 → b.toNat < 2 ^ 32 → (n ≠ 0 → off + 4 * n ≤ 0x100000 ∧ u.spShare u.latch.core u.cur.x off (4 * n) = true) →
    outsideLines u [(off, 4 * n)] → mayIssue u 4 0 →
    exec (.kbins x y q) s = .next (s.ended (commanded u 4 (.kbins x y q) q [] fun m => { m with a := d, b := b, steps := 1 }))) ∧
  (∀ (x y : BitVec 6) (q : Tail) (s p u : State) (i v : Word) (r dev k : Nat), s.goesC q.w.toNat → src x s = .ok (i, p) → src y p = .ok (v, u) → i.toNat < 1024 →
    v.toNat = r + dev * 2 ^ 9 + k * 2 ^ 31 → r < 512 → dev < 2 ^ 15 → k < 2 →
    (if dev = u.dev.devno then inRect u.curCtx r = true else u.cur.xdev = true) → (dev ≠ u.dev.devno → mayWriteOut u) → mayIssue u 4 0 →
    exec (.kbinsMap x y q) s = .next (s.ended (commanded u 4 (.kbinsMap x y q) q [] fun m => { m with a := i, b := v, steps := 1 }))) ∧
  (∀ (x : BitVec 6) (q : Tail) (s u : State) (va : Word), s.goesC q.w.toNat → src x s = .ok (va, u) → ownBytes u va 16 16 → outsideLines u [(ownOff va.toNat, 16)] →
    let ws := wantOf true [(ownOff va.toNat, 16)]
    mayIssue u 4 ws.length →
    exec (.kbinsStat x q) s = .next (s.ended (commanded u 4 (.kbinsStat x q) q ws fun m => { m with a := va, args := [ownOff va.toNat], steps := 1 })))

end

/-! ### Control registers and system instructions (R44, R52 to R74, R99, R215 to R221, R370, R424) -/

namespace Sys2Proof.Claims

open Sys2Proof.Machine

/-- Numbers that every thread may read (R54, R56), but for shape registers outside the share and rope registers of other contexts. -/
def readable (s : State) (n : Nat) : Prop :=
  csrListed n = true ∧ (0x140 ≤ n → n ≤ 0x14F → shareOk (s.core s.latch.core).share s.cur.x (n - 0x140) 14 = true) ∧
    (0x520 ≤ n → n ≤ 0x527 → s.cur.fwm = true) ∧ (9 ≤ n → n ≤ 0xB → s.foreign s.cur = false) ∧
    (0x8000 ≤ n → (s.rope ((n - 0x8000) / 8)).st ≠ 0 ∧ (s.rope ((n - 0x8000) / 8)).owner = s.curCtx.l)

/-- A register's value, by scope (R52, R57). -/
def registerValue (s : State) (n : Nat) : Nat :=
  let c := s.latch.core
  if n < 0x100 then s.threadReg c s.latch.slot n
  else if n < 0x400 then s.coreReg c s.cur.x n
  else if n < 0x500 then s.clusterReg (clusterOf c) n
  else if n < 0x8000 then s.devReg n
  else s.ropeReg ((n - 0x8000) / 8) (n % 8)

/-- A register that a thread may write (R53, R56): any thread, a thread with SYS or FWM, a thread with FWM. -/
def mayWrite (s : State) (n : Nat) : Prop :=
  csrWriters n = 1 ∨ (csrWriters n = 2 ∧ (s.cur.sys = true ∨ s.cur.fwm = true)) ∨ (csrWriters n = 3 ∧ s.cur.fwm = true)

end Sys2Proof.Claims

section
open Sys2Proof Sys2Proof.Machine Sys2Proof.Claims

/-- R37, R54, R56, R215: `mvc` completes with the value that the register holds at issue; an unlisted number traps ILLEGAL_OP, a register that the thread may not read PROT, a shape register outside the
share REG_RANGE. Reading changes nothing but the destination. TCAUSE, TPC and TVAL of a thread whose home lies on another device are asked for there. -/
def Sys2Proof.Claims.ControlRegisterRead : Prop :=
  ∀ (d : BitVec 6) (n : BitVec 16) (s : State), s.goesC 0 →
    (∀ t, readable s n.toNat → dest d (BitVec.ofNat 64 (registerValue s n.toNat)) s = .ok ((), t) → exec (.mvc d n) s = .next (s.ended t)) ∧
    (csrListed n.toNat = false → exec (.mvc d n) s = .next (trapped s 0x10 (s.latch.word.setWidth 64) false)) ∧
    (0x520 ≤ n.toNat → n.toNat ≤ 0x527 → s.cur.fwm = false → exec (.mvc d n) s = .next (trapped s 0x17 (n.setWidth 64) false)) ∧
    (csrListed n.toNat = true → 0x8000 ≤ n.toNat → (s.rope ((n.toNat - 0x8000) / 8)).owner ≠ s.curCtx.l →
      exec (.mvc d n) s = .next (trapped s 0x17 (n.setWidth 64) false)) ∧
    (9 ≤ n.toNat → n.toNat ≤ 0xB → s.foreign s.cur = true →
      (s.cur.wait = .none → s.latch.skip = 0 → s.reach s.cur.hdev = true →
        exec (.mvc d n) s = .next (waiting s (asked s s.cur.hdev 11
          [BitVec.ofNat 64 (thidOf s.cur), BitVec.ofNat 64 (s.trapWin s.cur + (trapField n.toNat).1), BitVec.ofNat 64 (trapField n.toNat).2]) 6)) ∧
      (∀ v t, s.cur.wait = .got [0, v] → dest d v (calm s) = .ok ((), t) → exec (.mvc d n) s = .next (s.ended t))) ∧
    registerValue s 1 = s.cur.fpc.toNat ∧ registerValue s 4 = s.cur.tstamp.toNat ∧ registerValue s 8 = s.cur.tvec.toNat ∧
    registerValue s 0 / 2 ^ 32 = s.cur.srst.toNat ∧ registerValue s 0 / 2 ^ 16 % 2 ^ 8 = s.cur.fpc.toNat ∧
    registerValue s 3 % 2 ^ 32 = thidOf s.cur % 2 ^ 32

/-- R53, R54, R56, R215: `mtc` of a register that the thread may write writes it or, where a value breaks a limit, traps with the register unchanged; one that it may not write traps PROT with the number in
TVAL, an unlisted one ILLEGAL_OP, and a write of a read-only register is ignored. -/
def Sys2Proof.Claims.ControlRegisterWrite : Prop :=
  ∀ (d : BitVec 6) (n : BitVec 16) (s u : State) (v : Word), s.goesC 0 → src d s = .ok (v, u) →
    let c := u.latch.core
    let h := u.latch.slot
    let wrote : Wrote := if n.toNat < 0x100 then u.putThreadReg c h n.toNat v.toNat else if n.toNat < 0x400 then u.putCoreReg c u.cur.x n.toNat v.toNat
      else if n.toNat < 0x500 then u.putClusterReg (clusterOf c) n.toNat v.toNat else if n.toNat < 0x8000 then u.putDevReg n.toNat v.toNat
      else u.putRopeReg ((n.toNat - 0x8000) / 8) (n.toNat % 8) v.toNat
    (csrListed n.toNat = false → exec (.mtc d n) s = .next (trapped s 0x10 (s.latch.word.setWidth 64) false)) ∧
    (csrListed n.toNat = true → csrWriters n.toNat ≠ 0 → ¬ mayWrite u n.toNat → exec (.mtc d n) s = .next (trapped s 0x17 (n.setWidth 64) false)) ∧
    (csrListed n.toNat = true → csrWriters n.toNat = 0 → exec (.mtc d n) s = .next (s.ended u)) ∧
    (csrListed n.toNat = true → mayWrite u n.toNat → n.toNat ≠ 2 → (0x140 ≤ n.toNat → n.toNat ≤ 0x14F → mayTile u (n.toNat - 0x140)) →
      (∀ t, wrote = .ok t → (0x120 ≤ n.toNat → n.toNat ≤ 0x12F → u.inBar c u.cur.x (n.toNat - 0x120) = false) → exec (.mtc d n) s = .next (s.ended t)) ∧
      (∀ t, wrote = .ok t → 0x120 ≤ n.toNat → n.toNat ≤ 0x12F → u.inBar c u.cur.x (n.toNat - 0x120) = true → s.latch.skip = 0 → exec (.mtc d n) s = .next (parked s 7)) ∧
      (∀ k a, wrote = .error (k, a) → exec (.mtc d n) s = .next (trapped s k (if k = 0x17 then n.setWidth 64 else a) false))) ∧
    (n = 2 → u.cur.wait = .none → u.cur.vPend = [] →
      (v.toNat / 256 % 8 = 0 → exec (.mtc d n) s = .next (s.ended (u.releaseV c h))) ∧
      (4 < v.toNat / 256 % 8 → exec (.mtc d n) s = .next (trapped s 0x12 v false)) ∧
      (0 < v.toNat / 256 % 8 → v.toNat / 256 % 8 ≤ 4 → s.latch.skip = 0 → exec (.mtc d n) s = .next (waiting s
        (let q := s.modCur fun t => { t with wait := .vwin (vwinCount (v.toNat / 256 % 8)) }
         { q with agenda := ⟨.vwinWrite, { c := s.latch.core, h := s.latch.slot, n := vwinCount (v.toNat / 256 % 8) }⟩ :: q.agenda }) 11)))

/-- R58, R61, R63, R66, R68: what the writes that a thread may make leave in their registers: reserved bits of a window descriptor read 0, the loop registers hold 32 bits, TVEC is a word address,
TPC and TVAL keep all 64. A reserved format of a window, and a context quota out of range, leave the register unchanged. -/
def Obligations.RegisterLimits : Prop :=
  ∀ (s : State) (c x h v : Nat), v < 2 ^ 64 → c < 512 → x < 2 →
    (∀ n, 0x180 ≤ n → n ≤ 0x19F → ∃ t, s.putCoreReg c x n v = .ok t ∧ t.coreReg c x n = v % 2 ^ 32 ∧
      (∀ m, m ≠ n → t.coreReg c x m = s.coreReg c x m) ∧ t.mem = s.mem ∧ t.threads = s.threads) ∧
    (∀ n, 0x111 ≤ n → n ≤ 0x11F →
      (v / 2 ^ 20 % 16 ≤ 10 → ∃ t, s.putCoreReg c x n v = .ok t ∧ t.coreReg c x n = v % 2 ^ 32 &&& 0xF8FF3FFF ∧
        (∀ m, m ≠ n → t.coreReg c x m = s.coreReg c x m) ∧ t.mem = s.mem ∧ t.threads = s.threads) ∧
      (10 < v / 2 ^ 20 % 16 → s.putCoreReg c x n v = .error (0x12, BitVec.ofNat 64 v))) ∧
    (let cq := v / 2 ^ 16 % 2 ^ 12
     let tq := v % 2 ^ 12
     let bad := cq = 0 ∨ 2048 < cq ∨ tq = 0 ∨ 2048 < tq ∨ ((s.ctx c (1 - x)).placed = true ∧ 2048 < cq + (s.ctx c (1 - x)).cq)
     (bad → s.putCoreReg c x 0x10B v = .error (0x12, BitVec.ofNat 64 v)) ∧
     (¬ bad → ∃ t, s.putCoreReg c x 0x10B v = .ok t ∧ t.coreReg c x 0x10B = tq + cq * 2 ^ 16)) ∧
    (∃ t, s.putThreadReg c h 8 v = .ok t ∧ (t.thread c h).tvec = BitVec.ofNat 64 (v % 2 ^ 56 / 4 * 4) ∧ t.mem = s.mem)

/-- R217, R219, R221, R370: the first issue of `sysc` sends its request with a number of its own and parks, and the instruction completes once its answer has been written; a firmware thread's traps ILLEGAL_OP.
`halt` is for firmware threads, parks, and completes after a WAKE. `tlbinv` starts a shoot-down of its range and completes once every cluster is done; past bit 55 it traps WINDOW_HOLE. -/
def Sys2Proof.Claims.ServiceInstructions : Prop :=
  ∀ s : State, s.goesC 0 →
    (∀ (c : BitVec 12) (k0 k1 k2 k3 : Word), readReg 16 s = .ok (k0, s) → readReg 17 s = .ok (k1, s) → readReg 18 s = .ok (k2, s) → readReg 19 s = .ok (k3, s) →
      (s.cur.wait = .none → s.cur.fwm = false → s.latch.skip = 0 → exec (.sysc c) s = .next (waiting s
        (let q := s.modCur fun t => { t with wait := .service s.nextOp }
         { q with nextOp := s.nextOp + 1
                  agenda := s.agenda ++ [serviceStep c.toNat { c := s.latch.core, h := s.latch.slot, x := s.cur.x, id := thidOf s.cur, m := s.nextOp, n := s.curCtx.l, addr := c.toNat,
                                                                     v := k0, w := k1, ks := [k0, k1, k2, k3] }] }) 11)) ∧
      (∀ v, s.cur.wait = .done v → exec (.sysc c) s = .next (s.ended (calm s))) ∧
      (s.cur.wait = .none → s.cur.fwm = true → exec (.sysc c) s = .next (trapped s 0x10 (s.latch.word.setWidth 64) false))) ∧
    (s.cur.fwm = false → exec .halt s = .next (trapped s 0x17 0 false)) ∧
    (s.cur.fwm = true → s.cur.wait = .none → s.latch.skip = 0 → exec .halt s = .next (waiting s (s.modCur fun t => { t with wait := .halt }) 11)) ∧
    (∀ v, s.cur.fwm = true → s.cur.wait = .done v → exec .halt s = .next (s.ended (calm s))) ∧
    (∀ (a b : BitVec 6) (p u : State) (x n : Word), src a s = .ok (x, p) → src b p = .ok (n, u) →
      let begun := fun (l va : Nat) (i : Instr) =>
        let lo := if n.toNat = 0 then 0 else va / 65536 * 65536
        let hi := if n.toNat = 0 then 2 ^ 56 else lo + (n.toNat + 65535) / 65536 * 65536
        (∀ v, u.cur.wait = .done v → exec i s = .next (s.ended (calm u))) ∧
        (u.cur.wait = .none → hi ≤ 2 ^ 56 → s.latch.skip = 0 →
          exec i s = .next (waiting s ((s.modCur fun t => { t with wait := .shoot s.nextOp }).startShoot l lo hi none) 11)) ∧
        (u.cur.wait = .none → 2 ^ 56 < hi → exec i s = .next (trapped s 0x15 x false))
      (x.toNat < 2 ^ 56 → begun u.curCtx.l x.toNat (.tlbinv a b)) ∧
      (2 ^ 56 ≤ x.toNat → exec (.tlbinv a b) s = .next (trapped s 0x15 x false)) ∧
      (u.cur.fwm = true → begun (x.toNat / 2 ^ 56) (x.toNat % 2 ^ 56) (.tlbinvCtx a b)) ∧
      (u.cur.fwm = false → exec (.tlbinvCtx a b) s = .next (trapped s 0x17 x false)))

/-- R220, R421, R424: `csave` and `crest` are for firmware threads; a misaligned area traps MEM_ALIGN and a second operand with other bits REG_RANGE. `csave` first brings its context to the save rung
and parks; once the context is ready it writes the image at its address and answers the image's length. `crest` places an image back and answers 0, and where the image does not fit or is none answers 1 or 2 and changes nothing else. -/
def Sys2Proof.Claims.ImageInstructions : Prop :=
  ∀ (f : Rrr) (s p u : State) (a b : Word) (c x : Nat), s.goesC 0 → src f.a s = .ok (a, p) → src f.b p = .ok (b, u) →
    (u.cur.fwm = false → exec (.csave f) s = .next (trapped s 0x17 0 false) ∧ exec (.crest f) s = .next (trapped s 0x17 0 false)) ∧
    (u.cur.fwm = true → b.toNat = c + x * 2 ^ 16 → c < 512 → x < 2 →
      (a.toNat % 64 ≠ 0 → exec (.csave f) s = .next (trapped s 0x13 a false) ∧ exec (.crest f) s = .next (trapped s 0x13 a false)) ∧
      (a.toNat % 64 = 0 → (u.areaKey u.curCtx.l a.toNat).isSome = true →
        (u.cur.wait = .none → s.latch.skip = 0 → exec (.csave f) s = .next (waiting s
          (let q := s.modCur fun t => { t with wait := .image (if (s.ctx c x).away then 2 else 1) }
           if (s.ctx c x).away then q else q.saveRung c x) 11)) ∧
        (∀ n, u.cur.wait = .image n → u.saveReady c x = false → s.latch.skip = 0 → exec (.csave f) s = .next (parked s 11)) ∧
        (∀ t, u.cur.wait = .image 1 → u.saveReady c x = true →
          (let r := u.buildImage c x a.toNat
           let v := (r.2.modSched fun q => { q with images := r.1 :: q.images }).areaPut u.curCtx.l a.toNat r.1.bytes
           let w := match (v.removeCtx c x).restoreImage r.1 with | some z => z.afterRestore r.1 | none => v
           dest f.d (BitVec.ofNat 64 r.1.bytes.length) (calm w) = .ok ((), t)) →
          exec (.csave f) s = .next (s.ended t)) ∧
        (∀ t, u.cur.wait = .image 2 → u.saveReady c x = true →
          (let r := u.buildImage c x a.toNat
           let v := (r.2.modSched fun q => { q with images := r.1 :: q.images }).areaPut u.curCtx.l a.toNat r.1.bytes
           dest f.d (BitVec.ofNat 64 r.1.bytes.length) (calm v) = .ok ((), t)) →
          exec (.csave f) s = .next (s.ended t)) ∧
        (∀ t, (∀ i, u.imageAt u.curCtx.l a.toNat = some i → u.imageFits i c x = false) → dest f.d 2 u = .ok ((), t) → exec (.crest f) s = .next (s.ended t)) ∧
        (∀ i t, u.imageAt u.curCtx.l a.toNat = some i → u.imageFits i c x = true →
          (∀ r, (u.removeCtx c x).restoreImage i = some r → dest f.d 0 (r.afterRestore i) = .ok ((), t) → exec (.crest f) s = .next (s.ended t)) ∧
          ((u.removeCtx c x).restoreImage i = none → dest f.d 1 u = .ok ((), t) → exec (.crest f) s = .next (s.ended t)))))

end

/-! ### Vector instructions (R171, R272 to R294) -/

namespace Sys2Proof.Claims

open Sys2Proof.Machine

/-- An element as the integer it holds, by the signedness of its type (R275). -/
def integer (t a : Nat) : Int := if vtySigned t ∧ 2 ^ (vtyWidth t - 1) ≤ a then (a : Int) - 2 ^ vtyWidth t else a

/-- An integer result: modulo 2^w, or first brought into the range of the type under `.sat` (R142, R275). -/
def integerOut (t : Nat) (sat : Bool) (x : Int) : Nat :=
  let w := vtyWidth t
  let lo : Int := if vtySigned t then -(2 ^ (w - 1)) else 0
  let hi : Int := if vtySigned t then 2 ^ (w - 1) - 1 else 2 ^ w - 1
  ((if sat then max lo (min hi x) else x) % 2 ^ w).toNat

/-- The rounding of element arithmetic: the mode in force, FZI and FZO of FPC (R154, R275). -/
def elementRnd (u : State) (c : VCtx) (ctl : Bool) (g : Nat) : Rnd := ⟨c.rm, fpcFZI u.pre.fpc, fpcFZO u.pre.fpc, ctl, g⟩

/-- A floating element as a value (R154). -/
def value (u : State) (t a : Nat) : Val := decTy (fpcFZI u.pre.fpc) (vty t) a

/-- Arithmetic on one element: one rounding of the exact floating result, or the integer result (R275). -/
def elementOp (u : State) (t : Nat) (sat : Bool) (x : Int) (v : Val) (c : VCtx) (g : Nat) : Nat :=
  if vtyFloat t then encTy (vty t) false (elementRnd u c false g) v else integerOut t sat x

/-- The elements of a result: `f` of a generator step and the place where active, else 0 or the old element (R274). The steps are given out to the active places in ascending
order (R149). -/
def fill (c : VCtx) (n : Nat) (g : List Nat) (f : Nat → Nat → Nat) (old : Nat → Nat) : List Nat :=
  (List.range n).map fun i => if c.act i then f (g.getD ((List.range i).filter c.act).length 0) i else if c.zero then 0 else old i

/-- Steps of the generator: one for each active element of an operation that rounds, in SR (R149). -/
def drawn (u : State) (c : VCtx) (n : Nat) (rounds : Bool) : List Nat × State :=
  let l := srSteps (if rounds = true ∧ c.rm = 5 then ((List.range n).filter c.act).length else 0) (u.latch.sr.getD u.pre.srst)
  match l.getLast? with
  | none => ([], u)
  | some x => (l.map fun v => v.toNat % 65536, { u with latch := { u.latch with sr := some x } }.modCur fun t => { t with srst := x })

/-- The vector unit is taken for `n` a-cycles, and the instruction counted (R277, R399). -/
def unitUsed (u : State) (n : Nat) : State :=
  (u.count u.latch.core u.cur.x u.latch.slot 3 1).modCore u.latch.core fun k => { k with vecFree := max k.vecFree (2 * (u.dev.clock / 2 + n)) }

/-- One register of elements of type `t` written at issue (R274, R277). -/
def writesElements (u : State) (t d : Nat) (rounds : Bool) (f : VCtx → Nat → Nat → Nat → Nat) (v : State) : Prop :=
  let w := vtyWidth t
  ∃ c old, vecCtx u = .ok (c, u) ∧ readV d u = .ok (old, u) ∧
    (let q := drawn u c (4096 / w) rounds
     putV d (packElems w (fill c (4096 / w) q.1 (fun g i => f c g i (elemAt w old i)) (elemAt w old))) q.2 = .ok ((), v))

/-- The instructions of two vector sources (R278 to R281): whether they round, and their result on one element. -/
def vectorTwo (u : State) (t : Nat) : List ((Guard → Vvv → Instr) × Bool × (VCtx → Nat → Nat → Nat → Nat)) :=
  let x := integer t
  let y := value u t
  let w := vtyWidth t
  let r := vtyFloat t
  let edge := fun (mx : Bool) (a b : Nat) =>
    if r then encTy (vty t) false ⟨1, fpcFZI u.pre.fpc, fpcFZO u.pre.fpc, false, 0⟩ ((y a).minMax mx (y b))
    else if (if mx then x a < x b else x b < x a) then b else a
  [(fun g f => .vadd g f 0, r, fun c g a b => elementOp u t false (x a + x b) ((y a).add c.rm (y b)) c g),
   (fun g f => .vadd g f 1, r, fun c g a b => elementOp u t true (x a + x b) ((y a).add c.rm (y b)) c g),
   (fun g f => .vsub g f 0, r, fun c g a b => elementOp u t false (x a - x b) ((y a).add c.rm (y b).neg) c g),
   (fun g f => .vsub g f 1, r, fun c g a b => elementOp u t true (x a - x b) ((y a).add c.rm (y b).neg) c g),
   (fun g f => .vmul g f 0, r, fun c g a b => elementOp u t false (x a * x b) ((y a).mul (y b)) c g),
   (fun g f => .vmul g f 1, r, fun c g a b => elementOp u t true (x a * x b) ((y a).mul (y b)) c g),
   (fun g f => .vmin g f, false, fun _ _ a b => edge false a b),
   (fun g f => .vmax g f, false, fun _ _ a b => edge true a b),
   (fun g f => .vand g f, false, fun _ _ a b => a &&& b),
   (fun g f => .vor g f, false, fun _ _ a b => a ||| b),
   (fun g f => .vxor g f, false, fun _ _ a b => a ^^^ b),
   (fun g f => .vshl g f, false, fun _ _ a b => a * 2 ^ (b % w) % 2 ^ w),
   (fun g f => .vshr g f, false, fun _ _ a b => a / 2 ^ (b % w)),
   (fun g f => .vsar g f, false, fun _ _ a b => (sInt w a / 2 ^ (b % w) % 2 ^ w).toNat)]

/-- The instructions of a vector source and a scalar one (R278), and those that act on VD by a scalar (R281). -/
def vectorScalar (u : State) (t : Nat) : List ((Guard → Vvs → Instr) × (VCtx → Nat → Nat → Nat → Nat → Nat)) :=
  let x := integer t
  let y := value u t
  [(fun g f => .vaddScalar g f, fun c g _ a b => elementOp u t false (x a + x b) ((y a).add c.rm (y b)) c g),
   (fun g f => .vsubScalar g f, fun c g _ a b => elementOp u t false (x a - x b) ((y a).add c.rm (y b).neg) c g),
   (fun g f => .vmulScalar g f, fun c g _ a b => elementOp u t false (x a * x b) ((y a).mul (y b)) c g),
   (fun g f => .vfmaScalar g f, fun c g old a b => elementOp u t false (x old + x a * x b) ((y old).add c.rm ((y a).mul (y b))) c g)]

def vectorInPlace (t : Nat) : List ((Guard → BitVec 4 → BitVec 4 → BitVec 6 → Instr) × (Nat → Nat → Nat)) :=
  let w := vtyWidth t
  [(fun g t d r => .vshlScalar g t d r, fun a n => a * 2 ^ (n % w) % 2 ^ w),
   (fun g t d r => .vshrScalar g t d r, fun a n => a / 2 ^ (n % w)),
   (fun g t d r => .vsarScalar g t d r, fun a n => (sInt w a / 2 ^ (n % w) % 2 ^ w).toNat),
   (fun g t d r => .vbcast g t d r, fun _ n => n)]

/-- The conditions of `vcmp` (R282). -/
def elementHolds (u : State) (t cc a b : Nat) : Bool :=
  if vtyFloat t then (value u t a).cmp cc (value u t b)
  else
    let x := integer t a
    let y := integer t b
    match cc with
    | 0 => decide (x = y)
    | 1 => decide (x ≠ y)
    | 2 => decide (x < y)
    | 3 => decide (x ≤ y)
    | 4 => decide (y < x)
    | _ => decide (y ≤ x)

/-- The active elements of a register, in order (R286). -/
def actives (c : VCtx) (t : Nat) (v : BitVec 4096) : List Nat :=
  ((List.range (4096 / vtyWidth t)).filter c.act).map (elemAt (vtyWidth t) v)

/-- One step of the generator for a sum in SR (R149, R286). -/
def sumStep (u : State) (c : VCtx) (floatSum : Bool) : Nat × State :=
  if floatSum = true ∧ c.rm = 5 then ((stepped u).1.toNat % 65536, (stepped u).2) else (0, u)

/-- A floating reduction: a sum rounded once, a minimum or maximum not rounded; the initial value where no element is active (R286). -/
def reducedFloat (u : State) (op : Nat) (c : VCtx) (g : Nat) (out : Ty) (init : Val) (l : List Val) : Nat :=
  if op = 0 then encTy out false (elementRnd u c false g) (if l = [] then init else Val.sum c.rm (-149) (init :: l))
  else encTy out false ⟨1, fpcFZI u.pre.fpc, fpcFZO u.pre.fpc, false, 0⟩ (l.foldl (fun a b => a.minMax (op == 2) b) init)

def reducedInt (op : Nat) (init : Int) (l : List Int) : Int :=
  if op = 0 then init + l.sum else if op = 1 then l.foldl min init else l.foldl max init

/-- A rearrangement: the place that each active element comes from, none for 0 (R287, R288). -/
def moved (t : Nat) (c : VCtx) (old a : BitVec 4096) (f : Nat → Option Nat) : BitVec 4096 :=
  let w := vtyWidth t
  let n := 4096 / w
  packElems w (fill c n [] (fun _ i => match f i with | some j => if j < n then elemAt w a j else 0 | none => 0) (elemAt w old))

/-- Elements of a register group: element `i` in register `i` mod `f` at position `i` div `f` (R291, R292). -/
def inGroup (f w : Nat) (rs : List (BitVec 4096)) (i : Nat) : Nat := elemAt w (rs.getD (i % f) 0) (i / f)

/-- `n` consecutive registers of the window, none pending. -/
def readGroup (u : State) (i n : Nat) (rs : List (BitVec 4096)) : Prop := (List.range n).mapM (fun j => readV (i + j)) u = .ok (rs, u)

/-- The magnitude of an element, or none for a NaN (R293). -/
def magnitude (t a : Nat) : Option Nat :=
  match vty t with
  | .fp f => if maxFin f + 1 < a % 2 ^ (f.eb + f.mb) then none else some (a % 2 ^ (f.eb + f.mb))
  | _ => some (integer t a).natAbs

end Sys2Proof.Claims

section
open Sys2Proof Sys2Proof.Machine Sys2Proof.Claims

/-- R149, R274, R275, R278 to R285: the element-wise instructions write, at issue, the element that their entry gives at every active place, and keep or zero the others; one that rounds
steps the generator once for each active element in SR. They are `vadd`, `vsub`, `vmul`, `vmin`, `vmax`, `vand`, `vor`, `vxor`, `vshl`, `vshr` and `vsar`, with a scalar second source `vadd`, `vsub`, `vmul`, `vfma`, `vshl`, `vshr` and `vsar`, and `vfma`, `vins`, `vmov`, `vnot`, `vzero`, `vsel`, `vcmp` and `vbcast`. -/
def Obligations.VectorElementResult : Prop :=
  (∀ (t : BitVec 4) (d a b : BitVec 4) (g : Guard) (s v : State) (x y : BitVec 4096), s.goesA g → readV a.toNat s = .ok (x, s) → readV b.toNat s = .ok (y, s) →
    ∀ p ∈ vectorTwo s t.toNat,
      writesElements s t.toNat d.toNat p.2.1 (fun c r i _ => p.2.2 c r (elemAt (vtyWidth t.toNat) x i) (elemAt (vtyWidth t.toNat) y i)) v →
      exec (p.1 g ⟨t, d, a, b⟩) s = .next (s.ended (unitUsed v 1))) ∧
  (∀ (t d a b : BitVec 4) (k : BitVec 2) (g : Guard) (s v : State) (x y : BitVec 4096), s.goesA g → readV a.toNat s = .ok (x, s) → readV b.toNat s = .ok (y, s) →
    (let w := vtyWidth t.toNat
     let e := fun (u : BitVec 4096) i => elemAt w u i
     writesElements s t.toNat d.toNat (vtyFloat t.toNat) (fun c r i old =>
       let z := match c.vc with | some q => elemAt w q i | none => old
       elementOp s t.toNat (decide (k = 1)) (integer t.toNat z + integer t.toNat (e x i) * integer t.toNat (e y i))
         ((value s t.toNat z).add c.rm ((value s t.toNat (e x i)).mul (value s t.toNat (e y i)))) c r) v) →
    exec (.vfma g ⟨t, d, a, b⟩ k) s = .next (s.ended (unitUsed v 1))) ∧
  (∀ (t d a : BitVec 4) (r : BitVec 6) (g : Guard) (s u v : State) (x : BitVec 4096) (n : Word), s.goesA g → readV a.toNat s = .ok (x, s) → src r s = .ok (n, u) →
    (∀ p ∈ vectorScalar u t.toNat,
      writesElements u t.toNat d.toNat (vtyFloat t.toNat) (fun c q i old => p.2 c q old (elemAt (vtyWidth t.toNat) x i) (n.toNat % 2 ^ vtyWidth t.toNat)) v →
      exec (p.1 g ⟨t, d, a, r⟩) s = .next (s.ended (unitUsed v 1)))) ∧
  (∀ (t d : BitVec 4) (r : BitVec 6) (g : Guard) (s u v : State) (n : Word), s.goesA g → src r s = .ok (n, u) →
    (∀ p ∈ vectorInPlace t.toNat,
      writesElements u t.toNat d.toNat false (fun _ _ _ old => p.2 old (n.toNat % 2 ^ vtyWidth t.toNat)) v →
      exec (p.1 g t d r) s = .next (s.ended (unitUsed v 1))) ∧
    (writesElements u t.toNat d.toNat false (fun _ _ i old => if i = n.toNat / 2 ^ 32 % 2 ^ 10 then n.toNat % 2 ^ vtyWidth t.toNat else old) v →
      exec (.vins g t d r) s = .next (s.ended (unitUsed v 1))) ∧
    (putV d.toNat (n.setWidth 4096) u = .ok ((), v) → exec (.vmovScalar g d r) s = .next (s.ended (unitUsed v 1)))) ∧
  (∀ (t d a : BitVec 4) (g : Guard) (s v : State) (x : BitVec 4096), s.goesA g → readV a.toNat s = .ok (x, s) →
    (writesElements s t.toNat d.toNat false (fun _ _ i _ => 2 ^ vtyWidth t.toNat - 1 - elemAt (vtyWidth t.toNat) x i) v →
      exec (.vnot g t d a) s = .next (s.ended (unitUsed v 1))) ∧
    (putV d.toNat x s = .ok ((), v) → exec (.vmov g d a) s = .next (s.ended (unitUsed v 1))) ∧
    (putV d.toNat 0 s = .ok ((), v) → exec (.vzero g d) s = .next (s.ended (unitUsed v 1)))) ∧
  (∀ (t d a b : BitVec 4) (m : BitVec 3) (g : Guard) (s v : State) (x y z : BitVec 4096), s.goesA g → readV m.toNat s = .ok (z, s) → readV a.toNat s = .ok (x, s) →
    readV b.toNat s = .ok (y, s) →
    writesElements s t.toNat d.toNat false (fun _ _ i _ => if z.getLsbD i then elemAt (vtyWidth t.toNat) x i else elemAt (vtyWidth t.toNat) y i) v →
    exec (.vsel g ⟨t, d, a, b⟩ m) s = .next (s.ended (unitUsed v 1))) ∧
  (∀ (t d a b : BitVec 4) (k : BitVec 3) (g : Guard) (s v : State) (x y old : BitVec 4096) (c : VCtx), s.goesA g → readV a.toNat s = .ok (x, s) →
    readV b.toNat s = .ok (y, s) → vecCtx s = .ok (c, s) → readV d.toNat s = .ok (old, s) →
    (let w := vtyWidth t.toNat
     let bit := fun i => if (if c.act i then elementHolds s t.toNat k.toNat (elemAt w x i) (elemAt w y i) else !c.zero && old.getLsbD i) = true then 1 else 0
     putV d.toNat (packElems 1 ((List.range (4096 / w)).map bit)) s = .ok ((), v)) →
    exec (.vcmp g ⟨t, d, a, b⟩ k) s = .next (s.ended (unitUsed v 1)))

/-- R286 to R289, R284: reductions, rearrangements, `vext`, `vcompress` and `vexpand` complete their issue with their destination pending on an operation that carries the result, and
take the unit for two a-cycles. The reductions are `vredsum`, `vredmin` and `vredmax` to a vector and to a scalar; beside them stand `vperm`, `vslideup` and `vslidedn`. -/
def Sys2Proof.Claims.VectorAcrossElements : Prop :=
  (∀ p ∈ [((fun g f => Instr.vredsum g f), (fun g t a r => Instr.vredsumScalar g t a r), 0), ((fun g f => .vredmin g f), (fun g t a r => .vredminScalar g t a r), 1),
      ((fun g f => .vredmax g f), (fun g t a r => .vredmaxScalar g t a r), 2)],
    (∀ (t d a b : BitVec 4) (g : Guard) (s v : State) (c : VCtx) (x y : BitVec 4096), s.goesA g → vecCtx s = .ok (c, s) → readV a.toNat s = .ok (x, s) →
      readV b.toNat s = .ok (y, s) →
      (let k := t.toNat
       let w := vtyWidth k
       let q := sumStep s c (vtyFloat k && p.2.2 == 0)
       let r := if vtyFloat k then reducedFloat s p.2.2 c q.1 (vty k) (value s k (elemAt w y 0)) ((actives c k x).map (value s k))
         else (reducedInt p.2.2 (integer k (elemAt w y 0)) ((actives c k x).map (integer k)) % 2 ^ w).toNat
       putVLater d.toNat [packElems w [r]] q.2 = .ok ((), v)) →
      exec (p.1 g ⟨t, d, a, b⟩) s = .next (s.ended (unitUsed v 2))) ∧
    (∀ (t a : BitVec 4) (r : BitVec 6) (g : Guard) (s u v : State) (n : Word) (c : VCtx) (x : BitVec 4096), s.goesA g → src r s = .ok (n, u) → vecCtx u = .ok (c, u) →
      readV a.toNat u = .ok (x, u) →
      (let k := t.toNat
       let q := sumStep u c (vtyFloat k && p.2.2 == 0)
       let r := if vtyFloat k then reducedFloat u p.2.2 c q.1 (.fp fp32) (decTy (fpcFZI u.pre.fpc) (.fp fp32) (n.toNat % 2 ^ 32)) ((actives c k x).map (value u k))
         else (reducedInt p.2.2 (if vtySigned k then n.toInt else n.toNat) ((actives c k x).map (integer k)) % 2 ^ 64).toNat
       pushLater (BitVec.ofNat 64 r) q.2 = .ok ((), v)) →
      exec (p.2.1 g t a r) s = .next (s.ended (unitUsed v 2)))) ∧
  (∀ (t d a b : BitVec 4) (g : Guard) (s v : State) (c : VCtx) (x old : BitVec 4096) (ix : List Nat), s.goesA g → readV a.toNat s = .ok (x, s) →
    readIdx t.toNat b.toNat s = .ok (ix, s) → vecCtx s = .ok (c, s) → readV d.toNat s = .ok (old, s) →
    putVLater d.toNat [moved t.toNat c old x (fun i => ix[i]?)] s = .ok ((), v) → exec (.vperm g ⟨t, d, a, b⟩) s = .next (s.ended (unitUsed v 2))) ∧
  (∀ (t d a : BitVec 4) (r : BitVec 6) (g : Guard) (s u v : State) (n : Word) (c : VCtx) (x old : BitVec 4096), s.goesA g → src r s = .ok (n, u) →
    readV a.toNat u = .ok (x, u) → vecCtx u = .ok (c, u) → readV d.toNat u = .ok (old, u) →
    (putVLater d.toNat [moved t.toNat c old x (fun i => if n.toNat ≤ i then some (i - n.toNat) else none)] u = .ok ((), v) →
      exec (.vslideup g ⟨t, d, a, r⟩) s = .next (s.ended (unitUsed v 2))) ∧
    (putVLater d.toNat [moved t.toNat c old x (fun i => some (i + n.toNat))] u = .ok ((), v) →
      exec (.vslidedn g ⟨t, d, a, r⟩) s = .next (s.ended (unitUsed v 2)))) ∧
  (∀ (t a : BitVec 4) (r : BitVec 6) (g : Guard) (s u v : State) (n : Word) (c : VCtx) (x : BitVec 4096), s.goesA g → src r s = .ok (n, u) → vecCtx u = .ok (c, u) →
    readV a.toNat u = .ok (x, u) →
    (let w := vtyWidth t.toNat
     let j := n.toNat % 2 ^ 10
     pushLater (if j < 4096 / w then BitVec.ofInt 64 (integer t.toNat (elemAt w x j)) else 0) u = .ok ((), v)) →
    exec (.vext g t a r) s = .next (s.ended (unitUsed v 2))) ∧
  (∀ (t d a b : BitVec 4) (g : Guard) (s u v : State) (c : VCtx) (x y : BitVec 4096), s.goesA g → vecCtx s = .ok (c, s) → readV a.toNat s = .ok (x, s) → readV b.toNat s = .ok (y, s) →
    (let w := vtyWidth t.toNat
     let n := 4096 / w
     let l := ((List.range n).filter y.getLsbD).map (elemAt w x)
     (putVLater d.toNat [packElems w l] s = .ok ((), u) → pushLater (BitVec.ofNat 64 l.length) u = .ok ((), v) →
       exec (.vcompress g ⟨t, d, a, b⟩) s = .next (s.ended (unitUsed v 2))) ∧
     (putVLater d.toNat [packElems w ((List.range n).map fun i => if y.getLsbD i then elemAt w x ((List.range i).filter y.getLsbD).length else 0)] s = .ok ((), v) →
       exec (.vexpand g ⟨t, d, a, b⟩) s = .next (s.ended (unitUsed v 2)))))

/-- R148 to R152, R290 to R294: conversions of equal width write at issue; widening, narrowing, block maxima and the special functions complete their issue with their registers pending on an operation that
carries the results. The six special functions draw no step of the generator; what they give inside the bound of R294 is the model's free value (log 9). They are `vcvt`, `vwcvt`, `vwadd`, `vwmul`, `vnadd`, `vncvt`, `vbmax`, `vexp2`, `vlog2`, `vrcp`, `vrsqrt`, `vtanh`, `vsigm` and `vsqrt`. -/
def Sys2Proof.Claims.VectorConversionResult : Prop :=
  (∀ (t d a b : BitVec 4) (k : BitVec 1) (g : Guard) (s v : State) (x : BitVec 4096), s.goesA g → readV a.toNat s = .ok (x, s) →
    (let to_ := vty t.toNat
     let from_ := vty b.toNat
     writesElements s t.toNat d.toNat (!(from_.isInt && to_.isInt)) (fun c r i _ =>
       convTy from_ to_ (elementRnd s c (k == 1#1 || fpcSATN s.pre.fpc) r) (elemAt (vtyWidth t.toNat) x i)) v) →
    exec (.vcvt g ⟨t, d, a, b⟩ k) s = .next (s.ended (unitUsed v 1))) ∧
  (∀ (t d a b : BitVec 4) (u : Nat) (g : Guard) (s v : State) (x y : BitVec 4096) (c : VCtx) (old : List (BitVec 4096)), s.goesA g → vtyWiden t.toNat = some u →
    readV a.toNat s = .ok (x, s) → readV b.toNat s = .ok (y, s) → vecCtx s = .ok (c, s) → readGroup s d.toNat 2 old →
    ∀ p ∈ [((fun g f => Instr.vwadd g f), (fun (x y : Int) => x + y), fun (v w : Val) => v.add c.rm w), ((fun g f => .vwmul g f), (fun x y => x * y), fun v w => v.mul w)],
    (let w := vtyWidth t.toNat
     let n := 4096 / w
     let q := drawn s c n (vtyFloat t.toNat)
     let one := fun r i => if vtyFloat t.toNat
       then encTy (vty u) false (elementRnd s c false r) (p.2.2 (value s t.toNat (elemAt w x i)) (value s t.toNat (elemAt w y i)))
       else integerOut u false (p.2.1 (integer t.toNat (elemAt w x i)) (integer t.toNat (elemAt w y i)))
     putVLater d.toNat (packGroup 2 (vtyWidth u) (fill c n q.1 one (inGroup 2 (vtyWidth u) old))) q.2 = .ok ((), v)) →
    exec (p.1 g ⟨t, d, a, b⟩) s = .next (s.ended (unitUsed v 2))) ∧
  (∀ (t d a b : BitVec 4) (g : Guard) (s v : State) (x : BitVec 4096) (c : VCtx) (old : List (BitVec 4096)), s.goesA g →
    readV a.toNat s = .ok (x, s) → vecCtx s = .ok (c, s) →
    (let f := vtyWidth t.toNat / vtyWidth b.toNat
     let w := vtyWidth b.toNat
     let q := drawn s c (4096 / w) (!((vty b.toNat).isInt && (vty t.toNat).isInt))
     readGroup s d.toNat f old ∧
     putVLater d.toNat (packGroup f (vtyWidth t.toNat) (fill c (4096 / w) q.1 (fun r i => convTy (vty b.toNat) (vty t.toNat) (elementRnd s c (fpcSATN s.pre.fpc) r) (elemAt w x i))
       (inGroup f (vtyWidth t.toNat) old))) q.2 = .ok ((), v)) →
    exec (.vwcvt g ⟨t, d, a, b⟩) s = .next (s.ended (unitUsed v (vtyWidth t.toNat / vtyWidth b.toNat)))) ∧
  (∀ (t d a b : BitVec 4) (k : BitVec 1) (u : Nat) (g : Guard) (s v : State) (x y : List (BitVec 4096)) (c : VCtx) (old : BitVec 4096), s.goesA g → vtyWiden t.toNat = some u →
    readGroup s a.toNat 2 x → readGroup s b.toNat 2 y → vecCtx s = .ok (c, s) → readV d.toNat s = .ok (old, s) →
    (let w := vtyWidth t.toNat
     let q := drawn s c (4096 / w) (vtyFloat t.toNat)
     let ctl := k == 1#1 || fpcSATN s.pre.fpc
     let e := fun r i => inGroup 2 (vtyWidth u) r i
     let one := fun r i => if vtyFloat t.toNat then encTy (vty t.toNat) false (elementRnd s c ctl r) ((value s u (e x i)).add c.rm (value s u (e y i)))
       else integerOut t.toNat ctl (integer u (e x i) + integer u (e y i))
     putVLater d.toNat [packElems w (fill c (4096 / w) q.1 one (elemAt w old))] q.2 = .ok ((), v)) →
    exec (.vnadd g ⟨t, d, a, b⟩ k) s = .next (s.ended (unitUsed v 2))) ∧
  (∀ (t d a b : BitVec 4) (k : BitVec 1) (g : Guard) (s v : State) (x : List (BitVec 4096)) (c : VCtx) (old : BitVec 4096), s.goesA g →
    vecCtx s = .ok (c, s) → readV d.toNat s = .ok (old, s) →
    (let f := vtyWidth b.toNat / vtyWidth t.toNat
     let w := vtyWidth t.toNat
     let q := drawn s c (4096 / w) (!((vty b.toNat).isInt && (vty t.toNat).isInt))
     readGroup s a.toNat f x ∧
     putVLater d.toNat [packElems w (fill c (4096 / w) q.1 (fun r i =>
       convTy (vty b.toNat) (vty t.toNat) (elementRnd s c (k == 1#1 || fpcSATN s.pre.fpc) r) (inGroup f (vtyWidth b.toNat) x i)) (elemAt w old))] q.2 = .ok ((), v)) →
    exec (.vncvt g ⟨t, d, a, b⟩ k) s = .next (s.ended (unitUsed v (vtyWidth b.toNat / vtyWidth t.toNat)))) ∧
  (∀ (t d a : BitVec 4) (k : BitVec 1) (g : Guard) (s v : State) (x : BitVec 4096) (c : VCtx), s.goesA g → vecCtx s = .ok (c, s) → readV a.toNat s = .ok (x, s) →
    (let w := vtyWidth t.toNat
     let blk := if k = 1 then 128 else 32
     let top := fun j => (((List.range blk).filter fun i => c.act (j * blk + i)).filterMap fun i => magnitude t.toNat (elemAt w x (j * blk + i))).foldl max 0
     putVLater d.toNat [packElems w ((List.range (4096 / w / blk)).map top)] s = .ok ((), v)) →
    exec (.vbmax g t d a k) s = .next (s.ended (unitUsed v 2))) ∧
  (∀ (t d a : BitVec 4) (g : Guard) (s v : State) (x old : BitVec 4096) (c : VCtx), s.goesA g → vecCtx s = .ok (c, s) → readV a.toNat s = .ok (x, s) → readV d.toNat s = .ok (old, s) →
    let w := vtyWidth t.toNat
    (∀ p ∈ [((fun g t d a => Instr.vexp2 g t d a), 0), ((fun g t d a => .vlog2 g t d a), 1), ((fun g t d a => .vrcp g t d a), 2), ((fun g t d a => .vrsqrt g t d a), 3),
        ((fun g t d a => .vtanh g t d a), 5), ((fun g t d a => .vsigm g t d a), 6)],
      putVLater d.toNat [packElems w (fill c (4096 / w) [] (fun _ i =>
        special p.2 (vtyFmt t.toNat) ⟨0, fpcFZI s.pre.fpc, fpcFZO s.pre.fpc, fpcSATN s.pre.fpc, 0⟩ t.toNat (elemAt w x i)) (elemAt w old))] s = .ok ((), v) →
      exec (p.1 g t d a) s = .next (s.ended (unitUsed v 2))) ∧
    (let q := drawn s c (4096 / w) true
     putVLater d.toNat [packElems w (fill c (4096 / w) q.1 (fun r i =>
        encTy (vty t.toNat) false (elementRnd s c (fpcSATN s.pre.fpc) r) (value s t.toNat (elemAt w x i)).sqrt) (elemAt w old))] q.2 = .ok ((), v) →
      exec (.vsqrt g t d a) s = .next (s.ended (unitUsed v 2))))

/-- R272, R277, R291: what the writing of vector registers comes to. A packed register holds each element at its place; a register written at issue holds its value and every other register, the thread
and all of memory stand; registers written later are pending on one operation that carries their values. -/
def Obligations.VectorRegisters : Prop :=
  (∀ (w : Nat) (l : List Nat) (i : Nat), w ∈ [1, 4, 8, 16, 32] → l.length ≤ 4096 / w → i < 4096 / w → elemAt w (packElems w l) i = l.getD i 0 % 2 ^ w) ∧
  (∀ (f w : Nat) (l : List Nat) (i : Nat), f ∈ [2, 4] → w ∈ [4, 8, 16, 32] → l.length = f * (4096 / w) → i < l.length → inGroup f w (packGroup f w l) i = l.getD i 0 % 2 ^ w) ∧
  (∀ (s v : State) (i n : Nat) (x : BitVec 4096), vreg s i n → putV i x s = .ok ((), v) →
    Table.get 0 n (v.core s.latch.core).vreg = x ∧ (∀ m, m ≠ n → Table.get 0 m (v.core s.latch.core).vreg = Table.get 0 m (s.core s.latch.core).vreg) ∧
    v.mem = s.mem ∧ v.threads = s.threads ∧ v.ctxs = s.ctxs ∧ v.ropes = s.ropes) ∧
  (∀ (s v : State) (i n : Nat) (x : BitVec 4096), vreg s i n → putVLater i [x] s = .ok ((), v) →
    v = (s.withOp { s.newOp .vec with dest := .vregs [n], more := [x.toNat] }).modCur fun t => { t with vPend := t.vPend ++ [(n, s.nextOp)] })

end

/-! ### Operations that return (R30, R31, R40, R84 to R91, R188, R225 to R234, R277, R431, R434) -/

namespace Sys2Proof.Claims

open Sys2Proof.Machine

/-- The operation that a step is about. -/
def about (s : State) (o : Op) : Prop := s.opById s.arg.id = some o

/-- The thread of an operation. -/
def owner (s : State) (o : Op) : Thread := s.thread o.core o.slot

/-- Where an access outside the global space, the host windows and the control space stands (R76), with no lock of another core, and no earlier access of its
core to the same bank, in its way (R86, R91), and outside the tables that base-camp memory shows (R385). -/
def placed (s : State) (o : Op) (k : Nat) (n : Nat) (store : Bool) : Prop :=
  match spaceOf o.addr.toNat with
  | some (.own _ p) => k = spKey o.core p
  | some (.other d p) => s.farHome (owner s o) d p o.n = false ∧ k = spKey d p ∧ (d ≠ o.core → s.farLock d p n store = false)
  | some (.pool j p) => k = poolKey j p
  | some (.camp p) => k = campKey p ∧ s.bankPending o.core (bankOf p) o.id = false ∧ ∀ i, i < n → s.campTable ((p + i) / 8 * 8) = none
  | _ => False

/-- A window whose k4 to k7 at place `i` holds `v` (R35). -/
def windowWith (i : Nat) (v : Word) (w : Window) : Window :=
  match i with
  | 0 => { w with k4 := v }
  | 1 => { w with k5 := v }
  | 2 => { w with k6 := v }
  | _ => { w with k7 := v }

/-- What an operation's ending leaves alone: memory, every other thread and operation. -/
def onlyOwner (s t : State) (o : Op) : Prop :=
  t.mem = s.mem ∧ t.ops = (s.ops.filter fun p => p.id != o.id) ∧ (∀ c h, 256 * c + h ≠ 256 * o.core + o.slot → t.thread c h = s.thread c h)

end Sys2Proof.Claims

section
open Sys2Proof Sys2Proof.Machine Sys2Proof.Claims

/-- R30, R40, R43, R188: an operation that completes leaves, its scoreboard slot falls by one, and its value goes where its result was reserved: into its entry of
the result queue, wherever that stands by then, into its named register if that still waits for it, or into the window that a call has saved the
register in since, into its place of a queue register or of a neighbour's port queue. -/
def Sys2Proof.Claims.OperationCompletes : Prop :=
  ∀ (s : State) (o : Op) (v : Word), (owner s o).restart = false →
    let t := s.complete o v
    let a := owner s o
    let b := t.thread o.core o.slot
    onlyOwner s t o ∧ (o.sb ≠ 0 → Table.get 0 o.sb b.sb = Table.get 0 o.sb a.sb - 1) ∧ (∀ n, n ≠ o.sb → Table.get 0 n b.sb = Table.get 0 n a.sb) ∧
      b.st = a.st ∧ b.pc = a.pc ∧ b.pred = a.pred ∧
      (o.dest = .result → b.t = (a.t.map fun e => if e = .pend o.id then .val v else e) ∧ b.k = a.k ∧ b.sp = a.sp) ∧
      (∀ r0, o.dest = .named r0 → b.t = a.t ∧
        (∀ r, a.regPend.find? (fun p => p.2 == o.id) = some (r, o.id) → (∀ q, (q, o.id) ∉ b.regPend) ∧
          (r = 37 → b.sp = v ∧ b.k = a.k ∧ b.win = a.win) ∧
          (16 ≤ r → r < 24 → Table.get 0 (r - 16) b.k = v ∧ (∀ j, j ≠ r - 16 → Table.get 0 j b.k = Table.get 0 j a.k) ∧ b.sp = a.sp ∧ b.win = a.win) ∧
          (64 ≤ r → b.k = a.k ∧ b.sp = a.sp ∧
            ∀ j : Nat, b.win[j]? = (a.win[j]?).map fun w => if j = a.depth - (r - 64) / 4 then windowWith (r % 4) v w else w)) ∧
        (a.regPend.find? (fun p => p.2 == o.id) = none → b.k = a.k ∧ b.sp = a.sp ∧ b.win = a.win)) ∧
      (∀ x q, o.dest = .queue x q → Table.get [] q (t.ctx o.core x).q = (Table.get [] q (s.ctx o.core x).q).map fun e => if e = .place o.id then .word v else e) ∧
      (∀ side d, o.dest = .port side → neighbour o.core side = some d →
        Table.get [] ((side + 2) % 4) (t.ctx d 0).port = (Table.get [] ((side + 2) % 4) (s.ctx d 0).port).map fun e => if e = .place o.id then .word v else e)

/-- R31, R225, R410: an operation that ends in a fault records it in its entry of the result queue; with any other destination the fault becomes due at the thread's next
bundle boundary. One that an abort has left at large raises nothing (R34). The value that fills its place of a queue is the model's free value (log 145). -/
def Sys2Proof.Claims.OperationFails : Prop :=
  ∀ (s : State) (o : Op) (code : Nat) (tval : Word),
    let t := s.failOp o code tval
    let a := owner s o
    let b := t.thread o.core o.slot
    let z : Cause := { code := code, tval := tval, pc := o.pc, op := o.id }
    (o.dropped = false ∨ a.restart = false → onlyOwner s t o) ∧
      (∀ x q, o.dest = .queue x q →
        Table.get [] q (t.ctx o.core x).q = (Table.get [] q (s.ctx o.core x).q).map fun e => if e = .place o.id then .word (Config.faultedPlace s.draw) else e) ∧
      (o.dropped = false → o.dest = .result → .pend o.id ∈ a.t → b.t = (a.t.map fun e => if e = .pend o.id then .bad o.sb z else e) ∧ b.due = a.due) ∧
      (o.dropped = false → o.dest ≠ .result ∨ .pend o.id ∉ a.t → b.t = a.t ∧ b.due = a.due ++ [z]) ∧
      (o.dropped = true → a.restart = false → b.due = a.due ∧ b.t = a.t)

/-- R30, R84 to R86, R149, R225 to R227, R277, R297, R414, R434: the steps by which loads and long results return. -/
def Sys2Proof.Claims.LoadReturns : Prop :=
  ∀ (s : State) (o : Op), about s o →
    let th := owner s o
    (∀ k, o.kind = .load → placed s o k o.n false → s.eccIn [(k, o.n)] = none → o.dropped = false → th.buf = [] →
      ∃ t : State, exec .loadDataReturn s = .next (t.complete o (if o.sgn then BitVec.ofInt 64 (sInt (8 * o.n) (s.word k o.n)) else BitVec.ofNat 64 (s.word k o.n))) ∧
        t.mem = s.mem ∧ t.ops = s.ops ∧ (owner t o).t = th.t ∧ (owner t o).k = th.k) ∧
    (∀ k, o.kind = .vload → o.aop = 0 → placed s o k o.n false → s.eccIn [(k, o.n)] = none → o.dropped = true ∨ th.buf = [] → ∀ r, o.dest = .vregs [r] →
      ∃ t : State, exec .loadDataReturn s = .next t ∧ Table.get 0 r (t.core o.core).vreg = BitVec.ofNat 4096 (s.word k o.n) ∧ t.mem = s.mem) ∧
    (∀ k v, o.kind = .load ∨ o.kind = .vload ∧ o.aop = 0 → placed s o k o.n false → isHostKey o.addr.toNat = false →
      s.eccIn [(k, o.n)] = some v → exec .loadDataReturn s = .next (s.failOp o 0x30 (BitVec.ofNat 64 v))) ∧
    (o.kind = .vload → o.aop ≠ 0 → ∀ r, o.dest = .vregs [r] → s.eccIn ((s.loadElems o).2.map fun p => (spKey o.core p.1, p.2)) = none →
      ∃ t : State, exec .loadDataReturn s = .next t ∧ Table.get 0 r (t.core o.core).vreg = (s.loadElems o).1 ∧ t.mem = s.mem) ∧
    (o.kind = .load → isHostKey o.addr.toNat = true → o.at_ = 0 →
      ∃ t : State, exec .loadDataReturn s = .next t ∧ t.sched.out = s.sched.out ++ [.read o.id (s.hostAddr o.addr.toNat) o.n] ∧ t.mem = s.mem ∧ t.threads = s.threads) ∧
    (o.kind = .long → exec .longResultReady s = .next (s.complete o (o.data.setWidth 64))) ∧
    (o.kind = .vec → ∀ r v, o.dest = .vregs [r] → o.more = [v] → th.restart = false →
      ∃ t : State, exec .vectorResultWrite s = .next t ∧ Table.get 0 r (t.core o.core).vreg = BitVec.ofNat 4096 v ∧ t.mem = s.mem ∧ t.ops = s.ops.filter fun p => p.id != o.id) ∧
    (o.kind = .fe → o.at_ = 3 → o.exp.toNat ≤ s.dev.clock → exec .feRetry s = .next (s.setOp { o with at_ := 0 })) ∧
    (o.kind = .fe → o.at_ = 3 → s.dev.clock < o.exp.toNat → exec .feRetry s = .next s)

/-- R40, R84, R86, R90, R91, R112, R233, R234: stores that are acknowledged, accesses of other cores' scratchpads, and base-camp banks. -/
def Sys2Proof.Claims.StoreReturns : Prop :=
  ∀ (s : State) (o : Op), about s o →
    let th := owner s o
    (o.kind = .store ∨ o.kind = .vstore → o.pieces = [] ∨ o.at_ = 1 → exec .storeAck s = .next (s.complete o 0)) ∧
    (o.kind = .store ∨ o.kind = .vstore → o.at_ = 0 → th.serial = false → ∀ b k, o.pieces = [b] → s.placePiece o b = .ok k →
      ∃ t : State, exec .storeAck s = .next (t.complete o 0) ∧ t.mem = s.mem ∧ (owner t o).buf = th.buf ++ [{ b with key := k, sb := o.sb }]) ∧
    (o.kind = .store ∨ o.kind = .vstore → o.at_ = 0 → ∀ b code, o.pieces = [b] → s.placePiece o b = .bad code → exec .storeAck s = .next (s.failOp o code b.va)) ∧
    (∀ d p, spaceOf o.addr.toNat = some (.other d p) → d ≠ o.core →
      (o.kind = .load → s.farHome th d p o.n = false → s.farLock d p o.n false = false → s.eccIn [(spKey d p, o.n)] = none → o.dropped = false → th.buf = [] →
        ∃ t : State, exec .remoteScratchpadAccess s = .next (t.complete o (loadValue o (s.bytes (spKey d p) o.n))) ∧ t.mem = s.mem) ∧
      (o.kind = .load → s.farHome th d p o.n = false → s.farLock d p o.n false = true → exec .remoteScratchpadAccess s = .next s) ∧
      (o.kind = .atomic → s.farHome th d p o.n = false → s.farLock d p o.n true = false → s.subHit d p o.n = true →
        exec .remoteScratchpadAccess s = .next (s.failOp o 0x18 o.addr))) ∧
    (∀ j p, o.kind = .atomic → o.at_ = 0 → spaceOf o.addr.toNat = some (.pool j p) → s.fwd (poolKey j p) = poolKey j p → s.eccIn [(poolKey j p, o.n)] = none →
      ∃ t : State, exec .loadDataReturn s = .next (t.complete o (BitVec.ofNat 64 (s.word (poolKey j p) o.n))) ∧
        t.mem = memPuts (poolKey j p) (toBytes o.n (atomicValue o.aop (s.word (poolKey j p) o.n) o.data.toNat o.exp.toNat)) s.mem) ∧
    (∀ p, o.kind = .atomic ∨ o.kind = .fe → o.at_ = 0 → spaceOf o.addr.toNat = some (.camp p) → s.bankPending o.core (bankOf p) o.id = false →
      ∃ t : State, exec .loadDataReturn s = .next t ∧ Table.get [] (bankOf p) t.bankQ = Table.get [] (bankOf p) s.bankQ ++ [.op o.id] ∧ t.mem = s.mem ∧ t.threads = s.threads) ∧
    (∀ b, Table.get [] b s.bankQ = [.op o.id] → s.arg.n = b → o.kind = .fe → (s.ctx o.core th.x).cnt.watch = [] →
      let p := o.addr.toNat % 0x10000000
      (o.aop = 0 → p ∈ s.full → s.eccIn [(campKey p, 8)] = none → bankOf p = b → Table.get [] b s.bankWait = [] →
        ∃ t : State, exec .bankOperation s = .next (t.complete o (BitVec.ofNat 64 (s.word (campKey p) 8))) ∧ p ∉ t.full ∧ t.mem = s.mem) ∧
      (o.aop ≠ 0 → p ∉ s.full → Table.get [] b s.bankWait = [] →
        ∃ t : State, exec .bankOperation s = .next (t.complete o 0) ∧ p ∈ t.full ∧ t.mem = memPuts (campKey p) (toBytes 8 (o.data.setWidth 64).toNat) s.mem) ∧
      (o.aop ≠ 0 → p ∈ s.full → (Table.get [] b s.bankWait).length < 256 → (s.ctx o.core th.x).away = false →
        ∃ t : State, exec .bankOperation s = .next t ∧ Table.get [] b t.bankWait = Table.get [] b s.bankWait ++ [.op o.id] ∧ t.mem = s.mem ∧ t.threads = s.threads) ∧
      (o.aop ≠ 0 → p ∈ s.full → 256 ≤ (Table.get [] b s.bankWait).length → (s.ctx o.core th.x).away = false →
        ∃ (t : State) (q : Op), exec .bankOperation s = .next t ∧ t.opById o.id = some q ∧ q.at_ = 3 ∧ q.exp = BitVec.ofNat 64 (s.dev.clock + 256) ∧ t.mem = s.mem))

end

/-! ### Translation, page movement and scrubbing (R97 to R103, R377 to R380, R414, R415) -/

namespace Sys2Proof.Claims

open Sys2Proof.Machine

/-- The walk, and its cluster, that a step is about. -/
def walking (s : State) (k : Nat) (w : Walk) : Prop :=
  (s.clusters.findSome? fun p => (p.2.walks.find? fun w => w.id == s.arg.id).map fun w => (p.1, w)) = some (k, w)

/-- The steps of Machine/EvMem.lean leave a thread's registers alone. -/
def sameRegisters (a b : Thread) : Prop := b.t = a.t ∧ b.k = a.k ∧ b.sp = a.sp ∧ b.pred = a.pred ∧ b.pc = a.pc

end Sys2Proof.Claims

section
open Sys2Proof Sys2Proof.Machine Sys2Proof.Claims

/-- R97, R99, R100, R378 to R380, R408, R413: a walk that ends enters one TLB entry for its page, with the mapping's rights and no more than the leases' rights, and no other that
overlaps it remains; one that a
shoot-down has overtaken is made again, and one that finds no page is reported once, in the context's fault ring. -/
def Sys2Proof.Claims.WalkResult : Prop :=
  ∀ (s : State) (k : Nat) (w : Walk), walking s k w →
    let q := s.cluster k
    (w.seq ≠ q.inval → ∃ t : State, exec .tlbWalkComplete s = .next t ∧ (t.cluster k).tlb = q.tlb ∧ t.threads = s.threads ∧ t.mem = s.mem ∧
      (t.cluster k).walks = q.walks.map fun x => if x.id = w.id then { x with seq := q.inval } else x) ∧
    (∀ z pa pr, w.seq = q.inval → s.held w.va = true → s.walk w.l w.va = some (z, pa, pr) → pa % 65536 = 0 → q.tlb.length < 8 →
      ∃ (t : State) (e : Tlb), exec .tlbWalkComplete s = .next t ∧ (t.cluster k).tlb = e :: (q.tlb.filter fun x =>
          !(x.l == w.l && overlap (x.vpn * 65536) (pageBytes x.size) (e.vpn * 65536) (pageBytes e.size))) ∧ t.tlbFind k w.l w.va = some e ∧
        e.pa w.va = pa + w.va % pageBytes z ∧ e.pr = pr ∧ e.size ≤ z ∧ e.lr = leaseRights (s.lease w.l) (w.va / pageBytes e.size * pageBytes e.size) (pageBytes e.size) ∧
        (t.cluster k).walks = (q.walks.filter fun x => x.id != w.id) ∧ t.mem = s.mem ∧ t.threads = s.threads) ∧
    (w.seq = q.inval → s.held w.va = true → s.walk w.l w.va = none → w.told = true → exec .tlbWalkComplete s = .next s) ∧
    (w.seq = q.inval → s.held w.va = true → s.walk w.l w.va = none → w.told = false → ∃ t : State, exec .tlbWalkComplete s = .next t ∧
      (t.cluster k).tlb = q.tlb ∧ ((t.cluster k).walks = q.walks.map fun x => if x.id = w.id then { x with told := true } else x) ∧
      (t.lease w.l).fcnt = (s.lease w.l).fcnt + 1 ∧
      t.bytes ((s.lease w.l).saveBase + 64 * ((s.lease w.l).fcnt % 1024)) 2 = [0x40, 3])

/-- R99, R102, R103: a shoot-down takes the entries of its range from one cluster after the other, and its requester goes on after the last; a page moves line by line, is mapped at its new place
after the last line and shot down; a page made resident, by a mapping that it brings where none covers it yet, wakes the threads that touched it. -/
def Sys2Proof.Claims.PageSteps : Prop :=
  ∀ s : State,
    (∀ x k r, s.shoots.find? (fun y => y.id == s.arg.id) = some x → x.mig = none → ∀ k0, x.clusters = k0 :: k :: r →
      ∃ t : State, exec .shootdownComplete s = .next t ∧ t.threads = s.threads ∧ t.mem = s.mem ∧
        ((t.cluster k).tlb = (s.cluster k).tlb.filter fun e =>
          !(e.l == x.l && overlap x.lo (x.hi - x.lo) (e.vpn * 65536 / pageBytes e.size * pageBytes e.size) (pageBytes e.size))) ∧
        (t.cluster k).inval = ((s.cluster k).inval + 1) % 2 ^ 32 ∧
        t.shoots = s.shoots.map fun y => if y.id = x.id then { y with clusters := k :: r } else y) ∧
    (∀ x k, s.shoots.find? (fun y => y.id == s.arg.id) = some x → x.mig = none → x.clusters = [k] →
      ∃ t : State, exec .shootdownComplete s = .next t ∧ (t.shoots = s.shoots.filter fun y => y.id != x.id) ∧ t.mem = s.mem ∧
        ∀ c h, sameRegisters (s.thread c h) (t.thread c h) ∧ ((s.thread c h).st ≠ .empty → (s.thread c h).wait = .shoot x.id → (t.thread c h).wait = .done 0) ∧
          ((s.thread c h).wait ≠ .shoot x.id → t.thread c h = s.thread c h)) ∧
    (∀ z p v, s.arg.id = 0 → s.arg.ok = false → s.leafAt s.arg.x s.arg.addr = some (z, p, v) → bit v 6 = false → s.arg.v.toNat % pageBytes z = 0 →
      s.arg.v.toNat + pageBytes z ≤ 0xC000000000 → overlap (bits v 8 48 * 256) (pageBytes z) s.arg.v.toNat (pageBytes z) = false →
      ∃ t : State, exec .pageMigrationLine s = .next t ∧ t.threads = s.threads ∧
        t.mem = memPuts p (toBytes 8 (putBits (putBits v 8 48 (bits v 8 48 * 256 / 256)) 6 1 1)) s.mem ∧
        t.sched.migs = s.sched.migs ++ [⟨s.nextOp, s.arg.x, s.arg.addr / pageBytes z * pageBytes z, bits v 8 48 * 256, s.arg.v.toNat, pageBytes z, 0⟩]) ∧
    (∀ m, s.arg.id ≠ 0 → s.sched.migs.find? (fun g => g.id == s.arg.id) = some m → m.done + 64 < m.len →
      ∃ t : State, exec .pageMigrationLine s = .next t ∧ t.mem = memPuts (m.new + m.done) (s.bytes (m.old + m.done) 64) s.mem ∧ t.threads = s.threads ∧
        t.sched.migs = s.sched.migs.map fun g => if g.id = m.id then { g with done := m.done + 64 } else g) ∧
    (∀ m, s.arg.id ≠ 0 → s.sched.migs.find? (fun g => g.id == s.arg.id) = some m → m.done < m.len → m.len ≤ m.done + 64 →
      ∃ (t : State) (x : Shoot), exec .pageMigrationLine s = .next t ∧ t.threads = s.threads ∧ t.shoots = s.shoots ++ [x] ∧
        x.l = m.l ∧ x.lo = m.va ∧ x.hi = m.va + m.len ∧ x.mig = some m.id) ∧
    ((s.walk s.arg.x (s.arg.n * 65536)).isSome = s.arg.ok → (s.lease s.arg.x).touched.length < 4096 → ∃ t : State, exec .pageResident s = .next t ∧ t.mem = s.mem ∧
      (∀ c h, h < 256 → (s.thread c h).st ≠ .empty → (s.thread c h).wait = .touch s.arg.n → (s.ctx c (s.thread c h).x).l = s.arg.x →
        t.thread c h = { s.thread c h with wait := .done (if s.arg.ok then 0 else 1) }) ∧
      (∀ c h, h < 256 → (s.thread c h).wait ≠ .touch s.arg.n → t.thread c h = s.thread c h) ∧
      (s.arg.ok = true → ∃ i b, (i, s.arg.n, b) ∈ (t.lease s.arg.x).touched)) ∧
    (∀ p, s.arg.ok = true → s.arg.m % 8 ≠ 0 → s.arg.bytes = [] → s.walk s.arg.x (s.arg.n * 65536) = none → s.leafSlot s.arg.x (s.arg.n * 65536) = some p →
      s.arg.addr % 65536 = 0 → s.arg.addr + 65536 ≤ s.hbmEnd → s.word p 8 % 2 = 0 → (s.lease s.arg.x).touched.length < 4096 →
      (let u := s.put p (toBytes 8 (s.arg.addr + s.arg.m % 8 * 4 + 3))
       (u.walk s.arg.x (s.arg.n * 65536)).isSome = true → ∃ t : State, exec .pageResident s = .next t ∧ t.mem = u.mem))

/-- R414, R415, R417: what scrubbing does by the structure in which it finds an error: a correctable one is counted; an uncorrectable one poisons a memory's word, aborts the task whose commit buffer it
struck, drops a line or an entry of a cache, becomes due at its thread, or takes the firmware's core away. -/
def Sys2Proof.Claims.ScrubResult : Prop :=
  ∀ s : State,
    let a := s.arg
    (a.ok = false → ∃ t : State, exec .patrolScrub s = .next t ∧ Table.get 0 a.n t.dev.corrected = Table.get 0 a.n s.dev.corrected + 1 ∧
      (∀ n, n ≠ a.n → Table.get 0 n t.dev.corrected = Table.get 0 n s.dev.corrected) ∧ t.mem = s.mem ∧ t.threads = s.threads ∧ t.poison = s.poison) ∧
    (a.ok = true → a.n = 1 ∨ a.n = 5 ∨ a.n = 6 → a.x = 0 → ∃ t : State, exec .patrolScrub s = .next t ∧ t.mem = s.mem ∧ t.threads = s.threads ∧
      (a.addr / 8 * 8, a.n) ∈ t.poison ∧ (t.poisoned (a.addr / 8 * 8) 8).isSome) ∧
    (a.ok = true → a.n = 2 → (s.thread a.c a.h).st ≠ .empty → (s.thread a.c a.h).buf ≠ [] → exec .patrolScrub s = .next (s.logEcc.abortTask a.c a.h)) ∧
    (a.ok = true → a.n = 1 ∨ a.n = 5 ∨ a.n = 6 → 2 ≤ a.x → ∃ t : State, exec .patrolScrub s = .next t ∧ t.mem = s.mem ∧ t.threads = s.threads ∧
      (a.x - 2, a.m) ∈ (t.core a.c).bad) ∧
    (a.ok = true → a.n = 3 → a.m ≠ 1 → ∃ t : State, exec .patrolScrub s = .next t ∧ t.mem = s.mem ∧ t.threads = s.threads ∧
      (∀ e ∈ (t.core a.c).l1d, e.va / 64 ≠ a.addr / 64) ∧ ∀ e ∈ (t.cluster (clusterOf a.c)).tlb, e.vpn ≠ a.addr / 65536) ∧
    (a.ok = true → a.n = 4 → (s.thread a.c a.h).st ≠ .empty → (s.thread a.c a.h).st ≠ .leaving → a.m ≠ 1 → ∃ (t : State) (z : Cause), exec .patrolScrub s = .next t ∧
      z.code = 0x30 ∧ t.thread a.c a.h = { s.thread a.c a.h with due := (s.thread a.c a.h).due ++ [z] } ∧ t.mem = s.mem) ∧
    (a.ok = true → a.n = 4 → (s.thread a.c a.h).st ≠ .empty → (s.thread a.c a.h).st ≠ .leaving → a.m = 1 → ∃ t : State, exec .patrolScrub s = .next t ∧
      (t.thread a.c a.h).st = .leaving ∧ (t.thread a.c a.h).leave = .fatal) ∧
    (a.ok = true → a.n = 7 → ∃ t : State, exec .patrolScrub s = .next t ∧ t.agenda = s.agenda ++ [⟨.takeover, { c := a.c }⟩] ∧ t.threads = s.threads ∧ t.mem = s.mem)

end

/-! ### Threads between bundles (R19, R20, R34, R36, R44, R47, R64, R69, R105, R115, R213, R246 to R249, R259, R338, R349, R410, R418 to R420) -/

namespace Sys2Proof.Claims

open Sys2Proof.Machine

/-- The thread that a step is about. -/
def its (s : State) : Thread := s.thread s.arg.c s.arg.h

/-- The thread stands at a boundary, with neither a restart nor a kill before it. -/
def bounded (s : State) : Prop := s.atBoundary s.arg.c s.arg.h = true ∧ (its s).restart = false ∧ (its s).kill = none

/-- What the six words and the predicate word of a window read as in its 64 bytes (R36). -/
def windowShape (w : Window) (b : List Byte) : Prop :=
  b.length = 64 ∧ ofBytes (slice b 0 8) = w.k4.toNat ∧ ofBytes (slice b 8 8) = w.k5.toNat ∧ ofBytes (slice b 16 8) = w.k6.toNat ∧ ofBytes (slice b 24 8) = w.k7.toNat ∧
    ofBytes (slice b 32 8) = w.ret.toNat ∧ ofBytes (slice b 40 8) = w.sp.toNat ∧ ofBytes (slice b 48 2) = w.pred.toNat

/-- Every thread but one stands as before. -/
def othersStand (s t : State) (c h : Nat) : Prop := ∀ d i, 256 * d + i ≠ 256 * c + h → t.thread d i = s.thread d i

end Sys2Proof.Claims

section
open Sys2Proof Sys2Proof.Machine Sys2Proof.Claims

/-- R47, R410: at its boundary a thread takes what is due, a team-replay cause before a task-fatal one and the task-fatal one whose operation issued first; a trap that
waited is delivered once nothing is pending, and waits on before that. -/
def Sys2Proof.Claims.BoundaryCauses : Prop :=
  ∀ s : State, bounded s →
    let c := s.arg.c
    let h := s.arg.h
    let t := its s
    let left := fun l => s.modThread c h fun t => { t with due := l }
    (∀ z, t.due = [z] → exec .deferredFault s = .next ((left []).takeException c h z)) ∧
    (∀ y z, t.due = [y, z] ∨ t.due = [z, y] → classOf y.code = 1 → classOf z.code = 2 → exec .deferredFault s = .next ((left [y]).takeException c h z)) ∧
    (∀ y z, t.due = [y, z] ∨ t.due = [z, y] → classOf y.code = 1 → classOf z.code = 1 → z.op < y.op → exec .deferredFault s = .next ((left [y]).takeException c h z)) ∧
    (t.due = [] → exec .deferredFault s = .next s) ∧
    (∀ z, t.due = [] → t.trapDue = some z → hasPending t = false →
      exec .trapDelivery s = .next ((s.modThread c h fun t => { t with trapDue := none }).takeNow c h z)) ∧
    (∀ z, t.due = [] → t.trapDue = some z → hasPending t = true → exec .trapDelivery s = .next s)

/-- R34, R135, R213, R259, R338: a kill notice under NOW is taken at the boundary: the thread's registers are those of its task's snapshot but for k0, the rope word, it stands at its
handler, and what it had buffered is gone; a sleeper's wait is over at its target and not before; a restart goes on once nothing is at large that fills a register of the thread and its windows are back; an
ageing credit is given, up to 3. Each of the four steps completes in every state. -/
def Sys2Proof.Claims.ThreadWakes : Prop :=
  ∀ s : State,
    let c := s.arg.c
    let h := s.arg.h
    let t := its s
    (∀ n, s.atBoundary c h = true → t.restart = false → t.kill = some n → n.now = true → t.killPc ≠ 0 → t.mem = none → t.arriving = false → s.opsOf c h = [] →
      t.hdev = s.dev.devno → (s.ctx c t.x).drain = false → min 2 t.snap.depth ≤ (t.win.drop (t.depth - t.snap.depth)).length →
      ∃ u : State, exec .stragglerKill s = .next u ∧ u.mem = s.mem ∧
        let b := u.thread c h
        b.pc = t.killPc ∧ Table.get 0 0 b.k = n.word ∧ (∀ i, i ≠ 0 → Table.get 0 i b.k = Table.get 0 i t.snap.k) ∧ b.sp = t.snap.sp ∧ b.pred = t.snap.pred ∧
          b.kill = none ∧ b.buf = [] ∧ b.st = t.st ∧ b.task = true ∧ b.timed = false ∧ b.t = []) ∧
    (∀ n, t.kill = some n → n.now = false → exec .stragglerKill s = .next s) ∧
    (∀ g, t.wait = .sleep g → t.st = .parked → g ≤ s.dev.clock →
      exec .sleepWake s = .next (s.modThread c h fun t => { t with wait := .sleep 0 })) ∧
    (∀ g, t.wait = .sleep g → s.dev.clock < g → exec .sleepWake s = .next s) ∧
    (t.restart = true → s.opsOf c h = [] → t.winAt = [] → t.killing = false →
      exec .taskRestart s = .next (s.modThread c h fun t => { t with t := [], lost := [], restart := false })) ∧
    (∀ o ∈ s.opsOf c h, o.dest = .result ∨ (∃ r, o.dest = .named r) ∨ (∃ rs, o.dest = .vregs rs) → exec .taskRestart s = .next s) ∧
    (t.winAt ≠ [] → exec .taskRestart s = .next s) ∧
    (t.st = .ready → (s.core c).ageq ≤ t.acc → exec .ageingCredit s = .next (s.modThread c h fun t => { t with acc := 0, cr := min (t.cr + 1) 3 })) ∧
    (t.st = .ready → t.acc < (s.core c).ageq → exec .ageingCredit s = .next s)

/-- R115: the timed task of a thread that parks at its task's end commits once it is the head of its instance: its stores land, the frontier rises to its timestamp, and the thread goes on
without an open task. -/
def Sys2Proof.Claims.TimedCommit : Prop :=
  ∀ (s : State) (w : BitVec 32) (i : Instr),
    let c := s.arg.c
    let h := s.arg.h
    let t := its s
    let k := s.ctx c t.x
    s.atBoundary c h = true → t.st = .parked → t.pcause = 10 → t.task = true → t.timed = true → s.isHead t = true → s.commitWait c h = none → badEntry t = none →
      s.boundary c h = none → s.frame c k.l k.ver t.pc = .lone w → decodeIn k.ver w = some i → endsTask i = true →
      ∃ u : State, exec .timedTaskCommit s = .next u ∧ u.mem = (s.commit c h).mem ∧
        (u.thread c h).st = .parked ∧ (u.thread c h).task = false ∧ (u.thread c h).timed = false ∧ (u.thread c h).buf = [] ∧
        ∀ inst, t.inst = some inst → inst.dev = s.dev.devno → t.tstamp.toNat ≤ (u.frontierOf inst).toNat

/-- R36, R37, R64, R208 to R210, R411: the oldest of more than two resident windows leaves the core for its 64 bytes, and a window that is not resident comes back from them as it left; a place outside
the leases is a cause due at the thread. -/
def Sys2Proof.Claims.WindowMoves : Prop :=
  (∀ (s : State) (w : Window) (l : List Window) (k : Nat),
    let c := s.arg.c
    let h := s.arg.h
    let t := its s
    t.win = l ++ [w] → 2 ≤ l.length → t.st ≠ .empty →
      (t.regPend.any fun p => decide (64 ≤ p.1 ∧ (p.1 - 64) / 4 = t.depth - t.win.length + 1)) = false →
      (s.windowPlace c t (t.depth - t.win.length + 1) 2 = .ok (some k) → s.foreign t = true → ∃ b : List Byte, windowShape w b ∧
        exec .windowSpill s = .next ((s.askHome c h 7 10 (areaWords k b)).modThread c h fun t => { t with win := l })) ∧
      (s.windowPlace c t (t.depth - t.win.length + 1) 2 = .ok (some k) → s.foreign t = false → ∃ (u : State) (b : List Byte), exec .windowSpill s = .next u ∧
        u.mem = memPuts k b s.mem ∧ windowShape w b ∧ u.thread c h = { t with win := l } ∧ othersStand s u c h) ∧
      (s.windowPlace c t (t.depth - t.win.length + 1) 2 = .error () → ∃ (u : State) (z : Cause), exec .windowSpill s = .next u ∧
        u.mem = s.mem ∧ z.code = 0x16 ∧ z.tval = BitVec.ofNat 64 (s.windowKey t (t.depth - t.win.length + 1)) ∧
        u.thread c h = { t with win := l, due := t.due ++ [z] } ∧ othersStand s u c h)) ∧
  (∀ (s : State) (k : Nat),
    let c := s.arg.c
    let h := s.arg.h
    let t := its s
    t.st ≠ .empty → t.win.length < min 3 t.depth → (s.opsOf c h).all (fun o => o.kind != .home) = true → s.windowPlace c t (t.depth - t.win.length) 1 = .ok (some k) →
      (s.foreign t = true → exec .windowRefill s = .next (s.askHome c h 6 11 [BitVec.ofNat 64 k, 64])) ∧
      (s.foreign t = false → t.restart = false → ∃ (u : State) (w : Window), exec .windowRefill s = .next u ∧ u.mem = s.mem ∧
        u.thread c h = { t with win := t.win ++ [w], winAt := t.winAt.filter fun p => p.1 != t.depth - t.win.length } ∧ windowShape w (s.bytes k 64) ∧ othersStand s u c h)) ∧
  (∀ s : State, (its s).win.length ≤ 2 → exec .windowSpill s = .next s) ∧
  (∀ s : State, min 3 (its s).depth ≤ (its s).win.length → exec .windowRefill s = .next s)

/-- R44: a thread that asks for a vector window gives up the one it has and waits in its core's queue; the head of the queue is granted the lowest aligned run of registers that no window holds, all
zero, and while none is free everyone behind it waits too. -/
def Sys2Proof.Claims.VectorWindows : Prop :=
  ∀ s : State,
    let c := s.arg.c
    let h := s.arg.h
    (∀ n b, (s.core c).vwait = [] → (its s).wait = .vwin n → (its s).st ≠ .arriving → s.arg.n = n →
      (s.modThread c h fun t => { t with vbase := 0, vcnt := 0 }).vfreeRun c n = some b →
      ∃ u : State, exec .vwinWrite s = .next u ∧ u.thread c h = { its s with vbase := b, vcnt := n, wait := .done 0 } ∧ othersStand s u c h ∧
        (∀ i, i < n → Table.get 0 (b + i) (u.core c).vreg = 0) ∧ (∀ r, r < b ∨ b + n ≤ r → Table.get 0 r (u.core c).vreg = Table.get 0 r (s.core c).vreg)) ∧
    (∀ n, (s.core c).vwait = [] → (its s).wait = .vwin n → (its s).st ≠ .arriving → s.arg.n = n →
      (s.modThread c h fun t => { t with vbase := 0, vcnt := 0 }).vfreeRun c n = none →
      ∃ u : State, exec .vwinWrite s = .next u ∧ u.thread c h = { its s with vbase := 0, vcnt := 0 } ∧ (u.core c).vwait = [(h, n)]) ∧
    (∀ i n b, (s.core c).vwait = [(i, n)] → (s.thread c i).st = .arriving → s.vfreeRun c n = some b →
      ∃ u : State, exec .vwinGrant s = .next u ∧ (u.thread c i).st = .ready ∧ (u.thread c i).vbase = b ∧ (u.thread c i).vcnt = n ∧ (u.core c).vwait = [] ∧ u.mem = s.mem) ∧
    (∀ i n r, (s.core c).vwait = (i, n) :: r → (s.thread c i).st = .arriving → s.vfreeRun c n = none → exec .vwinGrant s = .next s)

/-- R19, R20, R37, R50, R247, R249, R336, R349, R412: a thread that leaves frees its slot once its commands and accesses have ended; one that migrates waits in LEAVING for a slot at its target, takes its own home
slot there or the lowest free one of its class, ARRIVING until its windows are back, and towards another device leaves its snapshot and the read signature at its reserved home slot, its context going as four flits.
Its windows are first put where the next `call`s would assign them a place; that order of places is the model's choice (log 161). -/
def Sys2Proof.Claims.ThreadMoves : Prop :=
  ∀ s : State,
    let c := s.arg.c
    let h := s.arg.h
    let t := its s
    (t.st = .leaving → t.leave = .exit ∨ t.leave = .fatal → (s.core c).cmds = [] → s.opsOf c h = [] → t.mem = none → (s.core c).vwait = [] → t.hdev = s.dev.devno →
      s.sched.joiners = [] → (∃ e ∈ (s.hctx (s.ctx c t.x).host).launches, e.num = (s.ctx c t.x).launch ∧ 1 < e.open_) →
      ∃ u : State, exec .threadRetirement s = .next u ∧ u.thread c h = {} ∧ othersStand s u c h ∧ u.mem = s.mem ∧
        (u.hctx (s.ctx c t.x).host).launches = (s.hctx (s.ctx c t.x).host).launches.map fun e =>
          if e.open_ ≠ 0 ∧ e.num = (s.ctx c t.x).launch then { e with open_ := e.open_ - 1 } else e) ∧
    (∀ o, t.st = .leaving → o ∈ s.ops → o.core = c → o.slot = h → o.kind = .store → exec .threadRetirement s = .next s) ∧
    (t.st = .leaving → s.opsOf c h = [] → (t.timed = false ∨ t.sigHere = 0 ∨ s.foreign t = false) → t.win = [] → (s.core c).vwait = [] →
      (∀ d i, t.leave = .migrate s.dev.devno d → (s.ctx d t.x).placed = true → (s.ctx d t.x).away = false → s.arrivalSlot d t = some i → 256 * d + i ≠ 256 * c + h →
        ∃ u : State, exec .migrationArrival s = .next u ∧ u.thread c h = {} ∧ u.mem = s.mem ∧
          (∀ e j, 256 * e + j ≠ 256 * c + h → 256 * e + j ≠ 256 * d + i → u.thread e j = s.thread e j) ∧
          let b := u.thread d i
          b.st = .arriving ∧ b.leave = .no ∧ b.t = t.t ∧ b.k = t.k ∧ b.sp = t.sp ∧ b.pred = t.pred ∧ b.pc = t.pc ∧ b.winAt = t.winAt ∧ b.snap = t.snap ∧ b.cr = 0 ∧ b.acc = 0 ∧
            b.sigHome = t.sigHome ||| t.sigHere ∧ b.sigHere = 0 ∧ thidOf b = thidOf t) ∧
      (∀ d, t.leave = .migrate s.dev.devno d → (s.ctx d t.x).placed = true → s.arrivalSlot d t = none → exec .migrationArrival s = .next s) ∧
      (∀ e d, t.leave = .migrate e d → e ≠ s.dev.devno → s.reach e = true → t.buf = [] → s.foreign t = false →
        ∃ (u : State) (b : Thread) (p : Packet), exec .migrationArrival s = .next u ∧ u.thread c h = {} ∧ othersStand s u c h ∧ u.mem = s.mem ∧
          u.sched.abroad = s.sched.abroad ++ [(thidOf t, b)] ∧ b.snap = t.snap ∧ b.sigHome = t.sigHome ||| t.sigHere ∧
          (p ∈ u.sched.fabric ∨ p ∈ u.sched.heldBack) ∧ p.dst = e ∧ p.cls = 0 ∧ p.ty = 14 ∧ p.body.drop 48 = contextBytes b)) ∧
    (∀ w, t.st = .leaving → (∃ e d, t.leave = .migrate e d) → s.opsOf c h = [] → t.win = [w] → 1 ≤ t.depth → s.foreign t = false → t.oc = 0 →
      s.bivB t + 64 * (t.sc + 1) ≤ t.sp.toNat → (spOf (s.bivB t + 64 * t.sc)).isSome = true →
      ∃ (v : State) (b : List Byte), exec .migrationArrival s = exec .migrationArrival v ∧ v.mem = memPuts (s.bivB t + 64 * t.sc) b s.mem ∧ windowShape w b ∧
        v.thread c h = { t with win := [], winAt := t.winAt ++ [(t.depth, s.bivB t + 64 * t.sc)] } ∧ othersStand s v c h) ∧
    (t.st = .arriving → t.winAt = [] → (s.core c).vwait.any (fun p => p.1 == h) = false →
      exec .migrationArrival s = .next (s.modThread c h fun t => { t with st := .ready, pcause := 0, rs := s.dev.clock })) ∧
    (t.st = .arriving → t.winAt ≠ [] → exec .migrationArrival s = .next s)

/-- R69, R349: the load register of a cluster holds one byte for each of its cores; a core that may rebalance sends its candidate only to another core of its cluster that holds the same launch, has a slot free and
a load at least two lower. -/
def Sys2Proof.Claims.LoadBalance : Prop :=
  ∀ s : State,
    (∃ u : State, exec .cairnRefresh s = .next u ∧ (∀ j, j < 8 → bits (u.cluster s.arg.n).cairn.toNat (8 * j) 8 = s.loadByte (coreOf s.arg.n j)) ∧ u.threads = s.threads ∧ u.mem = s.mem) ∧
    (let c := s.arg.c
     let load := fun d => bits (s.cluster (clusterOf c)).cairn.toNat (8 * localOf d) 8
     let goal := fun d => d ∈ clusterCores (clusterOf c) ∧ d ≠ c ∧ (s.ctx d 0).placed = true ∧ (s.ctx d 0).launch = (s.ctx c 0).launch ∧ (s.freeSlot d 0).isSome = true
     (∃ u : State, exec .rebalance s = .next u ∧ u.mem = s.mem ∧ (u = s ∨ ∃ h d, goal d ∧ load d ≠ 255 ∧ load d + 2 ≤ load c ∧ (∀ e, goal e → load d ≤ load e) ∧
        u = s.modThread c h fun t => { t with st := .leaving, leave := .migrate s.dev.devno d })) ∧
     (∀ h t d, (s.ctx c 0).placed = true → (s.ctx c 0).away = false → bit (s.ctx c 0).caps.toNat 3 = true → s.threadsOf c = [(h, t)] → t.x = 0 → t.st = .ready →
        s.settled c h = true → s.migratable c h = true → t.arr = none → t.kill = none → (∀ e, goal e ↔ e = d) → load d ≠ 255 → load d + 2 ≤ load c →
        exec .rebalance s = .next (s.modThread c h fun t => { t with st := .leaving, leave := .migrate s.dev.devno d })))

/-- R418 to R420: in a team-replay the one member of a team goes back to what it held at its last release, with no operation and no buffered store left, and the team's count of replays rises;
where the rollbacks are used up its members end instead, with cause ECC_UNCORR in the fault ring. -/
def Sys2Proof.Claims.TeamRollback : Prop :=
  ∀ (s : State) (z : Snap),
    let c := s.arg.c
    let h := s.arg.h
    let x := s.arg.x
    let t := its s
    (s.ctx c x).placed = true → s.team c x = [c] → s.ctxThreads c x = [(h, t)] → (s.ctx c x).ckpt = [] → (s.core c).sub = [] → s.flights = [] → s.opsOf c h = [] → t.st = .parked → t.x = x →
      (s.arg.m ≠ 1 → s.arg.ok = false → t.wait = .stuck → t.uid ≤ (s.ctx c x).relAt → t.relSnap = some z → t.arriving = false → t.killing = false →
        t.hdev = s.dev.devno → (s.ctx c x).drain = false →
        ∃ u : State, exec .teamRollback s = .next u ∧ u.mem = s.mem ∧ (u.ctx c x).replays = (s.ctx c x).replays + 1 ∧ othersStand s u c h ∧
          let b := u.thread c h
          b.pc = z.pc ∧ b.k = z.k ∧ b.sp = z.sp ∧ b.pred = z.pred ∧ b.depth = z.depth ∧ b.win = t.relWin ∧ b.t = [] ∧ b.buf = [] ∧ b.timed = false ∧ b.task = true ∧ b.restart = false ∧ b.wait = .none) ∧
      (s.arg.m = 1 → ∃ u : State, exec .teamRollback s = .next u ∧ (u.thread c h).st = .leaving ∧ (u.thread c h).leave = .fatal ∧
        (u.lease (s.ctx c x).l).fcnt = (s.lease (s.ctx c x).l).fcnt + 1)

end

/-! ### Messages, spawns and services (R217, R233, R234, R244, R269, R345, R362, R370, R439) -/

namespace Sys2Proof.Claims

open Sys2Proof.Machine

/-- The core of the thread that an identifier names: where it runs, or its home (R269). -/
def messageCore (s : State) (o : Op) : Nat := match s.find o.addr.toNat with | some p => p.1 | none => bits o.addr.toNat 8 9

/-- A message operation that has not left its core, behind no refused one of its core to the same core (R345). -/
def leavesNow (s : State) (o : Op) : Prop :=
  o.kind = .send ∧ o.at_ = 0 ∧ (s.ops.any fun p => p.kind == .send && p.id != o.id && p.core == o.core && p.at_ == 3 && p.tgt == o.tgt &&
    p.more == [messageCore s o]) = false

/-- The thread that a message names runs on core `d`, slot `i`, in context `x` (R269). -/
def receiver (s : State) (o : Op) (d i x : Nat) : Prop :=
  i < 256 ∧ ∃ b : Thread, (s.threads.find? fun p => decide (p.2.st ≠ .empty) && thidOf p.2 == o.addr.toNat) = some (256 * d + i, b) ∧ b.leave = .no ∧ b.x = x

/-- A service is answered, by the step that follows. -/
def answered (s t : State) (v : Word) (w : Option Word) : Prop :=
  ∃ l, t.agenda = ⟨.syscAnswer, { id := s.arg.id, m := s.arg.m, v := v, w := w.getD 0, ok := w.isSome }⟩ :: l ∧ s.agenda <+: l

end Sys2Proof.Claims

section
open Sys2Proof Sys2Proof.Machine Sys2Proof.Claims

/-- R244, R269, R345, R387, R439: a message enters the queue register of its thread's context, waits in the inbound queue while that is full, and is refused, to be sent again after 256 s-cycles, where the
inbound queue has no room; its `send` is answered by what becomes of it. A spawn is answered with its thread's identifier, or bit 63 and the reason of its refusal. -/
def Sys2Proof.Claims.MessageSteps : Prop :=
  ∀ (s : State) (o : Op), about s o →
    (∀ d i x, leavesNow s o → o.tgt = s.dev.devno → receiver s o d i x → shareOk (s.core d).share x o.n 6 = true → (s.ctx d x).away = false → (s.lease (s.ctx d x).l).area = [] →
      let l := Table.get [] o.n (s.ctx d x).q
      let mine := (s.core d).inbox.filter fun m => m.x == x && m.q == o.n
      (l.length < 16 → mine = [] → ∃ t : State, exec .messageArrival s = .next (t.complete o 0) ∧ t.mem = s.mem ∧ t.threads = s.threads ∧ t.ops = s.ops ∧
        Table.get [] o.n (t.ctx d x).q = l ++ [.word (o.data.setWidth 64)]) ∧
      (16 ≤ l.length → (s.core d).inbox.length < 64 → mine.length < 16 → ∃ t : State, exec .messageArrival s = .next t ∧ t.mem = s.mem ∧ t.threads = s.threads ∧ t.ctxs = s.ctxs ∧
        (t.core d).inbox = (s.core d).inbox ++ [⟨x, o.n, o.data.setWidth 64, o.id, s.dev.devno, o.thid⟩]) ∧
      (16 ≤ l.length → 64 ≤ (s.core d).inbox.length ∨ 16 ≤ mine.length →
        exec .messageArrival s = .next (s.setOp { o with at_ := 3, more := [d], exp := BitVec.ofNat 64 (s.dev.clock + 256) }))) ∧
    (∀ d i x, leavesNow s o → o.tgt = s.dev.devno → receiver s o d i x → shareOk (s.core d).share x o.n 6 = false →
      exec .messageArrival s = .next (s.complete o (BitVec.ofNat 64 (2 ^ 63 + 5)))) ∧
    (leavesNow s o → o.tgt = s.dev.devno → (s.allThreads.any fun t => thidOf t == o.addr.toNat) = false → s.sched.launches = [] → s.sched.abroad = [] →
      o.addr.toNat / 2 ^ 17 = s.dev.devno → exec .messageArrival s = .next (s.complete o (BitVec.ofNat 64 (2 ^ 63 +
        if bits o.addr.toNat 0 8 ∈ (s.ctx (bits o.addr.toNat 8 9) 0).used ∨ bits o.addr.toNat 0 8 ∈ (s.ctx (bits o.addr.toNat 8 9) 1).used then 1 else 2)))) ∧
    (leavesNow s o → o.tgt ≠ s.dev.devno → s.reach o.tgt = false → exec .messageArrival s = .next (s.complete o (BitVec.ofNat 64 (2 ^ 63 + 4)))) ∧
    (o.kind = .send → o.at_ = 3 → o.exp.toNat ≤ s.dev.clock → exec .sendRetry s = .next (s.setOp { o with at_ := 0 })) ∧
    (o.kind = .send → o.at_ = 3 → s.dev.clock < o.exp.toNat → exec .sendRetry s = .next s) ∧
    (o.kind = .spawn → o.at_ = 0 → o.tgt ≠ s.dev.devno → s.reach o.tgt = false → exec .spawnAnswer s = .next (s.complete o (BitVec.ofNat 64 (2 ^ 63 + 6)))) ∧
    (o.kind = .spawn → o.at_ = 0 → o.tgt = s.dev.devno →
      let r := o.spawnReq s.dev.devno
      let x := if r.bpri = 7 then 1 else 0
      let k := s.ctx o.n x
      jobMatch k r = true → k.away = false →
      ((s.hctx k.host).barred = true → exec .spawnAnswer s = .next (s.complete o (BitVec.ofNat 64 (2 ^ 63 + 2)))) ∧
      ((s.hctx k.host).barred = false → bit r.desc 27 = true → bit k.caps.toNat 0 = false → exec .spawnAnswer s = .next (s.complete o (BitVec.ofNat 64 (2 ^ 63 + 5)))) ∧
      ((s.hctx k.host).barred = false → bit r.desc 27 = false → s.freeSlot o.n x = none → exec .spawnAnswer s = .next (s.complete o (BitVec.ofNat 64 (2 ^ 63 + 1)))) ∧
      (∀ h, (s.hctx k.host).barred = false → bit r.desc 27 = false → s.freeSlot o.n x = some h → ∃ t : State,
        exec .spawnAnswer s = .next (t.complete o (BitVec.ofNat 64 (thidOf (t.thread o.n h)))) ∧ (t.thread o.n h).pc = r.pc ∧ (t.thread o.n h).hcore = o.n ∧ (t.thread o.n h).hslot = h ∧ t.mem = s.mem))

/-- R217, R233, R362, R370: a service writes k0, and k1 where it states a second value, of the thread that waits for it. A mailbox word takes a value while it is empty and gives it up while it is full; words outside the
context's range, and a cancel of another context's launch, are refused. While no scheduler serves the services of the firmware wait (R368). -/
def Sys2Proof.Claims.ServiceAnswers : Prop :=
  ∀ s : State, s.sched.down = false →
    let a := s.arg
    let p := 0x3600000 + 8 * a.v.toNat
    (∀ c h, s.find a.id = some (c, h) → (s.thread c h).wait = .service a.m → a.ok = true →
      ∃ t : State, exec .syscAnswer s = .next t ∧ t.mem = s.mem ∧ Table.get 0 0 (t.thread c h).k = a.v ∧ Table.get 0 1 (t.thread c h).k = a.w ∧ (t.thread c h).wait = .done 0 ∧
        (∀ i, 2 ≤ i → Table.get 0 i (t.thread c h).k = Table.get 0 i (s.thread c h).k) ∧ othersStand s t c h) ∧
    (∀ c h, s.find a.id = some (c, h) → (s.thread c h).wait = .service a.m → a.ok = false →
      ∃ t : State, exec .syscAnswer s = .next t ∧ t.mem = s.mem ∧ Table.get 0 0 (t.thread c h).k = a.v ∧ (t.thread c h).wait = .done 0 ∧
        (∀ i, 2 ≤ i → Table.get 0 i (t.thread c h).k = Table.get 0 i (s.thread c h).k) ∧ othersStand s t c h) ∧
    (∀ c h, s.find a.id = some (c, h) → (s.thread c h).wait ≠ .service a.m → ∃ t : State, exec .syscAnswer s = .next t ∧ t.thread c h = s.thread c h) ∧
    (mailboxOk s.askingHost a.v.toNat = false → (∃ t : State, exec .syscMbxput s = .next t ∧ answered s t 2 none ∧ t.mem = s.mem) ∧ ∃ t : State, exec .mbxget s = .next t ∧ answered s t 2 none ∧ t.full = s.full) ∧
    (mailboxOk s.askingHost a.v.toNat = true → p ∈ s.full → ∃ t : State, exec .syscMbxput s = .next t ∧ answered s t 1 none ∧ t.mem = s.mem ∧ t.full = s.full) ∧
    (mailboxOk s.askingHost a.v.toNat = true → p ∉ s.full → Table.get [] (bankOf p) s.bankWait = [] → ∃ t : State, exec .syscMbxput s = .next t ∧ answered s t 0 none ∧
      t.mem = memPuts (campKey p) (toBytes 8 a.w.toNat) s.mem ∧ p ∈ t.full) ∧
    (mailboxOk s.askingHost a.v.toNat = true → p ∉ s.full → ∃ t : State, exec .mbxget s = .next t ∧ answered s t 1 none ∧ t.full = s.full) ∧
    (mailboxOk s.askingHost a.v.toNat = true → p ∈ s.full → Table.get [] (bankOf p) s.bankWait = [] → ∃ t : State, exec .mbxget s = .next t ∧
      answered s t 0 (some (BitVec.ofNat 64 (s.word (campKey p) 8))) ∧ p ∉ t.full ∧ t.mem = s.mem) ∧
    (∀ o, spaceOf a.v.toNat = some (.own 0 o) → o + a.w.toNat ≤ 0x100000 → a.w.toNat ≤ 4096 → ∃ t : State, exec .log s = .next t ∧
      ((Config.logFull s.draw = true ∧ answered s t 1 none ∧ t.sched.hctx = s.sched.hctx) ∨
        (answered s t 0 none ∧ (t.hctx s.askingHost).log = (s.hctx s.askingHost).log ++ [s.bytes (spKey a.c o) a.w.toNat])) ∧ t.mem = s.mem) ∧
    (∀ n, a.v = 1 → s.sched.launches.find? (fun m => m.id == a.w.toNat) = some n → n.host ≠ s.askingHost → ∃ t : State, exec .syscCancel s = .next t ∧ answered s t 2 none ∧ t.sched.launches = s.sched.launches) ∧
    (2 ≤ a.v.toNat → a.v.toNat ≤ 4 → levelIn a.w.toNat ((s.hctx s.askingHost).level a.v.toNat) = none → ∃ t : State, exec .syscCancel s = .next t ∧ answered s t 0 none ∧ t.sched.launches = s.sched.launches)

end

/-! ### Engines at work (R124, R301 to R311, R331, R332, R341 to R343) -/

namespace Sys2Proof.Claims

open Sys2Proof.Machine

/-- The command that a step is about, on its core, in a context that is in place. -/
def atCommand (s : State) (m : Cmd) : Prop := s.cmd s.arg.c s.arg.id = some m ∧ m.core = s.arg.c ∧ m.id = s.arg.id ∧ (s.ctx m.core m.x).away = false

/-- A command that has ended: it and its locks are gone. -/
def endedCmd (t : State) (m : Cmd) : Prop := t.cmd m.core m.id = none ∧ ∀ l ∈ (t.core m.core).locks, l.cmd ≠ m.id

/-- The value of a thread semaphore. -/
def semaphore (s : State) (m : Cmd) : Nat := Table.get 0 m.ts (s.thread m.core m.slot).ts

/-- Nothing holds a running command back (R124, R303, R305). -/
def runs (s : State) (m : Cmd) : Prop :=
  m.running = true ∧ m.cancelled = false ∧ (s.core m.core).lockWait m.id = false ∧ (s.core m.core).holdWait m = false

end Sys2Proof.Claims

section
open Sys2Proof Sys2Proof.Machine Sys2Proof.Claims

/-- R124, R125, R301 to R305, R311, R314, R341, R343: the oldest waiting command of its engine begins once the engine has room for one more; a command with a trip count of 0 completes at once. A command waits for the ranges
of earlier ones; a cancelled one stops at its next interruptible point without a signal; the last step gives its locks back and raises its thread semaphore, which saturates. -/
def Sys2Proof.Claims.EngineSteps : Prop :=
  ∀ (s : State) (m : Cmd), atCommand s m →
    (m.running = true → exec .engineCommandBegin s = .next s) ∧
    (∀ o, m.running = false → o ∈ (s.core m.core).cmds → o.id < m.id → o.eng = m.eng → (s.ctx m.core o.x).away = false → o.running = false → exec .engineCommandBegin s = .next s) ∧
    (m.running = false → (∀ o ∈ (s.core m.core).cmds, o.id < m.id → o.eng = m.eng → (s.ctx m.core o.x).away = false → o.running = true) →
      ((s.core m.core).cmds.filter fun o => o.eng == m.eng && o.running).length < portRuns m.eng →
      (∀ x k q, m.ins = .tzero x k q ∨ (∃ y, m.ins = .tld x y k q ∨ m.ins = .tst x y k q) → ∃ t : State, exec .engineCommandBegin s = .next t ∧
        t.cmd m.core m.id = some { m with running := true } ∧ t.mem = s.mem ∧ t.threads = s.threads) ∧
      (∀ x y e g c q, m.ins = .mvs x y e g c q → m.n 1 = 1 → Table.get 0#32 (m.n 2) (s.ctx m.core m.x).lc = 0 → (s.thread m.core m.slot).st ≠ .empty → ∃ t : State,
        exec .engineCommandBegin s = .next t ∧ endedCmd t m ∧ t.mem = s.mem ∧ semaphore t m = if m.ns then semaphore s m else min 65535 (semaphore s m + 1))) ∧
    (runs s m → ∀ c q, m.ins = .accz c q → m.steps = 1 → m.step = 0 → m.args = [c.toNat] → (s.thread m.core m.slot).st ≠ .empty → ∃ t : State, exec .engineStep s = .next t ∧ endedCmd t m ∧ t.mem = s.mem ∧
      ((t.core m.core).acc c.toNat).el = [] ∧ semaphore t m = if m.ns then semaphore s m else min 65535 (semaphore s m + 1)) ∧
    (runs s m → ∀ x k q, m.ins = .tzero x k q → m.steps = 1 → m.step = 0 → m.args = [k.toNat] → ∃ t : State, exec .engineStep s = .next t ∧ endedCmd t m ∧ t.mem = s.mem ∧
      let u := (s.core m.core).tile k.toNat
      (∀ r, r < u.nrows → bits (((t.core m.core).tile k.toNat).row r).toNat 0 (256 * u.rowb) = 0) ∧ ((t.core m.core).tile k.toNat).scv = fmtScaled u.fmt) ∧
    (m.running = true → m.cancelled = true → m.step % 16 = 0 → ∃ t : State, exec .engineStep s = .next t ∧ endedCmd t m ∧ t.mem = s.mem ∧ t.threads = s.threads) ∧
    (m.running = true → m.cancelled = false → (s.core m.core).lockWait m.id = true → exec .engineStep s = .next s) ∧
    (m.running = false → exec .engineStep s = .next s) ∧
    (runs s m → ∀ v, s.eccIn (s.stepReads m) = some v → ∃ (t : State) (z : Cause), exec .engineStep s = .next t ∧ endedCmd t m ∧ t.mem = s.mem ∧ z.code = 0x30 ∧ z.tval = BitVec.ofNat 64 v ∧ z.pc = m.pc ∧
      (t.thread m.core m.slot).due = (s.thread m.core m.slot).due ++ [z] ∧ semaphore t m = semaphore s m)

/-- R329 to R332: a coalescing buffer leaves 256 a-cycles after its last pair; a flit's pairs are applied to their bins at their receiver, in the order in which its sender sent them there, and dropped, and counted, outside the bins. -/
def Sys2Proof.Claims.KeyedSteps : Prop :=
  ∀ s : State,
    let a := s.arg
    (∀ ps, (s.core a.c).coal.find? (fun b => b.1 == a.n && b.2.1 == a.x) = some (a.n, a.x, ps) → ps ≠ [] → a.n / 512 = s.dev.devno → Table.get 0 (2 * a.n + a.x) (s.core a.c).coalClk + 512 ≤ s.dev.clock →
      ∃ t : State, exec .keyBufferTimeout s = .next t ∧ t.flights = s.flights ++ [(s.nextOp, .keyed a.c (a.n % 512) a.x (s.ctx a.c a.x).l ps)] ∧ t.mem = s.mem ∧
        ((t.core a.c).coal = (s.core a.c).coal.filter fun p => !(p.1 == a.n && p.2.1 == a.x))) ∧
    (s.dev.clock < Table.get 0 (2 * a.n + a.x) (s.core a.c).coalClk + 512 → exec .keyBufferTimeout s = .next s) ∧
    (∀ src c x p o, s.flights = [(a.id, .keyed src c x (s.ctx c x).l [p])] → (s.ctx c x).placed = true → (s.ctx c x).away = false → (s.ctx c x).bins.slot p.1 = some o → s.pairsWait c x [p] = false →
      o < 0x100000 → c < 512 → ∃ t : State, exec .keyedFlitArrival s = .next t ∧ t.flights = [] ∧ (t.ctx c x).bins.applied = (s.ctx c x).bins.applied + 1 ∧ t.threads = s.threads ∧
        ((s.core c).src = [] → t.mem = memPuts (spKey c o) (toBytes 4 (binOp (s.ctx c x).bins.op (s.word (spKey c o) 4) p.2.toNat)) s.mem)) ∧
    (∀ src c x p, s.flights = [(a.id, .keyed src c x (s.ctx c x).l [p])] → (s.ctx c x).placed = true → (s.ctx c x).away = false → (s.ctx c x).bins.slot p.1 = none →
      ∃ t : State, exec .keyedFlitArrival s = .next t ∧ t.flights = [] ∧ (t.ctx c x).bins.rdrop = (s.ctx c x).bins.rdrop + 1 ∧ t.mem = s.mem ∧ t.threads = s.threads) ∧
    (∀ src c x l ps q r, s.flights = (q, .keyed src c x l ps) :: r → q ≠ a.id → (∃ qs, s.flights.find? (fun f => f.1 == a.id) = some (a.id, .keyed src c x l qs)) → exec .keyedFlitArrival s = .next s)

end

/-! ### Fixed lines, barriers and ropes at work (R67, R90, R128 to R134, R254, R258 to R260, R347, R348) -/

section
open Sys2Proof Sys2Proof.Machine Sys2Proof.Claims

/-- R128, R129, R347, R348: a BATCH window that has run its time closes, and its update carries the line as it then stands with the next sequence number; an update is applied to its subscriber's region in order, and the oldest of a core's own
leaves while its subscriber has room. -/
def Sys2Proof.Claims.FixedLineSteps : Prop :=
  ∀ s : State,
    let a := s.arg
    let k := s.core a.c
    let f := Table.get {} a.n k.src
    let due := Table.get 0 (16384 * a.n + a.m) k.batchClk + 2 * (if f.bwin = 0 then 64 else f.bwin)
    ((a.n, a.m) ∈ k.batch → due ≤ s.dev.clock → k.outq.length < 128 → ∃ t : State, exec .batchWindowClose s = .next t ∧ t.mem = s.mem ∧ (a.n, a.m) ∉ (t.core a.c).batch ∧
      (Table.get {} a.n (t.core a.c).src).seq = (f.seq + 1) % 2 ^ 32 ∧
      (t.core a.c).outq = k.outq ++ [⟨f.peer, f.pidx, (f.seq + 1) % 2 ^ 32, 64 * a.m, s.bytes (spKey a.c (f.off + 64 * a.m)) 64⟩]) ∧
    (s.dev.clock < due → exec .batchWindowClose s = .next s) ∧
    (128 ≤ k.outq.length → exec .batchWindowClose s = .next s) ∧
    (∀ u l, k.inq = [] → k.outq = u :: l → u.dst ≠ a.c → (s.core u.dst).inq.length < 32 → ∃ t : State, exec .flUpdateApply s = .next t ∧ t.mem = s.mem ∧ (t.core a.c).outq = l ∧
      (t.core u.dst).inq = (s.core u.dst).inq ++ [u]) ∧
    (∀ u l, k.inq = [] → k.outq = u :: l → 32 ≤ (s.core u.dst).inq.length → exec .flUpdateApply s = .next s) ∧
    (∀ u, k.inq = [u] → k.outq = [] → k.src = [] → a.c < 512 → (Table.get {} u.entry k.sub).off + u.off < 0x100000 → ∃ t : State, exec .flUpdateApply s = .next t ∧ (t.core a.c).inq = [] ∧
      (Table.get {} u.entry (t.core a.c).sub).seq = u.seq ∧ t.mem = memPuts (spKey a.c ((Table.get {} u.entry k.sub).off + u.off)) u.bytes s.mem ∧ t.threads = s.threads)

/-- R67, R130, R254: an arrival whose rectangle is not its register's sets MIS and is dropped; a core that has arrived, with every core behind it, sends the arrival on, west and then north, and the corner releases; a release raises GEN, frees the threads that had arrived and
goes back the way the arrivals came. -/
def Sys2Proof.Claims.BarrierSteps : Prop :=
  ∀ s : State,
    let a := s.arg
    (∀ launch src c x n rect q, a.id ≠ 0 → s.flights.find? (fun f => f.1 == a.id) = some (a.id, .arrive launch src c x n rect q) → s.barrierHere launch c x = true → bgKey ((s.ctx c x).bgv n) ≠ rect →
      ∃ t : State, exec .barrierArrivalHop s = .next t ∧ (t.flights = s.flights.filter fun f => f.1 != a.id) ∧ bit ((t.ctx c x).bgv n) 30 = true ∧ t.threads = s.threads ∧ t.mem = s.mem) ∧
    (∀ launch src c x n rect q, a.id ≠ 0 → s.flights.find? (fun f => f.1 == a.id) = some (a.id, .arrive launch src c x n rect q) → s.barrierHere launch c x = true → bgKey ((s.ctx c x).bgv n) = rect →
      Table.get 0 n (s.ctx c x).barSent = 0 →
      ∃ t : State, exec .barrierArrivalHop s = .next t ∧ (t.flights = s.flights.filter fun f => f.1 != a.id) ∧ Table.get [] n (t.ctx c x).barIn = src :: Table.get [] n (s.ctx c x).barIn ∧ t.threads = s.threads ∧ t.mem = s.mem) ∧
    (a.id = 0 → s.coreArrives a.c a.x a.n = true → (s.core a.c).batch = [] → (s.core a.c).outq.length ≤ 128 → sweepFrom ((s.ctx a.c a.x).bgv a.n) a.c = [] → ∃ (t : State) (fl : Flight), exec .barrierArrivalHop s = .next t ∧
      t.flights = s.flights ++ [(s.nextOp, fl)] ∧ Table.get 0 a.n (t.ctx a.c a.x).barSent = 2 ∧ t.threads = s.threads ∧ t.mem = s.mem ∧
      (∃ q, fl = match sweepTo ((s.ctx a.c a.x).bgv a.n) a.c with
        | some d => .arrive (s.ctx a.c a.x).launch a.c d a.x a.n (bgKey ((s.ctx a.c a.x).bgv a.n)) q
        | none => .release (s.ctx a.c a.x).launch a.c a.x a.n (bgKey ((s.ctx a.c a.x).bgv a.n)) q)) ∧
    (a.id = 0 → s.coreArrives a.c a.x a.n = false → exec .barrierArrivalHop s = .next s) ∧
    (∀ id launch c x n rect q, s.flights.find? (fun f => f.1 == a.id) = some (id, .release launch c x n rect q) → s.barrierHere launch c x = true → s.linesCaughtUp c q = true → (s.ctx c x).replayable = false →
      ∃ t : State, exec .barrierRelease s = .next t ∧ t.mem = s.mem ∧ bgGen ((t.ctx c x).bgv n) = (bgGen ((s.ctx c x).bgv n) + 1) % 64 ∧ Table.get 0 n (t.ctx c x).barSent = 0 ∧
        (∀ h, h < 256 → (s.thread c h).st ≠ .empty → (s.thread c h).x = x → ∀ r, (s.thread c h).arr = some r → r.bg = n → r.gen = (bgGen ((s.ctx c x).bgv n) + 1) % 64 → (t.thread c h).arr = none) ∧
        ∀ d ∈ sweepFrom rect.toNat c, ∃ p ∈ t.flights, p.2 = .release launch d x n rect q) ∧
    (∀ id launch c x n rect q, s.flights.find? (fun f => f.1 == a.id) = some (id, .release launch c x n rect q) → s.barrierHere launch c x = true → s.linesCaughtUp c q = false → exec .barrierRelease s = .next s)

/-- R75, R90, R133, R134, R258, R260: lines of a contribution are written while their bank has room and are acknowledged; with the last acknowledgement its member is counted; the lines of a counted member are merged into the sum, each once, and a
release whose counted members are merged fills the sum, ends the round and wakes the waiters. -/
def Sys2Proof.Claims.RopeSteps : Prop :=
  ∀ s : State,
    let a := s.arg
    let r := s.rope a.id
    (∀ p, r.pend.find? (fun p => p.m == a.m) = some p → s.pendRoom a.id p = true → ∃ t : State, exec .ropePendingWrite s = .next t ∧ t.mem = s.mem ∧ t.threads = s.threads ∧
      ((t.rope a.id).pend.find? fun p => p.m == a.m) = some { p with wrote := p.wrote + 1 } ∧ (t.rope a.id).arrived = r.arrived) ∧
    (∀ p, r.pend.find? (fun p => p.m == a.m) = some p → s.pendRoom a.id p = false → exec .ropePendingWrite s = .next s) ∧
    (∀ p, r.pend.find? (fun p => p.m == a.m) = some p → p.wrote ≤ a.n → exec .ropeBankAck s = .next s) ∧
    (∀ p, r.pend.find? (fun p => p.m == a.m) = some p → a.n < p.wrote → a.n ∉ p.acked → (∃ i, i < r.needed ∧ i ≠ a.n ∧ i ∉ p.acked) → ∃ t : State, exec .ropeBankAck s = .next t ∧ t.mem = s.mem ∧ t.threads = s.threads ∧
      ((t.rope a.id).pend.find? fun p => p.m == a.m) = some { p with acked := a.n :: p.acked } ∧ (t.rope a.id).arrived = r.arrived ∧ (t.rope a.id).warr = r.warr) ∧
    (∀ p, r.pend = [p] → p.m = a.m → p.counted = false → r.st = 1 ∨ r.st = 2 → a.n < p.wrote → a.n ∉ p.acked → (∀ i, i < r.needed → i = a.n ∨ i ∈ p.acked) → r.arrived + 1 < r.q → p.dev = s.dev.devno → s.opById p.op = none →
      ∃ t : State, exec .ropeBankAck s = .next t ∧ t.mem = s.mem ∧ (t.rope a.id).arrived = r.arrived + 1 ∧ (t.rope a.id).warr = r.warr + (Table.get {} a.m r.mem).weight ∧ (Table.get {} a.m (t.rope a.id).mem).cnt = true) ∧
    (∀ p, r.pend.find? (fun p => p.m == a.m) = some p → p.counted = true → a.n < p.wrote → a.n ∉ p.merged → r.fill ≠ 2 → ∃ t : State, exec .ropeMerge s = .next t ∧ t.threads = s.threads ∧
      t.mem = memPuts (campKey ((r.offs + a.n) * 64)) (lineAdd r.i32 (s.bytes (campKey ((r.offs + a.n) * 64)) 64) (slice p.bytes (64 * a.n) 64)) s.mem) ∧
    (∀ p, r.pend.find? (fun p => p.m == a.m) = some p → p.counted = false ∨ a.n ∈ p.merged → exec .ropeMerge s = .next s) ∧
    (r.st = 3 → r.pend = [] → r.fill = 0 → r.away = [] → ∃ t : State, exec .ropeRelease s = .next t ∧ t.mem = s.mem ∧ (t.rope a.id).st = 4 ∧ (t.rope a.id).filled = true ∧ (t.rope a.id).armed = false ∧
      (t.rope a.id).round = (r.round + 1) % 2 ^ 32 ∧ ∀ c h, h < 256 → (s.thread c h).st ≠ .empty → (s.thread c h).wait = .rope a.id → (t.thread c h).wait = .done 0) ∧
    (r.st ≠ 3 ∨ r.pend ≠ [] → exec .ropeRelease s = .next s)

end

/-! ### Submission queues, launches, energy and the ladder (R351 to R369, R391, R397, R405, R462) -/

namespace Sys2Proof.Claims

open Sys2Proof.Machine

/-- A completion slot as it goes to the host, with its interrupt where the packet asks for one (R355, R356). -/
def completionOut (s : State) (q : Nat) (h : Held) (status extra : Nat) : List HostOut :=
  let k := s.subq q
  .write (k.cbase + 64 * (k.comps % 2 ^ k.sz)) (toBytes 1 (pktN h.pkt 0 1) ++ toBytes 1 (bits k.comps k.sz 1) ++ toBytes 2 status ++ toBytes 4 (pktN h.pkt 4 4) ++ toBytes 4 h.idx ++
      toBytes 4 0 ++ toBytes 8 s.now ++ toBytes 8 extra ++ toBytes 32 0) :: if bit (pktN h.pkt 1 1) 2 then [.msix q] else []

/-- The packet has completed: its slot and interrupt are out after `first`, and it stands in the queue no more. -/
def completed (s t : State) (q : Nat) (h : Held) (status : Nat) (first : List HostOut) : Prop :=
  t.sched.out = s.sched.out ++ first ++ completionOut s q h status 0 ∧ (t.subq q).comps = ((s.subq q).comps + 1) % 2 ^ 32 ∧ ∀ p ∈ (t.subq q).pkts, p.idx ≠ h.idx

/-- A packet of a type at the head of the queue that the step names, read for the first time: its phase is right, its head is, and it has no ORDER (R353, R356). -/
def fetched (s : State) (ty : Nat) : Prop :=
  let q := s.arg.n
  let k := s.subq q
  s.arg.ok = false ∧ s.mayTake q = true ∧ pktN s.arg.pkt 0 1 = ty ∧ bit (pktN s.arg.pkt 1 1) 0 = bit k.head k.sz ∧ (s.hctx k.ctx).barred = false ∧ headOk s.arg.pkt = true ∧
    bit (pktN s.arg.pkt 1 1) 1 = false ∧ ∀ h ∈ k.pkts, h.idx ≠ k.head

/-- That packet. -/
def atHead (s : State) : Held := ⟨(s.subq s.arg.n).head, s.arg.pkt, false⟩

/-- It waits in its queue, for a reason of R354. -/
def waitsFor (s t : State) (n : Nat) : Prop :=
  (t.subq s.arg.n).hold = n ∧ (t.subq s.arg.n).unstarted = some (atHead s) ∧ (t.subq s.arg.n).head = ((s.subq s.arg.n).head + 1) % 2 ^ 32 ∧ t.sched.out = s.sched.out

/-- The launch of a LAUNCH packet, as it is read. -/
def launchRead (s : State) : Launch :=
  let a := s.arg
  { id := s.sched.nextLaunch, st := .held, q := a.n, idx := (s.subq a.n).head, host := (s.subq a.n).ctx, pkt := a.pkt, graph := pktN a.pkt 24 2, phase := pktN a.pkt 26 2
    job := pktN a.pkt 28 2, est := pktN a.pkt 20 4, root := a.addr, remote := a.bytes, ovfBase := a.v.toNat, saveAt := a.w.toNat
    absent := a.pairs.map fun p => (p.1.toNat, p.2.toNat) }

/-- What a mailbox step asks of its word's bank (R362). -/
def mailboxReq (s : State) (put peek : Bool) (v : Word) : BankReq := .mbx s.arg.n (s.subq s.arg.n).head (0x3600000 + 8 * pktN s.arg.pkt 8 4) put peek v

end Sys2Proof.Claims

section
open Sys2Proof Sys2Proof.Machine Sys2Proof.Claims

/-- R351 to R357, R361 to R363: kicks move a queue's tail where they keep its ring and raise guilt where they do not; a packet is read, completes with its slot and interrupt, or waits with its reason, and raises guilt where it is malformed. -/
def Sys2Proof.Claims.QueueSteps : Prop :=
  ∀ s : State,
    let q := s.arg.n
    let k := s.subq q
    let p := s.arg.pkt
    let w := s.arg.v.toNat
    (let kq := s.subq (bits w 0 10)
     let d := (bits w 32 32 + 2 ^ 32 - kq.head) % 2 ^ 32
     (kq.en = true → s.dev.bootState = 2 → d ≤ 2 ^ kq.sz → (kq.tail + 2 ^ 32 - kq.head) % 2 ^ 32 ≤ d → ∃ t : State, exec .kick s = .next t ∧
        t.subq (bits w 0 10) = { kq with tail := bits w 32 32, kicked := true } ∧ t.mem = s.mem ∧ t.threads = s.threads ∧ t.sched.hctx = s.sched.hctx) ∧
     (kq.en = true → s.dev.bootState = 2 → 2 ^ kq.sz < d → (s.hctx kq.ctx).guilt < s.dev.glim → s.dev.glim < 255 → ∃ t : State, exec .kick s = .next t ∧ (t.hctx kq.ctx).guilt = (s.hctx kq.ctx).guilt + 1 ∧
        t.sched.subq = s.sched.subq ∧ t.mem = s.mem) ∧
     (kq.en = false ∨ s.dev.bootState ≠ 2 → exec .kick s = .next s)) ∧
    (∃ t : State, exec .gclr s = .next t ∧ (t.hctx (bits w 0 8)).guilt = 0 ∧ (t.hctx (bits w 0 8)).barred = false ∧ (∀ n, n ≠ bits w 0 8 → t.hctx n = s.hctx n) ∧ t.mem = s.mem) ∧
    (k.en = false → k.pkts = [] → 4 ≤ bits w 16 5 → bits w 16 5 ≤ 16 → 10 ≤ bits w 32 16 → 100 ≤ bits w 48 16 → bit w 23 = true → ∃ t : State, exec .qcfgWrite s = .next t ∧ t.mem = s.mem ∧
      let r := t.subq q
      r.en = true ∧ r.sz = bits w 16 5 ∧ r.iclass = bit w 22 ∧ r.ctx = bits w 24 8 ∧ r.t1lim = bits w 32 16 ∧ r.t2lim = bits w 48 16 ∧ r.head = 0 ∧ r.tail = 0 ∧ r.base = k.base ∧ r.cbase = k.cbase) ∧
    (k.en = true → bit w 23 = true → exec .qcfgWrite s = .next s) ∧
    (s.mayTake q = true → (s.hctx k.ctx).barred = false → (∀ h ∈ k.pkts, h.idx ≠ k.head) → bit (pktN p 1 1) 0 ≠ bit k.head k.sz ∨ pktN p 0 1 = 0 ∨ 8 < pktN p 0 1 → (s.hctx k.ctx).guilt < s.dev.glim → s.dev.glim < 255 →
      ∃ t : State, exec .malformedSlot s = .next t ∧ completed s t q (atHead s) 2 [] ∧ (t.hctx k.ctx).guilt = (s.hctx k.ctx).guilt + 1) ∧
    (fetched s 8 → zeroBytes p 8 64 = true → ∃ t : State, exec .nopPacket s = .next t ∧ completed s t q (atHead s) 0 []) ∧
    (fetched s 8 → zeroBytes p 8 64 = false → (s.hctx k.ctx).guilt < s.dev.glim → s.dev.glim < 255 → ∃ t : State, exec .nopPacket s = .next t ∧ completed s t q (atHead s) 2 [] ∧
      (t.hctx k.ctx).guilt = (s.hctx k.ctx).guilt + 1) ∧
    (fetched s 4 → pktN p 8 8 % 8 = 0 → zeroBytes p 24 64 = true →
      ∃ t : State, exec .signal s = .next t ∧ completed s t q (atHead s) 0 [.write (pktN p 8 8) (toBytes 8 (pktN p 16 8))]) ∧
    (fetched s 5 → zeroBytes p 16 64 = true → pktN p 8 8 ≤ s.now → ∃ t : State, exec .timed s = .next t ∧ completed s t q (atHead s) 0 []) ∧
    (fetched s 5 → zeroBytes p 16 64 = true → s.now < pktN p 8 8 → ∃ t : State, exec .timed s = .next t ∧ waitsFor s t 3) ∧
    (∀ h, s.sched.down = false → k.unstarted = some h → k.pkts = [h] → k.hold = 3 → pktN h.pkt 0 1 = 5 → pktN h.pkt 8 8 ≤ s.now → ∃ t : State, exec .timedExpiry s = .next t ∧ completed s t q h 0 []) ∧
    (∀ h, k.unstarted = some h → s.now < pktN h.pkt 8 8 → exec .timedExpiry s = .next s) ∧
    (fetched s 6 → pktN p 8 1 = 5 ∨ pktN p 8 1 = 6 ∨ pktN p 8 1 = 11 → zeroBytes p 9 64 = true →
      (k.pkts = [] → ∃ t : State, exec .fencePacket s = .next t ∧ completed s t q (atHead s) 0 []) ∧ (k.pkts ≠ [] → ∃ t : State, exec .fencePacket s = .next t ∧ waitsFor s t 5)) ∧
    (fetched s 2 → pktN p 12 1 < 2 → zeroBytes p 13 64 = true → mailboxOk k.ctx (pktN p 8 4) = true → k.hold = 0 → ∃ t : State, exec .mbxwait s = .next t ∧ waitsFor s t 1 ∧
      let b := bankOf (0x3600000 + 8 * pktN p 8 4)
      Table.get [] b t.bankQ = Table.get [] b s.bankQ ++ [mailboxReq s false (bit (pktN p 12 1) 0) 0]) ∧
    (fetched s 3 → zeroBytes p 12 16 = true → zeroBytes p 24 64 = true → mailboxOk k.ctx (pktN p 8 4) = true → k.hold = 0 → ∃ t : State, exec .mbxput s = .next t ∧ waitsFor s t 2 ∧
      let b := bankOf (0x3600000 + 8 * pktN p 8 4)
      Table.get [] b t.bankQ = Table.get [] b s.bankQ ++ [mailboxReq s true false (BitVec.ofNat 64 (pktN p 16 8))]) ∧
    (fetched s 7 → 2 ≤ pktN p 8 1 → pktN p 8 1 ≤ 4 → zeroBytes p 9 12 = true → zeroBytes p 16 64 = true → levelIn (pktN p 12 4) ((s.hctx k.ctx).level (pktN p 8 1)) = none →
      ∃ t : State, exec .cancel s = .next t ∧ completed s t q (atHead s) 0 [])

/-- R358, R364 to R368, R391, R397, R405, R462: a LAUNCH that passes its checks waits for its cores, or is held while the energy left does not reach its estimate; it is placed on a free context number once its cores have room. A ladder begins its save rung at the
end of the drain or of its limit; energy is charged by samples and loaded again at each window's boundary; a failed primary is replaced by the belayer of rank 0. -/
def Sys2Proof.Claims.LaunchSteps : Prop :=
  ∀ s : State,
    let a := s.arg
    let q := a.n
    let u := s.takeSlot q a.pkt 1
    let n := launchRead s
    (fetched s 1 → zeroBytes a.pkt 30 32 = true → s.launchOk n (s.subq q).iclass = true → (s.sched.launches.all fun m => m.q != q || m.idx != n.idx) = true → s.sched.launches.all (fun m => m.id != n.id) = true → s.running = [] →
      unitCancelled (s.hctx n.host) a.pkt = false → (openUnits (s.hctx n.host) a.pkt).isSome = true → (s.subq q).hold = 0 →
      (min n.est s.dev.bud ≤ s.dev.erem → ∃ (t : State) (m : Launch), exec .launch s = .next t ∧ t.launch n.id = some m ∧ m.st = .waiting ∧ m.pkt = a.pkt ∧ m.q = q ∧ m.host = (s.subq q).ctx ∧ m.opened = true ∧
        t.sched.nextLaunch = s.sched.nextLaunch + 1 ∧ (t.subq q).hold = 0) ∧
      (s.dev.erem < min n.est s.dev.bud → (u.kern n).1.bpri ≠ 7 → ∃ (t : State) (m : Launch), exec .launch s = .next t ∧ t.launch n.id = some m ∧ m.st = .held ∧ (t.subq q).hold = 4)) ∧
    (let pages := a.pairs.map fun p => (p.1.toNat, p.2.toNat)
     let had := fun (m : Launch) => if a.pairs.isEmpty ∨ m.st ≠ .waiting then s else s.makeResident m pages
     (∀ m l, s.launch a.id = some m → m.st = .waiting → (had m).dev.thermHold = false → (had m).sched.down = false → (had m).resident m = true →
       (levelOpen 256 1 m.id ((had m).hctx m.host).launches).isSome = true → m.after = [] → (had m).freeL = some l → (had m).running = [] →
       (∀ c ∈ rectOf m.pkt, (had m).coreRoom ((had m).kern m).1 c = true) → exec .launchPlace s = .next ((had m).placeLaunch m l)) ∧
     (∀ m, s.launch a.id = some m → (had m).resident m = false → exec .launchPlace s = .next (had m)) ∧
     (∀ m, s.launch a.id = some m → a.ok = false → (had m).freeL = none → exec .launchPlace s = .next (had m)) ∧
     (∀ m c, s.launch a.id = some m → a.ok = false → c ∈ rectOf m.pkt → (had m).coreRoom ((had m).kern m).1 c = false → exec .launchPlace s = .next (had m))) ∧
    (∃ t : State, exec .energySample s = .next t ∧ t.mem = s.mem ∧ t.threads = s.threads ∧ t.dev.ecnt = (s.dev.ecnt + a.n) % 2 ^ 64 ∧ t.dev.erem = s.dev.erem - (s.dev.ecarry + a.n) / 1000 ∧
      t.dev.ecarry = (s.dev.ecarry + a.n) % 1000 ∧ ∀ i, i < 4 → (Table.get ({} : Die) i t.dev.dies).ecnt = ((Table.get ({} : Die) i s.dev.dies).ecnt + (a.ks.getD i 0).toNat) % 2 ^ 64) ∧
    (s.now / (s.dev.win * 1000) ≠ s.dev.ewin → ∃ t : State, exec .energyWindowBoundary s = .next t ∧ t.dev.erem = s.dev.budNext ∧ t.dev.bud = s.dev.budNext ∧ t.dev.win = s.dev.winNext ∧ t.mem = s.mem ∧ t.threads = s.threads) ∧
    (s.now / (s.dev.win * 1000) = s.dev.ewin → exec .energyWindowBoundary s = .next s) ∧
    (∀ m, s.sched.down = false → s.launch a.id = some m → m.st = .draining → s.placesOf a.id = [] → ∃ (t : State) (r : Launch), exec .drainEnd s = .next t ∧ t.launch a.id = some r ∧ r.st = .saving ∧ r.rung = 1 ∧
      r.t2End = s.now + (s.subq m.q).t2lim * 1000) ∧
    (∀ m, s.launch a.id = some m → exec .t1limExpiry s = .next (if m.t1End ≤ s.now ∧ s.sched.down = false then s.beginSave m.id 2 else s)) ∧
    (s.drained a.id = true → s.sched.down = false → exec .drainEnd s = .next (s.beginSave a.id 1)) ∧
    (s.drained a.id = false ∨ s.sched.down = true → exec .drainEnd s = .next s) ∧
    (∀ m, s.sched.down = false → s.launch a.id = some m → m.st = .saving → s.placesOf a.id = [] → ∃ (t : State) (r : Launch), exec .saveComplete s = .next t ∧ t.launch a.id = some r ∧ r.st = .saved ∧ r.kept = some (s.lease m.l) ∧
      (∀ p ∈ t.sched.subq, p.2.ctx = m.host → p.2.rung = m.rung) ∧ (t.lease m.l).used = true ∧ (t.lease m.l).leases = [] ∧ (t.lease m.l).saveBase = (s.lease m.l).saveBase) ∧
    (∀ m p, s.launch a.id = some m → p ∈ s.placesOf a.id → s.saveReady p.1 p.2 = false → exec .saveComplete s = .next s) ∧
    (∀ m, s.sched.down = false → s.launch a.id = some m → m.id = a.id → m.st = .saving → m.t2End ≤ s.now → exec .t2limExpiry s = .next (((s.rungRecord a.id 3).setRung m.host 3).loseLaunch a.id)) ∧
    (∀ m, s.launch a.id = some m → s.now < m.t2End → exec .t2limExpiry s = .next s) ∧
    (∀ b, s.dev.roles.find? (fun r => r.1 == a.c && r.2.1 == 1) = some (a.c, 1, 0) → s.dev.roles.find? (fun r => r.2.1 == 2 && r.2.2 == 0) = some (b, 2, 0) → b ≠ a.c → s.sched.heldComps = [] →
      ∃ t : State, exec .takeover s = .next t ∧ t.mem = s.mem ∧ t.sched.down = false ∧ (b, 1, 0) ∈ t.dev.roles ∧ (a.c, 0, 0) ∈ t.dev.roles ∧ (∀ r ∈ t.dev.roles, r.1 = a.c → r.2.1 ≠ 1) ∧
        (∀ n, (t.subq n).en = true → (t.subq n).kicked = true) ∧ (∃ l, t.agenda = s.agenda ++ l) ∧
        ∀ h, h < 256 → (s.thread b h).st ≠ .empty → (s.thread b h).wait = .halt → (t.thread b h).wait = .done 0)

end

/-! ### Management channels (R371 to R373, R395, R442, R443, R447) -/

namespace Sys2Proof.Claims

open Sys2Proof.Machine

/-- A channel has a reply of `n` bytes go out at once, before the end of its ring (R371). -/
def roomy (s : State) (m n : Nat) : Prop :=
  (s.chan m).en = true ∧ (s.chan m).replies = [] ∧ chanRoom (s.chan m) n = true ∧ (s.chan m).rtail % 2 ^ (s.chan m).sz + n ≤ 2 ^ (s.chan m).sz

/-- A record has gone out on a channel, with its interrupt (R371). -/
def sent (s t : State) (m : Nat) (rec : List Byte) : Prop :=
  t.sched.out = s.sched.out ++ [.write ((s.chan m).rbase + (s.chan m).rtail % 2 ^ (s.chan m).sz) rec, .msix (1024 + m)]

/-- A reply (R372): the byte index of its request, a status, and its body. -/
def replyRec (i ty status : Nat) (body : List Byte) : List Byte := ringRec (ty + 0x8000) (toBytes 4 i ++ toBytes 2 status ++ toBytes 10 0 ++ body)

/-- The channel that a step names. -/
def itsChan (s : State) : Chan := s.chan s.arg.m

/-- The next request of the channel stands at index `i`, with a body of `n` bytes (R371). -/
def requested (s : State) (i n : Nat) : Prop := s.arg.bytes.length = n ∧ ∃ r, s.request s.arg.m n = some (i, r)

end Sys2Proof.Claims

section
open Sys2Proof Sys2Proof.Machine Sys2Proof.Claims

/-- R371: the registers of a management channel: tail, reply head, the configuration while it is disabled, and DROP, which a read clears. -/
def Sys2Proof.Claims.ChannelRegisters : Prop :=
  ∀ s : State,
    let m := s.arg.m
    let v := s.arg.v.toNat
    let k := itsChan s
    (∃ t : State, exec .mqtail s = .next t ∧ t.chan m = { k with tail := v % 2 ^ 32 } ∧ (∀ n, n ≠ m → t.chan n = s.chan n) ∧ t.mem = s.mem ∧ t.threads = s.threads) ∧
    (k.replies = [] → m ≠ 0 → ∃ t : State, exec .mrheadWrite s = .next t ∧ t.chan m = { k with rhead := v % 2 ^ 32 } ∧ t.sched.out = s.sched.out) ∧
    (∀ r, k.en = true → k.replies = [r] → m ≠ 0 → chanRoom { k with rhead := v % 2 ^ 32 } r.length = true → k.rtail % 2 ^ k.sz + r.length ≤ 2 ^ k.sz →
      ∃ t : State, exec .mrheadWrite s = .next t ∧ (t.chan m).replies = [] ∧ sent s t m r ∧ (t.chan m).rtail = (k.rtail + r.length) % 2 ^ 32) ∧
    (k.en = false → 12 ≤ bits v 16 5 → bits v 16 5 ≤ 24 → m ≠ 0 → k.replies = [] → ∃ t : State, exec .mcfgWrite s = .next t ∧
      t.chan m = { k with en := bit v 23, sz := bits v 16 5, admin := bit v 8, ctx := bits v 0 8 }) ∧
    (k.en = false → bits v 16 5 < 12 ∨ 24 < bits v 16 5 → exec .mcfgWrite s = .next s) ∧
    (k.en = true → bit v 23 = true → exec .mcfgWrite s = .next s) ∧
    (k.en = true → bit v 23 = false → bits v 16 5 = k.sz → bit v 8 = k.admin → bits v 0 8 = k.ctx → ∃ t : State, exec .mcfgWrite s = .next t ∧
      t.chan m = { k with en := false, head := k.tail, replies := [], busy := [] }) ∧
    (∃ t : State, exec .mstatRead s = .next t ∧ t.chan m = { k with drop := 0 } ∧ (∀ n, n ≠ m → t.chan n = s.chan n) ∧ t.mem = s.mem)

/-- R371 to R373, R395, R442, R443, R447: a request is served in its channel's order and answered with a status: 2 where the channel may not act for its context, 3 for a length or type that no row has, 4 where it cannot be done. -/
def Sys2Proof.Claims.ManagementRequests : Prop :=
  ∀ (s : State) (i : Nat),
    let m := s.arg.m
    let a := s.arg
    let off := sInt 64 (ofBytes (slice a.bytes 0 8))
    (∀ n, requested s i n → roomy s m 24 → (n ≠ 8 → a.x = 0 → ∃ t : State, exec .preempt s = .next t ∧ sent s t m (replyRec i 1 3 [])) ∧
      (n ≠ 8 → a.ok = false → ∃ t : State, exec .resume s = .next t ∧ sent s t m (replyRec i 2 3 [])) ∧ (n ≠ 16 → a.ok = false → ∃ t : State, exec .ptpoff s = .next t ∧ sent s t m (replyRec i 3 3 []) ∧ t.dev = s.dev) ∧
      (n ≠ 32 → ∃ t : State, exec .attest s = .next t ∧ sent s t m (replyRec i 4 3 [])) ∧ (n ≠ 0 → ∃ t : State, exec .pubkey s = .next t ∧ sent s t m (replyRec i 5 3 [])) ∧
      (n ≠ 0 → ∃ t : State, exec .thermclr s = .next t ∧ sent s t m (replyRec i 6 3 []) ∧ t.dev = s.dev) ∧
      (7 ≤ a.x → a.x < 0x8000 → ∃ t : State, exec .preempt s = .next t ∧ sent s t m (replyRec i a.x 3 []) ∧ t.sched.launches = s.sched.launches)) ∧
    (requested s i 8 → roomy s m 24 → a.x = 0 → s.named = none → ∃ t : State, exec .preempt s = .next t ∧ sent s t m (replyRec i 1 2 []) ∧ t.sched.launches = s.sched.launches) ∧
    (requested s i 8 → roomy s m 32 → a.x = 0 → s.named = some [] → ∃ t : State, exec .preempt s = .next t ∧ sent s t m (replyRec i 1 0 (toBytes 8 0))) ∧
    (∀ n, requested s i 8 → a.x = 0 → s.named = some [n] → n.st = .placed → s.launch n.id = some n → ∃ (t : State) (r : Launch), exec .preempt s = .next t ∧ t.launch n.id = some r ∧ r.st = .draining ∧
      r.t1End = s.now + (s.subq n.q).t1lim * 1000 ∧ t.sched.out = s.sched.out ∧ ∀ p ∈ s.placesOf n.id, (t.ctx p.1 p.2).drain = true) ∧
    (requested s i 8 → roomy s m 24 → a.ok = false → s.named = none → ∃ t : State, exec .resume s = .next t ∧ sent s t m (replyRec i 2 2 [])) ∧
    (∀ l, requested s i 8 → roomy s m 24 → a.ok = false → s.named = some l → (∀ n ∈ l, n.st ≠ .saved) → ∃ t : State, exec .resume s = .next t ∧ sent s t m (replyRec i 2 0 [])) ∧
    (∀ n r, a.ok = true → s.launch a.id = some n → n.st = .saved → n.back = true → s.resumeLaunch n = (r, true) → exec .resume s = .next r) ∧
    (requested s i 16 → roomy s m 24 → a.ok = false → off.natAbs ≤ 1000000 → s.dev.trim = 0 → ∃ t : State, exec .ptpoff s = .next t ∧ sent s t m (replyRec i 3 0 []) ∧
      t.dev.trim = Int.tdiv (-off * 2 ^ 32) 1000000000 ∧ t.dev.dtime = s.dev.dtime) ∧
    (requested s i 16 → roomy s m 24 → a.ok = false → 1000000 < off → ∃ t : State, exec .ptpoff s = .next t ∧ sent s t m (replyRec i 3 0 []) ∧
      t.dev.owed = s.dev.owed + off.toNat * 2 ^ 32 ∧ t.dev.dtime = s.dev.dtime ∧ t.dev.trim = s.dev.trim) ∧
    (requested s i 32 → roomy s m (24 + (s.reportHead a.bytes).length + 1536) → ∃ (t : State) (g : List Byte), exec .attest s = .next t ∧ g.length ≤ 1534 ∧
      sent s t m (replyRec i 4 0 (s.reportHead a.bytes ++ (toBytes 2 g.length ++ (g ++ List.replicate (1534 - g.length) 0))))) ∧
    (requested s i 0 → roomy s m (24 + (Config.publicKey.length + 9) / 8 * 8) → ∃ (t : State) (z : List Byte), exec .pubkey s = .next t ∧ (∀ b ∈ z, b = 0) ∧ z.length < 8 ∧
      sent s t m (replyRec i 5 0 (toBytes 2 Config.publicKey.length ++ (Config.publicKey ++ z)))) ∧
    (requested s i 0 → roomy s m 24 → a.ok = true → ∃ t : State, exec .thermclr s = .next t ∧ sent s t m (replyRec i 6 0 []) ∧ t.dev.thermHold = false) ∧
    (requested s i 0 → roomy s m 24 → a.ok = false → ∃ t : State, exec .thermclr s = .next t ∧ sent s t m (replyRec i 6 4 []) ∧ t.dev = s.dev) ∧
    ((∀ n, n < 8 → Table.get 0 n s.dev.corrected = Table.get 0 n s.dev.correctedSent) → exec .cesum s = .next s) ∧
    (∀ n, 1 ≤ n → n < 8 → Table.get 0 n s.dev.corrected ≠ Table.get 0 n s.dev.correctedSent → roomy s 0 64 →
      ∃ t : State, exec .cesum s = .next t ∧ sent s t 0 (ringRec 0x9001 ((List.range 7).flatMap fun j => toBytes 8 (Table.get 0 (j + 1) s.dev.corrected))) ∧ t.dev.correctedSent = s.dev.corrected)

end

/-! ### Time, counters and trace (R69, R71, R338, R394 to R406) -/

section
open Sys2Proof Sys2Proof.Machine Sys2Proof.Claims

/-- R338, R395, R399 to R402: an s-cycle raises the counter by one, ages every ready thread that did not issue, and counts one code and one bucket for each placed context; a capture record holds the eight counters. -/
def Sys2Proof.Claims.CycleSteps : Prop :=
  ∀ s : State,
    (∃ t : State, exec .sCycle s = .next t ∧ t.dev.clock = (s.dev.clock + 1) % 2 ^ 64 ∧ t.dev.dtime = s.dev.dtime ∧ (∀ c, (t.core c).issued = none) ∧
      (∀ c h, h < 256 → (s.thread c h).st = .ready → (s.core c).issued.map Prod.fst ≠ some h →
        t.thread c h = if (s.core c).ageq ≤ (s.thread c h).acc + 1 then { s.thread c h with acc := 0, cr := min ((s.thread c h).cr + 1) 3 } else { s.thread c h with acc := (s.thread c h).acc + 1 }) ∧
      (∀ c h, h < 256 → (s.thread c h).st ≠ .ready ∨ (s.core c).issued.map Prod.fst = some h → t.thread c h = s.thread c h)) ∧
    (∀ c x k, x < 2 → s.ctxs = [(2 * c + x, k)] → k.placed = true → k.cnt.sel = [] → k.cnt.capEn = false → ∃ t : State, exec .sCycle s = .next t ∧
      (∀ i, Table.get 0 i (t.ctx c x).cnt.tlc = if i = s.tlcCode c x then (Table.get 0 i k.cnt.tlc + 1) % 2 ^ 48 else Table.get 0 i k.cnt.tlc) ∧
      ∀ i, Table.get 0 i (t.ctx c x).cnt.hist = if i = histBucket (readyIn (s.threadsOf c) x).length then (Table.get 0 i k.cnt.hist + 1) % 2 ^ 48 else Table.get 0 i k.cnt.hist) ∧
    (∀ c, s.cores.map Prod.fst = [c] → s.ctxs = [] → (s.core c).trState = 1 → (s.core c).issued = some (5, 0) → s.fwd ((s.core c).trBase + 2 * ((s.core c).trIdx % 65536)) = (s.core c).trBase + 2 * ((s.core c).trIdx % 65536) →
      ∃ t : State, exec .sCycle s = .next t ∧ t.mem = memPuts ((s.core c).trBase + 2 * ((s.core c).trIdx % 65536)) (toBytes 2 (16 * 4 + 5 * 256)) s.mem ∧ (t.core c).trIdx = (s.core c).trIdx + 1) ∧
    (let c := s.arg.c
     let x := s.arg.x
     let n := (s.ctx c x).cnt
     (n.capEn = true → 1024 * n.capIval ≤ n.capAge → ∃ (t : State) (b : List Byte), exec .captureRecord s = .next t ∧ b.length = 128 ∧ slice b 0 8 = toBytes 8 s.now ∧ slice b 8 8 = toBytes 8 s.dev.clock ∧
        (∀ i, i < 8 → slice b (64 + 8 * i) 8 = toBytes 8 (Table.get 0 i n.pc)) ∧ t.mem = memPuts (s.fwd (n.capBase + 128 * (n.capIdx % 2 ^ n.capSz))) b s.mem ∧
        (t.ctx c x).cnt = { n with capIdx := n.capIdx + 1, capAge := 0, capGap := false }) ∧
     (n.capEn = false ∨ n.capAge < 1024 * n.capIval → exec .captureRecord s = .next s))

/-- R71, R394, R395, R406: DTIME rises by the trimmed reference period, never goes back, and gives up half of each period while a negative step stands; PPS captures it; wear has no value that the spec states. -/
def Sys2Proof.Claims.TimeSteps : Prop :=
  ∀ s : State,
    let d := s.dev
    let v := s.arg.v
    (∃ t : State, exec .referencePeriod s = .next t ∧ t.mem = s.mem ∧ t.threads = s.threads ∧ d.dtime ≤ t.dev.dtime ∧ t.dev.owed ≤ d.owed ∧
      (d.owed = 0 → t.dev.dtime = d.dtime + (10 * (2 ^ 32 + d.trim)).toNat) ∧ ((10 * (2 ^ 32 + d.trim)).toNat / 2 ≤ d.owed → t.dev.owed = d.owed - (10 * (2 ^ 32 + d.trim)).toNat / 2) ∧
      t.dev.dtime + d.owed = d.dtime + (10 * (2 ^ 32 + d.trim)).toNat + t.dev.owed) ∧
    (v.toInt < 0 → ∃ t : State, exec .dtstepWrite s = .next t ∧ t.dev.dtime = d.dtime ∧ t.dev.owed = d.owed + v.toInt.natAbs * 2 ^ 32 ∧ t.mem = s.mem) ∧
    (0 ≤ v.toInt → ∃ t : State, exec .dtstepWrite s = .next t ∧ t.dev.dtime + d.owed = d.dtime + v.toInt.toNat * 2 ^ 32 + t.dev.owed ∧ d.dtime ≤ t.dev.dtime ∧ (t.dev.owed = 0 ∨ t.dev.dtime = d.dtime) ∧ t.mem = s.mem) ∧
    (∃ t : State, exec .ppsEdge s = .next t ∧ t.dev = { d with ppsCap := s.now, ppsClk := d.clock, ppsCnt := (d.ppsCnt + 1) % 2 ^ 32 } ∧ t.mem = s.mem ∧ t.threads = s.threads) ∧
    (∃ t : State, exec .wearCompute s = .next t ∧ t.mem = s.mem ∧ t.threads = s.threads ∧ t.dev.clock = d.clock ∧ (d.active = true → ∀ i, 1 ≤ i → i < 4 → (Table.get ({} : Die) i t.dev.dies).eold = 0xFFFF) ∧
      ∀ i, i < 4 → (Table.get ({} : Die) i t.dev.dies).ecnt = (Table.get ({} : Die) i d.dies).ecnt)

/-- R394, R403, R404: the states of a core's trace as writes of TRCTL, the cross-trigger and the end of the trailing entries change them, and the device's cross-trigger. -/
def Sys2Proof.Claims.TraceSteps : Prop :=
  ∀ s : State,
    let c := s.arg.c
    let v := s.arg.v.toNat
    let k := s.core c
    (∃ t : State, exec .traceOff s = .next t ∧ t.core c = { k with trState := 0, trPost := bits v 32 16, trXarm := bit v 2 } ∧ t.mem = s.mem) ∧
    (∃ t : State, exec .traceStart s = .next t ∧ t.core c = { k with trState := 1, trPost := bits v 32 16, trXarm := bit v 2 } ∧ t.mem = s.mem ∧ t.threads = s.threads) ∧
    (∃ t : State, exec .traceStopped s = .next t ∧ t.core c = { k with trState := 3, trPost := bits v 32 16, trXarm := bit v 2 } ∧ t.mem = s.mem) ∧
    (∃ t : State, exec .traceStop s = .next t ∧ t.core c = { k with trState := 2, trPost := bits v 32 16, trXarm := bit v 2, trLeft := bits v 32 16, trigClk := s.dev.clock } ∧ t.mem = s.mem ∧
      (bits v 32 16 = 0 → t.agenda = s.agenda ++ [⟨.tracePostEnd, { c := c }⟩])) ∧
    (k.trState = 1 → k.trXarm = true → ∃ t : State, exec .crossTriggerArrival s = .next t ∧ t.core c = { k with trState := 2, trLeft := k.trPost, trigClk := s.dev.clock } ∧ t.mem = s.mem) ∧
    (k.trState ≠ 1 ∨ k.trXarm = false → exec .crossTriggerArrival s = .next s) ∧
    (k.trState = 2 → k.trLeft = 0 → ∃ t : State, exec .tracePostEnd s = .next t ∧ t.core c = { k with trState := 3 } ∧ t.mem = s.mem) ∧
    (k.trState ≠ 2 ∨ k.trLeft ≠ 0 → exec .tracePostEnd s = .next s) ∧
    (s.dev.xFired = false ∨ bit v 2 = true → ∃ t : State, exec .xtrigPulse s = .next t ∧ t.dev = { s.dev with xBken := bit v 1, xFired := true } ∧ t.cores = s.cores ∧
      t.agenda = s.agenda ++ (s.cores.filter fun p => p.2.trState == 1 && p.2.trXarm).map fun p => ⟨.crossTriggerArrival, { c := p.1 }⟩) ∧
    (s.dev.xFired = true → bit v 2 = false → ∃ t : State, exec .xtrigPulse s = .next t ∧ t.dev = { s.dev with xBken := bit v 1 } ∧ t.agenda = s.agenda) ∧
    (∃ t : State, exec .xtrigFiredClear s = .next t ∧ t.dev = { s.dev with xBken := bit v 1, xFired := false } ∧ t.agenda = s.agenda ∧ t.mem = s.mem)

end

/-! ### Control-space writes and the host's link (R54, R67, R72, R137, R219, R375, R387, R431 to R436) -/

section
open Sys2Proof Sys2Proof.Machine Sys2Proof.Claims

/-- R54, R67, R137, R219, R375, R387: a wake ends `halt`; a barrier register takes a write within its limits, which waits while a thread is parked on it; a store to the control space acts as its row says; the routing bank that INJ names is closed once a port is up,
and the other waits until it holds no packet. -/
def Sys2Proof.Claims.ControlWrites : Prop :=
  ∀ s : State,
    let a := s.arg
    (∃ t : State, exec .wake s = .next t ∧ t.mem = s.mem ∧ (∀ h, h < 256 → (s.thread a.c h).st ≠ .empty → (s.thread a.c h).wait = .halt → (t.thread a.c h).wait = .done 0) ∧
      ∀ c h, h < 256 → c ≠ a.c ∨ (s.thread c h).wait ≠ .halt → t.thread c h = s.thread c h) ∧
    (s.inBar a.c a.x a.n = true → exec .bgWrite s = .next { s with laterSteps := s.laterSteps ++ [⟨.bgWrite, a⟩] }) ∧
    (∀ w, s.inBar a.c a.x a.n = false → a.n < 16 → bgWrite (s.ctx a.c a.x) a.c a.n a.v.toNat = some w →
      exec .bgWrite s = .next (s.modCtx a.c a.x fun k => { k with bg := Table.set a.n (BitVec.ofNat 32 w) k.bg })) ∧
    (s.inBar a.c a.x a.n = false → a.n < 16 → bgWrite (s.ctx a.c a.x) a.c a.n a.v.toNat = none → exec .bgWrite s = .next s) ∧
    (∀ e, a.addr % 8 = 0 → a.bytes.length = 8 → ctlEvent a.addr (BitVec.ofNat 64 (ofBytes a.bytes)) = some e →
      exec .registerWrite s = .next { s with agenda := s.agenda ++ [⟨e.ins, { e.arg with ok := false }⟩] }) ∧
    (∀ o, a.addr = bootKey o → o < 0x1000000 → o % 8 = 0 → a.bytes.length = 8 → ∃ t : State, exec .registerWrite s = .next t ∧ t.mem = memPuts (bootKey o) a.bytes s.mem ∧ t.threads = s.threads) ∧
    (∃ t : State, exec .rtctlInjWrite s = .next t ∧ t.dev = { s.dev with rtInj := bits a.v.toNat 0 1 } ∧ t.mem = s.mem ∧ t.sched = s.sched) ∧
    (a.n / 8192 = s.dev.rtInj → s.dev.portUp ≠ 0 → exec .routingBankWrite s = .next s) ∧
    (a.n / 8192 ≠ s.dev.rtInj → Table.get 0 (a.n / 8192) s.dev.occ ≠ 0 → exec .routingBankWrite s = .next { s with laterSteps := s.laterSteps ++ [⟨.routingBankWrite, a⟩] }) ∧
    (a.m = 1 → (a.n / 8192 = s.dev.rtInj ∧ s.dev.portUp = 0) ∨ (a.n / 8192 ≠ s.dev.rtInj ∧ Table.get 0 (a.n / 8192) s.dev.occ = 0) → ∃ t : State, exec .routingBankWrite s = .next t ∧ t.mem = s.mem ∧
      Table.get 0#16 a.n t.dev.routes = BitVec.ofNat 16 (bits a.v.toNat 0 16 &&& 0x8017) ∧ ∀ n, n ≠ a.n → Table.get 0#16 n t.dev.routes = Table.get 0#16 n s.dev.routes)

/-- R72, R116, R431 to R436: posted writes, reads and AtomicOps of the host reach what their aperture or the FWA registers open, in the order of the link; anything else is refused and logged with its offset. A completion ends the device's own request, and an
error, or 50 ms without one, ends it in a fault. -/
def Sys2Proof.Claims.HostLink : Prop :=
  ∀ s : State,
    let a := s.arg
    let n := a.bytes.length
    (s.postedWaits = true → exec .inboundRead s = .next { s with laterSteps := s.laterSteps ++ [⟨.inboundRead, a⟩] } ∧
      exec .inboundAtomic s = .next { s with laterSteps := s.laterSteps ++ [⟨.inboundAtomic, a⟩] } ∧ (n ≠ 0 → exec .inboundWrite s = .next { s with laterSteps := s.laterSteps ++ [⟨.inboundWrite, a⟩] })) ∧
    (s.postedWaits = false →
      (∀ k, n ≠ 0 → a.m = 2 → s.aperture a.addr n 1 = .keys [(k, n)] → ∃ t : State, exec .inboundWrite s = .next t ∧ t.mem = memPuts k a.bytes s.mem ∧ t.threads = s.threads ∧ t.sched = s.sched) ∧
      (n ≠ 0 → a.m = 2 → s.aperture a.addr n 1 = .refused → ∃ t : State, exec .inboundWrite s = .next t ∧ t = s.flog 0x17 3 0xFFFF 0 (BitVec.ofNat 64 a.addr) ∧ t.mem = s.mem) ∧
      (∀ w, n ≠ 0 → a.m ≠ 2 → barAddr a.m a.addr n = some w → s.hostMay w n 2 = false → ∃ t : State, exec .inboundWrite s = .next t ∧ t.mem = s.mem ∧ t.threads = s.threads ∧ t.dev = s.dev) ∧
      (∀ w e, n = 8 → a.m ≠ 2 → barAddr a.m a.addr n = some w → s.hostMay w n 2 = true → w % 8 = 0 → ctlEvent w (BitVec.ofNat 64 (ofBytes a.bytes)) = some e →
        exec .inboundWrite s = .next { s with agenda := ⟨e.ins, { e.arg with ok := true }⟩ :: s.agenda }) ∧
      (∀ k, a.m = 2 → s.aperture a.addr a.n 0 = .keys [(k, a.n)] → s.eccIn [(k, a.n)] = none → ∃ t : State, exec .inboundRead s = .next t ∧ t.sched.out = s.sched.out ++ [.completion (s.bytes k a.n)] ∧ t.mem = s.mem ∧ t.threads = s.threads) ∧
      (∀ k v, a.m = 2 → s.aperture a.addr a.n 0 = .keys [(k, a.n)] → s.eccIn [(k, a.n)] = some v → ∃ t : State, exec .inboundRead s = .next t ∧ t.sched.out = s.sched.out ++ [.refused] ∧ t.mem = s.mem) ∧
      (∀ w, a.m ≠ 2 → barAddr a.m a.addr a.n = some w → a.n ≠ 0 → s.hostMay w a.n 1 = true → ∃ t : State, exec .inboundRead s = .next t ∧ t.sched.out = s.sched.out ++ [.completion (s.ctlBytes w a.n)] ∧ t.mem = s.mem ∧ t.dev = s.dev) ∧
      (∀ p z, a.m = 2 → a.x = 0 → a.n = 8 → a.addr % 8 = 0 → s.aperture a.addr 8 2 = .keys [(p, z)] → s.eccIn [(p, 8)] = none → ∃ t : State, exec .inboundAtomic s = .next t ∧
        t.mem = memPuts p (toBytes 8 ((s.word p 8 + a.v.toNat) % 2 ^ 64)) s.mem ∧ t.sched.out = s.sched.out ++ [.completion (toBytes 8 (s.word p 8))]) ∧
      (a.m ≠ 2 ∨ a.n ≠ 4 ∧ a.n ≠ 8 → ∃ t : State, exec .inboundAtomic s = .next t ∧ .refused ∈ t.sched.out ∧ t.mem = s.mem)) ∧
    (∀ o, s.opById a.id = some o → isHostKey o.addr.toNat = true → o.at_ = 1 →
      (o.kind = .load → a.ok = true → n = o.n → o.dropped = false → (owner s o).buf = [] → ∃ t : State, exec .hostCompletion s = .next (t.complete o (loadValue o a.bytes)) ∧ t.mem = s.mem ∧ t.ops = s.ops) ∧
      (o.kind = .atomic → a.ok = true → ∃ t : State, exec .hostCompletion s = .next (t.complete o (BitVec.ofNat 64 (ofBytes (a.bytes.take o.n)))) ∧ t.mem = s.mem ∧ t.ops = s.ops) ∧
      (o.kind = .atomic → a.ok = false → exec .hostCompletion s = .next (s.failOp o 0x1D o.addr)) ∧
      (o.kind = .load → a.ok = false → exec .hostCompletion s = .next (s.failOp o 0x17 o.addr)) ∧
      (o.kind ≠ .atomic → exec .hostReadTimeout s = .next (s.failOp o 0x17 o.addr)) ∧
      (o.kind = .atomic → exec .hostReadTimeout s = .next s))

end

/-! ### Boot, approach mode, heat and the fabric's links (R12, R62, R72, R387 to R391, R414, R429, R437, R438, R441, R444, R445, R447) -/

section
open Sys2Proof Sys2Proof.Machine Sys2Proof.Claims

/-- R372, R388 to R391, R441, R444, R445, R447: a reset leaves what State.reset says; the boot checks run once and end in state 2 or 3; a table that is refused leaves code 4; calibration waits for launches to end, and approach mode ends when all its conditions hold;
heat gates a die between its limits, and above the last of them every launch is cancelled and the module holds itself in reset. -/
def Sys2Proof.Claims.DeviceSteps : Prop :=
  ∀ s : State,
    let a := s.arg
    let d := s.dev
    let die := Table.get ({} : Die) (a.n % 4) d.dies
    (∃ t : State, exec .deviceReset s = .next t ∧ t = { State.reset with agenda := s.agenda, draw := s.draw }) ∧
    (d.bootState = 0 → ∃ t : State, exec .bootgo s = .next t ∧ t.dev = { d with bootState := 1 } ∧ t.mem = s.mem ∧ t.threads = s.threads) ∧
    (d.bootState ≠ 0 → exec .bootgo s = .next s) ∧
    (d.bootState ≠ 1 → exec .bootChecksDone s = .next s) ∧
    (d.bootState = 1 → 1 ≤ a.m → a.m ≤ 3 → ∃ t : State, exec .bootChecksDone s = .next t ∧ t.dev = { d with bootState := 3, bootCode := a.m } ∧ t.mem = s.mem) ∧
    (d.bootState = 1 → a.m = 0 → ∃ t : State, exec .bootChecksDone s = .next t ∧ t.mem = s.mem ∧ t.threads = s.threads ∧ t.dev.bootState = 2 ∧ (∀ i, i < 8 → bit (Table.get 0#64 i t.dev.fwa).toNat 7 = true) ∧
      (a.ok = false ∨ tableFormOk a.bytes = false ∨ entriesOk (tableOf a.bytes) = false → t.dev.bootCode = 4 ∧ t.dev.cfgok = d.cfgok ∧ t.dev.roles = d.roles ∧ t.dev.fww = d.fww ∧ t.dev.repair = d.repair) ∧
      (a.ok = true → tableFormOk a.bytes = true → entriesOk (tableOf a.bytes) = true → t.dev.cfgok = true ∧ t.dev.fww = (tableOf a.bytes).fww ∧ t.dev.bootCode = d.bootCode ∧
        t.dev.roles = (tableOf a.bytes).roles.map fun r => (32 * r.1 + r.2.1, r.2.2.1, r.2.2.2))) ∧
    ((s.ctxs.any fun p => p.2.placed) = true → exec .calibrationDone s = .next { s with laterSteps := s.laterSteps ++ [⟨.calibrationDone, a⟩] }) ∧
    ((s.ctxs.any fun p => p.2.placed) = false → ∃ t : State, exec .calibrationDone s = .next t ∧ t.dev = (if a.x = 0 then { d with call6 := true } else { d with caln := true }) ∧ t.mem = s.mem) ∧
    (d.active = true → d.cfgok = true → d.call6 = true → d.caln = true → (∀ p ∈ s.ctxs, p.2.placed = false) → ∃ t : State, exec .approachExit s = .next t ∧ t.dev.active = false ∧ t.mem = s.mem ∧ t.threads = s.threads) ∧
    (d.cfgok = false ∨ d.call6 = false ∨ d.caln = false ∨ (∃ p ∈ s.ctxs, p.2.placed = true) → exec .approachExit s = .next s) ∧
    (die.gated = false → ∃ t : State, exec .thermalGatingBegin s = .next t ∧ (Table.get ({} : Die) (a.n % 4) t.dev.dies).gated = true ∧ t.mem = s.mem) ∧
    (die.gated = true → exec .thermalGatingBegin s = .next s) ∧
    (die.gated = true → ∃ t : State, exec .thermalGatingEnd s = .next t ∧ (Table.get ({} : Die) (a.n % 4) t.dev.dies).gated = false ∧ t.mem = s.mem) ∧
    (die.gated = false → exec .thermalGatingEnd s = .next s) ∧
    (d.thermHold = false → s.sched.launches = [] → ∃ t : State, exec .thermalResetHold s = .next t ∧ t.dev.thermHold = true ∧ t.mem = s.mem) ∧
    (d.thermHold = true → exec .thermalResetHold s = .next s)

/-- R387, R414, R429, R437, R438, R440, R444: a port trains outside approach mode and goes down; the oldest packet in the router leaves by its bank's entry with the virtual-channel bit of the link, is delivered as the step of its type, or is discarded, which wakes the fabric manager's core; a lost device is declared once. -/
def Sys2Proof.Claims.FabricSteps : Prop :=
  ∀ s : State,
    let a := s.arg
    (a.n < 6 → s.dev.active = false → s.dev.portUp < 64 → ∃ t : State, exec .portTrained s = .next t ∧ bit t.dev.portUp a.n = true ∧ (∀ i, i ≠ a.n → bit t.dev.portUp i = bit s.dev.portUp i) ∧ t.mem = s.mem ∧ t.sched = s.sched) ∧
    (s.dev.active = true → exec .portTrained s = .next s) ∧
    (a.n < 6 → s.dev.portUp < 64 → ∃ t : State, exec .portDown s = .next t ∧ bit t.dev.portUp a.n = false ∧ (∀ i, i ≠ a.n → bit t.dev.portUp i = bit s.dev.portUp i) ∧ t.mem = s.mem ∧ t.sched = s.sched) ∧
    exec .flitCrcFailure s = .next s ∧
    (s.dev.active = true → exec .routerForward s = .next s) ∧
    (s.dev.active = false → a.ok = true → a.w ≠ 0 → exec .routerForward s = .next (s.deliveredTo (a.m % 2 ^ 15) a.x)) ∧
    (s.dev.active = false → a.ok = true → a.w = 0 → ∃ t : State, exec .routerForward s = .next t ∧ t.sched.fabric = s.sched.fabric ++ [{ dst := a.m % 2 ^ 15, src := a.c % 2 ^ 15, cls := a.x, ty := a.h, tag := a.id, bank := a.n % 2, vc := a.v.toNat % 2, inp := a.addr % 8, body := a.bytes }] ∧ Table.get 0 (a.n % 2) t.dev.occ = Table.get 0 (a.n % 2) s.dev.occ + 1 ∧ t.mem = s.mem) ∧
    (∀ p l, s.dev.active = false → a.ok = false → s.sched.fabric = p :: l →
      let e := s.route p.bank p.dst
      (bit e 15 = true → p.dst < 8192 → bits e 0 3 < 6 → ∃ t : State, exec .routerForward s = .next t ∧ t.sched.fabric = l ∧
        t.sched.sent = s.sched.sent ++ [(bits e 0 3, { p with vc := if bit e 4 then 1 else if p.inp < 6 ∧ p.inp / 2 = bits e 0 3 / 2 then p.vc else 0 })] ∧ Table.get 0 p.bank t.dev.occ = Table.get 0 p.bank s.dev.occ - 1 ∧ t.agenda = s.agenda ∧ t.mem = s.mem ∧ t.threads = s.threads) ∧
      (bit e 15 = true → p.dst < 8192 → bits e 0 3 = 6 → p.ty = 1 → p.cls = 0 → ∃ t : State, exec .routerForward s = .next t ∧ t.sched.fabric = l ∧
        t.agenda = s.agenda ++ [⟨.evhStore, { c := p.src, id := p.tag, n := p.tag, addr := a.addr, bytes := p.body }⟩]) ∧
      (bit e 15 = false ∨ 8192 ≤ p.dst → p.src ≠ s.dev.devno → ∃ t : State, exec .routerForward s = .next t ∧ t.sched.fabric = l ∧ t.agenda = s.agenda ∧ t.mem = s.mem)) ∧
    (a.n = s.dev.devno ∨ a.n ∈ s.sched.lostDevs → exec .deviceLost s = .next s) ∧
    (a.n ≠ s.dev.devno → a.n ∉ s.sched.lostDevs → s.ropes = [] → s.ops = [] → s.cores = [] → s.sched.abroad = [] → s.dev.routes = [] → ∃ t : State, exec .deviceLost s = .next t ∧ a.n ∈ t.sched.lostDevs ∧ t.mem = s.mem ∧
      ∀ c h i, (s.thread c h).st ≠ .empty → (s.thread c h).wait = .reply i a.n → (t.thread c h).wait = .got [0x17]) ∧
    (a.n % 2 ^ 15 = s.dev.devno ∨ a.n % 2 ^ 15 ∈ s.sched.lostDevs → exec .evhLossNotice s = .next s) ∧
    (a.n % 2 ^ 15 ≠ s.dev.devno → a.n % 2 ^ 15 ∉ s.sched.lostDevs → s.ropes = [] → s.ops = [] → s.cores = [] → s.sched.abroad = [] → ∃ t : State, exec .evhLossNotice s = .next t ∧ a.n % 2 ^ 15 ∈ t.sched.lostDevs ∧ t.mem = s.mem)

end

/-! ### Packets that arrive from other devices (R37, R86, R104, R105, R134, R137, R244, R246, R255 to R259, R269, R327, R332, R345, R438, R439) -/

namespace Sys2Proof.Claims

open Sys2Proof.Machine

/-- A packet of class 1 leaves for the device that the one received came from, or waits while the other routing bank serves that device (R137, R438). -/
def replied (s t : State) (tag ty : Nat) (body : List Byte) : Prop :=
  let p : Packet := { dst := s.arg.c, src := s.dev.devno, cls := 1, ty := ty, tag := tag, bank := s.dev.rtInj, body := body }
  if (s.sched.sentTo.any fun x => x.1 == s.arg.c && x.2.1 != s.dev.rtInj) || s.sched.heldBack.any fun q => q.dst == s.arg.c then t.sched.heldBack = s.sched.heldBack ++ [p] ∧ t.sched.fabric = s.sched.fabric
  else t.sched.fabric = s.sched.fabric ++ [p] ∧ t.sched.heldBack = s.sched.heldBack

/-- The packet received is acknowledged with the words of an answer. -/
def acks (s t : State) (ws : List Word) : Prop := replied s t s.arg.id 11 (ws.flatMap fun w => toBytes 8 w.toNat)

/-- The step is put off, with what was brought to it. -/
def putOff (s t : State) (i : Instr) : Prop := t = { s with laterSteps := s.laterSteps ++ [⟨i, s.arg⟩] }

end Sys2Proof.Claims

section
open Sys2Proof Sys2Proof.Machine Sys2Proof.Claims

/-- R86, R104, R137, R327, R438: a store or a read of another device reaches the bytes that a context of its job may reach, after what its device sent before; anything else is answered with 1, and a read of an uncorrectable word with its cause.
Data and acknowledgements end the command or operation that waits for them. A region's token leaves while it is here, and comes back with the region. -/
def Obligations.EvhornAccesses : Prop :=
  ∀ s : State,
    let a := s.arg
    let addr := s.argN 0 8
    let n := s.argN 20 4
    let job := s.argN 24 2
    let copy := s.argN 28 1 == 1
    let kind := s.argN 0 4
    let w := BitVec.ofNat 64 (s.argN 0 8)
    let r := s.argN 8 8
    let home := r * regionBytes / 2 ^ 40 % 2 ^ 15
    ((s.laterSteps.any fun e => e.arg.c == a.c && isTransfer e.ins) = true → (∃ t : State, exec .evhStore s = .next t ∧ putOff s t .evhStore) ∧ ∃ t : State, exec .evhGetRequest s = .next t ∧ putOff s t .evhGetRequest) ∧
    (s.sourceWaits isTransfer = false →
      (s.jobReach job r (s.argN 16 4) 1 copy = none → ∃ t : State, exec .evhStore s = .next t ∧ acks s t [1] ∧ t.mem = s.mem ∧ t.threads = s.threads) ∧
      (∀ x k key, s.jobReach job r (s.argN 16 4) 1 copy = some (x, k) → n ≠ 0 → s.reachKeys k.l addr n = .keys [(key, n)] → spOf key = none → ∃ t : State, exec .evhStore s = .next t ∧ acks s t [0] ∧ t.threads = s.threads ∧
        t.mem = memPuts (s.fwd key) (padTo n (a.bytes.drop 29)) s.mem) ∧
      (∀ x k d o, s.jobReach job r (s.argN 16 4) 1 copy = some (x, k) → n ≠ 0 → o < 0x100000 → d < 512 → s.reachKeys k.l addr n = .keys [(spKey d o, n)] → (s.core d).src = [] → s.farLock d o n true = false → ∃ t : State,
        exec .evhStore s = .next t ∧ acks s t [0] ∧ t.threads = s.threads ∧ t.mem = memPuts (spKey d o) (padTo n (a.bytes.drop 29)) s.mem) ∧
      (∀ x k, s.jobReach job r (s.argN 16 4) 1 copy = some (x, k) → n = 0 → ∃ t : State, exec .evhStore s = .next t ∧ acks s t [0] ∧ t.mem = s.mem) ∧
      (s.jobReach job r (s.argN 16 4) 0 copy = none → ∃ t : State, exec .evhGetRequest s = .next t ∧ replied s t a.id 3 (toBytes 8 1) ∧ t.mem = s.mem ∧ t.threads = s.threads) ∧
      (∀ x k ks, s.jobReach job r (s.argN 16 4) 0 copy = some (x, k) → s.reachKeys k.l addr n = .keys ks → s.spotWaits ks false = false → ∃ t : State, exec .evhGetRequest s = .next t ∧ t.mem = s.mem ∧ t.threads = s.threads ∧
        replied s t a.id 3 (if (s.eccIn ks).isSome then toBytes 8 0x30 else toBytes 8 0 ++ ks.flatMap fun p => s.bytes p.1 p.2))) ∧
    (∀ m, s.cmdWaiting a.id = some m → s.cmd m.core m.id = some m → (w = 0 → ∃ t : State, exec .evhGetData s = .next t ∧ t.mem = s.mem ∧ t.threads = s.threads ∧
        t.cmd m.core m.id = some { m with waiting := 0, data := m.data ++ a.bytes.drop 8 }) ∧
      (w = 1 → isTransferCmd m = true → ∃ t : State, exec .evhGetData s = .next t ∧ t.mem = s.mem ∧ t.threads = s.threads ∧ t.cmd m.core m.id = some { m with waiting := 0, args := m.args.set 6 1 }) ∧
      (w = 0x30 → m.cancelled = false → ∃ (t : State) (z : Cause), exec .evhGetData s = .next t ∧ t.mem = s.mem ∧ endedCmd t m ∧ z.code = 0x30 ∧ z.pc = m.pc ∧ (t.thread m.core m.slot).due = (s.thread m.core m.slot).due ++ [z])) ∧
    (s.cmdWaiting a.id = none → ∃ t : State, exec .evhGetData s = .next t ∧ t.mem = s.mem ∧ t.threads = s.threads ∧ t.cores = s.cores) ∧
    (a.id = 0 → ∃ t : State, exec .evhAcknowledgement s = .next t ∧ t.mem = s.mem ∧ t.threads = s.threads ∧ t.ops = s.ops) ∧
    (∀ o, a.id ≠ 0 → a.bytes.length = 8 → s.opById a.id = some o → (∀ k ∈ [.pre, .home, .load, .vload, .atomic], o.kind ≠ k) → exec .evhAcknowledgement s = .next ((s.answeredFrom a.c).complete o w)) ∧
    (∀ o, a.id ≠ 0 → a.bytes.length = 8 → s.opById a.id = some o → o.kind = .pre → ∃ t : State, exec .evhAcknowledgement s = .next (t.complete o w) ∧ t.mem = s.mem ∧ (∀ l ∈ (t.core o.core).locks, l.cmd ≠ o.id) ∧
      ((s.thread o.core o.slot).st ≠ .empty → (t.thread o.core o.slot).arriving = false)) ∧
    (∀ c h, a.id ≠ 0 → a.bytes.length = 8 → s.opById a.id = none → s.cores = [] → s.replyWaiter a.id = some (c, h) → ∃ t : State, exec .evhAcknowledgement s = .next t ∧ (t.thread c h).wait = .got [w] ∧ t.mem = s.mem) ∧
    (kind = 2 → exec .evhToken s = .next (s.returnToken r)) ∧
    (kind = 0 → a.ok = false → home ≠ s.dev.devno → ∃ t : State, exec .evhToken s = .next t ∧ replied s t 0 11 [] ∧ t.mem = s.mem ∧ t.sched.tokens = s.sched.tokens) ∧
    (kind = 0 → a.ok = true → home = s.dev.devno → (s.tokenOf (r * regionBytes)).isSome = true ∨ s.tokenWay r = none ∨ s.regionQuiet r = false → ∃ t : State, exec .evhToken s = .next t ∧ putOff s t .evhToken) ∧
    (∀ y, kind = 0 → a.ok = true → home = s.dev.devno → s.tokenOf (r * regionBytes) = none → s.tokenWay r = some y → s.regionQuiet r = true → ∃ (t : State) (p : Packet), exec .evhToken s = .next t ∧ t.mem = s.mem ∧ t.threads = s.threads ∧
      t.sched.tokens = s.sched.tokens ++ [⟨false, true, 0, a.c, r, 0, 0, y, s.nextOp⟩] ∧ (p ∈ t.sched.fabric ∨ p ∈ t.sched.heldBack) ∧ p.dst = a.c ∧ p.cls = 0 ∧ p.ty = 13 ∧ p.tag = s.nextOp ∧ p.body.drop 24 = s.regionData r) ∧
    (∀ y, kind ≠ 0 → kind ≠ 2 → home ≠ s.dev.devno → s.tokenOf (r * regionBytes) = none → s.tokenWay r = some y → ∃ t : State, exec .evhToken s = .next t ∧ t.mem = s.mem ∧ t.threads = s.threads ∧
      t.sched.tokens = s.sched.tokens ++ [⟨true, true, (s.tokenFor kind (s.argN 4 4) r).getD 0, a.c, r, a.addr / regionBytes * regionBytes, s.argN 16 8 % 8, y, 0⟩] ∧ t.laterSteps = s.laterSteps ++ [⟨.evhToken, { a with ok := true }⟩]) ∧
    (∀ k, kind ≠ 0 → kind ≠ 2 → a.ok = true → home ≠ s.dev.devno → s.tokenOf (r * regionBytes) = some k → (s.tokenFor kind (s.argN 4 4) r).isSome = true → ∃ t : State, exec .evhToken s = .next t ∧ acks s t [0] ∧ t.threads = s.threads ∧
      t.mem = memPuts k.lcopy (padTo regionBytes (a.bytes.drop 24)) s.mem ∧ t.sched.tokens = s.sched.tokens.map fun j => if j.region = r then { j with busy := false } else j) ∧
    (∀ k, kind ≠ 0 → kind ≠ 2 → a.ok = true → home = s.dev.devno → s.tokenOf (r * regionBytes) = some k → ∃ t : State, exec .evhToken s = .next t ∧ acks s t [0] ∧ t.threads = s.threads ∧
      t.sched.tokens = s.sched.tokens.filter fun j => j.region != r)

/-- R37, R105, R134, R244, R246, R255 to R259, R269, R332, R345, R346, R439: messages, spawns, keyed pairs, contributions to ropes and threads of other devices are taken as those of this device are, and each is answered to the device that sent it. -/
def Obligations.EvhornRequests : Prop :=
  ∀ s : State,
    let a := s.arg
    let code := s.argN 0 8
    let thid := (s.argW 0).toNat
    let w1 := (s.argW 1).toNat
    let n := bits w1 0 10
    let i := bits w1 16 12
    let rp := s.argN 0 8 % 65536
    let mi := s.argN 0 8 / 65536
    let e := Table.get {} mi (s.rope rp).mem
    (code = 0 → s.sourceWaits isMessage = true → ∃ t : State, exec .evhMessage s = .next t ∧ putOff s t .evhMessage) ∧
    (∀ d j b, code = 0 → s.sourceWaits isMessage = false → a.ok = false → j < 256 → (s.threads.find? fun p => decide (p.2.st ≠ .empty) && thidOf p.2 == thid) = some (256 * d + j, b) → b.leave = .no →
      (shareOk (s.core d).share b.x w1 6 = false → ∃ t : State, exec .evhMessage s = .next t ∧ acks s t [BitVec.ofNat 64 (2 ^ 63 + 5)] ∧ t.mem = s.mem ∧ t.ctxs = s.ctxs) ∧
      (shareOk (s.core d).share b.x w1 6 = true → (s.ctx d b.x).away = false → (s.lease (s.ctx d b.x).l).area = [] → (Table.get [] w1 (s.ctx d b.x).q).length < 16 →
        ((s.core d).inbox.filter fun m => m.x == b.x && m.q == w1) = [] → ∃ t : State, exec .evhMessage s = .next t ∧ acks s t [0] ∧ t.mem = s.mem ∧ t.threads = s.threads ∧
          Table.get [] w1 (t.ctx d b.x).q = Table.get [] w1 (s.ctx d b.x).q ++ [.word (s.argW 2)])) ∧
    (code = 1 → (∀ t ∈ s.allThreads ++ s.sched.abroad.map Prod.snd ++ s.savedThreads, thidOf t ≠ thid) → ∃ t : State, exec .evhMessage s = .next t ∧ acks s t [0] ∧ t.mem = s.mem ∧ t.sched.joiners = s.sched.joiners) ∧
    (∀ b, code = 1 → (s.allThreads ++ s.sched.abroad.map Prod.snd ++ s.savedThreads).find? (fun t => thidOf t == thid) = some b → ∃ t : State, exec .evhMessage s = .next t ∧
      t.sched.joiners = s.sched.joiners ++ [(a.c, a.id, thid, b.uid)] ∧ t.sched.fabric = s.sched.fabric ∧ t.mem = s.mem) ∧
    (3 ≤ code → code ≤ 5 → s.ropeOfJob n thid = false → ∃ t : State, exec .evhMessage s = .next t ∧ acks s t [0x17] ∧ t.mem = s.mem ∧ t.ropes = s.ropes) ∧
    (code = 3 → s.ropeOfJob n thid = true → joinable (s.rope n) i = true → ∃ t : State, exec .evhMessage s = .next t ∧ acks s t [0, BitVec.ofNat 64 (s.rope n).len] ∧ t.mem = s.mem ∧
      (t.rope n).joined = (s.rope n).joined + 1 ∧ (Table.get {} i (t.rope n).mem).j = true ∧ (Table.get {} i (t.rope n).mem).thid = (s.argW 3).toNat) ∧
    (code = 3 → s.ropeOfJob n thid = true → joinable (s.rope n) i = false → ∃ t : State, exec .evhMessage s = .next t ∧ acks s t [0x12] ∧ t.mem = s.mem ∧ t.ropes = s.ropes) ∧
    (code = 4 → s.ropeOfJob n thid = true → (s.rope n).st = 0 ∨ (s.rope n).st = 4 → ∃ t : State, exec .evhMessage s = .next t ∧ acks s t [0] ∧ t.mem = s.mem ∧ t.ropes = s.ropes) ∧
    (code = 4 → s.ropeOfJob n thid = true → (s.rope n).st ≠ 0 → (s.rope n).st ≠ 4 → ∃ t : State, exec .evhMessage s = .next t ∧ (t.rope n).away = (s.rope n).away ++ [(a.c, a.id)] ∧ t.sched.fabric = s.sched.fabric ∧ t.mem = s.mem) ∧
    (code = 5 → s.ropeOfJob n thid = true → ∃ t : State, exec .evhMessage s = .next t ∧
      acks s t [0, BitVec.ofNat 64 (s.ropeReg n 1), BitVec.ofNat 64 (s.ropeReg n 3), BitVec.ofNat 64 (s.ropeReg n 4)] ∧ t.mem = s.mem ∧ t.ropes = s.ropes) ∧
    (code = 24 → s.ropeOfJob n thid = true → ∃ t : State, exec .evhMessage s = .next t ∧
      acks s t [0, BitVec.ofNat 64 (b2n (Table.get {} i (s.rope n).mem).cnt), BitVec.ofNat 64 (b2n (Table.get {} i (s.rope n).mem).j)] ∧ t.mem = s.mem ∧ t.ropes = s.ropes) ∧
    (∀ u, code = 13 → s.sched.abroad.find? (fun p => p.1 == thid) = some (thid, u) → ∃ t : State, exec .evhMessage s = .next t ∧ acks s t (0 :: snapWords u.snap) ∧ t.mem = s.mem ∧ t.threads = s.threads) ∧
    (code = 9 → s.sched.launches = [] → ∃ t : State, exec .evhMessage s = .next t ∧ replied s t 0 11 [] ∧ t.mem = s.mem ∧ t.threads = s.threads ∧ ∀ p ∈ t.sched.abroad, p.1 = thid → p.2.leave = .migrate w1 0) ∧
    (a.c ≠ s.dev.devno → ∀ x c, x = (if s.argN 47 1 = 7 then 1 else 0) → c = bits (s.argN 40 4) 0 9 →
      (((s.ctx c x).placed = false ∨ (s.ctx c x).job ≠ s.argN 44 2) → ((s.ctx c (1 - x)).placed = false ∨ (s.ctx c (1 - x)).job ≠ s.argN 44 2) → s.sched.launches = [] →
        ∃ t : State, exec .evhSpawn s = .next t ∧ replied s t a.id 6 (toBytes 8 (2 ^ 63 + 4)) ∧ t.mem = s.mem ∧ t.threads = s.threads) ∧
      ((s.ctx c x).placed = true → (s.ctx c x).job = s.argN 44 2 → (s.hctx (s.ctx c x).host).barred = true →
        ∃ t : State, exec .evhSpawn s = .next t ∧ replied s t a.id 6 (toBytes 8 (2 ^ 63 + 2)) ∧ t.mem = s.mem ∧ t.threads = s.threads) ∧
      ((s.ctx c x).placed = true → (s.ctx c x).job = s.argN 44 2 → (s.hctx (s.ctx c x).host).barred = false → (s.ctx c x).away = false → bit (s.argN 40 4) 27 = false → s.freeSlot c x = none →
        ∃ t : State, exec .evhSpawn s = .next t ∧ replied s t a.id 6 (toBytes 8 (2 ^ 63 + 1)) ∧ t.mem = s.mem ∧ t.threads = s.threads) ∧
      (∀ h, (s.ctx c x).placed = true → (s.ctx c x).job = s.argN 44 2 → (s.hctx (s.ctx c x).host).barred = false → (s.ctx c x).away = false → bit (s.argN 40 4) 27 = false → s.freeSlot c x = some h →
        ∃ t : State, exec .evhSpawn s = .next t ∧ replied s t a.id 6 (toBytes 8 (BitVec.ofNat 64 (thidOf (t.thread c h))).toNat) ∧ t.mem = s.mem ∧ (t.thread c h).pc = BitVec.ofNat 64 (s.argN 0 8) ∧
          (t.thread c h).hcore = c ∧ (t.thread c h).hslot = h)) ∧
    (∀ o, s.opById a.id = some o → exec .evhSpawnReply s = .next ((s.answeredFrom a.c).complete o (BitVec.ofNat 64 (s.argN 0 8)))) ∧
    (s.opById a.id = none → ∃ t : State, exec .evhSpawnReply s = .next t ∧ t.mem = s.mem ∧ t.threads = s.threads ∧ t.ops = s.ops) ∧
    (s.sourceWaits isKeyed = true → ∃ t : State, exec .evhKeyedPairs s = .next t ∧ putOff s t .evhKeyedPairs) ∧
    (s.sourceWaits isKeyed = false → ∀ c x, c = s.argN 0 8 → x = s.argN 12 4 →
      ((s.ctx c x).placed = false ∨ (s.ctx c x).job ≠ s.argN 8 2 → s.sched.launches = [] → ∃ t : State, exec .evhKeyedPairs s = .next t ∧ acks s t [0] ∧ t.mem = s.mem ∧ t.ctxs = s.ctxs) ∧
      ((s.ctx c x).placed = true → (s.ctx c x).job = s.argN 8 2 → (s.ctx c x).away = false → a.bytes.length = 24 → (s.ctx c x).bins.slot (BitVec.ofNat 32 (s.argN 16 4)) = none →
        ∃ t : State, exec .evhKeyedPairs s = .next t ∧ acks s t [0] ∧ t.mem = s.mem ∧ (t.ctx c x).bins.rdrop = (s.ctx c x).bins.rdrop + 1) ∧
      (∀ o, (s.ctx c x).placed = true → (s.ctx c x).job = s.argN 8 2 → (s.ctx c x).away = false → a.bytes.length = 24 → (s.ctx c x).bins.slot (BitVec.ofNat 32 (s.argN 16 4)) = some o → (s.core c).src = [] → (s.core c).locks = [] →
        o < 0x100000 → c < 512 → ∃ t : State, exec .evhKeyedPairs s = .next t ∧ acks s t [0] ∧ (t.ctx c x).bins.applied = (s.ctx c x).bins.applied + 1 ∧
          t.mem = memPuts (spKey c o) (toBytes 4 (binOp (s.ctx c x).bins.op (s.word (spKey c o) 4) (BitVec.ofNat 32 (s.argN 20 4)).toNat)) s.mem)) ∧
    (e.cnt = true → ∃ t : State, exec .evhRopeArrival s = .next t ∧ acks s t [0] ∧ t.mem = s.mem ∧ t.ropes = s.ropes) ∧
    (e.cnt = false → (s.rope rp).st = 0 ∨ e.j = false → ∃ t : State, exec .evhRopeArrival s = .next t ∧ acks s t [0, 0x12] ∧ t.mem = s.mem ∧ t.ropes = s.ropes) ∧
    (e.cnt = false → e.j = true → 3 ≤ (s.rope rp).st → ∃ t : State, exec .evhRopeArrival s = .next t ∧ acks s t [1] ∧ t.mem = s.mem ∧ (t.rope rp).late = min 255 ((s.rope rp).late + 1)) ∧
    (e.cnt = false → (s.rope rp).st = 1 ∨ (s.rope rp).st = 2 → e.j = true → ∃ t : State, exec .evhRopeArrival s = .next t ∧ t.mem = s.mem ∧ t.sched.fabric = s.sched.fabric ∧ (t.rope rp).st = 2 ∧
      (t.rope rp).pend = (s.rope rp).pend ++ [{ m := mi, dev := a.c, op := a.id, bytes := padTo (64 * (s.rope rp).len) (a.bytes.drop 8) }]) ∧
    (∀ c h, s.replyWaiter a.id = some (c, h) → ∃ t : State, exec .evhRopeRelease s = .next t ∧ (t.thread c h).wait = .got [0] ∧ t.mem = s.mem ∧ othersStand s t c h) ∧
    (s.replyWaiter a.id = none → ∃ t : State, exec .evhRopeRelease s = .next t ∧ t.mem = s.mem ∧ t.threads = s.threads) ∧
    (∀ c h, s.find a.id = some (c, h) → ∃ t : State, exec .evhKillNotice s = .next t ∧ t.mem = s.mem ∧ (t.thread c h).kill = some ⟨BitVec.ofNat 64 (s.argN 0 8), s.argN 8 8 == 1⟩ ∧ othersStand s t c h) ∧
    (s.find a.id = none → ∃ t : State, exec .evhKillNotice s = .next t ∧ t.mem = s.mem ∧ t.threads = s.threads) ∧
    (∀ d x, d = s.argN 0 4 / 2 ^ 17 → x = s.argN 18 1 % 2 → d ≠ s.dev.devno → s.sched.doomed = [] →
      ((∀ c, (s.ctx c x).placed = false) → ∃ t : State, exec .evhThread s = .next t ∧ t.mem = s.mem ∧ t.threads = s.threads ∧ ⟨.evhThread, { a with ok := true }⟩ ∈ t.laterSteps) ∧
      (∀ c h, c = s.argN 16 2 % 512 → (s.ctx c x).placed = true → (s.ctx c x).away = false → (s.ctx c x).host = s.argN 6 2 → (s.ctx c x).launch = s.argN 8 8 → s.freeSlot c x = some h → ∃ t : State, exec .evhThread s = .next t ∧
        (t.thread c h).st = .arriving ∧ (t.thread c h).pc = BitVec.ofNat 64 (bits (s.argN 48 8) 0 56) ∧ (t.thread c h).hdev = d ∧ (t.thread c h).x = x ∧ (t.thread c h).owner = s.argN 8 8 ∧ othersStand s t c h))

end

/-! ### Reset, operands, bundles, steps, words (R6, R26 to R32, R39, R43, R161 to R173, R187, R188, R338) -/

namespace Sys2Proof.Claims

open Sys2Proof.Machine

/-- A bundle that met a wait or a trap: its thread parks, or takes the exception; in a pair the slot records it for the bundle to decide (R8, R164). -/
def halted (s t : State) : Prop :=
  (∃ n, t = s.parkCur n) ∨ (∃ z, t = s.takeException s.latch.core s.latch.slot z) ∨ ∃ r, r ≠ .ok ∧ t = { s with latch := { s.latch with res := r } }

/-- What no instruction that only writes a register touches: memory, every other thread, and every other piece of the machine. -/
def elsewhere (s t : State) : Prop :=
  t.mem = s.mem ∧ t.full = s.full ∧ t.poison = s.poison ∧ t.cores = s.cores ∧ t.ctxs = s.ctxs ∧ t.clusters = s.clusters ∧ t.ropes = s.ropes ∧ t.dev = s.dev ∧ t.sched = s.sched ∧
    ∀ c h, 256 * c + h ≠ 256 * s.latch.core + s.latch.slot → t.thread c h = s.thread c h

/-- A register field that names no queue register and no port. -/
def plain (r : BitVec 6) : Prop := r.toNat < 24 ∨ 36 ≤ r.toNat

/-- What the bundle at the PC of slot `h` of core `c` comes to, where its words decode, once a task that was left to open has opened and the line of the text fills the
instruction cache (R95, R161 to R171, R365). -/
def bundleRun (u : State) (c h : Nat) (o : Host.Outcome State Fault Refusal) : Prop :=
  let t := (u.opened c h).thread c h
  let k := (u.opened c h).ctx c t.x
  let s := (u.opened c h).textFill c k.l t.pc
  (∃ w i, s.frame c k.l k.ver t.pc = .lone w ∧ decodeIn k.ver w = some i ∧ o = exec i { s with latch := { core := c, slot := h, len := 4, word := w } }) ∨
  (∃ p q v i, s.frame c k.l k.ver t.pc = .vec p v ∧ decodePfx p = some q ∧ decodeIn k.ver v = some i ∧ pfxFits q i = true ∧
    o = exec i { s with latch := { core := c, slot := h, len := 8, word := v, pfx := some q } }) ∨
  (∃ w v ci ai, s.frame c k.l k.ver t.pc = .pair w v ∧ decodeIn k.ver w = some ci ∧ decodeIn k.ver v = some ai ∧
    o = ({ s with latch := { core := c, slot := h, len := 8, word := w } } : State).runPair ci ai w v (guardOf (v.extractLsb' 0 24)))

/-- Nothing is due at the thread's boundary, and nothing holds its bundle back. -/
def atBundle (s : State) (c h : Nat) : Prop :=
  s.boundary c h = none ∧ (s.thread c h).restart = false ∧ (s.thread c h).trapDue = none ∧ (s.thread c h).wait ≠ .stuck ∧ ((s.opsOf c h).any fun o => o.kind == .fe) = false ∧
    ((s.opsOf c h).any fun o => o.kind == .home && o.aop != 4 && o.aop != 5) = false ∧ (s.thread c h).winAt = [] ∧ ((s.thread c h).opening = false ∨ (s.ctx c (s.thread c h).x).drain = false)

/-- The core and the thread that issue next in this s-cycle (R338). -/
def nextIssue (s : State) : Option (Nat × Nat × Thread) := (s.liveCores s.turn).findSome? fun c => (s.choose c).map fun p => (c, p)

end Sys2Proof.Claims

section
open Sys2Proof Sys2Proof.Machine Sys2Proof.Claims

/-- What the spec's tables give for reset (R26, R39, R43, R58 to R74, R341 to R348, R351 to R372, R387 to R396, R432 to R447): every slot is EMPTY with a result queue of valid zeros, p0 alone at 1, no call depth and the stated generator seed; every context, queue,
semaphore and watchdog is empty; CAIRN is all ones, AGEQ 1,024, the energy budget 2,600, GLIM 16; no device register is open; approach mode is on. Memory lists nothing, which is the canonical form (log 1 says what it then reads as). -/
def Obligations.ResetState : Prop :=
  State.reset.MemOk ∧ State.reset.mem = [] ∧ State.reset.full = [] ∧ State.reset.ops = [] ∧ State.reset.frontier = [] ∧
  (∀ c h, let t := State.reset.thread c h
    t.st = .empty ∧ (∀ i, t.t.getD i (.val 0) = .val 0) ∧ t.pred = 1 ∧ t.depth = 0 ∧ t.win = [] ∧ t.sc = 0 ∧ t.oc = 0 ∧ (∀ i, Table.get 0 i t.sb = 0 ∧ Table.get 0 i t.ts = 0) ∧ t.tvec = 0 ∧ t.intrap = false ∧ t.task = true ∧
      t.fpc = 0 ∧ t.tseq = 0 ∧ t.mem = none ∧ t.vcnt = 0) ∧
  (∀ c x, let k := State.reset.ctx c x
    k.placed = false ∧ (∀ i, Table.get [] i k.q = [] ∧ Table.get [] i k.port = [] ∧ Table.get 0 i k.sm = 0) ∧ (∀ i, Table.get 0#32 i k.wd = 0 ∧ Table.get 0#32 i k.bg = 0 ∧ Table.get 0#32 i k.lc = 0 ∧ Table.get 0#32 i k.kmap = 0)) ∧
  (∀ k, (State.reset.cluster k).cairn = 0xFFFFFFFFFFFFFFFF ∧ (State.reset.cluster k).tlb = []) ∧
  (∀ c, (State.reset.core c).ageq = 1024 ∧ (State.reset.core c).share = false ∧ (State.reset.core c).cmds = [] ∧ (State.reset.core c).locks = [] ∧ (State.reset.core c).outq = [] ∧ (State.reset.core c).inbox = []) ∧
  (∀ n, (State.reset.rope n).st = 0 ∧ (State.reset.rope n).armed = false) ∧
  State.reset.dev.clock = 0 ∧ State.reset.dev.erem = 2600 ∧ State.reset.dev.bud = 2600 ∧ State.reset.dev.win = 1000 ∧ State.reset.dev.glim = 16 ∧ State.reset.dev.active = true ∧ State.reset.dev.bootState = 0 ∧
  State.reset.dev.cfgok = false ∧ State.reset.dev.portUp = 0 ∧ State.reset.dev.fww = 1 ∧ ∀ i, Table.get 0#64 i State.reset.dev.fwa = 0 ∧ Table.get 0#16 i State.reset.dev.routes = 0

/-- R165, R187: what each number of a source field reads. t0 to t15 name the result queue, newest first; a pending entry parks and a faulted one raises its cause; k0 to k7 and sp park while they are pending; a queue register or port gives up its oldest entry, and parks
while it has none; z reads 0, clk the s-cycle counter, and 39 to 63 are reserved. -/
def Sys2Proof.Claims.SourceForms : Prop :=
  ∀ (s : State) (r : BitVec 6),
    let c := s.latch.core
    let x := s.cur.x
    let l := Table.get [] (r.toNat - 24) (s.ctx c x).q
    let side := r.toNat - 32
    (∀ v, r.toNat < 16 → s.pre.t.getD r.toNat (.val 0) = .val v → src r s = .ok (v, s)) ∧
    (∀ i, r.toNat < 16 → s.pre.t.getD r.toNat (.val 0) = .pend i → src r s = .error (.park 0 id)) ∧
    (∀ n z, r.toNat < 16 → s.pre.t.getD r.toNat (.val 0) = .bad n z → src r s = .error (.cause z)) ∧
    (16 ≤ r.toNat → r.toNat < 24 → (s.pre.regPend.any (·.1 == r.toNat)) = false → src r s = .ok (Table.get 0 (r.toNat - 16) s.pre.k, s)) ∧
    (16 ≤ r.toNat ∧ r.toNat < 24 ∨ r.toNat = 37 → (s.pre.regPend.any (·.1 == r.toNat)) = true → src r s = .error (.park 0 id)) ∧
    (24 ≤ r.toNat → r.toNat < 32 → shareOk (s.core c).share x (r.toNat - 24) 6 = true → s.latch.mode ≠ .pairA → (∀ v l', l ≠ .word v :: l') → src r s = .error (.park 2 id)) ∧
    (∀ v l', 24 ≤ r.toNat → r.toNat < 32 → shareOk (s.core c).share x (r.toNat - 24) 6 = true → s.latch.mode ≠ .pairA → l = .word v :: l' →
      src r s = .ok (v, s.modCtx c x fun k => { k with q := Table.set (r.toNat - 24) l' k.q })) ∧
    (24 ≤ r.toNat → r.toNat < 32 → shareOk (s.core c).share x (r.toNat - 24) 6 = false → src r s = .error (.trap 0x12 (r.setWidth 64))) ∧
    (∀ d v l', 32 ≤ r.toNat → r.toNat < 36 → s.portPeer c x side = some d → Table.get [] side (s.ctx c x).port = .word v :: l' →
      src r s = .ok (v, s.modCtx c x fun k => { k with port := Table.set side l' k.port })) ∧
    (∀ d, 32 ≤ r.toNat → r.toNat < 36 → s.portPeer c x side = some d → (∀ v l', Table.get [] side (s.ctx c x).port ≠ .word v :: l') → src r s = .error (.park 3 id)) ∧
    (32 ≤ r.toNat → r.toNat < 36 → s.portPeer c x side = none → src r s = .error (.trap 0x12 (r.setWidth 64))) ∧
    src 36 s = .ok (0, s) ∧
    ((s.pre.regPend.any (·.1 == 37)) = false → src 37 s = .ok (s.pre.sp, s)) ∧
    src 38 s = .ok (BitVec.ofNat 64 s.dev.clock, s) ∧
    (39 ≤ r.toNat → src r s = .error (.trap 0x10 (s.latch.word.setWidth 64)))

/-- R29, R32, R43, R165, R187, R188: what each number of a destination field does with a result. 0 pushes: each entry moves one place older and the one in t15 is lost; k0 to k7 and sp are written; a queue register or port takes an entry while it has room; z discards it;
every other number is reserved. -/
def Sys2Proof.Claims.DestinationForms : Prop :=
  ∀ (s : State) (d : BitVec 6) (v : Word),
    let c := s.latch.core
    let x := s.cur.x
    let l := Table.get [] (d.toNat - 24) (s.ctx c x).q
    let side := d.toNat - 32
    (∀ u, s.cur.t.getD 15 (.val 0) = .val u → ∃ t : State, dest 0 v s = .ok ((), t) ∧ t.cur = { s.cur with t := .val v :: s.cur.t.take 15 } ∧ elsewhere s t) ∧
    (∀ i, s.cur.t.getD 15 (.val 0) = .pend i → ∃ t : State, dest 0 v s = .ok ((), t) ∧ t.cur = { s.cur with t := .val v :: s.cur.t.take 15, lost := s.cur.lost ++ [i] } ∧ elsewhere s t) ∧
    (∀ n z, s.cur.t.getD 15 (.val 0) = .bad n z → dest 0 v s = .error (.cause z)) ∧
    (16 ≤ d.toNat → d.toNat < 24 → (s.pre.regPend.any (·.1 == d.toNat)) = false → ∃ t : State, dest d v s = .ok ((), t) ∧ Table.get 0 (d.toNat - 16) t.cur.k = v ∧
      (∀ i, i ≠ d.toNat - 16 → Table.get 0 i t.cur.k = Table.get 0 i s.cur.k) ∧ t.cur.t = s.cur.t ∧ t.cur.sp = s.cur.sp ∧ t.cur.pred = s.cur.pred ∧ t.cur.pc = s.cur.pc ∧ elsewhere s t) ∧
    ((s.pre.regPend.any (·.1 == 37)) = false → ∃ t : State, dest 37 v s = .ok ((), t) ∧ t.cur.sp = v ∧ t.cur.k = s.cur.k ∧ t.cur.t = s.cur.t ∧ t.cur.pred = s.cur.pred ∧ t.cur.pc = s.cur.pc ∧ elsewhere s t) ∧
    (16 ≤ d.toNat ∧ d.toNat < 24 ∨ d.toNat = 37 → (s.pre.regPend.any (·.1 == d.toNat)) = true → dest d v s = .error (.park 0 id)) ∧
    (24 ≤ d.toNat → d.toNat < 32 → shareOk (s.core c).share x (d.toNat - 24) 6 = true → l.length < 16 → ∃ t : State, dest d v s = .ok ((), t) ∧ Table.get [] (d.toNat - 24) (t.ctx c x).q = l ++ [.word v] ∧
      t.threads = s.threads ∧ t.mem = s.mem) ∧
    (24 ≤ d.toNat → d.toNat < 32 → shareOk (s.core c).share x (d.toNat - 24) 6 = true → 16 ≤ l.length → dest d v s = .error (.park 2 id)) ∧
    (24 ≤ d.toNat → d.toNat < 32 → shareOk (s.core c).share x (d.toNat - 24) 6 = false → dest d v s = .error (.trap 0x12 (d.setWidth 64))) ∧
    (∀ e, 32 ≤ d.toNat → d.toNat < 36 → s.portPeer c x side = some e → (s.ctx e 0).away = false → (Table.get [] (opposite side) (s.ctx e 0).port).length < 8 → ∃ t : State, dest d v s = .ok ((), t) ∧
      Table.get [] (opposite side) (t.ctx e 0).port = Table.get [] (opposite side) (s.ctx e 0).port ++ [.word v] ∧ t.threads = s.threads ∧ t.mem = s.mem) ∧
    (∀ e, 32 ≤ d.toNat → d.toNat < 36 → s.portPeer c x side = some e → (s.ctx e 0).away = true ∨ 8 ≤ (Table.get [] (opposite side) (s.ctx e 0).port).length → dest d v s = .error (.park 3 id)) ∧
    (32 ≤ d.toNat → d.toNat < 36 → s.portPeer c x side = none → dest d v s = .error (.trap 0x12 (d.setWidth 64))) ∧
    dest 36 v s = .ok ((), s) ∧
    (0 < d.toNat ∧ d.toNat < 16 ∨ 38 ≤ d.toNat → dest d v s = .error (.trap 0x10 (s.latch.word.setWidth 64)))

/-- R8, R164, R187, R195: the frame of the scalar instructions. One that meets no wait and no trap changes the PC and its destination and nothing else: no byte of memory, no other thread, no register but the one that D names, and the result queue only by a push; a compare changes
one predicate at most, never p0. Operands in queue registers and ports, which change those, are the case of SourceForms and DestinationForms. -/
def Obligations.ScalarFrame : Prop :=
  ∀ (g : Guard) (f : Rrr) (imm : BitVec 7) (n : BitVec 6) (s t : State), s.latch.defer = .no → plain f.d → plain f.a → plain f.b →
    let same := fun (u : Thread) => ∃ (q : List REnt) (l : List Nat) (k : Table Word) (v pc : Word) (p : List (Nat × Nat)) (x : Option Word),
      u = { s.cur with t := q, lost := l, k := k, sp := v, pc := pc, regPend := p, src := x } ∧ (f.d ≠ 37 → v = s.cur.sp) ∧ (∀ i, f.d.toNat ≠ 16 + i → Table.get 0 i k = Table.get 0 i s.cur.k) ∧
        (f.d ≠ 0 → q = s.cur.t) ∧ (f.d = 0 → q = s.cur.t ∨ ∃ r, q = .val r :: s.cur.t.take 15)
    (∀ p ∈ twoSource, exec (p.1 g f) s = .next t → halted s t ∨ same t.cur ∧ elsewhere s t) ∧
    (∀ p ∈ oneSource imm n, exec (p.1 g f.d f.a) s = .next t → halted s t ∨ same t.cur ∧ elsewhere s t) ∧
    (∀ (p : BitVec 4) (c : BitVec 3), exec (.cmp g p f.a f.b c) s = .next t → halted s t ∨ (elsewhere s t ∧ ∃ (w : BitVec 16) (pc : Word) (x : Option Word),
      t.cur = { s.cur with pred := w, pc := pc, src := x } ∧ ∀ i, i < 16 → i ≠ p.toNat ∨ i = 0 → w.getLsbD i = s.cur.pred.getLsbD i))

/-- R95, R161, R162: the framing of a bundle, in the order of its table. The words are those of the text at the PC, from the core's instruction cache or through the translation of the cluster; a word outside the text lease cannot be fetched (R206). -/
def Sys2Proof.Claims.BundleFraming : Prop :=
  ∀ (s : State) (c l ver : Nat) (pc : Word),
    (2 ^ 56 ≤ pc.toNat → s.fetch c l pc = .bad 0x15) ∧
    (pc.toNat < 2 ^ 56 → opens (s.lease l).text.toList pc.toNat 4 4 = false → s.fetch c l pc = .bad 0x16) ∧
    (pc.toNat < 2 ^ 56 → opens (s.lease l).text.toList pc.toNat 4 4 = true →
      (∀ e, s.textLine c l pc.toNat = some e → s.fetch c l pc = .word (BitVec.ofNat 32 (ofBytes (slice e.bytes (pc.toNat % 64) 4)))) ∧
      (∀ e, s.textLine c l pc.toNat = none → s.tlbFind (clusterOf c) l pc.toNat = some e → s.fetch c l pc =
        if hasRights (e.pr &&& e.lr) 4 then .word (BitVec.ofNat 32 (s.word (s.fwd (e.ppn * 65536 + pc.toNat % pageBytes e.size)) 4)) else .bad 0x16) ∧
      (s.textLine c l pc.toNat = none → s.tlbFind (clusterOf c) l pc.toNat = none → s.fetch c l pc = .wait)) ∧
    (pc.toNat % 4 ≠ 0 → s.frame c l ver pc = .bad 0x11 0 false) ∧
    (pc.toNat % 4 = 0 → s.fetch c l pc = .wait → s.frame c l ver pc = .wait) ∧
    (∀ k, pc.toNat % 4 = 0 → s.fetch c l pc = .bad k → s.frame c l ver pc = .bad k 0 false) ∧
    (∀ w, pc.toNat % 4 = 0 → s.fetch c l pc = .word w → w.getLsbD 31 = true → ver ≠ 1 → s.frame c l ver pc = if w.extractLsb' 24 7 = 0x0E#7 then .bad 0x10 w false else .lone w) ∧
    (∀ w, pc.toNat % 8 = 4 → s.fetch c l pc = .word w → w.getLsbD 31 = false → s.frame c l ver pc = .bad 0x11 w false) ∧
    (∀ w, pc.toNat % 8 = 0 → s.fetch c l pc = .word w → w.getLsbD 31 = false → w.getLsbD 30 = true → s.frame c l ver pc = .bad 0x10 w false) ∧
    (∀ w v, pc.toNat % 8 = 0 → s.fetch c l pc = .word w → w.getLsbD 31 = false → w.getLsbD 30 = false → s.fetch c l (pc + 4) = .word v →
      (v.getLsbD 31 = true ∨ v.getLsbD 30 = false → s.frame c l ver pc = .bad 0x10 v true) ∧
      (v.getLsbD 31 = false → v.getLsbD 30 = true → w.extractLsb' 24 7 ≠ 0x0E#7 → s.frame c l ver pc = .pair w v) ∧
      (v.getLsbD 31 = false → v.getLsbD 30 = true → w.extractLsb' 24 7 = 0x0E#7 → ver ≠ 1 →
        s.frame c l ver pc = if 0x29 ≤ (v.extractLsb' 24 6).toNat ∧ (v.extractLsb' 24 6).toNat ≤ 0x3B then .vec w v else .bad 0x10 v true))

/-- R164, R409: a pair whose slots both go on has the C-slot's effect and then the A-slot's, which reads the registers as they stood before the bundle, and then its end; if either must wait the bundle parks, and if either traps neither takes effect. -/
def Sys2Proof.Claims.PairRuns : Prop :=
  ∀ (s r1 r2 : State) (ci ai : Instr) (cw aw : BitVec 32) (g : Guard),
    let on := guardOn g s.cur
    let s1 := { s with latch := { s.latch with mode := .pairC, exec := on, len := 8, word := cw } }
    let second := fun (r : State) => { r with latch := { r.latch with mode := .pairA, exec := on, pre := s.cur, word := aw } }
    exec ci s1 = .next r1 →
      (r1.latch.res = .ok → exec ai (second r1) = .next r2 →
        (r2.latch.res = .ok → ∃ l : Latch, s.runPair ci ai cw aw g = .next { ({ r2 with latch := { r2.latch with mode := .lone } } : State).finish with latch := l }) ∧
        (∀ n, r2.latch.res = .park n → ∃ l : Latch, s.runPair ci ai cw aw g = .next { s.parkCur n with latch := l }) ∧
        (∀ k v, r2.latch.res = .trap k v → ∃ l : Latch, s.runPair ci ai cw aw g = .next { s.takeException s.latch.core s.latch.slot (s.causeOf k v true) with latch := l })) ∧
      (∀ n, r1.latch.res = .park n → exec ai (second s1) = .next r2 →
        (r2.latch.res = .ok → ∃ l : Latch, s.runPair ci ai cw aw g = .next { r1.parkCur n with latch := l }) ∧
        (∀ m, r2.latch.res = .park m → ∃ l : Latch, s.runPair ci ai cw aw g = .next { s.parkCur (min n m) with latch := l })) ∧
      (∀ n, r1.latch.res = .wait n → exec ai (second s1) = .next r2 →
        (r2.latch.res = .ok → ∃ l : Latch, s.runPair ci ai cw aw g = .next { r1.parkCur n with latch := l }) ∧
        (∀ m, r2.latch.res = .park m → ∃ l : Latch, s.runPair ci ai cw aw g = .next { s.parkCur (min n m) with latch := l }) ∧
        (∀ k v, r2.latch.res = .trap k v → ∃ l : Latch, s.runPair ci ai cw aw g = .next { s.takeException s.latch.core s.latch.slot (s.causeOf k v true) with latch := l })) ∧
      (∀ k v, r1.latch.res = .trap k v → exec ai (second s1) = .next r2 →
        (r2.latch.res = .ok → ∃ l : Latch, s.runPair ci ai cw aw g = .next { s.takeException s.latch.core s.latch.slot (s.causeOf k v false) with latch := l }) ∧
        (∀ m, r2.latch.res = .park m → ∃ l : Latch, s.runPair ci ai cw aw g = .next { s.parkCur m with latch := l }) ∧
        (∀ k2 v2, r2.latch.res = .trap k2 v2 → ∃ l : Latch,
          s.runPair ci ai cw aw g = .next { s.takeException s.latch.core s.latch.slot { s.causeOf k v false with both := true, code2 := k2 } with latch := l }))

/-- A STEP RUNS THE DECODED INSTRUCTION (R161 to R164, R338; log 3 for the agenda). With no event waiting, the bundle at the PC of the thread chosen, where its words decode, is executed as exec of its instruction, and the core's turn ends; a bundle that parks as it was leaves
the s-cycle to another thread. A waiting event is exec of that event; with neither, the s-cycle ends. -/
def Obligations.StepRuns : Prop :=
  ∀ s : State,
    (∀ i a l, s.agenda = ⟨i, a⟩ :: l → step s = exec i { s with agenda := l, arg := a }) ∧
    (s.agenda = [] → nextIssue s = none → ∀ r, exec .sCycle { s with arg := {} } = .next r → step s = .next r.nextCycle) ∧
    (∀ c h p, s.agenda = [] → nextIssue s = some (c, h, p) →
      let go := s.modThread c h fun t => { t with cr := 0, acc := 0, rs := s.dev.clock, elig := s.dev.clock + 8, epri := effPri t }
      ∀ r, atBundle go c h → bundleRun go c h (.next r) →
        ((r.thread c h).st ≠ .parked → (r.thread c h).st ≠ .leaving → ∃ t : State, step s = .next t ∧ t.mem = r.mem ∧ t.threads = r.threads ∧ t.ropes = r.ropes ∧ t.dev = r.dev ∧ t.sched = r.sched ∧ t.ops = r.ops ∧
          t.agenda = r.agenda ∧ t.turn = c + 1) ∧
        (∀ o, (r.thread c h).st = .parked → (r.thread c h).pc = p.pc → (r.thread c h).trapDue = none → atBundle s c h → bundleRun s c h o → step s = o))

/-- R161, R163, R165 to R173: words written out bit by bit from the formats decode to the instructions they stand for; the zero word, a reserved major opcode, a set reserved bit and a reserved register number do not decode. -/
def Obligations.DecodeWords : Prop :=
  decodeWord 0x81000000#32 = some .nop ∧
  decodeWord (1#1 ++ 0#1 ++ 0x02#6 ++ 1#1 ++ 3#4 ++ 0x7FFFE#19) = some (.br 1 3 0x7FFFE) ∧
  decodeWord (1#1 ++ 0#1 ++ 0x0C#6 ++ 16#6 ++ 0x3FFFF#18) = some (.movi 16 0x3FFFF) ∧
  decodeWord (1#1 ++ 0#1 ++ 0x13#6 ++ 0#6 ++ 37#6 ++ 1#3 ++ 2#3 ++ 5#6) = some (.ld8 ⟨0, 37, 1, 2, 5⟩) ∧
  decodeWord (1#1 ++ 0#1 ++ 0x1A#6 ++ 1#6 ++ 16#6 ++ 0#3 ++ 0#3 ++ 63#6) = some (.st4 ⟨1, 16, 0, 0, 63⟩) ∧
  decodeWord (1#1 ++ 0#1 ++ 0x1C#6 ++ 0#2 ++ 7#4 ++ 17#6 ++ 3#3 ++ 0#3 ++ 1#6) = some (.ldv ⟨7, 17, 3, 0, 1⟩) ∧
  decodeWord (0#1 ++ 0#1 ++ 0x3B#6 ++ 18#6 ++ 0#2 ++ 0x0002#16) = some (.mtc 18 2) ∧
  decodeWord (1#1 ++ 1#1 ++ 0x01#6 ++ 0#1 ++ 0#4 ++ 0#6 ++ 0#6 ++ 1#6 ++ 1#1) = some (.add ⟨0, 0⟩ ⟨0, 0, 1⟩ 1) ∧
  decodeWord (0#1 ++ 1#1 ++ 0x10#6 ++ 1#1 ++ 5#4 ++ 16#6 ++ 36#6 ++ 0x40#7) = some (.addi ⟨1, 5⟩ 16 36 0x40) ∧
  decodeWord (1#1 ++ 1#1 ++ 0x1C#6 ++ 0#1 ++ 0#4 ++ 2#4 ++ 0#6 ++ 36#6 ++ 4#3) = some (.cmp ⟨0, 0⟩ 2 0 36 4) ∧
  decodeWord (1#1 ++ 1#1 ++ 0x20#6 ++ 0#1 ++ 0#4 ++ 0#6 ++ 1#6 ++ 2#6 ++ 0#1) = some (.fadd ⟨0, 0⟩ ⟨0, 1, 2⟩) ∧
  decodeWord (0#1 ++ 1#1 ++ 0x29#6 ++ 0#1 ++ 0#4 ++ 10#4 ++ 2#4 ++ 3#4 ++ 4#4 ++ 0#3) = some (.vadd ⟨0, 0⟩ ⟨10, 2, 3, 4⟩ 0) ∧
  decodeWord (0#1 ++ 1#1 ++ 0x00#6 ++ 0#1 ++ 0#4 ++ 0#19) = some (.anop ⟨0, 0⟩) ∧
  decodeWord 0#32 = none ∧ decodeWord 0x81000001#32 = none ∧ decodeWord (1#1 ++ 0#1 ++ 0x0F#6 ++ 0#24) = none ∧ decodeWord (1#1 ++ 0#1 ++ 0x3F#6 ++ 0#24) = none ∧
  decodeWord (1#1 ++ 0#1 ++ 0x0C#6 ++ 1#6 ++ 0#18) = none ∧ decodeWord (1#1 ++ 1#1 ++ 0x01#6 ++ 0#1 ++ 0#4 ++ 38#6 ++ 0#6 ++ 0#6 ++ 0#1) = none ∧
  decodeWord (1#1 ++ 1#1 ++ 0x01#6 ++ 1#1 ++ 0#4 ++ 0#6 ++ 0#6 ++ 0#6 ++ 0#1) = none

/-- R161 to R173: no bit of an encoding is dropped. Every well-formed instruction that has a word decodes from each of its two words, whole or part of a pair, every operand at every value; and a word that decodes to an instruction is that instruction's word, so no two instructions share
one and every reserved bit is checked. -/
def Obligations.EncodeDecode : Prop :=
  (∀ (l : BitVec 1) (i : Instr) (w : BitVec 32), WellFormed i → encode l i = some w → decodeWord w = some i) ∧
  (∀ (i : Instr) (w : BitVec 32), decodeWord w = some i → WellFormed i ∧ encode (w.extractLsb' 31 1) i = some w)

/-- Memory keeps its one canonical form: from every state whose memory has it, each step leads to a state whose memory has it (the form is the model's own, log 1). -/
def Obligations.MemoryKeepsForm : Prop := ∀ s t : State, s.MemOk → step s = .next t → t.MemOk

/-- R8, R409: no step of the machine stops. Every trap and every wait the spec describes is a next state. -/
def Obligations.EveryStepCompletes : Prop := ∀ s : State, Completes (step s)

end

/-! ### Rules stated whole (R203, R205, R248) -/

section
open Sys2Proof Sys2Proof.Machine Sys2Proof.Claims

/-- R203, whole: `nop` is OP 0x01 with every field zero, and as a lone word 0x8100_0000; it does nothing but issue, as `anop` does in its class; a non-zero field traps ILLEGAL_OP. -/
def Obligations.NopRule : Prop :=
  (∀ w : BitVec 32, w.extractLsb' 24 7 = 0x01#7 → decodeWord w = if w.extractLsb' 0 24 = 0#24 then some .nop else none) ∧
  decodeWord 0x81000000#32 = some .nop ∧
  (∀ s : State, s.goesC 0 → exec .nop s = .next (s.ended s)) ∧
  (∀ (s : State) (g : Guard), s.goesA g → exec (.anop g) s = .next (s.ended s)) ∧
  (∀ (s : State) (c h : Nat) (w : BitVec 32), s.frame c (s.ctx c (s.thread c h).x).l (s.ctx c (s.thread c h).x).ver (s.thread c h).pc = .lone w → w.extractLsb' 24 7 = 0x01#7 → w.extractLsb' 0 24 ≠ 0#24 →
    s.runBundle c h = .next (({ s with latch := { core := c, slot := h, len := 4, word := 0 } } : State).takeException c h ⟨0x10, w.setWidth 64, (s.thread c h).pc, false, false, 0, 0⟩))

/-- R205, whole: `jmp` (OP 0x03) jumps to the bundle's address plus 4 times its sign-extended offset, `jmpr` (OP 0x04) to the value of its register; the D, B and FN fields of `jmpr` are reserved. -/
def Obligations.JumpRule : Prop :=
  (∀ w : BitVec 32, w.extractLsb' 24 7 = 0x03#7 → decodeWord w = some (.jmp (w.extractLsb' 0 24))) ∧
  (∀ w : BitVec 32, w.extractLsb' 24 7 = 0x04#7 → w.extractLsb' 18 6 ≠ 0#6 ∨ w.extractLsb' 0 12 ≠ 0#12 → decodeWord w = none) ∧
  (∀ w : BitVec 32, w.extractLsb' 24 7 = 0x04#7 → w.extractLsb' 18 6 = 0#6 → w.extractLsb' 0 12 = 0#12 → (w.extractLsb' 12 6).toNat < 39 → decodeWord w = some (.jmpr (w.extractLsb' 12 6))) ∧
  (∀ (s : State) (o : BitVec 24), s.goesC 0 → ∃ t : State, exec (.jmp o) s = .next (s.ended t) ∧ t.latch.defer = .jump (s.cur.pc + 4 * o.signExtend 64) ∧ t.threads = s.threads ∧ t.mem = s.mem) ∧
  (∀ (s u : State) (a : BitVec 6) (v : Word), s.goesC 0 → src a s = .ok (v, u) → ∃ t : State, exec (.jmpr a) s = .next (s.ended t) ∧ t.latch.defer = .jump v ∧ t.threads = u.threads ∧ t.mem = u.mem) ∧
  (∀ (s : State) (v : Word), s.latch.defer = .jump v → s.finish.cur.pc = v)

/-- R248, whole: `prio` sets the base priority to bits 2:0 of its operand; a set bit above them traps REG_RANGE, and a change that crosses 7 traps PROT. -/
def Obligations.PrioRule : Prop :=
  ∀ (s u : State) (a : BitVec 6) (v : Word), s.goesC 0 → src a s = .ok (v, u) →
    (v.toNat < 8 → (u.cur.bpri = 7 ↔ v.toNat = 7) → ∃ t : State, exec (.prio a) s = .next (s.ended t) ∧ t.cur = { u.cur with bpri := v.toNat % 8 } ∧ t.mem = u.mem) ∧
    (v.toNat < 8 → ¬ (u.cur.bpri = 7 ↔ v.toNat = 7) → exec (.prio a) s = .next (trapped s 0x17 v false)) ∧
    (8 ≤ v.toNat → exec (.prio a) s = .next (trapped s 0x12 v false))

end

/-! ### The statements that several parts make up -/

/-- Every form of a source and of a destination field: What each register number reads, parks on or traps as a source, and writes, pushes, sends, discards or traps as a destination, with what stays unchanged. -/
def Obligations.OperandForms : Prop :=
  Sys2Proof.Claims.SourceForms ∧ Sys2Proof.Claims.DestinationForms

/-- Results of the scalar integer instructions: Every two-source, slow, immediate and bit-count instruction completes with the result its entry gives, wherever its word executes and its operands can be read and written. -/
def Obligations.ScalarResults : Prop :=
  Sys2Proof.Claims.ScalarTwoSourceResult ∧ Sys2Proof.Claims.ScalarSlowResult ∧ Sys2Proof.Claims.ScalarOneSourceResult

/-- Constants, inserts, selects, compares and predicates: movi, movhi, bins, sel, ppack, punpack, anop, cmp, cmpi and predicate logic complete with the values their entries give; p0 is never written. -/
def Obligations.ScalarMoves : Prop :=
  Sys2Proof.Claims.ScalarMoveResult ∧ Sys2Proof.Claims.PredicateResult

/-- Scalar floating point: FP32 arithmetic, minimum, maximum, compares and conversions complete with exactly rounded results; division and square root come later; the rounding generator never holds zero. -/
def Obligations.FloatResults : Prop :=
  Sys2Proof.Claims.FloatResult ∧ Sys2Proof.Claims.FloatDivideConvert ∧ Sys2Proof.Claims.GeneratorNeverZero

/-- Branches, jumps and a guard that reads 0: nop, br, jmp and jmpr complete and leave their target for the end of the bundle; every A-class word whose guard reads 0 completes without an effect. -/
def Obligations.JumpsComplete : Prop :=
  Sys2Proof.Claims.JumpsAndBranches ∧ Sys2Proof.Claims.GuardOff

/-- Framing, pairs, and the end of a bundle: The framing table in its order; what the two slots of a pair come to together; where the PC goes at the end of a bundle, and that nothing else changes then. -/
def Obligations.BundleRules : Prop :=
  Sys2Proof.Claims.BundleFraming ∧ Sys2Proof.Claims.BundleEnds ∧ Sys2Proof.Claims.PairRuns

/-- call and callr: A call with room completes, pushes a window of k4 to k7, return PC, sp and predicates, and zeroes k4 to k7; without room it traps STACK_LIMIT. -/
def Obligations.CallsPushWindows : Prop :=
  Sys2Proof.Claims.CallResult ∧ Sys2Proof.Claims.CallPushesWindow

/-- ret: A ret restores the top window and returns; at depth 0, and below the floor of a begun task, it traps ILLEGAL_OP. -/
def Obligations.ReturnsPopWindows : Prop :=
  Sys2Proof.Claims.ReturnResult ∧ Sys2Proof.Claims.ReturnPopsWindow

/-- frame, sleep and yield: frame moves sp inside the frame area or traps; sleep parks until its target and completes from it on; yield completes and clears the ageing state. -/
def Obligations.FramesAndWaits : Prop :=
  Sys2Proof.Claims.FrameResult ∧ Sys2Proof.Claims.SleepResult ∧ Sys2Proof.Claims.YieldResult

/-- Taking an exception: trap and bkpt take their exceptions; an exception saves PC, cause and value in the trap window, the queue and named registers where the spec puts them, sets INTRAP, and goes to the vector. -/
def Obligations.ExceptionEntry : Prop :=
  Sys2Proof.Claims.TrapInstructions ∧ Sys2Proof.Claims.ExceptionEntered

/-- Loads: Every load whose checks pass issues an operation with its address, width and destination; a check that fails traps with its cause and changes nothing. -/
def Obligations.ScalarLoads : Prop :=
  Sys2Proof.Claims.ScalarLoadResult

/-- Stores: A store goes out directly or into the open task's buffer, at the address its operands give and its width, or traps or parks as its checks say. -/
def Obligations.ScalarStores : Prop :=
  Sys2Proof.Claims.DirectStoreResult ∧ Sys2Proof.Claims.BufferedStoreResult

/-- Vector loads and stores: ldv, stv, vldx and vstx complete with the elements and addresses their entries give. -/
def Obligations.VectorAccesses : Prop :=
  Sys2Proof.Claims.VectorLoadResult ∧ Sys2Proof.Claims.VectorStoreResult

/-- Atomic operations: Every atomic whose checks pass issues an operation at its scope; each kind computes the new value its entry gives. -/
def Obligations.AtomicResults : Prop :=
  Sys2Proof.Claims.AtomicResult ∧ Sys2Proof.Claims.AtomicValues

/-- Fences, hints and full/empty accesses: fence and sbwait complete once their accesses are performed and park before; prefetch never traps; touch adds a resident page to the touched set; ldfe and stfe issue their operations. -/
def Obligations.FencesAndHints : Prop :=
  Sys2Proof.Claims.FenceResult ∧ Sys2Proof.Claims.PrefetchTouchResult ∧ Sys2Proof.Claims.FullEmptyResult

/-- How a task opens, commits and aborts: Opening takes the snapshot; a commit lands the buffered stores; an abort restores the snapshot and drops them. -/
def Obligations.TaskChanges : Prop :=
  Sys2Proof.Claims.TaskOpens ∧ Sys2Proof.Claims.TaskCommits ∧ Sys2Proof.Claims.TaskAborts

/-- Spawning a thread: The spawns issue a request or trap; a placed thread begins with the registers that the spec lists. -/
def Obligations.Spawning : Prop :=
  Sys2Proof.Claims.SpawnResult ∧ Sys2Proof.Claims.ThreadPlaced

/-- Semaphores and barriers: The semaphore instructions and bar, barq and barq.wait complete, park or trap as their entries say. -/
def Obligations.SemaphoresAndBarriers : Prop :=
  Sys2Proof.Claims.SemaphoreResult ∧ Sys2Proof.Claims.BarrierResult

/-- Arming and joining a rope: rparm writes every register of the rope from its block and zeroes its target; rpjoin enters a member; each refusal has its cause. -/
def Obligations.RopeArming : Prop :=
  Sys2Proof.Claims.RopeArmResult ∧ Sys2Proof.Claims.RopeArmed ∧ Sys2Proof.Claims.RopeJoinResult

/-- Arriving at, waiting for and leaving a rope: rparr contributes or is late; rpwait, rpstat and rpleave complete or park as their entries say. -/
def Obligations.RopeUse : Prop :=
  Sys2Proof.Claims.RopeArriveResult ∧ Sys2Proof.Claims.RopeWaitResult ∧ Sys2Proof.Claims.RopeElsewhere

/-- Fixed lines: flsub, flend, flsync, flstat and flstat.clr complete, park or trap as their entries say. -/
def Obligations.FixedLines : Prop :=
  Sys2Proof.Claims.FixedLineSubscribe ∧ Sys2Proof.Claims.FixedLineUse

/-- send, acqr and relr: send issues a message or traps; acqr and relr complete where the token is held or held away, and wait or trap elsewhere. -/
def Obligations.MessagesAndTokens : Prop :=
  Sys2Proof.Claims.SendResult ∧ Sys2Proof.Claims.TokenResult

/-- Tile and matrix commands: tld, tst, tzero, accz, mma, mmat, mvs and epi issue with their descriptors checked, or trap with the cause of the check that fails. -/
def Obligations.EngineCommands : Prop :=
  Sys2Proof.Claims.TileCommands ∧ Sys2Proof.Claims.MatrixCommands

/-- cpy, cpyp, cpyf, put and get: Each issues with its descriptor checked, or traps with the cause of the check that fails. -/
def Obligations.CopiesAndTransfers : Prop :=
  Sys2Proof.Claims.CopyCommands ∧ Sys2Proof.Claims.TransferCommands

/-- mvc and mtc: A read completes with the register's value; a write takes effect, is discarded or traps by the register's class. -/
def Obligations.ControlRegisters : Prop :=
  Sys2Proof.Claims.ControlRegisterRead ∧ Sys2Proof.Claims.ControlRegisterWrite

/-- sysc, halt, csave, crest and the shoot-downs: Each completes, parks or traps as its entry says, with the rights it checks. -/
def Obligations.ServicesAndImages : Prop :=
  Sys2Proof.Claims.ServiceInstructions ∧ Sys2Proof.Claims.ImageInstructions

/-- Vector instructions across elements, and conversions: Broadcasts, inserts, extracts, reductions, permutations, slides, compressions, widening, narrowing and conversions complete with the values their entries give. -/
def Obligations.VectorOtherResults : Prop :=
  Sys2Proof.Claims.VectorAcrossElements ∧ Sys2Proof.Claims.VectorConversionResult

/-- How operations end: A result reaches the entry, register, queue place or port reserved for it, and counts fall; a fault is recorded there; loads, stores, atomics and full/empty accesses do to memory what their entries say. -/
def Obligations.OperationsEnd : Prop :=
  Sys2Proof.Claims.OperationCompletes ∧ Sys2Proof.Claims.OperationFails ∧ Sys2Proof.Claims.LoadReturns ∧ Sys2Proof.Claims.StoreReturns

/-- Walks, shoot-downs, page moves and scrubbing: A walk enters a translation of its page with no more rights than mapping and leases give; shoot-downs, migrations and the scrubber act as their entries say. -/
def Obligations.Translation : Prop :=
  Sys2Proof.Claims.WalkResult ∧ Sys2Proof.Claims.PageSteps ∧ Sys2Proof.Claims.ScrubResult

/-- At a thread's boundary: Due causes are taken in order, waiting traps delivered, kills and restarts made, sleepers woken, ageing credited, and timed tasks committed in order. -/
def Obligations.ThreadBoundaries : Prop :=
  Sys2Proof.Claims.BoundaryCauses ∧ Sys2Proof.Claims.ThreadWakes ∧ Sys2Proof.Claims.TimedCommit

/-- Windows, vector windows and the places of threads: Windows spill and refill, vector windows are granted, threads retire and move, load is balanced, and a team rolls back. -/
def Obligations.ThreadPlaces : Prop :=
  Sys2Proof.Claims.WindowMoves ∧ Sys2Proof.Claims.VectorWindows ∧ Sys2Proof.Claims.ThreadMoves ∧ Sys2Proof.Claims.LoadBalance ∧ Sys2Proof.Claims.TeamRollback

/-- Messages, spawns and services answered: A message enters its queue register, waits or is refused; spawns and services are answered with the values the spec gives. -/
def Obligations.MessagesAndServices : Prop :=
  Sys2Proof.Claims.MessageSteps ∧ Sys2Proof.Claims.ServiceAnswers

/-- Engines and keyed traffic at work: Commands begin in order, wait for locks, stop when cancelled or faulted, and end with their semaphore; pairs reach their bins in order. -/
def Obligations.EngineWork : Prop :=
  Sys2Proof.Claims.EngineSteps ∧ Sys2Proof.Claims.KeyedSteps

/-- Fixed lines, barriers and ropes at work: Updates carry lines in sequence, barrier arrivals and releases travel, and ropes gather, merge and release. -/
def Obligations.LinesBarriersRopes : Prop :=
  Sys2Proof.Claims.FixedLineSteps ∧ Sys2Proof.Claims.BarrierSteps ∧ Sys2Proof.Claims.RopeSteps

/-- Submission queues and launches: Kicks, packets, launches, energy windows, drains, saves and takeovers act as their entries say. -/
def Obligations.QueuesAndLaunches : Prop :=
  Sys2Proof.Claims.QueueSteps ∧ Sys2Proof.Claims.LaunchSteps

/-- Management channels and requests: Channel registers take, refuse or read their values; each request is answered as its row says. -/
def Obligations.Management : Prop :=
  Sys2Proof.Claims.ChannelRegisters ∧ Sys2Proof.Claims.ManagementRequests

/-- Time, counters and trace: An s-cycle ends, records are captured, time advances, and the issue trace and cross-trigger change state as their entries say. -/
def Obligations.TimeAndTrace : Prop :=
  Sys2Proof.Claims.CycleSteps ∧ Sys2Proof.Claims.TimeSteps ∧ Sys2Proof.Claims.TraceSteps

/-- Control-space writes and the host's link: Stores to the control space act as their rows say; the host's writes, reads and atomic operations reach what is open to them. -/
def Obligations.ControlSpace : Prop :=
  Sys2Proof.Claims.ControlWrites ∧ Sys2Proof.Claims.HostLink

/-- Boot, approach mode, heat and the fabric: Resets, boot checks, calibration, approach mode, thermal gating, ports, the router and the loss of a device act as their entries say. -/
def Obligations.DevicesAndFabric : Prop :=
  Sys2Proof.Claims.DeviceSteps ∧ Sys2Proof.Claims.FabricSteps
end

