-- ==== Sys2Proof/Laws/State.lean ====
section
/-! SUPPORT. Reading a field after a named update of the state, and a table after an entry is set. -/

namespace Sys2Proof.Machine

variable (s : State)

/-! ### Tables -/

@[simp] theorem Table.get_set (α : Type) (d : α) (j k : Nat) (v : α) (t : Table α) :
    Table.get d j (Table.set k v t) = if j = k then v else Table.get d j t := by
  split
  · next h => subst h; exact Sys2Proof.Table.get_set_same d j v t
  · next h => exact Sys2Proof.Table.get_set_other d h v t

/-! ### What an update leaves as it was -/

@[simp] theorem State.setThread_mem (c h : Nat) (t : Thread) : (s.setThread c h t).mem = s.mem := rfl
@[simp] theorem State.setThread_full (c h : Nat) (t : Thread) : (s.setThread c h t).full = s.full := rfl
@[simp] theorem State.setThread_poison (c h : Nat) (t : Thread) : (s.setThread c h t).poison = s.poison := rfl
@[simp] theorem State.setThread_cores (c h : Nat) (t : Thread) : (s.setThread c h t).cores = s.cores := rfl
@[simp] theorem State.setThread_ctxs (c h : Nat) (t : Thread) : (s.setThread c h t).ctxs = s.ctxs := rfl
@[simp] theorem State.setThread_clusters (c h : Nat) (t : Thread) : (s.setThread c h t).clusters = s.clusters := rfl
@[simp] theorem State.setThread_ropes (c h : Nat) (t : Thread) : (s.setThread c h t).ropes = s.ropes := rfl
@[simp] theorem State.setThread_dev (c h : Nat) (t : Thread) : (s.setThread c h t).dev = s.dev := rfl
@[simp] theorem State.setThread_sched (c h : Nat) (t : Thread) : (s.setThread c h t).sched = s.sched := rfl
@[simp] theorem State.setThread_ops (c h : Nat) (t : Thread) : (s.setThread c h t).ops = s.ops := rfl
@[simp] theorem State.setThread_flights (c h : Nat) (t : Thread) : (s.setThread c h t).flights = s.flights := rfl
@[simp] theorem State.setThread_shoots (c h : Nat) (t : Thread) : (s.setThread c h t).shoots = s.shoots := rfl
@[simp] theorem State.setThread_bankQ (c h : Nat) (t : Thread) : (s.setThread c h t).bankQ = s.bankQ := rfl
@[simp] theorem State.setThread_bankWait (c h : Nat) (t : Thread) : (s.setThread c h t).bankWait = s.bankWait := rfl
@[simp] theorem State.setThread_frontier (c h : Nat) (t : Thread) : (s.setThread c h t).frontier = s.frontier := rfl
@[simp] theorem State.setThread_agenda (c h : Nat) (t : Thread) : (s.setThread c h t).agenda = s.agenda := rfl
@[simp] theorem State.setThread_laterSteps (c h : Nat) (t : Thread) : (s.setThread c h t).laterSteps = s.laterSteps := rfl
@[simp] theorem State.setThread_arg (c h : Nat) (t : Thread) : (s.setThread c h t).arg = s.arg := rfl
@[simp] theorem State.setThread_turn (c h : Nat) (t : Thread) : (s.setThread c h t).turn = s.turn := rfl
@[simp] theorem State.setThread_latch (c h : Nat) (t : Thread) : (s.setThread c h t).latch = s.latch := rfl
@[simp] theorem State.setThread_nextOp (c h : Nat) (t : Thread) : (s.setThread c h t).nextOp = s.nextOp := rfl
@[simp] theorem State.setThread_draw (c h : Nat) (t : Thread) : (s.setThread c h t).draw = s.draw := rfl

@[simp] theorem State.modThread_mem (c h : Nat) (f : Thread → Thread) : (s.modThread c h f).mem = s.mem := rfl
@[simp] theorem State.modThread_full (c h : Nat) (f : Thread → Thread) : (s.modThread c h f).full = s.full := rfl
@[simp] theorem State.modThread_poison (c h : Nat) (f : Thread → Thread) : (s.modThread c h f).poison = s.poison := rfl
@[simp] theorem State.modThread_cores (c h : Nat) (f : Thread → Thread) : (s.modThread c h f).cores = s.cores := rfl
@[simp] theorem State.modThread_ctxs (c h : Nat) (f : Thread → Thread) : (s.modThread c h f).ctxs = s.ctxs := rfl
@[simp] theorem State.modThread_clusters (c h : Nat) (f : Thread → Thread) : (s.modThread c h f).clusters = s.clusters := rfl
@[simp] theorem State.modThread_ropes (c h : Nat) (f : Thread → Thread) : (s.modThread c h f).ropes = s.ropes := rfl
@[simp] theorem State.modThread_dev (c h : Nat) (f : Thread → Thread) : (s.modThread c h f).dev = s.dev := rfl
@[simp] theorem State.modThread_sched (c h : Nat) (f : Thread → Thread) : (s.modThread c h f).sched = s.sched := rfl
@[simp] theorem State.modThread_ops (c h : Nat) (f : Thread → Thread) : (s.modThread c h f).ops = s.ops := rfl
@[simp] theorem State.modThread_flights (c h : Nat) (f : Thread → Thread) : (s.modThread c h f).flights = s.flights := rfl
@[simp] theorem State.modThread_shoots (c h : Nat) (f : Thread → Thread) : (s.modThread c h f).shoots = s.shoots := rfl
@[simp] theorem State.modThread_bankQ (c h : Nat) (f : Thread → Thread) : (s.modThread c h f).bankQ = s.bankQ := rfl
@[simp] theorem State.modThread_bankWait (c h : Nat) (f : Thread → Thread) : (s.modThread c h f).bankWait = s.bankWait := rfl
@[simp] theorem State.modThread_frontier (c h : Nat) (f : Thread → Thread) : (s.modThread c h f).frontier = s.frontier := rfl
@[simp] theorem State.modThread_agenda (c h : Nat) (f : Thread → Thread) : (s.modThread c h f).agenda = s.agenda := rfl
@[simp] theorem State.modThread_laterSteps (c h : Nat) (f : Thread → Thread) : (s.modThread c h f).laterSteps = s.laterSteps := rfl
@[simp] theorem State.modThread_arg (c h : Nat) (f : Thread → Thread) : (s.modThread c h f).arg = s.arg := rfl
@[simp] theorem State.modThread_turn (c h : Nat) (f : Thread → Thread) : (s.modThread c h f).turn = s.turn := rfl
@[simp] theorem State.modThread_latch (c h : Nat) (f : Thread → Thread) : (s.modThread c h f).latch = s.latch := rfl
@[simp] theorem State.modThread_nextOp (c h : Nat) (f : Thread → Thread) : (s.modThread c h f).nextOp = s.nextOp := rfl
@[simp] theorem State.modThread_draw (c h : Nat) (f : Thread → Thread) : (s.modThread c h f).draw = s.draw := rfl

@[simp] theorem State.mapThreads_mem (f : Thread → Thread) : (s.mapThreads f).mem = s.mem := rfl
@[simp] theorem State.mapThreads_full (f : Thread → Thread) : (s.mapThreads f).full = s.full := rfl
@[simp] theorem State.mapThreads_poison (f : Thread → Thread) : (s.mapThreads f).poison = s.poison := rfl
@[simp] theorem State.mapThreads_cores (f : Thread → Thread) : (s.mapThreads f).cores = s.cores := rfl
@[simp] theorem State.mapThreads_ctxs (f : Thread → Thread) : (s.mapThreads f).ctxs = s.ctxs := rfl
@[simp] theorem State.mapThreads_clusters (f : Thread → Thread) : (s.mapThreads f).clusters = s.clusters := rfl
@[simp] theorem State.mapThreads_ropes (f : Thread → Thread) : (s.mapThreads f).ropes = s.ropes := rfl
@[simp] theorem State.mapThreads_dev (f : Thread → Thread) : (s.mapThreads f).dev = s.dev := rfl
@[simp] theorem State.mapThreads_sched (f : Thread → Thread) : (s.mapThreads f).sched = s.sched := rfl
@[simp] theorem State.mapThreads_ops (f : Thread → Thread) : (s.mapThreads f).ops = s.ops := rfl
@[simp] theorem State.mapThreads_flights (f : Thread → Thread) : (s.mapThreads f).flights = s.flights := rfl
@[simp] theorem State.mapThreads_shoots (f : Thread → Thread) : (s.mapThreads f).shoots = s.shoots := rfl
@[simp] theorem State.mapThreads_bankQ (f : Thread → Thread) : (s.mapThreads f).bankQ = s.bankQ := rfl
@[simp] theorem State.mapThreads_bankWait (f : Thread → Thread) : (s.mapThreads f).bankWait = s.bankWait := rfl
@[simp] theorem State.mapThreads_frontier (f : Thread → Thread) : (s.mapThreads f).frontier = s.frontier := rfl
@[simp] theorem State.mapThreads_agenda (f : Thread → Thread) : (s.mapThreads f).agenda = s.agenda := rfl
@[simp] theorem State.mapThreads_laterSteps (f : Thread → Thread) : (s.mapThreads f).laterSteps = s.laterSteps := rfl
@[simp] theorem State.mapThreads_arg (f : Thread → Thread) : (s.mapThreads f).arg = s.arg := rfl
@[simp] theorem State.mapThreads_turn (f : Thread → Thread) : (s.mapThreads f).turn = s.turn := rfl
@[simp] theorem State.mapThreads_latch (f : Thread → Thread) : (s.mapThreads f).latch = s.latch := rfl
@[simp] theorem State.mapThreads_nextOp (f : Thread → Thread) : (s.mapThreads f).nextOp = s.nextOp := rfl
@[simp] theorem State.mapThreads_draw (f : Thread → Thread) : (s.mapThreads f).draw = s.draw := rfl

@[simp] theorem State.setCore_mem (c : Nat) (k : Core) : (s.setCore c k).mem = s.mem := rfl
@[simp] theorem State.setCore_full (c : Nat) (k : Core) : (s.setCore c k).full = s.full := rfl
@[simp] theorem State.setCore_poison (c : Nat) (k : Core) : (s.setCore c k).poison = s.poison := rfl
@[simp] theorem State.setCore_threads (c : Nat) (k : Core) : (s.setCore c k).threads = s.threads := rfl
@[simp] theorem State.setCore_ctxs (c : Nat) (k : Core) : (s.setCore c k).ctxs = s.ctxs := rfl
@[simp] theorem State.setCore_clusters (c : Nat) (k : Core) : (s.setCore c k).clusters = s.clusters := rfl
@[simp] theorem State.setCore_ropes (c : Nat) (k : Core) : (s.setCore c k).ropes = s.ropes := rfl
@[simp] theorem State.setCore_dev (c : Nat) (k : Core) : (s.setCore c k).dev = s.dev := rfl
@[simp] theorem State.setCore_sched (c : Nat) (k : Core) : (s.setCore c k).sched = s.sched := rfl
@[simp] theorem State.setCore_ops (c : Nat) (k : Core) : (s.setCore c k).ops = s.ops := rfl
@[simp] theorem State.setCore_flights (c : Nat) (k : Core) : (s.setCore c k).flights = s.flights := rfl
@[simp] theorem State.setCore_shoots (c : Nat) (k : Core) : (s.setCore c k).shoots = s.shoots := rfl
@[simp] theorem State.setCore_bankQ (c : Nat) (k : Core) : (s.setCore c k).bankQ = s.bankQ := rfl
@[simp] theorem State.setCore_bankWait (c : Nat) (k : Core) : (s.setCore c k).bankWait = s.bankWait := rfl
@[simp] theorem State.setCore_frontier (c : Nat) (k : Core) : (s.setCore c k).frontier = s.frontier := rfl
@[simp] theorem State.setCore_agenda (c : Nat) (k : Core) : (s.setCore c k).agenda = s.agenda := rfl
@[simp] theorem State.setCore_laterSteps (c : Nat) (k : Core) : (s.setCore c k).laterSteps = s.laterSteps := rfl
@[simp] theorem State.setCore_arg (c : Nat) (k : Core) : (s.setCore c k).arg = s.arg := rfl
@[simp] theorem State.setCore_turn (c : Nat) (k : Core) : (s.setCore c k).turn = s.turn := rfl
@[simp] theorem State.setCore_latch (c : Nat) (k : Core) : (s.setCore c k).latch = s.latch := rfl
@[simp] theorem State.setCore_nextOp (c : Nat) (k : Core) : (s.setCore c k).nextOp = s.nextOp := rfl
@[simp] theorem State.setCore_draw (c : Nat) (k : Core) : (s.setCore c k).draw = s.draw := rfl

@[simp] theorem State.modCore_mem (c : Nat) (f : Core → Core) : (s.modCore c f).mem = s.mem := rfl
@[simp] theorem State.modCore_full (c : Nat) (f : Core → Core) : (s.modCore c f).full = s.full := rfl
@[simp] theorem State.modCore_poison (c : Nat) (f : Core → Core) : (s.modCore c f).poison = s.poison := rfl
@[simp] theorem State.modCore_threads (c : Nat) (f : Core → Core) : (s.modCore c f).threads = s.threads := rfl
@[simp] theorem State.modCore_ctxs (c : Nat) (f : Core → Core) : (s.modCore c f).ctxs = s.ctxs := rfl
@[simp] theorem State.modCore_clusters (c : Nat) (f : Core → Core) : (s.modCore c f).clusters = s.clusters := rfl
@[simp] theorem State.modCore_ropes (c : Nat) (f : Core → Core) : (s.modCore c f).ropes = s.ropes := rfl
@[simp] theorem State.modCore_dev (c : Nat) (f : Core → Core) : (s.modCore c f).dev = s.dev := rfl
@[simp] theorem State.modCore_sched (c : Nat) (f : Core → Core) : (s.modCore c f).sched = s.sched := rfl
@[simp] theorem State.modCore_ops (c : Nat) (f : Core → Core) : (s.modCore c f).ops = s.ops := rfl
@[simp] theorem State.modCore_flights (c : Nat) (f : Core → Core) : (s.modCore c f).flights = s.flights := rfl
@[simp] theorem State.modCore_shoots (c : Nat) (f : Core → Core) : (s.modCore c f).shoots = s.shoots := rfl
@[simp] theorem State.modCore_bankQ (c : Nat) (f : Core → Core) : (s.modCore c f).bankQ = s.bankQ := rfl
@[simp] theorem State.modCore_bankWait (c : Nat) (f : Core → Core) : (s.modCore c f).bankWait = s.bankWait := rfl
@[simp] theorem State.modCore_frontier (c : Nat) (f : Core → Core) : (s.modCore c f).frontier = s.frontier := rfl
@[simp] theorem State.modCore_agenda (c : Nat) (f : Core → Core) : (s.modCore c f).agenda = s.agenda := rfl
@[simp] theorem State.modCore_laterSteps (c : Nat) (f : Core → Core) : (s.modCore c f).laterSteps = s.laterSteps := rfl
@[simp] theorem State.modCore_arg (c : Nat) (f : Core → Core) : (s.modCore c f).arg = s.arg := rfl
@[simp] theorem State.modCore_turn (c : Nat) (f : Core → Core) : (s.modCore c f).turn = s.turn := rfl
@[simp] theorem State.modCore_latch (c : Nat) (f : Core → Core) : (s.modCore c f).latch = s.latch := rfl
@[simp] theorem State.modCore_nextOp (c : Nat) (f : Core → Core) : (s.modCore c f).nextOp = s.nextOp := rfl
@[simp] theorem State.modCore_draw (c : Nat) (f : Core → Core) : (s.modCore c f).draw = s.draw := rfl

@[simp] theorem State.setCtx_mem (c x : Nat) (k : Ctx) : (s.setCtx c x k).mem = s.mem := rfl
@[simp] theorem State.setCtx_full (c x : Nat) (k : Ctx) : (s.setCtx c x k).full = s.full := rfl
@[simp] theorem State.setCtx_poison (c x : Nat) (k : Ctx) : (s.setCtx c x k).poison = s.poison := rfl
@[simp] theorem State.setCtx_threads (c x : Nat) (k : Ctx) : (s.setCtx c x k).threads = s.threads := rfl
@[simp] theorem State.setCtx_cores (c x : Nat) (k : Ctx) : (s.setCtx c x k).cores = s.cores := rfl
@[simp] theorem State.setCtx_clusters (c x : Nat) (k : Ctx) : (s.setCtx c x k).clusters = s.clusters := rfl
@[simp] theorem State.setCtx_ropes (c x : Nat) (k : Ctx) : (s.setCtx c x k).ropes = s.ropes := rfl
@[simp] theorem State.setCtx_dev (c x : Nat) (k : Ctx) : (s.setCtx c x k).dev = s.dev := rfl
@[simp] theorem State.setCtx_sched (c x : Nat) (k : Ctx) : (s.setCtx c x k).sched = s.sched := rfl
@[simp] theorem State.setCtx_ops (c x : Nat) (k : Ctx) : (s.setCtx c x k).ops = s.ops := rfl
@[simp] theorem State.setCtx_flights (c x : Nat) (k : Ctx) : (s.setCtx c x k).flights = s.flights := rfl
@[simp] theorem State.setCtx_shoots (c x : Nat) (k : Ctx) : (s.setCtx c x k).shoots = s.shoots := rfl
@[simp] theorem State.setCtx_bankQ (c x : Nat) (k : Ctx) : (s.setCtx c x k).bankQ = s.bankQ := rfl
@[simp] theorem State.setCtx_bankWait (c x : Nat) (k : Ctx) : (s.setCtx c x k).bankWait = s.bankWait := rfl
@[simp] theorem State.setCtx_frontier (c x : Nat) (k : Ctx) : (s.setCtx c x k).frontier = s.frontier := rfl
@[simp] theorem State.setCtx_agenda (c x : Nat) (k : Ctx) : (s.setCtx c x k).agenda = s.agenda := rfl
@[simp] theorem State.setCtx_laterSteps (c x : Nat) (k : Ctx) : (s.setCtx c x k).laterSteps = s.laterSteps := rfl
@[simp] theorem State.setCtx_arg (c x : Nat) (k : Ctx) : (s.setCtx c x k).arg = s.arg := rfl
@[simp] theorem State.setCtx_turn (c x : Nat) (k : Ctx) : (s.setCtx c x k).turn = s.turn := rfl
@[simp] theorem State.setCtx_latch (c x : Nat) (k : Ctx) : (s.setCtx c x k).latch = s.latch := rfl
@[simp] theorem State.setCtx_nextOp (c x : Nat) (k : Ctx) : (s.setCtx c x k).nextOp = s.nextOp := rfl
@[simp] theorem State.setCtx_draw (c x : Nat) (k : Ctx) : (s.setCtx c x k).draw = s.draw := rfl

@[simp] theorem State.modCtx_mem (c x : Nat) (f : Ctx → Ctx) : (s.modCtx c x f).mem = s.mem := rfl
@[simp] theorem State.modCtx_full (c x : Nat) (f : Ctx → Ctx) : (s.modCtx c x f).full = s.full := rfl
@[simp] theorem State.modCtx_poison (c x : Nat) (f : Ctx → Ctx) : (s.modCtx c x f).poison = s.poison := rfl
@[simp] theorem State.modCtx_threads (c x : Nat) (f : Ctx → Ctx) : (s.modCtx c x f).threads = s.threads := rfl
@[simp] theorem State.modCtx_cores (c x : Nat) (f : Ctx → Ctx) : (s.modCtx c x f).cores = s.cores := rfl
@[simp] theorem State.modCtx_clusters (c x : Nat) (f : Ctx → Ctx) : (s.modCtx c x f).clusters = s.clusters := rfl
@[simp] theorem State.modCtx_ropes (c x : Nat) (f : Ctx → Ctx) : (s.modCtx c x f).ropes = s.ropes := rfl
@[simp] theorem State.modCtx_dev (c x : Nat) (f : Ctx → Ctx) : (s.modCtx c x f).dev = s.dev := rfl
@[simp] theorem State.modCtx_sched (c x : Nat) (f : Ctx → Ctx) : (s.modCtx c x f).sched = s.sched := rfl
@[simp] theorem State.modCtx_ops (c x : Nat) (f : Ctx → Ctx) : (s.modCtx c x f).ops = s.ops := rfl
@[simp] theorem State.modCtx_flights (c x : Nat) (f : Ctx → Ctx) : (s.modCtx c x f).flights = s.flights := rfl
@[simp] theorem State.modCtx_shoots (c x : Nat) (f : Ctx → Ctx) : (s.modCtx c x f).shoots = s.shoots := rfl
@[simp] theorem State.modCtx_bankQ (c x : Nat) (f : Ctx → Ctx) : (s.modCtx c x f).bankQ = s.bankQ := rfl
@[simp] theorem State.modCtx_bankWait (c x : Nat) (f : Ctx → Ctx) : (s.modCtx c x f).bankWait = s.bankWait := rfl
@[simp] theorem State.modCtx_frontier (c x : Nat) (f : Ctx → Ctx) : (s.modCtx c x f).frontier = s.frontier := rfl
@[simp] theorem State.modCtx_agenda (c x : Nat) (f : Ctx → Ctx) : (s.modCtx c x f).agenda = s.agenda := rfl
@[simp] theorem State.modCtx_laterSteps (c x : Nat) (f : Ctx → Ctx) : (s.modCtx c x f).laterSteps = s.laterSteps := rfl
@[simp] theorem State.modCtx_arg (c x : Nat) (f : Ctx → Ctx) : (s.modCtx c x f).arg = s.arg := rfl
@[simp] theorem State.modCtx_turn (c x : Nat) (f : Ctx → Ctx) : (s.modCtx c x f).turn = s.turn := rfl
@[simp] theorem State.modCtx_latch (c x : Nat) (f : Ctx → Ctx) : (s.modCtx c x f).latch = s.latch := rfl
@[simp] theorem State.modCtx_nextOp (c x : Nat) (f : Ctx → Ctx) : (s.modCtx c x f).nextOp = s.nextOp := rfl
@[simp] theorem State.modCtx_draw (c x : Nat) (f : Ctx → Ctx) : (s.modCtx c x f).draw = s.draw := rfl

@[simp] theorem State.modCluster_mem (k : Nat) (f : Cluster → Cluster) : (s.modCluster k f).mem = s.mem := rfl
@[simp] theorem State.modCluster_full (k : Nat) (f : Cluster → Cluster) : (s.modCluster k f).full = s.full := rfl
@[simp] theorem State.modCluster_poison (k : Nat) (f : Cluster → Cluster) : (s.modCluster k f).poison = s.poison := rfl
@[simp] theorem State.modCluster_threads (k : Nat) (f : Cluster → Cluster) : (s.modCluster k f).threads = s.threads := rfl
@[simp] theorem State.modCluster_cores (k : Nat) (f : Cluster → Cluster) : (s.modCluster k f).cores = s.cores := rfl
@[simp] theorem State.modCluster_ctxs (k : Nat) (f : Cluster → Cluster) : (s.modCluster k f).ctxs = s.ctxs := rfl
@[simp] theorem State.modCluster_ropes (k : Nat) (f : Cluster → Cluster) : (s.modCluster k f).ropes = s.ropes := rfl
@[simp] theorem State.modCluster_dev (k : Nat) (f : Cluster → Cluster) : (s.modCluster k f).dev = s.dev := rfl
@[simp] theorem State.modCluster_sched (k : Nat) (f : Cluster → Cluster) : (s.modCluster k f).sched = s.sched := rfl
@[simp] theorem State.modCluster_ops (k : Nat) (f : Cluster → Cluster) : (s.modCluster k f).ops = s.ops := rfl
@[simp] theorem State.modCluster_flights (k : Nat) (f : Cluster → Cluster) : (s.modCluster k f).flights = s.flights := rfl
@[simp] theorem State.modCluster_shoots (k : Nat) (f : Cluster → Cluster) : (s.modCluster k f).shoots = s.shoots := rfl
@[simp] theorem State.modCluster_bankQ (k : Nat) (f : Cluster → Cluster) : (s.modCluster k f).bankQ = s.bankQ := rfl
@[simp] theorem State.modCluster_bankWait (k : Nat) (f : Cluster → Cluster) : (s.modCluster k f).bankWait = s.bankWait := rfl
@[simp] theorem State.modCluster_frontier (k : Nat) (f : Cluster → Cluster) : (s.modCluster k f).frontier = s.frontier := rfl
@[simp] theorem State.modCluster_agenda (k : Nat) (f : Cluster → Cluster) : (s.modCluster k f).agenda = s.agenda := rfl
@[simp] theorem State.modCluster_laterSteps (k : Nat) (f : Cluster → Cluster) : (s.modCluster k f).laterSteps = s.laterSteps := rfl
@[simp] theorem State.modCluster_arg (k : Nat) (f : Cluster → Cluster) : (s.modCluster k f).arg = s.arg := rfl
@[simp] theorem State.modCluster_turn (k : Nat) (f : Cluster → Cluster) : (s.modCluster k f).turn = s.turn := rfl
@[simp] theorem State.modCluster_latch (k : Nat) (f : Cluster → Cluster) : (s.modCluster k f).latch = s.latch := rfl
@[simp] theorem State.modCluster_nextOp (k : Nat) (f : Cluster → Cluster) : (s.modCluster k f).nextOp = s.nextOp := rfl
@[simp] theorem State.modCluster_draw (k : Nat) (f : Cluster → Cluster) : (s.modCluster k f).draw = s.draw := rfl

@[simp] theorem State.modRope_mem (n : Nat) (f : Rope → Rope) : (s.modRope n f).mem = s.mem := rfl
@[simp] theorem State.modRope_full (n : Nat) (f : Rope → Rope) : (s.modRope n f).full = s.full := rfl
@[simp] theorem State.modRope_poison (n : Nat) (f : Rope → Rope) : (s.modRope n f).poison = s.poison := rfl
@[simp] theorem State.modRope_threads (n : Nat) (f : Rope → Rope) : (s.modRope n f).threads = s.threads := rfl
@[simp] theorem State.modRope_cores (n : Nat) (f : Rope → Rope) : (s.modRope n f).cores = s.cores := rfl
@[simp] theorem State.modRope_ctxs (n : Nat) (f : Rope → Rope) : (s.modRope n f).ctxs = s.ctxs := rfl
@[simp] theorem State.modRope_clusters (n : Nat) (f : Rope → Rope) : (s.modRope n f).clusters = s.clusters := rfl
@[simp] theorem State.modRope_dev (n : Nat) (f : Rope → Rope) : (s.modRope n f).dev = s.dev := rfl
@[simp] theorem State.modRope_sched (n : Nat) (f : Rope → Rope) : (s.modRope n f).sched = s.sched := rfl
@[simp] theorem State.modRope_ops (n : Nat) (f : Rope → Rope) : (s.modRope n f).ops = s.ops := rfl
@[simp] theorem State.modRope_flights (n : Nat) (f : Rope → Rope) : (s.modRope n f).flights = s.flights := rfl
@[simp] theorem State.modRope_shoots (n : Nat) (f : Rope → Rope) : (s.modRope n f).shoots = s.shoots := rfl
@[simp] theorem State.modRope_bankQ (n : Nat) (f : Rope → Rope) : (s.modRope n f).bankQ = s.bankQ := rfl
@[simp] theorem State.modRope_bankWait (n : Nat) (f : Rope → Rope) : (s.modRope n f).bankWait = s.bankWait := rfl
@[simp] theorem State.modRope_frontier (n : Nat) (f : Rope → Rope) : (s.modRope n f).frontier = s.frontier := rfl
@[simp] theorem State.modRope_agenda (n : Nat) (f : Rope → Rope) : (s.modRope n f).agenda = s.agenda := rfl
@[simp] theorem State.modRope_laterSteps (n : Nat) (f : Rope → Rope) : (s.modRope n f).laterSteps = s.laterSteps := rfl
@[simp] theorem State.modRope_arg (n : Nat) (f : Rope → Rope) : (s.modRope n f).arg = s.arg := rfl
@[simp] theorem State.modRope_turn (n : Nat) (f : Rope → Rope) : (s.modRope n f).turn = s.turn := rfl
@[simp] theorem State.modRope_latch (n : Nat) (f : Rope → Rope) : (s.modRope n f).latch = s.latch := rfl
@[simp] theorem State.modRope_nextOp (n : Nat) (f : Rope → Rope) : (s.modRope n f).nextOp = s.nextOp := rfl
@[simp] theorem State.modRope_draw (n : Nat) (f : Rope → Rope) : (s.modRope n f).draw = s.draw := rfl

@[simp] theorem State.modLease_mem (l : Nat) (f : Lease → Lease) : (s.modLease l f).mem = s.mem := rfl
@[simp] theorem State.modLease_full (l : Nat) (f : Lease → Lease) : (s.modLease l f).full = s.full := rfl
@[simp] theorem State.modLease_poison (l : Nat) (f : Lease → Lease) : (s.modLease l f).poison = s.poison := rfl
@[simp] theorem State.modLease_threads (l : Nat) (f : Lease → Lease) : (s.modLease l f).threads = s.threads := rfl
@[simp] theorem State.modLease_cores (l : Nat) (f : Lease → Lease) : (s.modLease l f).cores = s.cores := rfl
@[simp] theorem State.modLease_ctxs (l : Nat) (f : Lease → Lease) : (s.modLease l f).ctxs = s.ctxs := rfl
@[simp] theorem State.modLease_clusters (l : Nat) (f : Lease → Lease) : (s.modLease l f).clusters = s.clusters := rfl
@[simp] theorem State.modLease_ropes (l : Nat) (f : Lease → Lease) : (s.modLease l f).ropes = s.ropes := rfl
@[simp] theorem State.modLease_dev (l : Nat) (f : Lease → Lease) : (s.modLease l f).dev = s.dev := rfl
@[simp] theorem State.modLease_ops (l : Nat) (f : Lease → Lease) : (s.modLease l f).ops = s.ops := rfl
@[simp] theorem State.modLease_flights (l : Nat) (f : Lease → Lease) : (s.modLease l f).flights = s.flights := rfl
@[simp] theorem State.modLease_shoots (l : Nat) (f : Lease → Lease) : (s.modLease l f).shoots = s.shoots := rfl
@[simp] theorem State.modLease_bankQ (l : Nat) (f : Lease → Lease) : (s.modLease l f).bankQ = s.bankQ := rfl
@[simp] theorem State.modLease_bankWait (l : Nat) (f : Lease → Lease) : (s.modLease l f).bankWait = s.bankWait := rfl
@[simp] theorem State.modLease_frontier (l : Nat) (f : Lease → Lease) : (s.modLease l f).frontier = s.frontier := rfl
@[simp] theorem State.modLease_agenda (l : Nat) (f : Lease → Lease) : (s.modLease l f).agenda = s.agenda := rfl
@[simp] theorem State.modLease_laterSteps (l : Nat) (f : Lease → Lease) : (s.modLease l f).laterSteps = s.laterSteps := rfl
@[simp] theorem State.modLease_arg (l : Nat) (f : Lease → Lease) : (s.modLease l f).arg = s.arg := rfl
@[simp] theorem State.modLease_turn (l : Nat) (f : Lease → Lease) : (s.modLease l f).turn = s.turn := rfl
@[simp] theorem State.modLease_latch (l : Nat) (f : Lease → Lease) : (s.modLease l f).latch = s.latch := rfl
@[simp] theorem State.modLease_nextOp (l : Nat) (f : Lease → Lease) : (s.modLease l f).nextOp = s.nextOp := rfl
@[simp] theorem State.modLease_draw (l : Nat) (f : Lease → Lease) : (s.modLease l f).draw = s.draw := rfl

@[simp] theorem State.modHctx_mem (n : Nat) (f : HCtx → HCtx) : (s.modHctx n f).mem = s.mem := rfl
@[simp] theorem State.modHctx_full (n : Nat) (f : HCtx → HCtx) : (s.modHctx n f).full = s.full := rfl
@[simp] theorem State.modHctx_poison (n : Nat) (f : HCtx → HCtx) : (s.modHctx n f).poison = s.poison := rfl
@[simp] theorem State.modHctx_threads (n : Nat) (f : HCtx → HCtx) : (s.modHctx n f).threads = s.threads := rfl
@[simp] theorem State.modHctx_cores (n : Nat) (f : HCtx → HCtx) : (s.modHctx n f).cores = s.cores := rfl
@[simp] theorem State.modHctx_ctxs (n : Nat) (f : HCtx → HCtx) : (s.modHctx n f).ctxs = s.ctxs := rfl
@[simp] theorem State.modHctx_clusters (n : Nat) (f : HCtx → HCtx) : (s.modHctx n f).clusters = s.clusters := rfl
@[simp] theorem State.modHctx_ropes (n : Nat) (f : HCtx → HCtx) : (s.modHctx n f).ropes = s.ropes := rfl
@[simp] theorem State.modHctx_dev (n : Nat) (f : HCtx → HCtx) : (s.modHctx n f).dev = s.dev := rfl
@[simp] theorem State.modHctx_ops (n : Nat) (f : HCtx → HCtx) : (s.modHctx n f).ops = s.ops := rfl
@[simp] theorem State.modHctx_flights (n : Nat) (f : HCtx → HCtx) : (s.modHctx n f).flights = s.flights := rfl
@[simp] theorem State.modHctx_shoots (n : Nat) (f : HCtx → HCtx) : (s.modHctx n f).shoots = s.shoots := rfl
@[simp] theorem State.modHctx_bankQ (n : Nat) (f : HCtx → HCtx) : (s.modHctx n f).bankQ = s.bankQ := rfl
@[simp] theorem State.modHctx_bankWait (n : Nat) (f : HCtx → HCtx) : (s.modHctx n f).bankWait = s.bankWait := rfl
@[simp] theorem State.modHctx_frontier (n : Nat) (f : HCtx → HCtx) : (s.modHctx n f).frontier = s.frontier := rfl
@[simp] theorem State.modHctx_agenda (n : Nat) (f : HCtx → HCtx) : (s.modHctx n f).agenda = s.agenda := rfl
@[simp] theorem State.modHctx_laterSteps (n : Nat) (f : HCtx → HCtx) : (s.modHctx n f).laterSteps = s.laterSteps := rfl
@[simp] theorem State.modHctx_arg (n : Nat) (f : HCtx → HCtx) : (s.modHctx n f).arg = s.arg := rfl
@[simp] theorem State.modHctx_turn (n : Nat) (f : HCtx → HCtx) : (s.modHctx n f).turn = s.turn := rfl
@[simp] theorem State.modHctx_latch (n : Nat) (f : HCtx → HCtx) : (s.modHctx n f).latch = s.latch := rfl
@[simp] theorem State.modHctx_nextOp (n : Nat) (f : HCtx → HCtx) : (s.modHctx n f).nextOp = s.nextOp := rfl
@[simp] theorem State.modHctx_draw (n : Nat) (f : HCtx → HCtx) : (s.modHctx n f).draw = s.draw := rfl

@[simp] theorem State.modSubq_mem (n : Nat) (f : SubQ → SubQ) : (s.modSubq n f).mem = s.mem := rfl
@[simp] theorem State.modSubq_full (n : Nat) (f : SubQ → SubQ) : (s.modSubq n f).full = s.full := rfl
@[simp] theorem State.modSubq_poison (n : Nat) (f : SubQ → SubQ) : (s.modSubq n f).poison = s.poison := rfl
@[simp] theorem State.modSubq_threads (n : Nat) (f : SubQ → SubQ) : (s.modSubq n f).threads = s.threads := rfl
@[simp] theorem State.modSubq_cores (n : Nat) (f : SubQ → SubQ) : (s.modSubq n f).cores = s.cores := rfl
@[simp] theorem State.modSubq_ctxs (n : Nat) (f : SubQ → SubQ) : (s.modSubq n f).ctxs = s.ctxs := rfl
@[simp] theorem State.modSubq_clusters (n : Nat) (f : SubQ → SubQ) : (s.modSubq n f).clusters = s.clusters := rfl
@[simp] theorem State.modSubq_ropes (n : Nat) (f : SubQ → SubQ) : (s.modSubq n f).ropes = s.ropes := rfl
@[simp] theorem State.modSubq_dev (n : Nat) (f : SubQ → SubQ) : (s.modSubq n f).dev = s.dev := rfl
@[simp] theorem State.modSubq_ops (n : Nat) (f : SubQ → SubQ) : (s.modSubq n f).ops = s.ops := rfl
@[simp] theorem State.modSubq_flights (n : Nat) (f : SubQ → SubQ) : (s.modSubq n f).flights = s.flights := rfl
@[simp] theorem State.modSubq_shoots (n : Nat) (f : SubQ → SubQ) : (s.modSubq n f).shoots = s.shoots := rfl
@[simp] theorem State.modSubq_bankQ (n : Nat) (f : SubQ → SubQ) : (s.modSubq n f).bankQ = s.bankQ := rfl
@[simp] theorem State.modSubq_bankWait (n : Nat) (f : SubQ → SubQ) : (s.modSubq n f).bankWait = s.bankWait := rfl
@[simp] theorem State.modSubq_frontier (n : Nat) (f : SubQ → SubQ) : (s.modSubq n f).frontier = s.frontier := rfl
@[simp] theorem State.modSubq_agenda (n : Nat) (f : SubQ → SubQ) : (s.modSubq n f).agenda = s.agenda := rfl
@[simp] theorem State.modSubq_laterSteps (n : Nat) (f : SubQ → SubQ) : (s.modSubq n f).laterSteps = s.laterSteps := rfl
@[simp] theorem State.modSubq_arg (n : Nat) (f : SubQ → SubQ) : (s.modSubq n f).arg = s.arg := rfl
@[simp] theorem State.modSubq_turn (n : Nat) (f : SubQ → SubQ) : (s.modSubq n f).turn = s.turn := rfl
@[simp] theorem State.modSubq_latch (n : Nat) (f : SubQ → SubQ) : (s.modSubq n f).latch = s.latch := rfl
@[simp] theorem State.modSubq_nextOp (n : Nat) (f : SubQ → SubQ) : (s.modSubq n f).nextOp = s.nextOp := rfl
@[simp] theorem State.modSubq_draw (n : Nat) (f : SubQ → SubQ) : (s.modSubq n f).draw = s.draw := rfl

@[simp] theorem State.modSched_mem (f : Sched → Sched) : (s.modSched f).mem = s.mem := rfl
@[simp] theorem State.modSched_full (f : Sched → Sched) : (s.modSched f).full = s.full := rfl
@[simp] theorem State.modSched_poison (f : Sched → Sched) : (s.modSched f).poison = s.poison := rfl
@[simp] theorem State.modSched_threads (f : Sched → Sched) : (s.modSched f).threads = s.threads := rfl
@[simp] theorem State.modSched_cores (f : Sched → Sched) : (s.modSched f).cores = s.cores := rfl
@[simp] theorem State.modSched_ctxs (f : Sched → Sched) : (s.modSched f).ctxs = s.ctxs := rfl
@[simp] theorem State.modSched_clusters (f : Sched → Sched) : (s.modSched f).clusters = s.clusters := rfl
@[simp] theorem State.modSched_ropes (f : Sched → Sched) : (s.modSched f).ropes = s.ropes := rfl
@[simp] theorem State.modSched_dev (f : Sched → Sched) : (s.modSched f).dev = s.dev := rfl
@[simp] theorem State.modSched_ops (f : Sched → Sched) : (s.modSched f).ops = s.ops := rfl
@[simp] theorem State.modSched_flights (f : Sched → Sched) : (s.modSched f).flights = s.flights := rfl
@[simp] theorem State.modSched_shoots (f : Sched → Sched) : (s.modSched f).shoots = s.shoots := rfl
@[simp] theorem State.modSched_bankQ (f : Sched → Sched) : (s.modSched f).bankQ = s.bankQ := rfl
@[simp] theorem State.modSched_bankWait (f : Sched → Sched) : (s.modSched f).bankWait = s.bankWait := rfl
@[simp] theorem State.modSched_frontier (f : Sched → Sched) : (s.modSched f).frontier = s.frontier := rfl
@[simp] theorem State.modSched_agenda (f : Sched → Sched) : (s.modSched f).agenda = s.agenda := rfl
@[simp] theorem State.modSched_laterSteps (f : Sched → Sched) : (s.modSched f).laterSteps = s.laterSteps := rfl
@[simp] theorem State.modSched_arg (f : Sched → Sched) : (s.modSched f).arg = s.arg := rfl
@[simp] theorem State.modSched_turn (f : Sched → Sched) : (s.modSched f).turn = s.turn := rfl
@[simp] theorem State.modSched_latch (f : Sched → Sched) : (s.modSched f).latch = s.latch := rfl
@[simp] theorem State.modSched_nextOp (f : Sched → Sched) : (s.modSched f).nextOp = s.nextOp := rfl
@[simp] theorem State.modSched_draw (f : Sched → Sched) : (s.modSched f).draw = s.draw := rfl

@[simp] theorem State.modDev_mem (f : Dev → Dev) : (s.modDev f).mem = s.mem := rfl
@[simp] theorem State.modDev_full (f : Dev → Dev) : (s.modDev f).full = s.full := rfl
@[simp] theorem State.modDev_poison (f : Dev → Dev) : (s.modDev f).poison = s.poison := rfl
@[simp] theorem State.modDev_threads (f : Dev → Dev) : (s.modDev f).threads = s.threads := rfl
@[simp] theorem State.modDev_cores (f : Dev → Dev) : (s.modDev f).cores = s.cores := rfl
@[simp] theorem State.modDev_ctxs (f : Dev → Dev) : (s.modDev f).ctxs = s.ctxs := rfl
@[simp] theorem State.modDev_clusters (f : Dev → Dev) : (s.modDev f).clusters = s.clusters := rfl
@[simp] theorem State.modDev_ropes (f : Dev → Dev) : (s.modDev f).ropes = s.ropes := rfl
@[simp] theorem State.modDev_sched (f : Dev → Dev) : (s.modDev f).sched = s.sched := rfl
@[simp] theorem State.modDev_ops (f : Dev → Dev) : (s.modDev f).ops = s.ops := rfl
@[simp] theorem State.modDev_flights (f : Dev → Dev) : (s.modDev f).flights = s.flights := rfl
@[simp] theorem State.modDev_shoots (f : Dev → Dev) : (s.modDev f).shoots = s.shoots := rfl
@[simp] theorem State.modDev_bankQ (f : Dev → Dev) : (s.modDev f).bankQ = s.bankQ := rfl
@[simp] theorem State.modDev_bankWait (f : Dev → Dev) : (s.modDev f).bankWait = s.bankWait := rfl
@[simp] theorem State.modDev_frontier (f : Dev → Dev) : (s.modDev f).frontier = s.frontier := rfl
@[simp] theorem State.modDev_agenda (f : Dev → Dev) : (s.modDev f).agenda = s.agenda := rfl
@[simp] theorem State.modDev_laterSteps (f : Dev → Dev) : (s.modDev f).laterSteps = s.laterSteps := rfl
@[simp] theorem State.modDev_arg (f : Dev → Dev) : (s.modDev f).arg = s.arg := rfl
@[simp] theorem State.modDev_turn (f : Dev → Dev) : (s.modDev f).turn = s.turn := rfl
@[simp] theorem State.modDev_latch (f : Dev → Dev) : (s.modDev f).latch = s.latch := rfl
@[simp] theorem State.modDev_nextOp (f : Dev → Dev) : (s.modDev f).nextOp = s.nextOp := rfl
@[simp] theorem State.modDev_draw (f : Dev → Dev) : (s.modDev f).draw = s.draw := rfl

@[simp] theorem State.setCur_mem (t : Thread) : (s.setCur t).mem = s.mem := rfl
@[simp] theorem State.setCur_full (t : Thread) : (s.setCur t).full = s.full := rfl
@[simp] theorem State.setCur_poison (t : Thread) : (s.setCur t).poison = s.poison := rfl
@[simp] theorem State.setCur_cores (t : Thread) : (s.setCur t).cores = s.cores := rfl
@[simp] theorem State.setCur_ctxs (t : Thread) : (s.setCur t).ctxs = s.ctxs := rfl
@[simp] theorem State.setCur_clusters (t : Thread) : (s.setCur t).clusters = s.clusters := rfl
@[simp] theorem State.setCur_ropes (t : Thread) : (s.setCur t).ropes = s.ropes := rfl
@[simp] theorem State.setCur_dev (t : Thread) : (s.setCur t).dev = s.dev := rfl
@[simp] theorem State.setCur_sched (t : Thread) : (s.setCur t).sched = s.sched := rfl
@[simp] theorem State.setCur_ops (t : Thread) : (s.setCur t).ops = s.ops := rfl
@[simp] theorem State.setCur_flights (t : Thread) : (s.setCur t).flights = s.flights := rfl
@[simp] theorem State.setCur_shoots (t : Thread) : (s.setCur t).shoots = s.shoots := rfl
@[simp] theorem State.setCur_bankQ (t : Thread) : (s.setCur t).bankQ = s.bankQ := rfl
@[simp] theorem State.setCur_bankWait (t : Thread) : (s.setCur t).bankWait = s.bankWait := rfl
@[simp] theorem State.setCur_frontier (t : Thread) : (s.setCur t).frontier = s.frontier := rfl
@[simp] theorem State.setCur_agenda (t : Thread) : (s.setCur t).agenda = s.agenda := rfl
@[simp] theorem State.setCur_laterSteps (t : Thread) : (s.setCur t).laterSteps = s.laterSteps := rfl
@[simp] theorem State.setCur_arg (t : Thread) : (s.setCur t).arg = s.arg := rfl
@[simp] theorem State.setCur_turn (t : Thread) : (s.setCur t).turn = s.turn := rfl
@[simp] theorem State.setCur_latch (t : Thread) : (s.setCur t).latch = s.latch := rfl
@[simp] theorem State.setCur_nextOp (t : Thread) : (s.setCur t).nextOp = s.nextOp := rfl
@[simp] theorem State.setCur_draw (t : Thread) : (s.setCur t).draw = s.draw := rfl

@[simp] theorem State.modCur_mem (f : Thread → Thread) : (s.modCur f).mem = s.mem := rfl
@[simp] theorem State.modCur_full (f : Thread → Thread) : (s.modCur f).full = s.full := rfl
@[simp] theorem State.modCur_poison (f : Thread → Thread) : (s.modCur f).poison = s.poison := rfl
@[simp] theorem State.modCur_cores (f : Thread → Thread) : (s.modCur f).cores = s.cores := rfl
@[simp] theorem State.modCur_ctxs (f : Thread → Thread) : (s.modCur f).ctxs = s.ctxs := rfl
@[simp] theorem State.modCur_clusters (f : Thread → Thread) : (s.modCur f).clusters = s.clusters := rfl
@[simp] theorem State.modCur_ropes (f : Thread → Thread) : (s.modCur f).ropes = s.ropes := rfl
@[simp] theorem State.modCur_dev (f : Thread → Thread) : (s.modCur f).dev = s.dev := rfl
@[simp] theorem State.modCur_sched (f : Thread → Thread) : (s.modCur f).sched = s.sched := rfl
@[simp] theorem State.modCur_ops (f : Thread → Thread) : (s.modCur f).ops = s.ops := rfl
@[simp] theorem State.modCur_flights (f : Thread → Thread) : (s.modCur f).flights = s.flights := rfl
@[simp] theorem State.modCur_shoots (f : Thread → Thread) : (s.modCur f).shoots = s.shoots := rfl
@[simp] theorem State.modCur_bankQ (f : Thread → Thread) : (s.modCur f).bankQ = s.bankQ := rfl
@[simp] theorem State.modCur_bankWait (f : Thread → Thread) : (s.modCur f).bankWait = s.bankWait := rfl
@[simp] theorem State.modCur_frontier (f : Thread → Thread) : (s.modCur f).frontier = s.frontier := rfl
@[simp] theorem State.modCur_agenda (f : Thread → Thread) : (s.modCur f).agenda = s.agenda := rfl
@[simp] theorem State.modCur_laterSteps (f : Thread → Thread) : (s.modCur f).laterSteps = s.laterSteps := rfl
@[simp] theorem State.modCur_arg (f : Thread → Thread) : (s.modCur f).arg = s.arg := rfl
@[simp] theorem State.modCur_turn (f : Thread → Thread) : (s.modCur f).turn = s.turn := rfl
@[simp] theorem State.modCur_latch (f : Thread → Thread) : (s.modCur f).latch = s.latch := rfl
@[simp] theorem State.modCur_nextOp (f : Thread → Thread) : (s.modCur f).nextOp = s.nextOp := rfl
@[simp] theorem State.modCur_draw (f : Thread → Thread) : (s.modCur f).draw = s.draw := rfl

@[simp] theorem State.setOp_mem (o : Op) : (s.setOp o).mem = s.mem := rfl
@[simp] theorem State.setOp_full (o : Op) : (s.setOp o).full = s.full := rfl
@[simp] theorem State.setOp_poison (o : Op) : (s.setOp o).poison = s.poison := rfl
@[simp] theorem State.setOp_threads (o : Op) : (s.setOp o).threads = s.threads := rfl
@[simp] theorem State.setOp_cores (o : Op) : (s.setOp o).cores = s.cores := rfl
@[simp] theorem State.setOp_ctxs (o : Op) : (s.setOp o).ctxs = s.ctxs := rfl
@[simp] theorem State.setOp_clusters (o : Op) : (s.setOp o).clusters = s.clusters := rfl
@[simp] theorem State.setOp_ropes (o : Op) : (s.setOp o).ropes = s.ropes := rfl
@[simp] theorem State.setOp_dev (o : Op) : (s.setOp o).dev = s.dev := rfl
@[simp] theorem State.setOp_sched (o : Op) : (s.setOp o).sched = s.sched := rfl
@[simp] theorem State.setOp_flights (o : Op) : (s.setOp o).flights = s.flights := rfl
@[simp] theorem State.setOp_shoots (o : Op) : (s.setOp o).shoots = s.shoots := rfl
@[simp] theorem State.setOp_bankQ (o : Op) : (s.setOp o).bankQ = s.bankQ := rfl
@[simp] theorem State.setOp_bankWait (o : Op) : (s.setOp o).bankWait = s.bankWait := rfl
@[simp] theorem State.setOp_frontier (o : Op) : (s.setOp o).frontier = s.frontier := rfl
@[simp] theorem State.setOp_agenda (o : Op) : (s.setOp o).agenda = s.agenda := rfl
@[simp] theorem State.setOp_laterSteps (o : Op) : (s.setOp o).laterSteps = s.laterSteps := rfl
@[simp] theorem State.setOp_arg (o : Op) : (s.setOp o).arg = s.arg := rfl
@[simp] theorem State.setOp_turn (o : Op) : (s.setOp o).turn = s.turn := rfl
@[simp] theorem State.setOp_latch (o : Op) : (s.setOp o).latch = s.latch := rfl
@[simp] theorem State.setOp_nextOp (o : Op) : (s.setOp o).nextOp = s.nextOp := rfl
@[simp] theorem State.setOp_draw (o : Op) : (s.setOp o).draw = s.draw := rfl

@[simp] theorem State.advance_mem : (s.advance ).mem = s.mem := rfl
@[simp] theorem State.advance_full : (s.advance ).full = s.full := rfl
@[simp] theorem State.advance_poison : (s.advance ).poison = s.poison := rfl
@[simp] theorem State.advance_cores : (s.advance ).cores = s.cores := rfl
@[simp] theorem State.advance_ctxs : (s.advance ).ctxs = s.ctxs := rfl
@[simp] theorem State.advance_clusters : (s.advance ).clusters = s.clusters := rfl
@[simp] theorem State.advance_ropes : (s.advance ).ropes = s.ropes := rfl
@[simp] theorem State.advance_dev : (s.advance ).dev = s.dev := rfl
@[simp] theorem State.advance_sched : (s.advance ).sched = s.sched := rfl
@[simp] theorem State.advance_ops : (s.advance ).ops = s.ops := rfl
@[simp] theorem State.advance_flights : (s.advance ).flights = s.flights := rfl
@[simp] theorem State.advance_shoots : (s.advance ).shoots = s.shoots := rfl
@[simp] theorem State.advance_bankQ : (s.advance ).bankQ = s.bankQ := rfl
@[simp] theorem State.advance_bankWait : (s.advance ).bankWait = s.bankWait := rfl
@[simp] theorem State.advance_frontier : (s.advance ).frontier = s.frontier := rfl
@[simp] theorem State.advance_agenda : (s.advance ).agenda = s.agenda := rfl
@[simp] theorem State.advance_laterSteps : (s.advance ).laterSteps = s.laterSteps := rfl
@[simp] theorem State.advance_arg : (s.advance ).arg = s.arg := rfl
@[simp] theorem State.advance_turn : (s.advance ).turn = s.turn := rfl
@[simp] theorem State.advance_latch : (s.advance ).latch = s.latch := rfl
@[simp] theorem State.advance_nextOp : (s.advance ).nextOp = s.nextOp := rfl
@[simp] theorem State.advance_draw : (s.advance ).draw = s.draw := rfl

@[simp] theorem State.jump_mem (t : Word) : (s.jump t).mem = s.mem := rfl
@[simp] theorem State.jump_full (t : Word) : (s.jump t).full = s.full := rfl
@[simp] theorem State.jump_poison (t : Word) : (s.jump t).poison = s.poison := rfl
@[simp] theorem State.jump_cores (t : Word) : (s.jump t).cores = s.cores := rfl
@[simp] theorem State.jump_ctxs (t : Word) : (s.jump t).ctxs = s.ctxs := rfl
@[simp] theorem State.jump_clusters (t : Word) : (s.jump t).clusters = s.clusters := rfl
@[simp] theorem State.jump_ropes (t : Word) : (s.jump t).ropes = s.ropes := rfl
@[simp] theorem State.jump_dev (t : Word) : (s.jump t).dev = s.dev := rfl
@[simp] theorem State.jump_sched (t : Word) : (s.jump t).sched = s.sched := rfl
@[simp] theorem State.jump_ops (t : Word) : (s.jump t).ops = s.ops := rfl
@[simp] theorem State.jump_flights (t : Word) : (s.jump t).flights = s.flights := rfl
@[simp] theorem State.jump_shoots (t : Word) : (s.jump t).shoots = s.shoots := rfl
@[simp] theorem State.jump_bankQ (t : Word) : (s.jump t).bankQ = s.bankQ := rfl
@[simp] theorem State.jump_bankWait (t : Word) : (s.jump t).bankWait = s.bankWait := rfl
@[simp] theorem State.jump_frontier (t : Word) : (s.jump t).frontier = s.frontier := rfl
@[simp] theorem State.jump_agenda (t : Word) : (s.jump t).agenda = s.agenda := rfl
@[simp] theorem State.jump_laterSteps (t : Word) : (s.jump t).laterSteps = s.laterSteps := rfl
@[simp] theorem State.jump_arg (t : Word) : (s.jump t).arg = s.arg := rfl
@[simp] theorem State.jump_turn (t : Word) : (s.jump t).turn = s.turn := rfl
@[simp] theorem State.jump_latch (t : Word) : (s.jump t).latch = s.latch := rfl
@[simp] theorem State.jump_nextOp (t : Word) : (s.jump t).nextOp = s.nextOp := rfl
@[simp] theorem State.jump_draw (t : Word) : (s.jump t).draw = s.draw := rfl

@[simp] theorem State.parkCur_mem (n : Nat) : (s.parkCur n).mem = s.mem := rfl
@[simp] theorem State.parkCur_full (n : Nat) : (s.parkCur n).full = s.full := rfl
@[simp] theorem State.parkCur_poison (n : Nat) : (s.parkCur n).poison = s.poison := rfl
@[simp] theorem State.parkCur_cores (n : Nat) : (s.parkCur n).cores = s.cores := rfl
@[simp] theorem State.parkCur_ctxs (n : Nat) : (s.parkCur n).ctxs = s.ctxs := rfl
@[simp] theorem State.parkCur_clusters (n : Nat) : (s.parkCur n).clusters = s.clusters := rfl
@[simp] theorem State.parkCur_ropes (n : Nat) : (s.parkCur n).ropes = s.ropes := rfl
@[simp] theorem State.parkCur_dev (n : Nat) : (s.parkCur n).dev = s.dev := rfl
@[simp] theorem State.parkCur_sched (n : Nat) : (s.parkCur n).sched = s.sched := rfl
@[simp] theorem State.parkCur_ops (n : Nat) : (s.parkCur n).ops = s.ops := rfl
@[simp] theorem State.parkCur_flights (n : Nat) : (s.parkCur n).flights = s.flights := rfl
@[simp] theorem State.parkCur_shoots (n : Nat) : (s.parkCur n).shoots = s.shoots := rfl
@[simp] theorem State.parkCur_bankQ (n : Nat) : (s.parkCur n).bankQ = s.bankQ := rfl
@[simp] theorem State.parkCur_bankWait (n : Nat) : (s.parkCur n).bankWait = s.bankWait := rfl
@[simp] theorem State.parkCur_frontier (n : Nat) : (s.parkCur n).frontier = s.frontier := rfl
@[simp] theorem State.parkCur_agenda (n : Nat) : (s.parkCur n).agenda = s.agenda := rfl
@[simp] theorem State.parkCur_laterSteps (n : Nat) : (s.parkCur n).laterSteps = s.laterSteps := rfl
@[simp] theorem State.parkCur_arg (n : Nat) : (s.parkCur n).arg = s.arg := rfl
@[simp] theorem State.parkCur_turn (n : Nat) : (s.parkCur n).turn = s.turn := rfl
@[simp] theorem State.parkCur_latch (n : Nat) : (s.parkCur n).latch = s.latch := rfl
@[simp] theorem State.parkCur_nextOp (n : Nat) : (s.parkCur n).nextOp = s.nextOp := rfl
@[simp] theorem State.parkCur_draw (n : Nat) : (s.parkCur n).draw = s.draw := rfl

@[simp] theorem State.doCall_mem (t : Word) : (s.doCall t).mem = s.mem := rfl
@[simp] theorem State.doCall_full (t : Word) : (s.doCall t).full = s.full := rfl
@[simp] theorem State.doCall_poison (t : Word) : (s.doCall t).poison = s.poison := rfl
@[simp] theorem State.doCall_cores (t : Word) : (s.doCall t).cores = s.cores := rfl
@[simp] theorem State.doCall_ctxs (t : Word) : (s.doCall t).ctxs = s.ctxs := rfl
@[simp] theorem State.doCall_clusters (t : Word) : (s.doCall t).clusters = s.clusters := rfl
@[simp] theorem State.doCall_ropes (t : Word) : (s.doCall t).ropes = s.ropes := rfl
@[simp] theorem State.doCall_dev (t : Word) : (s.doCall t).dev = s.dev := rfl
@[simp] theorem State.doCall_sched (t : Word) : (s.doCall t).sched = s.sched := rfl
@[simp] theorem State.doCall_ops (t : Word) : (s.doCall t).ops = s.ops := rfl
@[simp] theorem State.doCall_flights (t : Word) : (s.doCall t).flights = s.flights := rfl
@[simp] theorem State.doCall_shoots (t : Word) : (s.doCall t).shoots = s.shoots := rfl
@[simp] theorem State.doCall_bankQ (t : Word) : (s.doCall t).bankQ = s.bankQ := rfl
@[simp] theorem State.doCall_bankWait (t : Word) : (s.doCall t).bankWait = s.bankWait := rfl
@[simp] theorem State.doCall_frontier (t : Word) : (s.doCall t).frontier = s.frontier := rfl
@[simp] theorem State.doCall_agenda (t : Word) : (s.doCall t).agenda = s.agenda := rfl
@[simp] theorem State.doCall_laterSteps (t : Word) : (s.doCall t).laterSteps = s.laterSteps := rfl
@[simp] theorem State.doCall_arg (t : Word) : (s.doCall t).arg = s.arg := rfl
@[simp] theorem State.doCall_turn (t : Word) : (s.doCall t).turn = s.turn := rfl
@[simp] theorem State.doCall_latch (t : Word) : (s.doCall t).latch = s.latch := rfl
@[simp] theorem State.doCall_nextOp (t : Word) : (s.doCall t).nextOp = s.nextOp := rfl
@[simp] theorem State.doCall_draw (t : Word) : (s.doCall t).draw = s.draw := rfl

/-! ### What an update leaves in its own place -/

@[simp] theorem State.setThread_thread (c h d i : Nat) (t : Thread) :
    (s.setThread c h t).thread d i = if 256 * d + i = 256 * c + h then t else s.thread d i := by
  simp [State.setThread, State.thread]
@[simp] theorem State.modThread_thread (c h d i : Nat) (f : Thread → Thread) :
    (s.modThread c h f).thread d i = if 256 * d + i = 256 * c + h then f (s.thread c h) else s.thread d i := by
  simp [State.modThread]
@[simp] theorem State.setCore_core (c d : Nat) (k : Core) : (s.setCore c k).core d = if d = c then k else s.core d := by
  simp [State.setCore, State.core]
@[simp] theorem State.modCore_core (c d : Nat) (f : Core → Core) : (s.modCore c f).core d = if d = c then f (s.core c) else s.core d := by
  simp [State.modCore]
@[simp] theorem State.setCtx_ctx (c x d y : Nat) (k : Ctx) :
    (s.setCtx c x k).ctx d y = if 2 * d + y = 2 * c + x then k else s.ctx d y := by
  simp [State.setCtx, State.ctx]
@[simp] theorem State.modCtx_ctx (c x d y : Nat) (f : Ctx → Ctx) :
    (s.modCtx c x f).ctx d y = if 2 * d + y = 2 * c + x then f (s.ctx c x) else s.ctx d y := by
  simp [State.modCtx]
@[simp] theorem State.modCluster_cluster (k j : Nat) (f : Cluster → Cluster) :
    (s.modCluster k f).cluster j = if j = k then f (s.cluster k) else s.cluster j := by
  simp [State.modCluster, State.cluster]
@[simp] theorem State.modRope_rope (n m : Nat) (f : Rope → Rope) : (s.modRope n f).rope m = if m = n then f (s.rope n) else s.rope m := by
  simp [State.modRope, State.rope]
@[simp] theorem State.modLease_lease (l m : Nat) (f : Lease → Lease) : (s.modLease l f).lease m = if m = l then f (s.lease l) else s.lease m := by
  simp [State.modLease, State.lease]
@[simp] theorem State.modHctx_hctx (n m : Nat) (f : HCtx → HCtx) : (s.modHctx n f).hctx m = if m = n then f (s.hctx n) else s.hctx m := by
  simp [State.modHctx, State.hctx]
@[simp] theorem State.modSubq_subq (n m : Nat) (f : SubQ → SubQ) : (s.modSubq n f).subq m = if m = n then f (s.subq n) else s.subq m := by
  simp [State.modSubq, State.subq]
@[simp] theorem State.modDev_dev (f : Dev → Dev) : (s.modDev f).dev = f s.dev := rfl
@[simp] theorem State.modSched_sched (f : Sched → Sched) : (s.modSched f).sched = f s.sched := rfl
@[simp] theorem State.setCur_cur (t : Thread) : (s.setCur t).cur = t := by simp [State.setCur, State.cur]
@[simp] theorem State.modCur_cur (f : Thread → Thread) : (s.modCur f).cur = f s.cur := by simp [State.modCur]

/-! ### The same place of another kind -/

@[simp] theorem State.setThread_core_of (c h : Nat) (t : Thread) (d : Nat) : (s.setThread c h t).core d = s.core d := rfl
@[simp] theorem State.setThread_ctx_of (c h : Nat) (t : Thread) (d y : Nat) : (s.setThread c h t).ctx d y = s.ctx d y := rfl
@[simp] theorem State.setThread_cluster_of (c h : Nat) (t : Thread) (j : Nat) : (s.setThread c h t).cluster j = s.cluster j := rfl
@[simp] theorem State.setThread_rope_of (c h : Nat) (t : Thread) (m : Nat) : (s.setThread c h t).rope m = s.rope m := rfl
@[simp] theorem State.setThread_lease_of (c h : Nat) (t : Thread) (b : Nat) : (s.setThread c h t).lease b = s.lease b := rfl
@[simp] theorem State.setThread_hctx_of (c h : Nat) (t : Thread) (m : Nat) : (s.setThread c h t).hctx m = s.hctx m := rfl
@[simp] theorem State.setThread_subq_of (c h : Nat) (t : Thread) (m : Nat) : (s.setThread c h t).subq m = s.subq m := rfl

@[simp] theorem State.modThread_core_of (c h : Nat) (f : Thread → Thread) (d : Nat) : (s.modThread c h f).core d = s.core d := rfl
@[simp] theorem State.modThread_ctx_of (c h : Nat) (f : Thread → Thread) (d y : Nat) : (s.modThread c h f).ctx d y = s.ctx d y := rfl
@[simp] theorem State.modThread_cluster_of (c h : Nat) (f : Thread → Thread) (j : Nat) : (s.modThread c h f).cluster j = s.cluster j := rfl
@[simp] theorem State.modThread_rope_of (c h : Nat) (f : Thread → Thread) (m : Nat) : (s.modThread c h f).rope m = s.rope m := rfl
@[simp] theorem State.modThread_lease_of (c h : Nat) (f : Thread → Thread) (b : Nat) : (s.modThread c h f).lease b = s.lease b := rfl
@[simp] theorem State.modThread_hctx_of (c h : Nat) (f : Thread → Thread) (m : Nat) : (s.modThread c h f).hctx m = s.hctx m := rfl
@[simp] theorem State.modThread_subq_of (c h : Nat) (f : Thread → Thread) (m : Nat) : (s.modThread c h f).subq m = s.subq m := rfl

@[simp] theorem State.mapThreads_core_of (f : Thread → Thread) (d : Nat) : (s.mapThreads f).core d = s.core d := rfl
@[simp] theorem State.mapThreads_ctx_of (f : Thread → Thread) (d y : Nat) : (s.mapThreads f).ctx d y = s.ctx d y := rfl
@[simp] theorem State.mapThreads_cluster_of (f : Thread → Thread) (j : Nat) : (s.mapThreads f).cluster j = s.cluster j := rfl
@[simp] theorem State.mapThreads_rope_of (f : Thread → Thread) (m : Nat) : (s.mapThreads f).rope m = s.rope m := rfl
@[simp] theorem State.mapThreads_lease_of (f : Thread → Thread) (b : Nat) : (s.mapThreads f).lease b = s.lease b := rfl
@[simp] theorem State.mapThreads_hctx_of (f : Thread → Thread) (m : Nat) : (s.mapThreads f).hctx m = s.hctx m := rfl
@[simp] theorem State.mapThreads_subq_of (f : Thread → Thread) (m : Nat) : (s.mapThreads f).subq m = s.subq m := rfl

@[simp] theorem State.setCore_thread_of (c : Nat) (k : Core) (d i : Nat) : (s.setCore c k).thread d i = s.thread d i := rfl
@[simp] theorem State.setCore_ctx_of (c : Nat) (k : Core) (d y : Nat) : (s.setCore c k).ctx d y = s.ctx d y := rfl
@[simp] theorem State.setCore_cluster_of (c : Nat) (k : Core) (j : Nat) : (s.setCore c k).cluster j = s.cluster j := rfl
@[simp] theorem State.setCore_rope_of (c : Nat) (k : Core) (m : Nat) : (s.setCore c k).rope m = s.rope m := rfl
@[simp] theorem State.setCore_lease_of (c : Nat) (k : Core) (b : Nat) : (s.setCore c k).lease b = s.lease b := rfl
@[simp] theorem State.setCore_hctx_of (c : Nat) (k : Core) (m : Nat) : (s.setCore c k).hctx m = s.hctx m := rfl
@[simp] theorem State.setCore_subq_of (c : Nat) (k : Core) (m : Nat) : (s.setCore c k).subq m = s.subq m := rfl

@[simp] theorem State.modCore_thread_of (c : Nat) (f : Core → Core) (d i : Nat) : (s.modCore c f).thread d i = s.thread d i := rfl
@[simp] theorem State.modCore_ctx_of (c : Nat) (f : Core → Core) (d y : Nat) : (s.modCore c f).ctx d y = s.ctx d y := rfl
@[simp] theorem State.modCore_cluster_of (c : Nat) (f : Core → Core) (j : Nat) : (s.modCore c f).cluster j = s.cluster j := rfl
@[simp] theorem State.modCore_rope_of (c : Nat) (f : Core → Core) (m : Nat) : (s.modCore c f).rope m = s.rope m := rfl
@[simp] theorem State.modCore_lease_of (c : Nat) (f : Core → Core) (b : Nat) : (s.modCore c f).lease b = s.lease b := rfl
@[simp] theorem State.modCore_hctx_of (c : Nat) (f : Core → Core) (m : Nat) : (s.modCore c f).hctx m = s.hctx m := rfl
@[simp] theorem State.modCore_subq_of (c : Nat) (f : Core → Core) (m : Nat) : (s.modCore c f).subq m = s.subq m := rfl

@[simp] theorem State.setCtx_thread_of (c x : Nat) (k : Ctx) (d i : Nat) : (s.setCtx c x k).thread d i = s.thread d i := rfl
@[simp] theorem State.setCtx_core_of (c x : Nat) (k : Ctx) (d : Nat) : (s.setCtx c x k).core d = s.core d := rfl
@[simp] theorem State.setCtx_cluster_of (c x : Nat) (k : Ctx) (j : Nat) : (s.setCtx c x k).cluster j = s.cluster j := rfl
@[simp] theorem State.setCtx_rope_of (c x : Nat) (k : Ctx) (m : Nat) : (s.setCtx c x k).rope m = s.rope m := rfl
@[simp] theorem State.setCtx_lease_of (c x : Nat) (k : Ctx) (b : Nat) : (s.setCtx c x k).lease b = s.lease b := rfl
@[simp] theorem State.setCtx_hctx_of (c x : Nat) (k : Ctx) (m : Nat) : (s.setCtx c x k).hctx m = s.hctx m := rfl
@[simp] theorem State.setCtx_subq_of (c x : Nat) (k : Ctx) (m : Nat) : (s.setCtx c x k).subq m = s.subq m := rfl

@[simp] theorem State.modCtx_thread_of (c x : Nat) (f : Ctx → Ctx) (d i : Nat) : (s.modCtx c x f).thread d i = s.thread d i := rfl
@[simp] theorem State.modCtx_core_of (c x : Nat) (f : Ctx → Ctx) (d : Nat) : (s.modCtx c x f).core d = s.core d := rfl
@[simp] theorem State.modCtx_cluster_of (c x : Nat) (f : Ctx → Ctx) (j : Nat) : (s.modCtx c x f).cluster j = s.cluster j := rfl
@[simp] theorem State.modCtx_rope_of (c x : Nat) (f : Ctx → Ctx) (m : Nat) : (s.modCtx c x f).rope m = s.rope m := rfl
@[simp] theorem State.modCtx_lease_of (c x : Nat) (f : Ctx → Ctx) (b : Nat) : (s.modCtx c x f).lease b = s.lease b := rfl
@[simp] theorem State.modCtx_hctx_of (c x : Nat) (f : Ctx → Ctx) (m : Nat) : (s.modCtx c x f).hctx m = s.hctx m := rfl
@[simp] theorem State.modCtx_subq_of (c x : Nat) (f : Ctx → Ctx) (m : Nat) : (s.modCtx c x f).subq m = s.subq m := rfl

@[simp] theorem State.modCluster_thread_of (k : Nat) (f : Cluster → Cluster) (d i : Nat) : (s.modCluster k f).thread d i = s.thread d i := rfl
@[simp] theorem State.modCluster_core_of (k : Nat) (f : Cluster → Cluster) (d : Nat) : (s.modCluster k f).core d = s.core d := rfl
@[simp] theorem State.modCluster_ctx_of (k : Nat) (f : Cluster → Cluster) (d y : Nat) : (s.modCluster k f).ctx d y = s.ctx d y := rfl
@[simp] theorem State.modCluster_rope_of (k : Nat) (f : Cluster → Cluster) (m : Nat) : (s.modCluster k f).rope m = s.rope m := rfl
@[simp] theorem State.modCluster_lease_of (k : Nat) (f : Cluster → Cluster) (b : Nat) : (s.modCluster k f).lease b = s.lease b := rfl
@[simp] theorem State.modCluster_hctx_of (k : Nat) (f : Cluster → Cluster) (m : Nat) : (s.modCluster k f).hctx m = s.hctx m := rfl
@[simp] theorem State.modCluster_subq_of (k : Nat) (f : Cluster → Cluster) (m : Nat) : (s.modCluster k f).subq m = s.subq m := rfl

@[simp] theorem State.modRope_thread_of (n : Nat) (f : Rope → Rope) (d i : Nat) : (s.modRope n f).thread d i = s.thread d i := rfl
@[simp] theorem State.modRope_core_of (n : Nat) (f : Rope → Rope) (d : Nat) : (s.modRope n f).core d = s.core d := rfl
@[simp] theorem State.modRope_ctx_of (n : Nat) (f : Rope → Rope) (d y : Nat) : (s.modRope n f).ctx d y = s.ctx d y := rfl
@[simp] theorem State.modRope_cluster_of (n : Nat) (f : Rope → Rope) (j : Nat) : (s.modRope n f).cluster j = s.cluster j := rfl
@[simp] theorem State.modRope_lease_of (n : Nat) (f : Rope → Rope) (b : Nat) : (s.modRope n f).lease b = s.lease b := rfl
@[simp] theorem State.modRope_hctx_of (n : Nat) (f : Rope → Rope) (m : Nat) : (s.modRope n f).hctx m = s.hctx m := rfl
@[simp] theorem State.modRope_subq_of (n : Nat) (f : Rope → Rope) (m : Nat) : (s.modRope n f).subq m = s.subq m := rfl

@[simp] theorem State.modLease_thread_of (l : Nat) (f : Lease → Lease) (d i : Nat) : (s.modLease l f).thread d i = s.thread d i := rfl
@[simp] theorem State.modLease_core_of (l : Nat) (f : Lease → Lease) (d : Nat) : (s.modLease l f).core d = s.core d := rfl
@[simp] theorem State.modLease_ctx_of (l : Nat) (f : Lease → Lease) (d y : Nat) : (s.modLease l f).ctx d y = s.ctx d y := rfl
@[simp] theorem State.modLease_cluster_of (l : Nat) (f : Lease → Lease) (j : Nat) : (s.modLease l f).cluster j = s.cluster j := rfl
@[simp] theorem State.modLease_rope_of (l : Nat) (f : Lease → Lease) (m : Nat) : (s.modLease l f).rope m = s.rope m := rfl
@[simp] theorem State.modLease_hctx_of (l : Nat) (f : Lease → Lease) (m : Nat) : (s.modLease l f).hctx m = s.hctx m := rfl
@[simp] theorem State.modLease_subq_of (l : Nat) (f : Lease → Lease) (m : Nat) : (s.modLease l f).subq m = s.subq m := rfl

@[simp] theorem State.modHctx_thread_of (n : Nat) (f : HCtx → HCtx) (d i : Nat) : (s.modHctx n f).thread d i = s.thread d i := rfl
@[simp] theorem State.modHctx_core_of (n : Nat) (f : HCtx → HCtx) (d : Nat) : (s.modHctx n f).core d = s.core d := rfl
@[simp] theorem State.modHctx_ctx_of (n : Nat) (f : HCtx → HCtx) (d y : Nat) : (s.modHctx n f).ctx d y = s.ctx d y := rfl
@[simp] theorem State.modHctx_cluster_of (n : Nat) (f : HCtx → HCtx) (j : Nat) : (s.modHctx n f).cluster j = s.cluster j := rfl
@[simp] theorem State.modHctx_rope_of (n : Nat) (f : HCtx → HCtx) (m : Nat) : (s.modHctx n f).rope m = s.rope m := rfl
@[simp] theorem State.modHctx_lease_of (n : Nat) (f : HCtx → HCtx) (b : Nat) : (s.modHctx n f).lease b = s.lease b := rfl
@[simp] theorem State.modHctx_subq_of (n : Nat) (f : HCtx → HCtx) (m : Nat) : (s.modHctx n f).subq m = s.subq m := rfl

@[simp] theorem State.modSubq_thread_of (n : Nat) (f : SubQ → SubQ) (d i : Nat) : (s.modSubq n f).thread d i = s.thread d i := rfl
@[simp] theorem State.modSubq_core_of (n : Nat) (f : SubQ → SubQ) (d : Nat) : (s.modSubq n f).core d = s.core d := rfl
@[simp] theorem State.modSubq_ctx_of (n : Nat) (f : SubQ → SubQ) (d y : Nat) : (s.modSubq n f).ctx d y = s.ctx d y := rfl
@[simp] theorem State.modSubq_cluster_of (n : Nat) (f : SubQ → SubQ) (j : Nat) : (s.modSubq n f).cluster j = s.cluster j := rfl
@[simp] theorem State.modSubq_rope_of (n : Nat) (f : SubQ → SubQ) (m : Nat) : (s.modSubq n f).rope m = s.rope m := rfl
@[simp] theorem State.modSubq_lease_of (n : Nat) (f : SubQ → SubQ) (b : Nat) : (s.modSubq n f).lease b = s.lease b := rfl
@[simp] theorem State.modSubq_hctx_of (n : Nat) (f : SubQ → SubQ) (m : Nat) : (s.modSubq n f).hctx m = s.hctx m := rfl

@[simp] theorem State.modSched_thread_of (f : Sched → Sched) (d i : Nat) : (s.modSched f).thread d i = s.thread d i := rfl
@[simp] theorem State.modSched_core_of (f : Sched → Sched) (d : Nat) : (s.modSched f).core d = s.core d := rfl
@[simp] theorem State.modSched_ctx_of (f : Sched → Sched) (d y : Nat) : (s.modSched f).ctx d y = s.ctx d y := rfl
@[simp] theorem State.modSched_cluster_of (f : Sched → Sched) (j : Nat) : (s.modSched f).cluster j = s.cluster j := rfl
@[simp] theorem State.modSched_rope_of (f : Sched → Sched) (m : Nat) : (s.modSched f).rope m = s.rope m := rfl

@[simp] theorem State.modDev_thread_of (f : Dev → Dev) (d i : Nat) : (s.modDev f).thread d i = s.thread d i := rfl
@[simp] theorem State.modDev_core_of (f : Dev → Dev) (d : Nat) : (s.modDev f).core d = s.core d := rfl
@[simp] theorem State.modDev_ctx_of (f : Dev → Dev) (d y : Nat) : (s.modDev f).ctx d y = s.ctx d y := rfl
@[simp] theorem State.modDev_cluster_of (f : Dev → Dev) (j : Nat) : (s.modDev f).cluster j = s.cluster j := rfl
@[simp] theorem State.modDev_rope_of (f : Dev → Dev) (m : Nat) : (s.modDev f).rope m = s.rope m := rfl
@[simp] theorem State.modDev_lease_of (f : Dev → Dev) (b : Nat) : (s.modDev f).lease b = s.lease b := rfl
@[simp] theorem State.modDev_hctx_of (f : Dev → Dev) (m : Nat) : (s.modDev f).hctx m = s.hctx m := rfl
@[simp] theorem State.modDev_subq_of (f : Dev → Dev) (m : Nat) : (s.modDev f).subq m = s.subq m := rfl

@[simp] theorem State.setCur_core_of (t : Thread) (d : Nat) : (s.setCur t).core d = s.core d := rfl
@[simp] theorem State.setCur_ctx_of (t : Thread) (d y : Nat) : (s.setCur t).ctx d y = s.ctx d y := rfl
@[simp] theorem State.setCur_cluster_of (t : Thread) (j : Nat) : (s.setCur t).cluster j = s.cluster j := rfl
@[simp] theorem State.setCur_rope_of (t : Thread) (m : Nat) : (s.setCur t).rope m = s.rope m := rfl
@[simp] theorem State.setCur_lease_of (t : Thread) (b : Nat) : (s.setCur t).lease b = s.lease b := rfl
@[simp] theorem State.setCur_hctx_of (t : Thread) (m : Nat) : (s.setCur t).hctx m = s.hctx m := rfl
@[simp] theorem State.setCur_subq_of (t : Thread) (m : Nat) : (s.setCur t).subq m = s.subq m := rfl

@[simp] theorem State.modCur_core_of (f : Thread → Thread) (d : Nat) : (s.modCur f).core d = s.core d := rfl
@[simp] theorem State.modCur_ctx_of (f : Thread → Thread) (d y : Nat) : (s.modCur f).ctx d y = s.ctx d y := rfl
@[simp] theorem State.modCur_cluster_of (f : Thread → Thread) (j : Nat) : (s.modCur f).cluster j = s.cluster j := rfl
@[simp] theorem State.modCur_rope_of (f : Thread → Thread) (m : Nat) : (s.modCur f).rope m = s.rope m := rfl
@[simp] theorem State.modCur_lease_of (f : Thread → Thread) (b : Nat) : (s.modCur f).lease b = s.lease b := rfl
@[simp] theorem State.modCur_hctx_of (f : Thread → Thread) (m : Nat) : (s.modCur f).hctx m = s.hctx m := rfl
@[simp] theorem State.modCur_subq_of (f : Thread → Thread) (m : Nat) : (s.modCur f).subq m = s.subq m := rfl

@[simp] theorem State.setOp_thread_of (o : Op) (d i : Nat) : (s.setOp o).thread d i = s.thread d i := rfl
@[simp] theorem State.setOp_core_of (o : Op) (d : Nat) : (s.setOp o).core d = s.core d := rfl
@[simp] theorem State.setOp_ctx_of (o : Op) (d y : Nat) : (s.setOp o).ctx d y = s.ctx d y := rfl
@[simp] theorem State.setOp_cluster_of (o : Op) (j : Nat) : (s.setOp o).cluster j = s.cluster j := rfl
@[simp] theorem State.setOp_rope_of (o : Op) (m : Nat) : (s.setOp o).rope m = s.rope m := rfl
@[simp] theorem State.setOp_lease_of (o : Op) (b : Nat) : (s.setOp o).lease b = s.lease b := rfl
@[simp] theorem State.setOp_hctx_of (o : Op) (m : Nat) : (s.setOp o).hctx m = s.hctx m := rfl
@[simp] theorem State.setOp_subq_of (o : Op) (m : Nat) : (s.setOp o).subq m = s.subq m := rfl

@[simp] theorem State.advance_core_of  (d : Nat) : (s.advance ).core d = s.core d := rfl
@[simp] theorem State.advance_ctx_of  (d y : Nat) : (s.advance ).ctx d y = s.ctx d y := rfl
@[simp] theorem State.advance_cluster_of  (j : Nat) : (s.advance ).cluster j = s.cluster j := rfl
@[simp] theorem State.advance_rope_of  (m : Nat) : (s.advance ).rope m = s.rope m := rfl
@[simp] theorem State.advance_lease_of  (b : Nat) : (s.advance ).lease b = s.lease b := rfl
@[simp] theorem State.advance_hctx_of  (m : Nat) : (s.advance ).hctx m = s.hctx m := rfl
@[simp] theorem State.advance_subq_of  (m : Nat) : (s.advance ).subq m = s.subq m := rfl

@[simp] theorem State.jump_core_of (t : Word) (d : Nat) : (s.jump t).core d = s.core d := rfl
@[simp] theorem State.jump_ctx_of (t : Word) (d y : Nat) : (s.jump t).ctx d y = s.ctx d y := rfl
@[simp] theorem State.jump_cluster_of (t : Word) (j : Nat) : (s.jump t).cluster j = s.cluster j := rfl
@[simp] theorem State.jump_rope_of (t : Word) (m : Nat) : (s.jump t).rope m = s.rope m := rfl
@[simp] theorem State.jump_lease_of (t : Word) (b : Nat) : (s.jump t).lease b = s.lease b := rfl
@[simp] theorem State.jump_hctx_of (t : Word) (m : Nat) : (s.jump t).hctx m = s.hctx m := rfl
@[simp] theorem State.jump_subq_of (t : Word) (m : Nat) : (s.jump t).subq m = s.subq m := rfl

@[simp] theorem State.parkCur_core_of (n : Nat) (d : Nat) : (s.parkCur n).core d = s.core d := rfl
@[simp] theorem State.parkCur_ctx_of (n : Nat) (d y : Nat) : (s.parkCur n).ctx d y = s.ctx d y := rfl
@[simp] theorem State.parkCur_cluster_of (n : Nat) (j : Nat) : (s.parkCur n).cluster j = s.cluster j := rfl
@[simp] theorem State.parkCur_rope_of (n : Nat) (m : Nat) : (s.parkCur n).rope m = s.rope m := rfl
@[simp] theorem State.parkCur_lease_of (n : Nat) (b : Nat) : (s.parkCur n).lease b = s.lease b := rfl
@[simp] theorem State.parkCur_hctx_of (n : Nat) (m : Nat) : (s.parkCur n).hctx m = s.hctx m := rfl
@[simp] theorem State.parkCur_subq_of (n : Nat) (m : Nat) : (s.parkCur n).subq m = s.subq m := rfl

@[simp] theorem State.doCall_core_of (t : Word) (d : Nat) : (s.doCall t).core d = s.core d := rfl
@[simp] theorem State.doCall_ctx_of (t : Word) (d y : Nat) : (s.doCall t).ctx d y = s.ctx d y := rfl
@[simp] theorem State.doCall_cluster_of (t : Word) (j : Nat) : (s.doCall t).cluster j = s.cluster j := rfl
@[simp] theorem State.doCall_rope_of (t : Word) (m : Nat) : (s.doCall t).rope m = s.rope m := rfl
@[simp] theorem State.doCall_lease_of (t : Word) (b : Nat) : (s.doCall t).lease b = s.lease b := rfl
@[simp] theorem State.doCall_hctx_of (t : Word) (m : Nat) : (s.doCall t).hctx m = s.hctx m := rfl
@[simp] theorem State.doCall_subq_of (t : Word) (m : Nat) : (s.doCall t).subq m = s.subq m := rfl

end Sys2Proof.Machine
end

