-- ==== Sys2Proof/Laws/Memory.lean ====
section
/-! SUPPORT. Memory: its canonical form is kept by every operation that changes it, and a byte reads as it was last written. -/

namespace Sys2Proof.Machine

/-! ### The canonical form -/

theorem wfFrom_mono {m : List Host.Cell} {i j : Nat} (h : wfFrom j m = true) (hij : i ≤ j) : wfFrom i m = true := by
  cases m with
  | nil => rfl
  | cons p m =>
    obtain ⟨k, b⟩ := p
    simp only [wfFrom, Bool.and_eq_true, decide_eq_true_eq] at h ⊢
    exact ⟨⟨by omega, h.1.2⟩, h.2⟩

theorem memPut_wfFrom {m : List Host.Cell} {lo a : Nat} (b : Byte) (h : wfFrom lo m = true) (ha : lo ≤ a) :
    wfFrom lo (memPut a b m) = true := by
  induction m generalizing lo with
  | nil =>
    unfold memPut
    split
    · rfl
    · next hb => simp [wfFrom, ha, hb]
  | cons p m ih =>
    obtain ⟨k, w⟩ := p
    simp only [wfFrom, Bool.and_eq_true, decide_eq_true_eq] at h
    obtain ⟨⟨hk, hw⟩, hm⟩ := h
    unfold memPut
    split
    · next e =>
      split
      · exact wfFrom_mono hm (by omega)
      · next hb => subst e; simp [wfFrom, ha, hb, hm]
    · split
      · split
        · simp [wfFrom, hk, hm, bne_iff_ne.mp hw]
        · next hb =>
          simp only [wfFrom, Bool.and_eq_true, decide_eq_true_eq, bne_iff_ne]
          exact ⟨⟨ha, hb⟩, ⟨by omega, bne_iff_ne.mp hw⟩, hm⟩
      · simp only [wfFrom, Bool.and_eq_true, decide_eq_true_eq]
        exact ⟨⟨hk, hw⟩, ih hm (by omega)⟩

theorem memPut_wf {m : List Host.Cell} (a : Nat) (b : Byte) (h : Memory.wf m = true) : Memory.wf (memPut a b m) = true :=
  memPut_wfFrom b h (Nat.zero_le a)

theorem memPuts_wf {m : List Host.Cell} (a : Nat) (bs : List Byte) (h : Memory.wf m = true) : Memory.wf (memPuts a bs m) = true := by
  induction bs generalizing a m with
  | nil => exact h
  | cons b r ih => exact ih (a + 1) (memPut_wf a b h)

theorem wfFrom_filter {m : List Host.Cell} {lo : Nat} (p : Host.Cell → Bool) (h : wfFrom lo m = true) : wfFrom lo (m.filter p) = true := by
  induction m generalizing lo with
  | nil => rfl
  | cons x m ih =>
    obtain ⟨k, b⟩ := x
    simp only [wfFrom, Bool.and_eq_true, decide_eq_true_eq] at h
    by_cases hp : p (k, b) = true
    · simp only [List.filter_cons_of_pos hp, wfFrom, Bool.and_eq_true, decide_eq_true_eq]
      exact ⟨h.1, ih h.2⟩
    · rw [List.filter_cons_of_neg hp]
      exact wfFrom_mono (ih h.2) (by omega)

theorem foldl_memPut_wf (l : List Host.Cell) {m : List Host.Cell} (h : Memory.wf m = true) :
    Memory.wf (l.foldl (fun m p => memPut p.1 p.2 m) m) = true := by
  induction l generalizing m with
  | nil => exact h
  | cons p l ih => exact ih (memPut_wf p.1 p.2 h)

theorem cellsPut_wf (r : Nat × Nat) (l : List Host.Cell) {m : List Host.Cell} (h : Memory.wf m = true) : Memory.wf (cellsPut r l m) = true :=
  foldl_memPut_wf _ (wfFrom_filter _ h)

theorem cellsIn_wf (r : Nat × Nat) {m : List Host.Cell} (h : Memory.wf m = true) : Memory.wf (cellsIn r m) = true := wfFrom_filter _ h

theorem State.put_memOk {s : State} (a : Nat) (bs : List Byte) (h : s.MemOk) : (s.put a bs).MemOk := memPuts_wf a bs h

/-! ### Reading what was written -/

theorem memGet_below {m : List Host.Cell} {lo a : Nat} (h : wfFrom lo m = true) (ha : a < lo) : memGet a m = emptyByte := by
  cases m with
  | nil => rfl
  | cons p m =>
    obtain ⟨k, b⟩ := p
    simp only [wfFrom, Bool.and_eq_true, decide_eq_true_eq] at h
    rw [memGet, if_neg (by omega), if_pos (by omega)]

theorem memGet_memPut {m : List Host.Cell} {lo : Nat} (a c : Nat) (b : Byte) (h : wfFrom lo m = true) :
    memGet c (memPut a b m) = if c = a then b else memGet c m := by
  induction m generalizing lo with
  | nil =>
    unfold memPut
    split
    · next hb => simp [memGet, hb]
    · simp only [memGet]; split <;> split <;> simp_all <;> omega
  | cons p m ih =>
    obtain ⟨k, w⟩ := p
    simp only [wfFrom, Bool.and_eq_true, decide_eq_true_eq] at h
    obtain ⟨⟨hk, hw⟩, hm⟩ := h
    unfold memPut
    by_cases e : k = a
    · subst e
      rw [if_pos rfl]
      split
      · next hb =>
        by_cases hc : c = k
        · rw [if_pos hc, hc, memGet_below hm (by omega), hb]
        · rw [if_neg hc, memGet, if_neg (Ne.symm hc)]
          split
          · next hlt => exact memGet_below hm (by omega)
          · rfl
      · by_cases hc : c = k
        · rw [if_pos hc, memGet, if_pos hc.symm]
        · rw [if_neg hc, memGet, if_neg (Ne.symm hc), memGet, if_neg (Ne.symm hc)]
    · rw [if_neg e]
      by_cases hlt : a < k
      · rw [if_pos hlt]
        split
        · next hb =>
          by_cases hc : c = a
          · rw [if_pos hc, memGet, if_neg (by omega), if_pos (by omega), hb]
          · rw [if_neg hc]
        · by_cases hc : c = a
          · rw [if_pos hc, memGet, if_pos hc.symm]
          · rw [if_neg hc, memGet, if_neg (Ne.symm hc)]
            split
            · next h2 => rw [memGet, if_neg (by omega), if_pos (by omega)]
            · rfl
      · rw [if_neg hlt]
        by_cases hk2 : k = c
        · subst hk2; rw [memGet, if_pos rfl, if_neg e, memGet, if_pos rfl]
        · rw [memGet, if_neg hk2]
          split
          · next h2 => rw [if_neg (by omega), memGet, if_neg hk2, if_pos h2]
          · next h2 => rw [ih hm, memGet, if_neg hk2, if_neg h2]

theorem memGet_memPuts {m : List Host.Cell} (a c : Nat) (bs : List Byte) (h : Memory.wf m = true) :
    memGet c (memPuts a bs m) = if a ≤ c ∧ c < a + bs.length then bs.getD (c - a) emptyByte else memGet c m := by
  induction bs generalizing a m with
  | nil => simp only [memPuts, List.length_nil]; rw [if_neg (by omega)]
  | cons b r ih =>
    rw [memPuts, ih _ (memPut_wf a b h), memGet_memPut a c b h]
    simp only [List.length_cons]
    by_cases h1 : c = a
    · subst h1; simp
    · by_cases h2 : a + 1 ≤ c ∧ c < a + 1 + r.length
      · rw [if_pos h2, if_pos (by omega)]
        have e : c - a = (c - (a + 1)) + 1 := by omega
        rw [e, List.getD_cons_succ]
      · rw [if_neg h2, if_neg h1, if_neg (by omega)]

theorem State.put_byte {s : State} (a c : Nat) (bs : List Byte) (h : s.MemOk) :
    (s.put a bs).byte c = if a ≤ c ∧ c < a + bs.length then bs.getD (c - a) emptyByte else s.byte c := memGet_memPuts a c bs h

theorem State.put_byte_outside {s : State} {a c : Nat} (bs : List Byte) (h : s.MemOk) (hc : c < a ∨ a + bs.length ≤ c) :
    (s.put a bs).byte c = s.byte c := by
  rw [State.put_byte a c bs h, if_neg (by omega)]

theorem State.reset_memOk : State.reset.MemOk := rfl

end Sys2Proof.Machine
end

