-- ==== Sys2Proof/Laws/Run.lean ====
section
/-! SUPPORT. How a meaning runs: the laws of the monad its body is written in, of `runC` and `runA` in a lone bundle and in a pair, and of a step. -/

namespace Sys2Proof.Machine

/-! ### The monad -/

section
variable {α β : Type} {s t : State}

theorem Ex.bind_ok {x : Ex α} {f : α → Ex β} {a : α} (h : x s = .ok (a, t)) : (x >>= f) s = f a t := by
  simp only [bind, StateT.bind, h, Except.bind]

theorem Ex.bind_error {x : Ex α} {f : α → Ex β} {e : Stop} (h : x s = .error e) : (x >>= f) s = .error e := by
  simp only [bind, StateT.bind, h, Except.bind]

theorem Ex.bind_eq_ok {x : Ex α} {f : α → Ex β} {r : β × State} :
    (x >>= f) s = .ok r ↔ ∃ a t, x s = .ok (a, t) ∧ f a t = .ok r := by
  constructor
  · intro h
    cases hx : x s with
    | error e => rw [Ex.bind_error hx] at h; cases h
    | ok p => exact ⟨p.1, p.2, rfl, by rw [← Ex.bind_ok (f := f) hx]; exact h⟩
  · rintro ⟨a, t, hx, hf⟩
    rw [Ex.bind_ok hx, hf]

@[simp] theorem Ex.pure_run (a : α) : (pure a : Ex α) s = .ok (a, s) := rfl
@[simp] theorem Ex.get_run : (get : Ex State) s = .ok (s, s) := rfl
@[simp] theorem Ex.get_bind (f : State → Ex β) : ((get : Ex State) >>= f) s = f s s := rfl
@[simp] theorem Ex.set_run (u : State) : (set u : Ex PUnit) s = .ok (⟨⟩, u) := rfl
@[simp] theorem Ex.modify_run (f : State → State) : (modify f : Ex PUnit) s = .ok (⟨⟩, f s) := rfl
@[simp] theorem Ex.modify_bind (f : State → State) (g : PUnit → Ex β) : ((modify f : Ex PUnit) >>= g) s = g ⟨⟩ (f s) := rfl
@[simp] theorem Ex.pure_bind' (a : α) (f : α → Ex β) : ((pure a : Ex α) >>= f) s = f a s := rfl
@[simp] theorem Ex.throw_run (e : Stop) : (throw e : Ex α) s = .error e := rfl
@[simp] theorem Ex.throw_bind (e : Stop) (f : α → Ex β) : ((throw e : Ex α) >>= f) s = .error e := rfl
theorem park_run [Inhabited α] {n : Nat} (h : s.latch.skip = 0 ∨ n < s.latch.skip) : (park n : Ex α) s = .error (.park n id) := by
  simp only [park]; rw [if_neg (by omega)]
theorem park_passed [Inhabited α] {n : Nat} (h : s.latch.skip ≠ 0) (hn : s.latch.skip ≤ n) : (park n : Ex α) s = .ok (default, s) := by
  simp only [park]; rw [if_pos ⟨h, hn⟩]
@[simp] theorem park_zero [Inhabited α] : (park 0 : Ex α) s = .error (.park 0 id) := park_run (by omega)
theorem parkWith_run [Inhabited α] {n : Nat} (f : State → State) (h : s.latch.skip = 0 ∨ n < s.latch.skip) : (parkWith n f : Ex α) s = .error (.wait n f) := by
  simp only [parkWith]; rw [if_neg (by omega)]
@[simp] theorem trap_run (n : Nat) (v : Word) : (trap n v : Ex α) s = .error (.trap n v) := rfl
theorem park_bind [Inhabited α] {n : Nat} (f : α → Ex β) (h : s.latch.skip = 0 ∨ n < s.latch.skip) : ((park n : Ex α) >>= f) s = .error (.park n id) :=
  Ex.bind_error (park_run h)
theorem parkWith_bind [Inhabited α] {n : Nat} (g : State → State) (f : α → Ex β) (h : s.latch.skip = 0 ∨ n < s.latch.skip) :
    ((parkWith n g : Ex α) >>= f) s = .error (.wait n g) := Ex.bind_error (parkWith_run g h)
@[simp] theorem trap_bind (n : Nat) (v : Word) (f : α → Ex β) : ((trap n v : Ex α) >>= f) s = .error (.trap n v) := rfl
@[simp] theorem modCur_run (f : Thread → Thread) : modCur f s = .ok (⟨⟩, s.modCur f) := rfl
@[simp] theorem modCurCtx_run (f : Ctx → Ctx) : modCurCtx f s = .ok (⟨⟩, s.modCtx s.latch.core s.cur.x f) := rfl
@[simp] theorem modCurCore_run (f : Core → Core) : modCurCore f s = .ok (⟨⟩, s.modCore s.latch.core f) := rfl

end

/-! ### The wait slot (R40) -/

@[simp] theorem waitSlot_zero (s : State) : waitSlot 0 s = .ok ((), s) := rfl

theorem waitSlot_busy {s : State} {w : Nat} (h0 : w ≠ 0) (h : Table.get 0 w s.pre.sb ≠ 0) (hk : s.latch.skip = 0) : waitSlot w s = .error (.park 1 id) := by
  simp only [waitSlot, Ex.get_bind, h0, h, if_false, ne_eq, not_false_eq_true, if_true]
  exact park_run (.inl hk)

/-! ### The first cause of a park in the table of R337 -/

@[simp] theorem settled_trap (k : Nat) (v : Word) (body : Ex Unit) (s : State) : (Stop.trap k v).settled body s = .trap k v := rfl
@[simp] theorem settled_cause (z : Cause) (body : Ex Unit) (s : State) : (Stop.cause z).settled body s = .cause z := rfl
@[simp] theorem settled_late (f : State → State) (k : Nat) (v : Word) (body : Ex Unit) (s : State) :
    (Stop.late f k v).settled body s = .late f k v := rfl
@[simp] theorem settled_become (f : State → State) (body : Ex Unit) (s : State) : (Stop.become f).settled body s = .become f := rfl

/-- The body, once parks from `p` on are passed, parks with no earlier cause. -/
def noneBefore (body : Ex Unit) (s : State) (p : Nat) : Bool :=
  match body { s with latch := { s.latch with skip := p } } with
  | .error (.park q _) | .error (.wait q _) => decide (p ≤ q)
  | _ => true

theorem firstCause_self {body : Ex Unit} {s : State} {p : Nat} (n : Nat) (h : noneBefore body s p = true) : firstCause n body s p = p := by
  cases n with
  | zero => rfl
  | succ n =>
    simp only [noneBefore] at h
    simp only [firstCause]
    split
    · next q f he => simp only [he, decide_eq_true_eq] at h; rw [if_neg (by omega)]
    · next q f he => simp only [he, decide_eq_true_eq] at h; rw [if_neg (by omega)]
    · rfl

theorem settled_park {body : Ex Unit} {s : State} {p : Nat} {f : State → State} (h : noneBefore body s p = true) : (Stop.park p f).settled body s = .park p f := by
  simp only [Stop.settled, firstCause_self p h, if_true]
theorem settled_wait {body : Ex Unit} {s : State} {p : Nat} {f : State → State} (h : noneBefore body s p = true) : (Stop.wait p f).settled body s = .wait p f := by
  simp only [Stop.settled, firstCause_self p h, if_true]
@[simp] theorem settled_park_zero {body : Ex Unit} {s : State} {f : State → State} : (Stop.park 0 f).settled body s = .park 0 f := rfl

/-! ### A lone bundle -/

variable {w : Nat} {body : Ex Unit} {g : Guard} {s t : State} {e : Stop}

theorem runC_ok (hm : s.latch.mode = .lone) (he : s.latch.exec = true) (hw : waitSlot w s = .ok ((), s)) (hb : body s = .ok ((), t)) :
    runC w body s = .next t.finish := by
  simp only [runC, hm, Ex.bind_ok hw, he, if_true, hb]

/-- What a C-class meaning runs: its wait slot, and its body where its guard reads 1. -/
def actC (w : Nat) (body : Ex Unit) (s : State) : Ex Unit := do waitSlot w; if s.latch.exec then body else pure ()

theorem runC_stop (hm : s.latch.mode = .lone) (he : s.latch.exec = true) (hw : waitSlot w s = .ok ((), s)) (hb : body s = .error e)
    (hs : e.settled (actC w body s) s = e) : runC w body s = .next (s.stopped false e) := by
  have h : (actC w body s) s = .error e := by simp only [actC]; rw [Ex.bind_ok hw]; simp only [he, if_true, hb]
  simp only [actC] at h hs
  simp only [runC, hm, h, hs]

theorem runC_wait (hm : s.latch.mode = .lone) (hw : waitSlot w s = .error e) (hs : e.settled (actC w body s) s = e) :
    runC w body s = .next (s.stopped false e) := by
  have h : (actC w body s) s = .error e := by simp only [actC]; exact Ex.bind_error hw
  simp only [actC] at h hs
  simp only [runC, hm, h, hs]

theorem runA_ok (hm : s.latch.mode = .lone) (hg : guardOn g s.cur = true) (hb : body s = .ok ((), t)) : runA g body s = .next t.finish := by
  simp only [runA, hm, hg, if_true, hb]

theorem runA_stop (hm : s.latch.mode = .lone) (hg : guardOn g s.cur = true) (hb : body s = .error e) (hs : e.settled body s = e) :
    runA g body s = .next (s.stopped true e) := by
  simp only [runA, hm, hg, if_true, hb, hs]

theorem runA_off (hm : s.latch.mode = .lone) (hg : guardOn g s.cur = false) : runA g body s = .next s.finish := by
  simp [runA, hm, hg]

/-! ### A slot of a pair -/

theorem runC_pair_ok (hm : s.latch.mode ≠ .lone) (he : s.latch.exec = true) (hw : waitSlot w s = .ok ((), s)) (hb : body s = .ok ((), t)) :
    runC w body s = .next t := by
  cases h : s.latch.mode with
  | lone => exact absurd h hm
  | pairC | pairA => simp only [runC, h, Ex.bind_ok hw, he, if_true, hb]

theorem runA_pair_ok (hm : s.latch.mode ≠ .lone) (he : s.latch.exec = true) (hb : body s = .ok ((), t)) : runA g body s = .next t := by
  cases h : s.latch.mode with
  | lone => exact absurd h hm
  | pairC | pairA => simp only [runA, h, he, if_true, hb]

theorem runA_pair_off (hm : s.latch.mode ≠ .lone) (he : s.latch.exec = false) : runA g body s = .next s := by
  cases h : s.latch.mode with
  | lone => exact absurd h hm
  | pairC | pairA => simp [runA, h, he]

/-! ### Alone or in a pair -/

theorem runA_goes (hg : s.goesA g) (hb : body s = .ok ((), t)) : runA g body s = .next (s.ended t) := by
  unfold State.goesA at hg; unfold State.ended
  by_cases h : s.latch.mode = .lone
  · rw [if_pos h] at hg ⊢; exact runA_ok h hg hb
  · rw [if_neg h] at hg ⊢; exact runA_pair_ok h hg hb

theorem runC_goes (hg : s.goesC w) (hb : body s = .ok ((), t)) : runC w body s = .next (s.ended t) := by
  unfold State.ended
  by_cases h : s.latch.mode = .lone
  · rw [if_pos h]; exact runC_ok h hg.1 hg.2 hb
  · rw [if_neg h]; exact runC_pair_ok h hg.1 hg.2 hb

theorem issue_run (f : Op → Op) (k : OpKind) (s : State) :
    issue f s = .ok ((), s.withOp (f { s.newOp k with kind := .long })) := rfl

theorem issueTo_run {d : Nat} {f : Op → Op} {r : Dest} (h : reserve d s.nextOp s = .ok (r, t)) :
    issueTo d f s = .ok ((), t.withOp { f (t.newOp .long) with dest := r }) := by
  simp only [issueTo, Ex.get_bind, Ex.bind_ok h]; rfl

/-! ### No meaning of a word stops the machine -/

theorem runC_next (w : Nat) (body : Ex Unit) (s : State) : ∃ t, runC w body s = .next t := by
  simp only [runC]; split <;> exact ⟨_, rfl⟩

theorem runA_next (g : Guard) (body : Ex Unit) (s : State) : ∃ t, runA g body s = .next t := by
  simp only [runA]; repeat' split
  all_goals exact ⟨_, rfl⟩

/-! ### A step -/

theorem step_event {s : State} {i : Instr} {a : Arg} {l : List Event} (h : s.agenda = ⟨i, a⟩ :: l) :
    step s = exec i { s with agenda := l, arg := a } := by
  simp [step, h]

theorem andThen_next {f : State → Out} {r : State} : andThen (.next r) f = f r := rfl

/-- What a step can be: an event of the agenda, an issue, or the end of an s-cycle. -/
theorem step_cases (s : State) :
    (∃ e l, s.agenda = e :: l ∧ step s = exec e.ins { s with agenda := l, arg := e.arg }) ∨
    (∃ c p, s.agenda = [] ∧ s.choose c = some p ∧ step s = s.issueOn c p) ∨
    (s.agenda = [] ∧ step s = andThen (exec .sCycle { s with arg := {} }) fun r => .next r.nextCycle) := by
  cases h : s.agenda with
  | cons e l => exact .inl ⟨e, l, rfl, by simp [step, h]⟩
  | nil =>
    cases hf : (s.liveCores s.turn).findSome? fun c => (s.choose c).map fun p => (c, p) with
    | none => exact .inr (.inr ⟨rfl, by simp only [step, h, hf]⟩)
    | some q =>
      obtain ⟨c, p⟩ := q
      obtain ⟨d, -, hd⟩ := List.exists_of_findSome?_eq_some hf
      cases hc : s.choose d with
      | none => simp [hc] at hd
      | some r =>
        simp only [hc, Option.map_some, Option.some.injEq, Prod.mk.injEq] at hd
        obtain ⟨rfl, rfl⟩ := hd
        exact .inr (.inl ⟨d, r, rfl, hc, by simp only [step, h, hf]⟩)

end Sys2Proof.Machine
end

