-- ==== Sys2Proof/Laws/Operands.lean ====
section
/-! SUPPORT. What reading a source and writing a destination do, form by form, and what they leave as it was. -/

namespace Sys2Proof.Machine

variable {s t : State} {r d : Nat} {v : Word}

/-! ### Sources (R165, R187) -/

theorem readReg_result (hr : r < 16) (h : s.pre.t.getD r (.val 0) = .val v) : readReg r s = .ok (v, s) := by
  simp only [readReg, Ex.get_bind, if_pos hr, h]; rfl

theorem readReg_pending {i : Nat} (hr : r < 16) (h : s.pre.t.getD r (.val 0) = .pend i) : readReg r s = .error (.park 0 id) := by
  simp only [readReg, Ex.get_bind, if_pos hr, h]; exact park_zero

theorem readReg_bad {sb : Nat} {z : Cause} (hr : r < 16) (h : s.pre.t.getD r (.val 0) = .bad sb z) : readReg r s = .error (.cause z) := by
  simp only [readReg, Ex.get_bind, if_pos hr, h]; rfl

theorem readReg_named (h1 : 16 ≤ r) (h2 : r < 24) (h : (s.pre.regPend.any (·.1 == r)) = false) :
    readReg r s = .ok (Table.get 0 (r - 16) s.pre.k, s) := by
  simp only [readReg, Ex.get_bind, if_neg (Nat.not_lt.mpr h1), if_pos h2, h]; rfl

theorem readReg_named_pending (h1 : 16 ≤ r) (h2 : r < 24) (h : (s.pre.regPend.any (·.1 == r)) = true) : readReg r s = .error (.park 0 id) := by
  simp only [readReg, Ex.get_bind, if_neg (Nat.not_lt.mpr h1), if_pos h2, h, if_true]; exact park_zero

theorem readReg_zero : readReg 36 s = .ok (0, s) := rfl

theorem readReg_sp (h : (s.pre.regPend.any (·.1 == 37)) = false) : readReg 37 s = .ok (s.pre.sp, s) := by
  simp only [readReg, Ex.get_bind, h]; rfl

theorem readReg_sp_pending (h : (s.pre.regPend.any (·.1 == 37)) = true) : readReg 37 s = .error (.park 0 id) := by
  simp only [readReg, Ex.get_bind]
  rw [if_neg (by decide), if_neg (by decide), if_neg (by decide), if_neg (by decide), if_neg (by decide), if_pos trivial]
  simp only [h, if_true]; exact park_zero

theorem readReg_clk : readReg 38 s = .ok (BitVec.ofNat 64 s.dev.clock, s) := rfl

theorem readReg_reserved (h : 39 ≤ r) : readReg r s = .error (.trap 0x10 (s.latch.word.setWidth 64)) := by
  simp only [readReg, Ex.get_bind]
  rw [if_neg (by omega), if_neg (by omega), if_neg (by omega), if_neg (by omega), if_neg (by omega), if_neg (by omega), if_neg (by omega)]
  rfl

/-- A source that is no queue register and no port changes nothing. -/
theorem readReg_keeps (hq : r < 24 ∨ 36 ≤ r) (h : readReg r s = .ok (v, t)) : t = s := by
  rcases Nat.lt_or_ge r 16 with h1 | h1
  · cases he : s.pre.t.getD r (.val 0) with
    | val u => rw [readReg_result h1 he] at h; cases h; rfl
    | pend i => rw [readReg_pending h1 he] at h; cases h
    | bad sb z => rw [readReg_bad h1 he] at h; cases h
  · rcases Nat.lt_or_ge r 24 with h2 | h2
    · cases hp : s.pre.regPend.any (·.1 == r) with
      | false => rw [readReg_named h1 h2 hp] at h; cases h; rfl
      | true => rw [readReg_named_pending h1 h2 hp] at h; cases h
    · rcases Nat.lt_or_ge r 39 with h3 | h3
      · have : r = 36 ∨ r = 37 ∨ r = 38 := by omega
        rcases this with rfl | rfl | rfl
        · cases h; rfl
        · cases hp : s.pre.regPend.any (·.1 == 37) with
          | false => rw [readReg_sp hp] at h; cases h; rfl
          | true => rw [readReg_sp_pending hp] at h; cases h
        · cases h; rfl
      · rw [readReg_reserved h3] at h; cases h

/-! ### Destinations (R29, R187) -/

theorem push_val {u : Word} (h : s.cur.t.getD 15 (.val 0) = .val u) :
    push v s = .ok ((), s.modCur fun t => { t with t := .val v :: t.t.take 15 }) := by
  simp only [push, pushEnt, h, modCur_run, bind, StateT.bind, Except.bind, Ex.get_run]

theorem destNum_zero : destNum 0 v s = push v s := rfl

theorem destNum_named (h1 : 16 ≤ d ∧ d < 24) (h : (s.pre.regPend.any (·.1 == d)) = false) :
    destNum d v s = .ok ((), s.modCur fun t => { t with regPend := t.regPend.filter (·.1 != d), k := Table.set (d - 16) v t.k }) := by
  have hd : d ≠ 37 := by omega
  have e : destNum d v = writeNamed d v := by
    simp only [destNum, if_neg (show d ≠ 0 by omega), if_pos (Or.inl h1 : 16 ≤ d ∧ d < 24 ∨ d = 37)]
  simp only [e, writeNamed, Ex.get_bind, h, hd]
  rfl

theorem destNum_sp (h : (s.pre.regPend.any (·.1 == 37)) = false) :
    destNum 37 v s = .ok ((), s.modCur fun t => { t with regPend := t.regPend.filter (·.1 != 37), sp := v }) := by
  have e : destNum 37 v = writeNamed 37 v := rfl
  simp only [e, writeNamed, Ex.get_bind, h]
  rfl

theorem destNum_discard : destNum 36 v s = .ok ((), s) := rfl

theorem destNum_reserved (h : 38 ≤ d ∨ (0 < d ∧ d < 16)) : destNum d v s = .error (.trap 0x10 (s.latch.word.setWidth 64)) := by
  simp only [destNum]
  rw [if_neg (by omega), if_neg (by omega), if_neg (by omega), if_neg (by omega), if_neg (by omega)]
  rfl

/-! ### Queue registers (R43) -/

theorem popQ_empty {q : Nat} (hq : shareOk (s.core s.latch.core).share s.cur.x q 6 = true)
    (h : s.popable (24 + q) (Table.get [] q s.curCtx.q) = []) (hk : s.latch.skip = 0) : popQ q s = .error (.park 2 id) := by
  simp only [State.curCtx] at h
  simp only [popQ, Ex.get_bind, hq, h]; exact park_run (.inl hk)

theorem pushQ_full {q : Nat} {e : QEnt} (hq : shareOk (s.core s.latch.core).share s.cur.x q 6 = true)
    (h : 16 ≤ (Table.get [] q s.curCtx.q).length) (hk : s.latch.skip = 0) : pushQ q e s = .error (.park 2 id) := by
  simp only [State.curCtx] at h
  simp only [pushQ, Ex.get_bind, hq, if_pos h]; exact park_run (.inl hk)

/-! ### The end of a bundle -/

theorem finish_plain (h : s.latch.defer = .no) :
    s.finish = ({ s with latch := { s.latch with defer := .no, res := .ok, pushed := [] } } : State).advance := by
  simp only [State.finish, h]

@[simp] theorem advance_mem : s.advance.mem = s.mem := rfl

@[simp] theorem doRet_mem : s.doRet.mem = s.mem := by
  simp only [State.doRet]; split <;> rfl

@[simp] theorem enterRouter_mem (p : Packet) : (s.enterRouter p).mem = s.mem := rfl

@[simp] theorem sendPacket_mem (p : Packet) : (s.sendPacket p).mem = s.mem := by
  simp only [State.sendPacket]
  split
  · rfl
  · exact enterRouter_mem _

@[simp] theorem tell_mem (d c g : Nat) (ws : List Word) : (s.tell d c g ws).mem = s.mem := sendPacket_mem _

@[simp] theorem askHome_mem (c h a n : Nat) (ws : List Word) : (s.askHome c h a n ws).mem = s.mem := tell_mem ..

@[simp] theorem openTask_mem (c h : Nat) (pc : Word) (b : Bool) (k : Option (Nat × Word)) : (s.openTask c h pc b k).mem = s.mem := by
  simp only [State.openTask]
  rcases k with _ | ⟨i, w⟩ <;> (dsimp only; split <;> first | exact askHome_mem .. | rfl)

@[simp] theorem openNext_mem (c h : Nat) : (s.openNext c h).mem = s.mem := by
  simp only [State.openNext]
  split
  · rfl
  · exact openTask_mem ..

/-- The end of a bundle leaves memory as it was. -/
theorem finish_mem (s : State) : s.finish.mem = s.mem := by
  simp only [State.finish]
  split <;> simp

end Sys2Proof.Machine
end

