-- ==== Sys2Proof/Laws/PerInstr.lean ====
section
/-! SUPPORT. For each constructor of Instr, the family `Words`: the decoder reads the class, opcode and body bits that the
encoder gives an instruction back as that instruction, every operand at every value (R161, R166 to R173). -/

namespace Sys2Proof.Laws.Words

/-- The words of `i`, where it has one, decode to `i`. -/
def Statement (i : Instr) : Prop := ∀ p, encodeFields i = some p → decodeFields p.1 p.2 = some i

theorem ofC {i : Instr} {w : BitVec 24} (op : Nat) (h : Nat.blt op 64 = true) (e : encodeFields i = some (BitVec.ofNat 7 op, w))
    (d : decodeC op w = some i) : Statement i := by
  have h : op < 64 := Nat.le_of_ble_eq_true h; intro p q; cases Option.some.inj (e.symm.trans q); unfold decodeFields
  rw [show (BitVec.ofNat 7 op).toNat = op by simp; omega, if_pos h]; exact d

theorem ofA {i : Instr} {w : BitVec 24} (op : Nat) (h : Nat.blt op 64 = true) (e : encodeFields i = some (BitVec.ofNat 7 (64 + op), w))
    (d : decodeA op w = some i) : Statement i := by
  have h : op < 64 := Nat.le_of_ble_eq_true h; intro p q; cases Option.some.inj (e.symm.trans q); unfold decodeFields
  rw [show (BitVec.ofNat 7 (64 + op)).toNat = 64 + op by simp; omega, if_neg (by omega), Nat.add_sub_cancel_left]; exact d

theorem none_of {i : Instr} (e : encodeFields i = none) : Statement i := fun p h => by rw [e] at h; cases h

theorem at_self {n : Nat} {a : BitVec n} : a.extractLsb' 0 n = a := by
  apply BitVec.eq_of_toNat_eq; simp

theorem lo {m n s k : Nat} {a : BitVec m} {b : BitVec n} {c : BitVec k} (e : b.extractLsb' s k = c)
    (h : Nat.ble (s + k) n = true) : (a ++ b).extractLsb' s k = c := by
  have := Nat.le_of_ble_eq_true h; subst e; ext i hi; simp [BitVec.getElem_extractLsb', BitVec.getLsbD_append]; intro; omega

theorem hi {m n s k : Nat} {a : BitVec m} {b : BitVec n} {c : BitVec k} (e : a.extractLsb' (s - n) k = c)
    (h : Nat.ble n s = true) : (a ++ b).extractLsb' s k = c := by
  have := Nat.le_of_ble_eq_true h; subst e; ext i hi; simp [BitVec.getElem_extractLsb', BitVec.getLsbD_append]
  rw [if_neg (by omega)]; congr 1; omega

/-- A field differs from a constant where a part of it does. -/
theorem ne_part {m s n : Nat} {w : BitVec m} {c : BitVec n} (s2 n2 : Nat) (b : BitVec n2) (hb : Nat.ble (s2 + n2) n = true)
    (d : (b == c.extractLsb' s2 n2) = false) (e : w.extractLsb' (s + s2) n2 = b) (h : w.extractLsb' s n = c) : False := by
  have := Nat.le_of_ble_eq_true hb; apply beq_eq_false_iff_ne.mp d; rw [← h, ← e]; ext i hi; simp [BitVec.getElem_extractLsb']; rw [Nat.add_assoc]; simp; intro; omega

theorem nop : Statement .nop := ofC 1 rfl rfl (by decide)

theorem br (n : BitVec 1) (p : BitVec 4) (o : BitVec 19) : Statement (.br n p o) :=
  ofC 2 rfl rfl (congrArg some (congr (congr (congrArg Instr.br (hi (hi at_self rfl) rfl)) (hi (lo at_self rfl) rfl)) (lo at_self rfl)))

theorem jmp (o : BitVec 24) : Statement (.jmp o) :=
  ofC 3 rfl rfl (congrArg some (congrArg Instr.jmp at_self))

theorem jmpr (a : BitVec 6) : Statement (.jmpr a) :=
  ofC 4 rfl rfl ((if_pos ⟨hi (hi rfl rfl) rfl, lo rfl rfl⟩).trans (congrArg some (congrArg Instr.jmpr (hi (lo at_self rfl) rfl))))

theorem call (o : BitVec 24) : Statement (.call o) :=
  ofC 5 rfl rfl (congrArg some (congrArg Instr.call at_self))

theorem callr (a : BitVec 6) : Statement (.callr a) :=
  ofC 6 rfl rfl ((if_pos ⟨hi (hi rfl rfl) rfl, lo rfl rfl⟩).trans (congrArg some (congrArg Instr.callr (hi (lo at_self rfl) rfl))))

theorem ret : Statement .ret := ofC 7 rfl rfl (by decide)

theorem frame (imm : BitVec 18) : Statement (.frame imm) :=
  ofC 8 rfl rfl ((if_pos (lo rfl rfl)).trans (congrArg some (congrArg Instr.frame (hi at_self rfl))))

theorem trap (c : BitVec 12) : Statement (.trap c) :=
  ofC 9 rfl rfl ((if_pos (lo rfl rfl)).trans (congrArg some (congrArg Instr.trap (hi at_self rfl))))

theorem sleep (a : BitVec 6) : Statement (.sleep a) :=
  ofC 10 rfl rfl ((if_pos ⟨hi (hi rfl rfl) rfl, lo rfl rfl⟩).trans (congrArg some (congrArg Instr.sleep (hi (lo at_self rfl) rfl))))

theorem sleepRel (a : BitVec 6) : Statement (.sleepRel a) :=
  ofC 10 rfl rfl ((if_neg fun h => ne_part 0 12 1#12 rfl rfl (lo rfl rfl) h.2).trans ((if_pos ⟨hi (hi rfl rfl) rfl, lo rfl rfl⟩).trans (congrArg some (congrArg Instr.sleepRel (hi (lo at_self rfl) rfl)))))

theorem yield : Statement .yield := ofC 11 rfl rfl (by decide)

theorem movi (d : BitVec 6) (imm : BitVec 18) : Statement (.movi d imm) :=
  ofC 12 rfl rfl (congrArg some (congr (congrArg Instr.movi (hi at_self rfl)) (lo at_self rfl)))

theorem movhi (d : BitVec 6) (imm : BitVec 18) : Statement (.movhi d imm) :=
  ofC 13 rfl rfl (congrArg some (congr (congrArg Instr.movhi (hi at_self rfl)) (lo at_self rfl)))

theorem ld1 (f : Mem) : Statement (.ld1 f) :=
  ofC 16 rfl rfl (congrArg some (congrArg Instr.ld1 (congr (congr (congr (congr (congrArg Mem.mk (hi (hi (hi (hi at_self rfl) rfl) rfl) rfl)) (hi (hi (hi (lo at_self rfl) rfl) rfl) rfl)) (hi (hi (lo at_self rfl) rfl) rfl)) (hi (lo at_self rfl) rfl)) (lo at_self rfl))))

theorem ld2 (f : Mem) : Statement (.ld2 f) :=
  ofC 17 rfl rfl (congrArg some (congrArg Instr.ld2 (congr (congr (congr (congr (congrArg Mem.mk (hi (hi (hi (hi at_self rfl) rfl) rfl) rfl)) (hi (hi (hi (lo at_self rfl) rfl) rfl) rfl)) (hi (hi (lo at_self rfl) rfl) rfl)) (hi (lo at_self rfl) rfl)) (lo at_self rfl))))

theorem ld4 (f : Mem) : Statement (.ld4 f) :=
  ofC 18 rfl rfl (congrArg some (congrArg Instr.ld4 (congr (congr (congr (congr (congrArg Mem.mk (hi (hi (hi (hi at_self rfl) rfl) rfl) rfl)) (hi (hi (hi (lo at_self rfl) rfl) rfl) rfl)) (hi (hi (lo at_self rfl) rfl) rfl)) (hi (lo at_self rfl) rfl)) (lo at_self rfl))))

theorem ld8 (f : Mem) : Statement (.ld8 f) :=
  ofC 19 rfl rfl (congrArg some (congrArg Instr.ld8 (congr (congr (congr (congr (congrArg Mem.mk (hi (hi (hi (hi at_self rfl) rfl) rfl) rfl)) (hi (hi (hi (lo at_self rfl) rfl) rfl) rfl)) (hi (hi (lo at_self rfl) rfl) rfl)) (hi (lo at_self rfl) rfl)) (lo at_self rfl))))

theorem lds1 (f : Mem) : Statement (.lds1 f) :=
  ofC 20 rfl rfl (congrArg some (congrArg Instr.lds1 (congr (congr (congr (congr (congrArg Mem.mk (hi (hi (hi (hi at_self rfl) rfl) rfl) rfl)) (hi (hi (hi (lo at_self rfl) rfl) rfl) rfl)) (hi (hi (lo at_self rfl) rfl) rfl)) (hi (lo at_self rfl) rfl)) (lo at_self rfl))))

theorem lds2 (f : Mem) : Statement (.lds2 f) :=
  ofC 21 rfl rfl (congrArg some (congrArg Instr.lds2 (congr (congr (congr (congr (congrArg Mem.mk (hi (hi (hi (hi at_self rfl) rfl) rfl) rfl)) (hi (hi (hi (lo at_self rfl) rfl) rfl) rfl)) (hi (hi (lo at_self rfl) rfl) rfl)) (hi (lo at_self rfl) rfl)) (lo at_self rfl))))

theorem lds4 (f : Mem) : Statement (.lds4 f) :=
  ofC 22 rfl rfl (congrArg some (congrArg Instr.lds4 (congr (congr (congr (congr (congrArg Mem.mk (hi (hi (hi (hi at_self rfl) rfl) rfl) rfl)) (hi (hi (hi (lo at_self rfl) rfl) rfl) rfl)) (hi (hi (lo at_self rfl) rfl) rfl)) (hi (lo at_self rfl) rfl)) (lo at_self rfl))))

theorem st1 (f : Mem) : Statement (.st1 f) :=
  ofC 24 rfl rfl (congrArg some (congrArg Instr.st1 (congr (congr (congr (congr (congrArg Mem.mk (hi (hi (hi (hi at_self rfl) rfl) rfl) rfl)) (hi (hi (hi (lo at_self rfl) rfl) rfl) rfl)) (hi (hi (lo at_self rfl) rfl) rfl)) (hi (lo at_self rfl) rfl)) (lo at_self rfl))))

theorem st2 (f : Mem) : Statement (.st2 f) :=
  ofC 25 rfl rfl (congrArg some (congrArg Instr.st2 (congr (congr (congr (congr (congrArg Mem.mk (hi (hi (hi (hi at_self rfl) rfl) rfl) rfl)) (hi (hi (hi (lo at_self rfl) rfl) rfl) rfl)) (hi (hi (lo at_self rfl) rfl) rfl)) (hi (lo at_self rfl) rfl)) (lo at_self rfl))))

theorem st4 (f : Mem) : Statement (.st4 f) :=
  ofC 26 rfl rfl (congrArg some (congrArg Instr.st4 (congr (congr (congr (congr (congrArg Mem.mk (hi (hi (hi (hi at_self rfl) rfl) rfl) rfl)) (hi (hi (hi (lo at_self rfl) rfl) rfl) rfl)) (hi (hi (lo at_self rfl) rfl) rfl)) (hi (lo at_self rfl) rfl)) (lo at_self rfl))))

theorem st8 (f : Mem) : Statement (.st8 f) :=
  ofC 27 rfl rfl (congrArg some (congrArg Instr.st8 (congr (congr (congr (congr (congrArg Mem.mk (hi (hi (hi (hi at_self rfl) rfl) rfl) rfl)) (hi (hi (hi (lo at_self rfl) rfl) rfl) rfl)) (hi (hi (lo at_self rfl) rfl) rfl)) (hi (lo at_self rfl) rfl)) (lo at_self rfl))))

theorem ldv (f : VMem) : Statement (.ldv f) :=
  ofC 28 rfl rfl ((if_pos (hi (hi (hi (hi (hi rfl rfl) rfl) rfl) rfl) rfl)).trans (congrArg some (congrArg Instr.ldv (congr (congr (congr (congr (congrArg VMem.mk (hi (hi (hi (hi (lo at_self rfl) rfl) rfl) rfl) rfl)) (hi (hi (hi (lo at_self rfl) rfl) rfl) rfl)) (hi (hi (lo at_self rfl) rfl) rfl)) (hi (lo at_self rfl) rfl)) (lo at_self rfl)))))

theorem stv (f : VMem) : Statement (.stv f) :=
  ofC 29 rfl rfl ((if_pos (hi (hi (hi (hi (hi rfl rfl) rfl) rfl) rfl) rfl)).trans (congrArg some (congrArg Instr.stv (congr (congr (congr (congr (congrArg VMem.mk (hi (hi (hi (hi (lo at_self rfl) rfl) rfl) rfl) rfl)) (hi (hi (hi (lo at_self rfl) rfl) rfl) rfl)) (hi (hi (lo at_self rfl) rfl) rfl)) (hi (lo at_self rfl) rfl)) (lo at_self rfl)))))

theorem vldx (f : VIdx) : Statement (.vldx f) :=
  ofC 30 rfl rfl (congrArg some (congrArg Instr.vldx (congr (congr (congr (congr (congr (congrArg VIdx.mk (hi (hi (hi (hi (hi at_self rfl) rfl) rfl) rfl) rfl)) (hi (hi (hi (hi (lo at_self rfl) rfl) rfl) rfl) rfl)) (hi (hi (hi (lo at_self rfl) rfl) rfl) rfl)) (hi (hi (lo at_self rfl) rfl) rfl)) (hi (lo at_self rfl) rfl)) (lo at_self rfl))))

theorem vstx (f : VIdx) : Statement (.vstx f) :=
  ofC 31 rfl rfl (congrArg some (congrArg Instr.vstx (congr (congr (congr (congr (congr (congrArg VIdx.mk (hi (hi (hi (hi (hi at_self rfl) rfl) rfl) rfl) rfl)) (hi (hi (hi (hi (lo at_self rfl) rfl) rfl) rfl) rfl)) (hi (hi (hi (lo at_self rfl) rfl) rfl) rfl)) (hi (hi (lo at_self rfl) rfl) rfl)) (hi (lo at_self rfl) rfl)) (lo at_self rfl))))

theorem aadd4 (f : Atom) : Statement (.aadd4 f) :=
  ofC 32 rfl rfl ((if_pos (hi (lo rfl rfl) rfl)).trans (congrArg some (congrArg Instr.aadd4 (congr (congr (congr (congrArg Atom.mk (hi (hi (hi (hi at_self rfl) rfl) rfl) rfl)) (hi (hi (hi (lo at_self rfl) rfl) rfl) rfl)) (hi (hi (lo at_self rfl) rfl) rfl)) (lo at_self rfl)))))

theorem aadd8 (f : Atom) : Statement (.aadd8 f) :=
  ofC 32 rfl rfl ((if_neg fun h => ne_part 0 5 1#5 rfl rfl (hi (lo rfl rfl) rfl) h).trans ((if_pos (hi (lo rfl rfl) rfl)).trans (congrArg some (congrArg Instr.aadd8 (congr (congr (congr (congrArg Atom.mk (hi (hi (hi (hi at_self rfl) rfl) rfl) rfl)) (hi (hi (hi (lo at_self rfl) rfl) rfl) rfl)) (hi (hi (lo at_self rfl) rfl) rfl)) (lo at_self rfl))))))

theorem afadd (f : Atom) : Statement (.afadd f) :=
  ofC 32 rfl rfl ((if_neg fun h => ne_part 0 5 2#5 rfl rfl (hi (lo rfl rfl) rfl) h).trans ((if_neg fun h => ne_part 0 5 2#5 rfl rfl (hi (lo rfl rfl) rfl) h).trans ((if_pos (hi (lo rfl rfl) rfl)).trans (congrArg some (congrArg Instr.afadd (congr (congr (congr (congrArg Atom.mk (hi (hi (hi (hi at_self rfl) rfl) rfl) rfl)) (hi (hi (hi (lo at_self rfl) rfl) rfl) rfl)) (hi (hi (lo at_self rfl) rfl) rfl)) (lo at_self rfl)))))))

theorem aminS32 (f : Atom) : Statement (.aminS32 f) :=
  ofC 32 rfl rfl ((if_neg fun h => ne_part 0 5 3#5 rfl rfl (hi (lo rfl rfl) rfl) h).trans ((if_neg fun h => ne_part 0 5 3#5 rfl rfl (hi (lo rfl rfl) rfl) h).trans ((if_neg fun h => ne_part 0 5 3#5 rfl rfl (hi (lo rfl rfl) rfl) h).trans ((if_pos (hi (lo rfl rfl) rfl)).trans (congrArg some (congrArg Instr.aminS32 (congr (congr (congr (congrArg Atom.mk (hi (hi (hi (hi at_self rfl) rfl) rfl) rfl)) (hi (hi (hi (lo at_self rfl) rfl) rfl) rfl)) (hi (hi (lo at_self rfl) rfl) rfl)) (lo at_self rfl))))))))

theorem aminS64 (f : Atom) : Statement (.aminS64 f) :=
  ofC 32 rfl rfl ((if_neg fun h => ne_part 0 5 4#5 rfl rfl (hi (lo rfl rfl) rfl) h).trans ((if_neg fun h => ne_part 0 5 4#5 rfl rfl (hi (lo rfl rfl) rfl) h).trans ((if_neg fun h => ne_part 0 5 4#5 rfl rfl (hi (lo rfl rfl) rfl) h).trans ((if_neg fun h => ne_part 0 5 4#5 rfl rfl (hi (lo rfl rfl) rfl) h).trans ((if_pos (hi (lo rfl rfl) rfl)).trans (congrArg some (congrArg Instr.aminS64 (congr (congr (congr (congrArg Atom.mk (hi (hi (hi (hi at_self rfl) rfl) rfl) rfl)) (hi (hi (hi (lo at_self rfl) rfl) rfl) rfl)) (hi (hi (lo at_self rfl) rfl) rfl)) (lo at_self rfl)))))))))

theorem aminU32 (f : Atom) : Statement (.aminU32 f) :=
  ofC 32 rfl rfl ((if_neg fun h => ne_part 0 5 5#5 rfl rfl (hi (lo rfl rfl) rfl) h).trans ((if_neg fun h => ne_part 0 5 5#5 rfl rfl (hi (lo rfl rfl) rfl) h).trans ((if_neg fun h => ne_part 0 5 5#5 rfl rfl (hi (lo rfl rfl) rfl) h).trans ((if_neg fun h => ne_part 0 5 5#5 rfl rfl (hi (lo rfl rfl) rfl) h).trans ((if_neg fun h => ne_part 0 5 5#5 rfl rfl (hi (lo rfl rfl) rfl) h).trans ((if_pos (hi (lo rfl rfl) rfl)).trans (congrArg some (congrArg Instr.aminU32 (congr (congr (congr (congrArg Atom.mk (hi (hi (hi (hi at_self rfl) rfl) rfl) rfl)) (hi (hi (hi (lo at_self rfl) rfl) rfl) rfl)) (hi (hi (lo at_self rfl) rfl) rfl)) (lo at_self rfl))))))))))

theorem aminU64 (f : Atom) : Statement (.aminU64 f) :=
  ofC 32 rfl rfl ((if_neg fun h => ne_part 0 5 6#5 rfl rfl (hi (lo rfl rfl) rfl) h).trans ((if_neg fun h => ne_part 0 5 6#5 rfl rfl (hi (lo rfl rfl) rfl) h).trans ((if_neg fun h => ne_part 0 5 6#5 rfl rfl (hi (lo rfl rfl) rfl) h).trans ((if_neg fun h => ne_part 0 5 6#5 rfl rfl (hi (lo rfl rfl) rfl) h).trans ((if_neg fun h => ne_part 0 5 6#5 rfl rfl (hi (lo rfl rfl) rfl) h).trans ((if_neg fun h => ne_part 0 5 6#5 rfl rfl (hi (lo rfl rfl) rfl) h).trans ((if_pos (hi (lo rfl rfl) rfl)).trans (congrArg some (congrArg Instr.aminU64 (congr (congr (congr (congrArg Atom.mk (hi (hi (hi (hi at_self rfl) rfl) rfl) rfl)) (hi (hi (hi (lo at_self rfl) rfl) rfl) rfl)) (hi (hi (lo at_self rfl) rfl) rfl)) (lo at_self rfl)))))))))))

theorem aminF32 (f : Atom) : Statement (.aminF32 f) :=
  ofC 32 rfl rfl ((if_neg fun h => ne_part 0 5 7#5 rfl rfl (hi (lo rfl rfl) rfl) h).trans ((if_neg fun h => ne_part 0 5 7#5 rfl rfl (hi (lo rfl rfl) rfl) h).trans ((if_neg fun h => ne_part 0 5 7#5 rfl rfl (hi (lo rfl rfl) rfl) h).trans ((if_neg fun h => ne_part 0 5 7#5 rfl rfl (hi (lo rfl rfl) rfl) h).trans ((if_neg fun h => ne_part 0 5 7#5 rfl rfl (hi (lo rfl rfl) rfl) h).trans ((if_neg fun h => ne_part 0 5 7#5 rfl rfl (hi (lo rfl rfl) rfl) h).trans ((if_neg fun h => ne_part 0 5 7#5 rfl rfl (hi (lo rfl rfl) rfl) h).trans ((if_pos (hi (lo rfl rfl) rfl)).trans (congrArg some (congrArg Instr.aminF32 (congr (congr (congr (congrArg Atom.mk (hi (hi (hi (hi at_self rfl) rfl) rfl) rfl)) (hi (hi (hi (lo at_self rfl) rfl) rfl) rfl)) (hi (hi (lo at_self rfl) rfl) rfl)) (lo at_self rfl))))))))))))

theorem amaxS32 (f : Atom) : Statement (.amaxS32 f) :=
  ofC 32 rfl rfl ((if_neg fun h => ne_part 0 5 8#5 rfl rfl (hi (lo rfl rfl) rfl) h).trans ((if_neg fun h => ne_part 0 5 8#5 rfl rfl (hi (lo rfl rfl) rfl) h).trans ((if_neg fun h => ne_part 0 5 8#5 rfl rfl (hi (lo rfl rfl) rfl) h).trans ((if_neg fun h => ne_part 0 5 8#5 rfl rfl (hi (lo rfl rfl) rfl) h).trans ((if_neg fun h => ne_part 0 5 8#5 rfl rfl (hi (lo rfl rfl) rfl) h).trans ((if_neg fun h => ne_part 0 5 8#5 rfl rfl (hi (lo rfl rfl) rfl) h).trans ((if_neg fun h => ne_part 0 5 8#5 rfl rfl (hi (lo rfl rfl) rfl) h).trans ((if_neg fun h => ne_part 0 5 8#5 rfl rfl (hi (lo rfl rfl) rfl) h).trans ((if_pos (hi (lo rfl rfl) rfl)).trans (congrArg some (congrArg Instr.amaxS32 (congr (congr (congr (congrArg Atom.mk (hi (hi (hi (hi at_self rfl) rfl) rfl) rfl)) (hi (hi (hi (lo at_self rfl) rfl) rfl) rfl)) (hi (hi (lo at_self rfl) rfl) rfl)) (lo at_self rfl)))))))))))))

theorem amaxS64 (f : Atom) : Statement (.amaxS64 f) :=
  ofC 32 rfl rfl ((if_neg fun h => ne_part 0 5 9#5 rfl rfl (hi (lo rfl rfl) rfl) h).trans ((if_neg fun h => ne_part 0 5 9#5 rfl rfl (hi (lo rfl rfl) rfl) h).trans ((if_neg fun h => ne_part 0 5 9#5 rfl rfl (hi (lo rfl rfl) rfl) h).trans ((if_neg fun h => ne_part 0 5 9#5 rfl rfl (hi (lo rfl rfl) rfl) h).trans ((if_neg fun h => ne_part 0 5 9#5 rfl rfl (hi (lo rfl rfl) rfl) h).trans ((if_neg fun h => ne_part 0 5 9#5 rfl rfl (hi (lo rfl rfl) rfl) h).trans ((if_neg fun h => ne_part 0 5 9#5 rfl rfl (hi (lo rfl rfl) rfl) h).trans ((if_neg fun h => ne_part 0 5 9#5 rfl rfl (hi (lo rfl rfl) rfl) h).trans ((if_neg fun h => ne_part 0 5 9#5 rfl rfl (hi (lo rfl rfl) rfl) h).trans ((if_pos (hi (lo rfl rfl) rfl)).trans (congrArg some (congrArg Instr.amaxS64 (congr (congr (congr (congrArg Atom.mk (hi (hi (hi (hi at_self rfl) rfl) rfl) rfl)) (hi (hi (hi (lo at_self rfl) rfl) rfl) rfl)) (hi (hi (lo at_self rfl) rfl) rfl)) (lo at_self rfl))))))))))))))

theorem amaxU32 (f : Atom) : Statement (.amaxU32 f) :=
  ofC 32 rfl rfl ((if_neg fun h => ne_part 0 5 10#5 rfl rfl (hi (lo rfl rfl) rfl) h).trans ((if_neg fun h => ne_part 0 5 10#5 rfl rfl (hi (lo rfl rfl) rfl) h).trans ((if_neg fun h => ne_part 0 5 10#5 rfl rfl (hi (lo rfl rfl) rfl) h).trans ((if_neg fun h => ne_part 0 5 10#5 rfl rfl (hi (lo rfl rfl) rfl) h).trans ((if_neg fun h => ne_part 0 5 10#5 rfl rfl (hi (lo rfl rfl) rfl) h).trans ((if_neg fun h => ne_part 0 5 10#5 rfl rfl (hi (lo rfl rfl) rfl) h).trans ((if_neg fun h => ne_part 0 5 10#5 rfl rfl (hi (lo rfl rfl) rfl) h).trans ((if_neg fun h => ne_part 0 5 10#5 rfl rfl (hi (lo rfl rfl) rfl) h).trans ((if_neg fun h => ne_part 0 5 10#5 rfl rfl (hi (lo rfl rfl) rfl) h).trans ((if_neg fun h => ne_part 0 5 10#5 rfl rfl (hi (lo rfl rfl) rfl) h).trans ((if_pos (hi (lo rfl rfl) rfl)).trans (congrArg some (congrArg Instr.amaxU32 (congr (congr (congr (congrArg Atom.mk (hi (hi (hi (hi at_self rfl) rfl) rfl) rfl)) (hi (hi (hi (lo at_self rfl) rfl) rfl) rfl)) (hi (hi (lo at_self rfl) rfl) rfl)) (lo at_self rfl)))))))))))))))

theorem amaxU64 (f : Atom) : Statement (.amaxU64 f) :=
  ofC 32 rfl rfl ((if_neg fun h => ne_part 0 5 11#5 rfl rfl (hi (lo rfl rfl) rfl) h).trans ((if_neg fun h => ne_part 0 5 11#5 rfl rfl (hi (lo rfl rfl) rfl) h).trans ((if_neg fun h => ne_part 0 5 11#5 rfl rfl (hi (lo rfl rfl) rfl) h).trans ((if_neg fun h => ne_part 0 5 11#5 rfl rfl (hi (lo rfl rfl) rfl) h).trans ((if_neg fun h => ne_part 0 5 11#5 rfl rfl (hi (lo rfl rfl) rfl) h).trans ((if_neg fun h => ne_part 0 5 11#5 rfl rfl (hi (lo rfl rfl) rfl) h).trans ((if_neg fun h => ne_part 0 5 11#5 rfl rfl (hi (lo rfl rfl) rfl) h).trans ((if_neg fun h => ne_part 0 5 11#5 rfl rfl (hi (lo rfl rfl) rfl) h).trans ((if_neg fun h => ne_part 0 5 11#5 rfl rfl (hi (lo rfl rfl) rfl) h).trans ((if_neg fun h => ne_part 0 5 11#5 rfl rfl (hi (lo rfl rfl) rfl) h).trans ((if_neg fun h => ne_part 0 5 11#5 rfl rfl (hi (lo rfl rfl) rfl) h).trans ((if_pos (hi (lo rfl rfl) rfl)).trans (congrArg some (congrArg Instr.amaxU64 (congr (congr (congr (congrArg Atom.mk (hi (hi (hi (hi at_self rfl) rfl) rfl) rfl)) (hi (hi (hi (lo at_self rfl) rfl) rfl) rfl)) (hi (hi (lo at_self rfl) rfl) rfl)) (lo at_self rfl))))))))))))))))

theorem amaxF32 (f : Atom) : Statement (.amaxF32 f) :=
  ofC 32 rfl rfl ((if_neg fun h => ne_part 0 5 12#5 rfl rfl (hi (lo rfl rfl) rfl) h).trans ((if_neg fun h => ne_part 0 5 12#5 rfl rfl (hi (lo rfl rfl) rfl) h).trans ((if_neg fun h => ne_part 0 5 12#5 rfl rfl (hi (lo rfl rfl) rfl) h).trans ((if_neg fun h => ne_part 0 5 12#5 rfl rfl (hi (lo rfl rfl) rfl) h).trans ((if_neg fun h => ne_part 0 5 12#5 rfl rfl (hi (lo rfl rfl) rfl) h).trans ((if_neg fun h => ne_part 0 5 12#5 rfl rfl (hi (lo rfl rfl) rfl) h).trans ((if_neg fun h => ne_part 0 5 12#5 rfl rfl (hi (lo rfl rfl) rfl) h).trans ((if_neg fun h => ne_part 0 5 12#5 rfl rfl (hi (lo rfl rfl) rfl) h).trans ((if_neg fun h => ne_part 0 5 12#5 rfl rfl (hi (lo rfl rfl) rfl) h).trans ((if_neg fun h => ne_part 0 5 12#5 rfl rfl (hi (lo rfl rfl) rfl) h).trans ((if_neg fun h => ne_part 0 5 12#5 rfl rfl (hi (lo rfl rfl) rfl) h).trans ((if_neg fun h => ne_part 0 5 12#5 rfl rfl (hi (lo rfl rfl) rfl) h).trans ((if_pos (hi (lo rfl rfl) rfl)).trans (congrArg some (congrArg Instr.amaxF32 (congr (congr (congr (congrArg Atom.mk (hi (hi (hi (hi at_self rfl) rfl) rfl) rfl)) (hi (hi (hi (lo at_self rfl) rfl) rfl) rfl)) (hi (hi (lo at_self rfl) rfl) rfl)) (lo at_self rfl)))))))))))))))))

theorem aand (f : Atom) : Statement (.aand f) :=
  ofC 32 rfl rfl ((if_neg fun h => ne_part 0 5 13#5 rfl rfl (hi (lo rfl rfl) rfl) h).trans ((if_neg fun h => ne_part 0 5 13#5 rfl rfl (hi (lo rfl rfl) rfl) h).trans ((if_neg fun h => ne_part 0 5 13#5 rfl rfl (hi (lo rfl rfl) rfl) h).trans ((if_neg fun h => ne_part 0 5 13#5 rfl rfl (hi (lo rfl rfl) rfl) h).trans ((if_neg fun h => ne_part 0 5 13#5 rfl rfl (hi (lo rfl rfl) rfl) h).trans ((if_neg fun h => ne_part 0 5 13#5 rfl rfl (hi (lo rfl rfl) rfl) h).trans ((if_neg fun h => ne_part 0 5 13#5 rfl rfl (hi (lo rfl rfl) rfl) h).trans ((if_neg fun h => ne_part 0 5 13#5 rfl rfl (hi (lo rfl rfl) rfl) h).trans ((if_neg fun h => ne_part 0 5 13#5 rfl rfl (hi (lo rfl rfl) rfl) h).trans ((if_neg fun h => ne_part 0 5 13#5 rfl rfl (hi (lo rfl rfl) rfl) h).trans ((if_neg fun h => ne_part 0 5 13#5 rfl rfl (hi (lo rfl rfl) rfl) h).trans ((if_neg fun h => ne_part 0 5 13#5 rfl rfl (hi (lo rfl rfl) rfl) h).trans ((if_neg fun h => ne_part 0 5 13#5 rfl rfl (hi (lo rfl rfl) rfl) h).trans ((if_pos (hi (lo rfl rfl) rfl)).trans (congrArg some (congrArg Instr.aand (congr (congr (congr (congrArg Atom.mk (hi (hi (hi (hi at_self rfl) rfl) rfl) rfl)) (hi (hi (hi (lo at_self rfl) rfl) rfl) rfl)) (hi (hi (lo at_self rfl) rfl) rfl)) (lo at_self rfl))))))))))))))))))

theorem aor (f : Atom) : Statement (.aor f) :=
  ofC 32 rfl rfl ((if_neg fun h => ne_part 0 5 14#5 rfl rfl (hi (lo rfl rfl) rfl) h).trans ((if_neg fun h => ne_part 0 5 14#5 rfl rfl (hi (lo rfl rfl) rfl) h).trans ((if_neg fun h => ne_part 0 5 14#5 rfl rfl (hi (lo rfl rfl) rfl) h).trans ((if_neg fun h => ne_part 0 5 14#5 rfl rfl (hi (lo rfl rfl) rfl) h).trans ((if_neg fun h => ne_part 0 5 14#5 rfl rfl (hi (lo rfl rfl) rfl) h).trans ((if_neg fun h => ne_part 0 5 14#5 rfl rfl (hi (lo rfl rfl) rfl) h).trans ((if_neg fun h => ne_part 0 5 14#5 rfl rfl (hi (lo rfl rfl) rfl) h).trans ((if_neg fun h => ne_part 0 5 14#5 rfl rfl (hi (lo rfl rfl) rfl) h).trans ((if_neg fun h => ne_part 0 5 14#5 rfl rfl (hi (lo rfl rfl) rfl) h).trans ((if_neg fun h => ne_part 0 5 14#5 rfl rfl (hi (lo rfl rfl) rfl) h).trans ((if_neg fun h => ne_part 0 5 14#5 rfl rfl (hi (lo rfl rfl) rfl) h).trans ((if_neg fun h => ne_part 0 5 14#5 rfl rfl (hi (lo rfl rfl) rfl) h).trans ((if_neg fun h => ne_part 0 5 14#5 rfl rfl (hi (lo rfl rfl) rfl) h).trans ((if_neg fun h => ne_part 0 5 14#5 rfl rfl (hi (lo rfl rfl) rfl) h).trans ((if_pos (hi (lo rfl rfl) rfl)).trans (congrArg some (congrArg Instr.aor (congr (congr (congr (congrArg Atom.mk (hi (hi (hi (hi at_self rfl) rfl) rfl) rfl)) (hi (hi (hi (lo at_self rfl) rfl) rfl) rfl)) (hi (hi (lo at_self rfl) rfl) rfl)) (lo at_self rfl)))))))))))))))))))

theorem axor (f : Atom) : Statement (.axor f) :=
  ofC 32 rfl rfl ((if_neg fun h => ne_part 0 5 15#5 rfl rfl (hi (lo rfl rfl) rfl) h).trans ((if_neg fun h => ne_part 0 5 15#5 rfl rfl (hi (lo rfl rfl) rfl) h).trans ((if_neg fun h => ne_part 0 5 15#5 rfl rfl (hi (lo rfl rfl) rfl) h).trans ((if_neg fun h => ne_part 0 5 15#5 rfl rfl (hi (lo rfl rfl) rfl) h).trans ((if_neg fun h => ne_part 0 5 15#5 rfl rfl (hi (lo rfl rfl) rfl) h).trans ((if_neg fun h => ne_part 0 5 15#5 rfl rfl (hi (lo rfl rfl) rfl) h).trans ((if_neg fun h => ne_part 0 5 15#5 rfl rfl (hi (lo rfl rfl) rfl) h).trans ((if_neg fun h => ne_part 0 5 15#5 rfl rfl (hi (lo rfl rfl) rfl) h).trans ((if_neg fun h => ne_part 0 5 15#5 rfl rfl (hi (lo rfl rfl) rfl) h).trans ((if_neg fun h => ne_part 0 5 15#5 rfl rfl (hi (lo rfl rfl) rfl) h).trans ((if_neg fun h => ne_part 0 5 15#5 rfl rfl (hi (lo rfl rfl) rfl) h).trans ((if_neg fun h => ne_part 0 5 15#5 rfl rfl (hi (lo rfl rfl) rfl) h).trans ((if_neg fun h => ne_part 0 5 15#5 rfl rfl (hi (lo rfl rfl) rfl) h).trans ((if_neg fun h => ne_part 0 5 15#5 rfl rfl (hi (lo rfl rfl) rfl) h).trans ((if_neg fun h => ne_part 0 5 15#5 rfl rfl (hi (lo rfl rfl) rfl) h).trans ((if_pos (hi (lo rfl rfl) rfl)).trans (congrArg some (congrArg Instr.axor (congr (congr (congr (congrArg Atom.mk (hi (hi (hi (hi at_self rfl) rfl) rfl) rfl)) (hi (hi (hi (lo at_self rfl) rfl) rfl) rfl)) (hi (hi (lo at_self rfl) rfl) rfl)) (lo at_self rfl))))))))))))))))))))

theorem aswap4 (f : Atom) : Statement (.aswap4 f) :=
  ofC 32 rfl rfl ((if_neg fun h => ne_part 0 5 16#5 rfl rfl (hi (lo rfl rfl) rfl) h).trans ((if_neg fun h => ne_part 0 5 16#5 rfl rfl (hi (lo rfl rfl) rfl) h).trans ((if_neg fun h => ne_part 0 5 16#5 rfl rfl (hi (lo rfl rfl) rfl) h).trans ((if_neg fun h => ne_part 0 5 16#5 rfl rfl (hi (lo rfl rfl) rfl) h).trans ((if_neg fun h => ne_part 0 5 16#5 rfl rfl (hi (lo rfl rfl) rfl) h).trans ((if_neg fun h => ne_part 0 5 16#5 rfl rfl (hi (lo rfl rfl) rfl) h).trans ((if_neg fun h => ne_part 0 5 16#5 rfl rfl (hi (lo rfl rfl) rfl) h).trans ((if_neg fun h => ne_part 0 5 16#5 rfl rfl (hi (lo rfl rfl) rfl) h).trans ((if_neg fun h => ne_part 0 5 16#5 rfl rfl (hi (lo rfl rfl) rfl) h).trans ((if_neg fun h => ne_part 0 5 16#5 rfl rfl (hi (lo rfl rfl) rfl) h).trans ((if_neg fun h => ne_part 0 5 16#5 rfl rfl (hi (lo rfl rfl) rfl) h).trans ((if_neg fun h => ne_part 0 5 16#5 rfl rfl (hi (lo rfl rfl) rfl) h).trans ((if_neg fun h => ne_part 0 5 16#5 rfl rfl (hi (lo rfl rfl) rfl) h).trans ((if_neg fun h => ne_part 0 5 16#5 rfl rfl (hi (lo rfl rfl) rfl) h).trans ((if_neg fun h => ne_part 0 5 16#5 rfl rfl (hi (lo rfl rfl) rfl) h).trans ((if_neg fun h => ne_part 0 5 16#5 rfl rfl (hi (lo rfl rfl) rfl) h).trans ((if_pos (hi (lo rfl rfl) rfl)).trans (congrArg some (congrArg Instr.aswap4 (congr (congr (congr (congrArg Atom.mk (hi (hi (hi (hi at_self rfl) rfl) rfl) rfl)) (hi (hi (hi (lo at_self rfl) rfl) rfl) rfl)) (hi (hi (lo at_self rfl) rfl) rfl)) (lo at_self rfl)))))))))))))))))))))

theorem aswap8 (f : Atom) : Statement (.aswap8 f) :=
  ofC 32 rfl rfl ((if_neg fun h => ne_part 0 5 17#5 rfl rfl (hi (lo rfl rfl) rfl) h).trans ((if_neg fun h => ne_part 0 5 17#5 rfl rfl (hi (lo rfl rfl) rfl) h).trans ((if_neg fun h => ne_part 0 5 17#5 rfl rfl (hi (lo rfl rfl) rfl) h).trans ((if_neg fun h => ne_part 0 5 17#5 rfl rfl (hi (lo rfl rfl) rfl) h).trans ((if_neg fun h => ne_part 0 5 17#5 rfl rfl (hi (lo rfl rfl) rfl) h).trans ((if_neg fun h => ne_part 0 5 17#5 rfl rfl (hi (lo rfl rfl) rfl) h).trans ((if_neg fun h => ne_part 0 5 17#5 rfl rfl (hi (lo rfl rfl) rfl) h).trans ((if_neg fun h => ne_part 0 5 17#5 rfl rfl (hi (lo rfl rfl) rfl) h).trans ((if_neg fun h => ne_part 0 5 17#5 rfl rfl (hi (lo rfl rfl) rfl) h).trans ((if_neg fun h => ne_part 0 5 17#5 rfl rfl (hi (lo rfl rfl) rfl) h).trans ((if_neg fun h => ne_part 0 5 17#5 rfl rfl (hi (lo rfl rfl) rfl) h).trans ((if_neg fun h => ne_part 0 5 17#5 rfl rfl (hi (lo rfl rfl) rfl) h).trans ((if_neg fun h => ne_part 0 5 17#5 rfl rfl (hi (lo rfl rfl) rfl) h).trans ((if_neg fun h => ne_part 0 5 17#5 rfl rfl (hi (lo rfl rfl) rfl) h).trans ((if_neg fun h => ne_part 0 5 17#5 rfl rfl (hi (lo rfl rfl) rfl) h).trans ((if_neg fun h => ne_part 0 5 17#5 rfl rfl (hi (lo rfl rfl) rfl) h).trans ((if_neg fun h => ne_part 0 5 17#5 rfl rfl (hi (lo rfl rfl) rfl) h).trans ((if_pos (hi (lo rfl rfl) rfl)).trans (congrArg some (congrArg Instr.aswap8 (congr (congr (congr (congrArg Atom.mk (hi (hi (hi (hi at_self rfl) rfl) rfl) rfl)) (hi (hi (hi (lo at_self rfl) rfl) rfl) rfl)) (hi (hi (lo at_self rfl) rfl) rfl)) (lo at_self rfl))))))))))))))))))))))

theorem acas (f : Atom) : Statement (.acas f) :=
  ofC 32 rfl rfl ((if_neg fun h => ne_part 0 5 18#5 rfl rfl (hi (lo rfl rfl) rfl) h).trans ((if_neg fun h => ne_part 0 5 18#5 rfl rfl (hi (lo rfl rfl) rfl) h).trans ((if_neg fun h => ne_part 0 5 18#5 rfl rfl (hi (lo rfl rfl) rfl) h).trans ((if_neg fun h => ne_part 0 5 18#5 rfl rfl (hi (lo rfl rfl) rfl) h).trans ((if_neg fun h => ne_part 0 5 18#5 rfl rfl (hi (lo rfl rfl) rfl) h).trans ((if_neg fun h => ne_part 0 5 18#5 rfl rfl (hi (lo rfl rfl) rfl) h).trans ((if_neg fun h => ne_part 0 5 18#5 rfl rfl (hi (lo rfl rfl) rfl) h).trans ((if_neg fun h => ne_part 0 5 18#5 rfl rfl (hi (lo rfl rfl) rfl) h).trans ((if_neg fun h => ne_part 0 5 18#5 rfl rfl (hi (lo rfl rfl) rfl) h).trans ((if_neg fun h => ne_part 0 5 18#5 rfl rfl (hi (lo rfl rfl) rfl) h).trans ((if_neg fun h => ne_part 0 5 18#5 rfl rfl (hi (lo rfl rfl) rfl) h).trans ((if_neg fun h => ne_part 0 5 18#5 rfl rfl (hi (lo rfl rfl) rfl) h).trans ((if_neg fun h => ne_part 0 5 18#5 rfl rfl (hi (lo rfl rfl) rfl) h).trans ((if_neg fun h => ne_part 0 5 18#5 rfl rfl (hi (lo rfl rfl) rfl) h).trans ((if_neg fun h => ne_part 0 5 18#5 rfl rfl (hi (lo rfl rfl) rfl) h).trans ((if_neg fun h => ne_part 0 5 18#5 rfl rfl (hi (lo rfl rfl) rfl) h).trans ((if_neg fun h => ne_part 0 5 18#5 rfl rfl (hi (lo rfl rfl) rfl) h).trans ((if_neg fun h => ne_part 0 5 18#5 rfl rfl (hi (lo rfl rfl) rfl) h).trans ((if_pos (hi (lo rfl rfl) rfl)).trans (congrArg some (congrArg Instr.acas (congr (congr (congr (congrArg Atom.mk (hi (hi (hi (hi at_self rfl) rfl) rfl) rfl)) (hi (hi (hi (lo at_self rfl) rfl) rfl) rfl)) (hi (hi (lo at_self rfl) rfl) rfl)) (lo at_self rfl)))))))))))))))))))))))

theorem fence (r : BitVec 4) (sr : BitVec 4) : Statement (.fence r sr) :=
  ofC 33 rfl rfl ((if_pos ⟨hi (hi (hi (hi rfl rfl) rfl) rfl) rfl, hi (hi (lo rfl rfl) rfl) rfl, lo rfl rfl⟩).trans (congrArg some (congr (congrArg Instr.fence (hi (hi (hi (lo at_self rfl) rfl) rfl) rfl)) (hi (lo at_self rfl) rfl))))

theorem sbwait (m : BitVec 8) : Statement (.sbwait m) :=
  ofC 33 rfl rfl ((if_neg fun h => ne_part 0 6 1#6 rfl rfl (lo rfl rfl) h.2.2).trans ((if_pos ⟨hi (hi rfl rfl) rfl, lo rfl rfl⟩).trans (congrArg some (congrArg Instr.sbwait (hi (lo at_self rfl) rfl)))))

theorem prefetch (a : BitVec 6) (w : BitVec 3) (imm : BitVec 6) : Statement (.prefetch a w imm) :=
  ofC 34 rfl rfl ((if_pos ⟨hi (hi (hi (hi rfl rfl) rfl) rfl) rfl, hi (hi (lo rfl rfl) rfl) rfl⟩).trans (congrArg some (congr (congr (congrArg Instr.prefetch (hi (hi (hi (lo at_self rfl) rfl) rfl) rfl)) (hi (lo at_self rfl) rfl)) (lo at_self rfl))))

theorem touch (a : BitVec 6) (w : BitVec 3) (imm : BitVec 6) : Statement (.touch a w imm) :=
  ofC 35 rfl rfl ((if_pos ⟨hi (hi (hi (hi rfl rfl) rfl) rfl) rfl, hi (hi (lo rfl rfl) rfl) rfl⟩).trans (congrArg some (congr (congr (congrArg Instr.touch (hi (hi (hi (lo at_self rfl) rfl) rfl) rfl)) (hi (lo at_self rfl) rfl)) (lo at_self rfl))))

theorem ldfe (f : Mem) : Statement (.ldfe f) :=
  ofC 36 rfl rfl (congrArg some (congrArg Instr.ldfe (congr (congr (congr (congr (congrArg Mem.mk (hi (hi (hi (hi at_self rfl) rfl) rfl) rfl)) (hi (hi (hi (lo at_self rfl) rfl) rfl) rfl)) (hi (hi (lo at_self rfl) rfl) rfl)) (hi (lo at_self rfl) rfl)) (lo at_self rfl))))

theorem stfe (f : Mem) : Statement (.stfe f) :=
  ofC 37 rfl rfl (congrArg some (congrArg Instr.stfe (congr (congr (congr (congr (congrArg Mem.mk (hi (hi (hi (hi at_self rfl) rfl) rfl) rfl)) (hi (hi (hi (lo at_self rfl) rfl) rfl) rfl)) (hi (hi (lo at_self rfl) rfl) rfl)) (hi (lo at_self rfl) rfl)) (lo at_self rfl))))

theorem tbeg (a : BitVec 6) (k : BitVec 2) : Statement (.tbeg a k) :=
  ofC 38 rfl rfl ((if_pos ⟨hi (hi (hi (hi rfl rfl) rfl) rfl) rfl, hi (hi (lo rfl rfl) rfl) rfl, lo rfl rfl⟩).trans (congrArg some (congr (congrArg Instr.tbeg (hi (hi (hi (lo at_self rfl) rfl) rfl) rfl)) (hi (lo at_self rfl) rfl))))

theorem tend : Statement .tend := ofC 38 rfl rfl (by decide)

theorem tabort : Statement .tabort := ofC 38 rfl rfl (by decide)

theorem tserial : Statement .tserial := ofC 38 rfl rfl (by decide)

theorem tstamp (a : BitVec 6) : Statement (.tstamp a) :=
  ofC 38 rfl rfl ((if_neg fun h => ne_part 0 6 4#6 rfl rfl (lo rfl rfl) h.2.2).trans ((if_neg fun h => ne_part 0 12 4#12 rfl rfl (lo rfl rfl) h).trans ((if_neg fun h => ne_part 0 12 4#12 rfl rfl (lo rfl rfl) h).trans ((if_neg fun h => ne_part 0 12 4#12 rfl rfl (lo rfl rfl) h).trans ((if_pos ⟨hi (hi rfl rfl) rfl, lo rfl rfl⟩).trans (congrArg some (congrArg Instr.tstamp (hi (lo at_self rfl) rfl))))))))

theorem spawn (f : Rrrr) : Statement (.spawn f) :=
  ofC 40 rfl rfl (congrArg some (congrArg Instr.spawn (congr (congr (congr (congrArg Rrrr.mk (hi (hi (hi at_self rfl) rfl) rfl)) (hi (hi (lo at_self rfl) rfl) rfl)) (hi (lo at_self rfl) rfl)) (lo at_self rfl))))

theorem spawnc (f : Rrrr) : Statement (.spawnc f) :=
  ofC 41 rfl rfl (congrArg some (congrArg Instr.spawnc (congr (congr (congr (congrArg Rrrr.mk (hi (hi (hi at_self rfl) rfl) rfl)) (hi (hi (lo at_self rfl) rfl) rfl)) (hi (lo at_self rfl) rfl)) (lo at_self rfl))))

theorem spawnx (f : Rrrr) : Statement (.spawnx f) :=
  ofC 42 rfl rfl (congrArg some (congrArg Instr.spawnx (congr (congr (congr (congrArg Rrrr.mk (hi (hi (hi at_self rfl) rfl) rfl)) (hi (hi (lo at_self rfl) rfl) rfl)) (hi (lo at_self rfl) rfl)) (lo at_self rfl))))

theorem join (a : BitVec 6) : Statement (.join a) :=
  ofC 43 rfl rfl ((if_pos ⟨hi (hi rfl rfl) rfl, lo rfl rfl⟩).trans (congrArg some (congrArg Instr.join (hi (lo at_self rfl) rfl))))

theorem exit : Statement .exit := ofC 43 rfl rfl (by decide)

theorem prio (a : BitVec 6) : Statement (.prio a) :=
  ofC 43 rfl rfl ((if_neg fun h => ne_part 0 12 2#12 rfl rfl (lo rfl rfl) h.2).trans ((if_neg fun h => ne_part 0 12 2#12 rfl rfl (lo rfl rfl) h).trans ((if_pos ⟨hi (hi rfl rfl) rfl, lo rfl rfl⟩).trans (congrArg some (congrArg Instr.prio (hi (lo at_self rfl) rfl))))))

theorem migr (a : BitVec 6) : Statement (.migr a) :=
  ofC 43 rfl rfl ((if_neg fun h => ne_part 0 12 3#12 rfl rfl (lo rfl rfl) h.2).trans ((if_neg fun h => ne_part 0 12 3#12 rfl rfl (lo rfl rfl) h).trans ((if_neg fun h => ne_part 0 12 3#12 rfl rfl (lo rfl rfl) h.2).trans ((if_pos ⟨hi (hi rfl rfl) rfl, lo rfl rfl⟩).trans (congrArg some (congrArg Instr.migr (hi (lo at_self rfl) rfl)))))))

theorem kpt : Statement .kpt := ofC 43 rfl rfl (by decide)

theorem sinc (a : BitVec 6) (n : BitVec 6) (k : BitVec 1) : Statement (.sinc a n k) :=
  ofC 44 rfl rfl ((if_pos ⟨hi (hi (hi (hi (hi rfl rfl) rfl) rfl) rfl) rfl, hi (hi (lo rfl rfl) rfl) rfl, lo rfl rfl⟩).trans (congrArg some (congr (congr (congrArg Instr.sinc (hi (hi (hi (hi (lo at_self rfl) rfl) rfl) rfl) rfl)) (hi (hi (hi (lo at_self rfl) rfl) rfl) rfl)) (hi (lo at_self rfl) rfl))))

theorem swait (a : BitVec 6) (n : BitVec 6) (k : BitVec 1) : Statement (.swait a n k) :=
  ofC 44 rfl rfl ((if_neg fun h => ne_part 0 3 1#3 rfl rfl (lo rfl rfl) h.2.2).trans ((if_pos ⟨hi (hi (hi (hi (hi rfl rfl) rfl) rfl) rfl) rfl, hi (hi (lo rfl rfl) rfl) rfl, lo rfl rfl⟩).trans (congrArg some (congr (congr (congrArg Instr.swait (hi (hi (hi (hi (lo at_self rfl) rfl) rfl) rfl) rfl)) (hi (hi (hi (lo at_self rfl) rfl) rfl) rfl)) (hi (lo at_self rfl) rfl)))))

theorem sget (d : BitVec 6) (n : BitVec 6) (k : BitVec 1) : Statement (.sget d n k) :=
  ofC 44 rfl rfl ((if_neg fun h => ne_part 0 3 2#3 rfl rfl (lo rfl rfl) h.2.2).trans ((if_neg fun h => ne_part 0 3 2#3 rfl rfl (lo rfl rfl) h.2.2).trans ((if_pos ⟨hi (hi (hi (hi (lo rfl rfl) rfl) rfl) rfl) rfl, hi (hi (lo rfl rfl) rfl) rfl, lo rfl rfl⟩).trans (congrArg some (congr (congr (congrArg Instr.sget (hi (hi (hi (hi (hi at_self rfl) rfl) rfl) rfl) rfl)) (hi (hi (hi (lo at_self rfl) rfl) rfl) rfl)) (hi (lo at_self rfl) rfl))))))

theorem sset (a : BitVec 6) (n : BitVec 6) (k : BitVec 1) : Statement (.sset a n k) :=
  ofC 44 rfl rfl ((if_neg fun h => ne_part 0 3 3#3 rfl rfl (lo rfl rfl) h.2.2).trans ((if_neg fun h => ne_part 0 3 3#3 rfl rfl (lo rfl rfl) h.2.2).trans ((if_neg fun h => ne_part 0 3 3#3 rfl rfl (lo rfl rfl) h.2.2).trans ((if_pos ⟨hi (hi (hi (hi (hi rfl rfl) rfl) rfl) rfl) rfl, hi (hi (lo rfl rfl) rfl) rfl, lo rfl rfl⟩).trans (congrArg some (congr (congr (congrArg Instr.sset (hi (hi (hi (hi (lo at_self rfl) rfl) rfl) rfl) rfl)) (hi (hi (hi (lo at_self rfl) rfl) rfl) rfl)) (hi (lo at_self rfl) rfl)))))))

theorem smwait (d : BitVec 6) (a : BitVec 6) : Statement (.smwait d a) :=
  ofC 44 rfl rfl ((if_neg fun h => ne_part 0 3 4#3 rfl rfl (lo rfl rfl) h.2.2).trans ((if_neg fun h => ne_part 0 3 4#3 rfl rfl (lo rfl rfl) h.2.2).trans ((if_neg fun h => ne_part 0 3 4#3 rfl rfl (lo rfl rfl) h.2.2).trans ((if_neg fun h => ne_part 0 3 4#3 rfl rfl (lo rfl rfl) h.2.2).trans ((if_pos (lo rfl rfl)).trans (congrArg some (congr (congrArg Instr.smwait (hi (hi at_self rfl) rfl)) (hi (lo at_self rfl) rfl))))))))

theorem bar (r : BitVec 4) : Statement (.bar r) :=
  ofC 45 rfl rfl ((if_pos ⟨hi (hi rfl rfl) rfl, lo rfl rfl⟩).trans (congrArg some (congrArg Instr.bar (hi (lo at_self rfl) rfl))))

theorem barq (d : BitVec 6) (r : BitVec 4) : Statement (.barq d r) :=
  ofC 45 rfl rfl ((if_neg fun h => ne_part 0 6 1#6 rfl rfl (lo rfl rfl) h.2).trans ((if_pos ⟨hi (hi (lo rfl rfl) rfl) rfl, lo rfl rfl⟩).trans (congrArg some (congr (congrArg Instr.barq (hi (hi (hi at_self rfl) rfl) rfl)) (hi (lo at_self rfl) rfl)))))

theorem barqWait (r : BitVec 4) : Statement (.barqWait r) :=
  ofC 45 rfl rfl ((if_neg fun h => ne_part 0 6 2#6 rfl rfl (lo rfl rfl) h.2).trans ((if_neg fun h => ne_part 0 6 2#6 rfl rfl (lo rfl rfl) h.2).trans ((if_pos ⟨hi (hi rfl rfl) rfl, lo rfl rfl⟩).trans (congrArg some (congrArg Instr.barqWait (hi (lo at_self rfl) rfl))))))

theorem rparm (a : BitVec 6) (b : BitVec 6) : Statement (.rparm a b) :=
  ofC 46 rfl rfl ((if_pos ⟨hi (hi (hi rfl rfl) rfl) rfl, lo rfl rfl⟩).trans (congrArg some (congr (congrArg Instr.rparm (hi (hi (lo at_self rfl) rfl) rfl)) (hi (lo at_self rfl) rfl))))

theorem rpjoin (h : BitVec 6) (a : BitVec 6) (b : BitVec 6) : Statement (.rpjoin h a b) :=
  ofC 46 rfl rfl ((if_neg fun h => ne_part 0 6 1#6 rfl rfl (lo rfl rfl) h.2).trans ((if_pos (lo rfl rfl)).trans (congrArg some (congr (congr (congrArg Instr.rpjoin (hi (hi (hi at_self rfl) rfl) rfl)) (hi (hi (lo at_self rfl) rfl) rfl)) (hi (lo at_self rfl) rfl)))))

theorem rparr (d : BitVec 6) (a : BitVec 6) : Statement (.rparr d a) :=
  ofC 46 rfl rfl ((if_neg fun h => ne_part 0 6 2#6 rfl rfl (lo rfl rfl) h.2).trans ((if_neg fun h => ne_part 0 6 2#6 rfl rfl (lo rfl rfl) h).trans ((if_pos (lo rfl rfl)).trans (congrArg some (congr (congrArg Instr.rparr (hi (hi at_self rfl) rfl)) (hi (lo at_self rfl) rfl))))))

theorem rpwait (a : BitVec 6) : Statement (.rpwait a) :=
  ofC 46 rfl rfl ((if_neg fun h => ne_part 0 6 3#6 rfl rfl (lo rfl rfl) h.2).trans ((if_neg fun h => ne_part 0 6 3#6 rfl rfl (lo rfl rfl) h).trans ((if_neg fun h => ne_part 0 12 3#12 rfl rfl (lo rfl rfl) h).trans ((if_pos ⟨hi (hi rfl rfl) rfl, lo rfl rfl⟩).trans (congrArg some (congrArg Instr.rpwait (hi (lo at_self rfl) rfl)))))))

theorem rpstat (a : BitVec 6) : Statement (.rpstat a) :=
  ofC 46 rfl rfl ((if_neg fun h => ne_part 0 6 4#6 rfl rfl (lo rfl rfl) h.2).trans ((if_neg fun h => ne_part 0 6 4#6 rfl rfl (lo rfl rfl) h).trans ((if_neg fun h => ne_part 0 12 4#12 rfl rfl (lo rfl rfl) h).trans ((if_neg fun h => ne_part 0 12 4#12 rfl rfl (lo rfl rfl) h.2).trans ((if_pos ⟨hi (hi rfl rfl) rfl, lo rfl rfl⟩).trans (congrArg some (congrArg Instr.rpstat (hi (lo at_self rfl) rfl))))))))

theorem rpleave : Statement .rpleave := ofC 46 rfl rfl (by decide)

theorem flsub (f : Rrr) (m : BitVec 1) : Statement (.flsub f m) :=
  ofC 47 rfl rfl ((if_pos ⟨hi (hi (lo rfl rfl) rfl) rfl, lo rfl rfl⟩).trans (congrArg some (congr (congrArg Instr.flsub (congr (congr (congrArg Rrr.mk (hi (hi (hi (hi (hi at_self rfl) rfl) rfl) rfl) rfl)) (hi (hi (hi (hi (lo at_self rfl) rfl) rfl) rfl) rfl)) (hi (hi (hi (lo at_self rfl) rfl) rfl) rfl))) (hi (lo at_self rfl) rfl))))

theorem flend (a : BitVec 6) : Statement (.flend a) :=
  ofC 47 rfl rfl ((if_neg fun h => ne_part 0 3 1#3 rfl rfl (lo rfl rfl) h.2).trans ((if_pos ⟨hi (hi rfl rfl) rfl, lo rfl rfl⟩).trans (congrArg some (congrArg Instr.flend (hi (lo at_self rfl) rfl)))))

theorem flsync (a : BitVec 6) : Statement (.flsync a) :=
  ofC 47 rfl rfl ((if_neg fun h => ne_part 0 3 2#3 rfl rfl (lo rfl rfl) h.2).trans ((if_neg fun h => ne_part 0 12 2#12 rfl rfl (lo rfl rfl) h.2).trans ((if_pos ⟨hi (hi rfl rfl) rfl, lo rfl rfl⟩).trans (congrArg some (congrArg Instr.flsync (hi (lo at_self rfl) rfl))))))

theorem flstat (d : BitVec 6) (a : BitVec 6) : Statement (.flstat d a) :=
  ofC 47 rfl rfl ((if_neg fun h => ne_part 0 3 3#3 rfl rfl (lo rfl rfl) h.2).trans ((if_neg fun h => ne_part 0 12 3#12 rfl rfl (lo rfl rfl) h.2).trans ((if_neg fun h => ne_part 0 12 3#12 rfl rfl (lo rfl rfl) h.2).trans ((if_pos (lo rfl rfl)).trans (congrArg some (congr (congrArg Instr.flstat (hi (hi at_self rfl) rfl)) (hi (lo at_self rfl) rfl)))))))

theorem flstatClr (d : BitVec 6) (a : BitVec 6) : Statement (.flstatClr d a) :=
  ofC 47 rfl rfl ((if_neg fun h => ne_part 0 3 4#3 rfl rfl (lo rfl rfl) h.2).trans ((if_neg fun h => ne_part 0 12 4#12 rfl rfl (lo rfl rfl) h.2).trans ((if_neg fun h => ne_part 0 12 4#12 rfl rfl (lo rfl rfl) h.2).trans ((if_neg fun h => ne_part 0 12 4#12 rfl rfl (lo rfl rfl) h).trans ((if_pos (lo rfl rfl)).trans (congrArg some (congr (congrArg Instr.flstatClr (hi (hi at_self rfl) rfl)) (hi (lo at_self rfl) rfl))))))))

theorem send (f : Rrr) (q : BitVec 3) : Statement (.send f q) :=
  ofC 48 rfl rfl ((if_pos (lo rfl rfl)).trans (congrArg some (congr (congrArg Instr.send (congr (congr (congrArg Rrr.mk (hi (hi (hi (hi at_self rfl) rfl) rfl) rfl)) (hi (hi (hi (lo at_self rfl) rfl) rfl) rfl)) (hi (hi (lo at_self rfl) rfl) rfl))) (hi (lo at_self rfl) rfl))))

theorem acqr (a : BitVec 6) : Statement (.acqr a) :=
  ofC 48 rfl rfl ((if_neg fun h => ne_part 0 3 1#3 rfl rfl (lo rfl rfl) h).trans ((if_pos ⟨hi (hi rfl rfl) rfl, lo rfl rfl⟩).trans (congrArg some (congrArg Instr.acqr (hi (lo at_self rfl) rfl)))))

theorem relr (a : BitVec 6) : Statement (.relr a) :=
  ofC 48 rfl rfl ((if_neg fun h => ne_part 0 3 2#3 rfl rfl (lo rfl rfl) h).trans ((if_neg fun h => ne_part 0 12 2#12 rfl rfl (lo rfl rfl) h.2).trans ((if_pos ⟨hi (hi rfl rfl) rfl, lo rfl rfl⟩).trans (congrArg some (congrArg Instr.relr (hi (lo at_self rfl) rfl))))))

theorem ksend (x : BitVec 6) (y : BitVec 6) (e : BitVec 1) (c : BitVec 3) (q : Tail) : Statement (.ksend x y e c q) :=
  ofC 49 rfl rfl ((if_pos (hi (hi (hi (lo rfl rfl) rfl) rfl) rfl)).trans (congrArg some (congr (congr (congr (congr (congrArg Instr.ksend (hi (hi (hi (hi (hi (hi (hi at_self rfl) rfl) rfl) rfl) rfl) rfl) rfl)) (hi (hi (hi (hi (hi (hi (lo at_self rfl) rfl) rfl) rfl) rfl) rfl) rfl)) (hi (hi (hi (hi (hi (lo at_self rfl) rfl) rfl) rfl) rfl) rfl)) (hi (hi (hi (hi (lo at_self rfl) rfl) rfl) rfl) rfl)) (congr (congr (congrArg Tail.mk (hi (hi (lo at_self rfl) rfl) rfl)) (hi (lo at_self rfl) rfl)) (lo at_self rfl)))))

theorem kflush (q : Tail) : Statement (.kflush q) :=
  ofC 49 rfl rfl ((if_neg fun h => ne_part 0 2 1#2 rfl rfl (hi (hi (hi rfl rfl) rfl) rfl) h).trans ((if_pos (hi (hi (hi rfl rfl) rfl) rfl)).trans (congrArg some (congrArg Instr.kflush (congr (congr (congrArg Tail.mk (hi (hi (lo at_self rfl) rfl) rfl)) (hi (lo at_self rfl) rfl)) (lo at_self rfl))))))

theorem kbins (x : BitVec 6) (y : BitVec 6) (q : Tail) : Statement (.kbins x y q) :=
  ofC 49 rfl rfl ((if_neg fun h => ne_part 0 2 2#2 rfl rfl (hi (hi (hi (lo rfl rfl) rfl) rfl) rfl) h).trans ((if_neg fun h => ne_part 0 6 2#6 rfl rfl (hi (hi (hi (lo rfl rfl) rfl) rfl) rfl) h).trans ((if_pos (hi (hi (hi (lo rfl rfl) rfl) rfl) rfl)).trans (congrArg some (congr (congr (congrArg Instr.kbins (hi (hi (hi (hi (hi at_self rfl) rfl) rfl) rfl) rfl)) (hi (hi (hi (hi (lo at_self rfl) rfl) rfl) rfl) rfl)) (congr (congr (congrArg Tail.mk (hi (hi (lo at_self rfl) rfl) rfl)) (hi (lo at_self rfl) rfl)) (lo at_self rfl)))))))

theorem kbinsMap (x : BitVec 6) (y : BitVec 6) (q : Tail) : Statement (.kbinsMap x y q) :=
  ofC 49 rfl rfl ((if_neg fun h => ne_part 0 2 2#2 rfl rfl (hi (hi (hi (lo rfl rfl) rfl) rfl) rfl) h).trans ((if_neg fun h => ne_part 0 6 6#6 rfl rfl (hi (hi (hi (lo rfl rfl) rfl) rfl) rfl) h).trans ((if_neg fun h => ne_part 0 6 6#6 rfl rfl (hi (hi (hi (lo rfl rfl) rfl) rfl) rfl) h).trans ((if_pos (hi (hi (hi (lo rfl rfl) rfl) rfl) rfl)).trans (congrArg some (congr (congr (congrArg Instr.kbinsMap (hi (hi (hi (hi (hi at_self rfl) rfl) rfl) rfl) rfl)) (hi (hi (hi (hi (lo at_self rfl) rfl) rfl) rfl) rfl)) (congr (congr (congrArg Tail.mk (hi (hi (lo at_self rfl) rfl) rfl)) (hi (lo at_self rfl) rfl)) (lo at_self rfl))))))))

theorem kbinsStat (x : BitVec 6) (q : Tail) : Statement (.kbinsStat x q) :=
  ofC 49 rfl rfl ((if_neg fun h => ne_part 0 2 2#2 rfl rfl (hi (hi (hi (lo rfl rfl) rfl) rfl) rfl) h).trans ((if_neg fun h => ne_part 0 12 10#12 rfl rfl (hi (hi (hi (lo rfl rfl) rfl) rfl) rfl) h).trans ((if_neg fun h => ne_part 0 6 10#6 rfl rfl (hi (hi (hi (lo rfl rfl) rfl) rfl) rfl) h).trans ((if_neg fun h => ne_part 0 6 10#6 rfl rfl (hi (hi (hi (lo rfl rfl) rfl) rfl) rfl) h).trans ((if_pos (hi (hi (hi (lo rfl rfl) rfl) rfl) rfl)).trans (congrArg some (congr (congrArg Instr.kbinsStat (hi (hi (hi (hi at_self rfl) rfl) rfl) rfl)) (congr (congr (congrArg Tail.mk (hi (hi (lo at_self rfl) rfl) rfl)) (hi (lo at_self rfl) rfl)) (lo at_self rfl)))))))))

theorem tld (x : BitVec 6) (y : BitVec 6) (k : BitVec 4) (q : Tail) : Statement (.tld x y k q) :=
  ofC 50 rfl rfl ((if_pos (hi (hi (hi (hi (lo rfl rfl) rfl) rfl) rfl) rfl)).trans (congrArg some (congr (congr (congr (congrArg Instr.tld (hi (hi (hi (hi (hi (hi at_self rfl) rfl) rfl) rfl) rfl) rfl)) (hi (hi (hi (hi (hi (lo at_self rfl) rfl) rfl) rfl) rfl) rfl)) (hi (hi (hi (lo at_self rfl) rfl) rfl) rfl)) (congr (congr (congrArg Tail.mk (hi (hi (lo at_self rfl) rfl) rfl)) (hi (lo at_self rfl) rfl)) (lo at_self rfl)))))

theorem tst (x : BitVec 6) (y : BitVec 6) (k : BitVec 4) (q : Tail) : Statement (.tst x y k q) :=
  ofC 51 rfl rfl ((if_pos (hi (hi (hi (hi (lo rfl rfl) rfl) rfl) rfl) rfl)).trans (congrArg some (congr (congr (congr (congrArg Instr.tst (hi (hi (hi (hi (hi (hi at_self rfl) rfl) rfl) rfl) rfl) rfl)) (hi (hi (hi (hi (hi (lo at_self rfl) rfl) rfl) rfl) rfl) rfl)) (hi (hi (hi (lo at_self rfl) rfl) rfl) rfl)) (congr (congr (congrArg Tail.mk (hi (hi (lo at_self rfl) rfl) rfl)) (hi (lo at_self rfl) rfl)) (lo at_self rfl)))))

theorem tzero (x : BitVec 6) (k : BitVec 4) (q : Tail) : Statement (.tzero x k q) :=
  ofC 52 rfl rfl ((if_pos (hi (hi (hi (hi (lo rfl rfl) rfl) rfl) rfl) rfl)).trans (congrArg some (congr (congr (congrArg Instr.tzero (hi (hi (hi (hi (hi at_self rfl) rfl) rfl) rfl) rfl)) (hi (hi (hi (lo at_self rfl) rfl) rfl) rfl)) (congr (congr (congrArg Tail.mk (hi (hi (lo at_self rfl) rfl) rfl)) (hi (lo at_self rfl) rfl)) (lo at_self rfl)))))

theorem accz (c : BitVec 2) (q : Tail) : Statement (.accz c q) :=
  ofC 52 rfl rfl ((if_neg fun h => ne_part 0 8 2#8 rfl rfl (hi (hi (hi (hi rfl rfl) rfl) rfl) rfl) h).trans ((if_pos (hi (hi (hi (hi rfl rfl) rfl) rfl) rfl)).trans (congrArg some (congr (congrArg Instr.accz (hi (hi (hi (lo at_self rfl) rfl) rfl) rfl)) (congr (congr (congrArg Tail.mk (hi (hi (lo at_self rfl) rfl) rfl)) (hi (lo at_self rfl) rfl)) (lo at_self rfl))))))

theorem mma (x : BitVec 6) (c : BitVec 2) (q : Tail) : Statement (.mma x c q) :=
  ofC 53 rfl rfl ((if_pos (hi (hi (hi (hi (lo rfl rfl) rfl) rfl) rfl) rfl)).trans (congrArg some (congr (congr (congrArg Instr.mma (hi (hi (hi (hi (hi at_self rfl) rfl) rfl) rfl) rfl)) (hi (hi (hi (lo at_self rfl) rfl) rfl) rfl)) (congr (congr (congrArg Tail.mk (hi (hi (lo at_self rfl) rfl) rfl)) (hi (lo at_self rfl) rfl)) (lo at_self rfl)))))

theorem mmat (x : BitVec 6) (c : BitVec 2) (q : Tail) : Statement (.mmat x c q) :=
  ofC 53 rfl rfl ((if_neg fun h => ne_part 0 10 1#10 rfl rfl (hi (hi (hi (hi (lo rfl rfl) rfl) rfl) rfl) rfl) h).trans ((if_pos (hi (hi (hi (hi (lo rfl rfl) rfl) rfl) rfl) rfl)).trans (congrArg some (congr (congr (congrArg Instr.mmat (hi (hi (hi (hi (hi at_self rfl) rfl) rfl) rfl) rfl)) (hi (hi (hi (lo at_self rfl) rfl) rfl) rfl)) (congr (congr (congrArg Tail.mk (hi (hi (lo at_self rfl) rfl) rfl)) (hi (lo at_self rfl) rfl)) (lo at_self rfl))))))

theorem mvs (x : BitVec 6) (y : BitVec 6) (e : BitVec 1) (g : BitVec 3) (c : BitVec 2) (q : Tail) : Statement (.mvs x y e g c q) :=
  ofC 54 rfl rfl (congrArg some (congr (congr (congr (congr (congr (congrArg Instr.mvs (hi (hi (hi (hi (hi (hi (hi at_self rfl) rfl) rfl) rfl) rfl) rfl) rfl)) (hi (hi (hi (hi (hi (hi (lo at_self rfl) rfl) rfl) rfl) rfl) rfl) rfl)) (hi (hi (hi (hi (hi (lo at_self rfl) rfl) rfl) rfl) rfl) rfl)) (hi (hi (hi (hi (lo at_self rfl) rfl) rfl) rfl) rfl)) (hi (hi (hi (lo at_self rfl) rfl) rfl) rfl)) (congr (congr (congrArg Tail.mk (hi (hi (lo at_self rfl) rfl) rfl)) (hi (lo at_self rfl) rfl)) (lo at_self rfl))))

theorem epi (x : BitVec 6) (y : BitVec 6) (e : BitVec 1) (g : BitVec 3) (c : BitVec 2) (q : Tail) : Statement (.epi x y e g c q) :=
  ofC 55 rfl rfl (congrArg some (congr (congr (congr (congr (congr (congrArg Instr.epi (hi (hi (hi (hi (hi (hi (hi at_self rfl) rfl) rfl) rfl) rfl) rfl) rfl)) (hi (hi (hi (hi (hi (hi (lo at_self rfl) rfl) rfl) rfl) rfl) rfl) rfl)) (hi (hi (hi (hi (hi (lo at_self rfl) rfl) rfl) rfl) rfl) rfl)) (hi (hi (hi (hi (lo at_self rfl) rfl) rfl) rfl) rfl)) (hi (hi (hi (lo at_self rfl) rfl) rfl) rfl)) (congr (congr (congrArg Tail.mk (hi (hi (lo at_self rfl) rfl) rfl)) (hi (lo at_self rfl) rfl)) (lo at_self rfl))))

theorem cpy (x : BitVec 6) (y : BitVec 6) (e : BitVec 1) (g : BitVec 3) (q : Tail) : Statement (.cpy x y e g q) :=
  ofC 56 rfl rfl ((if_pos (hi (hi (hi (lo rfl rfl) rfl) rfl) rfl)).trans (congrArg some (congr (congr (congr (congr (congrArg Instr.cpy (hi (hi (hi (hi (hi (hi (hi at_self rfl) rfl) rfl) rfl) rfl) rfl) rfl)) (hi (hi (hi (hi (hi (hi (lo at_self rfl) rfl) rfl) rfl) rfl) rfl) rfl)) (hi (hi (hi (hi (hi (lo at_self rfl) rfl) rfl) rfl) rfl) rfl)) (hi (hi (hi (hi (lo at_self rfl) rfl) rfl) rfl) rfl)) (congr (congr (congrArg Tail.mk (hi (hi (lo at_self rfl) rfl) rfl)) (hi (lo at_self rfl) rfl)) (lo at_self rfl)))))

theorem cpyp (x : BitVec 6) (y : BitVec 6) (e : BitVec 1) (g : BitVec 3) (q : Tail) : Statement (.cpyp x y e g q) :=
  ofC 56 rfl rfl ((if_neg fun h => ne_part 0 2 1#2 rfl rfl (hi (hi (hi (lo rfl rfl) rfl) rfl) rfl) h).trans ((if_pos (hi (hi (hi (lo rfl rfl) rfl) rfl) rfl)).trans (congrArg some (congr (congr (congr (congr (congrArg Instr.cpyp (hi (hi (hi (hi (hi (hi (hi at_self rfl) rfl) rfl) rfl) rfl) rfl) rfl)) (hi (hi (hi (hi (hi (hi (lo at_self rfl) rfl) rfl) rfl) rfl) rfl) rfl)) (hi (hi (hi (hi (hi (lo at_self rfl) rfl) rfl) rfl) rfl) rfl)) (hi (hi (hi (hi (lo at_self rfl) rfl) rfl) rfl) rfl)) (congr (congr (congrArg Tail.mk (hi (hi (lo at_self rfl) rfl) rfl)) (hi (lo at_self rfl) rfl)) (lo at_self rfl))))))

theorem cpyf (x : BitVec 6) (y : BitVec 6) (e : BitVec 1) (g : BitVec 3) (q : Tail) : Statement (.cpyf x y e g q) :=
  ofC 56 rfl rfl ((if_neg fun h => ne_part 0 2 2#2 rfl rfl (hi (hi (hi (lo rfl rfl) rfl) rfl) rfl) h).trans ((if_neg fun h => ne_part 0 2 2#2 rfl rfl (hi (hi (hi (lo rfl rfl) rfl) rfl) rfl) h).trans ((if_pos (hi (hi (hi (lo rfl rfl) rfl) rfl) rfl)).trans (congrArg some (congr (congr (congr (congr (congrArg Instr.cpyf (hi (hi (hi (hi (hi (hi (hi at_self rfl) rfl) rfl) rfl) rfl) rfl) rfl)) (hi (hi (hi (hi (hi (hi (lo at_self rfl) rfl) rfl) rfl) rfl) rfl) rfl)) (hi (hi (hi (hi (hi (lo at_self rfl) rfl) rfl) rfl) rfl) rfl)) (hi (hi (hi (hi (lo at_self rfl) rfl) rfl) rfl) rfl)) (congr (congr (congrArg Tail.mk (hi (hi (lo at_self rfl) rfl) rfl)) (hi (lo at_self rfl) rfl)) (lo at_self rfl)))))))

theorem put (x : BitVec 6) (y : BitVec 6) (q : Tail) : Statement (.put x y q) :=
  ofC 57 rfl rfl ((if_pos (hi (hi (hi (lo rfl rfl) rfl) rfl) rfl)).trans (congrArg some (congr (congr (congrArg Instr.put (hi (hi (hi (hi (hi at_self rfl) rfl) rfl) rfl) rfl)) (hi (hi (hi (hi (lo at_self rfl) rfl) rfl) rfl) rfl)) (congr (congr (congrArg Tail.mk (hi (hi (lo at_self rfl) rfl) rfl)) (hi (lo at_self rfl) rfl)) (lo at_self rfl)))))

theorem get (x : BitVec 6) (y : BitVec 6) (q : Tail) : Statement (.get x y q) :=
  ofC 57 rfl rfl ((if_neg fun h => ne_part 0 6 1#6 rfl rfl (hi (hi (hi (lo rfl rfl) rfl) rfl) rfl) h).trans ((if_pos (hi (hi (hi (lo rfl rfl) rfl) rfl) rfl)).trans (congrArg some (congr (congr (congrArg Instr.get (hi (hi (hi (hi (hi at_self rfl) rfl) rfl) rfl) rfl)) (hi (hi (hi (hi (lo at_self rfl) rfl) rfl) rfl) rfl)) (congr (congr (congrArg Tail.mk (hi (hi (lo at_self rfl) rfl) rfl)) (hi (lo at_self rfl) rfl)) (lo at_self rfl))))))

theorem mvc (d : BitVec 6) (c : BitVec 16) : Statement (.mvc d c) :=
  ofC 58 rfl rfl ((if_pos (hi (lo rfl rfl) rfl)).trans (congrArg some (congr (congrArg Instr.mvc (hi (hi at_self rfl) rfl)) (lo at_self rfl))))

theorem mtc (d : BitVec 6) (c : BitVec 16) : Statement (.mtc d c) :=
  ofC 59 rfl rfl ((if_pos (hi (lo rfl rfl) rfl)).trans (congrArg some (congr (congrArg Instr.mtc (hi (hi at_self rfl) rfl)) (lo at_self rfl))))

theorem rte : Statement .rte := ofC 60 rfl rfl (by decide)

theorem sysc (c : BitVec 12) : Statement (.sysc c) :=
  ofC 60 rfl rfl ((if_neg fun h => ne_part 0 12 1#12 rfl rfl (lo rfl rfl) h).trans ((if_pos (lo rfl rfl)).trans (congrArg some (congrArg Instr.sysc (hi at_self rfl)))))

theorem bkpt (c : BitVec 12) : Statement (.bkpt c) :=
  ofC 60 rfl rfl ((if_neg fun h => ne_part 0 12 2#12 rfl rfl (lo rfl rfl) h).trans ((if_neg fun h => ne_part 0 12 2#12 rfl rfl (lo rfl rfl) h).trans ((if_pos (lo rfl rfl)).trans (congrArg some (congrArg Instr.bkpt (hi at_self rfl))))))

theorem halt : Statement .halt := ofC 60 rfl rfl (by decide)

theorem csave (f : Rrr) : Statement (.csave f) :=
  ofC 61 rfl rfl ((if_pos (lo rfl rfl)).trans (congrArg some (congrArg Instr.csave (congr (congr (congrArg Rrr.mk (hi (hi (hi at_self rfl) rfl) rfl)) (hi (hi (lo at_self rfl) rfl) rfl)) (hi (lo at_self rfl) rfl)))))

theorem crest (f : Rrr) : Statement (.crest f) :=
  ofC 61 rfl rfl ((if_neg fun h => ne_part 0 6 1#6 rfl rfl (lo rfl rfl) h).trans ((if_pos (lo rfl rfl)).trans (congrArg some (congrArg Instr.crest (congr (congr (congrArg Rrr.mk (hi (hi (hi at_self rfl) rfl) rfl)) (hi (hi (lo at_self rfl) rfl) rfl)) (hi (lo at_self rfl) rfl))))))

theorem tlbinv (a : BitVec 6) (b : BitVec 6) : Statement (.tlbinv a b) :=
  ofC 62 rfl rfl ((if_pos ⟨hi (hi (hi rfl rfl) rfl) rfl, lo rfl rfl⟩).trans (congrArg some (congr (congrArg Instr.tlbinv (hi (hi (lo at_self rfl) rfl) rfl)) (hi (lo at_self rfl) rfl))))

theorem tlbinvCtx (a : BitVec 6) (b : BitVec 6) : Statement (.tlbinvCtx a b) :=
  ofC 62 rfl rfl ((if_neg fun h => ne_part 0 6 1#6 rfl rfl (lo rfl rfl) h.2).trans ((if_pos ⟨hi (hi (hi rfl rfl) rfl) rfl, lo rfl rfl⟩).trans (congrArg some (congr (congrArg Instr.tlbinvCtx (hi (hi (lo at_self rfl) rfl) rfl)) (hi (lo at_self rfl) rfl)))))

theorem anop (g : Guard) : Statement (.anop g) :=
  ofA 0 rfl rfl ((if_pos (lo rfl rfl)).trans (congrArg some (congrArg Instr.anop (congr (congrArg Guard.mk (hi (hi at_self rfl) rfl)) (hi (lo at_self rfl) rfl)))))

theorem add (g : Guard) (f : Rrr) (x : BitVec 1) : Statement (.add g f x) :=
  ofA 1 rfl rfl (congrArg some (congr (congr (congrArg Instr.add (congr (congrArg Guard.mk (hi (hi (hi (hi (hi at_self rfl) rfl) rfl) rfl) rfl)) (hi (hi (hi (hi (lo at_self rfl) rfl) rfl) rfl) rfl))) (congr (congr (congrArg Rrr.mk (hi (hi (hi (lo at_self rfl) rfl) rfl) rfl)) (hi (hi (lo at_self rfl) rfl) rfl)) (hi (lo at_self rfl) rfl))) (lo at_self rfl)))

theorem sub (g : Guard) (f : Rrr) (x : BitVec 1) : Statement (.sub g f x) :=
  ofA 2 rfl rfl (congrArg some (congr (congr (congrArg Instr.sub (congr (congrArg Guard.mk (hi (hi (hi (hi (hi at_self rfl) rfl) rfl) rfl) rfl)) (hi (hi (hi (hi (lo at_self rfl) rfl) rfl) rfl) rfl))) (congr (congr (congrArg Rrr.mk (hi (hi (hi (lo at_self rfl) rfl) rfl) rfl)) (hi (hi (lo at_self rfl) rfl) rfl)) (hi (lo at_self rfl) rfl))) (lo at_self rfl)))

theorem mul (g : Guard) (f : Rrr) (x : BitVec 1) : Statement (.mul g f x) :=
  ofA 3 rfl rfl (congrArg some (congr (congr (congrArg Instr.mul (congr (congrArg Guard.mk (hi (hi (hi (hi (hi at_self rfl) rfl) rfl) rfl) rfl)) (hi (hi (hi (hi (lo at_self rfl) rfl) rfl) rfl) rfl))) (congr (congr (congrArg Rrr.mk (hi (hi (hi (lo at_self rfl) rfl) rfl) rfl)) (hi (hi (lo at_self rfl) rfl) rfl)) (hi (lo at_self rfl) rfl))) (lo at_self rfl)))

theorem mulh (g : Guard) (f : Rrr) (x : BitVec 1) : Statement (.mulh g f x) :=
  ofA 4 rfl rfl (congrArg some (congr (congr (congrArg Instr.mulh (congr (congrArg Guard.mk (hi (hi (hi (hi (hi at_self rfl) rfl) rfl) rfl) rfl)) (hi (hi (hi (hi (lo at_self rfl) rfl) rfl) rfl) rfl))) (congr (congr (congrArg Rrr.mk (hi (hi (hi (lo at_self rfl) rfl) rfl) rfl)) (hi (hi (lo at_self rfl) rfl) rfl)) (hi (lo at_self rfl) rfl))) (lo at_self rfl)))

theorem div (g : Guard) (f : Rrr) (x : BitVec 1) : Statement (.div g f x) :=
  ofA 5 rfl rfl (congrArg some (congr (congr (congrArg Instr.div (congr (congrArg Guard.mk (hi (hi (hi (hi (hi at_self rfl) rfl) rfl) rfl) rfl)) (hi (hi (hi (hi (lo at_self rfl) rfl) rfl) rfl) rfl))) (congr (congr (congrArg Rrr.mk (hi (hi (hi (lo at_self rfl) rfl) rfl) rfl)) (hi (hi (lo at_self rfl) rfl) rfl)) (hi (lo at_self rfl) rfl))) (lo at_self rfl)))

theorem rem (g : Guard) (f : Rrr) (x : BitVec 1) : Statement (.rem g f x) :=
  ofA 6 rfl rfl (congrArg some (congr (congr (congrArg Instr.rem (congr (congrArg Guard.mk (hi (hi (hi (hi (hi at_self rfl) rfl) rfl) rfl) rfl)) (hi (hi (hi (hi (lo at_self rfl) rfl) rfl) rfl) rfl))) (congr (congr (congrArg Rrr.mk (hi (hi (hi (lo at_self rfl) rfl) rfl) rfl)) (hi (hi (lo at_self rfl) rfl) rfl)) (hi (lo at_self rfl) rfl))) (lo at_self rfl)))

theorem min (g : Guard) (f : Rrr) (x : BitVec 1) : Statement (.min g f x) :=
  ofA 7 rfl rfl (congrArg some (congr (congr (congrArg Instr.min (congr (congrArg Guard.mk (hi (hi (hi (hi (hi at_self rfl) rfl) rfl) rfl) rfl)) (hi (hi (hi (hi (lo at_self rfl) rfl) rfl) rfl) rfl))) (congr (congr (congrArg Rrr.mk (hi (hi (hi (lo at_self rfl) rfl) rfl) rfl)) (hi (hi (lo at_self rfl) rfl) rfl)) (hi (lo at_self rfl) rfl))) (lo at_self rfl)))

theorem max (g : Guard) (f : Rrr) (x : BitVec 1) : Statement (.max g f x) :=
  ofA 8 rfl rfl (congrArg some (congr (congr (congrArg Instr.max (congr (congrArg Guard.mk (hi (hi (hi (hi (hi at_self rfl) rfl) rfl) rfl) rfl)) (hi (hi (hi (hi (lo at_self rfl) rfl) rfl) rfl) rfl))) (congr (congr (congrArg Rrr.mk (hi (hi (hi (lo at_self rfl) rfl) rfl) rfl)) (hi (hi (lo at_self rfl) rfl) rfl)) (hi (lo at_self rfl) rfl))) (lo at_self rfl)))

theorem and (g : Guard) (f : Rrr) : Statement (.and g f) :=
  ofA 9 rfl rfl ((if_pos (lo rfl rfl)).trans (congrArg some (congr (congrArg Instr.and (congr (congrArg Guard.mk (hi (hi (hi (hi (hi at_self rfl) rfl) rfl) rfl) rfl)) (hi (hi (hi (hi (lo at_self rfl) rfl) rfl) rfl) rfl))) (congr (congr (congrArg Rrr.mk (hi (hi (hi (lo at_self rfl) rfl) rfl) rfl)) (hi (hi (lo at_self rfl) rfl) rfl)) (hi (lo at_self rfl) rfl)))))

theorem or (g : Guard) (f : Rrr) : Statement (.or g f) :=
  ofA 10 rfl rfl ((if_pos (lo rfl rfl)).trans (congrArg some (congr (congrArg Instr.or (congr (congrArg Guard.mk (hi (hi (hi (hi (hi at_self rfl) rfl) rfl) rfl) rfl)) (hi (hi (hi (hi (lo at_self rfl) rfl) rfl) rfl) rfl))) (congr (congr (congrArg Rrr.mk (hi (hi (hi (lo at_self rfl) rfl) rfl) rfl)) (hi (hi (lo at_self rfl) rfl) rfl)) (hi (lo at_self rfl) rfl)))))

theorem xor (g : Guard) (f : Rrr) : Statement (.xor g f) :=
  ofA 11 rfl rfl ((if_pos (lo rfl rfl)).trans (congrArg some (congr (congrArg Instr.xor (congr (congrArg Guard.mk (hi (hi (hi (hi (hi at_self rfl) rfl) rfl) rfl) rfl)) (hi (hi (hi (hi (lo at_self rfl) rfl) rfl) rfl) rfl))) (congr (congr (congrArg Rrr.mk (hi (hi (hi (lo at_self rfl) rfl) rfl) rfl)) (hi (hi (lo at_self rfl) rfl) rfl)) (hi (lo at_self rfl) rfl)))))

theorem andn (g : Guard) (f : Rrr) : Statement (.andn g f) :=
  ofA 12 rfl rfl ((if_pos (lo rfl rfl)).trans (congrArg some (congr (congrArg Instr.andn (congr (congrArg Guard.mk (hi (hi (hi (hi (hi at_self rfl) rfl) rfl) rfl) rfl)) (hi (hi (hi (hi (lo at_self rfl) rfl) rfl) rfl) rfl))) (congr (congr (congrArg Rrr.mk (hi (hi (hi (lo at_self rfl) rfl) rfl) rfl)) (hi (hi (lo at_self rfl) rfl) rfl)) (hi (lo at_self rfl) rfl)))))

theorem shl (g : Guard) (f : Rrr) (x : BitVec 1) : Statement (.shl g f x) :=
  ofA 13 rfl rfl (congrArg some (congr (congr (congrArg Instr.shl (congr (congrArg Guard.mk (hi (hi (hi (hi (hi at_self rfl) rfl) rfl) rfl) rfl)) (hi (hi (hi (hi (lo at_self rfl) rfl) rfl) rfl) rfl))) (congr (congr (congrArg Rrr.mk (hi (hi (hi (lo at_self rfl) rfl) rfl) rfl)) (hi (hi (lo at_self rfl) rfl) rfl)) (hi (lo at_self rfl) rfl))) (lo at_self rfl)))

theorem shr (g : Guard) (f : Rrr) (x : BitVec 1) : Statement (.shr g f x) :=
  ofA 14 rfl rfl (congrArg some (congr (congr (congrArg Instr.shr (congr (congrArg Guard.mk (hi (hi (hi (hi (hi at_self rfl) rfl) rfl) rfl) rfl)) (hi (hi (hi (hi (lo at_self rfl) rfl) rfl) rfl) rfl))) (congr (congr (congrArg Rrr.mk (hi (hi (hi (lo at_self rfl) rfl) rfl) rfl)) (hi (hi (lo at_self rfl) rfl) rfl)) (hi (lo at_self rfl) rfl))) (lo at_self rfl)))

theorem sar (g : Guard) (f : Rrr) (x : BitVec 1) : Statement (.sar g f x) :=
  ofA 15 rfl rfl (congrArg some (congr (congr (congrArg Instr.sar (congr (congrArg Guard.mk (hi (hi (hi (hi (hi at_self rfl) rfl) rfl) rfl) rfl)) (hi (hi (hi (hi (lo at_self rfl) rfl) rfl) rfl) rfl))) (congr (congr (congrArg Rrr.mk (hi (hi (hi (lo at_self rfl) rfl) rfl) rfl)) (hi (hi (lo at_self rfl) rfl) rfl)) (hi (lo at_self rfl) rfl))) (lo at_self rfl)))

theorem lea (g : Guard) (f : Rrr) (x : BitVec 1) : Statement (.lea g f x) :=
  ofA 23 rfl rfl (congrArg some (congr (congr (congrArg Instr.lea (congr (congrArg Guard.mk (hi (hi (hi (hi (hi at_self rfl) rfl) rfl) rfl) rfl)) (hi (hi (hi (hi (lo at_self rfl) rfl) rfl) rfl) rfl))) (congr (congr (congrArg Rrr.mk (hi (hi (hi (lo at_self rfl) rfl) rfl) rfl)) (hi (hi (lo at_self rfl) rfl) rfl)) (hi (lo at_self rfl) rfl))) (lo at_self rfl)))

theorem addi (g : Guard) (d : BitVec 6) (a : BitVec 6) (imm : BitVec 7) : Statement (.addi g d a imm) :=
  ofA 16 rfl rfl (congrArg some (congr (congr (congr (congrArg Instr.addi (congr (congrArg Guard.mk (hi (hi (hi (hi at_self rfl) rfl) rfl) rfl)) (hi (hi (hi (lo at_self rfl) rfl) rfl) rfl))) (hi (hi (lo at_self rfl) rfl) rfl)) (hi (lo at_self rfl) rfl)) (lo at_self rfl)))

theorem andi (g : Guard) (d : BitVec 6) (a : BitVec 6) (imm : BitVec 7) : Statement (.andi g d a imm) :=
  ofA 17 rfl rfl (congrArg some (congr (congr (congr (congrArg Instr.andi (congr (congrArg Guard.mk (hi (hi (hi (hi at_self rfl) rfl) rfl) rfl)) (hi (hi (hi (lo at_self rfl) rfl) rfl) rfl))) (hi (hi (lo at_self rfl) rfl) rfl)) (hi (lo at_self rfl) rfl)) (lo at_self rfl)))

theorem ori (g : Guard) (d : BitVec 6) (a : BitVec 6) (imm : BitVec 7) : Statement (.ori g d a imm) :=
  ofA 18 rfl rfl (congrArg some (congr (congr (congr (congrArg Instr.ori (congr (congrArg Guard.mk (hi (hi (hi (hi at_self rfl) rfl) rfl) rfl)) (hi (hi (hi (lo at_self rfl) rfl) rfl) rfl))) (hi (hi (lo at_self rfl) rfl) rfl)) (hi (lo at_self rfl) rfl)) (lo at_self rfl)))

theorem xori (g : Guard) (d : BitVec 6) (a : BitVec 6) (imm : BitVec 7) : Statement (.xori g d a imm) :=
  ofA 19 rfl rfl (congrArg some (congr (congr (congr (congrArg Instr.xori (congr (congrArg Guard.mk (hi (hi (hi (hi at_self rfl) rfl) rfl) rfl)) (hi (hi (hi (lo at_self rfl) rfl) rfl) rfl))) (hi (hi (lo at_self rfl) rfl) rfl)) (hi (lo at_self rfl) rfl)) (lo at_self rfl)))

theorem shli (g : Guard) (d : BitVec 6) (a : BitVec 6) (imm : BitVec 6) : Statement (.shli g d a imm) :=
  ofA 20 rfl rfl ((if_pos (hi (lo rfl rfl) rfl)).trans (congrArg some (congr (congr (congr (congrArg Instr.shli (congr (congrArg Guard.mk (hi (hi (hi (hi (hi at_self rfl) rfl) rfl) rfl) rfl)) (hi (hi (hi (hi (lo at_self rfl) rfl) rfl) rfl) rfl))) (hi (hi (hi (lo at_self rfl) rfl) rfl) rfl)) (hi (hi (lo at_self rfl) rfl) rfl)) (lo at_self rfl))))

theorem shri (g : Guard) (d : BitVec 6) (a : BitVec 6) (imm : BitVec 6) : Statement (.shri g d a imm) :=
  ofA 21 rfl rfl ((if_pos (hi (lo rfl rfl) rfl)).trans (congrArg some (congr (congr (congr (congrArg Instr.shri (congr (congrArg Guard.mk (hi (hi (hi (hi (hi at_self rfl) rfl) rfl) rfl) rfl)) (hi (hi (hi (hi (lo at_self rfl) rfl) rfl) rfl) rfl))) (hi (hi (hi (lo at_self rfl) rfl) rfl) rfl)) (hi (hi (lo at_self rfl) rfl) rfl)) (lo at_self rfl))))

theorem sari (g : Guard) (d : BitVec 6) (a : BitVec 6) (imm : BitVec 6) : Statement (.sari g d a imm) :=
  ofA 22 rfl rfl ((if_pos (hi (lo rfl rfl) rfl)).trans (congrArg some (congr (congr (congr (congrArg Instr.sari (congr (congrArg Guard.mk (hi (hi (hi (hi (hi at_self rfl) rfl) rfl) rfl) rfl)) (hi (hi (hi (hi (lo at_self rfl) rfl) rfl) rfl) rfl))) (hi (hi (hi (lo at_self rfl) rfl) rfl) rfl)) (hi (hi (lo at_self rfl) rfl) rfl)) (lo at_self rfl))))

theorem bext (g : Guard) (f : Rrr) (x : BitVec 1) : Statement (.bext g f x) :=
  ofA 24 rfl rfl (congrArg some (congr (congr (congrArg Instr.bext (congr (congrArg Guard.mk (hi (hi (hi (hi (hi at_self rfl) rfl) rfl) rfl) rfl)) (hi (hi (hi (hi (lo at_self rfl) rfl) rfl) rfl) rfl))) (congr (congr (congrArg Rrr.mk (hi (hi (hi (lo at_self rfl) rfl) rfl) rfl)) (hi (hi (lo at_self rfl) rfl) rfl)) (hi (lo at_self rfl) rfl))) (lo at_self rfl)))

theorem bins (g : Guard) (f : Rrr) : Statement (.bins g f) :=
  ofA 25 rfl rfl ((if_pos (lo rfl rfl)).trans (congrArg some (congr (congrArg Instr.bins (congr (congrArg Guard.mk (hi (hi (hi (hi (hi at_self rfl) rfl) rfl) rfl) rfl)) (hi (hi (hi (hi (lo at_self rfl) rfl) rfl) rfl) rfl))) (congr (congr (congrArg Rrr.mk (hi (hi (hi (lo at_self rfl) rfl) rfl) rfl)) (hi (hi (lo at_self rfl) rfl) rfl)) (hi (lo at_self rfl) rfl)))))

theorem clz (g : Guard) (d : BitVec 6) (a : BitVec 6) (x : BitVec 1) : Statement (.clz g d a x) :=
  ofA 26 rfl rfl ((if_pos (hi (lo rfl rfl) rfl)).trans (congrArg some (congr (congr (congr (congrArg Instr.clz (congr (congrArg Guard.mk (hi (hi (hi (hi (hi at_self rfl) rfl) rfl) rfl) rfl)) (hi (hi (hi (hi (lo at_self rfl) rfl) rfl) rfl) rfl))) (hi (hi (hi (lo at_self rfl) rfl) rfl) rfl)) (hi (hi (lo at_self rfl) rfl) rfl)) (lo at_self rfl))))

theorem ctz (g : Guard) (d : BitVec 6) (a : BitVec 6) (x : BitVec 1) : Statement (.ctz g d a x) :=
  ofA 26 rfl rfl ((if_neg fun h => ne_part 0 6 1#6 rfl rfl (hi (lo rfl rfl) rfl) h).trans ((if_pos (hi (lo rfl rfl) rfl)).trans (congrArg some (congr (congr (congr (congrArg Instr.ctz (congr (congrArg Guard.mk (hi (hi (hi (hi (hi at_self rfl) rfl) rfl) rfl) rfl)) (hi (hi (hi (hi (lo at_self rfl) rfl) rfl) rfl) rfl))) (hi (hi (hi (lo at_self rfl) rfl) rfl) rfl)) (hi (hi (lo at_self rfl) rfl) rfl)) (lo at_self rfl)))))

theorem popc (g : Guard) (d : BitVec 6) (a : BitVec 6) (x : BitVec 1) : Statement (.popc g d a x) :=
  ofA 26 rfl rfl ((if_neg fun h => ne_part 0 6 2#6 rfl rfl (hi (lo rfl rfl) rfl) h).trans ((if_neg fun h => ne_part 0 6 2#6 rfl rfl (hi (lo rfl rfl) rfl) h).trans ((if_pos (hi (lo rfl rfl) rfl)).trans (congrArg some (congr (congr (congr (congrArg Instr.popc (congr (congrArg Guard.mk (hi (hi (hi (hi (hi at_self rfl) rfl) rfl) rfl) rfl)) (hi (hi (hi (hi (lo at_self rfl) rfl) rfl) rfl) rfl))) (hi (hi (hi (lo at_self rfl) rfl) rfl) rfl)) (hi (hi (lo at_self rfl) rfl) rfl)) (lo at_self rfl))))))

theorem sel (g : Guard) (p : BitVec 4) (e : BitVec 1) (a : BitVec 6) (b : BitVec 6) : Statement (.sel g p e a b) :=
  ofA 27 rfl rfl ((if_pos ⟨hi (hi (hi (lo rfl rfl) rfl) rfl) rfl, lo rfl rfl⟩).trans (congrArg some (congr (congr (congr (congr (congrArg Instr.sel (congr (congrArg Guard.mk (hi (hi (hi (hi (hi (hi (hi at_self rfl) rfl) rfl) rfl) rfl) rfl) rfl)) (hi (hi (hi (hi (hi (hi (lo at_self rfl) rfl) rfl) rfl) rfl) rfl) rfl))) (hi (hi (hi (hi (hi (lo at_self rfl) rfl) rfl) rfl) rfl) rfl)) (hi (hi (hi (hi (lo at_self rfl) rfl) rfl) rfl) rfl)) (hi (hi (lo at_self rfl) rfl) rfl)) (hi (lo at_self rfl) rfl))))

theorem cmp (g : Guard) (p : BitVec 4) (a : BitVec 6) (b : BitVec 6) (c : BitVec 3) : Statement (.cmp g p a b c) :=
  ofA 28 rfl rfl (congrArg some (congr (congr (congr (congr (congrArg Instr.cmp (congr (congrArg Guard.mk (hi (hi (hi (hi (hi at_self rfl) rfl) rfl) rfl) rfl)) (hi (hi (hi (hi (lo at_self rfl) rfl) rfl) rfl) rfl))) (hi (hi (hi (lo at_self rfl) rfl) rfl) rfl)) (hi (hi (lo at_self rfl) rfl) rfl)) (hi (lo at_self rfl) rfl)) (lo at_self rfl)))

theorem cmpi (g : Guard) (p : BitVec 4) (a : BitVec 6) (imm : BitVec 6) (c : BitVec 3) : Statement (.cmpi g p a imm c) :=
  ofA 29 rfl rfl (congrArg some (congr (congr (congr (congr (congrArg Instr.cmpi (congr (congrArg Guard.mk (hi (hi (hi (hi (hi at_self rfl) rfl) rfl) rfl) rfl)) (hi (hi (hi (hi (lo at_self rfl) rfl) rfl) rfl) rfl))) (hi (hi (hi (lo at_self rfl) rfl) rfl) rfl)) (hi (hi (lo at_self rfl) rfl) rfl)) (hi (lo at_self rfl) rfl)) (lo at_self rfl)))

theorem pand (g : Guard) (f : Pp) : Statement (.pand g f) :=
  ofA 30 rfl rfl ((if_pos ⟨hi (hi (hi (hi (hi (lo rfl rfl) rfl) rfl) rfl) rfl) rfl, hi (hi (lo rfl rfl) rfl) rfl, lo rfl rfl⟩).trans (congrArg some (congr (congrArg Instr.pand (congr (congrArg Guard.mk (hi (hi (hi (hi (hi (hi (hi (hi (hi at_self rfl) rfl) rfl) rfl) rfl) rfl) rfl) rfl) rfl)) (hi (hi (hi (hi (hi (hi (hi (hi (lo at_self rfl) rfl) rfl) rfl) rfl) rfl) rfl) rfl) rfl))) (congr (congr (congr (congr (congrArg Pp.mk (hi (hi (hi (hi (hi (hi (hi (lo at_self rfl) rfl) rfl) rfl) rfl) rfl) rfl) rfl)) (hi (hi (hi (hi (hi (hi (lo at_self rfl) rfl) rfl) rfl) rfl) rfl) rfl)) (hi (hi (hi (hi (lo at_self rfl) rfl) rfl) rfl) rfl)) (hi (hi (hi (lo at_self rfl) rfl) rfl) rfl)) (hi (lo at_self rfl) rfl)))))

theorem por (g : Guard) (f : Pp) : Statement (.por g f) :=
  ofA 30 rfl rfl ((if_neg fun h => ne_part 0 3 1#3 rfl rfl (lo rfl rfl) h.2.2).trans ((if_pos ⟨hi (hi (hi (hi (hi (lo rfl rfl) rfl) rfl) rfl) rfl) rfl, hi (hi (lo rfl rfl) rfl) rfl, lo rfl rfl⟩).trans (congrArg some (congr (congrArg Instr.por (congr (congrArg Guard.mk (hi (hi (hi (hi (hi (hi (hi (hi (hi at_self rfl) rfl) rfl) rfl) rfl) rfl) rfl) rfl) rfl)) (hi (hi (hi (hi (hi (hi (hi (hi (lo at_self rfl) rfl) rfl) rfl) rfl) rfl) rfl) rfl) rfl))) (congr (congr (congr (congr (congrArg Pp.mk (hi (hi (hi (hi (hi (hi (hi (lo at_self rfl) rfl) rfl) rfl) rfl) rfl) rfl) rfl)) (hi (hi (hi (hi (hi (hi (lo at_self rfl) rfl) rfl) rfl) rfl) rfl) rfl)) (hi (hi (hi (hi (lo at_self rfl) rfl) rfl) rfl) rfl)) (hi (hi (hi (lo at_self rfl) rfl) rfl) rfl)) (hi (lo at_self rfl) rfl))))))

theorem pxor (g : Guard) (f : Pp) : Statement (.pxor g f) :=
  ofA 30 rfl rfl ((if_neg fun h => ne_part 0 3 2#3 rfl rfl (lo rfl rfl) h.2.2).trans ((if_neg fun h => ne_part 0 3 2#3 rfl rfl (lo rfl rfl) h.2.2).trans ((if_pos ⟨hi (hi (hi (hi (hi (lo rfl rfl) rfl) rfl) rfl) rfl) rfl, hi (hi (lo rfl rfl) rfl) rfl, lo rfl rfl⟩).trans (congrArg some (congr (congrArg Instr.pxor (congr (congrArg Guard.mk (hi (hi (hi (hi (hi (hi (hi (hi (hi at_self rfl) rfl) rfl) rfl) rfl) rfl) rfl) rfl) rfl)) (hi (hi (hi (hi (hi (hi (hi (hi (lo at_self rfl) rfl) rfl) rfl) rfl) rfl) rfl) rfl) rfl))) (congr (congr (congr (congr (congrArg Pp.mk (hi (hi (hi (hi (hi (hi (hi (lo at_self rfl) rfl) rfl) rfl) rfl) rfl) rfl) rfl)) (hi (hi (hi (hi (hi (hi (lo at_self rfl) rfl) rfl) rfl) rfl) rfl) rfl)) (hi (hi (hi (hi (lo at_self rfl) rfl) rfl) rfl) rfl)) (hi (hi (hi (lo at_self rfl) rfl) rfl) rfl)) (hi (lo at_self rfl) rfl)))))))

theorem pnot (g : Guard) (d : BitVec 4) (e : BitVec 1) (a : BitVec 4) : Statement (.pnot g d e a) :=
  ofA 30 rfl rfl ((if_neg fun h => ne_part 0 3 3#3 rfl rfl (lo rfl rfl) h.2.2).trans ((if_neg fun h => ne_part 0 3 3#3 rfl rfl (lo rfl rfl) h.2.2).trans ((if_neg fun h => ne_part 0 3 3#3 rfl rfl (lo rfl rfl) h.2.2).trans ((if_pos ⟨hi (hi (lo rfl rfl) rfl) rfl, lo rfl rfl⟩).trans (congrArg some (congr (congr (congr (congrArg Instr.pnot (congr (congrArg Guard.mk (hi (hi (hi (hi (hi (hi at_self rfl) rfl) rfl) rfl) rfl) rfl)) (hi (hi (hi (hi (hi (lo at_self rfl) rfl) rfl) rfl) rfl) rfl))) (hi (hi (hi (hi (lo at_self rfl) rfl) rfl) rfl) rfl)) (hi (hi (hi (lo at_self rfl) rfl) rfl) rfl)) (hi (lo at_self rfl) rfl)))))))

theorem ppack (g : Guard) (d : BitVec 6) (a : BitVec 6) (j : BitVec 2) : Statement (.ppack g d a j) :=
  ofA 31 rfl rfl ((if_pos ⟨hi (hi (lo rfl rfl) rfl) rfl, lo rfl rfl⟩).trans (congrArg some (congr (congr (congr (congrArg Instr.ppack (congr (congrArg Guard.mk (hi (hi (hi (hi (hi (hi at_self rfl) rfl) rfl) rfl) rfl) rfl)) (hi (hi (hi (hi (hi (lo at_self rfl) rfl) rfl) rfl) rfl) rfl))) (hi (hi (hi (hi (lo at_self rfl) rfl) rfl) rfl) rfl)) (hi (hi (hi (lo at_self rfl) rfl) rfl) rfl)) (hi (lo at_self rfl) rfl))))

theorem punpack (g : Guard) (a : BitVec 6) (j : BitVec 2) : Statement (.punpack g a j) :=
  ofA 31 rfl rfl ((if_neg fun h => ne_part 0 1 1#1 rfl rfl (lo rfl rfl) h.2).trans ((if_pos ⟨hi (hi (hi (hi (lo rfl rfl) rfl) rfl) rfl) rfl, hi (hi (lo rfl rfl) rfl) rfl, lo rfl rfl⟩).trans (congrArg some (congr (congr (congrArg Instr.punpack (congr (congrArg Guard.mk (hi (hi (hi (hi (hi (hi at_self rfl) rfl) rfl) rfl) rfl) rfl)) (hi (hi (hi (hi (hi (lo at_self rfl) rfl) rfl) rfl) rfl) rfl))) (hi (hi (hi (lo at_self rfl) rfl) rfl) rfl)) (hi (lo at_self rfl) rfl)))))

theorem fadd (g : Guard) (f : Rrr) : Statement (.fadd g f) :=
  ofA 32 rfl rfl ((if_pos (lo rfl rfl)).trans (congrArg some (congr (congrArg Instr.fadd (congr (congrArg Guard.mk (hi (hi (hi (hi (hi at_self rfl) rfl) rfl) rfl) rfl)) (hi (hi (hi (hi (lo at_self rfl) rfl) rfl) rfl) rfl))) (congr (congr (congrArg Rrr.mk (hi (hi (hi (lo at_self rfl) rfl) rfl) rfl)) (hi (hi (lo at_self rfl) rfl) rfl)) (hi (lo at_self rfl) rfl)))))

theorem fsub (g : Guard) (f : Rrr) : Statement (.fsub g f) :=
  ofA 33 rfl rfl ((if_pos (lo rfl rfl)).trans (congrArg some (congr (congrArg Instr.fsub (congr (congrArg Guard.mk (hi (hi (hi (hi (hi at_self rfl) rfl) rfl) rfl) rfl)) (hi (hi (hi (hi (lo at_self rfl) rfl) rfl) rfl) rfl))) (congr (congr (congrArg Rrr.mk (hi (hi (hi (lo at_self rfl) rfl) rfl) rfl)) (hi (hi (lo at_self rfl) rfl) rfl)) (hi (lo at_self rfl) rfl)))))

theorem fmul (g : Guard) (f : Rrr) : Statement (.fmul g f) :=
  ofA 34 rfl rfl ((if_pos (lo rfl rfl)).trans (congrArg some (congr (congrArg Instr.fmul (congr (congrArg Guard.mk (hi (hi (hi (hi (hi at_self rfl) rfl) rfl) rfl) rfl)) (hi (hi (hi (hi (lo at_self rfl) rfl) rfl) rfl) rfl))) (congr (congr (congrArg Rrr.mk (hi (hi (hi (lo at_self rfl) rfl) rfl) rfl)) (hi (hi (lo at_self rfl) rfl) rfl)) (hi (lo at_self rfl) rfl)))))

theorem ffma (g : Guard) (f : Rrr) : Statement (.ffma g f) :=
  ofA 35 rfl rfl ((if_pos (lo rfl rfl)).trans (congrArg some (congr (congrArg Instr.ffma (congr (congrArg Guard.mk (hi (hi (hi (hi (hi at_self rfl) rfl) rfl) rfl) rfl)) (hi (hi (hi (hi (lo at_self rfl) rfl) rfl) rfl) rfl))) (congr (congr (congrArg Rrr.mk (hi (hi (hi (lo at_self rfl) rfl) rfl) rfl)) (hi (hi (lo at_self rfl) rfl) rfl)) (hi (lo at_self rfl) rfl)))))

theorem fdiv (g : Guard) (f : Rrr) : Statement (.fdiv g f) :=
  ofA 36 rfl rfl ((if_pos (lo rfl rfl)).trans (congrArg some (congr (congrArg Instr.fdiv (congr (congrArg Guard.mk (hi (hi (hi (hi (hi at_self rfl) rfl) rfl) rfl) rfl)) (hi (hi (hi (hi (lo at_self rfl) rfl) rfl) rfl) rfl))) (congr (congr (congrArg Rrr.mk (hi (hi (hi (lo at_self rfl) rfl) rfl) rfl)) (hi (hi (lo at_self rfl) rfl) rfl)) (hi (lo at_self rfl) rfl)))))

theorem fsqrt (g : Guard) (d : BitVec 6) (a : BitVec 6) : Statement (.fsqrt g d a) :=
  ofA 37 rfl rfl ((if_pos (lo rfl rfl)).trans (congrArg some (congr (congr (congrArg Instr.fsqrt (congr (congrArg Guard.mk (hi (hi (hi (hi at_self rfl) rfl) rfl) rfl)) (hi (hi (hi (lo at_self rfl) rfl) rfl) rfl))) (hi (hi (lo at_self rfl) rfl) rfl)) (hi (lo at_self rfl) rfl))))

theorem fmin (g : Guard) (f : Rrr) : Statement (.fmin g f) :=
  ofA 38 rfl rfl ((if_pos (lo rfl rfl)).trans (congrArg some (congr (congrArg Instr.fmin (congr (congrArg Guard.mk (hi (hi (hi (hi (hi at_self rfl) rfl) rfl) rfl) rfl)) (hi (hi (hi (hi (lo at_self rfl) rfl) rfl) rfl) rfl))) (congr (congr (congrArg Rrr.mk (hi (hi (hi (lo at_self rfl) rfl) rfl) rfl)) (hi (hi (lo at_self rfl) rfl) rfl)) (hi (lo at_self rfl) rfl)))))

theorem fmax (g : Guard) (f : Rrr) : Statement (.fmax g f) :=
  ofA 38 rfl rfl ((if_neg fun h => ne_part 0 1 1#1 rfl rfl (lo rfl rfl) h).trans ((if_pos (lo rfl rfl)).trans (congrArg some (congr (congrArg Instr.fmax (congr (congrArg Guard.mk (hi (hi (hi (hi (hi at_self rfl) rfl) rfl) rfl) rfl)) (hi (hi (hi (hi (lo at_self rfl) rfl) rfl) rfl) rfl))) (congr (congr (congrArg Rrr.mk (hi (hi (hi (lo at_self rfl) rfl) rfl) rfl)) (hi (hi (lo at_self rfl) rfl) rfl)) (hi (lo at_self rfl) rfl))))))

theorem fcmp (g : Guard) (p : BitVec 4) (a : BitVec 6) (b : BitVec 6) (c : BitVec 3) : Statement (.fcmp g p a b c) :=
  ofA 39 rfl rfl (congrArg some (congr (congr (congr (congr (congrArg Instr.fcmp (congr (congrArg Guard.mk (hi (hi (hi (hi (hi at_self rfl) rfl) rfl) rfl) rfl)) (hi (hi (hi (hi (lo at_self rfl) rfl) rfl) rfl) rfl))) (hi (hi (hi (lo at_self rfl) rfl) rfl) rfl)) (hi (hi (lo at_self rfl) rfl) rfl)) (hi (lo at_self rfl) rfl)) (lo at_self rfl)))

theorem fcvt (g : Guard) (d : BitVec 6) (a : BitVec 6) (k : BitVec 6) (x : BitVec 1) : Statement (.fcvt g d a k x) :=
  ofA 40 rfl rfl (congrArg some (congr (congr (congr (congr (congrArg Instr.fcvt (congr (congrArg Guard.mk (hi (hi (hi (hi (hi at_self rfl) rfl) rfl) rfl) rfl)) (hi (hi (hi (hi (lo at_self rfl) rfl) rfl) rfl) rfl))) (hi (hi (hi (lo at_self rfl) rfl) rfl) rfl)) (hi (hi (lo at_self rfl) rfl) rfl)) (hi (lo at_self rfl) rfl)) (lo at_self rfl)))

theorem vadd (g : Guard) (f : Vvv) (v : BitVec 2) : Statement (.vadd g f v) :=
  ofA 41 rfl rfl ((if_pos (lo rfl rfl)).trans (congrArg some (congr (congr (congrArg Instr.vadd (congr (congrArg Guard.mk (hi (hi (hi (hi (hi (hi (hi at_self rfl) rfl) rfl) rfl) rfl) rfl) rfl)) (hi (hi (hi (hi (hi (hi (lo at_self rfl) rfl) rfl) rfl) rfl) rfl) rfl))) (congr (congr (congr (congrArg Vvv.mk (hi (hi (hi (hi (hi (lo at_self rfl) rfl) rfl) rfl) rfl) rfl)) (hi (hi (hi (hi (lo at_self rfl) rfl) rfl) rfl) rfl)) (hi (hi (hi (lo at_self rfl) rfl) rfl) rfl)) (hi (hi (lo at_self rfl) rfl) rfl))) (hi (lo at_self rfl) rfl))))

theorem vaddScalar (g : Guard) (f : Vvs) : Statement (.vaddScalar g f) :=
  ofA 41 rfl rfl ((if_neg fun h => ne_part 0 1 1#1 rfl rfl (lo rfl rfl) h).trans ((if_pos (lo rfl rfl)).trans (congrArg some (congr (congrArg Instr.vaddScalar (congr (congrArg Guard.mk (hi (hi (hi (hi (hi (hi at_self rfl) rfl) rfl) rfl) rfl) rfl)) (hi (hi (hi (hi (hi (lo at_self rfl) rfl) rfl) rfl) rfl) rfl))) (congr (congr (congr (congrArg Vvs.mk (hi (hi (hi (hi (lo at_self rfl) rfl) rfl) rfl) rfl)) (hi (hi (hi (lo at_self rfl) rfl) rfl) rfl)) (hi (hi (lo at_self rfl) rfl) rfl)) (hi (lo at_self rfl) rfl))))))

theorem vsub (g : Guard) (f : Vvv) (v : BitVec 2) : Statement (.vsub g f v) :=
  ofA 42 rfl rfl ((if_pos (lo rfl rfl)).trans (congrArg some (congr (congr (congrArg Instr.vsub (congr (congrArg Guard.mk (hi (hi (hi (hi (hi (hi (hi at_self rfl) rfl) rfl) rfl) rfl) rfl) rfl)) (hi (hi (hi (hi (hi (hi (lo at_self rfl) rfl) rfl) rfl) rfl) rfl) rfl))) (congr (congr (congr (congrArg Vvv.mk (hi (hi (hi (hi (hi (lo at_self rfl) rfl) rfl) rfl) rfl) rfl)) (hi (hi (hi (hi (lo at_self rfl) rfl) rfl) rfl) rfl)) (hi (hi (hi (lo at_self rfl) rfl) rfl) rfl)) (hi (hi (lo at_self rfl) rfl) rfl))) (hi (lo at_self rfl) rfl))))

theorem vsubScalar (g : Guard) (f : Vvs) : Statement (.vsubScalar g f) :=
  ofA 42 rfl rfl ((if_neg fun h => ne_part 0 1 1#1 rfl rfl (lo rfl rfl) h).trans ((if_pos (lo rfl rfl)).trans (congrArg some (congr (congrArg Instr.vsubScalar (congr (congrArg Guard.mk (hi (hi (hi (hi (hi (hi at_self rfl) rfl) rfl) rfl) rfl) rfl)) (hi (hi (hi (hi (hi (lo at_self rfl) rfl) rfl) rfl) rfl) rfl))) (congr (congr (congr (congrArg Vvs.mk (hi (hi (hi (hi (lo at_self rfl) rfl) rfl) rfl) rfl)) (hi (hi (hi (lo at_self rfl) rfl) rfl) rfl)) (hi (hi (lo at_self rfl) rfl) rfl)) (hi (lo at_self rfl) rfl))))))

theorem vmul (g : Guard) (f : Vvv) (v : BitVec 2) : Statement (.vmul g f v) :=
  ofA 43 rfl rfl ((if_pos (lo rfl rfl)).trans (congrArg some (congr (congr (congrArg Instr.vmul (congr (congrArg Guard.mk (hi (hi (hi (hi (hi (hi (hi at_self rfl) rfl) rfl) rfl) rfl) rfl) rfl)) (hi (hi (hi (hi (hi (hi (lo at_self rfl) rfl) rfl) rfl) rfl) rfl) rfl))) (congr (congr (congr (congrArg Vvv.mk (hi (hi (hi (hi (hi (lo at_self rfl) rfl) rfl) rfl) rfl) rfl)) (hi (hi (hi (hi (lo at_self rfl) rfl) rfl) rfl) rfl)) (hi (hi (hi (lo at_self rfl) rfl) rfl) rfl)) (hi (hi (lo at_self rfl) rfl) rfl))) (hi (lo at_self rfl) rfl))))

theorem vmulScalar (g : Guard) (f : Vvs) : Statement (.vmulScalar g f) :=
  ofA 43 rfl rfl ((if_neg fun h => ne_part 0 1 1#1 rfl rfl (lo rfl rfl) h).trans ((if_pos (lo rfl rfl)).trans (congrArg some (congr (congrArg Instr.vmulScalar (congr (congrArg Guard.mk (hi (hi (hi (hi (hi (hi at_self rfl) rfl) rfl) rfl) rfl) rfl)) (hi (hi (hi (hi (hi (lo at_self rfl) rfl) rfl) rfl) rfl) rfl))) (congr (congr (congr (congrArg Vvs.mk (hi (hi (hi (hi (lo at_self rfl) rfl) rfl) rfl) rfl)) (hi (hi (hi (lo at_self rfl) rfl) rfl) rfl)) (hi (hi (lo at_self rfl) rfl) rfl)) (hi (lo at_self rfl) rfl))))))

theorem vfma (g : Guard) (f : Vvv) (v : BitVec 2) : Statement (.vfma g f v) :=
  ofA 44 rfl rfl ((if_pos (lo rfl rfl)).trans (congrArg some (congr (congr (congrArg Instr.vfma (congr (congrArg Guard.mk (hi (hi (hi (hi (hi (hi (hi at_self rfl) rfl) rfl) rfl) rfl) rfl) rfl)) (hi (hi (hi (hi (hi (hi (lo at_self rfl) rfl) rfl) rfl) rfl) rfl) rfl))) (congr (congr (congr (congrArg Vvv.mk (hi (hi (hi (hi (hi (lo at_self rfl) rfl) rfl) rfl) rfl) rfl)) (hi (hi (hi (hi (lo at_self rfl) rfl) rfl) rfl) rfl)) (hi (hi (hi (lo at_self rfl) rfl) rfl) rfl)) (hi (hi (lo at_self rfl) rfl) rfl))) (hi (lo at_self rfl) rfl))))

theorem vfmaScalar (g : Guard) (f : Vvs) : Statement (.vfmaScalar g f) :=
  ofA 44 rfl rfl ((if_neg fun h => ne_part 0 1 1#1 rfl rfl (lo rfl rfl) h).trans ((if_pos (lo rfl rfl)).trans (congrArg some (congr (congrArg Instr.vfmaScalar (congr (congrArg Guard.mk (hi (hi (hi (hi (hi (hi at_self rfl) rfl) rfl) rfl) rfl) rfl)) (hi (hi (hi (hi (hi (lo at_self rfl) rfl) rfl) rfl) rfl) rfl))) (congr (congr (congr (congrArg Vvs.mk (hi (hi (hi (hi (lo at_self rfl) rfl) rfl) rfl) rfl)) (hi (hi (hi (lo at_self rfl) rfl) rfl) rfl)) (hi (hi (lo at_self rfl) rfl) rfl)) (hi (lo at_self rfl) rfl))))))

theorem vmin (g : Guard) (f : Vvv) : Statement (.vmin g f) :=
  ofA 45 rfl rfl ((if_pos (lo rfl rfl)).trans (congrArg some (congr (congrArg Instr.vmin (congr (congrArg Guard.mk (hi (hi (hi (hi (hi (hi at_self rfl) rfl) rfl) rfl) rfl) rfl)) (hi (hi (hi (hi (hi (lo at_self rfl) rfl) rfl) rfl) rfl) rfl))) (congr (congr (congr (congrArg Vvv.mk (hi (hi (hi (hi (lo at_self rfl) rfl) rfl) rfl) rfl)) (hi (hi (hi (lo at_self rfl) rfl) rfl) rfl)) (hi (hi (lo at_self rfl) rfl) rfl)) (hi (lo at_self rfl) rfl)))))

theorem vmax (g : Guard) (f : Vvv) : Statement (.vmax g f) :=
  ofA 45 rfl rfl ((if_neg fun h => ne_part 0 3 1#3 rfl rfl (lo rfl rfl) h).trans ((if_pos (lo rfl rfl)).trans (congrArg some (congr (congrArg Instr.vmax (congr (congrArg Guard.mk (hi (hi (hi (hi (hi (hi at_self rfl) rfl) rfl) rfl) rfl) rfl)) (hi (hi (hi (hi (hi (lo at_self rfl) rfl) rfl) rfl) rfl) rfl))) (congr (congr (congr (congrArg Vvv.mk (hi (hi (hi (hi (lo at_self rfl) rfl) rfl) rfl) rfl)) (hi (hi (hi (lo at_self rfl) rfl) rfl) rfl)) (hi (hi (lo at_self rfl) rfl) rfl)) (hi (lo at_self rfl) rfl))))))

theorem vand (g : Guard) (f : Vvv) : Statement (.vand g f) :=
  ofA 46 rfl rfl ((if_pos (lo rfl rfl)).trans (congrArg some (congr (congrArg Instr.vand (congr (congrArg Guard.mk (hi (hi (hi (hi (hi (hi at_self rfl) rfl) rfl) rfl) rfl) rfl)) (hi (hi (hi (hi (hi (lo at_self rfl) rfl) rfl) rfl) rfl) rfl))) (congr (congr (congr (congrArg Vvv.mk (hi (hi (hi (hi (lo at_self rfl) rfl) rfl) rfl) rfl)) (hi (hi (hi (lo at_self rfl) rfl) rfl) rfl)) (hi (hi (lo at_self rfl) rfl) rfl)) (hi (lo at_self rfl) rfl)))))

theorem vor (g : Guard) (f : Vvv) : Statement (.vor g f) :=
  ofA 46 rfl rfl ((if_neg fun h => ne_part 0 3 1#3 rfl rfl (lo rfl rfl) h).trans ((if_pos (lo rfl rfl)).trans (congrArg some (congr (congrArg Instr.vor (congr (congrArg Guard.mk (hi (hi (hi (hi (hi (hi at_self rfl) rfl) rfl) rfl) rfl) rfl)) (hi (hi (hi (hi (hi (lo at_self rfl) rfl) rfl) rfl) rfl) rfl))) (congr (congr (congr (congrArg Vvv.mk (hi (hi (hi (hi (lo at_self rfl) rfl) rfl) rfl) rfl)) (hi (hi (hi (lo at_self rfl) rfl) rfl) rfl)) (hi (hi (lo at_self rfl) rfl) rfl)) (hi (lo at_self rfl) rfl))))))

theorem vxor (g : Guard) (f : Vvv) : Statement (.vxor g f) :=
  ofA 46 rfl rfl ((if_neg fun h => ne_part 0 3 2#3 rfl rfl (lo rfl rfl) h).trans ((if_neg fun h => ne_part 0 3 2#3 rfl rfl (lo rfl rfl) h).trans ((if_pos (lo rfl rfl)).trans (congrArg some (congr (congrArg Instr.vxor (congr (congrArg Guard.mk (hi (hi (hi (hi (hi (hi at_self rfl) rfl) rfl) rfl) rfl) rfl)) (hi (hi (hi (hi (hi (lo at_self rfl) rfl) rfl) rfl) rfl) rfl))) (congr (congr (congr (congrArg Vvv.mk (hi (hi (hi (hi (lo at_self rfl) rfl) rfl) rfl) rfl)) (hi (hi (hi (lo at_self rfl) rfl) rfl) rfl)) (hi (hi (lo at_self rfl) rfl) rfl)) (hi (lo at_self rfl) rfl)))))))

theorem vnot (g : Guard) (t : BitVec 4) (d : BitVec 4) (a : BitVec 4) : Statement (.vnot g t d a) :=
  ofA 46 rfl rfl ((if_neg fun h => ne_part 0 3 3#3 rfl rfl (lo rfl rfl) h).trans ((if_neg fun h => ne_part 0 3 3#3 rfl rfl (lo rfl rfl) h).trans ((if_neg fun h => ne_part 0 3 3#3 rfl rfl (lo rfl rfl) h).trans ((if_pos (lo rfl rfl)).trans (congrArg some (congr (congr (congr (congrArg Instr.vnot (congr (congrArg Guard.mk (hi (hi (hi (hi (hi at_self rfl) rfl) rfl) rfl) rfl)) (hi (hi (hi (hi (lo at_self rfl) rfl) rfl) rfl) rfl))) (hi (hi (hi (lo at_self rfl) rfl) rfl) rfl)) (hi (hi (lo at_self rfl) rfl) rfl)) (hi (lo at_self rfl) rfl)))))))

theorem vshl (g : Guard) (f : Vvv) : Statement (.vshl g f) :=
  ofA 47 rfl rfl ((if_pos (lo rfl rfl)).trans (congrArg some (congr (congrArg Instr.vshl (congr (congrArg Guard.mk (hi (hi (hi (hi (hi (hi at_self rfl) rfl) rfl) rfl) rfl) rfl)) (hi (hi (hi (hi (hi (lo at_self rfl) rfl) rfl) rfl) rfl) rfl))) (congr (congr (congr (congrArg Vvv.mk (hi (hi (hi (hi (lo at_self rfl) rfl) rfl) rfl) rfl)) (hi (hi (hi (lo at_self rfl) rfl) rfl) rfl)) (hi (hi (lo at_self rfl) rfl) rfl)) (hi (lo at_self rfl) rfl)))))

theorem vshr (g : Guard) (f : Vvv) : Statement (.vshr g f) :=
  ofA 47 rfl rfl ((if_neg fun h => ne_part 0 3 2#3 rfl rfl (lo rfl rfl) h).trans ((if_pos (lo rfl rfl)).trans (congrArg some (congr (congrArg Instr.vshr (congr (congrArg Guard.mk (hi (hi (hi (hi (hi (hi at_self rfl) rfl) rfl) rfl) rfl) rfl)) (hi (hi (hi (hi (hi (lo at_self rfl) rfl) rfl) rfl) rfl) rfl))) (congr (congr (congr (congrArg Vvv.mk (hi (hi (hi (hi (lo at_self rfl) rfl) rfl) rfl) rfl)) (hi (hi (hi (lo at_self rfl) rfl) rfl) rfl)) (hi (hi (lo at_self rfl) rfl) rfl)) (hi (lo at_self rfl) rfl))))))

theorem vsar (g : Guard) (f : Vvv) : Statement (.vsar g f) :=
  ofA 47 rfl rfl ((if_neg fun h => ne_part 0 3 4#3 rfl rfl (lo rfl rfl) h).trans ((if_neg fun h => ne_part 0 3 4#3 rfl rfl (lo rfl rfl) h).trans ((if_pos (lo rfl rfl)).trans (congrArg some (congr (congrArg Instr.vsar (congr (congrArg Guard.mk (hi (hi (hi (hi (hi (hi at_self rfl) rfl) rfl) rfl) rfl) rfl)) (hi (hi (hi (hi (hi (lo at_self rfl) rfl) rfl) rfl) rfl) rfl))) (congr (congr (congr (congrArg Vvv.mk (hi (hi (hi (hi (lo at_self rfl) rfl) rfl) rfl) rfl)) (hi (hi (hi (lo at_self rfl) rfl) rfl) rfl)) (hi (hi (lo at_self rfl) rfl) rfl)) (hi (lo at_self rfl) rfl)))))))

theorem vshlScalar (g : Guard) (t : BitVec 4) (d : BitVec 4) (sr : BitVec 6) : Statement (.vshlScalar g t d sr) :=
  ofA 47 rfl rfl ((if_neg fun h => ne_part 0 1 1#1 rfl rfl (lo rfl rfl) h).trans ((if_neg fun h => ne_part 0 1 1#1 rfl rfl (lo rfl rfl) h).trans ((if_neg fun h => ne_part 0 1 1#1 rfl rfl (lo rfl rfl) h).trans ((if_pos ⟨hi (hi (lo rfl rfl) rfl) rfl, lo rfl rfl⟩).trans (congrArg some (congr (congr (congr (congrArg Instr.vshlScalar (congr (congrArg Guard.mk (hi (hi (hi (hi (hi (hi at_self rfl) rfl) rfl) rfl) rfl) rfl)) (hi (hi (hi (hi (hi (lo at_self rfl) rfl) rfl) rfl) rfl) rfl))) (hi (hi (hi (hi (lo at_self rfl) rfl) rfl) rfl) rfl)) (hi (hi (hi (lo at_self rfl) rfl) rfl) rfl)) (hi (lo at_self rfl) rfl)))))))

theorem vshrScalar (g : Guard) (t : BitVec 4) (d : BitVec 4) (sr : BitVec 6) : Statement (.vshrScalar g t d sr) :=
  ofA 47 rfl rfl ((if_neg fun h => ne_part 0 1 1#1 rfl rfl (lo rfl rfl) h).trans ((if_neg fun h => ne_part 0 1 1#1 rfl rfl (lo rfl rfl) h).trans ((if_neg fun h => ne_part 0 1 1#1 rfl rfl (lo rfl rfl) h).trans ((if_neg fun h => ne_part 0 4 1#4 rfl rfl (hi (hi (lo rfl rfl) rfl) rfl) h.1).trans ((if_pos ⟨hi (hi (lo rfl rfl) rfl) rfl, lo rfl rfl⟩).trans (congrArg some (congr (congr (congr (congrArg Instr.vshrScalar (congr (congrArg Guard.mk (hi (hi (hi (hi (hi (hi at_self rfl) rfl) rfl) rfl) rfl) rfl)) (hi (hi (hi (hi (hi (lo at_self rfl) rfl) rfl) rfl) rfl) rfl))) (hi (hi (hi (hi (lo at_self rfl) rfl) rfl) rfl) rfl)) (hi (hi (hi (lo at_self rfl) rfl) rfl) rfl)) (hi (lo at_self rfl) rfl))))))))

theorem vsarScalar (g : Guard) (t : BitVec 4) (d : BitVec 4) (sr : BitVec 6) : Statement (.vsarScalar g t d sr) :=
  ofA 47 rfl rfl ((if_neg fun h => ne_part 0 1 1#1 rfl rfl (lo rfl rfl) h).trans ((if_neg fun h => ne_part 0 1 1#1 rfl rfl (lo rfl rfl) h).trans ((if_neg fun h => ne_part 0 1 1#1 rfl rfl (lo rfl rfl) h).trans ((if_neg fun h => ne_part 0 4 2#4 rfl rfl (hi (hi (lo rfl rfl) rfl) rfl) h.1).trans ((if_neg fun h => ne_part 0 4 2#4 rfl rfl (hi (hi (lo rfl rfl) rfl) rfl) h.1).trans ((if_pos ⟨hi (hi (lo rfl rfl) rfl) rfl, lo rfl rfl⟩).trans (congrArg some (congr (congr (congr (congrArg Instr.vsarScalar (congr (congrArg Guard.mk (hi (hi (hi (hi (hi (hi at_self rfl) rfl) rfl) rfl) rfl) rfl)) (hi (hi (hi (hi (hi (lo at_self rfl) rfl) rfl) rfl) rfl) rfl))) (hi (hi (hi (hi (lo at_self rfl) rfl) rfl) rfl) rfl)) (hi (hi (hi (lo at_self rfl) rfl) rfl) rfl)) (hi (lo at_self rfl) rfl)))))))))

theorem vcmp (g : Guard) (f : Vvv) (c : BitVec 3) : Statement (.vcmp g f c) :=
  ofA 48 rfl rfl (congrArg some (congr (congr (congrArg Instr.vcmp (congr (congrArg Guard.mk (hi (hi (hi (hi (hi (hi at_self rfl) rfl) rfl) rfl) rfl) rfl)) (hi (hi (hi (hi (hi (lo at_self rfl) rfl) rfl) rfl) rfl) rfl))) (congr (congr (congr (congrArg Vvv.mk (hi (hi (hi (hi (lo at_self rfl) rfl) rfl) rfl) rfl)) (hi (hi (hi (lo at_self rfl) rfl) rfl) rfl)) (hi (hi (lo at_self rfl) rfl) rfl)) (hi (lo at_self rfl) rfl))) (lo at_self rfl)))

theorem vsel (g : Guard) (f : Vvv) (m : BitVec 3) : Statement (.vsel g f m) :=
  ofA 49 rfl rfl (congrArg some (congr (congr (congrArg Instr.vsel (congr (congrArg Guard.mk (hi (hi (hi (hi (hi (hi at_self rfl) rfl) rfl) rfl) rfl) rfl)) (hi (hi (hi (hi (hi (lo at_self rfl) rfl) rfl) rfl) rfl) rfl))) (congr (congr (congr (congrArg Vvv.mk (hi (hi (hi (hi (lo at_self rfl) rfl) rfl) rfl) rfl)) (hi (hi (hi (lo at_self rfl) rfl) rfl) rfl)) (hi (hi (lo at_self rfl) rfl) rfl)) (hi (lo at_self rfl) rfl))) (lo at_self rfl)))

theorem vbcast (g : Guard) (t : BitVec 4) (d : BitVec 4) (sr : BitVec 6) : Statement (.vbcast g t d sr) :=
  ofA 50 rfl rfl ((if_pos ⟨hi (hi (lo rfl rfl) rfl) rfl, lo rfl rfl⟩).trans (congrArg some (congr (congr (congr (congrArg Instr.vbcast (congr (congrArg Guard.mk (hi (hi (hi (hi (hi (hi at_self rfl) rfl) rfl) rfl) rfl) rfl)) (hi (hi (hi (hi (hi (lo at_self rfl) rfl) rfl) rfl) rfl) rfl))) (hi (hi (hi (hi (lo at_self rfl) rfl) rfl) rfl) rfl)) (hi (hi (hi (lo at_self rfl) rfl) rfl) rfl)) (hi (lo at_self rfl) rfl))))

theorem vins (g : Guard) (t : BitVec 4) (d : BitVec 4) (sr : BitVec 6) : Statement (.vins g t d sr) :=
  ofA 50 rfl rfl ((if_neg fun h => ne_part 0 4 1#4 rfl rfl (hi (hi (lo rfl rfl) rfl) rfl) h.1).trans ((if_pos ⟨hi (hi (lo rfl rfl) rfl) rfl, lo rfl rfl⟩).trans (congrArg some (congr (congr (congr (congrArg Instr.vins (congr (congrArg Guard.mk (hi (hi (hi (hi (hi (hi at_self rfl) rfl) rfl) rfl) rfl) rfl)) (hi (hi (hi (hi (hi (lo at_self rfl) rfl) rfl) rfl) rfl) rfl))) (hi (hi (hi (hi (lo at_self rfl) rfl) rfl) rfl) rfl)) (hi (hi (hi (lo at_self rfl) rfl) rfl) rfl)) (hi (lo at_self rfl) rfl)))))

theorem vext (g : Guard) (t : BitVec 4) (a : BitVec 4) (sr : BitVec 6) : Statement (.vext g t a sr) :=
  ofA 50 rfl rfl ((if_neg fun h => ne_part 0 1 1#1 rfl rfl (lo rfl rfl) h.2).trans ((if_neg fun h => ne_part 0 1 1#1 rfl rfl (lo rfl rfl) h.2).trans ((if_pos ⟨hi (hi (hi (lo rfl rfl) rfl) rfl) rfl, lo rfl rfl⟩).trans (congrArg some (congr (congr (congr (congrArg Instr.vext (congr (congrArg Guard.mk (hi (hi (hi (hi (hi (hi at_self rfl) rfl) rfl) rfl) rfl) rfl)) (hi (hi (hi (hi (hi (lo at_self rfl) rfl) rfl) rfl) rfl) rfl))) (hi (hi (hi (hi (lo at_self rfl) rfl) rfl) rfl) rfl)) (hi (hi (lo at_self rfl) rfl) rfl)) (hi (lo at_self rfl) rfl))))))

theorem vredsum (g : Guard) (f : Vvv) : Statement (.vredsum g f) :=
  ofA 51 rfl rfl ((if_pos (lo rfl rfl)).trans (congrArg some (congr (congrArg Instr.vredsum (congr (congrArg Guard.mk (hi (hi (hi (hi (hi (hi at_self rfl) rfl) rfl) rfl) rfl) rfl)) (hi (hi (hi (hi (hi (lo at_self rfl) rfl) rfl) rfl) rfl) rfl))) (congr (congr (congr (congrArg Vvv.mk (hi (hi (hi (hi (lo at_self rfl) rfl) rfl) rfl) rfl)) (hi (hi (hi (lo at_self rfl) rfl) rfl) rfl)) (hi (hi (lo at_self rfl) rfl) rfl)) (hi (lo at_self rfl) rfl)))))

theorem vredmin (g : Guard) (f : Vvv) : Statement (.vredmin g f) :=
  ofA 51 rfl rfl ((if_neg fun h => ne_part 0 3 2#3 rfl rfl (lo rfl rfl) h).trans ((if_pos (lo rfl rfl)).trans (congrArg some (congr (congrArg Instr.vredmin (congr (congrArg Guard.mk (hi (hi (hi (hi (hi (hi at_self rfl) rfl) rfl) rfl) rfl) rfl)) (hi (hi (hi (hi (hi (lo at_self rfl) rfl) rfl) rfl) rfl) rfl))) (congr (congr (congr (congrArg Vvv.mk (hi (hi (hi (hi (lo at_self rfl) rfl) rfl) rfl) rfl)) (hi (hi (hi (lo at_self rfl) rfl) rfl) rfl)) (hi (hi (lo at_self rfl) rfl) rfl)) (hi (lo at_self rfl) rfl))))))

theorem vredmax (g : Guard) (f : Vvv) : Statement (.vredmax g f) :=
  ofA 51 rfl rfl ((if_neg fun h => ne_part 0 3 4#3 rfl rfl (lo rfl rfl) h).trans ((if_neg fun h => ne_part 0 3 4#3 rfl rfl (lo rfl rfl) h).trans ((if_pos (lo rfl rfl)).trans (congrArg some (congr (congrArg Instr.vredmax (congr (congrArg Guard.mk (hi (hi (hi (hi (hi (hi at_self rfl) rfl) rfl) rfl) rfl) rfl)) (hi (hi (hi (hi (hi (lo at_self rfl) rfl) rfl) rfl) rfl) rfl))) (congr (congr (congr (congrArg Vvv.mk (hi (hi (hi (hi (lo at_self rfl) rfl) rfl) rfl) rfl)) (hi (hi (hi (lo at_self rfl) rfl) rfl) rfl)) (hi (hi (lo at_self rfl) rfl) rfl)) (hi (lo at_self rfl) rfl)))))))

theorem vredsumScalar (g : Guard) (t : BitVec 4) (a : BitVec 4) (sr : BitVec 6) : Statement (.vredsumScalar g t a sr) :=
  ofA 51 rfl rfl ((if_neg fun h => ne_part 0 1 1#1 rfl rfl (lo rfl rfl) h).trans ((if_neg fun h => ne_part 0 1 1#1 rfl rfl (lo rfl rfl) h).trans ((if_neg fun h => ne_part 0 1 1#1 rfl rfl (lo rfl rfl) h).trans ((if_pos ⟨hi (hi (hi (lo rfl rfl) rfl) rfl) rfl, lo rfl rfl⟩).trans (congrArg some (congr (congr (congr (congrArg Instr.vredsumScalar (congr (congrArg Guard.mk (hi (hi (hi (hi (hi (hi at_self rfl) rfl) rfl) rfl) rfl) rfl)) (hi (hi (hi (hi (hi (lo at_self rfl) rfl) rfl) rfl) rfl) rfl))) (hi (hi (hi (hi (lo at_self rfl) rfl) rfl) rfl) rfl)) (hi (hi (lo at_self rfl) rfl) rfl)) (hi (lo at_self rfl) rfl)))))))

theorem vredminScalar (g : Guard) (t : BitVec 4) (a : BitVec 4) (sr : BitVec 6) : Statement (.vredminScalar g t a sr) :=
  ofA 51 rfl rfl ((if_neg fun h => ne_part 0 1 1#1 rfl rfl (lo rfl rfl) h).trans ((if_neg fun h => ne_part 0 1 1#1 rfl rfl (lo rfl rfl) h).trans ((if_neg fun h => ne_part 0 1 1#1 rfl rfl (lo rfl rfl) h).trans ((if_neg fun h => ne_part 0 4 1#4 rfl rfl (hi (hi (hi (lo rfl rfl) rfl) rfl) rfl) h.1).trans ((if_pos ⟨hi (hi (hi (lo rfl rfl) rfl) rfl) rfl, lo rfl rfl⟩).trans (congrArg some (congr (congr (congr (congrArg Instr.vredminScalar (congr (congrArg Guard.mk (hi (hi (hi (hi (hi (hi at_self rfl) rfl) rfl) rfl) rfl) rfl)) (hi (hi (hi (hi (hi (lo at_self rfl) rfl) rfl) rfl) rfl) rfl))) (hi (hi (hi (hi (lo at_self rfl) rfl) rfl) rfl) rfl)) (hi (hi (lo at_self rfl) rfl) rfl)) (hi (lo at_self rfl) rfl))))))))

theorem vredmaxScalar (g : Guard) (t : BitVec 4) (a : BitVec 4) (sr : BitVec 6) : Statement (.vredmaxScalar g t a sr) :=
  ofA 51 rfl rfl ((if_neg fun h => ne_part 0 1 1#1 rfl rfl (lo rfl rfl) h).trans ((if_neg fun h => ne_part 0 1 1#1 rfl rfl (lo rfl rfl) h).trans ((if_neg fun h => ne_part 0 1 1#1 rfl rfl (lo rfl rfl) h).trans ((if_neg fun h => ne_part 0 4 2#4 rfl rfl (hi (hi (hi (lo rfl rfl) rfl) rfl) rfl) h.1).trans ((if_neg fun h => ne_part 0 4 2#4 rfl rfl (hi (hi (hi (lo rfl rfl) rfl) rfl) rfl) h.1).trans ((if_pos ⟨hi (hi (hi (lo rfl rfl) rfl) rfl) rfl, lo rfl rfl⟩).trans (congrArg some (congr (congr (congr (congrArg Instr.vredmaxScalar (congr (congrArg Guard.mk (hi (hi (hi (hi (hi (hi at_self rfl) rfl) rfl) rfl) rfl) rfl)) (hi (hi (hi (hi (hi (lo at_self rfl) rfl) rfl) rfl) rfl) rfl))) (hi (hi (hi (hi (lo at_self rfl) rfl) rfl) rfl) rfl)) (hi (hi (lo at_self rfl) rfl) rfl)) (hi (lo at_self rfl) rfl)))))))))

theorem vperm (g : Guard) (f : Vvv) : Statement (.vperm g f) :=
  ofA 52 rfl rfl ((if_pos (lo rfl rfl)).trans (congrArg some (congr (congrArg Instr.vperm (congr (congrArg Guard.mk (hi (hi (hi (hi (hi (hi at_self rfl) rfl) rfl) rfl) rfl) rfl)) (hi (hi (hi (hi (hi (lo at_self rfl) rfl) rfl) rfl) rfl) rfl))) (congr (congr (congr (congrArg Vvv.mk (hi (hi (hi (hi (lo at_self rfl) rfl) rfl) rfl) rfl)) (hi (hi (hi (lo at_self rfl) rfl) rfl) rfl)) (hi (hi (lo at_self rfl) rfl) rfl)) (hi (lo at_self rfl) rfl)))))

theorem vslideup (g : Guard) (f : Vvs) : Statement (.vslideup g f) :=
  ofA 53 rfl rfl ((if_pos (lo rfl rfl)).trans (congrArg some (congr (congrArg Instr.vslideup (congr (congrArg Guard.mk (hi (hi (hi (hi (hi (hi at_self rfl) rfl) rfl) rfl) rfl) rfl)) (hi (hi (hi (hi (hi (lo at_self rfl) rfl) rfl) rfl) rfl) rfl))) (congr (congr (congr (congrArg Vvs.mk (hi (hi (hi (hi (lo at_self rfl) rfl) rfl) rfl) rfl)) (hi (hi (hi (lo at_self rfl) rfl) rfl) rfl)) (hi (hi (lo at_self rfl) rfl) rfl)) (hi (lo at_self rfl) rfl)))))

theorem vslidedn (g : Guard) (f : Vvs) : Statement (.vslidedn g f) :=
  ofA 53 rfl rfl ((if_neg fun h => ne_part 0 1 1#1 rfl rfl (lo rfl rfl) h).trans ((if_pos (lo rfl rfl)).trans (congrArg some (congr (congrArg Instr.vslidedn (congr (congrArg Guard.mk (hi (hi (hi (hi (hi (hi at_self rfl) rfl) rfl) rfl) rfl) rfl)) (hi (hi (hi (hi (hi (lo at_self rfl) rfl) rfl) rfl) rfl) rfl))) (congr (congr (congr (congrArg Vvs.mk (hi (hi (hi (hi (lo at_self rfl) rfl) rfl) rfl) rfl)) (hi (hi (hi (lo at_self rfl) rfl) rfl) rfl)) (hi (hi (lo at_self rfl) rfl) rfl)) (hi (lo at_self rfl) rfl))))))

theorem vcompress (g : Guard) (f : Vvv) : Statement (.vcompress g f) :=
  ofA 54 rfl rfl ((if_pos (lo rfl rfl)).trans (congrArg some (congr (congrArg Instr.vcompress (congr (congrArg Guard.mk (hi (hi (hi (hi (hi (hi at_self rfl) rfl) rfl) rfl) rfl) rfl)) (hi (hi (hi (hi (hi (lo at_self rfl) rfl) rfl) rfl) rfl) rfl))) (congr (congr (congr (congrArg Vvv.mk (hi (hi (hi (hi (lo at_self rfl) rfl) rfl) rfl) rfl)) (hi (hi (hi (lo at_self rfl) rfl) rfl) rfl)) (hi (hi (lo at_self rfl) rfl) rfl)) (hi (lo at_self rfl) rfl)))))

theorem vexpand (g : Guard) (f : Vvv) : Statement (.vexpand g f) :=
  ofA 54 rfl rfl ((if_neg fun h => ne_part 0 3 1#3 rfl rfl (lo rfl rfl) h).trans ((if_pos (lo rfl rfl)).trans (congrArg some (congr (congrArg Instr.vexpand (congr (congrArg Guard.mk (hi (hi (hi (hi (hi (hi at_self rfl) rfl) rfl) rfl) rfl) rfl)) (hi (hi (hi (hi (hi (lo at_self rfl) rfl) rfl) rfl) rfl) rfl))) (congr (congr (congr (congrArg Vvv.mk (hi (hi (hi (hi (lo at_self rfl) rfl) rfl) rfl) rfl)) (hi (hi (hi (lo at_self rfl) rfl) rfl) rfl)) (hi (hi (lo at_self rfl) rfl) rfl)) (hi (lo at_self rfl) rfl))))))

theorem vcvt (g : Guard) (f : Vvv) (x : BitVec 1) : Statement (.vcvt g f x) :=
  ofA 55 rfl rfl ((if_pos (hi (lo rfl rfl) rfl)).trans (congrArg some (congr (congr (congrArg Instr.vcvt (congr (congrArg Guard.mk (hi (hi (hi (hi (hi (hi (hi at_self rfl) rfl) rfl) rfl) rfl) rfl) rfl)) (hi (hi (hi (hi (hi (hi (lo at_self rfl) rfl) rfl) rfl) rfl) rfl) rfl))) (congr (congr (congr (congrArg Vvv.mk (hi (hi (hi (hi (hi (lo at_self rfl) rfl) rfl) rfl) rfl) rfl)) (hi (hi (hi (hi (lo at_self rfl) rfl) rfl) rfl) rfl)) (hi (hi (hi (lo at_self rfl) rfl) rfl) rfl)) (hi (hi (lo at_self rfl) rfl) rfl))) (lo at_self rfl))))

theorem vwadd (g : Guard) (f : Vvv) : Statement (.vwadd g f) :=
  ofA 56 rfl rfl ((if_pos (lo rfl rfl)).trans (congrArg some (congr (congrArg Instr.vwadd (congr (congrArg Guard.mk (hi (hi (hi (hi (hi (hi at_self rfl) rfl) rfl) rfl) rfl) rfl)) (hi (hi (hi (hi (hi (lo at_self rfl) rfl) rfl) rfl) rfl) rfl))) (congr (congr (congr (congrArg Vvv.mk (hi (hi (hi (hi (lo at_self rfl) rfl) rfl) rfl) rfl)) (hi (hi (hi (lo at_self rfl) rfl) rfl) rfl)) (hi (hi (lo at_self rfl) rfl) rfl)) (hi (lo at_self rfl) rfl)))))

theorem vwmul (g : Guard) (f : Vvv) : Statement (.vwmul g f) :=
  ofA 56 rfl rfl ((if_neg fun h => ne_part 0 3 1#3 rfl rfl (lo rfl rfl) h).trans ((if_pos (lo rfl rfl)).trans (congrArg some (congr (congrArg Instr.vwmul (congr (congrArg Guard.mk (hi (hi (hi (hi (hi (hi at_self rfl) rfl) rfl) rfl) rfl) rfl)) (hi (hi (hi (hi (hi (lo at_self rfl) rfl) rfl) rfl) rfl) rfl))) (congr (congr (congr (congrArg Vvv.mk (hi (hi (hi (hi (lo at_self rfl) rfl) rfl) rfl) rfl)) (hi (hi (hi (lo at_self rfl) rfl) rfl) rfl)) (hi (hi (lo at_self rfl) rfl) rfl)) (hi (lo at_self rfl) rfl))))))

theorem vwcvt (g : Guard) (f : Vvv) : Statement (.vwcvt g f) :=
  ofA 56 rfl rfl ((if_neg fun h => ne_part 0 3 2#3 rfl rfl (lo rfl rfl) h).trans ((if_neg fun h => ne_part 0 3 2#3 rfl rfl (lo rfl rfl) h).trans ((if_pos (lo rfl rfl)).trans (congrArg some (congr (congrArg Instr.vwcvt (congr (congrArg Guard.mk (hi (hi (hi (hi (hi (hi at_self rfl) rfl) rfl) rfl) rfl) rfl)) (hi (hi (hi (hi (hi (lo at_self rfl) rfl) rfl) rfl) rfl) rfl))) (congr (congr (congr (congrArg Vvv.mk (hi (hi (hi (hi (lo at_self rfl) rfl) rfl) rfl) rfl)) (hi (hi (hi (lo at_self rfl) rfl) rfl) rfl)) (hi (hi (lo at_self rfl) rfl) rfl)) (hi (lo at_self rfl) rfl)))))))

theorem vnadd (g : Guard) (f : Vvv) (x : BitVec 1) : Statement (.vnadd g f x) :=
  ofA 57 rfl rfl ((if_pos ⟨hi (hi (lo rfl rfl) rfl) rfl, lo rfl rfl⟩).trans (congrArg some (congr (congr (congrArg Instr.vnadd (congr (congrArg Guard.mk (hi (hi (hi (hi (hi (hi (hi (hi at_self rfl) rfl) rfl) rfl) rfl) rfl) rfl) rfl)) (hi (hi (hi (hi (hi (hi (hi (lo at_self rfl) rfl) rfl) rfl) rfl) rfl) rfl) rfl))) (congr (congr (congr (congrArg Vvv.mk (hi (hi (hi (hi (hi (hi (lo at_self rfl) rfl) rfl) rfl) rfl) rfl) rfl)) (hi (hi (hi (hi (hi (lo at_self rfl) rfl) rfl) rfl) rfl) rfl)) (hi (hi (hi (hi (lo at_self rfl) rfl) rfl) rfl) rfl)) (hi (hi (hi (lo at_self rfl) rfl) rfl) rfl))) (hi (lo at_self rfl) rfl))))

theorem vncvt (g : Guard) (f : Vvv) (x : BitVec 1) : Statement (.vncvt g f x) :=
  ofA 57 rfl rfl ((if_neg fun h => ne_part 0 1 1#1 rfl rfl (lo rfl rfl) h.2).trans ((if_pos ⟨hi (hi (lo rfl rfl) rfl) rfl, lo rfl rfl⟩).trans (congrArg some (congr (congr (congrArg Instr.vncvt (congr (congrArg Guard.mk (hi (hi (hi (hi (hi (hi (hi (hi at_self rfl) rfl) rfl) rfl) rfl) rfl) rfl) rfl)) (hi (hi (hi (hi (hi (hi (hi (lo at_self rfl) rfl) rfl) rfl) rfl) rfl) rfl) rfl))) (congr (congr (congr (congrArg Vvv.mk (hi (hi (hi (hi (hi (hi (lo at_self rfl) rfl) rfl) rfl) rfl) rfl) rfl)) (hi (hi (hi (hi (hi (lo at_self rfl) rfl) rfl) rfl) rfl) rfl)) (hi (hi (hi (hi (lo at_self rfl) rfl) rfl) rfl) rfl)) (hi (hi (hi (lo at_self rfl) rfl) rfl) rfl))) (hi (lo at_self rfl) rfl)))))

theorem vbmax (g : Guard) (t : BitVec 4) (d : BitVec 4) (a : BitVec 4) (b : BitVec 1) : Statement (.vbmax g t d a b) :=
  ofA 58 rfl rfl ((if_pos (hi (lo rfl rfl) rfl)).trans (congrArg some (congr (congr (congr (congr (congrArg Instr.vbmax (congr (congrArg Guard.mk (hi (hi (hi (hi (hi (hi at_self rfl) rfl) rfl) rfl) rfl) rfl)) (hi (hi (hi (hi (hi (lo at_self rfl) rfl) rfl) rfl) rfl) rfl))) (hi (hi (hi (hi (lo at_self rfl) rfl) rfl) rfl) rfl)) (hi (hi (hi (lo at_self rfl) rfl) rfl) rfl)) (hi (hi (lo at_self rfl) rfl) rfl)) (lo at_self rfl))))

theorem vexp2 (g : Guard) (t : BitVec 4) (d : BitVec 4) (a : BitVec 4) : Statement (.vexp2 g t d a) :=
  ofA 59 rfl rfl ((if_pos (lo rfl rfl)).trans (congrArg some (congr (congr (congr (congrArg Instr.vexp2 (congr (congrArg Guard.mk (hi (hi (hi (hi (hi at_self rfl) rfl) rfl) rfl) rfl)) (hi (hi (hi (hi (lo at_self rfl) rfl) rfl) rfl) rfl))) (hi (hi (hi (lo at_self rfl) rfl) rfl) rfl)) (hi (hi (lo at_self rfl) rfl) rfl)) (hi (lo at_self rfl) rfl))))

theorem vlog2 (g : Guard) (t : BitVec 4) (d : BitVec 4) (a : BitVec 4) : Statement (.vlog2 g t d a) :=
  ofA 59 rfl rfl ((if_neg fun h => ne_part 0 7 1#7 rfl rfl (lo rfl rfl) h).trans ((if_pos (lo rfl rfl)).trans (congrArg some (congr (congr (congr (congrArg Instr.vlog2 (congr (congrArg Guard.mk (hi (hi (hi (hi (hi at_self rfl) rfl) rfl) rfl) rfl)) (hi (hi (hi (hi (lo at_self rfl) rfl) rfl) rfl) rfl))) (hi (hi (hi (lo at_self rfl) rfl) rfl) rfl)) (hi (hi (lo at_self rfl) rfl) rfl)) (hi (lo at_self rfl) rfl)))))

theorem vrcp (g : Guard) (t : BitVec 4) (d : BitVec 4) (a : BitVec 4) : Statement (.vrcp g t d a) :=
  ofA 59 rfl rfl ((if_neg fun h => ne_part 0 7 2#7 rfl rfl (lo rfl rfl) h).trans ((if_neg fun h => ne_part 0 7 2#7 rfl rfl (lo rfl rfl) h).trans ((if_pos (lo rfl rfl)).trans (congrArg some (congr (congr (congr (congrArg Instr.vrcp (congr (congrArg Guard.mk (hi (hi (hi (hi (hi at_self rfl) rfl) rfl) rfl) rfl)) (hi (hi (hi (hi (lo at_self rfl) rfl) rfl) rfl) rfl))) (hi (hi (hi (lo at_self rfl) rfl) rfl) rfl)) (hi (hi (lo at_self rfl) rfl) rfl)) (hi (lo at_self rfl) rfl))))))

theorem vrsqrt (g : Guard) (t : BitVec 4) (d : BitVec 4) (a : BitVec 4) : Statement (.vrsqrt g t d a) :=
  ofA 59 rfl rfl ((if_neg fun h => ne_part 0 7 3#7 rfl rfl (lo rfl rfl) h).trans ((if_neg fun h => ne_part 0 7 3#7 rfl rfl (lo rfl rfl) h).trans ((if_neg fun h => ne_part 0 7 3#7 rfl rfl (lo rfl rfl) h).trans ((if_pos (lo rfl rfl)).trans (congrArg some (congr (congr (congr (congrArg Instr.vrsqrt (congr (congrArg Guard.mk (hi (hi (hi (hi (hi at_self rfl) rfl) rfl) rfl) rfl)) (hi (hi (hi (hi (lo at_self rfl) rfl) rfl) rfl) rfl))) (hi (hi (hi (lo at_self rfl) rfl) rfl) rfl)) (hi (hi (lo at_self rfl) rfl) rfl)) (hi (lo at_self rfl) rfl)))))))

theorem vsqrt (g : Guard) (t : BitVec 4) (d : BitVec 4) (a : BitVec 4) : Statement (.vsqrt g t d a) :=
  ofA 59 rfl rfl ((if_neg fun h => ne_part 0 7 4#7 rfl rfl (lo rfl rfl) h).trans ((if_neg fun h => ne_part 0 7 4#7 rfl rfl (lo rfl rfl) h).trans ((if_neg fun h => ne_part 0 7 4#7 rfl rfl (lo rfl rfl) h).trans ((if_neg fun h => ne_part 0 7 4#7 rfl rfl (lo rfl rfl) h).trans ((if_pos (lo rfl rfl)).trans (congrArg some (congr (congr (congr (congrArg Instr.vsqrt (congr (congrArg Guard.mk (hi (hi (hi (hi (hi at_self rfl) rfl) rfl) rfl) rfl)) (hi (hi (hi (hi (lo at_self rfl) rfl) rfl) rfl) rfl))) (hi (hi (hi (lo at_self rfl) rfl) rfl) rfl)) (hi (hi (lo at_self rfl) rfl) rfl)) (hi (lo at_self rfl) rfl))))))))

theorem vtanh (g : Guard) (t : BitVec 4) (d : BitVec 4) (a : BitVec 4) : Statement (.vtanh g t d a) :=
  ofA 59 rfl rfl ((if_neg fun h => ne_part 0 7 5#7 rfl rfl (lo rfl rfl) h).trans ((if_neg fun h => ne_part 0 7 5#7 rfl rfl (lo rfl rfl) h).trans ((if_neg fun h => ne_part 0 7 5#7 rfl rfl (lo rfl rfl) h).trans ((if_neg fun h => ne_part 0 7 5#7 rfl rfl (lo rfl rfl) h).trans ((if_neg fun h => ne_part 0 7 5#7 rfl rfl (lo rfl rfl) h).trans ((if_pos (lo rfl rfl)).trans (congrArg some (congr (congr (congr (congrArg Instr.vtanh (congr (congrArg Guard.mk (hi (hi (hi (hi (hi at_self rfl) rfl) rfl) rfl) rfl)) (hi (hi (hi (hi (lo at_self rfl) rfl) rfl) rfl) rfl))) (hi (hi (hi (lo at_self rfl) rfl) rfl) rfl)) (hi (hi (lo at_self rfl) rfl) rfl)) (hi (lo at_self rfl) rfl)))))))))

theorem vsigm (g : Guard) (t : BitVec 4) (d : BitVec 4) (a : BitVec 4) : Statement (.vsigm g t d a) :=
  ofA 59 rfl rfl ((if_neg fun h => ne_part 0 7 6#7 rfl rfl (lo rfl rfl) h).trans ((if_neg fun h => ne_part 0 7 6#7 rfl rfl (lo rfl rfl) h).trans ((if_neg fun h => ne_part 0 7 6#7 rfl rfl (lo rfl rfl) h).trans ((if_neg fun h => ne_part 0 7 6#7 rfl rfl (lo rfl rfl) h).trans ((if_neg fun h => ne_part 0 7 6#7 rfl rfl (lo rfl rfl) h).trans ((if_neg fun h => ne_part 0 7 6#7 rfl rfl (lo rfl rfl) h).trans ((if_pos (lo rfl rfl)).trans (congrArg some (congr (congr (congr (congrArg Instr.vsigm (congr (congrArg Guard.mk (hi (hi (hi (hi (hi at_self rfl) rfl) rfl) rfl) rfl)) (hi (hi (hi (hi (lo at_self rfl) rfl) rfl) rfl) rfl))) (hi (hi (hi (lo at_self rfl) rfl) rfl) rfl)) (hi (hi (lo at_self rfl) rfl) rfl)) (hi (lo at_self rfl) rfl))))))))))

theorem vmov (g : Guard) (d : BitVec 4) (a : BitVec 4) : Statement (.vmov g d a) :=
  ofA 60 rfl rfl ((if_pos ⟨hi (hi (hi (lo rfl rfl) rfl) rfl) rfl, lo rfl rfl⟩).trans (congrArg some (congr (congr (congrArg Instr.vmov (congr (congrArg Guard.mk (hi (hi (hi (hi (hi at_self rfl) rfl) rfl) rfl) rfl)) (hi (hi (hi (hi (lo at_self rfl) rfl) rfl) rfl) rfl))) (hi (hi (lo at_self rfl) rfl) rfl)) (hi (lo at_self rfl) rfl))))

theorem vzero (g : Guard) (d : BitVec 4) : Statement (.vzero g d) :=
  ofA 60 rfl rfl ((if_neg fun h => ne_part 0 7 2#7 rfl rfl (lo rfl rfl) h.2).trans ((if_pos ⟨hi (hi (lo rfl rfl) rfl) rfl, lo rfl rfl⟩).trans (congrArg some (congr (congrArg Instr.vzero (congr (congrArg Guard.mk (hi (hi (hi (hi at_self rfl) rfl) rfl) rfl)) (hi (hi (hi (lo at_self rfl) rfl) rfl) rfl))) (hi (lo at_self rfl) rfl)))))

theorem vmovScalar (g : Guard) (d : BitVec 4) (sr : BitVec 6) : Statement (.vmovScalar g d sr) :=
  ofA 60 rfl rfl ((if_neg fun h => ne_part 0 1 1#1 rfl rfl (lo rfl rfl) h.2).trans ((if_neg fun h => ne_part 0 1 1#1 rfl rfl (lo rfl rfl) h.2).trans ((if_pos ⟨hi (hi (hi (hi (lo rfl rfl) rfl) rfl) rfl) rfl, hi (hi (lo rfl rfl) rfl) rfl, lo rfl rfl⟩).trans (congrArg some (congr (congr (congrArg Instr.vmovScalar (congr (congrArg Guard.mk (hi (hi (hi (hi (hi (hi at_self rfl) rfl) rfl) rfl) rfl) rfl)) (hi (hi (hi (hi (hi (lo at_self rfl) rfl) rfl) rfl) rfl) rfl))) (hi (hi (hi (lo at_self rfl) rfl) rfl) rfl)) (hi (lo at_self rfl) rfl))))))

theorem loadDataReturn : Statement .loadDataReturn := none_of rfl

theorem storeAck : Statement .storeAck := none_of rfl

theorem longResultReady : Statement .longResultReady := none_of rfl

theorem vectorResultWrite : Statement .vectorResultWrite := none_of rfl

theorem deferredFault : Statement .deferredFault := none_of rfl

theorem trapDelivery : Statement .trapDelivery := none_of rfl

theorem threadRetirement : Statement .threadRetirement := none_of rfl

theorem timedTaskCommit : Statement .timedTaskCommit := none_of rfl

theorem taskRestart : Statement .taskRestart := none_of rfl

theorem stragglerKill : Statement .stragglerKill := none_of rfl

theorem windowSpill : Statement .windowSpill := none_of rfl

theorem windowRefill : Statement .windowRefill := none_of rfl

theorem vwinWrite : Statement .vwinWrite := none_of rfl

theorem vwinGrant : Statement .vwinGrant := none_of rfl

theorem sleepWake : Statement .sleepWake := none_of rfl

theorem ageingCredit : Statement .ageingCredit := none_of rfl

theorem cairnRefresh : Statement .cairnRefresh := none_of rfl

theorem rebalance : Statement .rebalance := none_of rfl

theorem migrationArrival : Statement .migrationArrival := none_of rfl

theorem remoteScratchpadAccess : Statement .remoteScratchpadAccess := none_of rfl

theorem bankOperation : Statement .bankOperation := none_of rfl

theorem feRetry : Statement .feRetry := none_of rfl

theorem tlbWalkComplete : Statement .tlbWalkComplete := none_of rfl

theorem shootdownComplete : Statement .shootdownComplete := none_of rfl

theorem pageMigrationLine : Statement .pageMigrationLine := none_of rfl

theorem messageArrival : Statement .messageArrival := none_of rfl

theorem sendRetry : Statement .sendRetry := none_of rfl

theorem spawnAnswer : Statement .spawnAnswer := none_of rfl

theorem syscAnswer : Statement .syscAnswer := none_of rfl

theorem engineCommandBegin : Statement .engineCommandBegin := none_of rfl

theorem engineStep : Statement .engineStep := none_of rfl

theorem keyBufferTimeout : Statement .keyBufferTimeout := none_of rfl

theorem keyedFlitArrival : Statement .keyedFlitArrival := none_of rfl

theorem batchWindowClose : Statement .batchWindowClose := none_of rfl

theorem flUpdateApply : Statement .flUpdateApply := none_of rfl

theorem barrierArrivalHop : Statement .barrierArrivalHop := none_of rfl

theorem barrierRelease : Statement .barrierRelease := none_of rfl

theorem ropePendingWrite : Statement .ropePendingWrite := none_of rfl

theorem ropeBankAck : Statement .ropeBankAck := none_of rfl

theorem ropeMerge : Statement .ropeMerge := none_of rfl

theorem ropeRelease : Statement .ropeRelease := none_of rfl

theorem crossTriggerArrival : Statement .crossTriggerArrival := none_of rfl

theorem teamRollback : Statement .teamRollback := none_of rfl

theorem patrolScrub : Statement .patrolScrub := none_of rfl

theorem kick : Statement .kick := none_of rfl

theorem gclr : Statement .gclr := none_of rfl

theorem qcfgWrite : Statement .qcfgWrite := none_of rfl

theorem launch : Statement .launch := none_of rfl

theorem launchPlace : Statement .launchPlace := none_of rfl

theorem mbxwait : Statement .mbxwait := none_of rfl

theorem mbxput : Statement .mbxput := none_of rfl

theorem signal : Statement .signal := none_of rfl

theorem timed : Statement .timed := none_of rfl

theorem timedExpiry : Statement .timedExpiry := none_of rfl

theorem fencePacket : Statement .fencePacket := none_of rfl

theorem cancel : Statement .cancel := none_of rfl

theorem nopPacket : Statement .nopPacket := none_of rfl

theorem energySample : Statement .energySample := none_of rfl

theorem energyWindowBoundary : Statement .energyWindowBoundary := none_of rfl

theorem drainEnd : Statement .drainEnd := none_of rfl

theorem t1limExpiry : Statement .t1limExpiry := none_of rfl

theorem saveComplete : Statement .saveComplete := none_of rfl

theorem t2limExpiry : Statement .t2limExpiry := none_of rfl

theorem takeover : Statement .takeover := none_of rfl

theorem log : Statement .log := none_of rfl

theorem syscMbxput : Statement .syscMbxput := none_of rfl

theorem mbxget : Statement .mbxget := none_of rfl

theorem syscCancel : Statement .syscCancel := none_of rfl

theorem mqtail : Statement .mqtail := none_of rfl

theorem mrheadWrite : Statement .mrheadWrite := none_of rfl

theorem mcfgWrite : Statement .mcfgWrite := none_of rfl

theorem mstatRead : Statement .mstatRead := none_of rfl

theorem preempt : Statement .preempt := none_of rfl

theorem resume : Statement .resume := none_of rfl

theorem ptpoff : Statement .ptpoff := none_of rfl

theorem attest : Statement .attest := none_of rfl

theorem pubkey : Statement .pubkey := none_of rfl

theorem thermclr : Statement .thermclr := none_of rfl

theorem cesum : Statement .cesum := none_of rfl

theorem dtstepWrite : Statement .dtstepWrite := none_of rfl

theorem ppsEdge : Statement .ppsEdge := none_of rfl

theorem xtrigPulse : Statement .xtrigPulse := none_of rfl

theorem xtrigFiredClear : Statement .xtrigFiredClear := none_of rfl

theorem traceStart : Statement .traceStart := none_of rfl

theorem traceStop : Statement .traceStop := none_of rfl

theorem traceOff : Statement .traceOff := none_of rfl

theorem traceStopped : Statement .traceStopped := none_of rfl

theorem tracePostEnd : Statement .tracePostEnd := none_of rfl

theorem captureRecord : Statement .captureRecord := none_of rfl

theorem wearCompute : Statement .wearCompute := none_of rfl

theorem wake : Statement .wake := none_of rfl

theorem bgWrite : Statement .bgWrite := none_of rfl

theorem registerWrite : Statement .registerWrite := none_of rfl

theorem rtctlInjWrite : Statement .rtctlInjWrite := none_of rfl

theorem routingBankWrite : Statement .routingBankWrite := none_of rfl

theorem deviceReset : Statement .deviceReset := none_of rfl

theorem bootgo : Statement .bootgo := none_of rfl

theorem bootChecksDone : Statement .bootChecksDone := none_of rfl

theorem calibrationDone : Statement .calibrationDone := none_of rfl

theorem approachExit : Statement .approachExit := none_of rfl

theorem inboundWrite : Statement .inboundWrite := none_of rfl

theorem inboundRead : Statement .inboundRead := none_of rfl

theorem inboundAtomic : Statement .inboundAtomic := none_of rfl

theorem hostCompletion : Statement .hostCompletion := none_of rfl

theorem hostReadTimeout : Statement .hostReadTimeout := none_of rfl

theorem evhStore : Statement .evhStore := none_of rfl

theorem evhGetRequest : Statement .evhGetRequest := none_of rfl

theorem evhGetData : Statement .evhGetData := none_of rfl

theorem evhMessage : Statement .evhMessage := none_of rfl

theorem evhSpawn : Statement .evhSpawn := none_of rfl

theorem evhSpawnReply : Statement .evhSpawnReply := none_of rfl

theorem evhKeyedPairs : Statement .evhKeyedPairs := none_of rfl

theorem evhRopeArrival : Statement .evhRopeArrival := none_of rfl

theorem evhRopeRelease : Statement .evhRopeRelease := none_of rfl

theorem evhKillNotice : Statement .evhKillNotice := none_of rfl

theorem evhAcknowledgement : Statement .evhAcknowledgement := none_of rfl

theorem evhLossNotice : Statement .evhLossNotice := none_of rfl

theorem evhToken : Statement .evhToken := none_of rfl

theorem evhThread : Statement .evhThread := none_of rfl

theorem deviceLost : Statement .deviceLost := none_of rfl

theorem thermalGatingBegin : Statement .thermalGatingBegin := none_of rfl

theorem thermalGatingEnd : Statement .thermalGatingEnd := none_of rfl

theorem thermalResetHold : Statement .thermalResetHold := none_of rfl

theorem malformedSlot : Statement .malformedSlot := none_of rfl

theorem sCycle : Statement .sCycle := none_of rfl

theorem referencePeriod : Statement .referencePeriod := none_of rfl

theorem portTrained : Statement .portTrained := none_of rfl

theorem portDown : Statement .portDown := none_of rfl

theorem flitCrcFailure : Statement .flitCrcFailure := none_of rfl

theorem routerForward : Statement .routerForward := none_of rfl

theorem pageResident : Statement .pageResident := none_of rfl

end Sys2Proof.Laws.Words
end

