-- ==== Sys2Proof/Tests/Witness1.lean ====
section
/-! SUPPORT. States and operands that meet the hypotheses of the statements: scalar instructions, control flow, exceptions. -/

namespace Sys2Proof.Tests

set_option Elab.async false

open Sys2Proof Sys2Proof.Machine Sys2Proof.Claims

/-- Thread 0 of core 1 at a lone bundle of a placed context. -/
def base : State :=
  let s := State.reset.placedAt []
  { s with latch := { core := 1, slot := 0, len := 4, word := 0x81000000#32 } }

/-- `base` with the thread changed. -/
def withThread (f : Thread → Thread) : State := base.modCur f

/-- `withThread`, of a thread whose home lies on device 9, which a route of the entered fabric reaches. -/
def far (f : Thread → Thread) : State :=
  (withThread fun t => f { t with hdev := 9 }).modDev fun d => { d with active := false, routes := [(9, 0x8001)] }

/-- k0 holds 9, k1 holds 5. -/
def regs : State := withThread fun t => { t with k := [(0, 9), (1, 5)] }

theorem witness_ScalarTwoSourceResult : regs.goesA ⟨0, 0⟩ ∧ ∃ u v t a b, src 16 regs = .ok (a, u) ∧ src 17 u = .ok (b, v) ∧ dest 18 (a + b) v = .ok ((), t) :=
  ⟨rfl, _, _, _, _, _, rfl, rfl, rfl⟩

theorem witness_ScalarSlowResult : regs.goesA ⟨0, 0⟩ ∧ ∃ u v t a b r, src 16 regs = .ok (a, u) ∧ src 17 u = .ok (b, v) ∧ reserve 0 v.nextOp v = .ok (r, t) :=
  ⟨rfl, _, _, _, _, _, _, rfl, rfl, rfl⟩

theorem witness_ScalarOneSourceResult : regs.goesA ⟨0, 0⟩ ∧ ∃ u t v, src 16 regs = .ok (v, u) ∧ dest 0 (v + 1) u = .ok ((), t) := ⟨rfl, _, _, _, rfl, rfl⟩

theorem witness_ScalarMoveResult : regs.goesA ⟨0, 0⟩ ∧ regs.goesC 0 ∧ (∃ t, dest 18 7 regs = .ok ((), t)) ∧ (∃ u v w t o a b, src 16 regs = .ok (o, u) ∧ src 17 u = .ok (a, v) ∧ src 36 v = .ok (b, w) ∧
    dest 16 (Claims.insert o a b) w = .ok ((), t)) ∧ ∃ t, push 3 regs = .ok ((), t) :=
  ⟨rfl, ⟨rfl, rfl⟩, ⟨_, rfl⟩, ⟨_, _, _, _, _, _, _, rfl, rfl, rfl, rfl⟩, _, rfl⟩

theorem witness_PredicateResult : regs.goesA ⟨0, 0⟩ ∧ ∃ u v x y, src 16 regs = .ok (x, u) ∧ src 17 u = .ok (y, v) := ⟨rfl, _, _, _, _, rfl, rfl⟩

theorem witness_ScalarFrame : regs.latch.defer = .no ∧ plain 18 ∧ plain 16 ∧ plain 36 ∧ (∃ t, exec (.add ⟨0, 0⟩ ⟨18, 16, 36⟩ 0) regs = .next t) ∧ (∃ t, exec (.addi ⟨0, 0⟩ 18 16 1) regs = .next t) ∧
    ∃ t, exec (.cmp ⟨0, 0⟩ 1 16 36 0) regs = .next t :=
  ⟨rfl, .inl (by decide), .inl (by decide), .inr (by decide), ⟨_, rfl⟩, ⟨_, rfl⟩, _, rfl⟩

theorem witness_FloatResult : regs.goesA ⟨0, 0⟩ ∧ ∃ u v w t x y z, srcF 16 regs = .ok (x, u) ∧ srcF 17 u = .ok (y, v) ∧ srcF 36 v = .ok (z, w) ∧ dest 0 1 w = .ok ((), t) :=
  ⟨rfl, _, _, _, _, _, _, _, rfl, rfl, rfl, rfl⟩

theorem witness_FloatDivideConvert : regs.goesA ⟨0, 0⟩ ∧ (∃ u v x y, srcF 16 regs = .ok (x, u) ∧ srcF 17 u = .ok (y, v)) ∧ (∃ r t, reserve 0 (rounding regs (modeOf regs) false).2.nextOp (rounding regs (modeOf regs) false).2 = .ok (r, t)) ∧
    ∃ c, conversions[9]? = some c :=
  ⟨rfl, ⟨_, _, _, _, rfl, rfl⟩, ⟨_, _, rfl⟩, _, rfl⟩

theorem witness_GeneratorNeverZero : (0x9E3779B9 : BitVec 32) ≠ 0 := by decide

theorem witness_JumpsAndBranches : regs.goesC 0 ∧ ∃ u v, src 16 regs = .ok (v, u) := ⟨⟨rfl, rfl⟩, _, _, rfl⟩

/-- A guard that reads 0, in the word of an `add`, alone and in a pair. -/
theorem witness_GuardOff : (let w : BitVec 32 := 0xC10A4848; encode 1#1 (.add ⟨0, 1⟩ ⟨18, 16, 36⟩ 0) = some w ∧ w.getLsbD 30 = true ∧ guardOn (guardOf (w.extractLsb' 0 24)) base.cur = false) ∧ guardOn ⟨0, 1⟩ base.cur = false ∧ ({ base with latch := { base.latch with mode := .pairA, exec := false } } : State).latch.exec = false := ⟨⟨rfl, rfl, rfl⟩, rfl, rfl⟩

theorem witness_BundleEnds : base.latch.defer = .no ∧ (leaving base (.jump 64)).latch.defer = .jump 64 ∧ base.latch.slot < 256 := ⟨rfl, rfl, by decide⟩

theorem witness_CallResult : base.goesC 0 ∧ windowPending false base.pre = false ∧ windowPending false (withThread fun t => { t with regPend := [(20, 7)] }).pre = true ∧ (∃ u, room base = some u) ∧ (∃ u, room (withThread fun t => { t with depth := 2 }) = some u) ∧
    room (withThread fun t => { t with depth := 65535 }) = none ∧ (withThread fun t => { t with depth := 65535 }).goesC 0 :=
  ⟨⟨rfl, rfl⟩, rfl, rfl, ⟨_, rfl⟩, ⟨_, rfl⟩, rfl, rfl, rfl⟩

theorem witness_CallPushesWindow : (leaving base (.call 64)).latch.defer = .call 64 := rfl

/-- A call deep, in a task that began at depth 0, and in one that began at depth 1. -/
def called (d : Nat) (b : Bool) : State := withThread fun t => { t with depth := 1, win := [⟨1, 2, 3, 4, 0x10004, 64, 1⟩], begun := b, snap := { t.snap with depth := d } }

theorem witness_ReturnResult : (called 0 false).goesC 0 ∧ 0 < (called 0 false).cur.depth ∧ (called 0 false).cur.snap.depth ≤ (called 0 false).cur.depth - 1 ∧
    min 3 (called 0 false).cur.depth ≤ (called 0 false).cur.win.length ∧ (called 1 false).cur.depth - 1 < (called 1 false).cur.snap.depth ∧ (∃ u, endTask (called 1 false) = .ok ((), u)) ∧
    (called 1 true).cur.depth - 1 < (called 1 true).cur.snap.depth ∧ base.cur.depth = 0 ∧
    windowPending true (called 0 false).cur = false ∧ windowPending true ((called 0 false).modCur fun t => { t with regPend := [(21, 7)] }).cur = true ∧
    ((called 0 false).modCur fun t => { t with win := [] }).cur.win.length < min 3 (called 0 false).cur.depth :=
  ⟨⟨rfl, rfl⟩, by decide, by decide, by decide, by decide, ⟨_, rfl⟩, by decide, rfl, rfl, rfl, by decide⟩

theorem witness_ReturnPopsWindow : (leaving (called 0 false) .ret).latch.defer = .ret ∧ ∃ w l, (leaving (called 0 false) .ret).cur.win = w :: l := ⟨rfl, _, _, rfl⟩

/-- In the frame area, at its upper end, and below it. -/
theorem witness_FrameResult : base.goesC 0 ∧ (base.pre.regPend.any fun p => p.1 == 37) = false ∧
    ¬ ((base.pre.sp - 8 * (0 : BitVec 18).signExtend 64).toNat < base.bivB base.pre + 64 * base.pre.sc ∨ base.bivFT base.pre < (base.pre.sp - 8 * (0 : BitVec 18).signExtend 64).toNat) ∧
    base.bivFT base.pre < (base.pre.sp - 8 * (0x3FFFF : BitVec 18).signExtend 64).toNat := ⟨⟨rfl, rfl⟩, rfl, by decide, by decide⟩

theorem witness_TrapInstructions : base.goesC 0 := ⟨rfl, rfl⟩

theorem witness_ExceptionEntered : let z : Cause := ⟨1, 7, 0x10000, false, false, 0, 0⟩
    let s := withThread fun t => { t with tvec := 0x100 }
    s.MemOk ∧ s.classAt 1 0 z = 0 ∧ hasPending (s.thread 1 0) = false ∧ badEntry (s.thread 1 0) = none ∧ z.code ≠ 2 ∧ 128 ≤ s.trapWin (s.thread 1 0) ∧ s.foreign (s.thread 1 0) = false ∧
      (let s := far fun t => { t with tvec := 0x100 }; s.classAt 1 0 z = 0 ∧ s.foreign (s.thread 1 0) = true ∧ 128 ≤ s.trapWin (s.thread 1 0)) :=
  ⟨rfl, rfl, rfl, rfl, by decide, by decide, rfl, rfl, rfl, by decide⟩

theorem witness_ExceptionReturn : let s := withThread fun t => { t with intrap := true }
    s.goesC 0 ∧ s.pre.intrap = true ∧ s.pre.depth = s.pre.trapDepth ∧ (s.pre.regPend.any fun p => p.1 == 37 || decide (20 ≤ p.1 ∧ p.1 < 24)) = false ∧ badEntry s.pre = none ∧ base.pre.intrap = false ∧
      (leaving s .rte).latch.defer = .rte ∧ s.foreign s.pre = false ∧
      (let s := far fun t => { t with intrap := true }; s.foreign s.pre = true ∧ s.cur.wait = .none ∧ s.latch.skip = 0 ∧ s.reach s.pre.hdev = true) ∧
      (far fun t => { t with intrap := true, wait := .got [0, 1] }).cur.wait = .got (0 :: [1]) := ⟨⟨rfl, rfl⟩, rfl, rfl, rfl, rfl, rfl, rfl, rfl, ⟨rfl, rfl, rfl, rfl⟩, rfl⟩

/-- A target of 0 has been reached, one of 9 has not; a sleeper whose target has come. -/
theorem witness_SleepResult : regs.goesC 0 ∧ src 36 regs = .ok (0, regs) ∧ src 16 regs = .ok (9, regs) ∧ (∀ g, regs.cur.wait ≠ .sleep g) ∧ (0 : Word).toNat ≤ regs.dev.clock ∧ regs.dev.clock < (9 : Word).toNat ∧
    (let s := withThread fun t => { t with wait := .sleep 0 }; s.cur.wait = .sleep 0 ∧ 0 ≤ s.dev.clock ∧ ∀ p ∈ s.cur.promises, s.dev.clock < p.1) :=
  ⟨⟨rfl, rfl⟩, rfl, rfl, fun g h => (by cases h), by decide, by decide, rfl, by decide, fun p h => (by cases h)⟩

theorem witness_YieldResult : base.goesC 0 := ⟨rfl, rfl⟩

end Sys2Proof.Tests
end

