-- ==== Sys2Proof/Tests/Witness2.lean ====
section
/-! SUPPORT. States and operands that meet the hypotheses of the statements: memory accesses. -/

namespace Sys2Proof.Tests

set_option Elab.async false

open Sys2Proof Sys2Proof.Machine Sys2Proof.Claims

/-- k0 holds a word of the own scratchpad, k1 one of global memory, k2 one of a fixed-line subscriber region, k3 a base-camp word of a grant, k4 a word of a converting window; two vector registers; the text lease of the context at 1 MiB. -/
def memState : State :=
  let s := withThread fun t => { t with k := [(0, 0x0080000000000100), (1, 0x200000), (2, 0x0080000000002000), (3, 0x0083000000000000), (4, 0x0080000000200000)], vcnt := 2 }
  let s := s.modCtx 1 0 fun k => { k with wd := [(1, 0x80000000)] }
  let s := s.modCore 1 fun k => { k with sub := [(0, { v := true, off := 0x2000, len := 1 })] }
  s.modLease 1 fun _ => { used := true, grants := [⟨0, 0x1000, 7, true⟩], text := some ⟨0x100000, 0x10000, 5, true⟩ }

theorem witness_ScalarLoadResult : memState.goesC 0 ∧ src 16 memState = .ok (0x0080000000000100, memState) ∧ ordered memState ∧ allowed memState 0x0080000000000100 8 8 0 ∧ homeHere memState 0x0080000000000100 ∧
    (∃ v, raised memState 0 = some v) ∧ (∃ v r t, raised memState 7 = some v ∧ reserve 18 v.nextOp v = .ok (r, t)) ∧ memState.accessErr 1 memState.pre 0x0080000000000104 (0x0080000000000104 + 7) 8 0 = some 0x13 :=
  ⟨⟨rfl, rfl⟩, rfl, rfl, rfl, fun a h => (by cases h), ⟨_, rfl⟩, ⟨_, _, _, rfl, rfl⟩, rfl⟩

theorem witness_DirectStoreResult : memState.MemOk ∧ memState.goesC 0 ∧ (∃ d r, src 36 memState = .ok (d, r) ∧ src 16 r = .ok (0x0080000000000100, memState)) ∧ ordered memState ∧ allowed memState 0x0080000000000100 4 4 1 ∧
    isOwn 1 0x0080000000000100 = true ∧ (∃ v, raised memState 1 = some v) ∧ writable memState [⟨0x0080000000000100, spKey 1 0x100, toBytes 4 0, [], 0⟩] ∧ atSource memState ⟨0x0080000000000100, spKey 1 0x100, toBytes 4 0, [], 0⟩ = false ∧
    allowed memState 0x0080000000002000 4 4 1 ∧ ¬ writable memState [⟨0x0080000000002000, spKey 1 0x2000, toBytes 4 0, [], 0⟩] ∧ memState.accessErr 1 memState.pre 0x0080000000000102 (0x0080000000000102 + 3) 4 1 = some 0x13 :=
  ⟨rfl, ⟨rfl, rfl⟩, ⟨_, _, rfl, rfl⟩, rfl, rfl, rfl, ⟨_, rfl⟩, (by intro b h; simp only [List.mem_singleton] at h; subst h; decide), rfl, rfl, (fun h => absurd (h _ (List.mem_singleton.mpr rfl)) (by decide)), rfl⟩

theorem witness_BufferedStoreResult : memState.goesC 0 ∧ src 17 memState = .ok (0x200000, memState) ∧ ordered memState ∧ allowed memState 0x200000 8 8 1 ∧ homeHere memState 0x200000 ∧
    (∃ v, raised memState 0 = some v ∧ fits v [⟨0x200000, keyAt 1 0x200000, toBytes 8 0, [], 0⟩]) ∧ isOwn 1 0x200000 = false ∧
    (let s := memState.modCore 1 fun k => { k with src := [(0, { v := true, off := 0x100, len := 1 })] }
     atSource s ⟨0x0080000000000100, spKey 1 0x100, toBytes 8 0, [], 0⟩ = true ∧ s.updateRoom 1 0x100 8 = true) :=
  ⟨⟨rfl, rfl⟩, rfl, rfl, rfl, fun a h => (by cases h; exact ⟨rfl, rfl⟩), ⟨_, rfl, .inr (by decide)⟩, rfl, rfl, rfl⟩

/-- The element indexes of vector register 0 for byte elements: 0 everywhere. -/
def zeroIdx : List Nat := List.replicate 8 0

set_option maxRecDepth 20000 in
theorem witness_VectorLoadResult : memState.goesC 0 ∧ src 16 memState = .ok (0x0080000000000100, memState) ∧ ordered memState ∧ vreg memState 1 1 ∧
    memState.converting 0x0080000000000100 = none ∧ allowed memState 0x0080000000000100 512 8 0 ∧ homeHere memState 0x0080000000000100 ∧
    (∃ v, raised memState 2 = some v) ∧ memState.accessErr 1 memState.pre 0x0080000000000104 (0x0080000000000104 + 511) 8 0 = some 0x13 ∧
    (∃ d w, memState.converting 0x0080000000200000 = some (d, w) ∧ codesOpen memState d ∧
      memState.convErr 1 0 0 d (ownOff 0x0080000000200000) (4096 / (vty d.vtype).width) false false = none) :=
  ⟨⟨rfl, rfl⟩, rfl, rfl, ⟨by decide, rfl, rfl⟩, rfl, rfl, fun a h => (by cases h), ⟨_, rfl⟩, rfl, _, _, rfl, ⟨rfl, by decide⟩, rfl⟩

set_option maxRecDepth 20000 in
/-- An indexed access of bytes, raw, and one of I8 elements through the window. -/
theorem witness_VectorIndexed : (∃ ix, readIdx 2 0 memState = .ok (ix, memState) ∧ indexFits memState 0x0080000000000100 2 false ix ∧
      (placing memState 0x0080000000000100 2).conv = none) ∧
    indexFits memState 0x0080000000200000 0 false zeroIdx ∧ (placing memState 0x0080000000200000 0).conv.isSome = true :=
  ⟨⟨_, rfl, ⟨rfl, fun p h => (by cases h; rfl), rfl, by decide +kernel⟩, rfl⟩, ⟨rfl, fun p h => (by cases h; rfl), ⟨⟨rfl, by decide⟩, rfl, rfl, fun h => (by cases h)⟩, by decide +kernel⟩, rfl⟩

set_option maxRecDepth 20000 in
theorem witness_VectorStoreResult : memState.MemOk ∧ memState.goesC 0 ∧ ordered memState ∧ (∃ x, readV 1 memState = .ok (x, memState)) ∧ (∃ v, raised memState 0 = some v) ∧
    (memState.converting 0x0080000000000100 = none ∧ allowed memState 0x0080000000000100 512 8 1 ∧ isOwn 1 0x0080000000000100 = true ∧
      ∀ b ∈ piecesAt 1 0x0080000000000100 (toBytes 512 0), memState.subHit 1 (b.key % 0x100000) b.bytes.length = false ∧ atSource memState b = false) ∧
    (memState.converting 0x200000 = none ∧ allowed memState 0x200000 512 8 1 ∧ isOwn 1 0x200000 = false ∧ homeHere memState 0x200000 ∧ fits memState (piecesAt 1 0x200000 (toBytes 512 0))) ∧
    memState.accessErr 1 memState.pre 0x200004 (0x200004 + 511) 8 1 = some 0x13 :=
  ⟨rfl, ⟨rfl, rfl⟩, rfl, ⟨_, rfl⟩, ⟨_, rfl⟩, ⟨rfl, rfl, rfl, by decide +kernel⟩, ⟨rfl, rfl, rfl, fun a h => (by cases h; exact ⟨rfl, rfl⟩), .inr (by decide +kernel)⟩, rfl⟩

/-- An atomic of thread scope on the own scratchpad, and one of device scope on base camp. -/
theorem witness_AtomicResult : memState.goesC 0 ∧ srcShort 16 memState = .ok (0x0080000000000100, memState) ∧ srcShort 19 memState = .ok (0x0083000000000000, memState) ∧ (∃ b, srcShort 24 memState = .ok (b, memState)) ∧
    atScope memState 0 ∧ atScope memState 5 ∧ allowed memState 0x0080000000000100 8 8 2 ∧ allowed memState 0x0083000000000000 4 4 2 ∧ isHostKey 0x0083000000000000 = false ∧
    memState.subHit 1 (ownOff 0x0080000000000100) 8 = false ∧ memState.cur.mem.isSome = false ∧ homeHere memState 0x0083000000000000 ∧ headed memState = some memState ∧ ∃ r t, reserve 0 memState.nextOp memState = .ok (r, t) :=
  ⟨⟨rfl, rfl⟩, rfl, rfl, ⟨_, rfl⟩, rfl, ⟨fun h => (by cases h), rfl, rfl, fun h => (by rcases h with h | h <;> cases h)⟩, rfl, rfl, rfl, rfl, rfl, fun a h => (by cases h), rfl, _, _, rfl⟩

theorem witness_AtomicValues : (18 : Nat) ≤ 18 ∧ 18 ∉ [2, 7, 12] ∧ 0 ∉ [2, 7, 12] := by decide

theorem witness_FenceResult : memState.goesC 0 ∧ hasPending memState.pre = false ∧ performed memState ∧ memState.pre.sb.any (fun p => p.2 != 0) = false ∧ remoteSends memState 11 = false ∧ memState.cur.hostDirty = [] ∧ memState.closeRoom 1 = true ∧
    memState.dropsL1 1 0 11 0 = true ∧ memState.dropsL1 1 0 0 0 = false ∧ (memState.modCtx 1 0 fun k => { k with bg := [(1, 0xFFFFFFFF)] }).bgOn 1 = true ∧ (∀ i < 8, (0xFE : BitVec 8).getLsbD i = true → Table.get 0 i memState.pre.sb = 0) ∧
    ∀ sb z, REnt.bad sb z ∈ memState.pre.t → sb = 0 ∨ (0xFE : BitVec 8).getLsbD sb = false :=
  ⟨⟨rfl, rfl⟩, rfl, rfl, rfl, rfl, rfl, rfl, rfl, rfl, rfl, by decide, fun sb z h => (by cases h)⟩

theorem witness_PrefetchTouchResult : memState.goesC 0 ∧ src 17 memState = .ok (0x200000, memState) ∧ memState.cur.wait = .none ∧ ((0x200000 : Word) + BitVec.ofNat 64 (63 * 64)).toNat < 0x0080000000000000 ∧
    (memState.modCur fun t => { t with wait := .done 0 }).cur.wait = .done 0 ∧ src 16 memState = .ok (0x0080000000000100, memState) ∧ 0x0080000000000000 ≤ ((0x0080000000000100 : Word) + BitVec.ofNat 64 0).toNat :=
  ⟨⟨rfl, rfl⟩, rfl, rfl, by decide, rfl, rfl, by decide⟩

theorem witness_FullEmptyResult : memState.goesC 0 ∧ src 19 memState = .ok (0x0083000000000000, memState) ∧ (∃ d, src 36 memState = .ok (d, memState)) ∧ performed memState ∧ allowed memState 0x0083000000000000 8 8 2 ∧
    spaceOf 0x0083000000000000 = some (.camp 0) ∧ memState.cur.mem = none ∧ headed memState = some memState ∧ ∃ w r t, raised memState 3 = some w ∧ reserve 18 w.nextOp w = .ok (r, t) :=
  ⟨⟨rfl, rfl⟩, rfl, ⟨_, rfl⟩, rfl, rfl, rfl, rfl, rfl, _, _, _, rfl, rfl⟩

/-- A hole, an odd address, the last bytes of global memory, the text lease, and the edges of the own scratchpad and of base camp. -/
theorem witness_AccessChecks : spaceOf 0x0080000002000000 = none ∧ 1 + 2 ≤ 0x0080000000000000 ∧ 1 % 2 ≠ 0 ∧ 0x007FFFFFFFFFFFFC < 0x0080000000000000 ∧ 0x0080000000000000 < 0x007FFFFFFFFFFFFC + 8 ∧
    ((memState.lease (memState.ctx 1 (memState.thread 1 0).x).l).text.any fun r => overlap 0x100000 8 r.lo r.len) = true ∧ 0xFFFF8 + 8 ≤ 0x100000 ∧ 0xFFFF8 % 8 = 0 ∧ 8 ∣ 8 ∧ 0x3FFFFFC + 4 ≤ 0x4000000 ∧ 4 ∣ 8 := by decide

end Sys2Proof.Tests
end

