-- ==== Sys2Proof/Tests/Witness3.lean ====
section
/-! SUPPORT. States and operands that meet the hypotheses of the statements: tasks, threads, semaphores, barriers, ropes, fixed lines, messages. -/

namespace Sys2Proof.Tests

set_option Elab.async false

open Sys2Proof Sys2Proof.Machine Sys2Proof.Claims

/-- A timed task at timestamp 4, in a domain whose frontier stands at 6. -/
def timed : State := { (regs.modCur fun t => { t with timed := true, tstamp := 4, inst := some ⟨0, clusterOf 1, 0⟩ }) with frontier := [(clusterOf 1, 6)] }

theorem witness_TaskInstructions : regs.goesC 0 ∧ (∃ w, ends regs = some w) ∧ (src 16 regs = .ok (9, regs) ∧ ends regs = some (regs.commit 1 0) ∧ (regs.commit 1 0).curCtx.drain = false ∧ (regs.commit 1 0).behind (domain regs 0 1) (regs.commit 1 0).cur 9 = false) ∧
    (let s := { regs with frontier := [(clusterOf 1, 6)] }; src 17 s = .ok (5, s) ∧ ends s = some (s.commit 1 0) ∧ (s.commit 1 0).behind (domain s 0 1) (s.commit 1 0).cur 5 = true ∧ s.latch.mode = .lone) ∧ regs.cur.timed = false ∧ timed.isHead timed.cur = true ∧
    (src 16 timed = .ok (9, timed) ∧ timed.cur.inst = some ⟨0, clusterOf 1, 0⟩ ∧ timed.cur.serial = false ∧ timed.behind ⟨0, clusterOf 1, 0⟩ timed.cur 9 = false ∧ timed.behind ⟨0, clusterOf 1, 0⟩ timed.cur 5 = true ∧ (0 : Nat) = timed.dev.devno) ∧
    (timed.modCur fun t => { t with serial := true }).cur.serial = true ∧ timed.serialWait 1 0 = none ∧
    (let s := timed.modCur fun t => { t with inst := some ⟨0, clusterOf 1, 9⟩ }; s.cur.timed = true ∧ s.cur.serial = false ∧ (9 : Nat) ≠ s.dev.devno ∧ s.cur.wait = .none) ∧
    (let s := (regs.modCtx 1 0 fun k => { k with drain := true }); (∃ w, ends s = some w ∧ w.curCtx.drain = true) ∧ s.latch.skip = 0) :=
  ⟨⟨rfl, rfl⟩, ⟨_, rfl⟩, ⟨rfl, rfl, by decide +kernel, by decide +kernel⟩, ⟨rfl, rfl, by decide +kernel, rfl⟩, rfl, rfl, ⟨rfl, rfl, rfl, rfl, rfl, rfl⟩, rfl, rfl, ⟨rfl, rfl, by decide, rfl⟩, ⟨_, rfl, by decide +kernel⟩, rfl⟩

theorem witness_TaskOpens : (leaving base (.open_ true none)).latch.defer = .open_ true none ∧ (leaving base (.open_ false (some (2, 9)))).latch.defer = .open_ false (some (2, 9)) ∧
    base.curCtx.drain = false ∧ (base.modCtx 1 0 fun k => { k with drain := true }).curCtx.drain = true := ⟨rfl, rfl, rfl, rfl⟩

/-- One buffered store to base camp. -/
def buffered : State := base.modCur fun t => { t with buf := [⟨0x0083000000000000, campKey 0, [1, 2], [], 0⟩] }

theorem witness_TaskCommits : (buffered.thread 1 0).timed = false ∧ (timed.thread 1 0).timed = true ∧ (timed.thread 1 0).inst = some ⟨0, clusterOf 1, 0⟩ ∧ (0 : Nat) = timed.dev.devno ∧ buffered.MemOk ∧
    (∃ b, (buffered.thread 1 0).buf = [b] ∧ b.mask = [] ∧ b.key < 0x0084000000000000) ∧ buffered.sched.migs = [] := ⟨rfl, rfl, rfl, rfl, rfl, ⟨_, rfl, rfl, by decide⟩, rfl⟩

/-- Nothing of the thread is at large; one load is. -/
theorem witness_TaskAborts : (buffered.thread 1 0).arriving = false ∧ (buffered.thread 1 0).killing = false ∧ buffered.foreign (buffered.thread 1 0) = false ∧ (buffered.abortTask 1 0).mayRestart 1 0 = true ∧
    ((buffered.withOp { id := 5, kind := .load, dest := .named 16, core := 1, slot := 0, thid := 256, tseq := 0, pc := 0 }).abortTask 1 0).mayRestart 1 0 = false ∧
    (far id).foreign ((far id).thread 1 0) = true := ⟨rfl, rfl, rfl, rfl, by decide, rfl⟩

/-- A state with a request in k0: pc, descriptor and the values; XDEV as given. -/
def asking (x : Bool) : State := base.modCur fun t => { t with k := [(0, 0x20000), (1, 1)], xdev := x }

theorem witness_SpawnResult : (asking true).goesC 0 ∧ (∃ r, spawnReq ⟨18, 16, 36, 17⟩ (asking true) = .ok (r, asking true) ∧ (∃ w n, (asking true).trySpawn 1 { r with op := (asking true).nextOp } = (w, .placed n)) ∧
      (asking true).cur.xdev = true ∧ (asking true).cur.mem = none ∧ headed (asking true) = some (asking true)) ∧ (∃ d t, reserve 18 (asking true).nextOp (asking true) = .ok (d, t)) ∧
    (∃ r w, spawnReq ⟨18, 16, 36, 17⟩ (asking false) = .ok (r, asking false) ∧ (let s := (asking false).modHctx 0 fun h => { h with barred := true }; s.trySpawn 1 r = (w, .refused 2))) ∧
    (∃ r, spawnReq ⟨18, 16, 36, 16⟩ (asking false) = .ok (r, asking false) ∧ (asking false).cur.xdev = false) ∧ inRect (asking false).curCtx 511 = false :=
  ⟨⟨rfl, rfl⟩, ⟨_, rfl, ⟨_, _, rfl⟩, rfl, rfl, rfl⟩, ⟨_, _, rfl⟩, ⟨_, _, rfl, rfl⟩, ⟨_, rfl, rfl⟩, rfl⟩

theorem witness_ThreadPlaced : (255 : Nat) < 256 ∧ (511 : Nat) < 512 := by decide

theorem witness_ThreadInstructions : regs.goesC 0 ∧ (src 16 regs = .ok (9, regs) ∧ (9 : Word).toNat < 2 ^ 32 ∧ (9 : Word).toNat ≠ thidOf regs.cur ∧ (9 : Word).toNat / 2 ^ 17 = regs.dev.devno ∧ regs.cur.wait = .none ∧
      (regs.allThreads ++ regs.sched.abroad.map Prod.snd ++ regs.savedThreads).find? (fun t => thidOf t == 9) = none) ∧
    (let s := regs.setThread 2 0 { st := .ready, uid := 4, hcore := 0, hslot := 9 }; ∃ t, (s.allThreads ++ s.sched.abroad.map Prod.snd ++ s.savedThreads).find? (fun t => thidOf t == 9) = some t) ∧
    (regs.modCur fun t => { t with wait := .join 9 4 }).lives 9 4 = false ∧ (∃ w, regs.cur.arriving = false ∧ ends regs = some w) ∧ (5 : Word).toNat < 8 ∧ (regs.cur.bpri = 7 ↔ (5 : Word).toNat = 7) ∧
    ¬ (regs.cur.bpri = 7 ↔ (7 : Word).toNat = 7) ∧ 8 ≤ (9 : Word).toNat ∧ regs.migrTarget 0x0080000000000100 = .ok none ∧ regs.migrTarget 0x0081000000200000 = .ok (some (0, 2)) ∧ regs.settled 1 0 = true ∧ regs.cur.arr = none ∧
    regs.migratable 1 0 = true ∧ inRect regs.curCtx 2 = true ∧ (∃ k, regs.migrTarget 0x0080000002000000 = .error k) ∧ regs.cur.kill = none ∧ (regs.modCur fun t => { t with kill := some ⟨0, false⟩ }).cur.kill = some ⟨0, false⟩ :=
  ⟨⟨rfl, rfl⟩, ⟨rfl, by decide, by decide, by decide, rfl, rfl⟩, ⟨_, rfl⟩, rfl, ⟨_, rfl, rfl⟩, by decide, by decide, by decide, by decide, rfl, rfl, rfl, rfl, rfl, rfl, ⟨_, rfl⟩, rfl, rfl⟩

/-- Semaphore 3 holds 7, and thread semaphore 3 too. -/
def sems : State := (regs.modCur fun t => { t with ts := [(3, 7)] }).modCtx 1 0 fun k => { k with sm := [(3, 7)] }

theorem witness_SemaphoreResult : sems.goesC 0 ∧ src 16 sems = .ok (9, sems) ∧ src 17 sems = .ok (5, sems) ∧ semOk sems 0 63 ∧ semOk sems 1 3 ∧ performed sems ∧ (∀ i, ¬ served sems i) ∧ (5 : Word).toNat ≤ sems.sem 0 3 ∧ sems.sem 1 3 < (9 : Word).toNat ∧
    served (sems.modCur fun t => { t with wait := .granted 3 }) 3 ∧ (∃ s : State, src 16 s = .ok (65536, s) ∧ semOk s 0 0) ∧ (∃ t, dest 18 7 sems = .ok ((), t)) ∧
    (∀ i < 64, (9 : Word).getLsbD i = true → shareOk (sems.core sems.latch.core).share sems.cur.x i 56 = true) ∧ (9 : Word).getLsbD 3 = true ∧ 0 < sems.sem 0 3 ∧ (∀ j < 3, (9 : Word).getLsbD j = true → sems.sem 0 j = 0) ∧
    (∀ i < 64, (5 : Word).getLsbD i = true → sems.sem 0 i = 0) :=
  ⟨⟨rfl, rfl⟩, rfl, rfl, rfl, (by decide : (3 : Nat) < 4), rfl, fun i h => (by cases h), by decide, by decide, rfl, ⟨base.modCur fun t => { t with k := [(0, 65536)] }, rfl, rfl⟩, ⟨_, rfl⟩, by decide, rfl, by decide, by decide, by decide⟩

/-- A context with barrier register 1 enabled. -/
def bars (f : Thread → Thread) : State := (base.modCur f).modCtx 1 0 fun k => { k with bg := [(1, 0x80000000)] }

theorem witness_BarrierResult : (bars id).goesC 0 ∧ (bars id).bgOn 0 = false ∧ (bars id).bgOn 1 = true ∧ (bars id).cur.wait = .none ∧ (bars id).cur.arr = none ∧ (bars id).curCtx.replayable = false ∧
    (let s := bars fun t => { t with wait := .barrier }; s.bgOn 1 = true ∧ s.cur.wait = .barrier ∧ s.cur.arr = none) ∧
    (∃ t, dest 18 (BitVec.ofNat 64 ((bars id).arrival 1).gen) ((bars id).modCur fun t => { t with arr := some ((bars id).arrival 1) }) = .ok ((), t)) ∧ ((bars id).arrival 1).bg = 1 ∧
    (let s := bars fun t => { t with wait := .barq 1 }; s.bgOn 1 = true ∧ s.cur.wait = .barq 1 ∧ ∃ t, dest 18 1 (calm s) = .ok ((), t)) ∧
    (let s := bars fun t => { t with arr := some ((bars id).arrival 1) }; s.cur.arr = some ((bars id).arrival 1) ∧ ((bars id).arrival 1).bg ≠ 0) :=
  ⟨⟨rfl, rfl⟩, rfl, rfl, rfl, rfl, rfl, ⟨rfl, rfl, rfl⟩, ⟨_, rfl⟩, rfl, ⟨rfl, rfl, _, rfl⟩, rfl, by decide⟩

/-- k0 names rope 5, k1 an arm block with N = Q = 1 and one line at offset 0, with weight table `tb`, k2 a block of zeros, k3 member 0 of rope 5; the thread as changed, rope 5 as given. -/
def roping (f : Thread → Thread) (r : Rope) (tb : Nat) : State :=
  let s := ((memState.modCur fun t => { t with k := [(0, 5), (1, 0x0080000000000100), (2, 0x0080000000000140), (3, 5)] }).modCur f).modRope 5 fun _ => r
  (s.put (spKey 1 0x100) (toBytes 8 0x10001 ++ toBytes 8 0x100000000 ++ toBytes 8 0 ++ toBytes 8 tb)).put (spKey 1 0x200) (toBytes 4 1)

/-- A block without a table, one whose table has one weight of 1, one that is none, and a rope that is armed already. -/
theorem witness_RopeArmResult : (let s := roping id {} 0xFFFFFFFF
      s.goesC 0 ∧ src 16 s = .ok (5, s) ∧ src 17 s = .ok (0x0080000000000100, s) ∧ ropeOf 5 false s = .ok ((5, 0, 0), s) ∧ s.accessErr 1 s.pre 0x0080000000000100 (0x0080000000000100 + 63) 64 0 = none ∧ isOwn 1 0x0080000000000100 = true ∧
        ∃ m, armBlock (s.bytes (spKey 1 (ownOff 0x0080000000000100)) 64) = some m ∧ m.table = 0xFFFFFFFF ∧ s.armErr 1 5 m [] = none) ∧
    (let s := roping id {} 0x200
      ∃ m, armBlock (s.bytes (spKey 1 (ownOff 0x0080000000000100)) 64) = some m ∧ m.table + 4 * m.n ≤ 0x100000 ∧ s.accessErr 1 s.pre (spKey 1 m.table) (spKey 1 m.table + 4 * m.n - 1) 1 0 = none ∧ s.armErr 1 5 m [1] = none ∧
        s.word (spKey 1 0x200) 4 = 1) ∧
    (let s := roping id {} 0xFFFFFFFF; src 18 s = .ok (0x0080000000000140, s) ∧ armBlock (s.bytes (spKey 1 (ownOff 0x0080000000000140)) 64) = none) ∧
    (let s := roping id { st := 2, owner := 1 } 0xFFFFFFFF; ∃ m, armBlock (s.bytes (spKey 1 (ownOff 0x0080000000000100)) 64) = some m ∧ s.armErr 1 5 m [] = some 0x12) := by
  refine ⟨⟨⟨rfl, rfl⟩, rfl, rfl, rfl, rfl, rfl, ?_⟩, ?_, ⟨rfl, by decide +kernel⟩, ?_⟩
  · exact ⟨⟨1, 1, 0, 0, false, 1, 0, 0, 0xFFFFFFFF, false⟩, by decide +kernel⟩
  · exact ⟨⟨1, 1, 0, 0, false, 1, 0, 0, 0x200, false⟩, by decide +kernel⟩
  · exact ⟨⟨1, 1, 0, 0, false, 1, 0, 0, 0xFFFFFFFF, false⟩, by decide +kernel⟩

theorem witness_RopeArmed : (roping id {} 0).MemOk ∧ ((roping id {} 0).rope 5).st = 0 := by refine ⟨?_, rfl⟩; unfold State.MemOk; decide +kernel

theorem witness_RopeJoinResult : (let s := roping id { st := 1, n := 1, owner := 1 } 0
      s.goesC 0 ∧ src 36 s = .ok (0, s) ∧ src 19 s = .ok (5, s) ∧ ropeOf 5 true s = .ok ((5, 0, 0), s) ∧ s.cur.mem = none ∧ (0 : Word).toNat ≤ 65535 ∧ 0 < (s.rope 5).n ∧ (Table.get {} 0 (s.rope 5).mem).j = false ∧
        (s.rope 5).st ≠ 0 ∧ (s.rope 5).st ≠ 3) ∧ (let s := roping id {} 0; ropeOf 5 true s = .ok ((5, 0, 0), s) ∧ ¬ (s.rope 5).st ≠ 0) :=
  ⟨⟨⟨rfl, rfl⟩, rfl, rfl, rfl, rfl, by decide, by decide, rfl, by decide, by decide⟩, rfl, by decide⟩

/-- A joined member whose rope is gathering, or in state `st`; its region is the line at k1. -/
def member (st : Nat) (cnt : Bool) : State := roping (fun t => { t with mem := some ⟨5, 0, 0, 0⟩ }) { st := st, n := 1, q := 1, len := 1, owner := 1, mem := [(0, { j := true, cnt := cnt, weight := 1, thid := 256 })] } 0

theorem witness_RopeArriveResult : (member 1 false).goesC 0 ∧ src 17 (member 1 false) = .ok (0x0080000000000100, member 1 false) ∧ (roping id {} 0).cur.mem = none ∧ (member 1 false).cur.mem = some ⟨5, 0, 0, 0⟩ ∧ (member 1 false).cur.kill = none ∧
    (member 1 false).curCtx.replays = 0 ∧ (member 1 false).cur.arriving = false ∧ (Table.get {} 0 ((member 1 false).rope 5).mem).cnt = false ∧ (Table.get {} 0 ((member 1 false).rope 5).mem).j = true ∧
    (Table.get {} 0 ((member 1 true).rope 5).mem).cnt = true ∧ (member 1 false).accessErr 1 (member 1 false).pre 0x0080000000000100 (0x0080000000000100 + 64 - 1) 64 0 = none ∧ isOwn 1 0x0080000000000100 = true ∧
    headed (member 1 false) = some (member 1 false) ∧ ((member 1 false).rope 5).st < 3 ∧ 3 ≤ ((member 3 false).rope 5).st ∧ ((member 1 false).core 1).locks.length < 64 ∧
    (∃ t g, reserve 0 (member 1 false).nextOp (member 1 false) = .ok (g, t)) ∧ ∃ t, dest 18 1 ((member 3 false).modRope 5 fun r => { r with late := min 255 (r.late + 1) }) = .ok ((), t) :=
  ⟨⟨rfl, rfl⟩, rfl, rfl, rfl, rfl, rfl, rfl, rfl, rfl, rfl, rfl, rfl, rfl, by decide, by decide, by decide, ⟨_, _, rfl⟩, _, rfl⟩

/-- A member whose rope lies on device 9, which a route reaches where `r` holds; it waits as given. -/
def ropeAway (r : Bool) (w : Wait) : State :=
  (withThread fun t => { t with k := [(0, 9 * 2 ^ 32 + 5)], wait := w, xdev := true }).modDev fun d => { d with active := false, routes := if r then [(9, 0x8001)] else [] }

theorem witness_RopeElsewhere : (let s := ropeAway true .none
      s.goesC 0 ∧ src 16 s = .ok (9 * 2 ^ 32 + 5, s) ∧ src 36 s = .ok (0, s) ∧ ropeOf (9 * 2 ^ 32 + 5) false s = .ok ((5, 0, 9), s) ∧ ropeOf (9 * 2 ^ 32 + 5) true s = .ok ((5, 0, 9), s) ∧ 9 ≠ s.dev.devno ∧
        s.cur.mem = none ∧ (0 : Word).toNat ≤ 65535 ∧ s.cur.wait = .none ∧ s.reach 9 = true ∧ s.latch.skip = 0) ∧
    (let s := ropeAway true (.got (0 :: [1, 2, 3])); s.cur.wait = .got (0 :: [1, 2, 3]) ∧ ∃ p q t, push 1 (calm s) = .ok ((), p) ∧ push 2 p = .ok ((), q) ∧ push 3 q = .ok ((), t)) ∧
    (ropeAway true (.got (0x12 :: []))).cur.wait = .got (0x12 :: []) ∧ (0x12 : Word) ≠ 0 ∧ (ropeAway false .none).reach 9 = false :=
  ⟨⟨⟨rfl, rfl⟩, rfl, rfl, rfl, rfl, by decide, rfl, by decide, rfl, by decide, rfl⟩, ⟨rfl, _, _, _, rfl, rfl, rfl⟩, rfl, by decide, by decide⟩

theorem witness_RopeWaitResult : (member 4 true).goesC 0 ∧ src 16 (member 4 true) = .ok (5, member 4 true) ∧ ropeOf 5 false (member 4 true) = .ok ((5, 0, 0), member 4 true) ∧ (member 4 true).cur.wait = .none ∧ ((member 4 true).rope 5).st = 4 ∧
    ropeOf 5 false (member 2 true) = .ok ((5, 0, 0), member 2 true) ∧ ((member 2 true).rope 5).st ≠ 4 ∧ ((member 2 true).rope 5).st ≠ 0 ∧ ((member 4 true).modCur fun t => { t with wait := .done 0 }).cur.wait = .done 0 ∧
    (∃ p q t, push 1 (member 4 true) = .ok ((), p) ∧ push 2 p = .ok ((), q) ∧ push 3 q = .ok ((), t)) ∧ (member 4 true).cur.mem.isSome = true ∧ (member 4 true).cur.arriving = false ∧
    ((member 2 false).modCur fun t => { t with arriving := true }).cur.arriving = true ∧ base.goesC 0 ∧ base.cur.mem = none :=
  ⟨⟨rfl, rfl⟩, rfl, rfl, rfl, rfl, rfl, by decide, by decide, rfl, ⟨_, _, _, rfl, rfl, rfl⟩, rfl, rfl, rfl, ⟨rfl, rfl⟩, rfl⟩

/-- k0 asks for one line at offset 0x400 in mode EACH, k1 names the line at offset 0x800 of core 2, k2 one of core 511; tables as given. -/
def lines (sub src2 : Table FLine) : State :=
  let s := (memState.modCur fun t => { t with k := [(0, 0x1000400), (1, 0x200000800), (2, 0x1FF00000800)] }).modCore 1 fun k => { k with sub := sub }
  s.modCore 2 fun k => { k with src := src2 }

/-- 64 entries in use, none of them near the region asked for. -/
def full : Table FLine := (List.range 64).map fun i => (i, { v := true, off := 0x8000 + 64 * i, len := 1 })

set_option maxRecDepth 20000 in
theorem witness_FixedLineSubscribe : (lines [] []).goesC 0 ∧ src 16 (lines [] []) = .ok (0x1000400, lines [] []) ∧ src 17 (lines [] []) = .ok (0x200000800, lines [] []) ∧
    ((lines [] []).core 1).sub.any (fun q => q.2.v && overlap 0x400 64 q.2.off (64 * q.2.len)) = false ∧ (0x1000400 : Word).toNat = 0x400 + 1 * 2 ^ 24 + 0 * 2 ^ 40 ∧ 0x400 % 64 = 0 ∧ (0x200000800 : Word).toNat = 0x800 + 2 * 2 ^ 32 ∧
    inRect (lines [] []).curCtx 2 = true ∧ inRect (lines [] []).curCtx 511 = false ∧ (lines [] []).spShare 1 0 0x400 64 = true ∧ (lines [] []).spShare 2 0 0x800 64 = true ∧ freeEntry ((lines [] []).core 1).sub = some 0 ∧
    freeEntry ((lines [] []).core 2).src = some 0 ∧ freeEntry ((lines full []).core 1).sub = none ∧ ((lines full []).core 1).sub.any (fun q => q.2.v && overlap 0x400 64 q.2.off (64 * q.2.len)) = false ∧
    freeEntry ((lines [] full).core 2).src = none ∧ (∃ t, dest 36 0x8000000000000001 (lines full []) = .ok ((), t)) ∧ ∃ t, dest 36 0 ((lines [] []).subscribe 1 2 0 0 0 0x400 0x800 1 0 false) = .ok ((), t) :=
  ⟨⟨rfl, rfl⟩, rfl, rfl, rfl, by decide, by decide, by decide, rfl, rfl, rfl, rfl, rfl, rfl, by decide +kernel, by decide +kernel, by decide +kernel, ⟨_, destNum_discard⟩, _, destNum_discard⟩

/-- Entry 0 in use by the context: its line stands at sequence 4, its source's at `q`. -/
def subscribed (q : Nat) : State :=
  let s := (base.modCur fun t => { t with k := [(0, 64)] }).modCore 1 fun k => { k with sub := [(0, { v := true, peer := 2, len := 1, seq := 4 })] }
  s.modCore 2 fun k => { k with src := [(0, { v := true, peer := 1, len := 1, seq := q })] }

set_option maxRecDepth 20000 in
theorem witness_FixedLineUse : (subscribed 4).goesC 0 ∧ src 36 (subscribed 4) = .ok (0, subscribed 4) ∧ src 16 (subscribed 4) = .ok (64, subscribed 4) ∧ 64 ≤ (64 : Word).toNat ∧
    (let f := Table.get {} 0 ((subscribed 4).core 1).sub
     f.v = true ∧ f.x = (subscribed 4).cur.x ∧ f.lapsed = false ∧ (∃ t, dest 36 (lineStatus f) (subscribed 4) = .ok ((), t)) ∧ (subscribed 4).cur.wait = .none ∧
       reached f.seq (Table.get {} f.pidx ((subscribed 4).core f.peer).src).seq = true ∧ ((subscribed 4).core f.peer).batch = [] ∧ reached f.seq 4 = true ∧ reached f.seq 5 = false) ∧
    ((subscribed 4).modCur fun t => { t with wait := .line 0 4 }).cur.wait = .line 0 4 := by
  refine ⟨⟨rfl, rfl⟩, rfl, rfl, by decide, ⟨by decide +kernel, by decide +kernel, by decide +kernel, ⟨_, destNum_discard⟩, by decide +kernel, by decide +kernel, by decide +kernel, by decide +kernel, by decide +kernel⟩, by decide +kernel⟩

/-- k0 names the thread of slot 3 of core 1, k1 one of device 9; XDEV as given. -/
def posting (x : Bool) : State := base.modCur fun t => { t with k := [(0, 259), (1, 9 * 2 ^ 17 + 259)], xdev := x }

theorem witness_SendResult : (posting false).goesC 0 ∧ src 16 (posting false) = .ok (259, posting false) ∧ (259 : Word).toNat / 2 ^ 17 % 2 ^ 15 = (posting false).dev.devno ∧ (posting false).cur.mem = none ∧ performed (posting false) ∧
    headed (posting false) = some (posting false) ∧ (∃ t r, reserve 18 (posting false).nextOp (posting false) = .ok (r, t)) ∧ (9 * 2 ^ 17 + 259 : Word).toNat / 2 ^ 17 % 2 ^ 15 ≠ (posting false).dev.devno ∧ (posting false).cur.xdev = false ∧
    (posting true).cur.xdev = true ∧ remoteSends (posting true) 10 = false ∧ (member 1 false).cur.mem.isSome = true :=
  ⟨⟨rfl, rfl⟩, rfl, rfl, rfl, rfl, rfl, ⟨_, _, rfl⟩, by decide, rfl, rfl, rfl, rfl⟩

/-- k0 names region 1 of this device, k1 one of device 9; leases over both; XDEV as given; a route to device 9 where `r` holds. -/
def tokens (x r : Bool) : State :=
  let s := (base.modCur fun t => { t with k := [(0, 0x200000), (1, 9 * 2 ^ 40 + 0x200000)], xdev := x }).modLease 1 fun _ => { used := true, leases := [⟨0, 0x400000, 7, true⟩, ⟨9 * 2 ^ 40, 0x400000, 7, true⟩] }
  s.modDev fun d => { d with active := false, routes := if r then [(9, 0x8001)] else [] }

theorem witness_TokenResult : (tokens true true).goesC 0 ∧ src 16 (tokens true true) = .ok (0x200000, tokens true true) ∧ (tokens false true).cur.xdev = false ∧ (tokens true true).cur.xdev = true ∧ (0x200000 : Word).toNat < 2 ^ 55 ∧
    coveredBy (allLeases ((tokens true true).lease 1)) 0x200000 0x200000 0 = true ∧ (tokens true true).cur.mem = none ∧ (tokens true true).cur.timed = false ∧ (tokens true true).held 0x200000 = true ∧
    (tokens true true).regionBusy 0x200000 = false ∧ src 17 (tokens true true) = .ok (9 * 2 ^ 40 + 0x200000, tokens true true) ∧ coveredBy (allLeases ((tokens true true).lease 1)) (9 * 2 ^ 40 + 0x200000) 0x200000 0 = true ∧
    (tokens true true).held (9 * 2 ^ 40 + 0x200000) = false ∧ (tokens true true).cur.wait = .none ∧ (tokens true true).reach 9 = true ∧ (tokens true true).holder (9 * 2 ^ 40 + 0x200000) = 9 ∧
    ((tokens true true).tokenWay ((9 * 2 ^ 40 + 0x200000) / 0x200000)).isSome = true ∧ (tokens true false).reach 9 = false ∧ (tokens true true).opsOf 1 0 = [] ∧ (tokens true true).cur.buf = [] ∧
    (let s := (tokens true true).modCur fun t => { t with buf := [⟨0x200000, 0x200000, [1], [], 0⟩] }; (∃ b ∈ s.cur.buf, overlap (1 * 0x200000) 0x200000 b.va.toNat b.bytes.length = true) ∧ s.serialWait 1 0 = none) ∧
    ((tokens true true).modSched fun q => { q with migs := [] }).sched.migs = [] := by
  refine ⟨⟨rfl, rfl⟩, rfl, rfl, rfl, by decide, by decide +kernel, rfl, rfl, by decide, by decide, rfl, by decide +kernel, by decide, rfl, by decide, by decide, by decide, by decide, rfl, rfl, ⟨⟨_, List.mem_singleton.mpr rfl, by decide⟩, rfl⟩, rfl⟩

end Sys2Proof.Tests
end

