-- ==== Sys2Proof/Tests/Witness4.lean ====
section
/-! SUPPORT. States and operands that meet the hypotheses of the statements: engine commands, control registers, firmware instructions. -/

namespace Sys2Proof.Tests

set_option Elab.async false

open Sys2Proof Sys2Proof.Machine Sys2Proof.Claims

def noTail : Tail := ⟨0, 0, 0⟩

/-- A thread with the matrix unit: k0 a place of the own scratchpad, k1 a shape of 2 rows of 32 bytes of BF16 at a stride of 32, k2 that stride alone, k3 tiles 1 and 3, k4 global memory, k5 a stream of tile 1
with 64 columns of 64 bytes, k6 an epilogue of one element; tiles 1 (2 rows) and 3 (16 rows) hold BF16. -/
def engine : State :=
  let s := base.modCur fun t => { t with
    mx := true
    k := [(0, 0x0080000000000400), (1, 0x2001000102), (2, 0x2000000000), (3, 0x31), (4, 0x200000), (5, 0x1008011), (6, 0x200000000000)] }
  s.modCore 1 fun k => { k with tiles := [(1, { fmt := 1, rowb := 1, nrows := 2 }), (3, { fmt := 1, rowb := 1, nrows := 16 })] }

theorem witness_EngineIssue : mayIssue base 1 0 ∧ mayIssue base 0 64 ∧ base.latch.skip = 0 ∧
    ¬ mayIssue (base.modCore 1 fun k => { k with locks := List.replicate 64 ⟨0, false, 0, 0, 0, 0, 0⟩ }) 0 1 := by
  refine ⟨⟨by decide, by decide⟩, ⟨by decide, by decide⟩, rfl, fun h => absurd h.1 (by decide)⟩

set_option maxRecDepth 20000 in
theorem witness_TileCommands : engine.goesC 0 ∧ src 16 engine = .ok (0x0080000000000400, engine) ∧ src 17 engine = .ok (0x2001000102, engine) ∧ mayTile engine 0 ∧ mayTile engine 1 ∧ mayAcc engine 0 ∧
    (0x2001000102 : Word).toNat = 2 + 1 * 2 ^ 8 + 1 * 2 ^ 24 + 32 * 2 ^ 32 ∧ engine.ownPlace 0x0080000000000400 = ⟨0x400, none, none⟩ ∧ badShape 2 1 1 128 = false ∧ known engine 1 ∧ fmtScaled 1 = false ∧ tileFree engine 0 ∧ tileFree engine 2 ∧
    transferFits engine (viewOf none 1) 0x200 32 16 2 ∧ mayIssue engine 0 (wantOf false (transferRows (viewOf none 1) 0x400 32 16 2).flatten).length ∧ mayIssue engine 1 0 ∧
    src 18 engine = .ok (0x2000000000, engine) ∧ (0x2000000000 : Word).toNat = 32 * 2 ^ 32 ∧ (engine.core 1).tileReady 1 = true ∧ tileK ((engine.core 1).tile 1) = 16 ∧
    outsideLines engine (transferRows (viewOf none 1) 0x400 32 16 2).flatten ∧ engine.cur.mx = true := by
  refine ⟨⟨rfl, rfl⟩, rfl, rfl, rfl, rfl, rfl, by decide, rfl, by decide, rfl, rfl, rfl, rfl, ?_, ⟨by decide +kernel, by decide⟩, ⟨by decide, by decide⟩, rfl, by decide, rfl, rfl, ?_, rfl⟩
  · refine ⟨by decide +kernel, by decide +kernel, by decide +kernel, fun h => absurd h (by decide), ?_⟩
    unfold rowsFit; decide +kernel
  · unfold outsideLines; decide +kernel

set_option maxRecDepth 20000 in
theorem witness_MatrixCommands : engine.goesC 0 ∧ src 19 engine = .ok (0x31, engine) ∧ base.cur.mx = false ∧ engine.cur.mx = true ∧ (0x31 : Word).toNat < 2 ^ 20 ∧
    engine.mmaErr 1 0 false 0 1 3 ((engine.core 1).acc 0).ty = none ∧ engine.mmaErr 1 0 true 0 1 3 ((engine.core 1).acc 0).ty = none ∧ pairOf ((engine.core 1).tile 1).fmt ((engine.core 1).tile 3).fmt = some (false, 8) ∧
    mayIssue engine 1 0 ∧ src 20 engine = .ok (0x200000, engine) ∧ src 21 engine = .ok (0x1008011, engine) ∧
    streamOf (0x1008011 : Word).toNat = ⟨1, 1, 128, 64, 64⟩ ∧ 1 ≤ ((engine.core 1).tile 1).nrows ∧ ((engine.core 1).tile 1).nrows ≤ 8 ∧ mayAcc engine 0 ∧ (engine.core 1).tileReady 1 = true ∧ known engine 1 ∧ pairOf 1 1 = some (false, 8) ∧
    ((engine.core 1).acc 0).ty = some false ∧ spaceOf 0x200000 = some (.glob 0x200000) ∧ 0x200000 / 2 ^ 40 = engine.dev.devno ∧ src 22 engine = .ok (0x200000000000, engine) ∧
    (let f := epiOf (0x200000000000 : Word).toNat
     f.scale ≠ 3 ∧ f.dstride ≠ 0 ∧ engine.ownPlace 0x0080000000000400 = ⟨0x400, none, none⟩ ∧ known engine (viewOf none 0).fmt ∧ (viewOf none 0).inScaleLine 0x400 = false ∧ (∀ r ∈ (f.rowRanges (viewOf none 0) 0x100 1).headD [], r.1 + r.2 ≤ 0x100000) ∧
       (viewOf none 0).index 0x400 = 0x100 ∧ (viewOf none 0).onGroup 0x400 = true ∧ (viewOf none 0).scaled = false ∧ (viewOf none 0).width ≠ 6 ∧ rowsFit engine (f.rowRanges (viewOf none 0) 0x100 1) ∧ f.vectors 1 = [] ∧
       outsideLines engine (f.rowRanges (viewOf none 0) 0x100 1).flatten ∧ mayIssue engine 2 (f.wants (viewOf none 0) 0x100 1).length) := by
  refine ⟨⟨rfl, rfl⟩, rfl, rfl, rfl, by decide, by decide, by decide, by decide, ⟨by decide, by decide⟩, rfl, rfl, rfl, by decide, by decide, rfl, by decide, rfl, by decide, rfl, by decide, by decide, rfl,
    by decide, by decide, rfl, rfl, by decide, by decide +kernel, by decide, by decide, by decide, by decide, ?_, by decide, ?_, ⟨by decide +kernel, by decide⟩⟩
  · unfold rowsFit; decide +kernel
  · unfold outsideLines; decide +kernel

/-- A descriptor at k0 that names places 0x400 and 0x800 of the own scratchpad, with `w2` in its third word; k1 holds 64, k2 more than 1 MiB; XDEV as given. -/
def copying (far w2 : Nat) (x : Bool) : State :=
  (base.modCur fun t => { t with k := [(0, 0x0080000000000100), (1, 64), (2, 0x100001)], xdev := x }).put (spKey 1 0x100) (toBytes 8 0x0080000000000400 ++ toBytes 8 far ++ toBytes 8 w2 ++ toBytes 8 0)

set_option maxRecDepth 20000 in
theorem witness_CopyCommands : (let s := copying 0x0080000000000800 0 false
    s.goesC 0 ∧ src 16 s = .ok (0x0080000000000100, s) ∧ src 17 s = .ok (64, s) ∧ (64 : Word).toNat ≤ 0x1000000 ∧ ownBytes s 0x0080000000000100 32 32 ∧
    copyDesc (descriptor s 0x0080000000000100 noTail) = ⟨0x0080000000000400, 0x0080000000000800, 0, 0, 0, 0⟩ ∧ isOwn 1 0x0080000000000400 = true ∧
    s.copyErr 1 s.pre 0x0080000000000400 0x0080000000000800 64 1 0 0 = none ∧ s.rowsErr 1 s.cur.x [(0, 32)] = none ∧ outsideLines s [(0, 32)] ∧
    mayIssue s 3 (copyWants 1 0x0080000000000400 0x0080000000000800 0 0 64 1 ++ wantOf true [(0, 32)]).length ∧ ∃ v, push 5 s = .ok ((), v) ∧ mayIssue v 3 (copyWants 1 0x0080000000000400 0x0080000000000800 0 0 64 1).length) := by
  refine ⟨⟨rfl, rfl⟩, rfl, rfl, by decide, ⟨by decide, .inl (by decide +kernel)⟩, rfl, by decide, by decide +kernel, by decide +kernel, ?_, ⟨by decide +kernel, by decide⟩, _, rfl, by decide +kernel, by decide⟩
  unfold outsideLines; decide +kernel

set_option maxRecDepth 20000 in
theorem witness_TransferCommands : (let s := copying 0x90000200000 9 true
    s.goesC 0 ∧ src 16 s = .ok (0x0080000000000100, s) ∧ src 17 s = .ok (64, s) ∧ src 18 s = .ok (0x100001, s) ∧ s.cur.xdev = true ∧ (copying 0x90000200000 9 false).cur.xdev = false ∧ 0x100000 < (0x100001 : Word).toNat ∧
    ownBytes s 0x0080000000000100 32 32 ∧ (let b := descriptor s 0x0080000000000100 noTail
      ofBytes (slice b 0 8) = 0x0080000000000400 ∧ ofBytes (slice b 18 6) = 0 ∧ ofBytes (slice b 16 2) = 9) ∧ 9 ≠ s.dev.devno ∧ ownBytes s 0x0080000000000400 64 1 ∧ outsideLines s [(0x400, 64), (0x118, 8)] ∧ mayWriteOut s ∧
    mayIssue s 4 (wantOf false [(0x400, 64)] ++ wantOf true [(0x118, 8)]).length ∧
    mayIssue s 4 (wantOf true [(0x400, 64)] ++ wantOf true [(0x118, 8)]).length) := by
  refine ⟨⟨rfl, rfl⟩, rfl, rfl, rfl, rfl, rfl, by decide, ⟨by decide, .inl (by decide +kernel)⟩, by decide +kernel, by decide, ⟨by decide, .inl (by decide +kernel)⟩, ?_, ⟨fun h => absurd h (by decide), rfl⟩, ⟨by decide +kernel, by decide⟩, by decide +kernel, by decide⟩
  unfold outsideLines; decide +kernel

/-- k0 an aligned place, k1 one message, k2 a bin table of 4 words at offset 0x400, k3 bin 3, k4 core 1 of this device with BV, k5 core 1 of device 9. -/
def keyed : State := base.modCur fun t => { t with k := [(0, 0x0080000000000100), (1, 1), (2, 0x400400), (3, 3), (4, 0x80000001), (5, 0x1201)] }

theorem witness_KeyedCommands : keyed.goesC 0 ∧ src 16 keyed = .ok (0x0080000000000100, keyed) ∧ src 17 keyed = .ok (1, keyed) ∧ (1 : Word).toNat ≤ 131072 ∧ ownBytes keyed 0x0080000000000100 16 8 ∧ ownBytes keyed 0x0080000000000100 16 16 ∧
    mayWriteOut keyed ∧ mayIssue keyed 4 (wantOf false [(0x100, 8)]).length ∧ mayIssue keyed 4 0 ∧ mayIssue keyed 4 (wantOf true [(0x100, 16)]).length ∧
    src 18 keyed = .ok (0x400400, keyed) ∧ (0x400400 : Word).toNat % 2 ^ 20 = 0x400 ∧ (0x400400 : Word).toNat / 2 ^ 20 % 2 ^ 16 = 4 ∧ keyed.spShare 1 0 0x400 16 = true ∧ outsideLines keyed [(0x400, 16)] ∧ outsideLines keyed [(0x100, 16)] ∧
    src 19 keyed = .ok (3, keyed) ∧ (3 : Word).toNat < 1024 ∧ (∃ u, src 20 keyed = .ok (0x80000001, u)) ∧ (0x80000001 : Word).toNat = 1 + 0 * 2 ^ 9 + 1 * 2 ^ 31 ∧ keyed.dev.devno = 0 ∧ inRect keyed.curCtx 1 = true ∧
    (∃ u, src 21 keyed = .ok (0x1201, u)) ∧ (0x1201 : Word).toNat = 1 + 9 * 2 ^ 9 + 0 * 2 ^ 31 := by
  refine ⟨⟨rfl, rfl⟩, rfl, rfl, by decide, ⟨by decide, .inl (by decide)⟩, ⟨by decide, .inl (by decide)⟩, ⟨fun h => absurd h (by decide), rfl⟩, ⟨by decide, by decide⟩, ⟨by decide, by decide⟩, ⟨by decide, by decide⟩, rfl, by decide, by decide, by decide, ?_, ?_, rfl, by decide, ⟨_, rfl⟩, by decide,
    by decide, by decide, ⟨_, rfl⟩, by decide⟩ <;> (unfold outsideLines; decide)

/-- k0 holds 8; rope 0 belongs to the context, rope 1 to another launch. -/
def csrs : State := ((base.modCur fun t => { t with k := [(0, 8)] }).modRope 0 fun r => { r with st := 1, owner := base.curCtx.l }).modRope 1 fun r => { r with st := 1, owner := 77 }

theorem witness_ControlRegisterRead : csrs.goesC 0 ∧ readable csrs 8 ∧ readable csrs 0x8003 ∧ (∃ t, dest 18 (BitVec.ofNat 64 (registerValue csrs 8)) csrs = .ok ((), t)) ∧ csrListed 0x50 = false ∧
    csrs.cur.fwm = false ∧ csrListed 0x8008 = true ∧ (csrs.rope 1).owner ≠ csrs.curCtx.l ∧ (far id).foreign (far id).cur = true ∧ (far id).cur.wait = .none ∧ (far id).reach 9 = true ∧
    (far fun t => { t with wait := .got [0, 7] }).cur.wait = .got [0, 7] := by
  refine ⟨⟨rfl, rfl⟩, ⟨rfl, fun h => absurd h (by decide), fun h => absurd h (by decide), fun h => absurd h (by decide), fun h => absurd h (by decide)⟩,
    ⟨rfl, fun _ h => absurd h (by decide), fun _ h => absurd h (by decide), fun _ h => absurd h (by decide), fun _ => ⟨by decide, rfl⟩⟩, ⟨_, rfl⟩, rfl, rfl, rfl, by decide, rfl, rfl, by decide, rfl⟩

theorem witness_ControlRegisterWrite : csrs.goesC 0 ∧ src 16 csrs = .ok (8, csrs) ∧ csrListed 0x50 = false ∧ (csrListed 0x520 = true ∧ csrWriters 0x520 ≠ 0 ∧ ¬ mayWrite csrs 0x520) ∧ (csrListed 3 = true ∧ csrWriters 3 = 0) ∧
    (csrListed 8 = true ∧ mayWrite csrs 8 ∧ ∃ t, csrs.putThreadReg 1 0 8 8 = .ok t) ∧ (csrListed 0x10B = true ∧ mayWrite (csrs.modCur fun t => { t with fwm := true }) 0x10B ∧ csrs.putCoreReg 1 csrs.cur.x 0x10B 8 = .error (0x12, 8)) ∧
    csrs.cur.wait = .none ∧ csrs.cur.vPend = [] ∧ (8 : Word).toNat / 256 % 8 = 0 ∧ (0x500 : Word).toNat / 256 % 8 = 5 ∧ (0x400 : Word).toNat / 256 % 8 = 4 := by
  refine ⟨⟨rfl, rfl⟩, rfl, rfl, ⟨rfl, by decide, ?_⟩, ⟨rfl, rfl⟩, ⟨rfl, .inl rfl, _, rfl⟩, ⟨rfl, .inr (.inr ⟨rfl, rfl⟩), ?_⟩, rfl, rfl, by decide, by decide, by decide⟩
  · unfold mayWrite; decide
  · rfl

theorem witness_RegisterLimits : (5 : Nat) < 2 ^ 64 ∧ (1 : Nat) < 512 ∧ (0 : Nat) < 2 ∧ 5 / 2 ^ 20 % 16 ≤ 10 ∧ 10 < 0xB00000 / 2 ^ 20 % 16 ∧ 5 / 2 ^ 16 % 2 ^ 12 = 0 ∧
    ¬ ((0x10001 : Nat) / 2 ^ 16 % 2 ^ 12 = 0 ∨ 2048 < 0x10001 / 2 ^ 16 % 2 ^ 12 ∨ 0x10001 % 2 ^ 12 = 0 ∨ 2048 < 0x10001 % 2 ^ 12 ∨ ((base.ctx 1 (1 - 0)).placed = true ∧ 2048 < 0x10001 / 2 ^ 16 % 2 ^ 12 + (base.ctx 1 (1 - 0)).cq)) := by
  refine ⟨by decide, by decide, by decide, by decide, by decide, by decide, by decide⟩

def firmware (w : Wait) : State := base.modCur fun t => { t with fwm := true, wait := w, k := [(0, 0x10000), (1, 4096), (2, 0xFFFFFFFFFFFFFFFF)] }

theorem witness_ServiceInstructions : base.goesC 0 ∧ base.cur.wait = .none ∧ base.cur.fwm = false ∧ (firmware (.done 0)).cur.wait = .done 0 ∧ (firmware .none).goesC 0 ∧ (firmware .none).cur.fwm = true ∧ (firmware .none).cur.wait = .none ∧
    readReg 16 (firmware .none) = .ok (0x10000, firmware .none) ∧ readReg 17 (firmware .none) = .ok (4096, firmware .none) ∧ readReg 18 (firmware .none) = .ok (0xFFFFFFFFFFFFFFFF, firmware .none) ∧ readReg 19 (firmware .none) = .ok (0, firmware .none) ∧
    src 16 (firmware .none) = .ok (0x10000, firmware .none) ∧ src 17 (firmware .none) = .ok (4096, firmware .none) ∧ (0x10000 : Word).toNat < 2 ^ 56 ∧ 0x10000 / 65536 * 65536 + (4096 + 65535) / 65536 * 65536 ≤ 2 ^ 56 ∧
    2 ^ 56 < 0xFFFFFFFFFF0000 / 65536 * 65536 + (65537 + 65535) / 65536 * 65536 ∧ 2 ^ 56 ≤ (0xFFFFFFFFFFFFFFFF : Word).toNat := by
  refine ⟨⟨rfl, rfl⟩, rfl, rfl, rfl, ⟨rfl, rfl⟩, rfl, rfl, rfl, rfl, rfl, rfl, rfl, rfl, by decide, by decide, by decide, by decide⟩

/-- A firmware thread with an area of base camp at k0, core 2, context 0 in k1, and a misaligned place in k2; images as recorded, with a launch of the context's number. -/
def imaging (w : Wait) (l : List Image) : State :=
  let s := base.modCur fun t => { t with fwm := true, wait := w, k := [(0, 0x0083000000000000), (1, 2), (2, 0x0083000000000008)] }
  s.modSched fun q => { q with images := l, launches := [{ id := 1, st := .placed, q := 0, idx := 0, host := 0, pkt := 0, graph := 0, phase := 0, job := 0, est := 0, l := 0 }] }

/-- The bytes of an image of core 2, context 0, that has no sections. -/
def label : List Byte := imageBytes 2 0 0 0 10 0 []

/-- A context of core 2 with `n` threads, each with more vector registers than a core has. -/
def picture (n : Nat) : Image :=
  ⟨0x0083000000000000, 2, 0, label, {}, (List.range n).map fun i => (i, { st := .ready, vcnt := 8192 }), [], none, [], [], [], [], [], [], [], []⟩

theorem witness_ImageInstructions : (imaging .none []).goesC 0 ∧ src 16 (imaging .none []) = .ok (0x0083000000000000, imaging .none []) ∧ src 17 (imaging .none []) = .ok (2, imaging .none []) ∧
    src 18 (imaging .none []) = .ok (0x0083000000000008, imaging .none []) ∧ base.cur.fwm = false ∧ (imaging .none []).cur.fwm = true ∧ (2 : Word).toNat = 2 + 0 * 2 ^ 16 ∧ (0x0083000000000008 : Word).toNat % 64 ≠ 0 ∧
    (0x0083000000000000 : Word).toNat % 64 = 0 ∧ ((imaging .none []).areaKey 1 0x0083000000000000).isSome = true ∧ (imaging .none []).cur.wait = .none ∧ (imaging (.image 2) []).cur.wait = .image 2 ∧
    (imaging (.image 2) []).saveReady 2 0 = true ∧ (let s := (imaging (.image 1) []).setThread 2 0 { st := .arriving }; s.cur.wait = .image 1 ∧ s.saveReady 2 0 = false) ∧ (∃ t, dest 36 2 (imaging .none []) = .ok ((), t)) ∧
    (imaging .none []).imageAt 1 0x0083000000000000 = none ∧ (let s := (imaging .none [picture 0]).put (campKey 0) label
      s.imageAt 1 0x0083000000000000 = some (picture 0) ∧ s.imageFits (picture 0) 2 0 = true ∧ ∃ r, (s.removeCtx 2 0).restoreImage (picture 0) = some r) ∧
    (let s := (imaging .none [picture 1]).put (campKey 0) label
     s.imageAt 1 0x0083000000000000 = some (picture 1) ∧ s.imageFits (picture 1) 2 0 = true ∧ (s.removeCtx 2 0).restoreImage (picture 1) = none) := by
  refine ⟨⟨rfl, rfl⟩, rfl, rfl, rfl, rfl, rfl, by decide, by decide, by decide, rfl, rfl, rfl, by decide +kernel, ⟨rfl, by decide +kernel⟩, ⟨_, destNum_discard⟩, by decide +kernel, ⟨by decide +kernel, by decide +kernel, _, rfl⟩, by decide +kernel, by decide +kernel, ?_⟩
  decide +kernel

end Sys2Proof.Tests
end

