-- ==== Sys2Proof/Tests/Witness5.lean ====
section
/-! SUPPORT. States and operands that meet the hypotheses of the statements: vector instructions. -/

namespace Sys2Proof.Tests

set_option Elab.async false

open Sys2Proof Sys2Proof.Machine Sys2Proof.Claims

/-- A thread with eight vector registers, all zero; k0 holds 3. -/
def vectors : State := base.modCur fun t => { t with k := [(0, 3)], vcnt := 8 }

set_option maxRecDepth 20000 in
theorem witness_VectorElementResult : vectors.goesA ⟨0, 0⟩ ∧ readV 1 vectors = .ok (0, vectors) ∧ readV 2 vectors = .ok (0, vectors) ∧ src 16 vectors = .ok (3, vectors) ∧
    (∃ v, writesElements vectors 4 3 true (fun _ _ _ _ => 0) v) ∧ (∃ v, writesElements vectors 2 3 false (fun _ _ _ _ => 0) v) ∧ (∃ v, putV 3 5 vectors = .ok ((), v)) ∧ ∃ c, vecCtx vectors = .ok (c, vectors) :=
  ⟨rfl, rfl, rfl, rfl, ⟨_, _, _, rfl, rfl, rfl⟩, ⟨_, _, _, rfl, rfl, rfl⟩, ⟨_, rfl⟩, _, rfl⟩

set_option maxRecDepth 20000 in
theorem witness_VectorAcrossElements : vectors.goesA ⟨0, 0⟩ ∧ (∃ c, vecCtx vectors = .ok (c, vectors)) ∧ readV 1 vectors = .ok (0, vectors) ∧ (∃ ix, readIdx 2 2 vectors = .ok (ix, vectors)) ∧ src 16 vectors = .ok (3, vectors) ∧
    (∃ v, putVLater 3 [0] vectors = .ok ((), v)) ∧ (∃ v, pushLater 3 vectors = .ok ((), v)) ∧ ∃ u v, putVLater 3 [0] vectors = .ok ((), u) ∧ pushLater 5 u = .ok ((), v) :=
  ⟨rfl, ⟨_, rfl⟩, rfl, ⟨_, rfl⟩, rfl, ⟨_, rfl⟩, ⟨_, rfl⟩, _, _, rfl, rfl⟩

set_option maxRecDepth 20000 in
theorem witness_VectorConversionResult : vectors.goesA ⟨0, 0⟩ ∧ readV 1 vectors = .ok (0, vectors) ∧ (∃ c, vecCtx vectors = .ok (c, vectors)) ∧ (∃ u, vtyWiden 2 = some u) ∧ readGroup vectors 2 2 [0, 0] ∧ readGroup vectors 4 4 [0, 0, 0, 0] ∧
    (∃ v, writesElements vectors 2 3 true (fun _ _ _ _ => 0) v) ∧ (∃ v, putVLater 2 [0, 0] vectors = .ok ((), v)) ∧ (∃ v, putVLater 4 [0, 0, 0, 0] vectors = .ok ((), v)) ∧ ∃ v, putVLater 3 [0] vectors = .ok ((), v) :=
  ⟨rfl, rfl, ⟨_, rfl⟩, ⟨_, rfl⟩, rfl, rfl, ⟨_, _, _, rfl, rfl, rfl⟩, ⟨_, rfl⟩, ⟨_, rfl⟩, _, rfl⟩

set_option maxRecDepth 20000 in
theorem witness_VectorRegisters : (8 : Nat) ∈ [1, 4, 8, 16, 32] ∧ ([7] : List Nat).length ≤ 4096 / 8 ∧ (List.replicate 256 7).length = 2 * (4096 / 32) ∧ vreg vectors 3 3 ∧ (∃ v, putV 3 5 vectors = .ok ((), v)) ∧
    ∃ v, putVLater 3 [5] vectors = .ok ((), v) :=
  ⟨by decide, by decide, by decide, ⟨by decide, rfl, rfl⟩, ⟨_, rfl⟩, _, rfl⟩

end Sys2Proof.Tests
end

