-- ==== Sys2Proof/Tests/Witness6.lean ====
section
/-! SUPPORT. States that meet the hypotheses of the statements: operations that return, walks, pages, scrubbing. -/

namespace Sys2Proof.Tests

set_option Elab.async false

open Sys2Proof Sys2Proof.Machine Sys2Proof.Claims

/-- An operation of thread 0 of core 1: 8 bytes at an address. -/
def op (k : OpKind) (a : Nat) (d : Dest) : Op := { id := 5, kind := k, core := 1, slot := 0, thid := 256, tseq := 0, pc := 0, addr := BitVec.ofNat 64 a, n := 8, dest := d }

/-- A state with the operation, and a step that is about it. -/
def with1 (s : State) (o : Op) : State := { s.withOp o with arg := { id := 5 } }

/-- A poisoned word of the own scratchpad at offset 0x100. -/
def poisoned : State := { base with poison := [(spKey 1 0x100, 1)] }

theorem witness_OperationCompletes : (owner base (op .load 0 .result)).restart = false ∧ (op .load 0 .result).dest = .result ∧ (op .load 0 (.named 37)).dest = .named 37 ∧ (op .load 0 (.queue 0 3)).dest = .queue 0 3 ∧
    (op .load 0 (.port 2)).dest = .port 2 ∧ neighbour 1 2 ≠ none := by decide +kernel

theorem witness_OperationFails : (op .load 0 .result).dropped = false ∧ (op .load 0 .result).dest = .result ∧ .pend 5 ∈ (owner (base.modCur fun t => { t with t := [.pend 5] }) (op .load 0 .result)).t ∧
    (op .load 0 (.named 16)).dest ≠ .result ∧ ({ op .load 0 .result with dropped := true } : Op).dropped = true ∧ (owner base (op .load 0 .result)).restart = false := by decide +kernel

theorem witness_LoadReturns : (let o := op .load 0x0080000000000100 .result
      let s := with1 base o
      about s o ∧ o.kind = .load ∧ placed s o (spKey 1 0x100) o.n false ∧ s.eccIn [(spKey 1 0x100, o.n)] = none ∧ o.dropped = false ∧ (owner s o).buf = [] ∧ (with1 poisoned o).eccIn [(spKey 1 0x100, o.n)] ≠ none ∧ isHostKey o.addr.toNat = false) ∧
    (let o := op .vload 0x0080000000000100 (.vregs [3])
     about (with1 base o) o ∧ o.kind = .vload ∧ o.aop = 0 ∧ placed (with1 base o) o (spKey 1 0x100) o.n false ∧ o.dest = .vregs [3]) ∧
    (let o := { op .vload 0x0080000000000100 (.vregs [3]) with aop := 2, more := [0, 1] }
     about (with1 base o) o ∧ o.aop ≠ 0 ∧ (with1 base o).eccIn (((with1 base o).loadElems o).2.map fun p => (spKey o.core p.1, p.2)) = none) ∧
    (let o := op .load 0x0084000000000000 .result; about (with1 base o) o ∧ isHostKey o.addr.toNat = true ∧ o.at_ = 0) ∧
    (about (with1 base (op .long 0 .result)) (op .long 0 .result) ∧ (op .long 0 .result).kind = .long) ∧
    (let o := { op .vec 0 (.vregs [3]) with more := [7] }; about (with1 base o) o ∧ o.kind = .vec ∧ o.more = [7] ∧ o.dest = .vregs [3] ∧ o.dropped = false) ∧
    (let o := { op .fe 0 .result with at_ := 3 }; about (with1 base o) o ∧ o.at_ = 3 ∧ o.exp.toNat ≤ (with1 base o).dev.clock) ∧
    (let o := { op .fe 0 .result with at_ := 3, exp := 256 }; about (with1 base o) o ∧ (with1 base o).dev.clock < o.exp.toNat) := by and_intros <;> first | decide +kernel | rfl

/-- A word of base camp, its offset, and a step about the one request at its bank. -/
def banked (full : Bool) (wait : Nat) (aop : Nat) : State × Op :=
  let o := { op .fe 0x0083000000000100 .result with aop := aop }
  ({ base.withOp o with arg := { id := 5, n := bankOf 0x100 }, bankQ := [(bankOf 0x100, [.op 5])], bankWait := [(bankOf 0x100, List.replicate wait (.op 6))], full := if full then [0x100] else [] }, o)

theorem witness_StoreReturns : (about (with1 base (op .store 0 .none)) (op .store 0 .none) ∧ (op .store 0 .none).pieces = []) ∧
    (let b : BufStore := ⟨0x0083000000000000, campKey 0, [1], [], 0⟩
     let o := { op .store 0x0083000000000000 .none with pieces := [b] }
     about (with1 base o) o ∧ o.at_ = 0 ∧ (owner (with1 base o) o).serial = false ∧ o.pieces = [b] ∧ (with1 base o).placePiece o b = .ok (campKey 0)) ∧
    (let b : BufStore := ⟨0x0081000000200100, spKey 2 0x100, [1], [], 0⟩
     let o := { op .store 0x0081000000200100 .none with pieces := [b] }
     let s := with1 (base.modCore 2 fun k => { k with sub := [(0, { v := true, off := 0x100, len := 1 })] }) o
     about s o ∧ s.placePiece o b = .bad 0x18) ∧
    (let o := op .load 0x0081000000200100 .result
     let s := with1 base o
     let q := with1 (base.modCore 2 fun k => { k with locks := [⟨1, true, 0, 0, 0, 0x100, 0x17F⟩] }) o
     about s o ∧ spaceOf o.addr.toNat = some (.other 2 0x100) ∧ 2 ≠ o.core ∧ s.farHome (owner s o) 2 0x100 o.n = false ∧ s.farLock 2 0x100 o.n false = false ∧ s.eccIn [(spKey 2 0x100, o.n)] = none ∧ (owner s o).buf = [] ∧
       about q o ∧ q.farLock 2 0x100 o.n false = true) ∧
    (let o := op .atomic 0x0081000000200100 .result
     let s := with1 (base.modCore 2 fun k => { k with sub := [(0, { v := true, off := 0x100, len := 1 })] }) o
     about s o ∧ s.farLock 2 0x100 o.n true = false ∧ s.subHit 2 0x100 o.n = true) ∧
    (let o := op .atomic 0x0082000000000100 .result
     let s := with1 base o
     about s o ∧ spaceOf o.addr.toNat = some (.pool 0 0x100) ∧ s.fwd (poolKey 0 0x100) = poolKey 0 0x100 ∧ s.eccIn [(poolKey 0 0x100, o.n)] = none) ∧
    (let o := op .fe 0x0083000000000100 .result; about (with1 base o) o ∧ o.at_ = 0 ∧ spaceOf o.addr.toNat = some (.camp 0x100) ∧ (with1 base o).bankPending o.core (bankOf 0x100) o.id = false) ∧
    (∀ f ∈ [true, false], ∀ a ∈ [0, 1], let q := banked f 0 a
      q.1.opById q.1.arg.id = some q.2 ∧ Table.get [] (bankOf 0x100) q.1.bankQ = [.op q.2.id] ∧ q.1.arg.n = bankOf 0x100 ∧ (q.1.ctx 1 0).cnt.watch = [] ∧ (q.2.addr.toNat % 0x10000000 ∈ q.1.full ↔ f = true) ∧ q.1.eccIn [(campKey 0x100, 8)] = none ∧
        Table.get [] (bankOf 0x100) q.1.bankWait = [] ∧ (q.1.ctx 1 0).away = false) ∧
    256 ≤ (Table.get [] (bankOf 0x100) (banked true 256 1).1.bankWait).length := by
  and_intros <;> first | decide +kernel | rfl

/-- A context whose address space is one page of 1 GiB at physical address 0, rights 7, and a walk of its cluster for 0x200000; `m` whether the table is there. -/
def walked (m : Bool) (w : Walk) : State :=
  let s := (base.modCluster (clusterOf 1) fun k => { k with walks := [w] }).modLease 1 fun _ => { used := true, root := 0x20, rootV := true, leases := [⟨0, 0x40000000, 7, true⟩] }
  { (if m then s.put 0x40000 (toBytes 8 31) else s) with arg := { id := 9 } }

theorem witness_WalkResult : (let w : Walk := ⟨9, 1, 0x200000, 5, false⟩; walking (walked true w) (clusterOf 1) w ∧ w.seq ≠ ((walked true w).cluster (clusterOf 1)).inval) ∧
    (let w : Walk := ⟨9, 1, 0x200000, 0, false⟩
     let s := walked true w
     walking s (clusterOf 1) w ∧ w.seq = (s.cluster (clusterOf 1)).inval ∧ s.held w.va = true ∧ s.walk w.l w.va = some (2, 0, 7) ∧ (s.cluster (clusterOf 1)).tlb.length < 8) ∧
    (let w : Walk := ⟨9, 1, 0x200000, 0, true⟩; walking (walked false w) (clusterOf 1) w ∧ (walked false w).walk w.l w.va = none ∧ w.told = true) ∧
    (let w : Walk := ⟨9, 1, 0x200000, 0, false⟩; walking (walked false w) (clusterOf 1) w ∧ (walked false w).held w.va = true ∧ (walked false w).walk w.l w.va = none ∧ w.told = false) := by
  and_intros <;> first | decide +kernel | rfl

theorem witness_PageSteps : (let x : Shoot := ⟨7, 1, 0, 0x10000, [0, 3], none⟩
      let s := { base with shoots := [x], arg := { id := 7 } }
      s.shoots.find? (fun y => y.id == s.arg.id) = some x ∧ x.mig = none ∧ x.clusters = 0 :: 3 :: []) ∧
    (let x : Shoot := ⟨7, 1, 0, 0x10000, [0], none⟩; ([x].find? (fun y => y.id == 7)) = some x ∧ x.clusters = [0]) ∧
    (let s := { walked true ⟨9, 1, 0, 0, false⟩ with arg := { id := 0, x := 1, addr := 0x200000, v := 0x40000000 } }
     s.arg.id = 0 ∧ s.leafAt s.arg.x s.arg.addr = some (2, 0x40000, 31) ∧ bit 31 6 = false ∧ s.arg.v.toNat % pageBytes 2 = 0 ∧ s.arg.v.toNat + pageBytes 2 ≤ 0xC000000000 ∧ overlap (bits 31 8 48 * 256) (pageBytes 2) s.arg.v.toNat (pageBytes 2) = false) ∧
    (let m : PageMig := ⟨7, 1, 0x10000, 0x20000, 0x40000, 0x10000, 0⟩
     let s := { base.modSched fun q => { q with migs := [m] } with arg := { id := 7 } }
     s.arg.id ≠ 0 ∧ s.sched.migs.find? (fun g => g.id == s.arg.id) = some m ∧ m.done + 64 < m.len) ∧
    (let m : PageMig := ⟨7, 1, 0x10000, 0x20000, 0x40000, 0x10000, 0xFFC0⟩
     let s := { base.modSched fun q => { q with migs := [m] } with arg := { id := 7 } }
     s.sched.migs.find? (fun g => g.id == s.arg.id) = some m ∧ m.done < m.len ∧ m.len ≤ m.done + 64) ∧
    (let s := { (walked true ⟨9, 1, 0, 0, false⟩).modThread 1 0 fun t => { t with wait := .touch 0x20 } with arg := { x := 1, n := 0x20, ok := true } }
     (s.walk s.arg.x (s.arg.n * 65536)).isSome = s.arg.ok ∧ (s.thread 1 0).st ≠ .empty ∧ (s.thread 1 0).wait = .touch s.arg.n ∧ (s.ctx 1 (s.thread 1 0).x).l = s.arg.x ∧ (s.lease s.arg.x).touched.length < 4096) ∧
    (let s := { ((base.modLease 1 fun _ => { used := true, root := 0x20, rootV := true, leases := [⟨0, 0x40000000, 7, true⟩] }).put 0x40000 (toBytes 8 0x50001)).put 0x50000 (toBytes 8 0x60001) with
                arg := { x := 1, n := 0, ok := true, m := 7, addr := 0x30000 } }
     s.arg.m % 8 ≠ 0 ∧ s.walk s.arg.x (s.arg.n * 65536) = none ∧ (s.leafSlot s.arg.x (s.arg.n * 65536)).isSome = true ∧ s.arg.addr + 65536 ≤ s.hbmEnd ∧ s.word 0x60000 8 % 2 = 0 ∧ s.leafSlot 1 0 = some 0x60000 ∧
       ((s.put 0x60000 (toBytes 8 (0x30000 + 31))).walk 1 0).isSome = true) := by decide +kernel

/-- A step of the patrol scrubber at thread 0 of core 1. -/
def scrub (ok : Bool) (n : Nat) : State := { buffered with arg := { c := 1, n := n, ok := ok, addr := 0x200000 } }

theorem witness_ScrubResult : (scrub false 1).arg.ok = false ∧ (∀ n ∈ [1, 5, 6], (scrub true n).arg.ok = true ∧ (scrub true n).arg.n = n ∧ (scrub true n).arg.x = 0) ∧
    (∀ n ∈ [1, 5, 6], ({ scrub true n with arg := { (scrub true n).arg with x := 2 } } : State).arg.x = 2) ∧
    ((scrub true 2).arg.n = 2 ∧ ((scrub true 2).thread 1 0).st ≠ .empty ∧ ((scrub true 2).thread 1 0).buf ≠ []) ∧ (scrub true 3).arg.n = 3 ∧ (scrub true 3).arg.m ≠ 1 ∧
    ((scrub true 4).arg.n = 4 ∧ ((scrub true 4).thread 1 0).st ≠ .leaving ∧ (scrub true 4).arg.m ≠ 1 ∧ ({ scrub true 4 with arg := { (scrub true 4).arg with m := 1 } } : State).arg.m = 1) ∧ (scrub true 7).arg.n = 7 := by decide +kernel

end Sys2Proof.Tests
end

