-- ==== Sys2Proof/Tests/Witness7.lean ====
section
/-! SUPPORT. States that meet the hypotheses of the statements: threads between bundles, messages, spawns, services. -/

namespace Sys2Proof.Tests

set_option Elab.async false

open Sys2Proof Sys2Proof.Machine Sys2Proof.Claims

/-- A step about thread 0 of core 1. -/
def about1 (f : Thread → Thread) : State := { base.modCur f with arg := { c := 1 } }

def cause (code op : Nat) : Cause := { code := code, tval := 0, pc := 0, op := op }

theorem witness_BoundaryCauses : (let s := about1 fun t => { t with due := [cause 0x16 3] }; bounded s ∧ (its s).due = [cause 0x16 3]) ∧
    (let s := about1 fun t => { t with due := [cause 0x16 3, cause 0x30 4] }
     bounded s ∧ (its s).due = [cause 0x16 3, cause 0x30 4] ∧ classOf (cause 0x16 3).code = 1 ∧ classOf (cause 0x30 4).code = 2) ∧
    (let s := about1 fun t => { t with due := [cause 0x16 7, cause 0x17 4] }; bounded s ∧ (its s).due = [cause 0x16 7, cause 0x17 4] ∧ classOf 0x17 = 1 ∧ (cause 0x17 4).op < (cause 0x16 7).op) ∧
    (bounded (about1 id) ∧ (its (about1 id)).due = []) ∧
    (let s := about1 fun t => { t with trapDue := some (cause 1 0) }; bounded s ∧ (its s).due = [] ∧ (its s).trapDue = some (cause 1 0) ∧ hasPending (its s) = false) ∧
    (let s := about1 fun t => { t with trapDue := some (cause 1 0), t := [.pend 5] }; bounded s ∧ (its s).trapDue = some (cause 1 0) ∧ hasPending (its s) = true) := by unfold bounded; decide +kernel

theorem witness_ThreadWakes : (let s := about1 fun t => { t with kill := some ⟨9, true⟩, killPc := 0x10040, buf := buffered.cur.buf }
      s.atBoundary 1 0 = true ∧ (its s).restart = false ∧ (its s).kill = some ⟨9, true⟩ ∧ (its s).killPc ≠ 0 ∧ (its s).mem = none ∧ (its s).arriving = false ∧ s.opsOf 1 0 = [] ∧
      (its s).hdev = s.dev.devno ∧ (s.ctx 1 (its s).x).drain = false ∧ min 2 (its s).snap.depth ≤ ((its s).win.drop ((its s).depth - (its s).snap.depth)).length ∧ (its s).killing = false ∧ (its s).winAt = []) ∧
    (its (about1 fun t => { t with kill := some ⟨9, false⟩ })).kill = some ⟨9, false⟩ ∧
    (let s := about1 fun t => { t with wait := .sleep 0, st := .parked }; (its s).wait = .sleep 0 ∧ (its s).st = .parked ∧ 0 ≤ s.dev.clock) ∧
    (let s := about1 fun t => { t with wait := .sleep 9, st := .parked }; (its s).wait = .sleep 9 ∧ s.dev.clock < 9) ∧
    (let s := about1 fun t => { t with restart := true }; (its s).restart = true ∧ s.opsOf 1 0 = [] ∧ (s.withOp (op .load 0 .result)).opsOf 1 0 ≠ [] ∧ (its s).winAt = [] ∧ (its s).killing = false ∧
      (∃ o ∈ (s.withOp (op .load 0 .result)).opsOf 1 0, o.dest = .result)) ∧ (its (about1 fun t => { t with winAt := [(1, 0)] })).winAt ≠ [] ∧
    (let s := about1 fun t => { t with acc := 1024 }; (its s).st = .ready ∧ (s.core 1).ageq ≤ (its s).acc) ∧ (its (about1 id)).acc < ((about1 id).core 1).ageq := by decide +kernel

/-- The timed task of a thread parked at its end: `tend` alone, in the text lease of its context. -/
def ending : State :=
  let s := State.reset.placedAt [0xA6000001]
  { (s.modThread 1 0 fun t => { t with st := .parked, pcause := 10, timed := true, tstamp := 4, inst := some ⟨0, clusterOf 1, 0⟩ }) with arg := { c := 1 } }

theorem witness_TimedCommit : (let k := ending.ctx 1 0
     ending.atBoundary 1 0 = true ∧ (its ending).st = .parked ∧ (its ending).pcause = 10 ∧ (its ending).task = true ∧ (its ending).timed = true ∧ ending.isHead (its ending) = true ∧ ending.commitWait 1 0 = none ∧ badEntry (its ending) = none ∧
       ending.boundary 1 0 = none ∧ ∃ w i, ending.frame 1 k.l k.ver (its ending).pc = .lone w ∧ decodeIn k.ver w = some i ∧ i = .tend ∧ endsTask i = true) := by
  and_intros <;> first | decide +kernel | exact ⟨_, _, rfl, rfl, rfl, rfl⟩

/-- Three resident windows at depth 4; the oldest has its place outside the overflow area, or inside it, or needs a lease that is not there. -/
def deep (n sc : Nat) : State := about1 fun t => { t with depth := 4, sc := sc, win := List.replicate n ⟨1, 2, 3, 4, 0x10004, 64, 1⟩ }

/-- The same of a thread whose home lies on device 9, with the areas of its home context. -/
def deepAway (n : Nat) : State := (deep n 4).modThread 1 0 fun t => { t with hdev := 9, far := some (256, 16, 0, 0) }

theorem witness_WindowMoves : ((its (deep 3 4)).win = [⟨1, 2, 3, 4, 0x10004, 64, 1⟩, ⟨1, 2, 3, 4, 0x10004, 64, 1⟩] ++ [⟨1, 2, 3, 4, 0x10004, 64, 1⟩] ∧ (its (deep 3 4)).st ≠ .empty ∧
      ∃ k, (deep 3 4).windowPlace 1 (its (deep 3 4)) (4 - 3 + 1) 2 = .ok (some k)) ∧ (deep 3 0).windowPlace 1 (its (deep 3 0)) (4 - 3 + 1) 2 = .error () ∧
    ((its (deep 2 4)).win.length < min 3 (its (deep 2 4)).depth ∧ ∃ k, (deep 2 4).windowPlace 1 (its (deep 2 4)) (4 - 2) 1 = .ok (some k)) ∧ (its (deep 2 4)).win.length ≤ 2 ∧ min 3 (its (deep 3 4)).depth ≤ (its (deep 3 4)).win.length ∧
    ((its (deep 3 4)).regPend.any fun p => decide (64 ≤ p.1 ∧ (p.1 - 64) / 4 = 4 - 3 + 1)) = false ∧ ((deep 2 4).opsOf 1 0).all (fun o => o.kind != .home) = true ∧ (its (deep 2 4)).restart = false ∧
    (let s := deepAway 3; s.foreign (its s) = true ∧ ∃ k, s.windowPlace 1 (its s) (4 - 3 + 1) 2 = .ok (some k)) ∧
    (let s := deepAway 2; s.foreign (its s) = true ∧ ∃ k, s.windowPlace 1 (its s) (4 - 2) 1 = .ok (some k)) := by
  refine ⟨⟨rfl, by decide, _, rfl⟩, rfl, ⟨by decide, _, rfl⟩, by decide, by decide, rfl, rfl, rfl, ⟨rfl, _, rfl⟩, rfl, _, rfl⟩

/-- A thread that asks for four vector registers; `n` says whether other threads hold them all. -/
def asks (full : Bool) : State :=
  let s := about1 fun t => { t with wait := .vwin 4 }
  let s := { s with arg := { c := 1, n := 4 } }
  if full then s.setThread 1 1 { st := .ready, vbase := 0, vcnt := 100000 } else s

def arrivesV (full : Bool) : State :=
  let s := ((base.setThread 1 2 { st := .arriving }).modCore 1 fun k => { k with vwait := [(2, 4)] })
  let s := { s with arg := { c := 1 } }
  if full then s.setThread 1 1 { st := .ready, vbase := 0, vcnt := 100000 } else s

theorem witness_VectorWindows : (∀ f ∈ [true, false], ((asks f).core 1).vwait = [] ∧ (its (asks f)).wait = .vwin 4 ∧ (its (asks f)).st ≠ .arriving ∧ (asks f).arg.n = 4 ∧
      (((asks f).modThread 1 0 fun t => { t with vbase := 0, vcnt := 0 }).vfreeRun 1 4).isNone = f) ∧
    (∀ f ∈ [true, false], ((arrivesV f).core 1).vwait = [(2, 4)] ∧ ((arrivesV f).thread 1 2).st = .arriving ∧ ((arrivesV f).vfreeRun 1 4).isNone = f) := by decide +kernel

/-- A thread that leaves; its launch has two units open. -/
def leaves (l : Leave) : State :=
  (about1 fun t => { t with st := .leaving, leave := l }).modHctx 0 fun h => { h with launches := [⟨false, 2, (base.ctx 1 0).launch⟩] }

/-- A thread that leaves for core 2 of its launch, which has no slot free. -/
def crowded : State :=
  (List.range 256).foldl (fun s h => s.setThread 2 h { st := .ready, uid := 9, hcore := 2, hslot := h }) ((leaves (.migrate 0 2)).setCtx 2 0 { base.ctx 1 0 with placed := true })

theorem witness_ThreadMoves : (let s := leaves .exit
      (its s).st = .leaving ∧ (its s).leave = .exit ∧ (s.core 1).cmds = [] ∧ s.opsOf 1 0 = [] ∧ (its s).mem = none ∧ (s.core 1).vwait = [] ∧ (its s).hdev = s.dev.devno ∧ s.sched.joiners = [] ∧ (s.ctx 1 0).host = 0 ∧
        ∃ e ∈ (s.hctx 0).launches, e.num = (s.ctx 1 0).launch ∧ 1 < e.open_) ∧
    (let s := (leaves .exit).withOp (op .store 0 .none); (its s).st = .leaving ∧ op .store 0 .none ∈ s.ops ∧ (op .store 0 .none).core = 1 ∧ (op .store 0 .none).slot = 0 ∧ (op .store 0 .none).kind = .store) ∧
    (let s := (leaves (.migrate 0 2)).setCtx 2 0 { base.ctx 1 0 with placed := true }
     (its s).st = .leaving ∧ (its s).leave = .migrate s.dev.devno 2 ∧ s.opsOf 1 0 = [] ∧ (its s).timed = false ∧ (its s).win = [] ∧ (s.core 1).vwait = [] ∧ (s.ctx 2 0).placed = true ∧ (s.ctx 2 0).away = false ∧
       ∃ i, s.arrivalSlot 2 (its s) = some i ∧ 256 * 2 + i ≠ 256 * 1 + 0) ∧
    (let s := crowded; (its s).leave = .migrate s.dev.devno 2 ∧ (s.ctx 2 0).placed = true ∧ s.arrivalSlot 2 (its s) = none) ∧
    (let s := (leaves (.migrate 9 2)).modDev fun d => { d with active := false, routes := [(9, 0x8001)] }
     (its s).leave = .migrate 9 2 ∧ 9 ≠ s.dev.devno ∧ s.reach 9 = true ∧ (its s).buf = [] ∧ s.foreign (its s) = false) ∧
    (let s := (leaves (.migrate 0 2)).modThread 1 0 fun t => { t with depth := 1, win := [⟨1, 2, 3, 4, 0x10004, 64, 1⟩] }
     (its s).win = [⟨1, 2, 3, 4, 0x10004, 64, 1⟩] ∧ 1 ≤ (its s).depth ∧ s.foreign (its s) = false ∧ (its s).oc = 0 ∧ s.bivB (its s) + 64 * ((its s).sc + 1) ≤ (its s).sp.toNat ∧ (spOf (s.bivB (its s) + 64 * (its s).sc)).isSome = true) ∧
    (let s := about1 fun t => { t with st := .arriving }; (its s).st = .arriving ∧ (its s).winAt = [] ∧ (s.core 1).vwait.any (fun p => p.1 == 0) = false) ∧
    (its (about1 fun t => { t with st := .arriving, winAt := [(1, 0)] })).winAt ≠ [] := by decide +kernel

/-- Core 1 with one thread and load 4 may send it to core 2 of its cluster, which holds the same launch and has load 1. -/
def loaded : State :=
  let s := ((base.modCtx 1 0 fun k => { k with caps := 8 }).setCtx 2 0 { base.ctx 1 0 with caps := 8 }).modCluster (clusterOf 1) fun k => { k with cairn := 0x010400 }
  { s with arg := { c := 1 } }

theorem witness_LoadBalance : clusterOf 2 = clusterOf 1 ∧ (loaded.ctx 1 0).placed = true ∧ (loaded.ctx 1 0).away = false ∧ bit (loaded.ctx 1 0).caps.toNat 3 = true ∧ loaded.threadsOf 1 = [(0, loaded.thread 1 0)] ∧ (loaded.thread 1 0).x = 0 ∧
    (loaded.thread 1 0).st = .ready ∧ loaded.settled 1 0 = true ∧ loaded.migratable 1 0 = true ∧ (loaded.thread 1 0).arr = none ∧ (loaded.thread 1 0).kill = none ∧
    (∀ e ∈ clusterCores (clusterOf 1), e ≠ 1 → ((loaded.ctx e 0).placed = true ∧ (loaded.ctx e 0).launch = (loaded.ctx 1 0).launch ∧ (loaded.freeSlot e 0).isSome = true ↔ e = 2)) ∧ 2 ∈ clusterCores (clusterOf 1) ∧
    bits (loaded.cluster (clusterOf 1)).cairn.toNat (8 * localOf 2) 8 ≠ 255 ∧ bits (loaded.cluster (clusterOf 1)).cairn.toNat (8 * localOf 2) 8 + 2 ≤ bits (loaded.cluster (clusterOf 1)).cairn.toNat (8 * localOf 1) 8 := by decide +kernel

/-- The one member of a team, stuck after an uncorrectable error, with a snapshot of its last release. -/
def rolling (m : Nat) : State :=
  let s := about1 fun t => { t with st := .parked, wait := .stuck, uid := 0, relSnap := some { pc := 0x10020 } }
  { s with arg := { c := 1, m := m } }

theorem witness_TeamRollback : ∀ m ∈ [0, 1], ((rolling m).ctx 1 0).placed = true ∧ (rolling m).team 1 0 = [1] ∧ (rolling m).ctxThreads 1 0 = [(0, its (rolling m))] ∧ ((rolling m).ctx 1 0).ckpt = [] ∧ ((rolling m).core 1).sub = [] ∧
    (rolling m).flights = [] ∧ (rolling m).opsOf 1 0 = [] ∧ (its (rolling m)).st = .parked ∧ (its (rolling m)).x = 0 ∧ (rolling m).arg.m = m ∧ (rolling m).arg.ok = false ∧ (its (rolling m)).wait = .stuck ∧
    (its (rolling m)).uid ≤ ((rolling m).ctx 1 0).relAt ∧ (its (rolling m)).relSnap = some { pc := 0x10020 } ∧ (its (rolling m)).arriving = false ∧ (its (rolling m)).killing = false ∧ (its (rolling m)).hdev = (rolling m).dev.devno ∧ ((rolling m).ctx 1 0).drain = false := by decide +kernel

/-- A `send` to thread 256 of this device (slot 0 of core 1), or to another address, queue 3; `q` entries in the queue, `i` messages in the inbound queue. -/
def sent (a q i : Nat) : State × Op :=
  let o := { op .send a .none with n := 3 }
  let s := (base.modCtx 1 0 fun k => { k with q := [(3, List.replicate q (.word 0))] }).modCore 1 fun k => { k with inbox := List.replicate i ⟨0, 3, 0, 0, 0, 256⟩ }
  (with1 s o, o)

/-- A `spawnc` to core 2. -/
def spawning (k : Ctx) (desc : Word) (tgt : Nat) : State × Op :=
  let o := { op .spawn 0x20000 .result with n := 2, exp := desc, tgt := tgt, more := [0, 0, 0, 0, 0, 0, 0, 0, 0] }
  (with1 (base.setCtx 2 0 k) o, o)

theorem witness_MessageSteps : (∀ p ∈ [(0, 0), (16, 0), (16, 16)], let s := (sent 256 p.1 p.2).1
      let o := (sent 256 p.1 p.2).2
      s.opById s.arg.id = some o ∧ o.kind = .send ∧ o.at_ = 0 ∧ (s.ops.any fun p => p.kind == .send && p.id != o.id) = false ∧ o.tgt = s.dev.devno ∧
        (s.threads.find? fun p => decide (p.2.st ≠ .empty) && thidOf p.2 == o.addr.toNat) = some (256 * 1 + 0, s.thread 1 0) ∧ (s.thread 1 0).leave = .no ∧ (s.thread 1 0).x = 0 ∧ shareOk (s.core 1).share 0 o.n 6 = true ∧
        (s.ctx 1 0).away = false ∧ (s.lease (s.ctx 1 0).l).area = [] ∧ (Table.get [] o.n (s.ctx 1 0).q).length = p.1 ∧ (s.core 1).inbox.length < 64 ∧ ((s.core 1).inbox.filter fun m => m.x == 0 && m.q == o.n).length = p.2) ∧
    (let o := { op .send 256 .none with n := 7 }; let s := with1 (base.modCore 1 fun k => { k with share := true }) o; s.opById 5 = some o ∧ shareOk (s.core 1).share 0 o.n 6 = false) ∧
    (let s := (sent 511 0 0).1; (s.allThreads.any fun t => thidOf t == 511) = false ∧ s.sched.launches = [] ∧ s.sched.abroad = [] ∧ 511 / 2 ^ 17 = s.dev.devno) ∧
    (let o := { op .send (9 * 2 ^ 17) .none with tgt := 9 }; let s := with1 base o; o.tgt ≠ s.dev.devno ∧ s.reach o.tgt = false) ∧
    (let o := { op .send 256 .none with at_ := 3 }; (with1 base o).opById 5 = some o ∧ o.exp.toNat ≤ (with1 base o).dev.clock ∧ (with1 base o).dev.clock < (256 : Word).toNat) ∧
    ((spawning {} 0 9).2.kind = .spawn ∧ (spawning {} 0 9).2.tgt ≠ 0 ∧ (spawning {} 0 9).1.reach 9 = false) ∧
    (let s := (spawning { placed := true } 0x8000000 0).1
     let r := (spawning { placed := true } 0x8000000 0).2.spawnReq 0
     jobMatch (s.ctx 2 0) r = true ∧ (s.ctx 2 0).away = false ∧ ((s.modHctx 0 fun h => { h with barred := true }).hctx 0).barred = true ∧ (s.hctx 0).barred = false ∧ bit r.desc 27 = true ∧ bit (s.ctx 2 0).caps.toNat 0 = false) ∧
    (let s := (spawning { placed := true } 0 0).1
     let r := (spawning { placed := true } 0 0).2.spawnReq 0
     jobMatch (s.ctx 2 0) r = true ∧ bit r.desc 27 = false ∧ s.freeSlot 2 0 = some 0) ∧
    (let o := { op .spawn 0x20000 .result with n := 2, more := [0, 0, 0, 0, 7] }
     let s := (List.range 16).foldl (fun s h => s.setThread 2 (240 + h) { st := .ready }) (with1 (base.setCtx 2 1 { placed := true }) o)
     jobMatch (s.ctx 2 1) (o.spawnReq 0) = true ∧ (o.spawnReq 0).bpri = 7 ∧ s.freeSlot 2 1 = none) := by decide +kernel

/-- A service of the thread; its value is 5. -/
def serving (ok : Bool) : State := { base.modCur fun t => { t with wait := .service 7 } with arg := { id := 256, m := 7, v := 5, ok := ok } }

def mailbox (f : Bool) : State := { base with full := if f then [0x3600000 + 8 * 5] else [], arg := { c := 1, v := 5 } }

/-- Which words a host context's mailbox range holds is a free value (log 15): a word past 65,535 is in none; of word 5 the statement asks that it be in the range, and nothing else is in the way. -/
theorem witness_ServiceAnswers : base.sched.down = false ∧ (∀ ok ∈ [true, false], (serving ok).find (serving ok).arg.id = some (1, 0) ∧ ((serving ok).thread 1 0).wait = .service (serving ok).arg.m ∧ (serving ok).arg.ok = ok) ∧
    (let s := { base with arg := { id := 256, m := 7 } }; s.find s.arg.id = some (1, 0) ∧ (s.thread 1 0).wait ≠ .service s.arg.m) ∧ mailboxOk base.askingHost 65536 = false ∧
    (∀ f ∈ [true, false], (0x3600000 + 8 * (mailbox f).arg.v.toNat ∈ (mailbox f).full ↔ f = true) ∧ Table.get [] (bankOf (0x3600000 + 8 * 5)) (mailbox f).bankWait = []) ∧
    (let s := { base with arg := { c := 1, v := 0x0080000000000100, w := 64 } }; spaceOf s.arg.v.toNat = some (.own 0 0x100) ∧ 0x100 + s.arg.w.toNat ≤ 0x100000 ∧ s.arg.w.toNat ≤ 4096) ∧
    (let n : Launch := { id := 3, st := .placed, q := 0, idx := 0, host := 9, pkt := 0, graph := 0, phase := 0, job := 0, est := 0 }
     let s := { base.modSched fun q => { q with launches := [n] } with arg := { c := 1, v := 1, w := 3 } }
     s.arg.v = 1 ∧ s.sched.launches.find? (fun m => m.id == s.arg.w.toNat) = some n ∧ n.host ≠ s.askingHost) ∧
    (let s := { base with arg := { c := 1, v := 2, w := 3 } }; levelIn s.arg.w.toNat ((s.hctx s.askingHost).level s.arg.v.toNat) = none) := by
  have e : mailboxOk base.askingHost 65536 = false := by simp [mailboxOk]
  refine ⟨rfl, by decide +kernel, by decide +kernel, e, by decide +kernel, by decide +kernel, by decide +kernel, by decide +kernel⟩

end Sys2Proof.Tests
end

