-- ==== Sys2Proof/Tests/Witness8.lean ====
section
/-! SUPPORT. States that meet the hypotheses of the statements: engines, keyed pairs, fixed lines, barriers and ropes at work, queues and launches. -/

namespace Sys2Proof.Tests

set_option Elab.async false

open Sys2Proof Sys2Proof.Machine Sys2Proof.Claims

/-- A command of thread 0 of core 1. -/
def cmd (id eng : Nat) (i : Instr) (run : Bool) : Cmd :=
  { id := id, eng := eng, core := 1, slot := 0, x := 0, ts := 2, ns := false, tseq := 0, fpc := 0, seed := 0, ins := i, a := 0, b := 0, thid := 256, pc := 0, ws := 0, running := run, steps := 1 }

/-- Commands of core 1, and a step about the one numbered 5. -/
def engines (l : List Cmd) (k : List Lock) : State := { base.modCore 1 fun q => { q with cmds := l, locks := k } with arg := { c := 1, id := 5 } }

theorem witness_EngineSteps : (∀ m ∈ [cmd 5 1 (.accz 0 noTail) true, { cmd 5 1 (.accz 0 noTail) true with cancelled := true }], let s := engines [m] []
      s.cmd s.arg.c s.arg.id = some m ∧ m.core = s.arg.c ∧ m.id = s.arg.id ∧ (s.ctx m.core m.x).away = false ∧ m.running = true ∧ m.step % 16 = 0) ∧
    (let m := cmd 5 0 (.tzero 16 3 noTail) false
     let o := cmd 4 0 (.tzero 16 3 noTail) false
     let s := engines [o, m] []
     atCommand s m ∧ m.running = false ∧ o ∈ (s.core m.core).cmds ∧ o.id < m.id ∧ o.eng = m.eng ∧ (s.ctx m.core o.x).away = false ∧ o.running = false) ∧
    (let m := cmd 5 0 (.tzero 16 3 noTail) false
     let s := engines [m] []
     atCommand s m ∧ (∀ o ∈ (s.core m.core).cmds, o.id < m.id → o.eng = m.eng → (s.ctx m.core o.x).away = false → o.running = true) ∧ ((s.core m.core).cmds.filter fun o => o.eng == m.eng && o.running).length < portRuns m.eng) ∧
    (let m := { cmd 5 1 (.mvs 16 17 1 2 0 noTail) false with args := [0, 1, 2] }
     let s := engines [m] []
     atCommand s m ∧ m.n 1 = 1 ∧ Table.get 0#32 (m.n 2) (s.ctx m.core m.x).lc = 0 ∧ (s.thread m.core m.slot).st ≠ .empty ∧ ((s.core m.core).cmds.filter fun o => o.eng == m.eng && o.running).length < portRuns m.eng) ∧
    (let m := { cmd 5 1 (.accz 0 noTail) true with args := [0] }
     let s := engines [m] []
     atCommand s m ∧ runs s m ∧ m.steps = 1 ∧ m.step = 0 ∧ m.args = [(0 : BitVec 2).toNat] ∧ (s.thread m.core m.slot).st ≠ .empty) ∧
    (let m := { cmd 5 0 (.tzero 16 3 noTail) true with args := [3] }; atCommand (engines [m] []) m ∧ runs (engines [m] []) m ∧ m.args = [(3 : BitVec 4).toNat]) ∧
    (let m := cmd 5 0 (.tld 16 17 0 noTail) true
     let s := engines [m] [⟨5, false, 0, 0, 0, 0, 63⟩, ⟨4, true, 0, 0, 0, 0, 63⟩]
     atCommand s m ∧ m.running = true ∧ m.cancelled = false ∧ (s.core m.core).lockWait m.id = true) ∧
    (let m := { cmd 5 0 (.tld 16 17 0 noTail) true with args := [0, 64, 0, 16] }
     let s := { engines [m] [] with poison := [(spKey 1 0x100, 1)] }
     atCommand s m ∧ runs s m ∧ (s.eccIn (s.stepReads m)).isSome = true) := by
  unfold atCommand runs; and_intros <;> decide +kernel

/-- Core 1 with a coalescing buffer for core 2; a flit of one pair for core 1's bins, which take keys 0 to 3. -/
def pairs (key : BitVec 32) (l : List (Nat × Flight)) : State :=
  let s := (base.modCore 1 fun k => { k with coal := [(2, 0, [(1, 7)])] }).modCtx 1 0 fun k => { k with bins := { valid := true, count := 4, boff := 0x400 } }
  { s with flights := if l = [] then [(9, .keyed 2 1 0 1 [(key, 5)])] else l, arg := { id := 9, c := 1, n := 2 }, dev := { s.dev with clock := 600 } }

theorem witness_KeyedSteps : ((pairs 0 []).core 1).coal.find? (fun b => b.1 == (pairs 0 []).arg.n && b.2.1 == (pairs 0 []).arg.x) = some (2, 0, [(1, 7)]) ∧ 2 / 512 = (pairs 0 []).dev.devno ∧
    Table.get 0 (2 * 2 + 0) ((pairs 0 []).core 1).coalClk + 512 ≤ (pairs 0 []).dev.clock ∧ base.dev.clock < Table.get 0 4 (base.core 1).coalClk + 512 ∧
    (pairs 3 []).flights = [(9, .keyed 2 1 0 ((pairs 3 []).ctx 1 0).l [(3, 5)])] ∧ ((pairs 3 []).ctx 1 0).placed = true ∧ ((pairs 3 []).ctx 1 0).away = false ∧
    (pairs 4 []).flights = [(9, .keyed 2 1 0 ((pairs 4 []).ctx 1 0).l [(4, 5)])] ∧ ((pairs 4 []).ctx 1 0).placed = true ∧ ((pairs 4 []).ctx 1 0).away = false ∧
    ((pairs 3 []).ctx 1 0).bins.slot 3 = some 0x40C ∧ (pairs 3 []).pairsWait 1 0 [(3, 5)] = false ∧ ((pairs 4 []).ctx 1 0).bins.slot 4 = none ∧
    (let s := pairs 0 [(8, .keyed 2 1 0 1 []), (9, .keyed 2 1 0 1 [(3, 5)])]; 8 ≠ s.arg.id ∧ s.flights.find? (fun f => f.1 == s.arg.id) = some (s.arg.id, .keyed 2 1 0 1 [(3, 5)])) := by decide +kernel

/-- Core 1 with an open BATCH window, its update queues as given. -/
def lining (out inq : List Update) (b : Bool) : State :=
  let s := base.modCore 1 fun k => { k with batch := if b then [(0, 0)] else [], outq := out, inq := inq, src := if b then [(0, { v := true, batch := true, peer := 2, len := 1 })] else [] }
  { s with arg := { c := 1 }, dev := { s.dev with clock := 200 } }

def upd : Update := ⟨2, 0, 1, 0, []⟩

theorem witness_FixedLineSteps : ((0, 0) ∈ ((lining [] [] true).core 1).batch ∧ Table.get 0 0 ((lining [] [] true).core 1).batchClk + 2 * 64 ≤ (lining [] [] true).dev.clock ∧ ((lining [] [] true).core 1).outq.length < 128) ∧
    base.dev.clock < Table.get 0 0 (base.core 1).batchClk + 2 * 64 ∧ 128 ≤ ((lining (List.replicate 128 upd) [] true).core 1).outq.length ∧
    (let s := lining [upd] [] false; (s.core 1).inq = [] ∧ (s.core 1).outq = upd :: [] ∧ upd.dst ≠ s.arg.c ∧ (s.core upd.dst).inq.length < 32) ∧
    (let s := (lining [upd] [] false).modCore 2 fun k => { k with inq := List.replicate 32 upd }; 32 ≤ (s.core upd.dst).inq.length) ∧
    (let s := lining [] [upd] false; (s.core 1).inq = [upd] ∧ (s.core 1).outq = [] ∧ (s.core 1).src = [] ∧ (Table.get {} upd.entry (s.core 1).sub).off + upd.off < 0x100000) := by decide +kernel

/-- Register 1 of core 1's context covers core 1 alone; a flight as given. -/
def sweeping (f : List Flight) (arr : Bool) : State :=
  let s := (if arr then base.modCur fun t => { t with arr := some ⟨1, 1, false, 0, 0⟩ } else base).modCtx 1 0 fun k => { k with bg := [(1, 0x80000000 + 1 * 16 + 1 * 512 + 1 * 16384)] }
  { s with flights := f.map fun x => (9, x), arg := { c := 1, n := 1, id := if f = [] then 0 else 9 } }

theorem witness_BarrierSteps : (let s := sweeping [.arrive 0 2 1 0 1 0 []] false
      s.arg.id ≠ 0 ∧ s.flights.find? (fun f => f.1 == s.arg.id) = some (s.arg.id, .arrive 0 2 1 0 1 0 []) ∧ s.barrierHere 0 1 0 = true ∧ bgKey ((s.ctx 1 0).bgv 1) ≠ 0) ∧
    (let r := bgKey (((sweeping [] false).ctx 1 0).bgv 1)
     let s := sweeping [.arrive 0 2 1 0 1 r []] false
     s.flights.find? (fun f => f.1 == s.arg.id) = some (s.arg.id, .arrive 0 2 1 0 1 r []) ∧ s.barrierHere 0 1 0 = true ∧ bgKey ((s.ctx 1 0).bgv 1) = r ∧ Table.get 0 1 (s.ctx 1 0).barSent = 0) ∧
    (let s := sweeping [] true; s.arg.id = 0 ∧ s.coreArrives 1 0 1 = true ∧ (s.core 1).batch = [] ∧ (s.core 1).outq.length ≤ 128 ∧ sweepFrom ((s.ctx 1 0).bgv 1) 1 = []) ∧ (sweeping [] false).coreArrives 1 0 1 = false ∧
    (let s := sweeping [.release 0 1 0 1 0 [(64, 3)]] true
     s.flights.find? (fun f => f.1 == s.arg.id) = some (9, .release 0 1 0 1 0 [(64, 3)]) ∧ s.barrierHere 0 1 0 = true ∧ s.linesCaughtUp 1 [(64, 3)] = true ∧ (s.ctx 1 0).replayable = false ∧
       (s.modCore 1 fun k => { k with sub := [(0, { v := true, seq := 2 })] }).linesCaughtUp 1 [(64, 3)] = false) := by decide +kernel

/-- Rope 5 with one contribution of member 0. -/
def contributing (st : Nat) (p : List RPend) (len : Nat) : State := { base.modRope 5 fun _ => { st := st, n := 2, q := 2, len := len, owner := 1, pend := p } with arg := { id := 5, m := 0, n := 0 } }

theorem witness_RopeSteps : (let p : RPend := { m := 0, dev := 0, op := 7, bytes := [] }
      let s := contributing 2 [p] 1
      (s.rope 5).pend.find? (fun p => p.m == s.arg.m) = some p ∧ s.pendRoom 5 p = true ∧ (contributing 2 [p] 0).pendRoom 5 p = false ∧ p.wrote ≤ s.arg.n) ∧
    (let p : RPend := { m := 0, dev := 0, op := 7, bytes := [], wrote := 2 }
     let s := contributing 2 [p] 2
     (s.rope 5).pend.find? (fun p => p.m == s.arg.m) = some p ∧ s.arg.n < p.wrote ∧ s.arg.n ∉ p.acked ∧ 1 < (s.rope 5).needed ∧ 1 ≠ s.arg.n ∧ 1 ∉ p.acked) ∧
    (let p : RPend := { m := 0, dev := 0, op := 7, bytes := [], wrote := 1 }
     let s := contributing 2 [p] 1
     (s.rope 5).pend = [p] ∧ p.m = s.arg.m ∧ p.counted = false ∧ (s.rope 5).st = 2 ∧ s.arg.n < p.wrote ∧ s.arg.n ∉ p.acked ∧ (∀ i < (s.rope 5).needed, i = s.arg.n ∨ i ∈ p.acked) ∧ (s.rope 5).arrived + 1 < (s.rope 5).q ∧
       p.dev = s.dev.devno ∧ s.opById p.op = none) ∧
    (let p : RPend := { m := 0, dev := 0, op := 7, bytes := [], wrote := 1, counted := true }
     let s := contributing 2 [p] 1
     (s.rope 5).pend.find? (fun p => p.m == s.arg.m) = some p ∧ p.counted = true ∧ s.arg.n < p.wrote ∧ s.arg.n ∉ p.merged ∧ (s.rope 5).fill ≠ 2) ∧
    (let s := contributing 3 [] 1; (s.rope 5).st = 3 ∧ (s.rope 5).pend = [] ∧ (s.rope 5).fill = 0 ∧ (s.rope 5).away = []) ∧ ((contributing 2 [] 1).rope 5).st ≠ 3 := by decide +kernel

/-- A packet from its fields: byte and value. -/
def packet (l : List (Nat × Nat)) : BitVec 512 := BitVec.ofNat 512 (l.map fun p => p.2 * 2 ^ (8 * p.1)).sum

/-- Queue 0 with one packet to read, the firmware running; the queue and the host context as changed. -/
def queue (p : List (Nat × Nat)) (f : SubQ → SubQ) : State :=
  let s := (base.modSubq 0 fun _ => f { en := true, kicked := true, tail := 1 }).modDev fun d => { d with bootState := 2 }
  { s with arg := { n := 0, pkt := packet p } }

theorem witness_QueueSteps : (let s := { queue [] id with arg := { v := 0x200000000 } }
      (s.subq 0).en = true ∧ s.dev.bootState = 2 ∧ (bits s.arg.v.toNat 32 32 + 2 ^ 32 - (s.subq 0).head) % 2 ^ 32 ≤ 2 ^ (s.subq 0).sz ∧
        ((s.subq 0).tail + 2 ^ 32 - (s.subq 0).head) % 2 ^ 32 ≤ (bits s.arg.v.toNat 32 32 + 2 ^ 32 - (s.subq 0).head) % 2 ^ 32) ∧
    (let s := { queue [] id with arg := { v := 0x4000000000 } }; 2 ^ (s.subq 0).sz < (bits s.arg.v.toNat 32 32 + 2 ^ 32 - (s.subq 0).head) % 2 ^ 32 ∧ (s.hctx 0).guilt < s.dev.glim ∧ s.dev.glim < 255) ∧ base.dev.bootState ≠ 2 ∧
    (let s := { queue [] (fun k => { k with en := false }) with arg := { v := 0x0064000A00840000 } }
     (s.subq 0).en = false ∧ (s.subq 0).pkts = [] ∧ 4 ≤ bits s.arg.v.toNat 16 5 ∧ bits s.arg.v.toNat 16 5 ≤ 16 ∧ 10 ≤ bits s.arg.v.toNat 32 16 ∧ 100 ≤ bits s.arg.v.toNat 48 16 ∧ bit s.arg.v.toNat 23 = true) ∧
    (let s := queue [(0, 9)] id; s.mayTake 0 = true ∧ (s.subq 0).pkts = [] ∧ 8 < pktN s.arg.pkt 0 1 ∧ (s.hctx 0).guilt < s.dev.glim ∧ s.dev.glim < 255) ∧
    (∀ n ∈ [0, 1], fetched (queue [(0, 8), (8, n)] id) 8 ∧ (zeroBytes (packet [(0, 8), (8, n)]) 8 64 = decide (n = 0))) ∧
    (fetched (queue [(0, 4), (8, 0x1000), (16, 7)] id) 4 ∧ pktN (packet [(0, 4), (8, 0x1000), (16, 7)]) 8 8 % 8 = 0 ∧ zeroBytes (packet [(0, 4), (8, 0x1000), (16, 7)]) 24 64 = true) ∧
    (∀ n ∈ [0, 9], fetched (queue [(0, 5), (8, n)] id) 5 ∧ zeroBytes (packet [(0, 5), (8, n)]) 16 64 = true ∧ (pktN (packet [(0, 5), (8, n)]) 8 8 ≤ (queue [(0, 5), (8, n)] id).now ↔ n = 0)) ∧
    (let h : Held := ⟨0, packet [(0, 5)], false⟩
     let s := queue [] fun k => { k with pkts := [h], hold := 3 }
     (s.subq 0).unstarted = some h ∧ (s.subq 0).pkts = [h] ∧ (s.subq 0).hold = 3 ∧ s.sched.down = false ∧ pktN h.pkt 0 1 = 5 ∧ pktN h.pkt 8 8 ≤ s.now ∧ s.now < pktN (packet [(0, 5), (8, 9)]) 8 8) ∧
    (∀ n ∈ [5, 6, 11], fetched (queue [(0, 6), (8, n)] id) 6 ∧ pktN (packet [(0, 6), (8, n)]) 8 1 = n ∧ zeroBytes (packet [(0, 6), (8, n)]) 9 64 = true) ∧
    (let s := queue [(0, 6), (8, 5)] fun k => { k with pkts := [⟨9, 0, true⟩] }; fetched s 6 ∧ (s.subq 0).pkts ≠ []) ∧
    (fetched (queue [(0, 2), (8, 5)] id) 2 ∧ pktN (packet [(0, 2), (8, 5)]) 12 1 < 2 ∧ zeroBytes (packet [(0, 2), (8, 5)]) 13 64 = true ∧ ((queue [(0, 2), (8, 5)] id).subq 0).hold = 0) ∧
    (fetched (queue [(0, 3), (8, 5), (16, 7)] id) 3 ∧ zeroBytes (packet [(0, 3), (8, 5), (16, 7)]) 12 16 = true ∧ zeroBytes (packet [(0, 3), (8, 5), (16, 7)]) 24 64 = true) ∧
    (let p := packet [(0, 7), (8, 2), (12, 3)]
     fetched (queue [(0, 7), (8, 2), (12, 3)] id) 7 ∧ 2 ≤ pktN p 8 1 ∧ pktN p 8 1 ≤ 4 ∧ zeroBytes p 9 12 = true ∧ zeroBytes p 16 64 = true ∧ levelIn (pktN p 12 4) ((base.hctx 0).level 2) = none) := by
  unfold fetched; and_intros <;> decide +kernel

/-- An image of one nop pair: header, and 8 bytes of text. -/
def image : List Byte :=
  toBytes 4 0x4F4C5341 ++ toBytes 2 3 ++ toBytes 2 0 ++ toBytes 4 64 ++ toBytes 4 8 ++ toBytes 12 0 ++ toBytes 2 1 ++ toBytes 4 0 ++ toBytes 2 4 ++ toBytes 12 0 ++ toBytes 16 0x4A80D9B72D99560090798E8DC419111 ++ toBytes 8 0

/-- A LAUNCH packet for that image on one core of row 0, and the page table under which it stands at 0x200000. -/
def launching (col est : Nat) (f : Dev → Dev) : State :=
  let s := ((queue [(0, 1), (8, 0x200000), (17, col), (18, 1), (19, 1), (20, est)] id).put 0x40000 (toBytes 8 31)).put 0x200000 image
  { s.modDev f with arg := { s.arg with addr := 0x20 } }

/-- Launch `id` in a state, with that packet. -/
def launched (id col : Nat) (st : LState) (t2 : Nat) : State :=
  let s := launching col 0 fun d => d
  let n : Launch := { launchRead s with id := id, st := st, t2End := t2 }
  { s.modSched fun q => { q with launches := [n] } with arg := { id := id } }

theorem witness_LaunchSteps : (let s := launching 2 0 id
      fetched s 1 ∧ zeroBytes s.arg.pkt 30 32 = true ∧ s.launchOk (launchRead s) (s.subq 0).iclass = true ∧ (s.sched.launches.all fun m => m.q != 0 || m.idx != (launchRead s).idx) = true ∧
        s.sched.launches.all (fun m => m.id != (launchRead s).id) = true ∧ s.running = [] ∧ unitCancelled (s.hctx 0) s.arg.pkt = false ∧ (openUnits (s.hctx 0) s.arg.pkt).isSome = true ∧ (s.subq 0).hold = 0 ∧
        min (launchRead s).est s.dev.bud ≤ s.dev.erem) ∧
    (let s := launching 2 5000 fun d => { d with erem := 0 }
     fetched s 1 ∧ s.launchOk (launchRead s) (s.subq 0).iclass = true ∧ s.dev.erem < min (launchRead s).est s.dev.bud ∧ ((s.takeSlot 0 s.arg.pkt 1).kern (launchRead s)).1.bpri ≠ 7) ∧
    (let s := launched 3 2 .waiting 0
     ∃ m, s.launch s.arg.id = some m ∧ m.st = .waiting ∧ s.arg.pairs = [] ∧ s.sched.down = false ∧ s.resident m = true ∧ s.dev.thermHold = false ∧ (levelOpen 256 1 m.id (s.hctx m.host).launches).isSome = true ∧ m.after = [] ∧ s.freeL = some 0 ∧ s.running = [] ∧ rectOf m.pkt = [2] ∧ s.coreRoom (s.kern m).1 2 = true) ∧
    (let s := (launched 3 1 .waiting 0).modSched fun q => { q with lease := (List.range 256).map fun i => (i, { used := true }) }
     s.arg.ok = false ∧ s.freeL = none ∧ ∃ m, s.launch s.arg.id = some m ∧ m.q < 1024 ∧ 1 ∈ rectOf m.pkt ∧ s.coreRoom (s.kern m).1 1 = false) ∧
    (base.now / (base.dev.win * 1000) = base.dev.ewin ∧ base.now / (base.dev.win * 1000) ≠ (base.modDev fun d => { d with ewin := 1 }).dev.ewin) ∧
    (let s := launched 3 2 .draining 0; ∃ m, s.launch s.arg.id = some m ∧ m.st = .draining ∧ s.placesOf s.arg.id = [] ∧ s.drained s.arg.id = true) ∧ base.drained 0 = false ∧
    (let s := launched 3 2 .saving 0; ∃ m, s.launch s.arg.id = some m ∧ m.id = s.arg.id ∧ m.st = .saving ∧ s.placesOf s.arg.id = [] ∧ m.t2End ≤ s.now) ∧
    (let s := (launched 0 2 .saving 9).modThread 1 0 fun t => { t with st := .arriving }; ∃ m, s.launch s.arg.id = some m ∧ (1, 0) ∈ s.placesOf s.arg.id ∧ s.saveReady 1 0 = false ∧ s.now < m.t2End) ∧
    (base.sched.heldComps = [] ∧ base.dev.roles.find? (fun r => r.1 == 0 && r.2.1 == 1) = some (0, 1, 0) ∧ base.dev.roles.find? (fun r => r.2.1 == 2 && r.2.2 == 0) = some (32, 2, 0)) := by
  unfold fetched
  refine ⟨?_, ?_, ⟨_, rfl, ?_⟩, ⟨?_, ?_, _, rfl, ?_⟩, ?_, ⟨_, rfl, ?_⟩, ?_, ⟨_, rfl, ?_⟩, ⟨_, rfl, ?_⟩, ?_⟩ <;> decide +kernel

end Sys2Proof.Tests
end

