-- ==== Sys2Proof/Tests/Witness9.lean ====
section
/-! SUPPORT. States that meet the hypotheses of the statements: management channels, time, control space, the host's link, the device, the fabric. -/

namespace Sys2Proof.Tests

set_option Elab.async false

open Sys2Proof Sys2Proof.Machine Sys2Proof.Claims

/-- Channel 1 as given, and a step about it. -/
def channel (f : Chan → Chan) (a : Arg) : State := { base.modChan 1 f with arg := { a with m := 1 } }

theorem witness_ChannelRegisters : (let s := channel id { v := 5 }; (itsChan s).replies = [] ∧ s.arg.m ≠ 0) ∧
    (let s := channel (fun k => { k with en := true, replies := [[1, 2]] }) { v := 0 }
     (itsChan s).en = true ∧ (itsChan s).replies = [[1, 2]] ∧ chanRoom { itsChan s with rhead := s.arg.v.toNat % 2 ^ 32 } 2 = true ∧ (itsChan s).rtail % 2 ^ (itsChan s).sz + 2 ≤ 2 ^ (itsChan s).sz) ∧
    (let s := channel id { v := 0x8C0000 }; (itsChan s).en = false ∧ (itsChan s).replies = [] ∧ 12 ≤ bits s.arg.v.toNat 16 5 ∧ bits s.arg.v.toNat 16 5 ≤ 24) ∧
    (let s := channel id { v := 0x840000 }; (itsChan s).en = false ∧ bits s.arg.v.toNat 16 5 < 12) ∧
    (let s := channel (fun k => { k with en := true }) { v := 0x8C0000 }; (itsChan s).en = true ∧ bit s.arg.v.toNat 23 = true) ∧
    (let s := channel (fun k => { k with en := true }) { v := 0x100000 }
     (itsChan s).en = true ∧ bit s.arg.v.toNat 23 = false ∧ bits s.arg.v.toNat 16 5 = (itsChan s).sz ∧ bit s.arg.v.toNat 8 = (itsChan s).admin ∧ bits s.arg.v.toNat 0 8 = (itsChan s).ctx) := by decide +kernel

/-- A request of `n` bytes on channel 1, which is the administrator's or not. -/
def request (admin : Bool) (l : List Byte) (a : Arg) : State := channel (fun k => { k with en := true, admin := admin, tail := 4096 }) { a with bytes := l }

def managed (n : Launch) (s : State) : State := s.modSched fun q => { q with launches := [n] }

def someLaunch (st : LState) : Launch := { id := 3, st := st, q := 0, idx := 0, host := 0, pkt := 0, graph := 0, phase := 0, job := 0, est := 0, back := true }

theorem requested_of {s : State} {i n : Nat} (h : s.arg.bytes.length = n ∧ (s.request s.arg.m n).map Prod.fst = some i) : requested s i n := by
  obtain ⟨h, e⟩ := h
  obtain ⟨⟨j, r⟩, e, f⟩ := Option.map_eq_some_iff.mp e
  exact ⟨h, r, by rw [e]; simpa using f⟩

theorem witness_ManagementRequests : (let s := request true (List.replicate 24 0) { x := 7 }; requested s 0 24 ∧ roomy s 1 24 ∧ 7 ≤ s.arg.x ∧ s.arg.x < 0x8000) ∧ (let s := request true (List.replicate 24 0) {}; requested s 0 24 ∧ s.arg.x = 0 ∧ s.arg.ok = false) ∧
    (let s := request false (toBytes 4 9 ++ toBytes 4 0) {}; requested s 0 8 ∧ roomy s 1 24 ∧ s.arg.x = 0 ∧ s.arg.ok = false ∧ s.named = none) ∧
    (let s := request true (List.replicate 8 0) {}; requested s 0 8 ∧ roomy s 1 32 ∧ s.named = some []) ∧
    (let n := someLaunch .placed
     let s := managed n (request true (toBytes 4 0 ++ toBytes 4 3) {})
     requested s 0 8 ∧ roomy s 1 24 ∧ s.named = some [n] ∧ n.st = .placed ∧ s.launch n.id = some n) ∧
    (let n := someLaunch .saved
     let s := managed n (request true [] { id := 3, ok := true })
     s.arg.ok = true ∧ s.launch s.arg.id = some n ∧ n.st = .saved ∧ n.back = true ∧ ∃ r, s.resumeLaunch n = (r, true)) ∧
    (let s := request true (toBytes 8 5 ++ toBytes 8 0) {}; requested s 0 16 ∧ roomy s 1 24 ∧ s.arg.ok = false ∧ (sInt 64 (ofBytes (slice s.arg.bytes 0 8))).natAbs ≤ 1000000 ∧ s.dev.trim = 0) ∧
    (let s := request true (toBytes 8 2000000 ++ toBytes 8 0) {}; requested s 0 16 ∧ 1000000 < sInt 64 (ofBytes (slice s.arg.bytes 0 8))) ∧
    (let s := request true [] { ok := true }; requested s 0 0 ∧ roomy s 1 24 ∧ s.arg.ok = true) ∧ (let s := request true [] {}; requested s 0 0 ∧ roomy s 1 24 ∧ s.arg.ok = false) ∧
    (∀ n < 8, Table.get 0 n base.dev.corrected = Table.get 0 n base.dev.correctedSent) ∧
    (let s := (base.modChan 0 fun k => { k with en := true }).modDev fun d => { d with corrected := [(3, 2)] }; Table.get 0 3 s.dev.corrected ≠ Table.get 0 3 s.dev.correctedSent ∧ roomy s 0 64) := by
  unfold roomy
  refine ⟨⟨requested_of ?_, ?_⟩, ⟨requested_of ?_, ?_⟩, ⟨requested_of ?_, ?_⟩, ⟨requested_of ?_, ?_⟩, ⟨requested_of ?_, ?_⟩, ⟨?_, ?_, ?_, ?_, _, rfl⟩, ⟨requested_of ?_, ?_⟩, ⟨requested_of ?_, ?_⟩, ⟨requested_of ?_, ?_⟩, ⟨requested_of ?_, ?_⟩, ?_, ?_⟩
  all_goals decide +kernel

/-- A ring that holds any reply of `n` bytes, with a request of `m` bytes in it: what ATTEST and PUBKEY answer has no length that the spec states. -/
def wide (n m : Nat) : State := channel (fun k => { k with en := true, tail := 4096, sz := n + 64 }) { bytes := List.replicate m 0 }

theorem witness_AttestRoom : let s := wide (24 + (base.reportHead (List.replicate 32 0)).length + 1536) 32
    requested s 0 32 ∧ roomy s 1 (24 + (s.reportHead s.arg.bytes).length + 1536) := by
  have e : (wide (24 + (base.reportHead (List.replicate 32 0)).length + 1536) 32).reportHead (wide (24 + (base.reportHead (List.replicate 32 0)).length + 1536) 32).arg.bytes = base.reportHead (List.replicate 32 0) := rfl
  simp only [e]
  generalize (base.reportHead (List.replicate 32 0)).length = n at *
  have h := Nat.lt_two_pow_self (n := 24 + n + 1536 + 64)
  refine ⟨⟨rfl, ?_⟩, rfl, rfl, ?_, ?_⟩
  · have e : (wide (24 + n + 1536) 32).chan 1 = { en := true, tail := 4096, sz := 24 + n + 1536 + 64 } := rfl
    have m : (wide (24 + n + 1536) 32).arg.m = 1 := rfl
    simp only [State.request, m, e, Nat.zero_mod, Nat.zero_add]
    rw [if_neg (show ¬ 2 ^ (24 + n + 1536 + 64) < 8 + 32 by omega), if_neg (by simp; omega)]
    exact ⟨_, rfl⟩
  · have e : (wide (24 + n + 1536) 32).chan 1 = { en := true, tail := 4096, sz := 24 + n + 1536 + 64 } := rfl
    simp only [chanRoom, e, Nat.zero_mod, Nat.zero_add]
    rw [if_neg (by omega)]; simp; omega
  · have e : (wide (24 + n + 1536) 32).chan 1 = { en := true, tail := 4096, sz := 24 + n + 1536 + 64 } := rfl
    simp only [e, Nat.zero_mod]; omega

theorem witness_PubkeyRoom : let s := wide (24 + (Config.publicKey.length + 9) / 8 * 8) 0
    requested s 0 0 ∧ roomy s 1 (24 + (Config.publicKey.length + 9) / 8 * 8) := by
  generalize 24 + (Config.publicKey.length + 9) / 8 * 8 = n
  have h := Nat.lt_two_pow_self (n := n + 64)
  have e : (wide n 0).chan 1 = { en := true, tail := 4096, sz := n + 64 } := rfl
  have m : (wide n 0).arg.m = 1 := rfl
  refine ⟨⟨rfl, ?_⟩, rfl, rfl, ?_, ?_⟩
  · simp only [State.request, m, e, Nat.zero_mod, Nat.zero_add]
    rw [if_neg (show ¬ 2 ^ (n + 64) < 8 by omega), if_neg (by simp; omega)]
    exact ⟨_, rfl⟩
  · simp only [chanRoom, e, Nat.zero_mod, Nat.zero_add]
    rw [if_neg (by omega)]; simp; omega
  · simp only [e, Nat.zero_mod]; omega

/-- Core 1 alone, tracing, its thread of slot 5 having issued. -/
def tracing (st left : Nat) (x : Bool) : State :=
  { State.reset with cores := [(1, { trState := st, trLeft := left, trXarm := x, issued := some (5, 0) })], arg := { c := 1 } }

theorem witness_CycleSteps : ((base.thread 1 0).st = .ready ∧ (base.core 1).issued.map Prod.fst ≠ some 0) ∧ (∃ k, base.ctxs = [(2 * 1 + 0, k)] ∧ k.placed = true ∧ k.cnt.sel = [] ∧ k.cnt.capEn = false) ∧
    (let s := tracing 1 0 false
     s.cores.map Prod.fst = [1] ∧ s.ctxs = [] ∧ (s.core 1).trState = 1 ∧ (s.core 1).issued = some (5, 0) ∧ s.fwd ((s.core 1).trBase + 2 * ((s.core 1).trIdx % 65536)) = (s.core 1).trBase + 2 * ((s.core 1).trIdx % 65536)) ∧
    (let s := { base.modCtx 1 0 fun k => { k with cnt := { capEn := true, capIval := 1, capAge := 1024 } } with arg := { c := 1 } }
     let n := (s.ctx s.arg.c s.arg.x).cnt
     n.capEn = true ∧ 1024 * n.capIval ≤ n.capAge) ∧ (base.ctx 1 0).cnt.capEn = false := by
  refine ⟨?_, ⟨_, rfl, rfl, rfl, rfl⟩, ?_, ?_, ?_⟩ <;> decide +kernel

theorem witness_TimeSteps : (let s := { base with arg := { v := 0xFFFFFFFFFFFFFFFF } }; s.arg.v.toInt < 0 ∧ s.dev.owed = 0 ∧ s.dev.active = true) ∧ (let s := { base with arg := { v := 5 } }; 0 ≤ s.arg.v.toInt) ∧
    (let s := base.modDev fun d => { d with owed := 2 ^ 36 }; (10 * (2 ^ 32 + s.dev.trim)).toNat / 2 ≤ s.dev.owed) := by
  decide +kernel

theorem witness_TraceSteps : ((tracing 1 0 true).core 1).trState = 1 ∧ ((tracing 1 0 true).core 1).trXarm = true ∧ ((tracing 1 0 false).core 1).trXarm = false ∧ ((tracing 2 0 false).core 1).trState = 2 ∧
    ((tracing 2 0 false).core 1).trLeft = 0 ∧ ((tracing 2 3 false).core 1).trLeft ≠ 0 ∧ bits 1 32 16 = 0 ∧ base.dev.xFired = false ∧ (base.modDev fun d => { d with xFired := true }).dev.xFired = true := by decide +kernel

/-- Thread 0 of core 1 parked on barrier register 1, or not; a write to that register. -/
def guarded (b : Bool) (v : Word) : State :=
  { (if b then base.modCur fun t => { t with wait := .barrier, arr := some ⟨1, 1, false, 0, 0⟩ } else base) with arg := { c := 1, n := 1, v := v } }

theorem witness_ControlWrites : ((firmware .halt).thread 1 0).wait = .halt ∧ (guarded true 0).inBar 1 0 1 = true ∧
    (let s := guarded false 0x80004210; s.inBar 1 0 1 = false ∧ s.arg.n < 16 ∧ (bgWrite (s.ctx 1 0) 1 1 s.arg.v.toNat).isSome = true) ∧
    (let s := guarded false 0x80000000; s.inBar 1 0 1 = false ∧ bgWrite (s.ctx 1 0) 1 1 s.arg.v.toNat = none) ∧
    (let s := { base with arg := { addr := 0x00FF00000013F000, bytes := toBytes 8 0 } }; s.arg.addr % 8 = 0 ∧ s.arg.bytes.length = 8 ∧ (ctlEvent s.arg.addr (BitVec.ofNat 64 (ofBytes s.arg.bytes))).isSome = true) ∧
    (let s := { base with arg := { addr := bootKey 0x100, bytes := toBytes 8 9 } }; s.arg.addr = bootKey 0x100 ∧ 0x100 < 0x1000000 ∧ 0x100 % 8 = 0 ∧ s.arg.bytes.length = 8) ∧
    (let s := { base.modDev fun d => { d with portUp := 1 } with arg := { n := 5 } }; s.arg.n / 8192 = s.dev.rtInj ∧ s.dev.portUp ≠ 0) ∧
    (let s := { base.modDev fun d => { d with occ := [(1, 2)] } with arg := { n := 8197 } }; s.arg.n / 8192 ≠ s.dev.rtInj ∧ Table.get 0 (s.arg.n / 8192) s.dev.occ ≠ 0) ∧
    (let s := { base with arg := { n := 5, m := 1, v := 0x8003 } }; s.arg.m = 1 ∧ s.arg.n / 8192 = s.dev.rtInj ∧ s.dev.portUp = 0) ∧
    (let s := { base with arg := { n := 8197, m := 1, v := 0x8003 } }; s.arg.m = 1 ∧ s.arg.n / 8192 ≠ s.dev.rtInj ∧ Table.get 0 (s.arg.n / 8192) s.dev.occ = 0) := by
  decide +kernel

/-- An aperture over base-camp offset 0, which a grant of launch context 1 opens. -/
def opened (a : Arg) : State :=
  let s := (base.modLease 1 fun _ => { used := true, grants := [⟨0, 0x1000, 7, true⟩] }).modSched fun q => { q with apert := [(0, BitVec.ofNat 128 (1 + 15 * 2 ^ 60 + 0x0083000000000000 / 4096 * 2 ^ 76))] }
  { s with arg := a }

def hostOp (k : OpKind) : Op := { op k 0x0084000000000100 .result with at_ := 1 }

/-- A posted write, a read or an AtomicOp of the host through the aperture, to what it opens and to what it does not. -/
theorem witness_HostLink : (let s := { base with laterSteps := [⟨.bgWrite, {}⟩], arg := { bytes := [1] } }; s.postedWaits = true ∧ s.arg.bytes.length ≠ 0) ∧
    (let s := opened { m := 2, addr := 0x100, bytes := toBytes 8 7 }; s.postedWaits = false ∧ s.arg.bytes.length = 8 ∧ match s.aperture s.arg.addr 8 1 with | .keys l => l = [(campKey 0x100, 8)] | _ => False) ∧
    (let s := { base with arg := { m := 2, addr := 0x100, bytes := toBytes 8 7 } }; match s.aperture s.arg.addr 8 1 with | .refused => True | _ => False) ∧
    (let s := { base with arg := { m := 4, addr := 0x13F000, bytes := toBytes 8 0 } }; barAddr s.arg.m s.arg.addr 8 = some 0x00FF00000013F000 ∧ s.hostMay 0x00FF00000013F000 8 2 = false) ∧
    (let s := { base with arg := { addr := 0x6004008, bytes := toBytes 8 1 } }; barAddr s.arg.m s.arg.addr 8 = some 0x00FF000206004008 ∧ s.hostMay 0x00FF000206004008 8 2 = true ∧ (ctlEvent 0x00FF000206004008 (BitVec.ofNat 64 (ofBytes s.arg.bytes))).isSome = true) ∧
    (let s := opened { m := 2, addr := 0x100, n := 8 }; (match s.aperture s.arg.addr s.arg.n 0 with | .keys l => l = [(campKey 0x100, 8)] | _ => False) ∧ s.eccIn [(campKey 0x100, 8)] = none) ∧
    (let s := { opened { m := 2, addr := 0x100, n := 8 } with poison := [(campKey 0x100, 1)] }; (match s.aperture s.arg.addr s.arg.n 0 with | .keys l => l = [(campKey 0x100, 8)] | _ => False) ∧ (s.eccIn [(campKey 0x100, 8)]).isSome = true) ∧
    (let s := { base with arg := { addr := 0x6004000, n := 8 } }; barAddr s.arg.m s.arg.addr s.arg.n = some 0x00FF000206004000 ∧ s.hostMay 0x00FF000206004000 8 1 = true) ∧
    (let s := opened { m := 2, addr := 0x100, n := 8, v := 5 }; s.arg.x = 0 ∧ s.arg.addr % 8 = 0 ∧ match s.aperture s.arg.addr 8 2 with | .keys l => l = [(campKey 0x100, 8)] | _ => False) ∧
    (let s := opened { m := 2, n := 3 }; s.arg.n ≠ 4 ∧ s.arg.n ≠ 8) ∧
    (∀ k ∈ [OpKind.load, .atomic], ∀ b ∈ [true, false], let s := { with1 base (hostOp k) with arg := { id := 5, ok := b, bytes := toBytes 8 9 } }
      s.opById s.arg.id = some (hostOp k) ∧ isHostKey (hostOp k).addr.toNat = true ∧ (hostOp k).at_ = 1 ∧ (hostOp k).kind = k ∧ s.arg.ok = b ∧ s.arg.bytes.length = (hostOp k).n ∧ (hostOp k).dropped = false ∧ (owner s (hostOp k)).buf = []) := by
  refine ⟨?_, ?_, ?_, ?_, ?_, ?_, ?_, ?_, ?_, ?_, ?_⟩
  case refine_2 => exact ⟨by decide +kernel, by decide, rfl⟩
  case refine_6 => exact ⟨rfl, by decide +kernel⟩
  case refine_7 => exact ⟨rfl, by decide +kernel⟩
  case refine_9 => exact ⟨rfl, by decide, rfl⟩
  all_goals first | decide +kernel | exact rfl | trivial

/-- A configuration table with the six roles of the reset value, and its signature block. -/
def table : List Byte :=
  toBytes 4 0x4B434647 ++ toBytes 2 1 ++ toBytes 2 56 ++ [1, 6] ++ toBytes 22 0 ++ [0, 0, 1, 0, 1, 0, 2, 0, 2, 0, 3, 0, 3, 0, 4, 0, 4, 0, 5, 0, 5, 0, 6, 0] ++ toBytes 2 1 ++ [7] ++ List.replicate 1533 0

theorem witness_DeviceSteps : base.dev.bootState = 0 ∧ (let s := base.modDev fun d => { d with bootState := 2 }; s.dev.bootState ≠ 1 ∧ s.dev.bootState ≠ 0) ∧
    (let s := { base.modDev fun d => { d with bootState := 1 } with arg := { m := 2 } }; s.dev.bootState = 1 ∧ 1 ≤ s.arg.m ∧ s.arg.m ≤ 3) ∧
    (let s := { base.modDev fun d => { d with bootState := 1 } with arg := { ok := true } }; s.dev.bootState = 1 ∧ s.arg.m = 0 ∧ tableFormOk s.arg.bytes = false) ∧
    (let s := { base.modDev fun d => { d with bootState := 1 } with arg := { ok := true, bytes := table } }; s.dev.bootState = 1 ∧ s.arg.m = 0 ∧ s.arg.ok = true ∧ tableFormOk s.arg.bytes = true ∧ entriesOk (tableOf s.arg.bytes) = true) ∧
    (base.ctxs.any fun p => p.2.placed) = true ∧ (State.reset.ctxs.any fun p => p.2.placed) = false ∧
    (let s := State.reset.modDev fun d => { d with cfgok := true, call6 := true, caln := true }; s.dev.active = true ∧ s.dev.cfgok = true ∧ s.dev.call6 = true ∧ s.dev.caln = true ∧ ∀ p ∈ s.ctxs, p.2.placed = false) ∧ base.dev.cfgok = false ∧
    (Table.get ({} : Die) 0 base.dev.dies).gated = false ∧ (Table.get ({} : Die) 0 (base.modDev fun d => { d with dies := [(0, { gated := true })] }).dev.dies).gated = true ∧ base.dev.thermHold = false ∧ base.sched.launches = [] ∧
    (base.modDev fun d => { d with thermHold := true }).dev.thermHold = true := by
  and_intros <;> decide +kernel

/-- Out of approach mode, with one packet for device 9 in the router and an entry for it. -/
def routing (e : BitVec 16) (src : Nat) : State :=
  let s := base.modDev fun d => { d with active := false, routes := [(9, e)] }
  { s.modSched fun q => { q with fabric := [{ dst := 9, src := src, cls := 0, ty := 1, tag := 0, bank := 0, body := [] }] } with arg := { n := 3 } }

theorem witness_FabricSteps : ((routing 0 0).arg.n < 6 ∧ (routing 0 0).dev.active = false ∧ (routing 0 0).dev.portUp < 64 ∧ base.dev.active = true) ∧
    (∀ p ∈ [((0x8001 : BitVec 16), 1), (0x8006, 6)], let s := routing p.1 0
      s.arg.ok = false ∧ s.sched.fabric ≠ [] ∧ bit (s.route 0 9) 15 = true ∧ 9 < 8192 ∧ bits (s.route 0 9) 0 3 = p.2) ∧
    (bit ((routing 1 5).route 0 9) 15 = false ∧ 5 ≠ (routing 1 5).dev.devno) ∧
    (let s := { routing 0 0 with arg := { ok := true, w := 1, m := 9 } }; s.dev.active = false ∧ s.arg.ok = true ∧ s.arg.w ≠ 0) ∧
    (let s := { routing 0 0 with arg := { ok := true, m := 9, c := 3, h := 4 } }; s.dev.active = false ∧ s.arg.ok = true ∧ s.arg.w = 0) ∧
    (let s := { base with arg := { n := 0 } }; s.arg.n = s.dev.devno ∧ s.arg.n % 2 ^ 15 = s.dev.devno) ∧
    (let s := { base.modSched fun q => { q with lostDevs := [3] } with arg := { n := 3 } }; s.arg.n ∈ s.sched.lostDevs) ∧
    (let s := { State.reset.setThread 1 0 { st := .parked, wait := .reply 7 3 } with arg := { n := 3 } }
     s.arg.n ≠ s.dev.devno ∧ s.arg.n ∉ s.sched.lostDevs ∧ s.ropes = [] ∧ s.ops = [] ∧ s.cores = [] ∧ s.sched.abroad = [] ∧ s.dev.routes = [] ∧ (s.thread 1 0).st ≠ .empty ∧ (s.thread 1 0).wait = .reply 7 3 ∧ s.arg.n % 2 ^ 15 = s.arg.n) := by
  and_intros <;> decide +kernel

end Sys2Proof.Tests
end

