-- ==== Sys2Proof/Tests/Witness10.lean ====
section
/-! SUPPORT. States that meet the hypotheses of the statements: packets of other devices, operands, bundles, steps, rules stated whole. -/

namespace Sys2Proof.Tests

set_option Elab.async false

open Sys2Proof Sys2Proof.Machine Sys2Proof.Claims

/-- A packet of device 9 with tag `id` and the bytes from 16 on. -/
def evh (l : List Byte) (id : Nat) (s : State) : State := { s with arg := { c := 9, id := id, bytes := l } }

/-- A store or read request: address, length of the whole, bytes of this packet, job. -/
def access (a len n job : Nat) : List Byte := toBytes 8 a ++ toBytes 8 a ++ toBytes 4 len ++ toBytes 4 n ++ toBytes 2 job ++ toBytes 2 0 ++ toBytes 1 0 ++ [1, 2, 3, 4, 5, 6, 7, 8]

def fetching : Cmd := { cmd 5 4 (.get 16 17 noTail) true with waiting := 7, args := [8, 9, 0x400, 0x118, 0, 0, 0, 0] }

theorem witness_EvhornAccesses : (let s := evh [] 1 { base with laterSteps := [⟨.evhStore, { c := 9 }⟩] }; (s.laterSteps.any fun e => e.arg.c == s.arg.c && isTransfer e.ins) = true) ∧
    (let s := evh (access 0x0082000000000100 8 8 77) 1 base; s.sourceWaits isTransfer = false ∧ s.jobReach 77 (s.argN 8 8) (s.argN 16 4) 1 false = none ∧ s.jobReach 77 (s.argN 8 8) (s.argN 16 4) 0 false = none) ∧
    (let s := evh (access 0x0082000000000100 8 8 0) 1 base
     s.jobReach (s.argN 24 2) (s.argN 8 8) (s.argN 16 4) 1 false = some (2, base.ctx 1 0) ∧ s.argN 20 4 = 8 ∧ (match s.reachKeys 1 (s.argN 0 8) 8 with | .keys l => l = [(poolKey 0 0x100, 8)] | _ => False) ∧ spOf (poolKey 0 0x100) = none ∧
       s.jobReach (s.argN 24 2) (s.argN 8 8) (s.argN 16 4) 0 false = some (2, base.ctx 1 0) ∧ s.spotWaits [(poolKey 0 0x100, 8)] false = false) ∧
    (let s := evh (access 0x0081000000100100 8 8 0) 1 base
     s.jobReach (s.argN 24 2) (s.argN 8 8) (s.argN 16 4) 1 false = some (2, base.ctx 1 0) ∧ (match s.reachKeys 1 (s.argN 0 8) 8 with | .keys l => l = [(spKey 1 0x100, 8)] | _ => False) ∧ (s.core 1).src = [] ∧ s.farLock 1 0x100 8 true = false) ∧
    (let s := evh (access 0x0081000000100100 8 0 0) 1 base; s.jobReach (s.argN 24 2) (s.argN 8 8) (s.argN 16 4) 1 false = some (2, base.ctx 1 0) ∧ s.argN 20 4 = 0) ∧
    (∀ w ∈ [0, 1, 0x30], let s := evh (toBytes 8 w) 7 (engines [fetching] [])
      s.cmdWaiting s.arg.id = some fetching ∧ s.cmd fetching.core fetching.id = some fetching ∧ s.argN 0 8 = w ∧ isTransferCmd fetching = true ∧ fetching.cancelled = false) ∧ (evh [] 7 base).cmdWaiting 7 = none ∧
    (let o := op .send 0 .none; let s := evh (toBytes 8 0) 5 (base.withOp o); s.arg.id ≠ 0 ∧ s.arg.bytes.length = 8 ∧ s.opById s.arg.id = some o ∧ ∀ k ∈ [OpKind.pre, .home, .load, .vload, .atomic], o.kind ≠ k) ∧
    (let o := op .pre 0 .none; let s := evh (toBytes 8 0) 5 (base.withOp o); s.arg.id ≠ 0 ∧ s.arg.bytes.length = 8 ∧ s.opById s.arg.id = some o ∧ (s.thread 1 0).st ≠ .empty) ∧ (evh [] 0 base).arg.id = 0 ∧
    (let s := evh (toBytes 8 0) 7 (State.reset.setThread 1 0 { st := .parked, wait := .reply 7 9 }); s.arg.id ≠ 0 ∧ s.arg.bytes.length = 8 ∧ s.opById s.arg.id = none ∧ s.cores = [] ∧ s.replyWaiter s.arg.id = some (1, 0)) := by
  and_intros <;> first | decide +kernel | exact rfl

/-- A packet about a region's token: 0 asks, 1 and 3 bring it, 2 gives it back; `ok` where it has waited. -/
def token (k r : Nat) (ok : Bool) (l : List Token) (t : Thread → Thread) : State :=
  let s := evh (toBytes 4 k ++ toBytes 4 0 ++ toBytes 8 r) 0 ((base.modCur t).modSched fun q => { q with tokens := l })
  { s with arg := { s.arg with ok := ok } }

/-- The token of region `r` at this device. -/
def here (r : Nat) : Token := { inward := true, busy := true, l := 0, peer := 9, region := r, lcopy := 0x200000 }

theorem witness_EvhornToken : (token 2 1 false [] id).argN 0 4 = 2 ∧
    (let s := token 0 (9 * 2 ^ 19) false [] id; s.argN 0 4 = 0 ∧ s.arg.ok = false ∧ s.argN 8 8 * regionBytes / 2 ^ 40 % 2 ^ 15 ≠ s.dev.devno) ∧
    (let s := token 0 1 true [{ here 1 with inward := false }] id; s.argN 0 4 = 0 ∧ s.arg.ok = true ∧ s.argN 8 8 * regionBytes / 2 ^ 40 % 2 ^ 15 = s.dev.devno ∧ (s.tokenOf (s.argN 8 8 * regionBytes)).isSome = true) ∧
    (token 0 1 true ((List.range 4).map fun w => { here (1 + 4096 * (w + 1)) with way := w }) id).tokenWay 1 = none ∧
    (token 0 1 true [] fun t => { t with buf := [⟨0x200000, 0x200000, [1], [], 0⟩] }).regionQuiet 1 = false ∧
    (let s := token 0 1 true [] id; s.argN 0 4 = 0 ∧ s.arg.ok = true ∧ s.argN 8 8 * regionBytes / 2 ^ 40 % 2 ^ 15 = s.dev.devno ∧ s.tokenOf (s.argN 8 8 * regionBytes) = none ∧ s.tokenWay (s.argN 8 8) = some 0 ∧ s.regionQuiet (s.argN 8 8) = true) ∧
    (let s := token 1 (9 * 2 ^ 19) false [] fun t => { t with wait := .token (9 * 2 ^ 19) }
     s.argN 0 4 = 1 ∧ s.argN 8 8 * regionBytes / 2 ^ 40 % 2 ^ 15 ≠ s.dev.devno ∧ s.tokenOf (s.argN 8 8 * regionBytes) = none ∧ s.tokenWay (s.argN 8 8) = some 0) ∧
    (let s := token 1 (9 * 2 ^ 19) true [here (9 * 2 ^ 19)] fun t => { t with wait := .token (9 * 2 ^ 19) }
     s.argN 0 4 = 1 ∧ s.arg.ok = true ∧ s.argN 8 8 * regionBytes / 2 ^ 40 % 2 ^ 15 ≠ s.dev.devno ∧ s.tokenOf (s.argN 8 8 * regionBytes) = some (here (9 * 2 ^ 19)) ∧ (s.tokenFor 1 (s.argN 4 4) (s.argN 8 8)).isSome = true) ∧
    (let s := token 1 1 true [{ here 1 with inward := false }] id
     s.argN 0 4 = 1 ∧ s.arg.ok = true ∧ s.argN 8 8 * regionBytes / 2 ^ 40 % 2 ^ 15 = s.dev.devno ∧ s.tokenOf (s.argN 8 8 * regionBytes) = some { here 1 with inward := false }) := by and_intros <;> decide +kernel

/-- A message or request: code and words. -/
def words (code : Nat) (l : List Nat) : List Byte := toBytes 8 code ++ l.flatMap (toBytes 8)

theorem witness_EvhornMessage : (let s := evh (words 0 [256, 3, 7]) 1 { base with laterSteps := [⟨.evhMessage, { c := 9 }⟩] }; s.argN 0 8 = 0 ∧ s.sourceWaits isMessage = true) ∧
    (let s := evh (words 0 [256, 7, 7]) 1 (base.modCore 1 fun k => { k with share := true })
     s.argN 0 8 = 0 ∧ s.sourceWaits isMessage = false ∧ s.arg.ok = false ∧ (s.threads.find? fun p => decide (p.2.st ≠ .empty) && thidOf p.2 == (s.argW 0).toNat) = some (256 * 1 + 0, s.thread 1 0) ∧ (s.thread 1 0).leave = .no ∧
       shareOk (s.core 1).share (s.thread 1 0).x (s.argW 1).toNat 6 = false) ∧
    (let s := evh (words 0 [256, 3, 7]) 1 base
     shareOk (s.core 1).share 0 (s.argW 1).toNat 6 = true ∧ (s.ctx 1 0).away = false ∧ (s.lease (s.ctx 1 0).l).area = [] ∧ (Table.get [] 3 (s.ctx 1 0).q).length < 16 ∧ (s.core 1).inbox = []) ∧
    (let s := evh (words 1 [511]) 1 base; s.argN 0 8 = 1 ∧ ∀ t ∈ s.allThreads ++ s.sched.abroad.map Prod.snd ++ s.savedThreads, thidOf t ≠ (s.argW 0).toNat) ∧
    (let s := evh (words 1 [256]) 1 base; (s.allThreads ++ s.sched.abroad.map Prod.snd ++ s.savedThreads).find? (fun t => thidOf t == (s.argW 0).toNat) = some (s.thread 1 0)) ∧
    (∀ c ∈ [3, 4, 5], let s := evh (words c [0, 5]) 1 (base.modRope 5 fun _ => { st := 1, owner := 77 }); s.argN 0 8 = c ∧ s.ropeOfJob 5 0 = false) ∧
    (let s := evh (words 3 [0, 5, 0, 300]) 1 ((base.modRope 5 fun _ => { st := 1, owner := 1, n := 2 }).modSched fun q => { q with launches := [{ someLaunch .placed with l := 1 }] })
     s.argN 0 8 = 3 ∧ bits (s.argW 1).toNat 0 10 = 5 ∧ bits (s.argW 1).toNat 16 12 = 0 ∧ s.ropeOfJob 5 0 = true ∧ joinable (s.rope 5) 0 = true ∧ (s.rope 5).st ≠ 0 ∧ (s.rope 5).st ≠ 4) ∧
    (let s := evh (words 3 [0, 5]) 1 base; s.ropeOfJob 5 0 = true ∧ joinable (s.rope 5) 0 = false ∧ (s.rope 5).st = 0) ∧
    (∀ c ∈ [4, 5, 24], let s := evh (words c [0, 5]) 1 base; s.argN 0 8 = c ∧ s.ropeOfJob 5 0 = true ∧ (s.rope 5).st = 0) ∧
    (let s := evh (words 4 [0, 5]) 1 ((base.modRope 5 fun _ => { st := 1, owner := 1 }).modSched fun q => { q with launches := [{ someLaunch .placed with l := 1 }] }); s.argN 0 8 = 4 ∧ s.ropeOfJob 5 0 = true ∧ (s.rope 5).st ≠ 0 ∧ (s.rope 5).st ≠ 4) ∧
    (let s := evh (words 13 [256]) 1 (base.modSched fun q => { q with abroad := [(256, {})] }); s.argN 0 8 = 13 ∧ s.sched.abroad.find? (fun p => p.1 == (s.argW 0).toNat) = some ((s.argW 0).toNat, {})) ∧
    (let s := evh (words 9 [256, 2]) 1 base; s.argN 0 8 = 9 ∧ s.sched.launches = []) := by and_intros <;> decide +kernel

/-- A spawn request for core 2: descriptor, job and priority. -/
def spawnFrom (bpri job : Nat) : List Byte := toBytes 8 0x20000 ++ toBytes 32 0 ++ toBytes 4 2 ++ toBytes 2 job ++ toBytes 1 0 ++ toBytes 1 bpri

theorem witness_EvhornSpawn : (let s := evh (spawnFrom 0 0) 1 base; s.arg.c ≠ s.dev.devno ∧ s.argN 47 1 = 0 ∧ bits (s.argN 40 4) 0 9 = 2 ∧ (s.ctx 2 0).placed = false ∧ (s.ctx 2 1).placed = false ∧ s.sched.launches = []) ∧
    (let s := evh (spawnFrom 0 0) 1 ((base.setCtx 2 0 { placed := true }).modHctx 0 fun h => { h with barred := true }); (s.ctx 2 0).placed = true ∧ (s.ctx 2 0).job = s.argN 44 2 ∧ (s.hctx (s.ctx 2 0).host).barred = true) ∧
    (let s := evh (spawnFrom 7 0) 1 ((List.range 16).foldl (fun s h => s.setThread 2 (240 + h) { st := .ready }) (base.setCtx 2 1 { placed := true }))
     s.argN 47 1 = 7 ∧ (s.ctx 2 1).placed = true ∧ (s.hctx 0).barred = false ∧ (s.ctx 2 1).away = false ∧ bit (s.argN 40 4) 27 = false ∧ s.freeSlot 2 1 = none) ∧
    (let s := evh (spawnFrom 0 0) 1 (base.setCtx 2 0 { placed := true }); (s.ctx 2 0).placed = true ∧ (s.hctx (s.ctx 2 0).host).barred = false ∧ s.freeSlot 2 0 = some 0) ∧
    (evh [] 5 (base.withOp (op .spawn 0 .result))).opById 5 = some (op .spawn 0 .result) ∧ (evh [] 5 base).opById 5 = none := by and_intros <;> decide +kernel

/-- Keyed pairs for core 1: job, context, one pair. -/
def keysFrom (job key : Nat) : List Byte := toBytes 8 1 ++ toBytes 2 job ++ toBytes 2 0 ++ toBytes 4 0 ++ toBytes 4 key ++ toBytes 4 5

/-- A contribution to rope 5 by member 0, in a state of the rope. -/
def contribution (st : Nat) (j cnt : Bool) : State := evh (toBytes 8 5 ++ [1, 2]) 7 (base.modRope 5 fun _ => { st := st, n := 1, q := 1, len := 1, owner := 1, mem := [(0, { j := j, cnt := cnt })] })

/-- A thread of device 9 that arrives for core `c` of the launch 0 of host context `host`. -/
def traveller (host c : Nat) : List Byte := toBytes 4 (9 * 2 ^ 17 + 300) ++ toBytes 2 0 ++ toBytes 2 host ++ toBytes 8 0 ++ toBytes 2 c ++ toBytes 30 0 ++ toBytes 8 0x10000 ++ toBytes 248 0

theorem witness_EvhornOther : (evh [] 1 { base with laterSteps := [⟨.evhKeyedPairs, { c := 9 }⟩] }).sourceWaits isKeyed = true ∧
    (let s := evh (keysFrom 77 0) 1 base; s.sourceWaits isKeyed = false ∧ s.argN 0 8 = 1 ∧ s.argN 12 4 = 0 ∧ (s.ctx 1 0).job ≠ s.argN 8 2 ∧ s.sched.launches = []) ∧
    (let s := evh (keysFrom 0 9) 1 base; (s.ctx 1 0).placed = true ∧ (s.ctx 1 0).job = s.argN 8 2 ∧ (s.ctx 1 0).away = false ∧ s.arg.bytes.length = 24 ∧ (s.ctx 1 0).bins.slot (BitVec.ofNat 32 (s.argN 16 4)) = none) ∧
    (let s := evh (keysFrom 0 3) 1 (base.modCtx 1 0 fun k => { k with bins := { valid := true, count := 4, boff := 0x400 } }); (s.ctx 1 0).bins.slot (BitVec.ofNat 32 (s.argN 16 4)) = some 0x40C ∧ (s.core 1).src = [] ∧ (s.core 1).locks = []) ∧
    (∀ p ∈ [(1, true, true), (0, false, false), (1, false, false), (1, true, false), (2, true, false), (3, true, false)], let s := contribution p.1 p.2.1 p.2.2
      s.argN 0 8 % 65536 = 5 ∧ s.argN 0 8 / 65536 = 0 ∧ (s.rope 5).st = p.1 ∧ (Table.get {} 0 (s.rope 5).mem).j = p.2.1 ∧ (Table.get {} 0 (s.rope 5).mem).cnt = p.2.2) ∧
    (evh [] 7 (base.modCur fun t => { t with wait := .reply 7 9 })).replyWaiter 7 = some (1, 0) ∧ (evh [] 7 base).replyWaiter 7 = none ∧ (evh (words 0 [1]) 256 base).find 256 = some (1, 0) ∧ (evh [] 511 base).find 511 = none ∧
    (let s := evh (traveller 0 1) 1 State.reset; s.argN 0 4 / 2 ^ 17 ≠ s.dev.devno ∧ s.sched.doomed = [] ∧ s.ctxs = []) ∧
    (let s := evh (traveller 0 1) 1 base; s.argN 16 2 % 512 = 1 ∧ s.argN 18 1 % 2 = 0 ∧ (s.ctx 1 0).placed = true ∧ (s.ctx 1 0).away = false ∧ (s.ctx 1 0).host = s.argN 6 2 ∧ (s.ctx 1 0).launch = s.argN 8 8 ∧ s.freeSlot 1 0 = some 1 ∧ s.sched.doomed = []) := by and_intros <;> decide +kernel

end Sys2Proof.Tests
end

