-- ==== Sys2Proof/Tests/Witness11.lean ====
section
/-! SUPPORT. States that meet the hypotheses of the statements: operands, bundles, steps, rules stated whole. -/

namespace Sys2Proof.Tests

set_option Elab.async false

open Sys2Proof Sys2Proof.Machine Sys2Proof.Claims

/-- The thread's result queue, its pending registers, queue register 0 and the port of side 1 as given. -/
def operands (l : List REnt) (p : List (Nat × Nat)) (q e : List QEnt) : State :=
  (base.modCur fun t => { t with t := l, regPend := p }).modCtx 1 0 fun k => { k with q := [(0, q)], port := [(1, e)] }

theorem witness_SourceForms : (operands [.val 7] [] [] []).pre.t.getD (0 : BitVec 6).toNat (.val 0) = .val 7 ∧ (operands [.pend 5] [] [] []).pre.t.getD 0 (.val 0) = .pend 5 ∧ (operands [.bad 1 (cause 0x16 5)] [] [] []).pre.t.getD 0 (.val 0) = .bad 1 (cause 0x16 5) ∧
    ((base.pre.regPend.any (·.1 == 16)) = false ∧ ((operands [] [(16, 5)] [] []).pre.regPend.any (·.1 == 16)) = true) ∧ (shareOk (base.core 1).share base.cur.x 0 6 = true ∧ base.latch.mode ≠ .pairA ∧ Table.get [] 0 (base.ctx 1 0).q = []) ∧
    (Table.get [] 0 ((operands [] [] [.word 7] []).ctx 1 0).q = [.word 7] ∧ (base.core 1).inbox = []) ∧ shareOk ((base.modCore 1 fun k => { k with share := true }).core 1).share 0 7 6 = false ∧
    (∃ d, base.portPeer 1 0 1 = some d) ∧ Table.get [] 1 ((operands [] [] [] [.word 7]).ctx 1 0).port = [.word 7] ∧ Table.get [] 1 (base.ctx 1 0).port = [] ∧ (∃ i < 4, base.portPeer 1 0 i = none) ∧ 39 ≤ (39 : BitVec 6).toNat := by
  refine ⟨rfl, rfl, rfl, ⟨rfl, rfl⟩, ⟨rfl, by decide, rfl⟩, ⟨rfl, rfl⟩, rfl, ⟨_, rfl⟩, rfl, rfl, by decide +kernel, by decide⟩

theorem witness_DestinationForms : base.cur.t.getD 15 (.val 0) = .val 0 ∧ (operands (List.replicate 16 (.pend 5)) [] [] []).cur.t.getD 15 (.val 0) = .pend 5 ∧
    (operands (List.replicate 16 (.bad 1 (cause 0x16 5))) [] [] []).cur.t.getD 15 (.val 0) = .bad 1 (cause 0x16 5) ∧ (base.pre.regPend.any (·.1 == 37)) = false ∧ ((operands [] [(37, 5)] [] []).pre.regPend.any (·.1 == 37)) = true ∧
    (Table.get [] 0 (base.ctx 1 0).q).length < 16 ∧ 16 ≤ (Table.get [] 0 ((operands [] [] (List.replicate 16 (.word 0)) []).ctx 1 0).q).length ∧
    (∃ d, base.portPeer 1 0 1 = some d ∧ (base.ctx d 0).away = false ∧ (Table.get [] (opposite 1) (base.ctx d 0).port).length < 8 ∧
      8 ≤ (Table.get [] (opposite 1) ((base.modCtx d 0 fun k => { k with port := [(opposite 1, List.replicate 8 (.word 0))] }).ctx d 0).port).length) ∧ 38 ≤ (38 : BitVec 6).toNat := by
  refine ⟨rfl, rfl, rfl, rfl, rfl, by decide +kernel, by decide +kernel, ⟨_, rfl, ?_⟩, by decide⟩; decide +kernel

/-- The text at 0x10000, the program counter's page. -/
def text (l : List (BitVec 32)) : State := State.reset.placedAt l

theorem witness_BundleFraming : (0x10000 : Word).toNat < 2 ^ 56 ∧ ((text []).tlbFind (clusterOf 1) 1 0x10000).isSome = true ∧ (text []).tlbFind (clusterOf 1) 1 0x400000000 = none ∧
    (match (text [0x81000000]).fetch 1 1 0x10000 with | .word w => w = 0x81000000 ∧ w.getLsbD 31 = true | _ => False) ∧ (match (text []).fetch 1 1 0x400000000 with | .bad k => k = 0x16 | _ => False) ∧
    (match ((text []).modLease 1 fun _ => { used := true, text := some ⟨0x400000000, 0x10000, 5, true⟩ }).fetch 1 1 0x400000000 with | .wait => True | _ => False) ∧
    (match (text [0x81000000, 0x01000000]).fetch 1 1 0x10004 with | .word w => w.getLsbD 31 = false | _ => False) ∧ (0x10004 : Word).toNat % 8 = 4 ∧
    (match (text [0x40000000]).fetch 1 1 0x10000 with | .word w => w.getLsbD 31 = false ∧ w.getLsbD 30 = true | _ => False) ∧
    (match (text [0x01000000, 0x40000000]).fetch 1 1 0x10000, (text [0x01000000, 0x40000000]).fetch 1 1 0x10004 with | .word w, .word v => w.getLsbD 31 = false ∧ w.getLsbD 30 = false ∧ w.extractLsb' 24 7 ≠ 0x0E#7 ∧ v.getLsbD 31 = false ∧ v.getLsbD 30 = true | _, _ => False) ∧
    (match (text [0x0E000000, 0x7C000000]).fetch 1 1 0x10000, (text [0x0E000000, 0x7C000000]).fetch 1 1 0x10004 with | .word w, .word v => w.extractLsb' 24 7 = 0x0E#7 ∧ v.getLsbD 31 = false ∧ v.getLsbD 30 = true | _, _ => False) ∧
    (match (text [0x01000000, 0x01000000]).fetch 1 1 0x10004 with | .word v => v.getLsbD 30 = false | _ => False) := by
  refine ⟨by decide, by decide +kernel, by decide +kernel, ⟨rfl, rfl⟩, rfl, trivial, rfl, rfl, ⟨rfl, rfl⟩, ⟨rfl, rfl, by decide, rfl, rfl⟩, ⟨rfl, rfl, rfl⟩, rfl⟩

/-- A pair of `nop` with `anop`: both slots go on; one whose A-slot waits for a pending result, and one whose C-slot traps. -/
theorem witness_PairRuns : ∀ g : Guard, g = ⟨0, 0⟩ → let s1 := { base with latch := { base.latch with mode := .pairC, exec := true, len := 8, word := 0x01000000 } }
    let second := fun (r : State) => { r with latch := { r.latch with mode := .pairA, exec := true, pre := base.cur, word := 0x40000000 } }
    guardOn g base.cur = true ∧ ∃ r1 r2, exec .nop s1 = .next r1 ∧ r1.latch.res = .ok ∧ exec (.anop g) (second r1) = .next r2 ∧ r2.latch.res = .ok := by
  intro g h; subst h; exact ⟨rfl, _, _, rfl, rfl, rfl, rfl⟩

theorem witness_PairStops : let s := base.modCur fun t => { t with regPend := [(16, 5)] }
    let s1 := { s with latch := { s.latch with mode := .pairC, exec := true, len := 8, word := 0 } }
    let second := fun (r : State) => { r with latch := { r.latch with mode := .pairA, exec := true, pre := s.cur, word := 0 } }
    (∃ r1, exec (.jmpr 16) s1 = .next r1 ∧ r1.latch.res = .park 0 ∧ ∃ r2, exec (.addi ⟨0, 0⟩ 0 16 1) (second s1) = .next r2 ∧ r2.latch.res = .park 0) ∧
    (∃ r1, exec (.trap 5) s1 = .next r1 ∧ (∃ k v, r1.latch.res = .trap k v) ∧ ∃ r2, exec (.anop ⟨0, 0⟩) (second s1) = .next r2 ∧ r2.latch.res = .ok) ∧
    ∃ r2, exec (.addi ⟨0, 0⟩ 0 39 1) (second s1) = .next r2 ∧ ∃ k v, r2.latch.res = .trap k v :=
  ⟨⟨_, rfl, rfl, _, rfl, rfl⟩, ⟨_, rfl, ⟨_, _, rfl⟩, _, rfl, rfl⟩, _, rfl, _, _, rfl⟩

/-- A waiting event; an s-cycle with nobody to issue; a core whose one thread issues a lone `nop`, and one whose bundle parks as it was. -/
theorem witness_StepRuns : (∃ a l, ({ base with agenda := [⟨.wake, {}⟩] } : State).agenda = ⟨.wake, a⟩ :: l) ∧ (State.reset.agenda = [] ∧ nextIssue State.reset = none ∧ ∃ r, exec .sCycle { State.reset with arg := {} } = .next r) ∧
    (let s := text [0x81000000]
     s.agenda = [] ∧ (nextIssue s).map (fun p => (p.1, p.2.1)) = some (1, 0) ∧
       let go := s.modThread 1 0 fun t => { t with cr := 0, acc := 0, rs := s.dev.clock, elig := s.dev.clock + 8, epri := effPri t }
       atBundle go 1 0 ∧ ∃ r, bundleRun go 1 0 (.next r) ∧ (r.thread 1 0).st ≠ .parked ∧ (r.thread 1 0).st ≠ .leaving) := by
  refine ⟨⟨_, _, rfl⟩, ⟨rfl, by decide +kernel, _, rfl⟩, rfl, by decide +kernel, ⟨by decide +kernel, by decide +kernel, by decide +kernel, by decide +kernel, by decide +kernel⟩, ?_⟩
  exact ⟨_, .inl ⟨0x81000000, .nop, rfl, rfl, rfl⟩, by decide +kernel, by decide +kernel⟩

theorem witness_EncodeDecode : WellFormed (.addi ⟨1, 5⟩ 16 36 0x40) ∧ (encode 1 (.addi ⟨1, 5⟩ 16 36 0x40)).isSome = true ∧ (encode 0 (.tend)).isSome = true ∧ (decodeWord 0x81000000#32).isSome = true := by decide

theorem witness_MemoryKeepsForm : base.MemOk ∧ ∃ t, step { base with agenda := [⟨.ppsEdge, {}⟩] } = .next t := ⟨rfl, _, rfl⟩

theorem witness_NopRule : (0x81000000#32).extractLsb' 24 7 = 0x01#7 ∧ base.goesC 0 ∧ base.goesA ⟨0, 0⟩ ∧ (let s := text [0x81000001]
    (match s.frame 1 (s.ctx 1 (s.thread 1 0).x).l (s.ctx 1 (s.thread 1 0).x).ver (s.thread 1 0).pc with | .lone w => w = 0x81000001 | _ => False) ∧ (0x81000001#32).extractLsb' 0 24 ≠ 0#24) := by
  and_intros <;> first | rfl | decide +kernel

theorem witness_JumpRule : (0x83000010#32).extractLsb' 24 7 = 0x03#7 ∧ (0x84000001#32).extractLsb' 24 7 = 0x04#7 ∧ (0x84000001#32).extractLsb' 0 12 ≠ 0#12 ∧ (0x84010000#32).extractLsb' 18 6 = 0#6 ∧ (0x84010000#32).extractLsb' 0 12 = 0#12 ∧
    ((0x84010000#32).extractLsb' 12 6).toNat < 39 ∧ base.goesC 0 ∧ src 36 base = .ok (0, base) ∧ (leaving base (.jump 64)).latch.defer = .jump 64 := by
  refine ⟨by decide, by decide, by decide, by decide, by decide, by decide, ⟨rfl, rfl⟩, rfl, rfl⟩

theorem witness_PrioRule : regs.goesC 0 ∧ src 17 regs = .ok (5, regs) ∧ (5 : Word).toNat < 8 ∧ (regs.cur.bpri = 7 ↔ (5 : Word).toNat = 7) ∧ ¬ (regs.cur.bpri = 7 ↔ (7 : Word).toNat = 7) ∧ src 16 regs = .ok (9, regs) ∧ 8 ≤ (9 : Word).toNat :=
  ⟨⟨rfl, rfl⟩, rfl, by decide, by decide, by decide, rfl, by decide⟩

end Sys2Proof.Tests
end

