-- ==== Sys2Proof/Tests/Witness12.lean ====
section
/-! SUPPORT. Further states that meet the hypotheses of the statements, for clauses whose premises need a state of their own. -/

namespace Sys2Proof.Tests

set_option Elab.async false

open Sys2Proof Sys2Proof.Machine Sys2Proof.Claims

/-- A timed task whose instance is on device 9 has its answer: the stamp may be taken, or lies behind. -/
theorem witness_TaskInstructionsFar : ∀ v ∈ ([0, 1] : List Nat), let s := timed.modCur fun t => { t with inst := some ⟨0, clusterOf 1, 9⟩, wait := .done v }
    s.latch.exec = true ∧ s.cur.timed = true ∧ s.cur.serial = false ∧ (9 : Nat) ≠ s.dev.devno ∧ s.cur.wait = .done v := by decide +kernel

/-- A task that ends while its context drains leaves the next one to open later. -/
theorem witness_TaskOpensDraining : (let s := (leaving base (.open_ true none)).modCtx 1 0 fun k => { k with drain := true }; s.latch.defer = .open_ true none ∧ s.curCtx.drain = true) ∧
    (let s := leaving base (.open_ false (some (2, 9))); s.latch.defer = .open_ false (some (2, 9)) ∧ s.curCtx.drain = false) := ⟨⟨rfl, rfl⟩, rfl, rfl⟩

/-- A thread with a promise of a prefetch of its task, one of an earlier command, and a named register to come. -/
theorem witness_TaskAbortsPromises : let s := (engines [cmd 5 3 (.cpyp 16 17 0 0 noTail) false] []).modThread 1 0 fun t => { t with promises := [(9, 5), (10, 4)] }
    (s.thread 1 0).arriving = false ∧ (s.thread 1 0).killing = false ∧ s.foreign (s.thread 1 0) = false ∧ (s.abortTask 1 0).mayRestart 1 0 = true ∧ ((s.abortTask 1 0).thread 1 0).promises = [(10, 4)] := by decide +kernel

/-- A region that could not be made resident. -/
theorem witness_TouchRefused : let s := memState.modCur fun t => { t with wait := .done 1 }; s.goesC 0 ∧ src 17 s = .ok (0x200000, s) ∧ s.cur.wait = .done 1 := ⟨⟨rfl, rfl⟩, rfl, rfl⟩

/-- A bundle whose C-slot waits for what it asked for: `bar`, with an A-slot that goes on, one that waits, and one that traps. -/
theorem witness_PairWaits : let s := (base.modCur fun t => { t with regPend := [(16, 5)] }).modCtx 1 0 fun k => { k with bg := [(1, 0x80000000)] }
    let s1 := { s with latch := { s.latch with mode := .pairC, exec := true, len := 8, word := 0 } }
    let second := fun (r : State) => { r with latch := { r.latch with mode := .pairA, exec := true, pre := s.cur, word := 0 } }
    (∃ r1, exec (.bar 1) s1 = .next r1 ∧ r1.latch.res = .wait 7) ∧ (∃ r2, exec (.anop ⟨0, 0⟩) (second s1) = .next r2 ∧ r2.latch.res = .ok) ∧ (∃ r2, exec (.addi ⟨0, 0⟩ 0 16 1) (second s1) = .next r2 ∧ r2.latch.res = .park 0) ∧
    ∃ r2, exec (.addi ⟨0, 0⟩ 0 39 1) (second s1) = .next r2 ∧ ∃ k v, r2.latch.res = .trap k v :=
  ⟨⟨_, rfl, rfl⟩, ⟨_, rfl, rfl⟩, ⟨_, rfl, rfl⟩, _, rfl, _, _, rfl⟩

/-- The last cluster of a shoot-down that a thread waits for. -/
theorem witness_ShootdownEnds : let s := { base.modThread 1 0 fun t => { t with st := .parked, wait := .shoot 7 } with shoots := [⟨7, 1, 0, 0x10000, [0], none⟩], arg := { id := 7 } }
    s.shoots.find? (fun y => y.id == s.arg.id) = some ⟨7, 1, 0, 0x10000, [0], none⟩ ∧ (s.thread 1 0).st ≠ .empty ∧ (s.thread 1 0).wait = .shoot 7 := by decide +kernel

/-- Commands that end with a lock of another command standing: the end takes only their own locks. -/
theorem witness_EngineStepsLocked : (let m := { cmd 5 1 (.accz 0 noTail) true with args := [0] }; let s := engines [m] [⟨5, true, 0, 0, 1, 0, 15⟩]; atCommand s m ∧ runs s m ∧ m.steps = 1 ∧ m.step = 0 ∧ m.args = [(0 : BitVec 2).toNat]) ∧
    (let m := { cmd 5 1 (.accz 0 noTail) true with cancelled := true }; let s := engines [m] [⟨5, true, 0, 0, 1, 0, 15⟩]; atCommand s m ∧ m.running = true ∧ m.cancelled = true ∧ m.step % 16 = 0) := by
  and_intros <;> decide +kernel

/-- A write to the configuration of a queue that is on. -/
theorem witness_QueueOn : let s := { queue [] id with arg := { v := 0x800000 } }; (s.subq s.arg.n).en = true ∧ bit s.arg.v.toNat 23 = true := by decide +kernel

/-- A TIMED packet whose time has not come. -/
theorem witness_TimedWaits : let s := queue [] fun k => { k with pkts := [⟨0, packet [(0, 5), (8, 9)], false⟩], hold := 3 }
    (s.subq 0).unstarted = some ⟨0, packet [(0, 5), (8, 9)], false⟩ ∧ s.now < pktN (packet [(0, 5), (8, 9)]) 8 8 := by decide +kernel

/-- A launch whose image names a lease of an unmapped page, and a take-over of one core by another whose firmware thread is halted. -/
theorem witness_LaunchStepsMore : (let s := ((launched 3 2 .waiting 0).put (0x200000 + 36) (toBytes 4 80 ++ toBytes 2 1)).put (0x200000 + 80) ([2, 7] ++ toBytes 2 0 ++ toBytes 4 1 ++ toBytes 8 0x40000000)
      ∃ m, s.launch s.arg.id = some m ∧ s.arg.pairs = [] ∧ s.resident m = false) ∧
    (let s := { base.setThread 32 0 { st := .parked, wait := .halt } with arg := { c := 0 } }
     s.sched.heldComps = [] ∧ s.dev.roles.find? (fun r => r.1 == s.arg.c && r.2.1 == 1) = some (s.arg.c, 1, 0) ∧ s.dev.roles.find? (fun r => r.2.1 == 2 && r.2.2 == 0) = some (32, 2, 0) ∧ (s.thread 32 0).wait = .halt) := by
  refine ⟨⟨_, rfl, ?_⟩, ?_⟩ <;> decide +kernel

/-- A PREEMPT request for a launch that stands on core 1. -/
theorem witness_PreemptPlaced : let s := managed { someLaunch .placed with id := (base.ctx 1 0).launch } (request true (toBytes 8 0) {})
    (s.placesOf (base.ctx 1 0).launch).length = 1 ∧ (s.launch (base.ctx 1 0).launch).isSome = true := by decide +kernel

/-- A release of rope 5 that a thread waits for. -/
theorem witness_RopeReleased : let s := (contributing 3 [] 1).modThread 1 0 fun t => { t with st := .parked, wait := .rope 5 }
    s.arg.id = 5 ∧ (s.rope 5).st = 3 ∧ (s.rope 5).pend = [] ∧ (s.rope 5).fill = 0 ∧ (s.rope 5).away = [] ∧ (s.thread 1 0).st ≠ .empty ∧ (s.thread 1 0).wait = .rope 5 := by decide +kernel

/-- A message that was refused and may not go yet. -/
theorem witness_SendWaits : let o := { op .send 256 .none with at_ := 3, exp := 256 }; let s := with1 base o; s.opById s.arg.id = some o ∧ o.at_ = 3 ∧ s.dev.clock < o.exp.toNat := by decide +kernel

/-- A scrubbed address with a line of the cache, which stays for another line. -/
theorem witness_ScrubbedLine : let s := { base.modCore 1 fun k => { k with l1d := [{ l := 1, va := 0x300000, pa := 0x300000, rights := 7, bytes := [] }] } with arg := { c := 1, n := 3, ok := true, addr := 0x200000 } }
    s.arg.n = 3 ∧ s.arg.m ≠ 1 ∧ (s.core 1).l1d ≠ [] := by decide +kernel

/-- A thread of this device that lives on another one is told where it goes next. -/
theorem witness_EvhornMoves : let s := evh (words 9 [256, 2]) 1 (base.modSched fun q => { q with abroad := [(256, {})] }); s.argN 0 8 = 9 ∧ s.sched.launches = [] ∧ (256, {}) ∈ s.sched.abroad := by decide +kernel

end Sys2Proof.Tests
end

