-- ==== Sys2Proof/Tests/Slice0.lean ====
section
/-! SUPPORT. Tests of the model by hand: words from the encoding tables, ill-formed instructions refused, the state after reset, and single steps whose results are computed from the rules named. -/

namespace Sys2Proof.Tests

set_option Elab.async false

open Sys2Proof Sys2Proof.Machine Sys2Proof.Claims

/-! ### Decoding (R161 to R173; the fields as spec/opcode_table.json places them) -/

/-- Words of control flow, traps and constants (R172, R192, R203 to R214): one for each instruction, every field at a value of its own. -/
theorem test_words_control :
    decodeWord 0x81000000 = some .nop ∧ decodeWord 0x02CDA5A5 = some (.br 1 9 370085) ∧ decodeWord 0x83FFC123 = some (.jmp 16761123) ∧ decodeWord 0x04013000 = some (.jmpr 19) ∧ decodeWord 0x85FFC123 = some (.call 16761123) ∧
    decodeWord 0x06013000 = some (.callr 19) ∧ decodeWord 0x87000000 = some .ret ∧ decodeWord 0x08BC3840 = some (.frame 192737) ∧ decodeWord 0x89A5C000 = some (.trap 2652) ∧ decodeWord 0x0A013000 = some (.sleep 19) ∧
    decodeWord 0x8A013001 = some (.sleepRel 19) ∧ decodeWord 0x0B000000 = some .yield ∧ decodeWord 0x8C4EF0E1 = some (.movi 19 192737) ∧ decodeWord 0x0D4EF0E1 = some (.movhi 19 192737) :=
  ⟨rfl, rfl, rfl, rfl, rfl, rfl, rfl, rfl, rfl, rfl, rfl, rfl, rfl, rfl⟩

/-- Words of scalar loads and stores (R168, R225, R226): one for each instruction, every field at a value of its own. -/
theorem test_words_scalar_memory :
    decodeWord 0x904E4A95 = some (.ld1 ⟨19, 36, 5, 2, 21⟩) ∧ decodeWord 0x114E4A95 = some (.ld2 ⟨19, 36, 5, 2, 21⟩) ∧ decodeWord 0x924E4A95 = some (.ld4 ⟨19, 36, 5, 2, 21⟩) ∧ decodeWord 0x134E4A95 = some (.ld8 ⟨19, 36, 5, 2, 21⟩) ∧
    decodeWord 0x944E4A95 = some (.lds1 ⟨19, 36, 5, 2, 21⟩) ∧ decodeWord 0x154E4A95 = some (.lds2 ⟨19, 36, 5, 2, 21⟩) ∧ decodeWord 0x964E4A95 = some (.lds4 ⟨19, 36, 5, 2, 21⟩) ∧ decodeWord 0x184E4A95 = some (.st1 ⟨19, 36, 5, 2, 21⟩) ∧
    decodeWord 0x994E4A95 = some (.st2 ⟨19, 36, 5, 2, 21⟩) ∧ decodeWord 0x1A4E4A95 = some (.st4 ⟨19, 36, 5, 2, 21⟩) ∧ decodeWord 0x9B4E4A95 = some (.st8 ⟨19, 36, 5, 2, 21⟩) :=
  ⟨rfl, rfl, rfl, rfl, rfl, rfl, rfl, rfl, rfl, rfl, rfl⟩

/-- Words of vector loads and stores (R227, R297, R298): one for each instruction, every field at a value of its own. -/
theorem test_words_vector_memory :
    decodeWord 0x1C253AA4 = some (.ldv ⟨9, 19, 5, 2, 36⟩) ∧ decodeWord 0x9D253AA4 = some (.stv ⟨9, 19, 5, 2, 36⟩) ∧ decodeWord 0x1E94D9AA = some (.vldx ⟨9, 19, 6, 6, 5, 2⟩) ∧ decodeWord 0x9F94D9AA = some (.vstx ⟨9, 19, 6, 6, 5, 2⟩) :=
  ⟨rfl, rfl, rfl, rfl⟩

/-- Words of atomics, in the layout of their own (R228): one for each instruction, every field at a value of its own. -/
theorem test_words_atomics :
    decodeWord 0x208E4609 = some (.aadd4 ⟨17, 25, 3, 9⟩) ∧ decodeWord 0xA08E4619 = some (.aadd8 ⟨17, 25, 3, 9⟩) ∧ decodeWord 0x208E4629 = some (.afadd ⟨17, 25, 3, 9⟩) ∧ decodeWord 0xA08E4639 = some (.aminS32 ⟨17, 25, 3, 9⟩) ∧
    decodeWord 0x208E4649 = some (.aminS64 ⟨17, 25, 3, 9⟩) ∧ decodeWord 0xA08E4659 = some (.aminU32 ⟨17, 25, 3, 9⟩) ∧ decodeWord 0x208E4669 = some (.aminU64 ⟨17, 25, 3, 9⟩) ∧ decodeWord 0xA08E4679 = some (.aminF32 ⟨17, 25, 3, 9⟩) ∧
    decodeWord 0x208E4689 = some (.amaxS32 ⟨17, 25, 3, 9⟩) ∧ decodeWord 0xA08E4699 = some (.amaxS64 ⟨17, 25, 3, 9⟩) ∧ decodeWord 0x208E46A9 = some (.amaxU32 ⟨17, 25, 3, 9⟩) ∧ decodeWord 0xA08E46B9 = some (.amaxU64 ⟨17, 25, 3, 9⟩) ∧
    decodeWord 0x208E46C9 = some (.amaxF32 ⟨17, 25, 3, 9⟩) ∧ decodeWord 0xA08E46D9 = some (.aand ⟨17, 25, 3, 9⟩) ∧ decodeWord 0x208E46E9 = some (.aor ⟨17, 25, 3, 9⟩) ∧ decodeWord 0xA08E46F9 = some (.axor ⟨17, 25, 3, 9⟩) ∧
    decodeWord 0x208E4709 = some (.aswap4 ⟨17, 25, 3, 9⟩) ∧ decodeWord 0xA08E4719 = some (.aswap8 ⟨17, 25, 3, 9⟩) ∧ decodeWord 0x208E4729 = some (.acas ⟨17, 25, 3, 9⟩) :=
  ⟨rfl, rfl, rfl, rfl, rfl, rfl, rfl, rfl, rfl, rfl, rfl, rfl, rfl, rfl, rfl, rfl, rfl, rfl, rfl⟩

/-- Words of fences, hints, full/empty accesses and tasks (R119, R230 to R241): one for each instruction, every field at a value of its own. -/
theorem test_words_fences_and_tasks :
    decodeWord 0xA1009080 = some (.fence 9 2) ∧ decodeWord 0x21002901 = some (.sbwait 164) ∧ decodeWord 0xA2013164 = some (.prefetch 19 5 36) ∧ decodeWord 0x23013164 = some (.touch 19 5 36) ∧
    decodeWord 0xA44E4A95 = some (.ldfe ⟨19, 36, 5, 2, 21⟩) ∧ decodeWord 0x254E4A95 = some (.stfe ⟨19, 36, 5, 2, 21⟩) ∧ decodeWord 0xA6013080 = some (.tbeg 19 2) ∧ decodeWord 0x26000001 = some .tend ∧
    decodeWord 0xA6000002 = some .tabort ∧ decodeWord 0x26000003 = some .tserial ∧ decodeWord 0xA6013004 = some (.tstamp 19) :=
  ⟨rfl, rfl, rfl, rfl, rfl, rfl, rfl, rfl, rfl, rfl, rfl⟩

/-- Words of threads, semaphores and barriers (R243 to R253): one for each instruction, every field at a value of its own. -/
theorem test_words_threads_and_sync :
    decodeWord 0x284E4540 = some (.spawn ⟨19, 36, 21, 0⟩) ∧ decodeWord 0xA94E4540 = some (.spawnc ⟨19, 36, 21, 0⟩) ∧ decodeWord 0x2A4E4540 = some (.spawnx ⟨19, 36, 21, 0⟩) ∧ decodeWord 0xAB013000 = some (.join 19) ∧
    decodeWord 0x2B000001 = some .exit ∧ decodeWord 0xAB013002 = some (.prio 19) ∧ decodeWord 0x2B013003 = some (.migr 19) ∧ decodeWord 0xAB000004 = some .kpt ∧ decodeWord 0x2C0130C8 = some (.sinc 19 3 1) ∧
    decodeWord 0xAC0130C9 = some (.swait 19 3 1) ∧ decodeWord 0x2C4C00CA = some (.sget 19 3 1) ∧ decodeWord 0xAC0130CB = some (.sset 19 3 1) ∧ decodeWord 0x2C4E4004 = some (.smwait 19 36) ∧ decodeWord 0xAD000240 = some (.bar 9) ∧
    decodeWord 0x2D4C0241 = some (.barq 19 9) ∧ decodeWord 0xAD000242 = some (.barqWait 9) :=
  ⟨rfl, rfl, rfl, rfl, rfl, rfl, rfl, rfl, rfl, rfl, rfl, rfl, rfl, rfl, rfl, rfl⟩

/-- Words of ropes, fixed lines and messages (R256 to R270): one for each instruction, every field at a value of its own. -/
theorem test_words_ropes_lines_messages :
    decodeWord 0x2E013900 = some (.rparm 19 36) ∧ decodeWord 0xAE4E4541 = some (.rpjoin 19 36 21) ∧ decodeWord 0x2E4E4002 = some (.rparr 19 36) ∧ decodeWord 0xAE013003 = some (.rpwait 19) ∧ decodeWord 0x2E013004 = some (.rpstat 19) ∧
    decodeWord 0xAE000005 = some .rpleave ∧ decodeWord 0x2F4E4548 = some (.flsub ⟨19, 36, 21⟩ 1) ∧ decodeWord 0xAF013001 = some (.flend 19) ∧ decodeWord 0x2F013002 = some (.flsync 19) ∧ decodeWord 0xAF4E4003 = some (.flstat 19 36) ∧
    decodeWord 0x2F4E4004 = some (.flstatClr 19 36) ∧ decodeWord 0xB04E4568 = some (.send ⟨19, 36, 21⟩ 5) ∧ decodeWord 0x30013001 = some (.acqr 19) ∧ decodeWord 0xB0013002 = some (.relr 19) :=
  ⟨rfl, rfl, rfl, rfl, rfl, rfl, rfl, rfl, rfl, rfl, rfl, rfl, rfl, rfl⟩

/-- Words of engine commands, format CE (R300 to R334): one for each instruction, every field at a value of its own. -/
theorem test_words_engines :
    decodeWord 0x314E4D15 = some (.ksend 19 36 1 5 ⟨2, 2, 1⟩) ∧ decodeWord 0xB100006D = some (.kflush ⟨5, 2, 1⟩) ∧ decodeWord 0x314E40AD = some (.kbins 19 36 ⟨5, 2, 1⟩) ∧ decodeWord 0xB14E41AD = some (.kbinsMap 19 36 ⟨5, 2, 1⟩) ∧
    decodeWord 0x314C02AD = some (.kbinsStat 19 ⟨5, 2, 1⟩) ∧ decodeWord 0xB24E426D = some (.tld 19 36 9 ⟨5, 2, 1⟩) ∧ decodeWord 0x334E426D = some (.tst 19 36 9 ⟨5, 2, 1⟩) ∧ decodeWord 0xB44C026D = some (.tzero 19 9 ⟨5, 2, 1⟩) ∧
    decodeWord 0x340008AB = some (.accz 2 ⟨5, 1, 1⟩) ∧ decodeWord 0xB54C00AB = some (.mma 19 2 ⟨5, 1, 1⟩) ∧ decodeWord 0x354C01AB = some (.mmat 19 2 ⟨5, 1, 1⟩) ∧ decodeWord 0xB64E4D93 = some (.mvs 19 36 1 5 2 ⟨2, 1, 1⟩) ∧
    decodeWord 0x374E4D93 = some (.epi 19 36 1 5 2 ⟨2, 1, 1⟩) ∧ decodeWord 0xB84E4D15 = some (.cpy 19 36 1 5 ⟨2, 2, 1⟩) ∧ decodeWord 0x384E4D55 = some (.cpyp 19 36 1 5 ⟨2, 2, 1⟩) ∧
    decodeWord 0xB84E4D95 = some (.cpyf 19 36 1 5 ⟨2, 2, 1⟩) ∧ decodeWord 0x394E402D = some (.put 19 36 ⟨5, 2, 1⟩) ∧ decodeWord 0xB94E406D = some (.get 19 36 ⟨5, 2, 1⟩) :=
  ⟨rfl, rfl, rfl, rfl, rfl, rfl, rfl, rfl, rfl, rfl, rfl, rfl, rfl, rfl, rfl, rfl, rfl, rfl⟩

/-- Words of system instructions (R215 to R221): one for each instruction, every field at a value of its own. -/
theorem test_words_system :
    decodeWord 0x3A4C00C3 = some (.mvc 19 195) ∧ decodeWord 0xBB4C00C3 = some (.mtc 19 195) ∧ decodeWord 0x3C000000 = some .rte ∧ decodeWord 0xBCA5C001 = some (.sysc 2652) ∧ decodeWord 0x3CA5C002 = some (.bkpt 2652) ∧
    decodeWord 0xBC000003 = some .halt ∧ decodeWord 0x3D4E4540 = some (.csave ⟨19, 36, 21⟩) ∧ decodeWord 0xBD4E4541 = some (.crest ⟨19, 36, 21⟩) ∧ decodeWord 0x3E013900 = some (.tlbinv 19 36) ∧
    decodeWord 0xBE013901 = some (.tlbinvCtx 19 36) :=
  ⟨rfl, rfl, rfl, rfl, rfl, rfl, rfl, rfl, rfl, rfl⟩

/-- Words of scalar integer instructions (R189 to R197): one for each instruction, every field at a value of its own. -/
theorem test_words_scalar_integer :
    decodeWord 0x40A80000 = some (.anop ⟨1, 5⟩) ∧ decodeWord 0xC1AA722B = some (.add ⟨1, 5⟩ ⟨19, 36, 21⟩ 1) ∧ decodeWord 0x42AA722B = some (.sub ⟨1, 5⟩ ⟨19, 36, 21⟩ 1) ∧ decodeWord 0xC3AA722B = some (.mul ⟨1, 5⟩ ⟨19, 36, 21⟩ 1) ∧
    decodeWord 0x44AA722B = some (.mulh ⟨1, 5⟩ ⟨19, 36, 21⟩ 1) ∧ decodeWord 0xC5AA722B = some (.div ⟨1, 5⟩ ⟨19, 36, 21⟩ 1) ∧ decodeWord 0x46AA722B = some (.rem ⟨1, 5⟩ ⟨19, 36, 21⟩ 1) ∧
    decodeWord 0xC7AA722B = some (.min ⟨1, 5⟩ ⟨19, 36, 21⟩ 1) ∧ decodeWord 0x48AA722B = some (.max ⟨1, 5⟩ ⟨19, 36, 21⟩ 1) ∧ decodeWord 0xC9AA722A = some (.and ⟨1, 5⟩ ⟨19, 36, 21⟩) ∧
    decodeWord 0x4AAA722A = some (.or ⟨1, 5⟩ ⟨19, 36, 21⟩) ∧ decodeWord 0xCBAA722A = some (.xor ⟨1, 5⟩ ⟨19, 36, 21⟩) ∧ decodeWord 0x4CAA722A = some (.andn ⟨1, 5⟩ ⟨19, 36, 21⟩) ∧
    decodeWord 0xCDAA722B = some (.shl ⟨1, 5⟩ ⟨19, 36, 21⟩ 1) ∧ decodeWord 0x4EAA722B = some (.shr ⟨1, 5⟩ ⟨19, 36, 21⟩ 1) ∧ decodeWord 0xCFAA722B = some (.sar ⟨1, 5⟩ ⟨19, 36, 21⟩ 1) ∧
    decodeWord 0x57AA722B = some (.lea ⟨1, 5⟩ ⟨19, 36, 21⟩ 1) ∧ decodeWord 0xD0AA726B = some (.addi ⟨1, 5⟩ 19 36 107) ∧ decodeWord 0x51AA726B = some (.andi ⟨1, 5⟩ 19 36 107) ∧ decodeWord 0xD2AA726B = some (.ori ⟨1, 5⟩ 19 36 107) ∧
    decodeWord 0x53AA726B = some (.xori ⟨1, 5⟩ 19 36 107) ∧ decodeWord 0xD4AA7215 = some (.shli ⟨1, 5⟩ 19 36 21) ∧ decodeWord 0x55AA7215 = some (.shri ⟨1, 5⟩ 19 36 21) ∧ decodeWord 0xD6AA7215 = some (.sari ⟨1, 5⟩ 19 36 21) ∧
    decodeWord 0x58AA722B = some (.bext ⟨1, 5⟩ ⟨19, 36, 21⟩ 1) ∧ decodeWord 0xD9AA722A = some (.bins ⟨1, 5⟩ ⟨19, 36, 21⟩) ∧ decodeWord 0x5AAA7201 = some (.clz ⟨1, 5⟩ 19 36 1) ∧ decodeWord 0xDAAA7203 = some (.ctz ⟨1, 5⟩ 19 36 1) ∧
    decodeWord 0x5AAA7205 = some (.popc ⟨1, 5⟩ 19 36 1) ∧ decodeWord 0xDBAB49C8 = some (.sel ⟨1, 5⟩ 6 1 19 36) :=
  ⟨rfl, rfl, rfl, rfl, rfl, rfl, rfl, rfl, rfl, rfl, rfl, rfl, rfl, rfl, rfl, rfl, rfl, rfl, rfl, rfl, rfl, rfl, rfl, rfl, rfl, rfl, rfl, rfl, rfl, rfl⟩

/-- Words of compares and predicates (R195 to R198): one for each instruction, every field at a value of its own. -/
theorem test_words_predicates :
    decodeWord 0x5CAB2725 = some (.cmp ⟨1, 5⟩ 6 19 36 5) ∧ decodeWord 0xDDAB2725 = some (.cmpi ⟨1, 5⟩ 6 19 36 5) ∧ decodeWord 0x5EAB5770 = some (.pand ⟨1, 5⟩ ⟨6, 1, 11, 1, 14⟩) ∧
    decodeWord 0xDEAB5771 = some (.por ⟨1, 5⟩ ⟨6, 1, 11, 1, 14⟩) ∧ decodeWord 0x5EAB5772 = some (.pxor ⟨1, 5⟩ ⟨6, 1, 11, 1, 14⟩) ∧ decodeWord 0xDEAB5603 = some (.pnot ⟨1, 5⟩ 6 1 11) ∧
    decodeWord 0x5FAA7204 = some (.ppack ⟨1, 5⟩ 19 36 2) ∧ decodeWord 0xDFA80985 = some (.punpack ⟨1, 5⟩ 19 2) :=
  ⟨rfl, rfl, rfl, rfl, rfl, rfl, rfl, rfl⟩

/-- Words of scalar FP32 (R199 to R202): one for each instruction, every field at a value of its own. -/
theorem test_words_scalar_float :
    decodeWord 0x60AA722A = some (.fadd ⟨1, 5⟩ ⟨19, 36, 21⟩) ∧ decodeWord 0xE1AA722A = some (.fsub ⟨1, 5⟩ ⟨19, 36, 21⟩) ∧ decodeWord 0x62AA722A = some (.fmul ⟨1, 5⟩ ⟨19, 36, 21⟩) ∧
    decodeWord 0xE3AA722A = some (.ffma ⟨1, 5⟩ ⟨19, 36, 21⟩) ∧ decodeWord 0x64AA722A = some (.fdiv ⟨1, 5⟩ ⟨19, 36, 21⟩) ∧ decodeWord 0xE5AA7200 = some (.fsqrt ⟨1, 5⟩ 19 36) ∧ decodeWord 0x66AA722A = some (.fmin ⟨1, 5⟩ ⟨19, 36, 21⟩) ∧
    decodeWord 0xE6AA722B = some (.fmax ⟨1, 5⟩ ⟨19, 36, 21⟩) ∧ decodeWord 0x67AB2725 = some (.fcmp ⟨1, 5⟩ 6 19 36 5) ∧ decodeWord 0xE8AA720F = some (.fcvt ⟨1, 5⟩ 19 36 7 1) :=
  ⟨rfl, rfl, rfl, rfl, rfl, rfl, rfl, rfl, rfl, rfl⟩

/-- Words of vector arithmetic (R278 to R283): one for each instruction, every field at a value of its own. -/
theorem test_words_vector_arithmetic :
    decodeWord 0x69AB5F4A = some (.vadd ⟨1, 5⟩ ⟨6, 11, 14, 9⟩ 1) ∧ decodeWord 0xE9AB5F27 = some (.vaddScalar ⟨1, 5⟩ ⟨6, 11, 14, 19⟩) ∧ decodeWord 0x6AAB5F4A = some (.vsub ⟨1, 5⟩ ⟨6, 11, 14, 9⟩ 1) ∧
    decodeWord 0xEAAB5F27 = some (.vsubScalar ⟨1, 5⟩ ⟨6, 11, 14, 19⟩) ∧ decodeWord 0x6BAB5F4A = some (.vmul ⟨1, 5⟩ ⟨6, 11, 14, 9⟩ 1) ∧ decodeWord 0xEBAB5F27 = some (.vmulScalar ⟨1, 5⟩ ⟨6, 11, 14, 19⟩) ∧
    decodeWord 0x6CAB5F4A = some (.vfma ⟨1, 5⟩ ⟨6, 11, 14, 9⟩ 1) ∧ decodeWord 0xECAB5F27 = some (.vfmaScalar ⟨1, 5⟩ ⟨6, 11, 14, 19⟩) ∧ decodeWord 0x6DAB5F48 = some (.vmin ⟨1, 5⟩ ⟨6, 11, 14, 9⟩) ∧
    decodeWord 0xEDAB5F49 = some (.vmax ⟨1, 5⟩ ⟨6, 11, 14, 9⟩) ∧ decodeWord 0x6EAB5F48 = some (.vand ⟨1, 5⟩ ⟨6, 11, 14, 9⟩) ∧ decodeWord 0xEEAB5F49 = some (.vor ⟨1, 5⟩ ⟨6, 11, 14, 9⟩) ∧
    decodeWord 0x6EAB5F4A = some (.vxor ⟨1, 5⟩ ⟨6, 11, 14, 9⟩) ∧ decodeWord 0xEEAB5F03 = some (.vnot ⟨1, 5⟩ 6 11 14) ∧ decodeWord 0x6FAB5F48 = some (.vshl ⟨1, 5⟩ ⟨6, 11, 14, 9⟩) ∧
    decodeWord 0xEFAB5F4A = some (.vshr ⟨1, 5⟩ ⟨6, 11, 14, 9⟩) ∧ decodeWord 0x6FAB5F4C = some (.vsar ⟨1, 5⟩ ⟨6, 11, 14, 9⟩) ∧ decodeWord 0xEFAB5827 = some (.vshlScalar ⟨1, 5⟩ 6 11 19) ∧
    decodeWord 0x6FAB58A7 = some (.vshrScalar ⟨1, 5⟩ 6 11 19) ∧ decodeWord 0xEFAB5927 = some (.vsarScalar ⟨1, 5⟩ 6 11 19) ∧ decodeWord 0x70AB5F4D = some (.vcmp ⟨1, 5⟩ ⟨6, 11, 14, 9⟩ 5) ∧
    decodeWord 0xF1AB5F4D = some (.vsel ⟨1, 5⟩ ⟨6, 11, 14, 9⟩ 5) :=
  ⟨rfl, rfl, rfl, rfl, rfl, rfl, rfl, rfl, rfl, rfl, rfl, rfl, rfl, rfl, rfl, rfl, rfl, rfl, rfl, rfl, rfl, rfl⟩

/-- Words of moving, reducing, rearranging and converting elements, special functions (R284 to R294): one for each instruction, every field at a value of its own. -/
theorem test_words_vector_rest :
    decodeWord 0x72AB5826 = some (.vbcast ⟨1, 5⟩ 6 11 19) ∧ decodeWord 0xF2AB58A6 = some (.vins ⟨1, 5⟩ 6 11 19) ∧ decodeWord 0x72AB05A7 = some (.vext ⟨1, 5⟩ 6 11 19) ∧ decodeWord 0xF3AB5F48 = some (.vredsum ⟨1, 5⟩ ⟨6, 11, 14, 9⟩) ∧
    decodeWord 0x73AB5F4A = some (.vredmin ⟨1, 5⟩ ⟨6, 11, 14, 9⟩) ∧ decodeWord 0xF3AB5F4C = some (.vredmax ⟨1, 5⟩ ⟨6, 11, 14, 9⟩) ∧ decodeWord 0x73AB05A7 = some (.vredsumScalar ⟨1, 5⟩ 6 11 19) ∧
    decodeWord 0xF3AB0DA7 = some (.vredminScalar ⟨1, 5⟩ 6 11 19) ∧ decodeWord 0x73AB15A7 = some (.vredmaxScalar ⟨1, 5⟩ 6 11 19) ∧ decodeWord 0xF4AB5F48 = some (.vperm ⟨1, 5⟩ ⟨6, 11, 14, 9⟩) ∧
    decodeWord 0x75AB5F26 = some (.vslideup ⟨1, 5⟩ ⟨6, 11, 14, 19⟩) ∧ decodeWord 0xF5AB5F27 = some (.vslidedn ⟨1, 5⟩ ⟨6, 11, 14, 19⟩) ∧ decodeWord 0x76AB5F48 = some (.vcompress ⟨1, 5⟩ ⟨6, 11, 14, 9⟩) ∧
    decodeWord 0xF6AB5F49 = some (.vexpand ⟨1, 5⟩ ⟨6, 11, 14, 9⟩) ∧ decodeWord 0x77AB5F51 = some (.vcvt ⟨1, 5⟩ ⟨6, 11, 14, 10⟩ 1) ∧ decodeWord 0xF8ACE748 = some (.vwadd ⟨1, 5⟩ ⟨9, 12, 14, 9⟩) ∧
    decodeWord 0x78AA7749 = some (.vwmul ⟨1, 5⟩ ⟨4, 14, 14, 9⟩) ∧ decodeWord 0xF8AB6712 = some (.vwcvt ⟨1, 5⟩ ⟨6, 12, 14, 2⟩) ∧ decodeWord 0x79ACDE72 = some (.vnadd ⟨1, 5⟩ ⟨9, 11, 12, 14⟩ 1) ∧
    decodeWord 0xF9A95C53 = some (.vncvt ⟨1, 5⟩ ⟨2, 11, 8, 10⟩ 1) ∧ decodeWord 0x7AAB5F01 = some (.vbmax ⟨1, 5⟩ 6 11 14 1) ∧ decodeWord 0xFBAC5F00 = some (.vexp2 ⟨1, 5⟩ 8 11 14) ∧ decodeWord 0x7BACDF01 = some (.vlog2 ⟨1, 5⟩ 9 11 14) ∧
    decodeWord 0xFBAD5F02 = some (.vrcp ⟨1, 5⟩ 10 11 14) ∧ decodeWord 0x7BAC5F03 = some (.vrsqrt ⟨1, 5⟩ 8 11 14) ∧ decodeWord 0xFBACDF04 = some (.vsqrt ⟨1, 5⟩ 9 11 14) ∧ decodeWord 0x7BAD5F05 = some (.vtanh ⟨1, 5⟩ 10 11 14) ∧
    decodeWord 0xFBAC5F06 = some (.vsigm ⟨1, 5⟩ 8 11 14) ∧ decodeWord 0x7CA83580 = some (.vmov ⟨1, 5⟩ 6 11) ∧ decodeWord 0xFCA83002 = some (.vzero ⟨1, 5⟩ 6) ∧ decodeWord 0x7CA83027 = some (.vmovScalar ⟨1, 5⟩ 6 19) :=
  ⟨rfl, rfl, rfl, rfl, rfl, rfl, rfl, rfl, rfl, rfl, rfl, rfl, rfl, rfl, rfl, rfl, rfl, rfl, rfl, rfl, rfl, rfl, rfl, rfl, rfl, rfl, rfl, rfl, rfl, rfl, rfl⟩

/-- The lone words that the entries write out: `nop` (R203), `ret` (R209), `frame 64` and `frame -64` (R211), `mvc t0, THID` (R215), `sel t0, !p2, k1, z` (R197). -/
theorem test_words_of_the_entries : decodeWord 0x81000000 = some .nop ∧ decodeWord 0x87000000 = some .ret ∧ decodeWord 0x88000200 = some (.frame 8) ∧ decodeWord 0x88FFFE00 = some (.frame (-8)) ∧
    decodeWord 0xBA000003 = some (.mvc 0 3) ∧ decodeWord 0xDB0148C8 = some (.sel ⟨0, 0⟩ 2 1 17 36) := ⟨rfl, rfl, rfl, rfl, rfl, rfl⟩

/-- The prefix: mask v3, MEN and ZERO set, RM 7, VC 9 supplied (R171). -/
theorem test_prefix : decodePfx (0x0E#8 ++ 3#4 ++ 1#1 ++ 1#1 ++ 7#3 ++ 9#4 ++ 1#1 ++ 0#10) = some ⟨3, 1, 1, 7, 9, 1⟩ ∧ decodePfx (0x0E#8 ++ 3#4 ++ 0#1 ++ 1#1 ++ 7#3 ++ 0#4 ++ 0#1 ++ 0#10) = none ∧
    decodePfx (0x0E#8 ++ 3#4 ++ 1#1 ++ 0#1 ++ 6#3 ++ 0#4 ++ 0#1 ++ 0#10) = none := ⟨rfl, rfl, rfl⟩

/-- The word as the table numbers its bits; below, the same word fetched and run as the first instruction. -/
theorem test_table_word : decodeTableWord 32 0x8C400005 = some (.movi 16 5) := rfl

theorem test_table_word_runs : (match step (State.reset.withFetchWord 32 0x8C400005) with | .next t => Table.get 0 0 (t.thread 1 0).k | _ => 0) = 5 := by decide +kernel

/-! ### Ill-formed instructions: one for each check of WellFormed -/

/-- Registers: no source above 38, no destination in the result queue or above 37 (R165), the destinations of loads, of spawns and of the atomics (R225, R228, R243), no `st` of sp (R226). -/
theorem test_ill_formed_registers : ¬ WellFormed (.jmpr 39) ∧ ¬ WellFormed (.movi 5 0) ∧ ¬ WellFormed (.movi 38 0) ∧ ¬ WellFormed (.ld8 ⟨24, 16, 0, 0, 0⟩) ∧ ¬ WellFormed (.st8 ⟨37, 16, 0, 0, 0⟩) ∧ ¬ WellFormed (.ldv ⟨0, 40, 0, 0, 0⟩) ∧
    ¬ WellFormed (.aand ⟨1, 16, 17, 0⟩) ∧ ¬ WellFormed (.aand ⟨16, 26, 17, 0⟩) ∧ ¬ WellFormed (.spawn ⟨37, 16, 17, 18⟩) ∧ ¬ WellFormed (.send ⟨15, 16, 17⟩ 0) ∧ ¬ WellFormed (.add ⟨0, 0⟩ ⟨16, 63, 0⟩ 0) ∧ ¬ WellFormed (.mvc 1 3) ∧ ¬ WellFormed (.tld 39 16 0 ⟨0, 0, 0⟩) ∧
    ¬ WellFormed (.vslideup ⟨0, 0⟩ ⟨6, 0, 1, 39⟩) ∧ ¬ WellFormed (.flsub ⟨37, 16, 17⟩ 0) ∧ ¬ WellFormed (.rpjoin 39 16 17) ∧ ¬ WellFormed (.epi 16 50 0 0 0 ⟨0, 0, 0⟩) := by decide

/-- Guards and branches: G = 0 with NEG = 1 (R167, R204). -/
theorem test_ill_formed_guards : ¬ WellFormed (.anop ⟨1, 0⟩) ∧ ¬ WellFormed (.br 1 0 4) ∧ ¬ WellFormed (.vzero ⟨1, 0⟩ 0) ∧ ¬ WellFormed (.pand ⟨1, 0⟩ ⟨1, 0, 0, 0, 0⟩) := by decide

/-- Codes: scopes above 11 and a rope operand outside rope scope (R175, R119), slot 0 of `sbwait` (R230), `tbeg` of a free task with a register (R237), thread semaphores above 3 (R251), condition 7 (R195, R201), conversions above 9 (R202). -/
theorem test_ill_formed_codes : ¬ WellFormed (.aor ⟨0, 16, 17, 12⟩) ∧ ¬ WellFormed (.fence 0 12) ∧ ¬ WellFormed (.fence 1 5) ∧ ¬ WellFormed (.sbwait 1) ∧ ¬ WellFormed (.tbeg 16 0) ∧ ¬ WellFormed (.swait 16 4 1) ∧
    ¬ WellFormed (.cmp ⟨0, 0⟩ 1 16 17 7) ∧ ¬ WellFormed (.cmpi ⟨0, 0⟩ 1 16 0 7) ∧ ¬ WellFormed (.fcmp ⟨0, 0⟩ 1 16 17 7) ∧ ¬ WellFormed (.fcvt ⟨0, 0⟩ 16 17 10 0) := by decide

/-- Vector types: reserved codes, `.sat` of a floating type (R278), shifts of floats (R281), `un` of integers (R282), index groups (R272, R287, R297), pairs and widths of conversions, register groups (R290 to R292), integers for a special function (R294). -/
theorem test_ill_formed_types : ¬ WellFormed (.vmin ⟨0, 0⟩ ⟨11, 0, 1, 2⟩) ∧ ¬ WellFormed (.vadd ⟨0, 0⟩ ⟨10, 0, 1, 2⟩ 1) ∧ ¬ WellFormed (.vadd ⟨0, 0⟩ ⟨6, 0, 1, 2⟩ 2) ∧ ¬ WellFormed (.vshl ⟨0, 0⟩ ⟨8, 0, 1, 2⟩) ∧ ¬ WellFormed (.vcmp ⟨0, 0⟩ ⟨6, 0, 1, 2⟩ 6) ∧
    ¬ WellFormed (.vperm ⟨0, 0⟩ ⟨2, 0, 1, 3⟩) ∧ ¬ WellFormed (.vldx ⟨0, 16, 2, 0, 0, 0⟩) ∧ ¬ WellFormed (.vcvt ⟨0, 0⟩ ⟨6, 0, 1, 6⟩ 0) ∧ ¬ WellFormed (.vcvt ⟨0, 0⟩ ⟨6, 0, 1, 2⟩ 0) ∧ ¬ WellFormed (.vwadd ⟨0, 0⟩ ⟨10, 0, 2, 3⟩) ∧ ¬ WellFormed (.vwadd ⟨0, 0⟩ ⟨9, 1, 2, 3⟩) ∧
    ¬ WellFormed (.vwcvt ⟨0, 0⟩ ⟨6, 2, 1, 2⟩) ∧ ¬ WellFormed (.vnadd ⟨0, 0⟩ ⟨9, 0, 1, 2⟩ 0) ∧ ¬ WellFormed (.vncvt ⟨0, 0⟩ ⟨2, 0, 1, 4⟩ 0) ∧ ¬ WellFormed (.vexp2 ⟨0, 0⟩ 6 0 1) ∧ ¬ WellFormed (.vbmax ⟨0, 0⟩ 12 0 1 0) := by decide

/-- Words with a reserved bit set: an operand of `ret`, B of `jmpr`, the top of D in `ldv` and `mtc`, IMM7 bit 6 of `shli`, X of `and`, FN 7 of `vand` (R163, R169, R191). -/
theorem test_reserved_bits : decodeWord 0x87000001 = none ∧ decodeWord 0x84010001 = none ∧ decodeWord 0x9C800000 = none ∧ decodeWord 0xBB010002 = none ∧ decodeWord (0xD4#8 ++ 0#1 ++ 0#4 ++ 16#6 ++ 17#6 ++ 64#7) = none ∧
    decodeWord (0xC9#8 ++ 0#5 ++ 16#6 ++ 17#6 ++ 18#6 ++ 1#1) = none ∧ decodeWord (0xEE#8 ++ 0#5 ++ 6#4 ++ 0#4 ++ 1#4 ++ 2#4 ++ 7#3) = none := ⟨rfl, rfl, rfl, rfl, rfl, rfl, rfl⟩

/-! ### Single steps. Thread 0 of core 1; expected values are worked out from the rules named. -/

/-- The state after an instruction. -/
def after (i : Instr) (s : State) : State := match exec i s with
  | .next t => t
  | _ => s

/-- Register k`n` of the thread. -/
def kReg (n : Nat) (s : State) : Word := Table.get 0 n s.cur.k

/-- The thread with k0 and k1 holding two words. -/
def two (a b : Word) : State := withThread fun t => { t with k := [(0, a), (1, b)] }

/-- An A-class form d := a op b on k0 and k1 into k2. -/
def abd : Rrr := ⟨18, 16, 17⟩

/-- The value of the newest operation. -/
def lastValue (s : State) : Option (BitVec 4096) := s.ops.getLast?.map fun o => o.data

/-! Scalar integers (R189 to R198). -/

/-- The worked examples of R189. -/
theorem test_add_w : (after (.add ⟨0, 0⟩ ⟨0, 16, 17⟩ 1) (two 0x7FFFFFFF 1)).cur.t.head? = some (.val 0xFFFFFFFF80000000) := by decide
theorem test_lea_8 : (after (.lea ⟨0, 0⟩ ⟨0, 16, 17⟩ 1) (two 0x1000 3)).cur.t.head? = some (.val 0x1018) := by decide
theorem test_lea_4 : kReg 2 (after (.lea ⟨0, 0⟩ abd 0) (two 0x1000 3)) = 0x100C := by decide
theorem test_add_wraps : kReg 2 (after (.add ⟨0, 0⟩ abd 0) (two 0xFFFFFFFFFFFFFFFF 2)) = 1 := by decide
theorem test_sub_order : kReg 2 (after (.sub ⟨0, 0⟩ abd 0) (two 3 5)) = 0xFFFFFFFFFFFFFFFE := by decide
theorem test_sub_w : kReg 2 (after (.sub ⟨0, 0⟩ abd 1) (two 0x80000000 1)) = 0x7FFFFFFF := by decide
theorem test_mul_low : kReg 2 (after (.mul ⟨0, 0⟩ abd 0) (two 0x8000000000000001 3)) = 0x8000000000000003 := by decide
theorem test_mul_w : kReg 2 (after (.mul ⟨0, 0⟩ abd 1) (two 0x10000 0x8000)) = 0xFFFFFFFF80000000 := by decide
theorem test_mulh_signed : lastValue (after (.mulh ⟨0, 0⟩ abd 0) (two 0xFFFFFFFFFFFFFFFF 2)) = some 0xFFFFFFFFFFFFFFFF := by decide +kernel
theorem test_mulh_unsigned : lastValue (after (.mulh ⟨0, 0⟩ abd 1) (two 0xFFFFFFFFFFFFFFFF 2)) = some 1 := by decide +kernel
/-- R190: towards zero; by zero; −2^63 by −1; the unsigned form. -/
theorem test_div_towards_zero : lastValue (after (.div ⟨0, 0⟩ abd 0) (two (-7) 2)) = some 0xFFFFFFFFFFFFFFFD := by decide +kernel
theorem test_div_by_zero : lastValue (after (.div ⟨0, 0⟩ abd 1) (two 7 0)) = some 0xFFFFFFFFFFFFFFFF := by decide +kernel
theorem test_rem_sign : lastValue (after (.rem ⟨0, 0⟩ abd 0) (two (-7) 2)) = some 0xFFFFFFFFFFFFFFFF := by decide +kernel
theorem test_rem_least : lastValue (after (.rem ⟨0, 0⟩ abd 0) (two 0x8000000000000000 (-1))) = some 0 := by decide +kernel
theorem test_min_signed : kReg 2 (after (.min ⟨0, 0⟩ abd 0) (two (-1) 1)) = -1 := by decide
theorem test_min_unsigned : kReg 2 (after (.min ⟨0, 0⟩ abd 1) (two (-1) 1)) = 1 := by decide
theorem test_max_signed : kReg 2 (after (.max ⟨0, 0⟩ abd 0) (two (-1) 1)) = 1 := by decide
theorem test_and : kReg 2 (after (.and ⟨0, 0⟩ abd) (two 0xC 0xA)) = 0x8 := by decide
theorem test_or : kReg 2 (after (.or ⟨0, 0⟩ abd) (two 0xC 0xA)) = 0xE := by decide
theorem test_xor : kReg 2 (after (.xor ⟨0, 0⟩ abd) (two 0xC 0xA)) = 0x6 := by decide
theorem test_andn : kReg 2 (after (.andn ⟨0, 0⟩ abd) (two 0xC 0xA)) = 0x4 := by decide
theorem test_shl_modulo : kReg 2 (after (.shl ⟨0, 0⟩ abd 0) (two 3 65)) = 6 := by decide
theorem test_shr_w : kReg 2 (after (.shr ⟨0, 0⟩ abd 1) (two 0xFFFFFFFF80000000 31)) = 1 := by decide
theorem test_sar : kReg 2 (after (.sar ⟨0, 0⟩ abd 0) (two 0x8000000000000000 63)) = -1 := by decide
theorem test_sar_w : kReg 2 (after (.sar ⟨0, 0⟩ abd 1) (two 0x80000000 4)) = 0xFFFFFFFFF8000000 := by decide
/-- R191: signed 7-bit immediates. -/
theorem test_addi : kReg 2 (after (.addi ⟨0, 0⟩ 18 16 0x40) (two 0 0)) = 0xFFFFFFFFFFFFFFC0 := by decide
theorem test_andi : kReg 2 (after (.andi ⟨0, 0⟩ 18 16 0x7F) (two 0x123456789ABCDEF0 0)) = 0x123456789ABCDEF0 := by decide
theorem test_shri : kReg 2 (after (.shri ⟨0, 0⟩ 18 16 63) (two 0x8000000000000000 0)) = 1 := by decide
theorem test_sari : kReg 2 (after (.sari ⟨0, 0⟩ 18 16 60) (two 0x8000000000000000 0)) = 0xFFFFFFFFFFFFFFF8 := by decide
/-- R192: the third step of the alias-window example; a D of 0 reads t0 and pushes. -/
theorem test_movhi : kReg 1 (after (.movhi 17 0x2790) (two 0 0x2000000018)) = 0x0080000000602790 := by decide
theorem test_movi_negative : kReg 0 (after (.movi 16 0x20000) (two 0 0)) = 0xFFFFFFFFFFFE0000 := by decide
/-- R193: a field of 8 at 4, sign-extended; a field cut at bit 63; inserting 4 bits at 8. -/
theorem test_bext_s : kReg 2 (after (.bext ⟨0, 0⟩ abd 1) (two 0x0F50 0x0804)) = 0xFFFFFFFFFFFFFFF5 := by decide
theorem test_bext_cut : kReg 2 (after (.bext ⟨0, 0⟩ abd 0) (two 0xA000000000000000 0x083C)) = 0xA := by decide
theorem test_bins : kReg 0 (after (.bins ⟨0, 0⟩ ⟨16, 17, 18⟩) (withThread fun t => { t with k := [(0, 0xFFFF), (1, 0xF3), (2, 0x0408)] })) = 0xF3FF := by decide
/-- R194. -/
theorem test_clz_zero : kReg 2 (after (.clz ⟨0, 0⟩ 18 16 0) (two 0 0)) = 64 := by decide
theorem test_clz_w : kReg 2 (after (.clz ⟨0, 0⟩ 18 16 1) (two 0xF00010000 0)) = 15 := by decide
theorem test_ctz : kReg 2 (after (.ctz ⟨0, 0⟩ 18 16 0) (two 0x50 0)) = 4 := by decide
theorem test_popc_w : kReg 2 (after (.popc ⟨0, 0⟩ 18 16 1) (two 0xF0000000F 0)) = 4 := by decide
/-- R195: a signed immediate; `anz`. -/
theorem test_cmpi_signed : (after (.cmpi ⟨0, 0⟩ 3 16 0x3F 2) (two (-2) 0)).cur.pred = 0x9 := by decide
theorem test_cmp_unsigned : (after (.cmp ⟨0, 0⟩ 3 16 17 4) (two (-2) 1)).cur.pred = 0x1 := by decide
theorem test_cmp_anz : (after (.cmp ⟨0, 0⟩ 15 16 17 6) (two 6 2)).cur.pred = 0x8001 := by decide
/-- R196: `pand p6, p0, !p0` clears p6; `por p5, p1, !p2`; `pnot p4, p3`. R39: p0 stays 1. -/
theorem test_pand : (after (.pand ⟨0, 0⟩ ⟨6, 0, 0, 1, 0⟩) (withThread fun t => { t with pred := 0x41 })).cur.pred = 1 := by decide
theorem test_por : (after (.por ⟨0, 0⟩ ⟨5, 0, 1, 1, 2⟩) (withThread fun t => { t with pred := 0x1 })).cur.pred = 0x21 := by decide
theorem test_pxor : (after (.pxor ⟨0, 0⟩ ⟨5, 0, 1, 0, 2⟩) (withThread fun t => { t with pred := 0x27 })).cur.pred = 0x7 := by decide
theorem test_pnot_p0 : (after (.pnot ⟨0, 0⟩ 0 0 0) (withThread fun t => { t with pred := 0x1 })).cur.pred = 0x1 := by decide
/-- R197: `sel t0, !p2, k1, z` with p2 = 0 pushes k1. R198: lane 2. -/
theorem test_sel : (after (.sel ⟨0, 0⟩ 2 1 17 36) (two 3 8)).cur.t.head? = some (.val 8) := by decide
theorem test_ppack : kReg 0 (after (.ppack ⟨0, 0⟩ 16 16 2) (two 0x1111222233334444 0)) = 0x1111000133334444 := by decide
theorem test_punpack : (after (.punpack ⟨0, 0⟩ 16 1) (two 0x1111222233334444 0)).cur.pred = 0x3333 := by decide
/-- R167: a guard that reads 0 writes nothing; the PC advances by 4 (R161). -/
theorem test_guard_off : kReg 2 (after (.add ⟨0, 1⟩ abd 0) (two 1 2)) = 0 ∧ (after (.add ⟨0, 1⟩ abd 0) (two 1 2)).cur.pc = 0x10004 := by decide
theorem test_anop : (after (.anop ⟨0, 0⟩) base).cur.pc = 0x10004 := by decide
/-- R165: `z` reads 0 and discards. -/
theorem test_z : (after (.add ⟨0, 0⟩ ⟨36, 16, 36⟩ 0) (two 5 0)).cur.k = [(0, 5), (1, 0)] ∧ (after (.add ⟨0, 0⟩ ⟨36, 16, 36⟩ 0) (two 5 0)).cur.t = [] := by decide

/-! Scalar FP32 (R199 to R202). 1.0 = 0x3F800000, 1.5 = 0x3FC00000, 2.5 = 0x40200000, 3.0 = 0x40400000. -/

theorem test_fadd : kReg 2 (after (.fadd ⟨0, 0⟩ abd) (two 0x3F800000 0x3FC00000)) = 0x40200000 := by decide +kernel
/-- 1 + 2^−24 is a tie and goes to the even 1.0 (RNE). -/
theorem test_fadd_tie : kReg 2 (after (.fadd ⟨0, 0⟩ abd) (two 0x3F800000 0x33800000)) = 0x3F800000 := by decide +kernel
theorem test_fsub_zero : kReg 2 (after (.fsub ⟨0, 0⟩ abd) (two 0x3FC00000 0x3FC00000)) = 0 := by decide +kernel
theorem test_fmul : kReg 2 (after (.fmul ⟨0, 0⟩ abd) (two 0x3FC00000 0xC0000000)) = 0xC0400000 := by decide +kernel
theorem test_fmul_invalid : kReg 2 (after (.fmul ⟨0, 0⟩ abd) (two 0x7F800000 0x80000000)) = 0x7FC00000 := by decide +kernel
/-- (1 + 2^−23)² − (1 + 2^−22) = 2^−46, which only one rounding keeps. -/
theorem test_ffma_fused : kReg 2 (after (.ffma ⟨0, 0⟩ abd) (withThread fun t => { t with k := [(0, 0x3F800001), (1, 0x3F800001), (2, 0xBF800002)] })) = 0x28800000 := by decide +kernel
theorem test_fdiv_zero : lastValue (after (.fdiv ⟨0, 0⟩ abd) (two 0xBF800000 0)) = some 0xFF800000 := by decide +kernel
theorem test_fsqrt : lastValue (after (.fsqrt ⟨0, 0⟩ 18 16) (two 0x40800000 0)) = some 0x40000000 := by decide +kernel
theorem test_fsqrt_minus_zero : lastValue (after (.fsqrt ⟨0, 0⟩ 18 16) (two 0x80000000 0)) = some 0x80000000 := by decide +kernel
theorem test_fmin_zeros : kReg 2 (after (.fmin ⟨0, 0⟩ abd) (two 0 0x80000000)) = 0x80000000 := by decide +kernel
theorem test_fmax_nan : kReg 2 (after (.fmax ⟨0, 0⟩ abd) (two 0x7FC00001 0xC0000000)) = 0xC0000000 := by decide +kernel
theorem test_fcmp_nan : (after (.fcmp ⟨0, 0⟩ 1 16 17 1) (two 0x7FC00000 0)).cur.pred = 3 := by decide +kernel
/-- The examples of R202: −2.75 to −2 and to −3. -/
theorem test_fcvt_rtz : (after (.fcvt ⟨0, 0⟩ 0 16 0 1) (two 0xC0300000 0)).cur.t.head? = some (.val 0xFFFFFFFFFFFFFFFE) := by decide +kernel
theorem test_fcvt_rne : (after (.fcvt ⟨0, 0⟩ 0 16 0 0) (two 0xC0300000 0)).cur.t.head? = some (.val 0xFFFFFFFFFFFFFFFD) := by decide +kernel

/-! Control flow (R203 to R214). -/

theorem test_nop : (after .nop base).cur.pc = 0x10004 := by decide
/-- Two words back from 0x10000, taken and not taken. -/
theorem test_br : (after (.br 0 0 0x7FFFE) base).cur.pc = 0xFFF8 ∧ (after (.br 0 1 0x7FFFE) base).cur.pc = 0x10004 ∧ (after (.br 1 1 0x7FFFE) base).cur.pc = 0xFFF8 := by decide
theorem test_jmp : (after (.jmp 0x800000) base).cur.pc = 0xFFFFFFFFFE010000 := by decide
theorem test_jmpr : (after (.jmpr 16) (two 0x10020 0)).cur.pc = 0x10020 := by decide
theorem test_call : (after (.call 4) (withThread fun t => { t with k := [(4, 7)], sp := 64 })).cur.pc = 0x10010 ∧ kReg 4 (after (.call 4) (withThread fun t => { t with k := [(4, 7)] })) = 0 ∧
    (after (.call 4) (withThread fun t => { t with k := [(4, 7)], sp := 64 })).cur.win = [⟨7, 0, 0, 0, 0x10004, 64, 1⟩] := by decide
theorem test_callr : (after (.callr 16) (two 0x10040 0)).cur.depth = 1 ∧ (after (.callr 16) (two 0x10040 0)).cur.pc = 0x10040 := by decide
theorem test_ret : (after .ret (called 0 false)).cur.pc = 0x10004 ∧ (after .ret (called 0 false)).cur.sp = 64 ∧ kReg 7 (after .ret (called 0 false)) = 4 := by decide
/-- R36, R407: a `ret` at depth 0 is an illegal operation, which ends the task. -/
theorem test_ret_depth_0 : (after .ret (withThread fun t => { t with tvec := 0x10100 })).cur.st = .leaving ∧ (after .ret base).cur.leave = .fatal := by decide +kernel
/-- R60, R212: the handler at TVEC; TPC in bytes 32 to 39 of the trap window, and TVAL, the code and the bundle's 4 bytes, in 48 to 55. -/
theorem test_trap : (after (.trap 5) (withThread fun t => { t with tvec := 0x10100 })).cur.pc = 0x10100 ∧ (after (.trap 5) (withThread fun t => { t with tvec := 0x10100 })).word (base.trapWin base.cur + 48) 8 = 0x4005 ∧
    (after (.trap 5) (withThread fun t => { t with tvec := 0x10100 })).word (base.trapWin base.cur + 32) 8 = 0x10000 := by decide +kernel
theorem test_yield : (after .yield (withThread fun t => { t with cr := 3 })).cur.cr = 0 := by decide

/-! Memory (R225 to R228): what is issued. -/

/-- `ld.4` scales IMM6 by 4 and reserves t0. -/
theorem test_ld4 : (after (.ld4 ⟨0, 16, 0, 0, 2⟩) memState).ops.getLast?.map (fun o => (o.addr, o.n, o.sgn)) = some (0x0080000000000108, 4, false) := by decide +kernel
theorem test_lds2 : (after (.lds2 ⟨0, 16, 1, 0, 1⟩) memState).ops.getLast?.map (fun o => (o.addr, o.n, o.sgn, o.sb)) = some (0x0080000000000102, 2, true, 1) := by decide +kernel
/-- A direct store to the own scratchpad, of the low four bytes, least significant first. -/
theorem test_st4 : ((after (.st4 ⟨17, 16, 0, 0, 1⟩) (memState.modCur fun t => { t with k := Table.set 1 0x11223344AABBCCDD t.k })).bytes (spKey 1 0x104) 5) = [0xDD, 0xCC, 0xBB, 0xAA, 0] := by decide +kernel
/-- A store to global memory is on its way to the commit buffer; memory is as it was. -/
theorem test_st1_buffered : (after (.st1 ⟨19, 17, 0, 0, 3⟩) (memState.modCur fun t => { t with k := Table.set 3 0xAB t.k })).ops.map (fun o => o.pieces.map fun b => (b.va, b.bytes)) = [[(0x200003, [0xAB])]] ∧ (after (.st1 ⟨19, 17, 0, 0, 3⟩) memState).mem = memState.mem := by decide +kernel
theorem test_ld_misaligned : (after (.ld8 ⟨0, 16, 0, 0, 0⟩) (memState.modCur fun t => { t with k := [(0, 0x0080000000000104)] })).ops = [] := by decide +kernel

/-! Semaphores, tasks and threads (R237 to R252). -/

theorem test_sinc_saturates : Table.get 0 3 (after (.sinc 16 3 1) ((two 65535 0).modCur fun t => { t with ts := [(3, 7)] })).cur.ts = 65535 := by decide +kernel
theorem test_swait : Table.get 0 3 (after (.swait 16 3 1) ((two 5 0).modCur fun t => { t with ts := [(3, 7)] })).cur.ts = 2 := by decide +kernel
theorem test_swait_parks : (after (.swait 16 3 1) ((two 8 0).modCur fun t => { t with ts := [(3, 7)] })).cur.pcause = 4 := by decide +kernel
theorem test_sget : kReg 2 (after (.sget 18 3 1) ((two 8 0).modCur fun t => { t with ts := [(3, 7)] })) = 7 := by decide +kernel
theorem test_tabort : (after .tabort buffered).cur.buf = [] ∧ (after .tabort buffered).cur.pc = 0x10004 := by decide +kernel
theorem test_tserial : (after .tserial base).cur.serial = true := by decide +kernel
theorem test_prio : (after (.prio 16) (two 5 0)).cur.bpri = 5 := by decide +kernel

/-! Vectors (R278 to R294). v1 and v2 hold eight bytes each; e is 512 for I8, 128 for I32. -/

/-- v1 := a, v2 := b, v3 := 0. -/
def vecs (a b : BitVec 4096) : State := (base.modCur fun t => { t with k := [(0, 3)], vcnt := 8 }).modCore 1 fun k => { k with vreg := [(0, 0), (1, a), (2, b), (3, 0)] }

/-- Vector register `n` of the core. -/
def vReg (n : Nat) (s : State) : BitVec 4096 := Table.get 0 n (s.core 1).vreg

set_option maxRecDepth 20000 in
/-- I8: 127 + 1 wraps to −128 and saturates to 127. -/
theorem test_vadd : (vReg 3 (after (.vadd ⟨0, 0⟩ ⟨2, 3, 1, 2⟩ 0) (vecs 0x037F 0x0101))).extractLsb' 0 24 = 0x000480 := by decide +kernel
set_option maxRecDepth 20000 in
theorem test_vadd_sat : (vReg 3 (after (.vadd ⟨0, 0⟩ ⟨2, 3, 1, 2⟩ 1) (vecs 0x037F 0x0101))).extractLsb' 0 24 = 0x00047F := by decide +kernel
set_option maxRecDepth 20000 in
/-- BF16: 1.0 × 3.0. -/
theorem test_vmul_bf16 : (vReg 3 (after (.vmul ⟨0, 0⟩ ⟨8, 3, 1, 2⟩ 0) (vecs 0x3F80 0x4040))).extractLsb' 0 32 = 0x4040 := by decide +kernel
set_option maxRecDepth 20000 in
theorem test_vand : (vReg 3 (after (.vand ⟨0, 0⟩ ⟨6, 3, 1, 2⟩) (vecs 0xFF00FF 0x0F0F0F))).extractLsb' 0 32 = 0x0F000F := by decide +kernel
set_option maxRecDepth 20000 in
theorem test_vbcast : (vReg 3 (after (.vbcast ⟨0, 0⟩ 6 3 16) (vecs 0 0))).extractLsb' 4064 32 = 3 := by decide +kernel
set_option maxRecDepth 20000 in
/-- vins: element j = s<41:32> = 2 of N8 becomes s<7:0>. -/
theorem test_vins : (vReg 1 (after (.vins ⟨0, 0⟩ 3 1 16) ((vecs 0x11223344 0).modCur fun t => { t with k := [(0, 0x2000000AA)] }))).extractLsb' 0 40 = 0x11AA3344 := by decide +kernel
theorem test_vzero : vReg 1 (after (.vzero ⟨0, 0⟩ 1) (vecs 7 0)) = 0 := by decide +kernel
theorem test_vmov_scalar : vReg 1 (after (.vmovScalar ⟨0, 0⟩ 1 16) (vecs (BitVec.allOnes 4096) 0)) = 3 := by decide +kernel

/-! Steps of the hardware and of the host. -/

/-- `s` with what a step brings from outside. -/
def given (a : Arg) (s : State) : State := { s with arg := a }

/-- R30: eight bytes, least significant first, fill the pending entry. -/
theorem test_load_returns : (after .loadDataReturn (with1 ((base.modCur fun t => { t with t := [.pend 5] }).put (spKey 1 0x100) [1, 2, 3, 4, 5, 6, 7, 8]) (op .load 0x0080000000000100 .result))).cur.t = [.val 0x0807060504030201] := by decide +kernel
theorem test_long_result : (after .longResultReady (with1 (base.modCur fun t => { t with t := [.pend 5] }) { op .long 0 .result with data := 42 })).cur.t = [.val 42] := by decide +kernel
/-- R40: the count of slot 3 falls. -/
theorem test_store_ack : Table.get 0 3 (after .storeAck (with1 (base.modCur fun t => { t with sb := [(3, 2)] }) { op .store 0 .none with sb := 3 })).cur.sb = 1 := by decide +kernel
/-- R213: at the target, not before. -/
theorem test_sleep_wakes : let s := fun n => given { c := 1 } { (base.modCur fun t => { t with st := .parked, pcause := 9, wait := .sleep 7 }) with dev := { base.dev with clock := n } }
    (after .sleepWake (s 7)).cur.wait = .sleep 0 ∧ (after .sleepWake (s 6)).cur.wait = .sleep 7 := by decide +kernel
/-- R345: a message enters its queue register behind what stands there. -/
theorem test_message : (Table.get [] 3 (after .messageArrival (sent 256 1 0).1).curCtx.q) = [.word 0, .word 0] := by decide +kernel
/-- R91, R234: `ldfe` of a full word makes it empty; of an empty one it waits. -/
theorem test_bank_ldfe : (after .bankOperation (banked true 0 0).1).full = [] ∧ (after .bankOperation (banked false 0 0).1).bankWait = [(bankOf 0x100, [.op 5])] := by decide +kernel
/-- R395: 10 ns a period; half of it while a remainder stands (R71). -/
theorem test_reference_period : (after .referencePeriod base).dev.dtime = 10 * 2 ^ 32 ∧ (after .referencePeriod { base with dev := { base.dev with owed := 7 * 2 ^ 32 } }).dev.dtime = 5 * 2 ^ 32 ∧
    (after .referencePeriod { base with dev := { base.dev with owed := 7 * 2 ^ 32 } }).dev.owed = 2 * 2 ^ 32 := by decide +kernel
theorem test_pps : (after .ppsEdge { base with dev := { base.dev with dtime := 9 * 2 ^ 32 + 5, clock := 4 } }).dev = { base.dev with dtime := 9 * 2 ^ 32 + 5, clock := 4, ppsCap := 9, ppsClk := 4, ppsCnt := 1 } := by decide +kernel
/-- R71: a positive step goes against the remainder first. -/
theorem test_dtstep : (after .dtstepWrite (given { v := 10 } { base with dev := { base.dev with owed := 4 * 2 ^ 32 } })).dev.dtime = 6 * 2 ^ 32 ∧ (after .dtstepWrite (given { v := -3 } base)).dev.owed = 3 * 2 ^ 32 ∧ (after .dtstepWrite (given { v := -3 } base)).dev.dtime = 0 := by decide +kernel
theorem test_s_cycle : (after .sCycle (given {} State.reset)).dev.clock = 1 := by decide +kernel
/-- R361: the guilt count and the bar go. -/
theorem test_gclr : ((after .gclr (given { v := 2 } (base.modHctx 2 fun h => { h with guilt := 9, barred := true }))).hctx 2).guilt = 0 ∧ ((after .gclr (given { v := 2 } (base.modHctx 2 fun h => { h with guilt := 9, barred := true }))).hctx 2).barred = false := by decide +kernel
/-- R352: the kick word holds the queue in bits 9:0 and TAIL in 63:32. -/
theorem test_kick : ((after .kick (given { v := 0x300000000 } (queue [] id))).subq 0).tail = 3 ∧ ((after .kick (given { v := 0x300000000 } (queue [] id))).subq 0).kicked = true := by decide +kernel

/-! The machine after reset (R19, R59, R71, R80, R395 and the reset columns of the register maps). -/

theorem test_reset_memory : State.reset.MemOk := rfl
theorem test_reset : State.reset.mem = [] ∧ State.reset.dev.clock = 0 ∧ State.reset.dev.dtime = 0 ∧ State.reset.dev.bud = 2600 ∧ State.reset.dev.win = 1000 ∧ State.reset.dev.glim = 16 ∧
    (State.reset.thread 77 3).st = .empty ∧ (State.reset.thread 77 3).srst = 0x9E3779B9 ∧ (State.reset.thread 77 3).pred = 1 ∧ State.reset.dev.bootState = 0 := by decide +kernel

end Sys2Proof.Tests
end

/-! # No step stops (R8, R409): every meaning, every bundle and every step ends in a next state. -/

namespace Sys2Proof.Machine

/-! ### Outcomes that are a next state -/

theorem completes_next (s : State) : Completes (.next s) := ⟨s, rfl⟩

theorem Completes.andThen {o : Out} {f : State → Out} (ho : Completes o) (hf : ∀ r, Completes (f r)) : Completes (andThen o f) := by
  obtain ⟨r, rfl⟩ := ho
  exact hf r

theorem Completes.ite {c : Prop} [Decidable c] {a b : Out} (ha : Completes a) (hb : Completes b) : Completes (if c then a else b) := by
  split
  · exact ha
  · exact hb

/-! ### Every instruction and every event (R8, R409) -/

/-- LAUNCH_PLACE is split by hand: `fun_cases` stops at the recursion limit on its folds. -/
theorem execLaunchPlace_completes (s : State) : Completes (execLaunchPlace s) := by
  unfold execLaunchPlace
  split
  · exact completes_next s
  · refine Completes.ite (completes_next _) ?_
    split
    · exact completes_next _
    · exact Completes.ite (completes_next _) (completes_next _)

/-- A word runs as `runC` or `runA`, which turn every stop into a next state; an event ends in a next state in each of its branches. -/
theorem exec_completes (i : Instr) (s : State) : Completes (exec i s) := by
  cases i
  all_goals unfold exec
  case nop | br | jmp | jmpr | call | callr | ret | frame | trap | sleep | sleepRel | yield | movi | movhi | ld1 | ld2 | ld4 | ld8 | lds1 | lds2 |
      lds4 | st1 | st2 | st4 | st8 | ldv | stv | vldx | vstx | aadd4 | aadd8 | afadd | aminS32 | aminS64 | aminU32 | aminU64 | aminF32 | amaxS32 |
      amaxS64 | amaxU32 | amaxU64 | amaxF32 | aand | aor | axor | aswap4 | aswap8 | acas | fence | sbwait | prefetch | touch | ldfe | stfe | tbeg |
      tend | tabort | tserial | tstamp | spawn | spawnc | spawnx | join | exit | prio | migr | kpt | sinc | swait | sget | sset | smwait | bar | barq
      | barqWait | rparm | rpjoin | rparr | rpwait | rpstat | rpleave | flsub | flend | flsync | flstat | flstatClr | send | acqr | relr | ksend |
      kflush | kbins | kbinsMap | kbinsStat | tld | tst | tzero | accz | mma | mmat | mvs | epi | cpy | cpyp | cpyf | put | get | mvc | mtc | rte |
      sysc | bkpt | halt | csave | crest | tlbinv | tlbinvCtx =>
    exact runC_next ..
  case anop | add | sub | mul | mulh | div | rem | min | max | and | or | xor | andn | shl | shr | sar | lea | addi | andi | ori | xori | shli | shri
      | sari | bext | bins | clz | ctz | popc | sel | cmp | cmpi | pand | por | pxor | pnot | ppack | punpack | fadd | fsub | fmul | ffma | fdiv |
      fsqrt | fmin | fmax | fcmp | fcvt | vadd | vaddScalar | vsub | vsubScalar | vmul | vmulScalar | vfma | vfmaScalar | vmin | vmax | vand | vor |
      vxor | vnot | vshl | vshr | vsar | vshlScalar | vshrScalar | vsarScalar | vcmp | vsel | vbcast | vins | vext | vredsum | vredmin | vredmax |
      vredsumScalar | vredminScalar | vredmaxScalar | vperm | vslideup | vslidedn | vcompress | vexpand | vcvt | vwadd | vwmul | vwcvt | vnadd | vncvt
      | vbmax | vexp2 | vlog2 | vrcp | vrsqrt | vsqrt | vtanh | vsigm | vmov | vzero | vmovScalar =>
    exact runA_next ..
  case taskRestart | windowSpill | vwinGrant | cairnRefresh | keyBufferTimeout | batchWindowClose | flUpdateApply | ropeRelease | crossTriggerArrival
      | gclr | launch | mbxwait | mbxput | signal | timed | fencePacket | nopPacket | energySample | drainEnd | saveComplete | mqtail | mrheadWrite |
      mstatRead | attest | pubkey | thermclr | dtstepWrite | ppsEdge | xtrigPulse | xtrigFiredClear | traceStart | traceStop | traceOff | traceStopped
      | tracePostEnd | wearCompute | wake | bgWrite | registerWrite | rtctlInjWrite | deviceReset | bootgo | approachExit | hostCompletion |
      hostReadTimeout | evhSpawn | evhSpawnReply | evhKillNotice | evhAcknowledgement | evhLossNotice | thermalGatingBegin | thermalGatingEnd | sCycle
      | referencePeriod | portTrained | portDown | flitCrcFailure =>
    exact completes_next _
  case launchPlace => exact execLaunchPlace_completes s
  case loadDataReturn => fun_cases execLoadDataReturn s <;> exact completes_next _
  case storeAck => fun_cases execStoreAck s <;> exact completes_next _
  case longResultReady => fun_cases execLongResultReady s <;> exact completes_next _
  case vectorResultWrite => fun_cases execVectorResultWrite s <;> exact completes_next _
  case deferredFault => fun_cases execDeferredFault s <;> exact completes_next _
  case trapDelivery => fun_cases execTrapDelivery s <;> exact completes_next _
  case threadRetirement => fun_cases execThreadRetirement s <;> exact completes_next _
  case timedTaskCommit => fun_cases execTimedTaskCommit s <;> exact completes_next _
  case stragglerKill => fun_cases execStragglerKill s <;> exact completes_next _
  case windowRefill => fun_cases execWindowRefill s <;> exact completes_next _
  case vwinWrite => fun_cases execVwinWrite s <;> exact completes_next _
  case sleepWake => fun_cases execSleepWake s <;> exact completes_next _
  case ageingCredit => fun_cases execAgeingCredit s <;> exact completes_next _
  case rebalance => fun_cases execRebalance s <;> exact completes_next _
  case migrationArrival => fun_cases execMigrationArrival s <;> exact completes_next _
  case remoteScratchpadAccess => fun_cases execRemoteScratchpadAccess s <;> exact completes_next _
  case bankOperation => fun_cases execBankOperation s <;> exact completes_next _
  case feRetry => fun_cases execFeRetry s <;> exact completes_next _
  case tlbWalkComplete => fun_cases execTlbWalkComplete s <;> exact completes_next _
  case shootdownComplete => fun_cases execShootdownComplete s <;> exact completes_next _
  case pageMigrationLine => fun_cases execPageMigrationLine s <;> exact completes_next _
  case messageArrival => fun_cases execMessageArrival s <;> exact completes_next _
  case sendRetry => fun_cases execSendRetry s <;> exact completes_next _
  case spawnAnswer => fun_cases execSpawnAnswer s <;> exact completes_next _
  case syscAnswer => fun_cases execSyscAnswer s <;> exact completes_next _
  case engineCommandBegin => fun_cases execEngineCommandBegin s <;> exact completes_next _
  case engineStep => fun_cases execEngineStep s <;> exact completes_next _
  case keyedFlitArrival => fun_cases execKeyedFlitArrival s <;> exact completes_next _
  case barrierArrivalHop => fun_cases execBarrierArrivalHop s <;> exact completes_next _
  case barrierRelease => fun_cases execBarrierRelease s <;> exact completes_next _
  case ropePendingWrite => fun_cases execRopePendingWrite s <;> exact completes_next _
  case ropeBankAck => fun_cases execRopeBankAck s <;> exact completes_next _
  case ropeMerge => fun_cases execRopeMerge s <;> exact completes_next _
  case teamRollback => fun_cases execTeamRollback s <;> exact completes_next _
  case patrolScrub => fun_cases execPatrolScrub s <;> exact completes_next _
  case kick => fun_cases execKick s <;> exact completes_next _
  case qcfgWrite => fun_cases execQcfgWrite s <;> exact completes_next _
  case timedExpiry => fun_cases execTimedExpiry s <;> exact completes_next _
  case cancel => fun_cases execCancel s <;> exact completes_next _
  case energyWindowBoundary => fun_cases execEnergyWindowBoundary s <;> exact completes_next _
  case t1limExpiry => fun_cases execT1limExpiry s <;> exact completes_next _
  case t2limExpiry => fun_cases execT2limExpiry s <;> exact completes_next _
  case takeover => fun_cases execTakeover s <;> exact completes_next _
  case log => fun_cases execLog s <;> exact completes_next _
  case syscMbxput => fun_cases execSyscMbxput s <;> exact completes_next _
  case mbxget => fun_cases execMbxget s <;> exact completes_next _
  case syscCancel => fun_cases execSyscCancel s <;> exact completes_next _
  case mcfgWrite => fun_cases execMcfgWrite s <;> exact completes_next _
  case preempt => fun_cases execPreempt s <;> exact completes_next _
  case resume => fun_cases execResume s <;> exact completes_next _
  case ptpoff => fun_cases execPtpoff s <;> exact completes_next _
  case cesum => fun_cases execCesum s <;> exact completes_next _
  case captureRecord => fun_cases execCaptureRecord s <;> exact completes_next _
  case routingBankWrite => fun_cases execRoutingBankWrite s <;> exact completes_next _
  case bootChecksDone => fun_cases execBootChecksDone s <;> exact completes_next _
  case calibrationDone => fun_cases execCalibrationDone s <;> exact completes_next _
  case inboundWrite => fun_cases execInboundWrite s <;> exact completes_next _
  case inboundRead => fun_cases execInboundRead s <;> exact completes_next _
  case inboundAtomic => fun_cases execInboundAtomic s <;> exact completes_next _
  case evhStore => fun_cases execEvhStore s <;> exact completes_next _
  case evhGetRequest => fun_cases execEvhGetRequest s <;> exact completes_next _
  case evhGetData => fun_cases execEvhGetData s <;> exact completes_next _
  case evhMessage => fun_cases execEvhMessage s <;> exact completes_next _
  case evhKeyedPairs => fun_cases execEvhKeyedPairs s <;> exact completes_next _
  case evhRopeArrival => fun_cases execEvhRopeArrival s <;> exact completes_next _
  case evhRopeRelease => fun_cases execEvhRopeRelease s <;> exact completes_next _
  case evhToken => fun_cases execEvhToken s <;> exact completes_next _
  case evhThread => fun_cases execEvhThread s <;> exact completes_next _
  case deviceLost => fun_cases execDeviceLost s <;> exact completes_next _
  case thermalResetHold => fun_cases execThermalResetHold s <;> exact completes_next _
  case malformedSlot => fun_cases execMalformedSlot s <;> exact completes_next _
  case routerForward => fun_cases execRouterForward s <;> exact completes_next _
  case pageResident => fun_cases execPageResident s <;> exact completes_next _

/-! ### Bundles, turns and issues (R161, R164, R338) -/

theorem runPair_completes (s : State) (ci ai : Instr) (cw aw : BitVec 32) (g : Guard) : Completes (s.runPair ci ai cw aw g) := by
  refine (exec_completes ..).andThen fun r1 => ?_
  split <;> refine (exec_completes ..).andThen fun r2 => ?_ <;> split <;> exact completes_next _

theorem runBundle_completes (s : State) (c h : Nat) : Completes (s.runBundle c h) := by
  fun_cases State.runBundle s c h
  case case3 | case5 => exact exec_completes ..
  case case10 => exact runPair_completes ..
  all_goals exact completes_next _

theorem turnOf_completes (s : State) (c h : Nat) : Completes (s.turnOf c h) := by
  fun_cases State.turnOf s c h
  case case7 => exact runBundle_completes ..
  all_goals exact completes_next _

theorem issueOn_completes (s : State) (c : Nat) (p : Nat × Thread) : Completes (s.issueOn c p) :=
  (turnOf_completes ..).andThen fun _ => Completes.ite (turnOf_completes ..) (completes_next _)

/-- Settles O60: a step is an event, an issue or the end of an s-cycle, and each of them ends in a next state. -/
theorem everyStepCompletes : Obligations.EveryStepCompletes := by
  unfold Obligations.EveryStepCompletes
  intro s
  rcases step_cases s with ⟨e, l, -, h⟩ | ⟨c, p, -, -, h⟩ | ⟨-, h⟩
  · rw [h]; exact exec_completes ..
  · rw [h]; exact issueOn_completes s c p
  · rw [h]; exact (exec_completes ..).andThen fun _ => completes_next _

end Sys2Proof.Machine

/-! # The frame of the scalar instructions (R8, R164, R187, R195): a body that reads plain sources and then writes one destination changes its own thread only. -/

namespace Sys2Proof.Machine

open Sys2Proof.Claims

/-! ### Only the executing thread -/

section
variable {s t r : State}

theorem elsewhere_refl (s : State) : elsewhere s s :=
  ⟨rfl, rfl, rfl, rfl, rfl, rfl, rfl, rfl, rfl, fun _ _ _ => rfl⟩

theorem elsewhere_trans (h : elsewhere s t) (hl : t.latch = s.latch) (h' : elsewhere t r) : elsewhere s r := by
  obtain ⟨hmem, hfull, hpoison, hcores, hctxs, hclusters, hropes, hdev, hsched, hthreads⟩ := h
  obtain ⟨hmem', hfull', hpoison', hcores', hctxs', hclusters', hropes', hdev', hsched', hthreads'⟩ := h'
  exact ⟨hmem'.trans hmem, hfull'.trans hfull, hpoison'.trans hpoison, hcores'.trans hcores, hctxs'.trans hctxs, hclusters'.trans hclusters,
    hropes'.trans hropes, hdev'.trans hdev, hsched'.trans hsched,
    fun c h hne => (hthreads' c h (hl ▸ hne)).trans (hthreads c h hne)⟩

theorem elsewhere_modCur (s : State) (f : Thread → Thread) : elsewhere s (s.modCur f) :=
  ⟨rfl, rfl, rfl, rfl, rfl, rfl, rfl, rfl, rfl, fun _ _ hne => by simp [State.modCur, State.setCur, hne]⟩

theorem elsewhere_finish (h : s.latch.defer = .no) : elsewhere s s.finish := by
  rw [finish_plain h]
  exact elsewhere_modCur { s with latch := { s.latch with defer := .no, res := .ok, pushed := [] } } _

theorem finish_cur (h : s.latch.defer = .no) : s.finish.cur = { s.cur with pc := s.nextPc, src := none } := by
  rw [finish_plain h]
  exact State.modCur_cur ..

/-! ### Stops that an operand may meet -/

/-- A wait for a result, a trap, or a cause raised before (R31, R163, R188): the stops of operands that are no queue register and no port. -/
def Stop.ofOperand (e : Stop) : Prop := e = .park 0 id ∨ (∃ n v, e = .trap n v) ∨ ∃ z, e = .cause z

theorem Stop.ofOperand.settled_eq {e : Stop} (h : e.ofOperand) (body : Ex Unit) (s : State) : e.settled body s = e := by
  rcases h with rfl | ⟨n, v, rfl⟩ | ⟨z, rfl⟩
  · exact settled_park_zero
  · exact settled_trap n v body s
  · exact settled_cause z body s

theorem Stop.ofOperand.halted_stopped {e : Stop} (h : e.ofOperand) (s : State) (a : Bool) : halted s (s.stopped a e) := by
  rcases h with rfl | ⟨n, v, rfl⟩ | ⟨z, rfl⟩
  · exact .inl ⟨0, rfl⟩
  · exact .inr (.inl ⟨s.causeOf n v a, rfl⟩)
  · exact .inr (.inl ⟨z, rfl⟩)

theorem Stop.ofOperand.halted_slotStopped {e : Stop} (h : e.ofOperand) (s : State) : halted s (s.slotStopped e) := by
  rcases h with rfl | ⟨n, v, rfl⟩ | ⟨z, rfl⟩
  · exact .inr (.inr ⟨.park 0, nofun, rfl⟩)
  · exact .inr (.inr ⟨.trap n v, nofun, rfl⟩)
  · exact .inr (.inr ⟨.stop z, nofun, rfl⟩)

/-- What a source that is no queue register and no port comes to. -/
theorem readReg_plain {n : Nat} (hn : n < 24 ∨ 36 ≤ n) (s : State) :
    (∃ v, readReg n s = .ok (v, s)) ∨ ∃ e, e.ofOperand ∧ readReg n s = .error e := by
  rcases Nat.lt_or_ge n 16 with h1 | h1
  · cases he : s.pre.t.getD n (.val 0) with
    | val v => exact .inl ⟨v, readReg_result h1 he⟩
    | pend i => exact .inr ⟨_, .inl rfl, readReg_pending h1 he⟩
    | bad sb z => exact .inr ⟨_, .inr (.inr ⟨z, rfl⟩), readReg_bad h1 he⟩
  rcases Nat.lt_or_ge n 24 with h2 | h2
  · cases hp : s.pre.regPend.any (·.1 == n) with
    | false => exact .inl ⟨_, readReg_named h1 h2 hp⟩
    | true => exact .inr ⟨_, .inl rfl, readReg_named_pending h1 h2 hp⟩
  obtain rfl | rfl | rfl | h3 : n = 36 ∨ n = 37 ∨ n = 38 ∨ 39 ≤ n := by omega
  · exact .inl ⟨_, readReg_zero⟩
  · cases hp : s.pre.regPend.any (·.1 == 37) with
    | false => exact .inl ⟨_, readReg_sp hp⟩
    | true => exact .inr ⟨_, .inl rfl, readReg_sp_pending hp⟩
  · exact .inl ⟨_, readReg_clk⟩
  · exact .inr ⟨_, .inr (.inl ⟨_, _, rfl⟩), readReg_reserved h3⟩

end

/-! ### Bodies with a frame -/

/-- The body stops as an operand does, or changes the executing thread as `R` allows and nothing else. -/
def FramedBy (R : Thread → Thread → Prop) (body : Ex Unit) (s : State) : Prop :=
  (∃ t, body s = .ok ((), t) ∧ t.latch = s.latch ∧ elsewhere s t ∧ R s.cur t.cur) ∨ ∃ e, e.ofOperand ∧ body s = .error e

/-- A relation that allows no change, and any change of the PC and of `src` after what it allows. -/
def AllowsPc (R : Thread → Thread → Prop) : Prop := (∀ u, R u u) ∧ ∀ u v pc x, R u v → R u { v with pc := pc, src := x }

section
variable {s t : State} {R : Thread → Thread → Prop} {body : Ex Unit} {g : Guard} {d : BitVec 6} {v : Word}

theorem framedBy_modCur {f : Thread → Thread} (h : body s = .ok ((), s.modCur f)) (hf : R s.cur (f s.cur)) : FramedBy R body s :=
  .inl ⟨_, h, rfl, elsewhere_modCur s f, (State.modCur_cur s f).symm ▸ hf⟩

/-- A plain source in front keeps the frame: it reads a value and changes nothing, or stops. -/
theorem framedBy_src {n : BitVec 6} {k : Word → Ex Unit} (hn : plain n) (hk : ∀ v, FramedBy R (k v) s) : FramedBy R (src n >>= k) s := by
  obtain ⟨v, hv⟩ | ⟨e, he, hv⟩ := readReg_plain hn s
  · rcases hk v with ⟨t, ht, hrest⟩ | ⟨e, he, hv'⟩
    · exact .inl ⟨t, (Ex.bind_ok hv).trans ht, hrest⟩
    · exact .inr ⟨e, he, (Ex.bind_ok hv).trans hv'⟩
  · exact .inr ⟨e, he, Ex.bind_error hv⟩

/-- What an A-class word comes to: nothing under a guard that reads 0, its body's effect, or its body's stop (R8, R164, R167). -/
theorem runA_cases (h : runA g body s = .next t) :
    t = s.ended s ∨ (∃ r, body s = .ok ((), r) ∧ t = s.ended r) ∨
      ∃ e, body s = .error e ∧ (t = s.stopped true (e.settled body s) ∨ t = s.slotStopped (e.settled body s)) := by
  unfold State.ended
  by_cases hm : s.latch.mode = .lone
  · simp only [if_pos hm]
    by_cases hg : guardOn g s.cur = true
    · cases hb : body s with
      | ok r => rw [runA_ok hm hg hb] at h; cases h; exact .inr (.inl ⟨r.2, rfl, rfl⟩)
      | error e => simp only [runA, hm, if_pos hg, hb] at h; cases h; exact .inr (.inr ⟨e, rfl, .inl rfl⟩)
    · rw [runA_off hm (Bool.eq_false_iff.mpr hg)] at h; cases h; exact .inl rfl
  · simp only [if_neg hm]
    by_cases he : s.latch.exec = true
    · cases hb : body s with
      | ok r => rw [runA_pair_ok hm he hb] at h; cases h; exact .inr (.inl ⟨r.2, rfl, rfl⟩)
      | error e =>
        cases hl : s.latch.mode with
        | lone => exact absurd hl hm
        | pairC | pairA => simp only [runA, hl, if_pos he, hb] at h; cases h; exact .inr (.inr ⟨e, rfl, .inr rfl⟩)
    · rw [runA_pair_off hm (Bool.eq_false_iff.mpr he)] at h; cases h; exact .inl rfl

/-- The end of a bundle that left nothing for its end adds only the change of the PC (R161, R206). -/
theorem ended_frame (hd : s.latch.defer = .no) (hR : AllowsPc R) (hl : t.latch = s.latch) (he : elsewhere s t) (ht : R s.cur t.cur) :
    R s.cur (s.ended t).cur ∧ elsewhere s (s.ended t) := by
  unfold State.ended
  split
  · have hdt : t.latch.defer = .no := hl ▸ hd
    rw [finish_cur hdt]
    exact ⟨hR.2 _ _ _ _ ht, elsewhere_trans he hl (elsewhere_finish hdt)⟩
  · exact ⟨ht, he⟩

theorem runA_frame (hd : s.latch.defer = .no) (hR : AllowsPc R) (hb : FramedBy R body s) (h : runA g body s = .next t) :
    halted s t ∨ R s.cur t.cur ∧ elsewhere s t := by
  rcases runA_cases h with rfl | ⟨r, hr, rfl⟩ | ⟨e, he, ht⟩
  · exact .inr (ended_frame hd hR rfl (elsewhere_refl s) (hR.1 _))
  · rcases hb with ⟨r', hr', hl, hels, hcur⟩ | ⟨e, -, he⟩
    · cases hr.symm.trans hr'
      exact .inr (ended_frame hd hR hl hels hcur)
    · cases hr.symm.trans he
  · rcases hb with ⟨r, hr, -⟩ | ⟨e', hop, he'⟩
    · cases he.symm.trans hr
    · cases he.symm.trans he'
      rw [hop.settled_eq] at ht
      rcases ht with rfl | rfl
      · exact .inl (hop.halted_stopped s true)
      · exact .inl (hop.halted_slotStopped s)

/-! ### The frame of a destination (R29, R187) -/

/-- What a plain destination `d` may change of its thread: the register that it names, the result queue by a push, and with the end of the bundle the PC. -/
def destFrame (d : BitVec 6) (u v : Thread) : Prop :=
  ∃ (q : List REnt) (l : List Nat) (k : Table Word) (sp pc : Word) (p : List (Nat × Nat)) (x : Option Word),
    v = { u with t := q, lost := l, k := k, sp := sp, pc := pc, regPend := p, src := x } ∧ (d ≠ 37 → sp = u.sp) ∧
      (∀ i, d.toNat ≠ 16 + i → Table.get 0 i k = Table.get 0 i u.k) ∧ (d ≠ 0 → q = u.t) ∧ (d = 0 → q = u.t ∨ ∃ r, q = .val r :: u.t.take 15)

theorem destFrame_allowsPc (d : BitVec 6) : AllowsPc (destFrame d) := by
  constructor
  · intro u
    exact ⟨u.t, u.lost, u.k, u.sp, u.pc, u.regPend, u.src, rfl, fun _ => rfl, fun _ _ => rfl, fun _ => rfl, fun _ => .inl rfl⟩
  · rintro u _ pc x ⟨q, l, k, sp, _, p, _, rfl, hframe⟩
    exact ⟨q, l, k, sp, pc, p, x, rfl, hframe⟩

theorem destFrame_push (u : Thread) (v : Word) (l : List Nat) : destFrame 0 u { u with t := .val v :: u.t.take 15, lost := l } :=
  ⟨_, l, u.k, u.sp, u.pc, u.regPend, u.src, rfl, fun _ => rfl, fun _ _ => rfl, fun h => absurd rfl h, fun _ => .inr ⟨v, rfl⟩⟩

theorem destFrame_named (h1 : 16 ≤ d.toNat) (u : Thread) (v : Word) (p : List (Nat × Nat)) :
    destFrame d u { u with regPend := p, k := Table.set (d.toNat - 16) v u.k } := by
  refine ⟨u.t, u.lost, _, u.sp, u.pc, p, u.src, rfl, fun _ => rfl, fun i hi => ?_, fun _ => rfl, fun _ => .inl rfl⟩
  rw [Table.get_set, if_neg (by omega)]

theorem destFrame_sp (u : Thread) (v : Word) (p : List (Nat × Nat)) : destFrame 37 u { u with regPend := p, sp := v } :=
  ⟨u.t, u.lost, u.k, v, u.pc, p, u.src, rfl, fun h => absurd rfl h, fun _ _ => rfl, fun _ => rfl, fun _ => .inl rfl⟩

theorem push_pend {i : Nat} (h : s.cur.t.getD 15 (.val 0) = .pend i) :
    push v s = .ok ((), s.modCur fun t => { t with t := .val v :: t.t.take 15, lost := t.lost ++ [i] }) := by
  simp only [push, pushEnt, h, modCur_run, bind, StateT.bind, Except.bind, Ex.get_run]

theorem push_bad {sb : Nat} {z : Cause} (h : s.cur.t.getD 15 (.val 0) = .bad sb z) : push v s = .error (.cause z) := by
  simp only [push, pushEnt, h, Ex.throw_run, bind, StateT.bind, Except.bind, Ex.get_run]

theorem framedBy_push (s : State) (v : Word) : FramedBy (destFrame 0) (push v) s := by
  cases h : s.cur.t.getD 15 (.val 0) with
  | val u => exact framedBy_modCur (push_val h) (destFrame_push s.cur v s.cur.lost)
  | pend i => exact framedBy_modCur (push_pend h) (destFrame_push s.cur v _)
  | bad sb z => exact .inr ⟨_, .inr (.inr ⟨z, rfl⟩), push_bad h⟩

theorem destNum_pending {n : Nat} (hn : 16 ≤ n ∧ n < 24 ∨ n = 37) (h : (s.pre.regPend.any (·.1 == n)) = true) :
    destNum n v s = .error (.park 0 id) := by
  simp only [destNum, if_neg (show n ≠ 0 by omega), if_pos hn, writeNamed, Ex.get_bind, h, if_true]
  exact park_zero

theorem framedBy_dest (hd : plain d) (v : Word) (s : State) : FramedBy (destFrame d) (dest d v) s := by
  unfold plain at hd
  obtain h | h | h | h | h : d.toNat = 0 ∨ (16 ≤ d.toNat ∧ d.toNat < 24) ∨ d.toNat = 37 ∨ d.toNat = 36 ∨ (38 ≤ d.toNat ∨ 0 < d.toNat ∧ d.toNat < 16) := by
    omega
  · obtain rfl : d = 0 := BitVec.eq_of_toNat_eq h
    exact framedBy_push s v
  · cases hp : s.pre.regPend.any (·.1 == d.toNat) with
    | false => exact framedBy_modCur (destNum_named h hp) (destFrame_named h.1 s.cur v _)
    | true => exact .inr ⟨_, .inl rfl, destNum_pending (.inl h) hp⟩
  · obtain rfl : d = 37 := BitVec.eq_of_toNat_eq h
    cases hp : s.pre.regPend.any (·.1 == 37) with
    | false => exact framedBy_modCur (destNum_sp hp) (destFrame_sp s.cur v _)
    | true => exact .inr ⟨_, .inl rfl, destNum_pending (.inr rfl) hp⟩
  · obtain rfl : d = 36 := BitVec.eq_of_toNat_eq h
    exact .inl ⟨s, destNum_discard, rfl, elsewhere_refl s, (destFrame_allowsPc 36).1 _⟩
  · exact .inr ⟨_, .inr (.inl ⟨_, _, rfl⟩), destNum_reserved h⟩

/-! ### The frame of a compare (R39, R195) -/

/-- What a write of predicate `p` may change of its thread: that predicate unless it is p0, and with the end of the bundle the PC. -/
def predFrame (p : BitVec 4) (u v : Thread) : Prop :=
  ∃ (w : BitVec 16) (pc : Word) (x : Option Word), v = { u with pred := w, pc := pc, src := x } ∧
    ∀ i, i < 16 → i ≠ p.toNat ∨ i = 0 → w.getLsbD i = u.pred.getLsbD i

theorem predFrame_allowsPc (p : BitVec 4) : AllowsPc (predFrame p) := by
  constructor
  · intro u
    exact ⟨u.pred, u.pc, u.src, rfl, fun _ _ _ => rfl⟩
  · rintro u _ pc x ⟨w, _, _, rfl, hframe⟩
    exact ⟨w, pc, x, rfl, hframe⟩

theorem setPredBit_other {i j : Nat} (b : Bool) (p : BitVec 16) (hj : j < 16) (h : j ≠ i ∨ j = 0) :
    (setPredBit i b p).getLsbD j = p.getLsbD j := by
  unfold setPredBit
  split
  · rfl
  · have hji : j < i ∨ j - i ≠ 0 := by omega
    cases b <;> simp [hj] <;> omega

theorem framedBy_writePred (p : BitVec 4) (b : Bool) (s : State) : FramedBy (predFrame p) (writePred p b) s :=
  framedBy_modCur (modCur_run _) ⟨_, s.cur.pc, s.cur.src, rfl, fun _ hi h => setPredBit_other b s.cur.pred hi h⟩

/-! ### The scalar forms (R189 to R195) -/

theorem framedBy_alu2 {f : Rrr} (hd : plain f.d) (ha : plain f.a) (hb : plain f.b) (op : Word → Word → Word) (s : State) :
    FramedBy (destFrame f.d) (alu2 f op) s :=
  framedBy_src ha fun _ => framedBy_src hb fun _ => framedBy_dest hd _ s

theorem framedBy_alu1 {a : BitVec 6} (hd : plain d) (ha : plain a) (op : Word → Word) (s : State) : FramedBy (destFrame d) (alu1 d a op) s :=
  framedBy_src ha fun _ => framedBy_dest hd _ s

end

theorem twoSource_runs_alu2 : ∀ p ∈ twoSource, ∀ (g : Guard) (f : Rrr), ∃ op, ∀ s, exec (p.1 g f) s = runA g (alu2 f op) s := by
  intro p hp g f
  fin_cases hp <;> exact ⟨_, fun _ => rfl⟩

theorem oneSource_runs_alu1 (imm : BitVec 7) (n : BitVec 6) :
    ∀ p ∈ oneSource imm n, ∀ (g : Guard) (d a : BitVec 6), ∃ op, ∀ s, exec (p.1 g d a) s = runA g (alu1 d a op) s := by
  intro p hp g d a
  fin_cases hp <;> exact ⟨_, fun _ => rfl⟩

/-- Settles O8: each form runs as `runA` of a body that reads plain sources and then writes its destination or its predicate. -/
theorem scalarFrame : Obligations.ScalarFrame := by
  unfold Obligations.ScalarFrame
  intro g f imm n s t hdefer hd ha hb
  refine ⟨fun p hp h => ?_, fun p hp h => ?_, fun p c h => ?_⟩
  · obtain ⟨op, hop⟩ := twoSource_runs_alu2 p hp g f
    rw [hop] at h
    exact runA_frame hdefer (destFrame_allowsPc f.d) (framedBy_alu2 hd ha hb op s) h
  · obtain ⟨op, hop⟩ := oneSource_runs_alu1 imm n p hp g f.d f.a
    rw [hop] at h
    exact runA_frame hdefer (destFrame_allowsPc f.d) (framedBy_alu1 hd ha op s) h
  · have hbody : FramedBy (predFrame p) (do let u ← src f.a; let v ← src f.b; writePred p (cmpCond c.toNat u v)) s :=
      framedBy_src ha fun _ => framedBy_src hb fun _ => framedBy_writePred p _ s
    exact (runA_frame hdefer (predFrame_allowsPc p) hbody h).imp_right And.symm

end Sys2Proof.Machine

/-! # join, exit, prio, migr and kpt (R19, R246 to R250): what each body comes to, and how a lone bundle or a slot of a pair reports it. -/

namespace Sys2Proof.Machine

open Sys2Proof.Claims

section
variable {s t u : State} {w n : Nat} {body : Ex Unit} {v : Word}

/-! ### A stop, alone or in a pair -/

theorem actC_goes (hg : s.goesC w) : actC w body s s = body s := by
  simp only [actC, Ex.bind_ok hg.2, hg.1, if_true]

/-- A stop that no earlier cause precedes is what the whole bundle or the slot comes to (R164, R337). -/
theorem runC_goes_stop {e : Stop} (hg : s.goesC w) (hb : body s = .error e) (hs : e.settled (actC w body s) s = e) :
    runC w body s = .next (if s.latch.mode = .lone then s.stopped false e else s.slotStopped e) := by
  have hact : actC w body s s = .error e := (actC_goes hg).trans hb
  unfold actC at hact hs
  cases hm : s.latch.mode <;> simp [runC, hm, hact, hs]

theorem runC_goes_trap (hg : s.goesC w) (hb : body s = .error (.trap n v)) : runC w body s = .next (trapped s n v false) :=
  runC_goes_stop hg hb (settled_trap ..)

theorem runC_goes_wait {f : State → State} (hg : s.goesC w) (hb : body s = .error (.wait n f)) (hn : noneBefore (actC w body s) s n = true) :
    runC w body s = .next (waiting s (f s) n) :=
  runC_goes_stop hg hb (settled_wait hn)

theorem runC_lone_become {f : State → State} (hg : s.goesC w) (hm : s.latch.mode = .lone) (hb : body s = .error (.become f)) :
    runC w body s = .next (f s) := by
  rw [runC_goes_stop hg hb (settled_become ..), if_pos hm]
  rfl

/-! ### A source while earlier causes are looked for (R337) -/

/-- The state in which parks from cause `p` on are passed. -/
def State.passing (s : State) (p : Nat) : State := { s with latch := { s.latch with skip := p } }

theorem popQ_of_word {q : Nat} {l : List QEnt} (hs : shareOk (s.core s.latch.core).share s.cur.x q 6 = true)
    (hl : s.popable (24 + q) (Table.get [] q s.curCtx.q) = .word v :: l) :
    popQ q s = .ok (v, s.modCtx s.latch.core s.cur.x fun k => { k with q := Table.set q ((Table.get [] q s.curCtx.q).drop 1) k.q }) := by
  unfold State.curCtx at hl
  simp only [popQ, Ex.get_bind, hs, hl]
  rfl

/-- A pop that reads a value has taken it from the front of its queue register (R43). -/
theorem popQ_ok {q : Nat} (hk : s.latch.skip = 0) (h : popQ q s = .ok (v, t)) :
    shareOk (s.core s.latch.core).share s.cur.x q 6 = true ∧ (∃ l, s.popable (24 + q) (Table.get [] q s.curCtx.q) = .word v :: l) ∧
      t = s.modCtx s.latch.core s.cur.x fun k => { k with q := Table.set q ((Table.get [] q s.curCtx.q).drop 1) k.q } := by
  cases hs : shareOk (s.core s.latch.core).share s.cur.x q 6 with
  | false => simp only [popQ, Ex.get_bind, hs] at h; cases h
  | true =>
    rcases hl : s.popable (24 + q) (Table.get [] q s.curCtx.q) with _ | ⟨⟨x⟩ | ⟨i⟩, l⟩
    · rw [popQ_empty hs hl hk] at h; cases h
    · rw [popQ_of_word hs hl] at h; cases h; exact ⟨rfl, ⟨l, rfl⟩, rfl⟩
    · unfold State.curCtx at hl
      have hpark : popQ q s = park 2 s := by simp only [popQ, Ex.get_bind, hs, hl]; rfl
      rw [hpark, park_run (.inl hk)] at h
      cases h

theorem popPort_of_word {i d : Nat} {l : List QEnt} (hd : s.portPeer s.latch.core s.cur.x i = some d)
    (hl : Table.get [] i s.curCtx.port = .word v :: l) :
    popPort i s = .ok (v, s.modCtx s.latch.core s.cur.x fun k => { k with port := Table.set i ((Table.get [] i s.curCtx.port).drop 1) k.port }) := by
  simp only [popPort, Ex.get_bind, hd, hl]
  rfl

theorem popPort_ok {i : Nat} (hk : s.latch.skip = 0) (h : popPort i s = .ok (v, t)) :
    (∃ d, s.portPeer s.latch.core s.cur.x i = some d) ∧ (∃ l, Table.get [] i s.curCtx.port = .word v :: l) ∧
      t = s.modCtx s.latch.core s.cur.x fun k => { k with port := Table.set i ((Table.get [] i s.curCtx.port).drop 1) k.port } := by
  cases hd : s.portPeer s.latch.core s.cur.x i with
  | none => simp only [popPort, Ex.get_bind, hd] at h; cases h
  | some d =>
    rcases hl : Table.get [] i s.curCtx.port with _ | ⟨⟨x⟩ | ⟨j⟩, l⟩
    case cons.word => rw [popPort_of_word hd hl] at h; cases h; exact ⟨⟨d, rfl⟩, ⟨l, rfl⟩, by rw [hl]⟩
    all_goals
      have hpark : popPort i s = park 3 s := by simp only [popPort, Ex.get_bind, hd, hl]
      rw [hpark, park_run (.inl hk)] at h
      cases h

theorem readReg_queue {r : Nat} (h1 : 24 ≤ r) (h2 : r < 32) : readReg r s = popQ (r - 24) s := by
  simp only [readReg, Ex.get_bind]
  rw [if_neg (by omega), if_neg (by omega), if_pos h2]

theorem readReg_port {r : Nat} (h1 : 32 ≤ r) (h2 : r < 36) : readReg r s = popPort (r - 32) s := by
  simp only [readReg, Ex.get_bind]
  rw [if_neg (by omega), if_neg (by omega), if_neg (by omega), if_pos h2]

theorem readReg_plain_passing {r : Nat} (hr : r < 24 ∨ 36 ≤ r) (h : readReg r s = .ok (v, t)) (p : Nat) :
    readReg r (s.passing p) = .ok (v, s.passing p) := by
  rcases Nat.lt_or_ge r 16 with h1 | h1
  · cases he : s.pre.t.getD r (.val 0) with
    | val x => rw [readReg_result h1 he] at h; cases h; exact readReg_result (s := s.passing p) h1 he
    | pend i => rw [readReg_pending h1 he] at h; cases h
    | bad sb z => rw [readReg_bad h1 he] at h; cases h
  rcases Nat.lt_or_ge r 24 with h2 | h2
  · cases hp : s.pre.regPend.any (·.1 == r) with
    | false => rw [readReg_named h1 h2 hp] at h; cases h; exact readReg_named (s := s.passing p) h1 h2 hp
    | true => rw [readReg_named_pending h1 h2 hp] at h; cases h
  obtain rfl | rfl | rfl | h3 : r = 36 ∨ r = 37 ∨ r = 38 ∨ 39 ≤ r := by omega
  · cases h; exact readReg_zero
  · cases hp : s.pre.regPend.any (·.1 == 37) with
    | false => rw [readReg_sp hp] at h; cases h; exact readReg_sp (s := s.passing p) hp
    | true => rw [readReg_sp_pending hp] at h; cases h
  · cases h; exact readReg_clk
  · rw [readReg_reserved h3] at h; cases h

/-- A source that reads a value leaves the latch as it was, and reads the same where later parks are passed. -/
theorem src_passing {a : BitVec 6} (hk : s.latch.skip = 0) (h : src a s = .ok (v, t)) (p : Nat) :
    t.latch = s.latch ∧ src a (s.passing p) = .ok (v, t.passing p) := by
  unfold src at h ⊢
  by_cases hr : a.toNat < 24 ∨ 36 ≤ a.toNat
  · obtain rfl := readReg_keeps hr h
    exact ⟨rfl, readReg_plain_passing hr h p⟩
  rcases Nat.lt_or_ge a.toNat 32 with hq | hq
  · rw [readReg_queue (by omega) hq] at h ⊢
    obtain ⟨hs, ⟨l, hl⟩, rfl⟩ := popQ_ok hk h
    exact ⟨rfl, popQ_of_word (s := s.passing p) hs hl⟩
  · rw [readReg_port hq (by omega)] at h ⊢
    obtain ⟨⟨d, hd⟩, ⟨l, hl⟩, rfl⟩ := popPort_ok hk h
    exact ⟨rfl, popPort_of_word (s := s.passing p) hd hl⟩

theorem noneBefore_of_ok {r : Unit × State} {p : Nat} (hg : s.goesC 0) (h : body (s.passing p) = .ok r) : noneBefore (actC 0 body s) s p = true := by
  have hact : actC 0 body s (s.passing p) = .ok r := by simp only [actC, Ex.bind_ok (waitSlot_zero _), hg.1, if_true, h]
  unfold State.passing at hact
  simp only [noneBefore, hact]

/-! ### join (R246) -/

/-- The thread that an identifier names, among those in a slot, abroad and saved: what `join` looks up. -/
def State.lookUp (s : State) (thid : Nat) : Option Thread :=
  (s.allThreads ++ s.sched.abroad.map Prod.snd ++ s.savedThreads).find? fun t => thidOf t == thid

/-- Once the identifier is read and is another thread of this device, `join` looks at the wait of its thread (R246). -/
theorem join_runs (a : BitVec 6) : ∃ body, (∀ s, exec (.join a) s = runC 0 body s) ∧ ∀ (s u : State) (v : Word), src a s = .ok (v, u) →
    v.toNat < 2 ^ 32 → v.toNat ≠ thidOf u.cur → v.toNat / 2 ^ 17 = u.dev.devno →
    (u.cur.wait = .none → u.lookUp v.toNat = none → body s = .ok ((), u)) ∧
    (∀ t, u.cur.wait = .none → u.lookUp v.toNat = some t → body s = (parkWith 11 fun s => s.modCur fun q => { q with wait := .join v.toNat t.uid }) u) ∧
    (∀ i q, u.cur.wait = .join i q → u.lives i q = false → body s = .ok ((), calm u)) := by
  refine ⟨_, fun _ => rfl, fun s u v hsrc hv hself hdev => ?_⟩
  unfold State.lookUp
  rw [Ex.bind_ok hsrc]
  simp only [Ex.get_bind]
  rw [if_neg (not_or.mpr ⟨Nat.not_le.mpr hv, hself⟩), if_neg (not_not.mpr hdev)]
  refine ⟨fun hw hf => ?_, fun t hw hf => ?_, fun i q hw hl => ?_⟩
  · simp only [hw, hf]; rfl
  · simp only [hw, hf]
  · simp only [hw, hl]; rfl

section
variable {a : BitVec 6} (hg : s.goesC 0) (hsrc : src a s = .ok (v, u)) (hv : v.toNat < 2 ^ 32) (hself : v.toNat ≠ thidOf u.cur)
  (hdev : v.toNat / 2 ^ 17 = u.dev.devno)
include hg hsrc hv hself hdev

theorem exec_join_of_not_living (hw : u.cur.wait = .none) (hf : u.lookUp v.toNat = none) : exec (.join a) s = .next (s.ended u) := by
  obtain ⟨body, hexec, hbody⟩ := join_runs a
  rw [hexec]
  exact runC_goes hg ((hbody s u v hsrc hv hself hdev).1 hw hf)

theorem exec_join_of_living {t : Thread} (hw : u.cur.wait = .none) (hf : u.lookUp v.toNat = some t) (hk : s.latch.skip = 0) :
    exec (.join a) s = .next (waiting s (s.modCur fun q => { q with wait := .join v.toNat t.uid }) 11) := by
  obtain ⟨body, hexec, hbody⟩ := join_runs a
  obtain ⟨hlatch, hpass⟩ := src_passing hk hsrc 11
  have hpark := ((hbody s u v hsrc hv hself hdev).2.1 t hw hf).trans (parkWith_run _ (.inl (hlatch ▸ hk)))
  have hlater := (hbody _ _ v hpass hv hself hdev).2.1 t hw hf
  rw [hexec]
  exact runC_goes_wait hg hpark (noneBefore_of_ok hg hlater)

theorem exec_join_of_ended {i q : Nat} (hw : u.cur.wait = .join i q) (hl : u.lives i q = false) : exec (.join a) s = .next (s.ended (calm u)) := by
  obtain ⟨body, hexec, hbody⟩ := join_runs a
  rw [hexec]
  exact runC_goes hg ((hbody s u v hsrc hv hself hdev).2.2 i q hw hl)

end

/-! ### exit, prio, migr and kpt (R247 to R250) -/

/-- `endTask` completes where `ends` has a state to name. -/
theorem endTask_of_ends (h : ends s = some t) : endTask s = .ok ((), t) := by
  unfold ends at h
  simp only [endTask, Ex.get_bind]
  split at h
  · next htask => cases h; simp only [htask]; rfl
  · next htask =>
    split at h
    · next hc => obtain ⟨hbad, hwait⟩ := hc; cases h; simp only [Bool.not_eq_false] at htask; simp only [htask, hbad, hwait, if_true]; rfl
    · cases h

theorem exec_exit (hg : s.goesC 0) (ha : s.cur.arriving = false) (he : ends s = some t) :
    exec .exit s = .next (s.ended (t.modCur fun t => { t with st := .leaving, leave := .exit, task := false, wait := .none })) := by
  refine runC_goes hg ?_
  simp only [Ex.get_bind, ha]
  exact Ex.bind_ok (endTask_of_ends he)

section
variable {a : BitVec 6} (hg : s.goesC 0) (hsrc : src a s = .ok (v, u))
include hg hsrc

theorem exec_prio (h8 : v.toNat < 8) (h7 : u.cur.bpri = 7 ↔ v.toNat = 7) : exec (.prio a) s = .next (s.ended (u.modCur fun t => { t with bpri := v.toNat })) := by
  refine runC_goes hg ?_
  rw [Ex.bind_ok hsrc, if_neg (by omega)]
  simp only [Ex.get_bind, h7, ne_eq, not_true_eq_false, if_false]
  rfl

theorem exec_prio_crossing (h8 : v.toNat < 8) (h7 : ¬ (u.cur.bpri = 7 ↔ v.toNat = 7)) : exec (.prio a) s = .next (trapped s 0x17 v false) := by
  refine runC_goes_trap hg ?_
  rw [Ex.bind_ok hsrc, if_neg (by omega)]
  simp only [Ex.get_bind, eq_iff_iff, ne_eq, h7, not_false_eq_true, if_true]
  rfl

theorem exec_prio_range (h8 : 8 ≤ v.toNat) : exec (.prio a) s = .next (trapped s 0x12 v false) := by
  refine runC_goes_trap hg ?_
  rw [Ex.bind_ok hsrc, if_pos h8]
  rfl

theorem exec_migr_here (h : u.migrTarget v.toNat = .ok none) : exec (.migr a) s = .next (s.ended u) := by
  refine runC_goes hg ?_
  rw [Ex.bind_ok hsrc]
  simp only [Ex.get_bind, h]
  rfl

theorem exec_migr_unowned {k : Nat} (h : u.migrTarget v.toNat = .error k) : exec (.migr a) s = .next (trapped s k v false) := by
  refine runC_goes_trap hg ?_
  rw [Ex.bind_ok hsrc]
  simp only [Ex.get_bind, h]
  rfl

theorem exec_migr_leaves {d n : Nat} (h : u.migrTarget v.toNat = .ok (some (d, n))) (hset : u.settled u.latch.core u.latch.slot = true)
    (harr : u.cur.arr = none) (hmig : u.migratable u.latch.core u.latch.slot = true)
    (hto : if d = u.dev.devno then inRect u.curCtx n = true else u.cur.xdev = true ∧ u.reach d = true) :
    exec (.migr a) s = .next (s.ended (u.modCur fun t => { t with st := .leaving, leave := .migrate d n })) := by
  refine runC_goes hg ?_
  rw [Ex.bind_ok hsrc]
  simp only [Ex.get_bind, h, hset, harr, hmig]
  split at hto
  · next hd => simp [hd, hto]
  · next hd => simp [hd, hto]

end

theorem exec_kpt_no_notice (hg : s.goesC 0) (h : s.cur.kill = none) : exec .kpt s = .next (s.ended s) := by
  refine runC_goes hg ?_
  simp only [Ex.get_bind, h]
  rfl

theorem exec_kpt_notice {n : KillNote} (hg : s.goesC 0) (hm : s.latch.mode = .lone) (h : s.cur.kill = some n) :
    exec .kpt s = .next (s.killThread s.latch.core s.latch.slot n.word) := by
  refine runC_lone_become (f := fun s => s.killThread s.latch.core s.latch.slot n.word) hg hm ?_
  simp only [Ex.get_bind, h]
  rfl

end

/-- Settles O26: each clause is what the instruction's body comes to under the clause's premises. -/
theorem threadInstructions : Obligations.ThreadInstructions := by
  unfold Obligations.ThreadInstructions
  intro s hg
  refine ⟨fun a u v hsrc hv hself hdev => ⟨?_, ?_, ?_⟩, ?_, fun a u v hsrc => ⟨?_, ?_, ?_⟩, fun a u v hsrc => ⟨?_, ?_, ?_⟩, ?_, ?_⟩
  · exact exec_join_of_not_living hg hsrc hv hself hdev
  · exact fun t => exec_join_of_living hg hsrc hv hself hdev
  · exact fun i q => exec_join_of_ended hg hsrc hv hself hdev
  · exact fun w => exec_exit hg
  · exact exec_prio hg hsrc
  · exact exec_prio_crossing hg hsrc
  · exact exec_prio_range hg hsrc
  · exact exec_migr_here hg hsrc
  · exact fun d n => exec_migr_leaves hg hsrc
  · exact fun k => exec_migr_unowned hg hsrc
  · exact exec_kpt_no_notice hg
  · exact fun n hk hm => exec_kpt_notice hg hm hk

end Sys2Proof.Machine

/-! # Windows leave the core and come back (R36, R37, R64, R208 to R210, R411). -/

namespace Sys2Proof.Machine

open Sys2Proof.Claims

/-! ### Bytes (R3) -/

@[simp] theorem toBytes_length (n v : Nat) : (toBytes n v).length = n := by
  induction n generalizing v with
  | zero => rfl
  | succ n ih => rw [toBytes, List.length_cons, ih]

theorem ofBytes_toBytes (n v : Nat) : ofBytes (toBytes n v) = v % 256 ^ n := by
  induction n generalizing v with
  | zero => simp [toBytes, ofBytes, Nat.mod_one]
  | succ n ih =>
    rw [toBytes, ofBytes, ih, Nat.pow_succ', Nat.mod_mul]
    rfl

theorem ofBytes_toBytes_word (v : Word) : ofBytes (toBytes 8 v.toNat) = v.toNat :=
  (ofBytes_toBytes 8 _).trans (Nat.mod_eq_of_lt v.isLt)

theorem ofBytes_lt (b : List Byte) : ofBytes b < 256 ^ b.length := by
  induction b with
  | nil => decide
  | cons x b ih =>
    have hx : x.toNat < 256 := x.isLt
    rw [ofBytes, List.length_cons, Nat.pow_succ]
    omega

theorem ofBytes_slice_lt (b : List Byte) (i n : Nat) : ofBytes (slice b i n) < 256 ^ n :=
  (ofBytes_lt _).trans_le (Nat.pow_le_pow_right (by decide) (List.length_take_le ..))

@[simp] theorem slice_toBytes_first (n v : Nat) (b : List Byte) : slice (toBytes n v ++ b) 0 n = toBytes n v := by
  simp [slice]

theorem slice_toBytes_later {m i : Nat} (h : m ≤ i) (v n : Nat) (b : List Byte) : slice (toBytes m v ++ b) i n = slice b (i - m) n := by
  simp [slice, List.drop_append, List.drop_eq_nil_of_le, h]

@[simp] theorem memGets_length (m : List Host.Cell) (a n : Nat) : (memGets m a n).length = n := by
  induction n generalizing a with
  | zero => rfl
  | succ n ih => rw [memGets, List.length_cons, ih]

/-! ### The 64 bytes of a window (R36) -/

theorem windowShape_windowBytes (w : Window) : windowShape w (windowBytes w) := by
  have hpred : ofBytes (toBytes 2 w.pred.toNat) = w.pred.toNat := (ofBytes_toBytes 2 _).trans (Nat.mod_eq_of_lt w.pred.isLt)
  simp [windowShape, windowBytes, slice_toBytes_later, ofBytes_toBytes_word, hpred]

theorem windowShape_windowOf {b : List Byte} (h : b.length = 64) : windowShape (windowOf b) b := by
  have hword (i : Nat) : ofBytes (slice b i 8) % 2 ^ 64 = ofBytes (slice b i 8) := Nat.mod_eq_of_lt (ofBytes_slice_lt b i 8)
  have hpred : ofBytes (slice b 48 2) % 2 ^ 16 = ofBytes (slice b 48 2) := Nat.mod_eq_of_lt (ofBytes_slice_lt b 48 2)
  simp only [windowShape, windowOf, BitVec.toNat_ofNat, hword, hpred, h, and_self]

/-! ### Packets (R137, R387) -/

/-- A packet that is sent is in the router or held back; nothing but the packets and the buffers' occupancy changes. -/
theorem sendPacket_eq (s : State) (p : Packet) : ∃ (q : Sched) (d : Dev) (r : Packet), s.sendPacket p = { s with sched := q, dev := d } ∧
    q.lease = s.sched.lease ∧ q.abroad = s.sched.abroad ∧ d.devno = s.dev.devno ∧
      (r ∈ q.fabric ∨ r ∈ q.heldBack) ∧ r = { p with bank := s.dev.rtInj, src := s.dev.devno } := by
  unfold State.sendPacket
  dsimp only
  split
  · exact ⟨_, _, _, rfl, rfl, rfl, rfl, .inr (List.mem_append_right _ (List.mem_singleton_self _)), rfl⟩
  · exact ⟨_, _, _, rfl, rfl, rfl, rfl, .inl (List.mem_append_right _ (List.mem_singleton_self _)), rfl⟩

section
variable (s : State)

@[simp] theorem sendPacket_thread (p : Packet) (c h : Nat) : (s.sendPacket p).thread c h = s.thread c h := by
  obtain ⟨q, d, r, h, -⟩ := sendPacket_eq s p
  rw [h]
  rfl

@[simp] theorem tell_thread (d n g : Nat) (ws : List Word) (c h : Nat) : (s.tell d n g ws).thread c h = s.thread c h := sendPacket_thread ..

@[simp] theorem askHome_thread (c h a n : Nat) (ws : List Word) (d i : Nat) : (s.askHome c h a n ws).thread d i = s.thread d i := tell_thread ..

/-! ### The oldest window goes, the newest comes back (R36, R64, R209) -/

theorem modThread_congr {c h : Nat} {f g : Thread → Thread} (hfg : f (s.thread c h) = g (s.thread c h)) : s.modThread c h f = s.modThread c h g := by
  unfold State.modThread
  rw [hfg]

theorem othersStand_modThread {r : State} (hr : ∀ d i, r.thread d i = s.thread d i) (c h : Nat) (f : Thread → Thread) :
    othersStand s (r.modThread c h f) c h := by
  intro d i hne
  rw [State.modThread_thread, if_neg hne, hr]

theorem modThread_same (c h : Nat) (f : Thread → Thread) : (s.modThread c h f).thread c h = f (s.thread c h) := by
  rw [State.modThread_thread, if_pos rfl]

end

section
variable {s : State} {c h k : Nat} {t : Thread} {w : Window} {l : List Window}

/-- Window `w` is the oldest of more than two resident ones of thread `t`, and no register of it is pending (R36, R164). -/
def maySpill (t : Thread) (l : List Window) (w : Window) : Prop :=
  t.win = l ++ [w] ∧ 2 ≤ l.length ∧ (t.regPend.any fun p => decide (64 ≤ p.1 ∧ (p.1 - 64) / 4 = t.depth - t.win.length + 1)) = false

/-- A spill that may be made does what the place of the window comes to (R36, R64). -/
theorem spillOldest_place {r : Except Unit (Option Nat)} (ht : s.thread c h = t) (hm : maySpill t l w)
    (hr : s.windowPlace c t (t.depth - t.win.length + 1) 2 = r) :
    (∀ k, r = .ok (some k) → s.spillOldest c h = (s.putWindow c h k w).modThread c h fun t => { t with win := t.win.dropLast }) ∧
    (r = .error () → ∃ z : Cause, z.code = 0x16 ∧ z.tval = BitVec.ofNat 64 (s.windowKey t (t.depth - t.win.length + 1)) ∧
      s.spillOldest c h = s.modThread c h fun t => { t with win := t.win.dropLast, due := t.due ++ [z] }) := by
  obtain ⟨hwin, hl, hp⟩ := hm
  subst ht
  have hlast : (s.thread c h).win.getLast? = some w := by rw [hwin, List.getLast?_concat]
  have hlen : ¬ (s.thread c h).win.length ≤ 2 := by rw [hwin, List.length_append, List.length_singleton]; omega
  unfold State.spillOldest
  simp only [hlast]
  rw [if_neg (not_or.mpr ⟨hlen, Bool.eq_false_iff.mp hp⟩), hr]
  refine ⟨?_, ?_⟩
  · rintro k rfl
    rfl
  · rintro rfl
    exact ⟨⟨0x16, _, s.callOf c (s.ctx c (s.thread c h).x).l w, false, false, 0, 0⟩, rfl, rfl, rfl⟩

theorem spillOldest_few (hlen : (s.thread c h).win.length ≤ 2) : s.spillOldest c h = s := by
  unfold State.spillOldest
  dsimp only
  split
  · rw [if_pos (.inl hlen)]
  · rfl

theorem put_mem (s : State) (k : Nat) (b : List Byte) : (s.put k b).mem = memPuts k b s.mem := rfl

theorem put_thread (s : State) (k : Nat) (b : List Byte) (c h : Nat) : (s.put k b).thread c h = s.thread c h := rfl

theorem putWindow_foreign (hf : s.foreign (s.thread c h) = true) : s.putWindow c h k w = s.askHome c h 7 10 (areaWords k (windowBytes w)) := if_pos hf

theorem putWindow_home (hf : s.foreign (s.thread c h) = false) : s.putWindow c h k w = s.put k (windowBytes w) :=
  if_neg (Bool.eq_false_iff.mp hf)

/-- A window that is not resident, whose place is known and that nothing has been asked for, comes back or is asked for (R36, R37). -/
theorem exec_windowRefill (hst : (its s).st ≠ .empty) (hlen : (its s).win.length < min 3 (its s).depth)
    (hops : (s.opsOf s.arg.c s.arg.h).all (fun o => o.kind != .home) = true)
    (hk : s.windowPlace s.arg.c (its s) ((its s).depth - (its s).win.length) 1 = .ok (some k)) :
    exec .windowRefill s = .next (if s.foreign (its s) = true then s.askHome s.arg.c s.arg.h 6 11 [BitVec.ofNat 64 k, 64]
      else s.windowBack s.arg.c s.arg.h ((its s).depth - (its s).win.length) (windowOf (s.bytes k 64))) := by
  have hasked : ((s.opsOf s.arg.c s.arg.h).any fun o => o.kind == .home && o.aop == 6) = false := by
    simp only [List.all_eq_true, bne_iff_ne] at hops
    simp only [List.any_eq_false, Bool.and_eq_true, beq_iff_eq]
    exact fun o ho hh => hops o ho hh.1
  unfold its at *
  change execWindowRefill s = _
  unfold execWindowRefill
  dsimp only
  rw [if_neg (not_or.mpr ⟨hst, not_or.mpr ⟨by omega, Bool.eq_false_iff.mp hasked⟩⟩), hk]

theorem finishRestart_none (hr : (s.thread c h).restart = false) : s.finishRestart c h = s := by
  simp [State.finishRestart, hr]

theorem windowBack_resident {n : Nat} (hr : (s.thread c h).restart = false) :
    s.windowBack c h n w = s.modThread c h fun t => { t with win := t.win ++ [w], winAt := t.winAt.filter fun p => p.1 != n } :=
  finishRestart_none (by rw [modThread_same]; exact hr)

end

/-- The windows that a spill or a refill concerns move as R36 and R64 say. -/
theorem windowMoves : WindowMoves := by
  unfold WindowMoves
  refine ⟨fun s w l k => ?_, fun s k => ?_, fun s hlen => ?_, fun s hlen => ?_⟩
  · intro c h t hwin hl hst hp
    have hm : maySpill t l w := ⟨hwin, hl, hp⟩
    have hdrop : t.win.dropLast = l := by rw [hwin, List.dropLast_concat]
    have hexec : exec .windowSpill s = .next (s.spillOldest c h) := congrArg Host.Outcome.next (if_neg hst)
    refine ⟨fun hk hf => ⟨windowBytes w, windowShape_windowBytes w, ?_⟩, fun hk hf => ⟨_, windowBytes w, hexec, ?_⟩, fun hk => ?_⟩
    · rw [hexec, (spillOldest_place rfl hm hk).1 k rfl, putWindow_foreign hf]
      exact congrArg Host.Outcome.next (modThread_congr _ (by rw [askHome_thread]; exact congrArg (fun x => { t with win := x }) hdrop))
    · rw [(spillOldest_place rfl hm hk).1 k rfl, putWindow_home hf]
      refine ⟨(State.modThread_mem ..).trans (put_mem ..), windowShape_windowBytes w, ?_, othersStand_modThread s (put_thread s _ _) c h _⟩
      rw [modThread_same, put_thread]
      exact congrArg (fun x => { t with win := x }) hdrop
    · obtain ⟨z, hcode, htval, hspill⟩ := (spillOldest_place rfl hm hk).2 rfl
      refine ⟨_, z, hexec, ?_⟩
      rw [hspill]
      refine ⟨rfl, hcode, htval, ?_, othersStand_modThread s (fun _ _ => rfl) c h _⟩
      rw [modThread_same]
      exact congrArg (fun x => { t with win := x, due := t.due ++ [z] }) hdrop
  · intro c h t hst hlen hops hk
    have hexec := exec_windowRefill hst hlen hops hk
    refine ⟨fun hf => hexec.trans (congrArg Host.Outcome.next (if_pos hf)), fun hf hr => ?_⟩
    refine ⟨_, windowOf (s.bytes k 64), hexec.trans (congrArg Host.Outcome.next (if_neg (Bool.eq_false_iff.mp hf))), ?_⟩
    rw [windowBack_resident hr]
    refine ⟨rfl, ?_, windowShape_windowOf (memGets_length ..), othersStand_modThread s (fun _ _ => rfl) c h _⟩
    rw [modThread_same]
    rfl
  · exact congrArg Host.Outcome.next (ite_eq_left_iff.mpr fun _ => spillOldest_few hlen)
  · exact if_pos (.inr (.inl hlen))

end Sys2Proof.Machine

/-! # Vector windows are granted from the head of their core's queue (R44). -/

namespace Sys2Proof.Machine

open Sys2Proof.Claims

section
variable {s : State} {c h n b : Nat}

/-- The core with `n` registers from `b` at zero, as a grant leaves them. -/
def zeroRegs (b n : Nat) (k : Core) : Core :=
  (List.range n).foldl (fun k i => { k.mend 0 (b + i) with vreg := Table.set (b + i) 0 k.vreg }) k

theorem zeroRegs_succ (b n : Nat) (k : Core) :
    zeroRegs b (n + 1) k = { (zeroRegs b n k).mend 0 (b + n) with vreg := Table.set (b + n) 0 (zeroRegs b n k).vreg } := by
  simp only [zeroRegs, List.range_succ, List.foldl_append, List.foldl_cons, List.foldl_nil]

theorem mend_vwait (k : Core) (a i : Nat) : (k.mend a i).vwait = k.vwait := by
  unfold Core.mend
  split <;> rfl

@[simp] theorem zeroRegs_vwait (b n : Nat) (k : Core) : (zeroRegs b n k).vwait = k.vwait := by
  induction n with
  | zero => rfl
  | succ n ih => rw [zeroRegs_succ]; exact (mend_vwait ..).trans ih

theorem zeroRegs_vreg (b n r : Nat) (k : Core) :
    Table.get 0 r (zeroRegs b n k).vreg = if b ≤ r ∧ r < b + n then 0 else Table.get 0 r k.vreg := by
  induction n with
  | zero => rw [if_neg (by omega)]; rfl
  | succ n ih =>
    rw [zeroRegs_succ, Table.get_set, ih]
    split
    · next hr => rw [if_pos (by omega)]
    · next hr => exact if_congr (by omega) rfl rfl

/-- What a grant makes of its thread: it holds the registers; an ARRIVING one becomes READY, another one's wait is over. -/
def grantTo (clock b n : Nat) (t : Thread) : Thread :=
  if t.st = .arriving then readyTh clock { t with vbase := b, vcnt := n } else { t with vbase := b, vcnt := n, wait := .done 0 }

theorem grantTo_arriving {t : Thread} (ht : t.st = .arriving) (clock b n : Nat) :
    grantTo clock b n t = readyTh clock { t with vbase := b, vcnt := n } := if_pos ht

theorem grantTo_waiting {t : Thread} (ht : t.st ≠ .arriving) (clock b n : Nat) : grantTo clock b n t = { t with vbase := b, vcnt := n, wait := .done 0 } :=
  if_neg ht

/-- The head of core `c`'s queue, thread `h`, holds the `n` registers from `b`, and `r` is left of the queue. -/
def State.granted (s : State) (c h n b : Nat) (r : List (Nat × Nat)) : State :=
  ((s.modCore c fun k => { k with vwait := r }).modCore c (zeroRegs b n)).modThread c h (grantTo s.dev.clock b n)

theorem granted_thread (s : State) (c h n b : Nat) (r : List (Nat × Nat)) :
    (s.granted c h n b r).thread c h = grantTo s.dev.clock b n (s.thread c h) := modThread_same ..

theorem grantV_empty (hq : (s.core c).vwait = []) (f : Nat) : s.grantV c f = s := by
  cases f with
  | zero => rfl
  | succ f => simp only [State.grantV, hq]

theorem grantAll_empty (hq : (s.core c).vwait = []) : s.grantAll c = s := grantV_empty hq _

/-- A request stands while its thread arrives or still waits for a window. -/
def wantsWindow (t : Thread) : Prop := t.st = .arriving ∨ ∃ m, t.wait = .vwin m

theorem granted_core (s : State) (c h n b : Nat) (r : List (Nat × Nat)) :
    (s.granted c h n b r).core c = zeroRegs b n { s.core c with vwait := r } := by
  simp [State.granted]

theorem granted_vwait (s : State) (c h n b : Nat) (r : List (Nat × Nat)) : ((s.granted c h n b r).core c).vwait = r := by
  rw [granted_core, zeroRegs_vwait]

/-- The head of the queue is granted its registers as soon as a run is free; while none is, everyone waits. -/
theorem grantV_head {r : List (Nat × Nat)} (hq : (s.core c).vwait = (h, n) :: r) (hw : wantsWindow (s.thread c h)) (f : Nat) :
    s.grantV c (f + 1) = (s.vfreeRun c n).elim s fun b => (s.granted c h n b r).grantV c f := by
  rcases hw with ha | ⟨m, hm⟩
  · simp only [State.grantV, hq, ha, decide_true, Bool.true_or, Bool.not_true, Bool.false_eq_true, if_false]
    cases s.vfreeRun c n <;> rfl
  · simp only [State.grantV, hq, hm, Bool.or_true, Bool.not_true, Bool.false_eq_true, if_false]
    cases s.vfreeRun c n <;> rfl

theorem grantAll_full {r : List (Nat × Nat)} (hq : (s.core c).vwait = (h, n) :: r) (hw : wantsWindow (s.thread c h))
    (hv : s.vfreeRun c n = none) : s.grantAll c = s := by
  rw [State.grantAll, grantV_head hq hw, hv]
  rfl

theorem grantAll_only (hq : (s.core c).vwait = [(h, n)]) (hw : wantsWindow (s.thread c h)) (hv : s.vfreeRun c n = some b) :
    s.grantAll c = s.granted c h n b [] := by
  rw [State.grantAll, grantV_head hq hw, hv]
  exact grantV_empty (granted_vwait ..) _

end

/-! ### VWIN_WRITE and VWIN_GRANT (R44) -/

/-- Thread `h` of core `c` has given its window up and stands last in its core's queue. -/
def State.asksWindow (s : State) (c h n : Nat) : State :=
  (s.modThread c h fun t => { t with vbase := 0, vcnt := 0 }).modCore c fun k => { k with vwait := k.vwait ++ [(h, n)] }

section
variable {s : State} {c h n : Nat}

theorem asksWindow_core (s : State) (c h n : Nat) : (s.asksWindow c h n).core c = { s.core c with vwait := (s.core c).vwait ++ [(h, n)] } := by
  simp [State.asksWindow]

theorem asksWindow_thread (s : State) (c h n : Nat) : (s.asksWindow c h n).thread c h = { s.thread c h with vbase := 0, vcnt := 0 } := by
  simp [State.asksWindow]

theorem exec_vwinWrite (hq : (s.core s.arg.c).vwait = []) (hw : (its s).wait = .vwin n) (hn : s.arg.n = n) :
    exec .vwinWrite s = .next ((s.asksWindow s.arg.c s.arg.h n).grantAll s.arg.c) := by
  subst hn
  unfold its at hw
  change execVwinWrite s = _
  unfold execVwinWrite
  simp only [hw, hq, List.any_nil, ne_eq, not_true_eq_false, Bool.false_eq_true, or_self, if_false]
  rfl

end

/-- A thread asks for a window and gets one, or waits; the queue's head gets one, or everyone waits. -/
theorem vectorWindows : VectorWindows := by
  unfold VectorWindows
  intro s c h
  have hasks (n : Nat) (hq : (s.core c).vwait = []) : ((s.asksWindow c h n).core c).vwait = [(h, n)] := by rw [asksWindow_core, hq]; rfl
  have hwants (n : Nat) (hw : (its s).wait = .vwin n) : wantsWindow ((s.asksWindow c h n).thread c h) := .inr ⟨n, by rw [asksWindow_thread]; exact hw⟩
  refine ⟨fun n b hq hw hst hn hv => ?_, fun n hq hw hst hn hv => ?_, fun i n b hq hst hv => ?_, fun i n r hq hst hv => ?_⟩
  · refine ⟨_, exec_vwinWrite hq hw hn, ?_⟩
    rw [grantAll_only (hasks n hq) (hwants n hw) hv]
    refine ⟨?_, ?_, fun i hi => ?_, fun r hr => ?_⟩
    · rw [granted_thread, asksWindow_thread]
      exact grantTo_waiting hst ..
    · intro d i hne
      simp [State.granted, State.asksWindow, hne]
    · rw [granted_core, zeroRegs_vreg, if_pos (by omega)]
    · rw [granted_core, zeroRegs_vreg, if_neg (by omega), asksWindow_core]
  · refine ⟨_, exec_vwinWrite hq hw hn, ?_⟩
    rw [grantAll_full (hasks n hq) (hwants n hw) hv]
    exact ⟨asksWindow_thread .., hasks n hq⟩
  · refine ⟨_, congrArg Host.Outcome.next (grantAll_only hq (.inl hst) hv), ?_⟩
    rw [granted_thread, granted_vwait, grantTo_arriving hst]
    exact ⟨rfl, rfl, rfl, rfl, rfl⟩
  · exact congrArg Host.Outcome.next (grantAll_full hq (.inl hst) hv)

end Sys2Proof.Machine

/-! # Threads leave their slots: retirement, migration and arrival (R19, R20, R37, R50, R247, R249, R336, R349, R412). -/

namespace Sys2Proof.Machine

open Sys2Proof.Claims

/-! ### Retirement (R19, R247, R412) -/

section
variable {s : State} {c h : Nat}

theorem leaveRope_none (hm : (s.thread c h).mem = none) : s.leaveRope c h = s := by
  simp [State.leaveRope, hm]

theorem tellJoiners_none (uid : Nat) (hj : s.sched.joiners = []) :
    s.tellJoiners uid = s.modSched fun q => { q with joiners := q.joiners.filter fun j => j.2.2.2 != uid } := by
  simp only [State.tellJoiners, hj, List.filter_nil, List.foldl_nil]

/-- While more units of its launch are open, a unit that is gone only lowers their number. -/
theorem unitGone_open {host id : Nat} {e : Level} (he : e ∈ (s.hctx host).launches) (hid : e.num = id) (hopen : 1 < e.open_) :
    s.unitGone host id = s.modHctx host fun k => { k with launches := levelClose id 1 k.launches } := by
  have hstill : (levelIn id (levelClose id 1 (s.hctx host).launches)).isSome = true := by
    rw [levelIn, List.find?_isSome]
    refine ⟨{ e with open_ := e.open_ - 1 }, ?_, ?_⟩
    · rw [levelClose, List.mem_map]
      exact ⟨e, he, if_pos ⟨by omega, hid⟩⟩
    · simp [hid]
      omega
  obtain ⟨v, hv⟩ := Option.isSome_iff_exists.mp hstill
  simp only [State.unitGone, State.modHctx_hctx, if_true, hv]

/-- The slot of a thread is free: nothing stands in it or in its core's queue for windows, and its last operations belong to no slot (R19). -/
def State.slotFreed (s : State) (c h : Nat) : State :=
  ({ s with ops := s.ops.map fun (o : Op) => if o.core = c ∧ o.slot = h then { o with slot := 131072, sb := 0 } else o }.setThread c h {}).modCore c
    fun k => { k with vwait := k.vwait.filter fun p => p.1 != h }

/-- The slot is free, and no other device's `join` waits for the life that stood in it (R246). -/
def State.retires (s : State) (c h : Nat) : State :=
  (s.slotFreed c h).modSched fun q => { q with joiners := q.joiners.filter fun j => j.2.2.2 != (s.thread c h).uid }

theorem slotFreed_core (s : State) (c h : Nat) :
    (s.slotFreed c h).core c = { s.core c with vwait := (s.core c).vwait.filter fun p => p.1 != h } :=
  (State.modCore_core ..).trans (if_pos rfl)

/-- A thread that ends with nothing of its own under way frees its slot, and its launch has one unit less. -/
theorem exec_threadRetirement {e : Level} (hst : (its s).st = .leaving) (hleave : (its s).leave = .exit ∨ (its s).leave = .fatal)
    (hcmds : (s.core s.arg.c).cmds = []) (hops : s.opsOf s.arg.c s.arg.h = []) (hmem : (its s).mem = none) (hq : (s.core s.arg.c).vwait = [])
    (hhome : (its s).hdev = s.dev.devno) (hj : s.sched.joiners = []) (he : e ∈ (s.hctx (s.ctx s.arg.c (its s).x).host).launches)
    (hid : e.num = (s.ctx s.arg.c (its s).x).launch) (hopen : 1 < e.open_) :
    exec .threadRetirement s = .next ((s.retires s.arg.c s.arg.h).modHctx (s.ctx s.arg.c (its s).x).host fun k =>
      { k with launches := levelClose (s.ctx s.arg.c (its s).x).launch 1 k.launches }) := by
  have hgoing : ((its s).st == .leaving && ((its s).leave == .exit || (its s).leave == .fatal)) = true := by
    rcases hleave with hl | hl <;> simp [hst, hl]
  have hqueue : ((s.slotFreed s.arg.c s.arg.h).core s.arg.c).vwait = [] := by rw [slotFreed_core, hq]; rfl
  have hdone := unitGone_open (s := s.retires s.arg.c s.arg.h) he hid hopen
  unfold its at *
  change execThreadRetirement s = _
  unfold execThreadRetirement
  simp only [hgoing, hcmds, hops, List.any_nil, Bool.or_self, Bool.not_true, Bool.false_eq_true, if_false]
  rw [leaveRope_none hmem]
  let r := ((s.slotFreed s.arg.c s.arg.h).grantAll s.arg.c).tellJoiners (s.thread s.arg.c s.arg.h).uid
  change (if (s.thread s.arg.c s.arg.h).hdev = r.dev.devno then Host.Outcome.next (r.unitGone (r.ctx s.arg.c (s.thread s.arg.c s.arg.h).x).host
    (r.ctx s.arg.c (s.thread s.arg.c s.arg.h).x).launch) else _) = _
  have hr : r = s.retires s.arg.c s.arg.h := (congrArg (State.tellJoiners · _) (grantAll_empty hqueue)).trans (tellJoiners_none _ hj)
  rw [hr]
  exact (if_pos hhome).trans (congrArg Host.Outcome.next hdone)

/-- An access that is not performed holds a retirement back. -/
theorem exec_threadRetirement_busy {o : Op} (ho : o ∈ s.ops) (hc : o.core = s.arg.c) (hh : o.slot = s.arg.h) (hk : o.kind = .store) :
    exec .threadRetirement s = .next s := by
  have hbusy : ((s.opsOf s.arg.c s.arg.h).any fun o => o.kind != .send && o.kind != .spawn) = true := by
    refine List.any_eq_true.mpr ⟨o, ?_, by simp [hk]⟩
    simp [State.opsOf, ho, hc, hh]
  change execThreadRetirement s = _
  unfold execThreadRetirement
  simp only [hbusy, Bool.or_true, if_true]

end

theorem retires_thread (s : State) (c h d i : Nat) : (s.retires c h).thread d i = if 256 * d + i = 256 * c + h then {} else s.thread d i :=
  State.setThread_thread ..

/-! ### A context leaves its slot (R37, R50, R105, R336) -/

section
variable {s : State} {c h : Nat}

/-- Counting an event changes counters of contexts only, and no context's place. -/
theorem count_eq (s : State) (c x h ev n : Nat) : ∃ t : Table Ctx, s.count c x h ev n = { s with ctxs := t } ∧
    ∀ d y, ((s.count c x h ev n).ctx d y).away = (s.ctx d y).away := by
  unfold State.count
  split
  · exact ⟨s.ctxs, rfl, fun _ _ => rfl⟩
  · refine ⟨_, rfl, fun d y => ?_⟩
    rw [State.modCtx_ctx]
    split
    · next he => rw [State.ctx, State.ctx, he]
    · rfl

/-- The slot of a thread that moves is empty, and its context has counted the move. -/
def State.vacates (s : State) (c h : Nat) : State := (s.count c (s.thread c h).x h 21 1).setThread c h {}

/-- The state with the slot empty, as far as the statements ask. -/
theorem vacates_eq (s : State) (c h : Nat) : ∃ t : Table Ctx, s.vacates c h = { s.setThread c h {} with ctxs := t } ∧
    ∀ d y, ((s.vacates c h).ctx d y).away = (s.ctx d y).away := by
  obtain ⟨t, ht, haway⟩ := count_eq s c (s.thread c h).x h 21 1
  exact ⟨t, by rw [State.vacates, ht]; rfl, haway⟩

theorem vacates_thread (s : State) (c h d i : Nat) :
    (s.vacates c h).thread d i = if 256 * d + i = 256 * c + h then {} else s.thread d i := by
  obtain ⟨t, ht, -⟩ := vacates_eq s c h
  rw [ht]
  exact State.setThread_thread ..

theorem vacates_away {d x : Nat} (ha : (s.ctx d x).away = false) : ((s.vacates c h).ctx d x).away = false :=
  (count_eq ..).choose_spec.2 d x |>.trans ha

theorem vacates_mem (s : State) (c h : Nat) : (s.vacates c h).mem = s.mem := by
  obtain ⟨t, ht, -⟩ := vacates_eq s c h
  rw [ht]
  rfl

/-- The thread as it travels: the present part of its read signature is in the part at its home slot (R50). -/
def State.packed (s : State) (c : Nat) (t : Thread) : Thread :=
  { t with sigHome := t.sigHome ||| t.sigHere, sigHere := 0, headOk := false, owner := if s.foreign t then t.owner else (s.ctx c t.x).launch }

/-- The thread as it stands in the slot that it takes. -/
def landed (clock : Nat) (t : Thread) : Thread := { t with st := .arriving, leave := .no, cr := 0, acc := 0, elig := clock, wait := .none }

theorem arrive_present {t : Thread} (ha : (s.ctx c t.x).away = false) :
    s.arrive c h t = (s.modCtx c t.x fun k => { k with used := distinct (h :: k.used) }).setThread c h (landed s.dev.clock t) := by
  have haway : ((s.modCtx c t.x fun k => { k with used := distinct (h :: k.used) }).ctx c t.x).away = false := by
    rw [State.modCtx_ctx, if_pos rfl]
    exact ha
  exact if_pos (.inl (by rw [State.setThread_ctx_of, haway]; rfl))

section
variable {d : Nat} {t : Thread} (ht : s.thread c h = t) (hq : (s.core c).vwait = [])
include ht

theorem moveThread_full (hp : (s.ctx d t.x).placed = true) (hi : s.arrivalSlot d t = none) : s.moveThread c h s.dev.devno d = s := by
  subst ht
  simp only [State.moveThread, if_true, hp, hi, Bool.not_true, Bool.false_eq_true, if_false]

include hq

theorem vacates_grantAll : ((s.count c t.x h 21 1).setThread c h {}).grantAll c = s.vacates c h := by
  subst ht
  obtain ⟨k, hk, -⟩ := vacates_eq s c h
  exact grantAll_empty (s := s.vacates c h) (by rw [hk]; exact hq)

theorem moveThread_here {i : Nat} (hp : (s.ctx d t.x).placed = true) (hi : s.arrivalSlot d t = some i) :
    s.moveThread c h s.dev.devno d = (s.vacates c h).arrive d i (s.packed c t) := by
  rw [← vacates_grantAll ht hq]
  subst ht
  simp only [State.moveThread, if_true, hp, hi, Bool.not_true, Bool.false_eq_true, if_false]
  rfl

/-- Towards another device the context goes in one packet, and the device keeps the thread's record (R37, R50, R115). -/
theorem moveThread_away {e : Nat} (he : e ≠ s.dev.devno) (hr : s.reach e = true) (hf : s.foreign t = false) :
    ∃ (q : Sched) (v : Dev) (p : Packet), s.moveThread c h e d = { s.vacates c h with sched := q, dev := v } ∧
      q.abroad = s.sched.abroad ++ [(thidOf t, s.packed c t)] ∧ (p ∈ q.fabric ∨ p ∈ q.heldBack) ∧
      p.dst = e ∧ p.cls = 0 ∧ p.ty = 14 ∧ p.body = s.threadBody c (s.packed c t) := by
  have hv := vacates_grantAll ht hq
  subst ht
  obtain ⟨q, v, p, hsend, -, habroad, -, hp, hpkt⟩ :=
    sendPacket_eq (s.vacates c h) { dst := e, cls := 0, ty := 14, tag := 0, bank := 0, body := s.threadBody c (s.packed c (s.thread c h)) }
  have habroad' : q.abroad = s.sched.abroad := by
    obtain ⟨t, ht, -⟩ := vacates_eq s c h
    rw [habroad, ht]
    rfl
  unfold State.packed at hsend
  simp only [State.moveThread, if_neg he, hr, Bool.not_true, Bool.false_eq_true, if_false, hv]
  rw [if_neg (α := State) (Bool.eq_false_iff.mp hf), hsend, ← habroad']
  have hfields : p.dst = e ∧ p.cls = 0 ∧ p.ty = 14 ∧ p.body = s.threadBody c (s.packed c (s.thread c h)) := by
    rw [hpkt]
    exact ⟨rfl, rfl, rfl, rfl⟩
  split
  · split <;> exact ⟨_, v, p, rfl, rfl, hp, hfields⟩
  · exact ⟨_, v, p, rfl, rfl, hp, hfields⟩

end

/-! ### The windows of a thread that leaves (R37, R349; log 161) -/

/-- The place of the one resident window of a thread in its bivouac area. -/
theorem leavePlaces_single {t : Thread} {w : Window} (hw : t.win = [w]) (hd : 1 ≤ t.depth) (hoc : t.oc = 0)
    (hroom : s.bivB t + 64 * (t.sc + 1) ≤ t.sp.toNat) : s.leavePlaces c t = [(t.depth, s.bivB t + 64 * t.sc, 1, w)] := by
  have hplace (n : Nat) : s.leavePlace c t n t.sc t.oc = (s.bivB t + 64 * t.sc, 1, t.sc + 1, t.oc) := if_pos ⟨hoc, hroom⟩
  simp only [State.leavePlaces, hw, List.reverse_singleton, List.foldl_cons, List.foldl_nil, List.length_nil, List.length_singleton, List.nil_append,
    hplace, Nat.add_zero, Nat.sub_add_cancel hd]

theorem storeKey_scratchpad {t : Thread} {a n : Nat} (hsp : (spOf a).isSome = true) : s.storeKey c t a n = .ok (some a) := by
  unfold State.storeKey
  rw [if_pos (.inl hsp)]

/-- The bytes of window `n` of thread `h` stand at key `a`, the thread's place for it. -/
def State.windowStored (s : State) (c h n a : Nat) (b : List Byte) : State :=
  (s.put a b).modThread c h fun t => { t with win := [], winAt := t.winAt ++ [(n, a)] }

section
variable (s : State) (c h n a : Nat) (b : List Byte)

theorem windowStored_mem : (s.windowStored c h n a b).mem = memPuts a b s.mem := rfl
theorem windowStored_ops (d i : Nat) : (s.windowStored c h n a b).opsOf d i = s.opsOf d i := rfl
theorem windowStored_dev : (s.windowStored c h n a b).dev = s.dev := rfl
theorem windowStored_arg : (s.windowStored c h n a b).arg = s.arg := rfl
theorem windowStored_thread : (s.windowStored c h n a b).thread c h = { s.thread c h with win := [], winAt := (s.thread c h).winAt ++ [(n, a)] } :=
  modThread_same ..
theorem windowStored_othersStand : othersStand s (s.windowStored c h n a b) c h :=
  othersStand_modThread s (put_thread s _ _) c h _

end

/-- One window leaves for a place in a scratchpad. -/
theorem spillAll_single {a n kind : Nat} {w : Window} (hp : s.leavePlaces c (s.thread c h) = [(n, a, kind, w)]) (hsp : (spOf a).isSome = true)
    (hf : s.foreign (s.thread c h) = false) : s.spillAll c h = s.windowStored c h n a (windowBytes w) := by
  simp only [State.spillAll, hp, List.foldl_cons, List.foldl_nil, storeKey_scratchpad hsp, putWindow_home hf, List.map_cons, List.map_nil]
  rfl

/-! ### The steps by which a thread goes (R37, R50, R105, R249, R336) -/

/-- A thread without windows on the core goes; towards another device what its free task has buffered lands first. -/
def State.goesTo (s : State) (c h dev core : Nat) : State :=
  if dev = s.dev.devno ∨ (s.thread c h).buf.isEmpty then s.moveThread c h dev core
  else if (s.serialWait c h).isSome then s
  else (s.serialise c h).moveThread c h dev core

section
variable {t : Thread} (ht : s.thread c h = t) (hops : s.opsOf c h = []) (hsig : t.timed = false ∨ t.sigHere = 0 ∨ s.foreign t = false) (e d : Nat)
include ht hops hsig

theorem migrate_windowless (hw : t.win = []) : s.migrate c h e d = s.goesTo c h e d := by
  subst ht
  have hmerge : ¬ (s.foreign (s.thread c h) = true ∧ (s.thread c h).timed = true ∧ (s.thread c h).sigHere ≠ 0) := by
    rintro ⟨hf, htimed, hsig'⟩
    rw [hf, htimed] at hsig
    simp only [Bool.true_eq_false, false_or, or_false] at hsig
    exact hsig' hsig
  simp only [State.migrate, hops, hw, List.isEmpty_nil, Bool.not_true, Bool.false_eq_true, if_false, List.length_nil, Nat.not_lt_zero, if_true,
    if_neg hmerge]
  rfl

end

/-- A thread with one window on the core goes as it does once the window stands in its place. -/
theorem migrate_spilled {a n kind : Nat} {w : Window} (e d : Nat) (hops : s.opsOf c h = []) (hf : s.foreign (s.thread c h) = false)
    (hw : (s.thread c h).win = [w]) (hp : s.leavePlaces c (s.thread c h) = [(n, a, kind, w)]) (hsp : (spOf a).isSome = true) :
    s.migrate c h e d = (s.windowStored c h n a (windowBytes w)).migrate c h e d := by
  have hspill := spillAll_single hp hsp hf
  generalize windowBytes w = b at hspill ⊢
  have hf' : (s.windowStored c h n a b).foreign (s.thread c h) = false := hf
  have hsig : (s.windowStored c h n a b).foreign ((s.windowStored c h n a b).thread c h) = false := by rw [windowStored_thread]; exact hf
  rw [migrate_windowless rfl (hops := (windowStored_ops ..).trans hops) (.inr (.inr hsig)) e d (by rw [windowStored_thread])]
  simp only [State.migrate, State.goesTo, hops, hw, hf', hspill, windowStored_ops, windowStored_dev, windowStored_thread, List.isEmpty_nil,
    List.isEmpty_cons, List.length_singleton, Bool.not_true, Bool.false_eq_true, Nat.reduceLT, false_and, if_false]

theorem exec_migrationArrival_leaving {e d : Nat} (hst : (its s).st = .leaving) (hl : (its s).leave = .migrate e d) :
    exec .migrationArrival s = .next (s.migrate s.arg.c s.arg.h e d) := by
  unfold its at *
  change execMigrationArrival s = _
  simp only [execMigrationArrival, hst, hl]

/-- The step that puts a leaving thread's one window in its place is followed by what the thread would do then. -/
theorem exec_migrationArrival_spilled {a n kind e d : Nat} {w : Window} (hst : (its s).st = .leaving) (hl : (its s).leave = .migrate e d)
    (hops : s.opsOf s.arg.c s.arg.h = []) (hf : s.foreign (its s) = false) (hw : (its s).win = [w])
    (hp : s.leavePlaces s.arg.c (its s) = [(n, a, kind, w)]) (hsp : (spOf a).isSome = true) :
    exec .migrationArrival s = exec .migrationArrival (s.windowStored s.arg.c s.arg.h n a (windowBytes w)) := by
  have hthread := windowStored_thread s s.arg.c s.arg.h n a (windowBytes w)
  rw [exec_migrationArrival_leaving hst hl, migrate_spilled e d hops hf hw hp hsp]
  refine (exec_migrationArrival_leaving (s := s.windowStored s.arg.c s.arg.h n a (windowBytes w)) ?_ ?_).symm
  · rw [its, windowStored_arg, hthread]
    exact hst
  · rw [its, windowStored_arg, hthread]
    exact hl

theorem exec_migrationArrival_arriving (hst : (its s).st = .arriving) :
    exec .migrationArrival s = .next (if (its s).winAt.isEmpty = true ∧ (!(s.core s.arg.c).vwait.any fun p => p.1 == s.arg.h) = true
      then s.modThread s.arg.c s.arg.h (readyTh s.dev.clock) else s) := by
  unfold its at *
  change execMigrationArrival s = _
  simp only [execMigrationArrival, hst]

end

theorem threadBody_drop (s : State) (c : Nat) (t : Thread) : (s.threadBody c t).drop 48 = contextBytes t :=
  List.drop_left' (by simp only [List.length_append, toBytes_length])

/-- Retirement, migration and arrival leave the slots as R19, R20, R37 and R249 say. -/
theorem threadMoves : ThreadMoves := by
  unfold ThreadMoves
  intro s c h t
  refine ⟨fun hst hl hcmds hops hmem hq hhome hj ⟨e, he, hid, hopen⟩ => ?_, fun o _ ho hc hh hk => exec_threadRetirement_busy ho hc hh hk,
    fun hst hops hsig hw hq => ⟨fun d i hl hp ha hi hne => ?_, fun d hl hp hi => ?_, fun e d hl he hr hb hf => ?_⟩,
    fun w hst ⟨e, d, hl⟩ hops hw hd hf hoc hroom hsp => ?_, fun hst hw hq => ?_, fun hst hw => ?_⟩
  · refine ⟨_, exec_threadRetirement hst hl hcmds hops hmem hq hhome hj he hid hopen, ?_, fun d i hne => ?_, rfl, ?_⟩
    · rw [State.modHctx_thread_of, retires_thread, if_pos rfl]
    · rw [State.modHctx_thread_of, retires_thread, if_neg hne]
    · rw [State.modHctx_hctx, if_pos rfl]
      rfl
  · have hexec := exec_migrationArrival_leaving hst hl
    rw [migrate_windowless rfl hops hsig _ _ hw, State.goesTo, if_pos (.inl rfl), moveThread_here rfl hq hp hi] at hexec
    have hland := arrive_present (h := i) (t := s.packed c t) (vacates_away (c := c) (h := h) ha)
    refine ⟨_, hexec.trans (congrArg Host.Outcome.next hland), ?_, vacates_mem .., fun e j hne hne' => ?_, ?_⟩
    · rw [State.setThread_thread, if_neg (Ne.symm hne), State.modCtx_thread_of, vacates_thread, if_pos rfl]
    · rw [State.setThread_thread, if_neg hne', State.modCtx_thread_of, vacates_thread, if_neg hne]
    · rw [State.setThread_thread, if_pos rfl]
      exact ⟨rfl, rfl, rfl, rfl, rfl, rfl, rfl, rfl, rfl, rfl, rfl, rfl, rfl, rfl⟩
  · have hexec := exec_migrationArrival_leaving hst hl
    rw [migrate_windowless rfl hops hsig _ _ hw, State.goesTo, if_pos (.inl rfl), moveThread_full rfl hp hi] at hexec
    exact hexec
  · have hexec := exec_migrationArrival_leaving hst hl
    obtain ⟨q, v, p, hmove, habroad, hp, hdst, hcls, hty, hbody⟩ := moveThread_away (d := d) rfl hq he hr hf
    rw [migrate_windowless rfl hops hsig _ _ hw, State.goesTo, if_pos (.inr (List.isEmpty_iff.mpr hb)), hmove] at hexec
    refine ⟨_, s.packed c t, p, hexec, ?_, fun d i hne => ?_, vacates_mem .., habroad, rfl, rfl, hp, hdst, hcls, hty, ?_⟩
    · exact (vacates_thread ..).trans (if_pos rfl)
    · exact (vacates_thread ..).trans (if_neg hne)
    · exact (congrArg (List.drop 48) hbody).trans (threadBody_drop ..)
  · exact ⟨_, windowBytes w, exec_migrationArrival_spilled hst hl hops hf hw (leavePlaces_single hw hd hoc hroom) hsp, windowStored_mem ..,
      windowShape_windowBytes w, windowStored_thread .., windowStored_othersStand s _ _ _ _ _⟩
  · rw [exec_migrationArrival_arriving hst, if_pos ⟨List.isEmpty_iff.mpr hw, by rw [hq]; rfl⟩]
    rfl
  · rw [exec_migrationArrival_arriving hst, if_neg (fun hc => hw (List.isEmpty_iff.mp hc.1))]

end Sys2Proof.Machine

/-! # Load registers and rebalancing (R69, R349). -/

namespace Sys2Proof.Machine

open Sys2Proof.Claims

/-! ### The load register holds one byte for each core (R69) -/

theorem sum_bytes_lt (f : Nat → Nat) (hf : ∀ j, f j < 256) (n : Nat) : ((List.range n).map fun j => f j * 2 ^ (8 * j)).sum < 2 ^ (8 * n) := by
  induction n with
  | zero => exact Nat.one_pos
  | succ n ih =>
    have hn := Nat.mul_le_mul_right (2 ^ (8 * n)) (Nat.le_of_lt_succ (hf n))
    have hpow : 2 ^ (8 * (n + 1)) = 256 * 2 ^ (8 * n) := by rw [Nat.mul_succ, Nat.pow_add, Nat.mul_comm]
    simp only [List.range_succ, List.map_append, List.map_cons, List.map_nil, List.sum_append, List.sum_singleton]
    omega

/-- A number written byte by byte reads back byte by byte. -/
theorem bits_sum_bytes (f : Nat → Nat) (hf : ∀ j, f j < 256) {j n : Nat} (hj : j < n) :
    bits ((List.range n).map fun j => f j * 2 ^ (8 * j)).sum (8 * j) 8 = f j := by
  induction n with
  | zero => omega
  | succ n ih =>
    have hpos : 0 < 2 ^ (8 * j) := Nat.two_pow_pos _
    simp only [List.range_succ, List.map_append, List.map_cons, List.map_nil, List.sum_append, List.sum_singleton]
    rcases Nat.lt_succ_iff_lt_or_eq.mp hj with hlt | rfl
    · have hhigh : f n * 2 ^ (8 * n) = 2 ^ (8 * j) * (256 * (f n * 2 ^ (8 * (n - j - 1)))) := by
        have he : 8 * n = 8 * j + (8 + 8 * (n - j - 1)) := by omega
        rw [he, Nat.pow_add, Nat.pow_add]
        ring
      rw [← ih hlt, bits, bits, hhigh, Nat.add_mul_div_left _ _ hpos]
      exact Nat.add_mul_mod_self_left ..
    · rw [bits, Nat.add_mul_div_right _ _ hpos, Nat.div_eq_of_lt (sum_bytes_lt f hf j), Nat.zero_add]
      exact Nat.mod_eq_of_lt (hf j)

theorem loadByte_lt (s : State) (c : Nat) : s.loadByte c < 256 := by
  unfold State.loadByte
  split <;> omega

theorem loadWord_byte (s : State) (k : Nat) {j : Nat} (hj : j < 8) : bits (s.loadWord k).toNat (8 * j) 8 = s.loadByte (coreOf k j) := by
  have hf (j : Nat) := loadByte_lt s (coreOf k j)
  rw [State.loadWord, BitVec.toNat_ofNat, Nat.mod_eq_of_lt (sum_bytes_lt _ hf 8)]
  exact bits_sum_bytes _ hf hj

/-! ### The candidate and the cores that it may go to (R349) -/

/-- The byte of core `d` in the load register of the cluster of core `c`. -/
def State.loadOf (s : State) (c d : Nat) : Nat := bits (s.cluster (clusterOf c)).cairn.toNat (8 * localOf d) 8

/-- Core `d` may take a thread of core `c`: another core of its cluster that holds the same launch and has a slot free. -/
def State.isGoal (s : State) (c d : Nat) : Prop :=
  d ∈ clusterCores (clusterOf c) ∧ d ≠ c ∧ (s.ctx d 0).placed = true ∧ (s.ctx d 0).launch = (s.ctx c 0).launch ∧ (s.freeSlot d 0).isSome = true

/-- The cores that may take a thread, the least loaded first. -/
def State.goals (s : State) (c : Nat) : List Nat :=
  ((clusterCores (clusterOf c)).filter fun d => d != c && (s.ctx d 0).placed && (s.ctx d 0).launch == (s.ctx c 0).launch && (s.freeSlot d 0).isSome).mergeSort
    fun a b => decide (s.loadOf c a < s.loadOf c b ∨ s.loadOf c a = s.loadOf c b ∧ localOf a ≤ localOf b)

/-- The thread of a core that may leave: settled, ready, and the first to have been so. -/
def State.candidate (s : State) (c : Nat) : Option (Nat × Thread) :=
  (((s.threadsOf c).filter fun p => p.2.x == 0 && p.2.st == .ready && s.settled c p.1 && s.migratable c p.1 && p.2.arr.isNone &&
    !(match p.2.kill with | some k => k.now | none => false)).mergeSort fun a b => decide (a.2.rs < b.2.rs ∨ a.2.rs = b.2.rs ∧ a.1 ≤ b.1)).head?

section
variable {s : State} {c d : Nat}

theorem mem_goals : d ∈ s.goals c ↔ s.isGoal c d := by
  simp only [State.goals, List.mem_mergeSort, List.mem_filter, Bool.and_eq_true, bne_iff_ne, beq_iff_eq, State.isGoal, and_assoc]

theorem goals_head_least {r : List Nat} (hg : s.goals c = d :: r) {e : Nat} (he : s.isGoal c e) : s.loadOf c d ≤ s.loadOf c e := by
  have hmem := mem_goals.mpr he
  have hsorted := List.pairwise_mergeSort (le := fun a b => decide (s.loadOf c a < s.loadOf c b ∨ s.loadOf c a = s.loadOf c b ∧ localOf a ≤ localOf b))
    (fun _ _ _ h h' => by simp only [decide_eq_true_eq] at *; omega) (fun _ _ => by simp only [Bool.or_eq_true, decide_eq_true_eq]; omega)
    ((clusterCores (clusterOf c)).filter fun d => d != c && (s.ctx d 0).placed && (s.ctx d 0).launch == (s.ctx c 0).launch && (s.freeSlot d 0).isSome)
  change (s.goals c).Pairwise _ at hsorted
  rw [hg] at hsorted hmem
  rcases List.mem_cons.mp hmem with rfl | hr
  · exact Nat.le_refl _
  · have := List.rel_of_pairwise_cons hsorted hr
    simp only [decide_eq_true_eq] at this
    omega

/-- A thread of a core leaves for another core of this device. -/
def State.sendsTo (s : State) (c h d : Nat) : State := s.modThread c h fun t => { t with st := .leaving, leave := .migrate s.dev.devno d }

/-- A rebalance changes nothing, or sends the candidate to the first goal, which is loaded enough below the core itself. -/
theorem exec_rebalance_cases (s : State) : exec .rebalance s = .next s ∨ ∃ p d r, s.candidate s.arg.c = some p ∧ s.goals s.arg.c = d :: r ∧
    s.loadOf s.arg.c d ≠ 255 ∧ s.loadOf s.arg.c d + 2 ≤ s.loadOf s.arg.c s.arg.c ∧ exec .rebalance s = .next (s.sendsTo s.arg.c p.1 d) := by
  change execRebalance s = _ ∨ ∃ p d r, _ ∧ _ ∧ _ ∧ _ ∧ execRebalance s = _
  unfold execRebalance
  dsimp only
  split
  · exact .inl rfl
  · split
    · next p d r hp hg =>
      split
      · exact .inl rfl
      · next hload =>
        rw [not_or, Nat.not_lt] at hload
        exact .inr ⟨p, d, r, hp, hg, hload.1, hload.2, rfl⟩
    · exact .inl rfl

theorem exec_rebalance_sends {p : Nat × Thread} {r : List Nat} (hplaced : (s.ctx s.arg.c 0).placed = true) (haway : (s.ctx s.arg.c 0).away = false)
    (hcaps : bit (s.ctx s.arg.c 0).caps.toNat 3 = true) (hp : s.candidate s.arg.c = some p) (hg : s.goals s.arg.c = d :: r)
    (h255 : s.loadOf s.arg.c d ≠ 255) (hload : s.loadOf s.arg.c d + 2 ≤ s.loadOf s.arg.c s.arg.c) :
    exec .rebalance s = .next (s.sendsTo s.arg.c p.1 d) := by
  change (if (!(s.ctx s.arg.c 0).placed || (s.ctx s.arg.c 0).away || !bit (s.ctx s.arg.c 0).caps.toNat 3) = true then Host.Outcome.next s
    else match s.candidate s.arg.c, s.goals s.arg.c with
      | some p, d :: _ => if s.loadOf s.arg.c d = 255 ∨ s.loadOf s.arg.c s.arg.c < s.loadOf s.arg.c d + 2 then .next s else .next (s.sendsTo s.arg.c p.1 d)
      | _, _ => .next s) = _
  rw [hplaced, haway, hcaps, hp, hg]
  exact if_neg (not_or.mpr ⟨h255, Nat.not_lt.mpr hload⟩)

theorem candidate_only {h : Nat} {t : Thread} (hl : s.threadsOf c = [(h, t)]) (hx : t.x = 0) (hst : t.st = .ready) (hset : s.settled c h = true)
    (hmig : s.migratable c h = true) (harr : t.arr = none) (hkill : t.kill = none) : s.candidate c = some (h, t) := by
  simp [State.candidate, hl, hx, hst, hset, hmig, harr, hkill]

end

/-- Load registers and rebalancing are as R69 and R349 say. -/
theorem loadBalance : LoadBalance := by
  unfold LoadBalance
  refine fun s => ⟨⟨_, rfl, fun j hj => ?_, rfl, rfl⟩, ?_, fun h t d hplaced haway hcaps hl hx hst hset hmig harr hkill hgoal h255 hload => ?_⟩
  · change bits ((s.modCluster s.arg.n fun k => { k with cairn := s.loadWord s.arg.n }).cluster s.arg.n).cairn.toNat (8 * j) 8 = _
    rw [State.modCluster_cluster, if_pos rfl, loadWord_byte s s.arg.n hj]
  · rcases exec_rebalance_cases s with hexec | ⟨p, d, r, hp, hg, h255, hload, hexec⟩
    · exact ⟨s, hexec, rfl, .inl rfl⟩
    · have hd : s.isGoal s.arg.c d := mem_goals.mp (hg ▸ List.mem_cons_self)
      exact ⟨_, hexec, rfl, .inr ⟨p.1, d, hd, h255, hload, fun e he => goals_head_least hg he, rfl⟩⟩
  · obtain ⟨e, r, hg⟩ := List.exists_cons_of_ne_nil (List.ne_nil_of_mem (mem_goals.mpr ((hgoal d).mpr rfl)))
    have he : s.isGoal s.arg.c e := mem_goals.mp (hg ▸ List.mem_cons_self)
    obtain rfl := (hgoal e).mp he
    exact exec_rebalance_sends hplaced haway hcaps (candidate_only hl hx hst hset hmig harr hkill) hg h255 hload

end Sys2Proof.Machine

/-! # A team rolls back, or ends (R412, R418 to R420). -/

namespace Sys2Proof.Machine

open Sys2Proof.Claims

/-! ### What happens to one thread alone -/

/-- Of what R418 speaks of, only thread `h` of core `c` changes: memory, contexts, the device and the subscriber regions stand, and a thread
without operations still has none. -/
structure State.Alone (s u : State) (c h : Nat) : Prop where
  mem : u.mem = s.mem
  ctxs : u.ctxs = s.ctxs
  dev : u.dev = s.dev
  sub : ∀ d, (u.core d).sub = (s.core d).sub
  ops : s.opsOf c h = [] → u.opsOf c h = []
  others : othersStand s u c h

section
variable {s t u : State} {c h : Nat}

theorem State.Alone.trans (hst : s.Alone t c h) (htu : t.Alone u c h) : s.Alone u c h where
  mem := htu.mem.trans hst.mem
  ctxs := htu.ctxs.trans hst.ctxs
  dev := htu.dev.trans hst.dev
  sub d := (htu.sub d).trans (hst.sub d)
  ops := htu.ops ∘ hst.ops
  others d i hne := (htu.others d i hne).trans (hst.others d i hne)

theorem alone_modThread (s : State) (c h : Nat) (f : Thread → Thread) : s.Alone (s.modThread c h f) c h :=
  ⟨rfl, rfl, rfl, fun _ => rfl, id, othersStand_modThread s (fun _ _ => rfl) c h f⟩

theorem freeCmd_foldl_sub (l : List Cmd) (k : Core) : (l.foldl Core.freeCmd k).sub = k.sub := by
  induction l generalizing k with
  | nil => rfl
  | cons m l ih => exact ih _

theorem alone_cancelCmds (s : State) (c h : Nat) : s.Alone (s.cancelCmds c h) c h where
  mem := rfl
  ctxs := rfl
  dev := rfl
  sub d := by
    unfold State.cancelCmds
    dsimp only
    rw [State.modCore_core]
    split
    · next hd => subst hd; exact freeCmd_foldl_sub ..
    · rfl
  ops := id
  others d i hne := (State.setThread_thread ..).trans (if_neg hne)

/-- A thread whose commands are cancelled keeps all but promises (R116). -/
theorem cancelCmds_thread (s : State) (c h : Nat) : ∃ l, (s.cancelCmds c h).thread c h = { s.thread c h with promises := l } :=
  ⟨_, (State.setThread_thread ..).trans (if_pos rfl)⟩

theorem withdrawArrival_none (ha : (s.thread c h).arriving = false) : s.withdrawArrival c h = s := by
  simp [State.withdrawArrival, ha]

theorem alone_orphanOps (s : State) (c h : Nat) : s.Alone (s.orphanOps c h) c h where
  mem := rfl
  ctxs := rfl
  dev := rfl
  sub _ := rfl
  ops hops := by
    simp only [State.opsOf, List.filter_eq_nil_iff] at hops ⊢
    intro o ho
    simp only [State.orphanOps, List.mem_map, List.mem_filter] at ho
    obtain ⟨p, ⟨hp, -⟩, rfl⟩ := ho
    have hnot := hops p hp
    rwa [if_neg (by simpa using hnot)]
  others _ _ _ := rfl

theorem orphanOps_thread (s : State) (c h d i : Nat) : (s.orphanOps c h).thread d i = s.thread d i := rfl

/-! ### A task opens, a restart ends (R34, R236) -/

/-- The thread whose implicit task opens at its PC. -/
def opened (k : Ctx) (t : Thread) : Thread :=
  { t with task := true, begun := false, opening := false, serial := decide (k.ver < 3), tseq := (t.tseq + 1) % 65536, tq := k.tq, buf := []
           snap := snapAt t t.pc, sigHome := 0, sigHere := 0, sigAway := false, headOk := false, timed := false, inst := none }

theorem openNext_here (hd : (s.ctx c (s.thread c h).x).drain = false) (hf : s.foreign (s.thread c h) = false) :
    s.openNext c h = s.modThread c h (opened (s.ctx c (s.thread c h).x)) :=
  (if_neg (Bool.eq_false_iff.mp hd)).trans (if_neg (Bool.eq_false_iff.mp hf))

/-- A restart that waits for nothing ends: every result entry is a valid zero (R34). -/
theorem finishRestart_done (hr : (s.thread c h).restart = true) (hops : s.opsOf c h = []) (hw : (s.thread c h).winAt = [])
    (hk : (s.thread c h).killing = false) : s.finishRestart c h = s.modThread c h fun t => { t with t := [], lost := [], restart := false } := by
  have hmay : s.mayRestart c h = true := by simp [State.mayRestart, hops, hw]
  have hk' : ((s.modThread c h fun t => { t with t := [], lost := [], restart := false }).thread c h).killing = false := by
    rw [modThread_same]
    exact hk
  simp only [State.finishRestart, hr, hmay, Bool.and_self, if_true, State.toHandler, hk']

/-! ### A member goes back (R418) -/

/-- The registers that a member goes back to: those of its snapshot and the windows of its last release, to start anew. -/
def rolled (s : State) (z : Snap) (t : Thread) : Thread :=
  parkTh 0 s.dev.clock
    { s.restored { t with snap := z } with arr := none, win := t.relWin, winAt := [], restart := true, timed := false, inst := none, serial := false }

/-- What a member is once it is back. -/
def backAt (z : Snap) (old new : Thread) : Prop :=
  new.pc = z.pc ∧ new.k = z.k ∧ new.sp = z.sp ∧ new.pred = z.pred ∧ new.depth = z.depth ∧ new.win = old.relWin ∧ new.t = [] ∧ new.buf = [] ∧
    new.timed = false ∧ new.task = true ∧ new.restart = false ∧ new.wait = .none

/-- A member that the release has reached is wounded as by an abort, takes its registers back and starts anew. -/
theorem rollThread_eq {z : Snap} (hst : (s.thread c h).st = .parked) (hw : (s.thread c h).wait = .stuck)
    (huid : (s.thread c h).uid ≤ (s.ctx c (s.thread c h).x).relAt) (hz : (s.thread c h).relSnap = some z) :
    s.rollThread c h = ((((((s.cancelCmds c h).withdrawArrival c h).orphanOps c h).modThread c h
      (rolled (((s.cancelCmds c h).withdrawArrival c h).orphanOps c h) z)).openNext c h).finishRestart c h) := by
  have hgone : ¬ ((s.thread c h).st = .empty ∨ (s.thread c h).st = .leaving ∧ ((s.thread c h).leave = .exit ∨ (s.thread c h).leave = .fatal)) := by
    simp [hst]
  unfold State.rollThread
  dsimp only
  rw [if_neg hgone, if_neg (Nat.not_lt.mpr huid), hw, hz]
  exact if_neg (fun hc => Bool.false_ne_true hc.1)

/-- A member with nothing at large, at home and in a context that does not drain has started anew. -/
theorem rolled_starts (z : Snap) (hd : (s.ctx c (s.thread c h).x).drain = false) (hf : s.foreign (s.thread c h) = false) (hops : s.opsOf c h = [])
    (hk : (s.thread c h).killing = false) : ((s.modThread c h (rolled s z)).openNext c h).finishRestart c h =
      ((s.modThread c h (rolled s z)).modThread c h (opened (s.ctx c (s.thread c h).x))).modThread c h fun t =>
        { t with t := [], lost := [], restart := false } := by
  have hthread := modThread_same s c h (rolled s z)
  have hx : (rolled s z (s.thread c h)).x = (s.thread c h).x := rfl
  have hopen := openNext_here (s := s.modThread c h (rolled s z)) (c := c) (h := h) (by rw [hthread, hx]; exact hd) (by rw [hthread]; exact hf)
  rw [hthread, hx] at hopen
  have hnow : ((s.modThread c h (rolled s z)).openNext c h).thread c h = opened (s.ctx c (s.thread c h).x) (rolled s z (s.thread c h)) := by
    rw [hopen, modThread_same, hthread]
    rfl
  rw [finishRestart_done (by rw [hnow]; rfl) (by rw [hopen]; exact hops) (by rw [hnow]; rfl) (by rw [hnow]; exact hk), hopen]
  rfl

theorem rollThread_back {z : Snap} (hst : (s.thread c h).st = .parked) (hw : (s.thread c h).wait = .stuck)
    (huid : (s.thread c h).uid ≤ (s.ctx c (s.thread c h).x).relAt) (hz : (s.thread c h).relSnap = some z) (ha : (s.thread c h).arriving = false)
    (hk : (s.thread c h).killing = false) (hhome : (s.thread c h).hdev = s.dev.devno) (hd : (s.ctx c (s.thread c h).x).drain = false)
    (hops : s.opsOf c h = []) : s.Alone (s.rollThread c h) c h ∧ backAt z (s.thread c h) ((s.rollThread c h).thread c h) := by
  obtain ⟨l, hl⟩ := cancelCmds_thread s c h
  have hwith : (s.cancelCmds c h).withdrawArrival c h = s.cancelCmds c h := withdrawArrival_none (by rw [hl]; exact ha)
  have halone := (alone_cancelCmds s c h).trans (alone_orphanOps (s.cancelCmds c h) c h)
  have hthread := (orphanOps_thread (s.cancelCmds c h) c h c h).trans hl
  rw [rollThread_eq hst hw huid hz, hwith]
  generalize (s.cancelCmds c h).orphanOps c h = v at halone hthread ⊢
  have hctx : v.ctx c (v.thread c h).x = s.ctx c (s.thread c h).x := by rw [hthread, State.ctx, halone.ctxs]; rfl
  rw [rolled_starts z (hctx ▸ hd) (by rw [State.foreign, hthread, halone.dev, hhome]; exact bne_self_eq_false _) (halone.ops hops) (by rw [hthread]; exact hk)]
  refine ⟨((halone.trans (alone_modThread ..)).trans (alone_modThread ..)).trans (alone_modThread ..), ?_⟩
  rw [modThread_same, modThread_same, modThread_same, hthread]
  exact ⟨rfl, rfl, rfl, rfl, rfl, rfl, rfl, rfl, rfl, rfl, rfl, rfl⟩

/-! ### The step of a roll-back, and the end of a team (R418, R420) -/

theorem rollRegions_none {x : Nat} (hk : (s.ctx c x).ckpt = []) : s.rollRegions c x = s := by
  simp only [State.rollRegions, hk, List.zip_nil_left, List.foldl_nil]

theorem refreshSubs_none (x : Nat) (hk : (s.core c).sub = []) : s.refreshSubs c x = s := by
  simp only [State.refreshSubs, hk, List.filter_nil, List.foldl_nil]

/-- Context `x` of core `c` has rolled back once more, and its barriers hold nothing; `l` is what still flies. -/
def State.replayed (s : State) (c x : Nat) (l : List (Nat × Flight)) : State :=
  { s with flights := l }.modCtx c x fun k => { k with barSent := [], barIn := [], barSeq := [], replays := k.replays + 1 }

theorem replayed_ctx (s : State) (c x : Nat) (l : List (Nat × Flight)) :
    (s.replayed c x l).ctx c x = { s.ctx c x with barSent := [], barIn := [], barSeq := [], replays := (s.ctx c x).replays + 1 } :=
  (State.modCtx_ctx ..).trans (if_pos rfl)

theorem exec_teamRollback_back {t : Thread} (hp : (s.ctx s.arg.c s.arg.x).placed = true) (hteam : s.team s.arg.c s.arg.x = [s.arg.c])
    (hmem : s.ctxThreads s.arg.c s.arg.x = [(s.arg.h, t)]) (hckpt : (s.ctx s.arg.c s.arg.x).ckpt = []) (hsub : (s.core s.arg.c).sub = [])
    (hfl : s.flights = []) (hm : s.arg.m ≠ 1) (hok : s.arg.ok = false) (hw : (its s).wait = .stuck)
    (hroll : s.Alone (s.rollThread s.arg.c s.arg.h) s.arg.c s.arg.h) :
    ∃ l, exec .teamRollback s = .next ((s.rollThread s.arg.c s.arg.h).replayed s.arg.c s.arg.x l) := by
  have hctx : (s.rollThread s.arg.c s.arg.h).ctx s.arg.c s.arg.x = s.ctx s.arg.c s.arg.x := by rw [State.ctx, hroll.ctxs]; rfl
  have hregions (l) : ((s.rollThread s.arg.c s.arg.h).replayed s.arg.c s.arg.x l).rollRegions s.arg.c s.arg.x = _ :=
    rollRegions_none (by rw [replayed_ctx, hctx]; exact hckpt)
  have hsubs (l) : ((s.rollThread s.arg.c s.arg.h).replayed s.arg.c s.arg.x l).refreshSubs s.arg.c s.arg.x = _ :=
    refreshSubs_none s.arg.x ((hroll.sub s.arg.c).trans hsub)
  unfold its at hw
  change ∃ l, execTeamRollback s = _
  unfold execTeamRollback
  simp only [hp, hteam, hmem, hfl, hm, hok, hw, Bool.not_true, Bool.false_eq_true, ne_eq, not_true_eq_false, if_false, List.any_nil, List.foldl_cons,
    List.foldl_nil]
  exact ⟨_, congrArg Host.Outcome.next ((congrArg (State.refreshSubs · _ _) (hregions _)).trans (hsubs _))⟩

theorem exec_teamRollback_end {t : Thread} (hp : (s.ctx s.arg.c s.arg.x).placed = true) (hteam : s.team s.arg.c s.arg.x = [s.arg.c])
    (hmem : s.ctxThreads s.arg.c s.arg.x = [(s.arg.h, t)]) (hm : s.arg.m = 1) (hst : t.st = .parked) :
    exec .teamRollback s = .next (s.fatal s.arg.c s.arg.h ⟨0x30, s.arg.v, t.pc, false, false, 0, 0⟩ 1 (s.ctx s.arg.c s.arg.x).replays) := by
  change execTeamRollback s = _
  unfold execTeamRollback
  simp only [hp, hteam, hmem, hm, hst, Bool.not_true, Bool.false_eq_true, if_false, if_true, List.foldl_cons, List.foldl_nil, reduceCtorEq, false_and]

/-! ### The fault record of a thread that ends (R412, R413) -/

/-- A record of the device fault log changes no lease. -/
theorem flog_eq (s : State) (code cls c l : Nat) (v : Word) : ∃ q : Sched, s.flog code cls c l v = { s with sched := q } ∧ q.lease = s.sched.lease := by
  unfold State.flog
  dsimp only
  split
  · exact ⟨_, rfl, rfl⟩
  · refine ⟨_, rfl, ?_⟩
    dsimp only
    split <;> rfl

/-- A fault record: bytes in the ring, one record more in the ring of the lease, and a record of the device fault log; `k` and `b` are the place and the bytes. -/
theorem faultRecord_eq (s : State) (c h : Nat) (z : Cause) (cls n : Nat) : ∃ (k : Nat) (b : List Byte), s.faultRecord c h z cls n =
    ((s.put k b).modLease (s.ctx c (s.thread c h).x).l fun e => { e with fcnt := e.fcnt + 1 }).flog z.code cls c (s.ctx c (s.thread c h).x).l z.tval :=
  ⟨_, _, rfl⟩

theorem faultRecord_fcnt (s : State) (c h : Nat) (z : Cause) (cls n : Nat) :
    ((s.faultRecord c h z cls n).lease (s.ctx c (s.thread c h).x).l).fcnt = (s.lease (s.ctx c (s.thread c h).x).l).fcnt + 1 := by
  obtain ⟨k, b, hrec⟩ := faultRecord_eq s c h z cls n
  obtain ⟨q, hq, hlease⟩ := flog_eq ((s.put k b).modLease (s.ctx c (s.thread c h).x).l fun e => { e with fcnt := e.fcnt + 1 }) z.code cls c
    (s.ctx c (s.thread c h).x).l z.tval
  rw [hrec, hq, State.lease, hlease]
  exact congrArg Lease.fcnt ((State.modLease_lease ..).trans (if_pos rfl))

theorem sendPacket_lease (s : State) (p : Packet) (m : Nat) : (s.sendPacket p).lease m = s.lease m := by
  obtain ⟨q, d, r, h, hlease, -⟩ := sendPacket_eq s p
  rw [h, State.lease, State.lease, ← hlease]

theorem leaveInstance_lease (s : State) (t : Thread) (b : Bool) (m : Nat) : (s.leaveInstance t b).lease m = s.lease m := by
  unfold State.leaveInstance
  split
  · split
    · exact sendPacket_lease ..
    · split <;> rfl
  · rfl

theorem foldl_lease {α : Type} {f : State → α → State} {m : Nat} (hf : ∀ s a, (f s a).lease m = s.lease m) (l : List α) (s : State) :
    (l.foldl f s).lease m = s.lease m := by
  induction l generalizing s with
  | nil => rfl
  | cons a l ih => exact (ih _).trans (hf s a)

theorem dropOp_lease (s : State) (o : Op) (m : Nat) : (s.dropOp o).lease m = s.lease m := by
  unfold State.dropOp
  dsimp only
  split <;> rfl

theorem giveValue_lease (s : State) (o : Op) (v : Word) (m : Nat) : (s.giveValue o v).lease m = s.lease m := by
  unfold State.giveValue
  split
  case h_5 => split <;> rfl
  all_goals rfl

theorem withdrawArrival_lease (s : State) (c h m : Nat) : (s.withdrawArrival c h).lease m = s.lease m := by
  unfold State.withdrawArrival
  dsimp only
  split
  · rfl
  · refine (foldl_lease ?_ _ _).trans ?_
    · exact fun r o => (giveValue_lease ..).trans (dropOp_lease r.drawn.2 o m)
    rw [State.modThread_lease_of, State.modCore_lease_of]
    split
    · split
      · rfl
      · exact sendPacket_lease ..
    · rfl

theorem abandon_lease (s : State) (c h m : Nat) : (s.abandon c h).lease m = s.lease m :=
  (leaveInstance_lease ..).trans (withdrawArrival_lease (s.cancelCmds c h) c h m)

theorem orphanOps_lease (s : State) (c h m : Nat) : (s.orphanOps c h).lease m = s.lease m := rfl

theorem fatal_fcnt (s : State) (c h : Nat) (z : Cause) (cls n : Nat) :
    ((s.fatal c h z cls n).lease (s.ctx c (s.thread c h).x).l).fcnt = (s.lease (s.ctx c (s.thread c h).x).l).fcnt + 1 := by
  rw [← faultRecord_fcnt s c h z cls n, State.fatal]
  generalize s.faultRecord c h z cls n = r
  rw [State.modThread_lease_of, orphanOps_lease, abandon_lease]

end

/-- A team of one member rolls back or ends as R418 and R420 say. -/
theorem teamRollback : TeamRollback := by
  unfold TeamRollback
  intro s z c h x t hp hteam hmem hckpt hsub hfl hops hst hx
  refine ⟨fun hm hok hw huid hz ha hk hhome hd => ?_, fun hm => ?_⟩
  · have hx' : (s.thread c h).x = x := hx
    obtain ⟨halone, hback⟩ := rollThread_back hst hw (hx' ▸ huid) hz ha hk hhome (hx' ▸ hd) hops
    obtain ⟨l, hexec⟩ := exec_teamRollback_back hp hteam hmem hckpt hsub hfl hm hok hw halone
    refine ⟨_, hexec, halone.mem, ?_, halone.others, hback⟩
    rw [replayed_ctx, State.ctx, halone.ctxs]
    rfl
  · have hx' : (s.thread c h).x = x := hx
    refine ⟨_, exec_teamRollback_end hp hteam hmem hm hst, ?_, ?_, hx' ▸ fatal_fcnt s c h _ _ _⟩
    · rw [State.fatal, modThread_same]
    · rw [State.fatal, modThread_same]

/-- Settles O45, part by part. -/
theorem threadPlaces : Obligations.ThreadPlaces :=
  ⟨windowMoves, vectorWindows, threadMoves, loadBalance, teamRollback⟩

end Sys2Proof.Machine

/-! # Two statements that fail: a queue register read while its park is passed (R43, R337), and a thread placed in a context that drains (R236, R365). -/

namespace Sys2Proof.Machine

open Sys2Proof.Claims

/-! ### A park that is passed (R43, R337) -/

/-- Where parks of cause 2 are passed, an empty queue register of the share reads as 0 and the bundle does not park. -/
theorem popQ_empty_passed {s : State} {q : Nat} (hq : shareOk (s.core s.latch.core).share s.cur.x q 6 = true)
    (hl : s.popable (24 + q) (Table.get [] q s.curCtx.q) = []) (hk : s.latch.skip ≠ 0) (h2 : s.latch.skip ≤ 2) : popQ q s = .ok (0, s) := by
  unfold State.curCtx at hl
  simp only [popQ, Ex.get_bind, hq, hl]
  exact park_passed hk h2

theorem src_queue_passed : src 24 (State.reset.passing 1) = .ok (0, State.reset.passing 1) :=
  (readReg_queue (r := 24) (by decide) (by decide)).trans (popQ_empty_passed rfl rfl (by decide) (by decide))

/-- Refutes O5: while the first cause of a park is looked for (R337), as from cause 1 on here, a read of an empty queue register is passed and does not park. -/
theorem not_operandForms : ¬ Obligations.OperandForms := by
  rintro ⟨hsource, -⟩
  obtain ⟨-, -, -, -, -, hpark, -⟩ := hsource (State.reset.passing 1) 24
  have hstop := hpark (by decide) (by decide) rfl nofun nofun
  cases src_queue_passed.symm.trans hstop

/-! ### The parts of a placement (R26, R58, R236, R365) -/

section
variable (s : State) (c x h : Nat) (pc : Word) (ks : List Word) (bpri : Nat) (mx sys xdev : Bool) (vw : Nat)

/-- The thread that a placement puts in its slot, before its implicit task opens. -/
def State.newThread : Thread :=
  let t : Thread := { st := if vwinCount vw = 0 then .ready else .arriving, uid := s.nextOp, x := x, rs := s.dev.clock, since := s.dev.clock, pc := pc
                      k := (List.range 4).map fun i => (i, ks.getD i 0), bpri := bpri, epri := bpri, mx := mx, sys := sys, xdev := xdev
                      fwm := s.isFw c, hdev := s.dev.devno, hcore := c, hslot := h }
  let t := { t with srst := srstWrite ((thidOf t) ^^^ 0x9E3779B9) }
  { t with sp := BitVec.ofNat 64 (s.bivFT t) }

/-- Slot `h` of context `x` on core `c` is taken by thread `t`. -/
def State.takesSlot (t : Thread) : State :=
  { s.setThread c h t with nextOp := s.nextOp + 1 }.modCtx c x fun k => { k with used := distinct (h :: k.used) }

/-- The thread is placed, and its implicit task is open or left to open; its vector window is not asked for yet. -/
def State.placedThread : State :=
  ((s.takesSlot c x h (s.newThread c x h pc ks bpri mx sys xdev vw)).openNext c h).modThread c h fun t => { t with relSnap := some (snapAt t pc) }

theorem placeThread_eq : s.placeThread c x h pc ks bpri mx sys xdev vw =
    if vwinCount vw = 0 then s.placedThread c x h pc ks bpri mx sys xdev vw
    else ((s.placedThread c x h pc ks bpri mx sys xdev vw).modCore c fun k => { k with vwait := k.vwait ++ [(h, vwinCount vw)] }).grantAll c := rfl

theorem placeThread_no_window : s.placeThread c x h pc ks bpri mx sys xdev 0 = s.placedThread c x h pc ks bpri mx sys xdev 0 := rfl

/-- A thread whose implicit task waits to open, as its context drains. -/
def waitsToOpen (t : Thread) : Thread := { t with task := false, timed := false, inst := none, opening := true }

theorem openNext_draining {s : State} {c h : Nat} (hd : (s.ctx c (s.thread c h).x).drain = true) : s.openNext c h = s.modThread c h waitsToOpen :=
  if_pos hd

theorem takesSlot_thread (t : Thread) : (s.takesSlot c x h t).thread c h = t := (State.setThread_thread ..).trans (if_pos rfl)

theorem takesSlot_drain (t : Thread) : ((s.takesSlot c x h t).ctx c x).drain = (s.ctx c x).drain := by
  rw [State.takesSlot, State.modCtx_ctx, if_pos rfl]
  rfl

/-- A thread placed in a context that drains has no open task. -/
theorem placeThread_task_of_drain (hd : (s.ctx c x).drain = true) : ((s.placeThread c x h pc ks bpri mx sys xdev 0).thread c h).task = false := by
  have hopen := openNext_draining (s := s.takesSlot c x h (s.newThread c x h pc ks bpri mx sys xdev 0)) (c := c) (h := h)
    (by rw [takesSlot_thread]; exact (takesSlot_drain ..).trans hd)
  rw [placeThread_no_window, State.placedThread, hopen, modThread_same, modThread_same]
  rfl

end

/-- Core 0 with a placed context that drains. -/
def drainingCore : State := { ctxs := [(0, { placed := true, drain := true })] }

/-- Refutes O25: a thread placed on a core whose context drains has TASK at 0, its implicit task being left to open (R365). -/
theorem not_spawning : ¬ Obligations.Spawning := by
  rintro ⟨-, hplaced⟩
  obtain ⟨-, -, -, -, -, -, -, -, -, -, htask, -⟩ := hplaced drainingCore 0 0 0 0 [] 0 false false false (by decide) (by decide)
  exact Bool.false_ne_true ((placeThread_task_of_drain drainingCore 0 0 0 0 [] 0 false false false rfl).symm.trans htask)

end Sys2Proof.Machine

/-! # Taking an exception (R37, R47, R60, R212, R218, R411). -/

namespace Sys2Proof.Machine

open Sys2Proof.Claims

/-! ### Words out of bytes that were written (R3, R7) -/

/-- Words as bytes, each lowest byte first (R3). -/
def wordBytes (ws : List Word) : List Byte := ws.flatMap fun w => toBytes 8 w.toNat

theorem wordBytes_cons (w : Word) (ws : List Word) : wordBytes (w :: ws) = toBytes 8 w.toNat ++ wordBytes ws := List.flatMap_cons

@[simp] theorem wordBytes_length (ws : List Word) : (wordBytes ws).length = 8 * ws.length := by
  induction ws with
  | nil => rfl
  | cons w ws ih => rw [wordBytes_cons, List.length_append, ih, toBytes_length, List.length_cons]; omega

theorem slice_wordBytes {ws : List Word} {i : Nat} (b : List Byte) (h : i < ws.length) :
    slice (wordBytes ws ++ b) (8 * i) 8 = toBytes 8 (ws.getD i 0).toNat := by
  induction ws generalizing i with
  | nil => cases h
  | cons w ws ih =>
    rw [wordBytes_cons, List.append_assoc]
    cases i with
    | zero => exact slice_toBytes_first ..
    | succ i =>
      rw [slice_toBytes_later (by omega), show 8 * (i + 1) - 8 = 8 * i by omega, ih (Nat.lt_of_succ_lt_succ h)]
      rfl

theorem slice_append_later {a b : List Byte} {i : Nat} (h : a.length ≤ i) (n : Nat) : slice (a ++ b) i n = slice b (i - a.length) n := by
  rw [slice, List.drop_append, List.drop_eq_nil_of_le h, List.nil_append, slice]

theorem memGets_memPuts {m : List Host.Cell} (hm : Memory.wf m = true) (a i n : Nat) (bs : List Byte) (h : i + n ≤ bs.length) :
    memGets (memPuts a bs m) (a + i) n = slice bs i n := by
  induction n generalizing i with
  | zero => exact (List.take_zero ..).symm
  | succ n ih =>
    have hi : i < bs.length := by omega
    rw [memGets, memGet_memPuts a _ bs hm, if_pos ⟨by omega, by omega⟩, Nat.add_sub_cancel_left, Nat.add_assoc, ih (i + 1) (by omega),
      slice, slice, List.drop_eq_getElem_cons hi, List.take_succ_cons, List.getD_eq_getElem _ _ hi]

theorem word_put {s : State} (hs : s.MemOk) (a i n : Nat) (bs : List Byte) (h : i + n ≤ bs.length) :
    (s.put a bs).word (a + i) n = ofBytes (slice bs i n) := congrArg ofBytes (memGets_memPuts hs a i n bs h)

theorem word_congr {s r : State} (h : r.mem = s.mem) (a n : Nat) : r.word a n = s.word a n := by rw [State.word, State.bytes, h]; rfl

theorem byte_congr {s r : State} (h : r.mem = s.mem) (a : Nat) : r.byte a = s.byte a := by rw [State.byte, h]; rfl

/-! ### What a delivery saves (R37, R60, R411) -/

/-- The words of the trap queue save and of the trap window: t0 to t15, k4 to k7, TPC, sp and TVAL. -/
def savedWords (t : Thread) (z : Cause) : List Word :=
  (List.range 16).map (fun i => entVal (t.t.getD i (.val 0))) ++ ((List.range 4).map (fun i => Table.get 0 (4 + i) t.k) ++ [z.pc, t.sp, z.tval])

/-- The last word of the trap window: the predicate word, and TCAUSE in its upper half. -/
def savedCause (t : Thread) (z : Cause) : List Byte := toBytes 2 t.pred.toNat ++ (toBytes 2 0 ++ (toBytes 4 (tcause z) ++ []))

/-- All that a delivery saves. -/
def savedBytes (t : Thread) (z : Cause) : List Byte := wordBytes (savedWords t z) ++ savedCause t z

section
variable (t : Thread) (z : Cause)

theorem savedBytes_eq : savedBytes t z = ((List.range 16).flatMap fun i => toBytes 8 (entVal (t.t.getD i (.val 0))).toNat) ++
    (List.range 4).flatMap (fun i => toBytes 8 (Table.get 0 (4 + i) t.k).toNat) ++ toBytes 8 z.pc.toNat ++
    toBytes 8 t.sp.toNat ++ toBytes 8 z.tval.toNat ++ toBytes 2 t.pred.toNat ++ toBytes 2 0 ++ toBytes 4 (tcause z) := by
  simp only [savedBytes, savedWords, savedCause, wordBytes, List.flatMap_append, List.flatMap_map, List.flatMap_cons, List.flatMap_nil, List.append_assoc,
    List.append_nil]

@[simp] theorem savedWords_length : (savedWords t z).length = 23 := rfl

@[simp] theorem savedBytes_length : (savedBytes t z).length = 192 := by simp [savedBytes, savedCause]

theorem savedWords_queue {i : Nat} (h : i < 16) : (savedWords t z).getD i 0 = entVal (t.t.getD i (.val 0)) := by
  interval_cases i <;> rfl

theorem savedWords_regs {i : Nat} (h : i < 4) : (savedWords t z).getD (16 + i) 0 = Table.get 0 (4 + i) t.k := by
  interval_cases i <;> rfl

/-- What the saved bytes read as, a word at a time. -/
theorem saved_word {i : Nat} (h : i < 23) : ofBytes (slice (savedBytes t z) (8 * i) 8) = ((savedWords t z).getD i 0).toNat := by
  rw [savedBytes, slice_wordBytes _ h, ofBytes_toBytes_word]

theorem saved_pred : ofBytes (slice (savedBytes t z) 184 2) = t.pred.toNat := by
  rw [savedBytes, slice_append_later (by simp), savedCause, wordBytes_length, savedWords_length, slice_toBytes_first, ofBytes_toBytes]
  exact Nat.mod_eq_of_lt t.pred.isLt

theorem saved_cause : ofBytes (slice (savedBytes t z) 188 4) = tcause z % 2 ^ 32 := by
  rw [savedBytes, slice_append_later (by simp), savedCause, wordBytes_length, savedWords_length, slice_toBytes_later (by decide), slice_toBytes_later (by decide),
    slice_toBytes_first, ofBytes_toBytes]
  rfl

end

/-! ### The delivery (R37, R47, R411) -/

section
variable (s : State) (c h : Nat) (z : Cause)

/-- The thread in its handler (R47, R411). -/
def inHandler (clock : Nat) (z : Cause) (t : Thread) : Thread :=
  readyTh clock { t with k := zeroed t.k, intrap := true, trapDepth := t.depth, pc := t.tvec, src := some z.pc, trapDue := none, wait := .none }

/-- The saved words are on their way to the thread's home area. -/
def State.trapSaved : State := s.homePut (s.thread c h) (s.trapWin (s.thread c h) - 128) (savedBytes (s.thread c h) z)

/-- Page faults and alignment faults are counted as they are delivered (R398). -/
def State.trapCounted : State :=
  if z.code = 5 then s.count c (s.thread c h).x h 13 1 else if z.code = 4 then s.count c (s.thread c h).x h 20 1 else s

theorem trapCounted_eq : ∃ t : Table Ctx, s.trapCounted c h z = { s with ctxs := t } := by
  unfold State.trapCounted
  split
  · exact (count_eq ..).imp fun _ ht => ht.1
  · split
    · exact (count_eq ..).imp fun _ ht => ht.1
    · exact ⟨s.ctxs, rfl⟩

@[simp] theorem trapCounted_mem : (s.trapCounted c h z).mem = s.mem := by
  obtain ⟨t, ht⟩ := trapCounted_eq s c h z
  rw [ht]

@[simp] theorem trapCounted_thread (d i : Nat) : (s.trapCounted c h z).thread d i = s.thread d i := by
  obtain ⟨t, ht⟩ := trapCounted_eq s c h z
  rw [ht]
  rfl

@[simp] theorem homePut_thread (t : Thread) (a : Nat) (b : List Byte) (d i : Nat) : (s.homePut t a b).thread d i = s.thread d i := by
  unfold State.homePut
  split
  · exact tell_thread ..
  · rfl

theorem homePut_mem_of_foreign {s : State} {t : Thread} (h : s.foreign t = true) (a : Nat) (b : List Byte) : (s.homePut t a b).mem = s.mem := by
  rw [State.homePut, if_pos h, tell_mem]

theorem homePut_of_home {s : State} {t : Thread} (h : s.foreign t = false) (a : Nat) (b : List Byte) : s.homePut t a b = s.put a b :=
  if_neg (by rw [h]; exact Bool.false_ne_true)

@[simp] theorem trapSaved_thread (d i : Nat) : (s.trapSaved c h z).thread d i = s.thread d i := homePut_thread ..

theorem deliver_eq : ∃ n, s.deliver c h z = ((s.trapSaved c h z).trapCounted c h z).modThread c h (inHandler n z) := by
  refine ⟨((s.trapSaved c h z).trapCounted c h z).dev.clock, ?_⟩
  rw [State.trapSaved, savedBytes_eq, State.trapCounted, homePut_thread]
  rfl

theorem deliver_mem : (s.deliver c h z).mem = (s.trapSaved c h z).mem := by
  obtain ⟨n, hn⟩ := deliver_eq s c h z
  rw [hn]
  exact trapCounted_mem ..

theorem deliver_thread : ∃ n, (s.deliver c h z).thread c h = inHandler n z (s.thread c h) := by
  obtain ⟨n, hn⟩ := deliver_eq s c h z
  rw [hn, modThread_same, trapCounted_thread, trapSaved_thread]
  exact ⟨n, rfl⟩

/-- Where a saved word stands after the delivery. -/
theorem deliver_word {s : State} {c h : Nat} {z : Cause} (hm : s.MemOk) (hf : s.foreign (s.thread c h) = false) {i n : Nat} (hi : i + n ≤ 192) :
    (s.deliver c h z).word (s.trapWin (s.thread c h) - 128 + i) n = ofBytes (slice (savedBytes (s.thread c h) z) i n) := by
  rw [word_congr (deliver_mem ..), State.trapSaved, homePut_of_home hf, word_put hm _ _ _ _ (by rwa [savedBytes_length])]

theorem deliver_byte_outside {s : State} {c h : Nat} {z : Cause} (hm : s.MemOk) (hf : s.foreign (s.thread c h) = false) {a : Nat}
    (ha : a < s.trapWin (s.thread c h) - 128 ∨ s.trapWin (s.thread c h) - 128 + 192 ≤ a) : (s.deliver c h z).byte a = s.byte a := by
  rw [byte_congr (deliver_mem ..), State.trapSaved, homePut_of_home hf, State.put_byte_outside _ hm (by rwa [savedBytes_length])]

/-- A user-recoverable cause with nothing pending and nothing faulted is delivered at once (R47). -/
theorem takeException_delivers {s : State} {c h : Nat} {z : Cause} (hclass : s.classAt c h z = 0) (hpend : hasPending (s.thread c h) = false)
    (hbad : badEntry (s.thread c h) = none) (hbkpt : z.code = 2 → s.dev.xBken = false) : s.takeException c h z = s.deliver c h z := by
  have hpulse : s.pulse z = s := if_neg fun hz => Bool.false_ne_true ((hbkpt hz.1).symm.trans hz.2)
  rw [State.takeException, hpulse, if_neg (by simp [hpend]), State.takeNow, if_pos hclass, hbad]

end

theorem trap_raises {s : State} (hg : s.goesC 0) (c : BitVec 12) :
    exec (.trap c) s = .next (trapped s 0x01 (BitVec.ofNat 64 (c.toNat + 4096 * s.latch.len)) false) := runC_goes_trap hg rfl

theorem bkpt_raises {s : State} (hg : s.goesC 0) (c : BitVec 12) :
    exec (.bkpt c) s = .next (trapped s 0x02 (BitVec.ofNat 64 (c.toNat + 4096 * s.latch.len)) false) := runC_goes_trap hg rfl

theorem exceptionEntered : ExceptionEntered := by
  intro s c h z hm hclass hpend hbad hbkpt t r u w hw
  have hr : r = s.deliver c h z := takeException_delivers hclass hpend hbad hbkpt
  obtain ⟨n, hn⟩ := deliver_thread s c h z
  have hu : u = inHandler n z t := (congrArg (fun v : State => v.thread c h) hr).trans hn
  rw [hu, hr]
  refine ⟨rfl, rfl, rfl, rfl, rfl, rfl, rfl, rfl, rfl, rfl, rfl, rfl, fun hf => (deliver_mem ..).trans (homePut_mem_of_foreign hf ..), fun hf => ?_⟩
  have hat {i n : Nat} (hi : i + n ≤ 192) : (s.deliver c h z).word (w - 128 + i) n = ofBytes (slice (savedBytes t z) i n) := deliver_word hm hf hi
  have hword {i : Nat} (hi : i < 23) : (s.deliver c h z).word (w - 128 + 8 * i) 8 = ((savedWords t z).getD i 0).toNat :=
    (hat (by omega)).trans (saved_word t z hi)
  have hwin {i : Nat} (hi : i < 7) : (s.deliver c h z).word (w + 8 * i) 8 = ((savedWords t z).getD (16 + i) 0).toNat := by
    rw [← hword (by omega), show w - 128 + 8 * (16 + i) = w + 8 * i by omega]
  refine ⟨fun i hi => ?_, hwin (i := 4) (by decide), hwin (i := 5) (by decide), hwin (i := 6) (by decide), ?_, ?_, fun i hi => ?_, fun a ha => ?_⟩
  · rw [hwin (by omega), savedWords_regs t z hi]
  · rw [← saved_pred t z, ← hat (by decide), show w - 128 + 184 = w + 56 by omega]
  · rw [← saved_cause t z, ← hat (by decide), show w - 128 + 188 = w + 60 by omega]
  · rw [hword (by omega), savedWords_queue t z hi]
  · exact deliver_byte_outside hm hf (ha.imp_right fun hup => show w - 128 + 192 ≤ a by omega)

/-- Settles O15: a delivery is one write of 192 bytes, and each saved word is a slice of them. -/
theorem exceptionEntry : Obligations.ExceptionEntry := ⟨fun _ c hg => ⟨trap_raises hg c, bkpt_raises hg c⟩, exceptionEntered⟩

end Sys2Proof.Machine

/-! # Returning from an exception (R37, R47, R216, R411). -/

namespace Sys2Proof.Machine

open Sys2Proof.Claims

theorem parkWith_passed {α : Type} [Inhabited α] {s : State} {n : Nat} (f : State → State) (h : s.latch.skip ≠ 0) (hn : s.latch.skip ≤ n) :
    (parkWith n f : Ex α) s = .ok (default, s) := if_pos ⟨h, hn⟩

/-! ### What another device is asked for (R246, R255, R438) -/

section
variable {s : State} {p d n : Nat} {ws vs : List Word}

theorem askAndWait_got (h : s.cur.wait = .got vs) : askAndWait p d n ws s = .ok (vs, calm s) := by
  simp only [askAndWait, Ex.get_bind, h]
  rfl

theorem askAndWait_asks (h : s.cur.wait = .none) (hr : s.reach d = true) : askAndWait p d n ws s = parkWith p (fun s => asked s d n ws) s := by
  simp only [askAndWait, Ex.get_bind, h, hr]
  rfl

end

/-! ### What `rte` comes to (R31, R37, R216) -/

/-- In a handler at the depth of its delivery, with nothing to come that it would replace (R31, R164, R216). -/
structure State.ReadyToReturn (s : State) : Prop where
  intrap : s.pre.intrap = true
  depth : s.pre.depth = s.pre.trapDepth
  regs : (s.pre.regPend.any fun p => p.1 == 37 || decide (20 ≤ p.1 ∧ p.1 < 24)) = false
  entries : badEntry s.pre = none

/-- What was saved is asked for at the home on another device, and the answer is kept for the end of the bundle (R37). -/
def askSaved (dev : Nat) (ws : List Word) : Ex Unit := do
  match ← askAndWait 6 dev 11 ws with
  | 0 :: v => modCur fun t => { t with wait := .got (0 :: v) }
  | k :: _ => trap k.toNat 0
  | [] => pure ()
  setDefer .rte

theorem State.ReadyToReturn.passing {s : State} (h : s.ReadyToReturn) {p : Nat} : (s.passing p).ReadyToReturn := ⟨h.intrap, h.depth, h.regs, h.entries⟩

section
variable {s : State} {d : Nat} {ws : List Word}

theorem askSaved_got {vs : List Word} (h : s.cur.wait = .got (0 :: vs)) :
    askSaved d ws s = .ok ((), leaving ((calm s).modCur fun t => { t with wait := .got (0 :: vs) }) .rte) := by
  rw [askSaved, Ex.bind_ok (askAndWait_got h)]
  rfl

theorem askSaved_asks (h : s.cur.wait = .none) (hr : s.reach d = true) (hk : s.latch.skip = 0) :
    askSaved d ws s = .error (.wait 6 fun s => asked s d 11 ws) :=
  Ex.bind_error ((askAndWait_asks h hr).trans (parkWith_run _ (.inl hk)))

theorem askSaved_passed (h : s.cur.wait = .none) (hr : s.reach d = true) (hk : s.latch.skip ≠ 0) (h6 : s.latch.skip ≤ 6) :
    askSaved d ws s = .ok ((), leaving s .rte) := by
  rw [askSaved, Ex.bind_ok ((askAndWait_asks h hr).trans (parkWith_passed _ hk h6))]
  rfl

end

theorem rte_runs : ∃ body, (∀ s, exec .rte s = runC 0 body s) ∧ ∀ s : State,
    (s.pre.intrap = false ∨ s.pre.depth ≠ s.pre.trapDepth → body s = trapWord 0x10 s) ∧
    (s.ReadyToReturn → s.foreign s.pre = false → body s = setDefer .rte s) ∧
    (s.ReadyToReturn → s.foreign s.pre = true →
      body s = askSaved s.pre.hdev [BitVec.ofNat 64 (thidOf s.pre), BitVec.ofNat 64 (s.trapWin s.pre - 128), 192] s) := by
  refine ⟨_, fun _ => rfl, fun s => ?_⟩
  simp only [Ex.get_bind]
  refine ⟨fun h => ?_, fun hr hf => ?_, fun hr hf => ?_⟩
  · rw [if_pos (by simpa using h)]
  · rw [if_neg (by simp [hr.intrap, hr.depth]), if_neg (by rw [hr.regs]; exact Bool.false_ne_true), hr.entries]
    simp only [hf]
    rfl
  · rw [if_neg (by simp [hr.intrap, hr.depth]), if_neg (by rw [hr.regs]; exact Bool.false_ne_true), hr.entries]
    simp only [hf, if_true]
    rfl

section
variable {s : State} (hg : s.goesC 0)
include hg

theorem exec_rte_refused (h : s.pre.intrap = false ∨ s.pre.depth ≠ s.pre.trapDepth) : exec .rte s = .next (trapped s 0x10 (s.latch.word.setWidth 64) false) := by
  obtain ⟨body, hexec, hbody⟩ := rte_runs
  rw [hexec]
  exact runC_goes_trap hg ((hbody s).1 h)

variable (hr : s.ReadyToReturn)
include hr

theorem exec_rte_here (hf : s.foreign s.pre = false) : exec .rte s = .next (s.ended (leaving s .rte)) := by
  obtain ⟨body, hexec, hbody⟩ := rte_runs
  rw [hexec]
  exact runC_goes hg ((hbody s).2.1 hr hf)

theorem exec_rte_asks (hf : s.foreign s.pre = true) (hw : s.cur.wait = .none) (hk : s.latch.skip = 0) (hreach : s.reach s.pre.hdev = true) :
    exec .rte s = .next (waiting s (asked s s.pre.hdev 11 [BitVec.ofNat 64 (thidOf s.pre), BitVec.ofNat 64 (s.trapWin s.pre - 128), 192]) 6) := by
  obtain ⟨body, hexec, hbody⟩ := rte_runs
  have hask := ((hbody s).2.2 hr hf).trans (askSaved_asks hw hreach hk)
  have hlater := ((hbody (s.passing 6)).2.2 hr.passing hf).trans (askSaved_passed (s := s.passing 6) hw hreach (Nat.succ_ne_zero 5) le_rfl)
  rw [hexec]
  exact runC_goes_wait hg hask (noneBefore_of_ok hg hlater)

theorem exec_rte_answered {ws : List Word} (hf : s.foreign s.pre = true) (hw : s.cur.wait = .got (0 :: ws)) :
    exec .rte s = .next (s.ended (leaving ((calm s).modCur fun t => { t with wait := .got (0 :: ws) }) .rte)) := by
  obtain ⟨body, hexec, hbody⟩ := rte_runs
  rw [hexec]
  exact runC_goes hg (((hbody s).2.2 hr hf).trans (askSaved_got hw))

end

/-! ### What is restored (R47, R411) -/

section
variable {s : State}

theorem finish_rte (h : s.latch.defer = .rte) : s.finish.cur = s.rteThread s.cur := by
  rw [State.finish, h]
  exact State.setCur_cur ..

theorem trapWords_got {t : Thread} {ws : List Word} (h : t.wait = .got ws) : s.trapWords t = ws.drop 1 := by rw [State.trapWords, h]

theorem trapWords_saved {t : Thread} (h : ∀ ws, t.wait ≠ .got ws) :
    s.trapWords t = (List.range 24).map fun i => BitVec.ofNat 64 (s.word (s.trapWin t - 128 + 8 * i) 8) := by
  unfold State.trapWords
  split
  · next ws hw => exact absurd hw (h ws)
  · rfl

variable {t : Thread} {i : Nat}

theorem rteThread_queue (h : i < 16) : (s.rteThread t).t[i]? = some (.val ((s.trapWords t).getD i 0)) := by
  simp [State.rteThread, h]

theorem rteThread_saved_reg (h : i < 4) : Table.get 0 (4 + i) (s.rteThread t).k = (s.trapWords t).getD (16 + i) 0 := by
  simp only [State.rteThread, List.range, List.range.loop, List.foldl]
  interval_cases i <;> simp [Table.get_set]

theorem rteThread_other_reg (h : i < 4) : Table.get 0 i (s.rteThread t).k = Table.get 0 i t.k := by
  simp only [State.rteThread, List.range, List.range.loop, List.foldl]
  interval_cases i <;> simp [Table.get_set]

/-- The two low bytes of a word are the half word at the same place (R3). -/
theorem word_low_half (s : State) (a : Nat) : (BitVec.ofNat 64 (s.word a 8)).setWidth 16 = BitVec.ofNat 16 (s.word a 2) := by
  apply BitVec.eq_of_toNat_eq
  simp only [BitVec.toNat_setWidth, BitVec.toNat_ofNat, State.word, State.bytes, memGets, ofBytes]
  omega

section
variable (h : ∀ ws, t.wait ≠ .got ws)
include h

theorem saved_queue_word (hi : i < 16) : (s.trapWords t).getD i 0 = BitVec.ofNat 64 (s.word (s.trapWin t - 128 + 8 * i) 8) := by
  rw [trapWords_saved h]
  simp [show i < 24 by omega]

theorem saved_window_word (hi : i < 8) : (s.trapWords t).getD (16 + i) 0 = BitVec.ofNat 64 (s.word (s.trapWin t + 8 * i) 8) := by
  have hat : s.trapWin t - 128 + 8 * (16 + i) = s.trapWin t + 8 * i := by unfold State.trapWin; omega
  rw [trapWords_saved h]
  simp [show 16 + i < 24 by omega, hat]

end

end

theorem rte_executes {s : State} (hg : s.goesC 0) (hr : s.ReadyToReturn) :
    (s.foreign s.pre = false → exec .rte s = .next (s.ended (leaving s .rte))) ∧
    (s.foreign s.pre = true → s.cur.wait = .none → s.latch.skip = 0 → s.reach s.pre.hdev = true →
      exec .rte s = .next (waiting s (asked s s.pre.hdev 11 [BitVec.ofNat 64 (thidOf s.pre), BitVec.ofNat 64 (s.trapWin s.pre - 128), 192]) 6)) ∧
    (∀ ws, s.foreign s.pre = true → s.cur.wait = .got (0 :: ws) →
      exec .rte s = .next (s.ended (leaving ((calm s).modCur fun t => { t with wait := .got (0 :: ws) }) .rte))) :=
  ⟨exec_rte_here hg hr, exec_rte_asks hg hr, fun _ => exec_rte_answered hg hr⟩

/-- Settles O16: `rte` leaves a return for the end of its bundle, where the thread takes back the saved words. -/
theorem exceptionReturn : Obligations.ExceptionReturn := by
  refine ⟨fun s hg h1 h2 h3 h4 => rte_executes hg ⟨h1, h2, h3, h4⟩, fun s hg => exec_rte_refused hg, fun s ws hd hw => ?_, fun s hd hw => ?_⟩
  · rw [finish_rte hd]
    have hws : s.trapWords s.cur = ws := trapWords_got hw
    refine ⟨fun i hi => ?_, ?_, rfl⟩
    · rw [rteThread_queue hi, hws]
    · exact congrArg (·.getD 20 0) hws
  · intro t u w
    have hu : u = s.rteThread t := finish_rte hd
    rw [hu]
    refine ⟨rfl, saved_window_word (i := 4) hw (by decide), saved_window_word (i := 5) hw (by decide), ?_, fun i hi => ?_, fun i hi => ?_,
      fun i hi => rteThread_other_reg hi, rfl, ?_⟩
    · rw [← word_low_half, ← saved_window_word (i := 7) hw (by decide)]
      rfl
    · rw [rteThread_queue hi, saved_queue_word hw hi]
    · rw [rteThread_saved_reg hi, saved_window_word hw (by omega)]
    · rw [State.finish, hd]
      rfl

end Sys2Proof.Machine

/-! # What the small steps of threads and operations leave alone, and the commit with them (R30, R34, R43, R47, R113 to R118, R137, R404). -/

namespace Sys2Proof.Machine

open Sys2Proof.Claims

/-! ### Parts of the state that threads, operations and packets do not stand in -/

/-- A part of the state that stands whatever becomes of threads, operations, packets and device registers. -/
structure Unmoved {β : Type} (g : State → β) : Prop where
  threads : ∀ (s : State) (x : Table Thread), g { s with threads := x } = g s
  ops : ∀ (s : State) (x : List Op), g { s with ops := x } = g s
  nextOp : ∀ (s : State) (x : Nat), g { s with nextOp := x } = g s
  sched : ∀ (s : State) (x : Sched), g { s with sched := x } = g s
  dev : ∀ (s : State) (x : Dev), g { s with dev := x } = g s

/-- A part of the state that stands whatever becomes of contexts, steps to come and free values as well. -/
structure Steady {β : Type} (g : State → β) : Prop extends Unmoved g where
  ctxs : ∀ (s : State) (x : Table Ctx), g { s with ctxs := x } = g s
  agenda : ∀ (s : State) (x : List Event), g { s with agenda := x } = g s
  draw : ∀ (s : State) (x : Nat), g { s with draw := x } = g s

theorem unmoved_ctxs : Unmoved State.ctxs := ⟨fun _ _ => rfl, fun _ _ => rfl, fun _ _ => rfl, fun _ _ => rfl, fun _ _ => rfl⟩
theorem steady_latch : Steady State.latch := ⟨⟨fun _ _ => rfl, fun _ _ => rfl, fun _ _ => rfl, fun _ _ => rfl, fun _ _ => rfl⟩, fun _ _ => rfl, fun _ _ => rfl, fun _ _ => rfl⟩
theorem steady_mem : Steady State.mem := ⟨⟨fun _ _ => rfl, fun _ _ => rfl, fun _ _ => rfl, fun _ _ => rfl, fun _ _ => rfl⟩, fun _ _ => rfl, fun _ _ => rfl, fun _ _ => rfl⟩
theorem steady_cores : Steady State.cores := ⟨⟨fun _ _ => rfl, fun _ _ => rfl, fun _ _ => rfl, fun _ _ => rfl, fun _ _ => rfl⟩, fun _ _ => rfl, fun _ _ => rfl, fun _ _ => rfl⟩
theorem steady_bankWait : Steady State.bankWait := ⟨⟨fun _ _ => rfl, fun _ _ => rfl, fun _ _ => rfl, fun _ _ => rfl, fun _ _ => rfl⟩, fun _ _ => rfl, fun _ _ => rfl, fun _ _ => rfl⟩

/-- What each step of a fold keeps, the fold keeps. -/
theorem foldl_keeps {α β : Type} (g : State → β) {f : State → α → State} (hf : ∀ s a, g (f s a) = g s) (l : List α) (s : State) :
    g (l.foldl f s) = g s := by
  induction l generalizing s with
  | nil => rfl
  | cons a l ih => rw [List.foldl_cons, ih, hf]

/-! ### Counters and triggers (R398, R404) -/

theorem fireTrigger_eq (s : State) : ∃ d a, s.fireTrigger = { s with dev := d, agenda := a } := by
  unfold State.fireTrigger
  split
  · exact ⟨s.dev, s.agenda, rfl⟩
  · exact ⟨_, _, rfl⟩

/-- Watchpoints count and fire the trigger, and change nothing else (R404). -/
theorem watch_eq (s : State) (c x h va n kind : Nat) : ∃ t d a, s.watch c x h va n kind = { s with ctxs := t, dev := d, agenda := a } := by
  unfold State.watch
  generalize (s.ctx c x).cnt.watch = l
  induction l generalizing s with
  | nil => exact ⟨s.ctxs, s.dev, s.agenda, rfl⟩
  | cons p l ih =>
    rw [List.foldl_cons]
    dsimp only
    split
    · obtain ⟨t, ht, -⟩ := count_eq s c x h 19 1
      rw [ht]
      split
      · obtain ⟨d, a, hd⟩ := fireTrigger_eq { s with ctxs := t }
        rw [hd]
        exact ih _
      · exact ih _
    · exact ih s

namespace Unmoved

variable {β : Type} {g : State → β} (hg : Unmoved g) (s : State)
include hg

theorem modThread (c h : Nat) (f : Thread → Thread) : g (s.modThread c h f) = g s := hg.threads s _

/-! ### Packets -/

theorem sendPacket (p : Packet) : g (s.sendPacket p) = g s := by
  obtain ⟨q, d, r, heq, -⟩ := sendPacket_eq s p
  rw [heq]
  exact (hg.dev { s with sched := q } d).trans (hg.sched s q)

theorem tell (d c n : Nat) (ws : List Word) : g (s.tell d c n ws) = g s := hg.sendPacket ..

theorem newOp (o : Op) : g { s with ops := s.ops ++ [o], nextOp := s.nextOp + 1 } = g s := (hg.nextOp { s with ops := s.ops ++ [o] } _).trans (hg.ops s _)

theorem askHome (c h a n : Nat) (ws : List Word) : g (s.askHome c h a n ws) = g s := (hg.tell ..).trans (hg.newOp s _)

/-! ### Tasks that open, threads that start anew (R34, R47, R236) -/

theorem openTask (c h : Nat) (pc : Word) (b : Bool) (k : Option (Nat × Word)) : g (s.openTask c h pc b k) = g s := by
  unfold State.openTask
  cases k <;> dsimp only <;> split
  case none.isTrue | some.isTrue => exact (hg.askHome ..).trans (hg.threads s _)
  case none.isFalse | some.isFalse => exact hg.threads s _

theorem openNext (c h : Nat) : g (s.openNext c h) = g s := by
  unfold State.openNext
  dsimp only
  split
  · exact hg.modThread ..
  · exact hg.openTask ..

theorem toHandler (c h : Nat) : g (s.toHandler c h) = g s := by
  unfold State.toHandler
  dsimp only
  split
  · exact (hg.openNext ..).trans (hg.modThread ..)
  · rfl

theorem finishRestart (c h : Nat) : g (s.finishRestart c h) = g s := by
  unfold State.finishRestart
  split
  · exact (hg.toHandler ..).trans (hg.modThread ..)
  · rfl

theorem startAnew (c h : Nat) : g (s.startAnew c h) = g s := by
  unfold State.startAnew
  dsimp only
  split
  · exact (hg.askHome ..).trans (hg.modThread ..)
  · exact (hg.finishRestart ..).trans (hg.threads s _)

theorem dropOp (o : Op) : g (s.dropOp o) = g s := by
  unfold State.dropOp
  dsimp only
  split
  · exact hg.ops s _
  · exact (hg.modThread ..).trans (hg.ops s _)

end Unmoved

namespace Steady

variable {β : Type} {g : State → β} (hg : Steady g) (s : State)
include hg

theorem modCtx (c x : Nat) (f : Ctx → Ctx) : g (s.modCtx c x f) = g s := hg.ctxs s _

/-! ### Counters and triggers -/

theorem count (c x h ev n : Nat) : g (s.count c x h ev n) = g s := by
  obtain ⟨t, ht, -⟩ := count_eq s c x h ev n
  rw [ht]
  exact hg.ctxs s t

theorem watch (c x h va n kind : Nat) : g (s.watch c x h va n kind) = g s := by
  obtain ⟨t, d, a, heq⟩ := watch_eq s c x h va n kind
  rw [heq]
  exact (hg.agenda { s with ctxs := t, dev := d } a).trans ((hg.dev { s with ctxs := t } d).trans (hg.ctxs s t))

/-! ### Operations that end (R30, R31, R40, R43) -/

theorem giveValue (o : Op) (v : Word) : g (s.giveValue o v) = g s := by
  unfold State.giveValue
  split
  case h_1 => rfl
  case h_4 => exact hg.modCtx ..
  case h_5 =>
    split
    · exact hg.modCtx ..
    · rfl
  all_goals exact hg.modThread ..

theorem complete (o : Op) (v : Word) : g (s.complete o v) = g s := (hg.finishRestart ..).trans ((hg.giveValue ..).trans (hg.dropOp ..))

end Steady

/-! ### The commit leaves the latch of the executing bundle (R113 to R118) -/

section
variable (s : State)

@[simp] theorem tell_latch (d c g : Nat) (ws : List Word) : (s.tell d c g ws).latch = s.latch := steady_latch.tell ..

theorem homePut_latch (t : Thread) (a : Nat) (b : List Byte) : (s.homePut t a b).latch = s.latch := by
  unfold State.homePut
  split
  · exact tell_latch ..
  · rfl

theorem lay_latch (c a : Nat) (b : List Byte) : (s.lay c a b).latch = s.latch := by
  unfold State.lay
  split
  · rfl
  · dsimp only
    split <;> rfl

theorem closeBatch_latch (c e l : Nat) : (s.closeBatch c e l).latch = s.latch := by
  unfold State.closeBatch
  dsimp only
  split <;> rfl

theorem openBatch_latch (c e l : Nat) : (s.openBatch c e l).latch = s.latch := by
  unfold State.openBatch
  split
  · rfl
  · rw [State.modCore_latch]
    split
    · split
      · exact closeBatch_latch ..
      · rfl
    · rfl

theorem updates_latch (ps : List (Nat × Nat)) : (s.updates ps).latch = s.latch := by
  refine foldl_keeps State.latch (fun s u => ?_) _ s
  split
  · exact openBatch_latch ..
  · rfl

theorem landTogether_latch {put : State → BufStore → State} (hput : ∀ s b, (put s b).latch = s.latch) (ps : List BufStore) :
    (s.landTogether put ps).latch = s.latch := (updates_latch ..).trans (foldl_keeps State.latch hput ps s)

theorem withdrawArrival_latch (c h : Nat) : (s.withdrawArrival c h).latch = s.latch := by
  unfold State.withdrawArrival
  dsimp only
  split
  · rfl
  · refine (foldl_keeps State.latch (fun s o => ?_) _ _).trans ?_
    · exact (steady_latch.giveValue ..).trans (steady_latch.dropOp ..)
    rw [State.modThread_latch, State.modCore_latch]
    split
    · split
      · rfl
      · exact tell_latch ..
    · rfl

theorem abortTask_latch (c h : Nat) : (s.abortTask c h).latch = s.latch := (steady_latch.startAnew ..).trans (withdrawArrival_latch ..)

theorem conflictAt_latch (c h : Nat) : (s.conflictAt c h).latch = s.latch := (abortTask_latch ..).trans (steady_latch.count ..)

theorem checkHome_latch (n a : Nat) : (s.checkHome n a).latch = s.latch := by
  unfold State.checkHome
  split
  · exact tell_latch ..
  · split
    · split
      · exact tell_latch ..
      · rfl
    · rfl

theorem conflict_latch (t : Thread) (a : Nat) : (s.conflict t a).latch = s.latch := by
  unfold State.conflict
  split
  · rfl
  split
  · exact tell_latch ..
  · refine (foldl_keeps State.latch (fun s p => ?_) _ _).trans (foldl_keeps State.latch (fun s p => ?_) _ _)
    · dsimp only
      split
      · rfl
      split
      · exact conflictAt_latch ..
      split
      · exact checkHome_latch ..
      · rfl
    · dsimp only
      split
      · exact checkHome_latch ..
      · rfl

/-- Where the bytes of a store go (R113). -/
def State.placeStore (c h : Nat) (b : BufStore) : State :=
  if isHostKey b.key then
    (s.modSched fun q => { q with out := q.out ++ [.write (s.hostAddr b.key) b.bytes] }).modThread c h fun t =>
      { t with hostDirty := distinct (((b.key - 0x0084000000000000) / 0x1000000000) :: t.hostDirty) }
  else if isCtlKey b.key then { s with agenda := s.agenda ++ [⟨.registerWrite, { c := c, h := h, addr := b.key, bytes := b.bytes }⟩] }
  else if isFarKey b.key then s.homePut (s.thread c h) b.va.toNat b.bytes
  else s.lay c b.key (s.merged b)

theorem placeStore_latch (c h : Nat) (b : BufStore) : (s.placeStore c h b).latch = s.latch := by
  unfold State.placeStore
  split
  · rfl
  split
  · rfl
  split
  · exact homePut_latch ..
  · exact lay_latch ..

theorem landStore_latch (c h : Nat) (b : BufStore) : (s.landStore c h b).latch = s.latch := by
  unfold State.landStore
  dsimp only
  split
  · rfl
  split
  · exact (foldl_keeps State.latch (fun s l => conflict_latch ..) _ _).trans ((steady_latch.watch ..).trans (placeStore_latch s c h b))
  · exact (steady_latch.watch ..).trans (placeStore_latch s c h b)

theorem landBuf_latch (c h : Nat) : (s.landBuf c h).latch = s.latch :=
  (landTogether_latch _ (fun s b => landStore_latch s c h b) _).trans (steady_latch.count ..)

theorem leaveInstance_latch (t : Thread) (b : Bool) : (s.leaveInstance t b).latch = s.latch := by
  unfold State.leaveInstance
  split
  · split
    · exact tell_latch ..
    · split <;> rfl
  · rfl

theorem commit_latch (c h : Nat) : (s.commit c h).latch = s.latch :=
  (leaveInstance_latch ..).trans ((steady_latch.count ..).trans (landBuf_latch ..))

end

end Sys2Proof.Machine

/-! # Semaphores and barriers (R41, R127, R251 to R253, R417). -/

namespace Sys2Proof.Machine

open Sys2Proof.Claims

/-! ### Parks and the end of a task -/

section
variable {s t u w : State} {n p : Nat} {body : Ex Unit}

theorem runC_goes_park (hg : s.goesC 0) (hb : body s = .error (.park n id)) (hn : noneBefore (actC 0 body s) s n = true) :
    runC 0 body s = .next (parked s n) := runC_goes_stop hg hb (settled_park hn)

theorem ends_latch (h : ends s = some t) : t.latch = s.latch := by
  unfold ends at h
  split at h
  · cases h; rfl
  · split at h
    · cases h; exact commit_latch ..
    · cases h

/-- The open task ends as well where later parks are passed. -/
theorem ends_passing (h : ends s = some t) (p : Nat) : ∃ w, ends (s.passing p) = some w := by
  unfold ends at h ⊢
  by_cases htask : s.cur.task = false
  · exact ⟨_, if_pos htask⟩
  · rw [if_neg htask] at h
    by_cases hc : badEntry s.pre = none ∧ s.commitWait s.latch.core s.latch.slot = none
    · exact ⟨_, (if_neg htask).trans (if_pos hc)⟩
    · rw [if_neg hc] at h; cases h

end

/-! ### Semaphores (R41, R251, R252) -/

section
variable {s t u : State} {k : BitVec 1} {n a d : BitVec 6} {v : Word}

theorem semNum_ok (h : semOk s k n) : semNum k n s = .ok (n.toNat, s) := by
  unfold semOk at h
  simp only [semNum, Ex.get_bind]
  by_cases hk : k = 1#1
  · rw [if_pos (show k = 1 from hk)] at h
    rw [if_pos hk, if_neg (by omega)]
    rfl
  · rw [if_neg (show ¬ k = 1 from hk)] at h
    rw [if_neg hk, if_pos h]
    rfl

theorem putSem_run (k : BitVec 1) (i x : Nat) (s : State) : putSem k i x s = .ok ((), semSet s k i x) := by
  by_cases hk : k = 1#1
  · rw [putSem, if_pos hk, semSet, if_pos (show k = 1 from hk)]
    rfl
  · rw [putSem, if_neg hk, semSet, if_neg (show ¬ k = 1 from hk)]
    rfl

theorem min_add_clipped (x y : Nat) : min 65535 (x + min y 65535) = min 65535 (x + y) := by omega

section
variable (hg : s.goesC 0) (hsrc : src a s = .ok (v, u)) (hsem : semOk u k n)
include hg hsrc hsem

theorem exec_sinc (hp : performed u) : exec (.sinc a n k) s = .next (s.ended (semSet u k n.toNat (min 65535 (u.sem k n.toNat + v.toNat)))) := by
  refine runC_goes hg ?_
  unfold performed at hp
  rw [Ex.bind_ok hsrc, Ex.bind_ok (semNum_ok hsem)]
  simp only [Ex.get_bind, hp, List.isEmpty_nil, if_true, min_add_clipped]
  exact putSem_run ..

theorem exec_sset (hv : v.toNat ≤ 65535) : exec (.sset a n k) s = .next (s.ended (semSet u k n.toNat v.toNat)) := by
  refine runC_goes hg ?_
  rw [Ex.bind_ok hsrc, Ex.bind_ok (semNum_ok hsem), if_neg (by omega)]
  exact putSem_run ..

theorem exec_sset_range (hv : 65535 < v.toNat) : exec (.sset a n k) s = .next (trapped s 0x12 v false) := by
  refine runC_goes_trap hg ?_
  rw [Ex.bind_ok hsrc, Ex.bind_ok (semNum_ok hsem), if_pos hv]
  rfl

end

/-- Once its operand is read, `swait` looks at the wait of its thread and at the semaphore (R251). -/
theorem swait_runs (a n : BitVec 6) (k : BitVec 1) : ∃ body, (∀ s, exec (.swait a n k) s = runC 0 body s) ∧ ∀ (s u : State) (v : Word),
    src a s = .ok (v, u) → semOk u k n →
    (65535 < v.toNat → body s = .error (.trap 0x12 v)) ∧
    (v.toNat ≤ 65535 → (∀ i, ¬ served u i) → v.toNat ≤ u.sem k n.toNat → body s = .ok ((), semSet u k n.toNat (u.sem k n.toNat - v.toNat))) ∧
    (v.toNat ≤ 65535 → (∀ i, ¬ served u i) → u.sem k n.toNat < v.toNat → body s = park 4 u) ∧
    (∀ i, v.toNat ≤ 65535 → served u i → body s = .ok ((), calm u)) := by
  refine ⟨_, fun _ => rfl, fun s u v hsrc hsem => ?_⟩
  rw [Ex.bind_ok hsrc, Ex.bind_ok (semNum_ok hsem)]
  simp only [Ex.get_bind]
  refine ⟨fun hv => by rw [if_pos hv]; rfl, fun hv hserved hle => ?_, fun hv hserved hlt => ?_, fun i hv hserved => ?_⟩
  all_goals rw [if_neg (Nat.not_lt.mpr hv)]
  · rw [if_pos hle]
    cases hw : u.cur.wait
    case granted i => exact absurd hw (hserved i)
    all_goals exact putSem_run ..
  · rw [if_neg (Nat.not_le.mpr hlt)]
    cases hw : u.cur.wait
    case granted i => exact absurd hw (hserved i)
    all_goals rfl
  · unfold served at hserved
    rw [hserved]
    rfl

theorem bit_toNat {n : Nat} (v : BitVec n) (i : Nat) : bit v.toNat i = v.getLsbD i := by
  rw [BitVec.getLsbD, Nat.testBit_eq_decide_div_mod_eq]
  rfl

theorem mem_ones {v : Word} {i : Nat} : i ∈ ones 64 v.toNat ↔ i < 64 ∧ v.getLsbD i = true := by
  simp [ones, bit_toNat]

/-- Once its mask is read and is within the share, `smwait` looks at the wait of its thread and at the semaphores of the mask (R252). -/
theorem smwait_runs (d a : BitVec 6) : ∃ body, (∀ s, exec (.smwait d a) s = runC 0 body s) ∧ ∀ (s u : State) (v : Word),
    src a s = .ok (v, u) → v ≠ 0 → (∀ i < 64, v.getLsbD i = true → shareOk (u.core u.latch.core).share u.cur.x i 56 = true) →
    (∀ i, (∀ j, ¬ served u j) → (ones 64 v.toNat).find? (fun n => decide (0 < u.sem 0 n)) = some i →
      body s = dest d (BitVec.ofNat 64 i) (semSet u 0 i (u.sem 0 i - 1))) ∧
    ((∀ j, ¬ served u j) → (ones 64 v.toNat).find? (fun n => decide (0 < u.sem 0 n)) = none → body s = park 4 u) ∧
    (∀ i, served u i → body s = dest d (BitVec.ofNat 64 i) (calm u)) := by
  refine ⟨_, fun _ => rfl, fun s u v hsrc hv hshare => ?_⟩
  have hall : ((ones 64 v.toNat).any fun n => !shareOk (u.core u.latch.core).share u.cur.x n 56) = false := by
    simpa [mem_ones] using hshare
  rw [Ex.bind_ok hsrc]
  simp only [Ex.get_bind]
  rw [if_neg (not_or.mpr ⟨hv, by rw [hall]; exact Bool.false_ne_true⟩)]
  refine ⟨fun i hserved hfind => ?_, fun hserved hfind => ?_, fun i hserved => ?_⟩
  · rw [hfind]
    cases hw : u.cur.wait
    case granted j => exact absurd hw (hserved j)
    all_goals exact Ex.bind_ok (putSem_run ..)
  · rw [hfind]
    cases hw : u.cur.wait
    case granted j => exact absurd hw (hserved j)
    all_goals rfl
  · unfold served at hserved
    rw [hserved]
    rfl

/-- The lowest semaphore of the mask that is not zero. -/
theorem find_ones_some {q : Nat → Bool} {i : Nat} (hi : v.getLsbD i = true) (hq : q i = true) (hlow : ∀ j < i, v.getLsbD j = true → q j = false) :
    (ones 64 v.toNat).find? q = some i := by
  rw [ones, List.find?_filter, List.find?_range_eq_some]
  refine ⟨by simp [bit_toNat, hi, hq], List.mem_range.mpr (BitVec.lt_of_getLsbD hi), fun j hj => ?_⟩
  cases hv : v.getLsbD j with
  | false => simp [bit_toNat, hv]
  | true => simp [hlow j hj hv]

theorem find_ones_none {q : Nat → Bool} (h : ∀ i < 64, v.getLsbD i = true → q i = false) : (ones 64 v.toNat).find? q = none := by
  rw [List.find?_eq_none]
  intro i hi
  obtain ⟨hlt, hv⟩ := mem_ones.mp hi
  simp [h i hlt hv]

section
variable (hg : s.goesC 0) (hsrc : src a s = .ok (v, u))
include hg hsrc

section
variable (hsem : semOk u k n)
include hsem

theorem exec_swait_range (hv : 65535 < v.toNat) : exec (.swait a n k) s = .next (trapped s 0x12 v false) := by
  obtain ⟨body, hexec, hbody⟩ := swait_runs a n k
  rw [hexec]
  exact runC_goes_trap hg ((hbody s u v hsrc hsem).1 hv)

variable (hv : v.toNat ≤ 65535)
include hv

theorem exec_swait_takes (hserved : ∀ i, ¬ served u i) (hle : v.toNat ≤ u.sem k n.toNat) :
    exec (.swait a n k) s = .next (s.ended (semSet u k n.toNat (u.sem k n.toNat - v.toNat))) := by
  obtain ⟨body, hexec, hbody⟩ := swait_runs a n k
  rw [hexec]
  exact runC_goes hg ((hbody s u v hsrc hsem).2.1 hv hserved hle)

theorem exec_swait_parks (hserved : ∀ i, ¬ served u i) (hlt : u.sem k n.toNat < v.toNat) (hk : s.latch.skip = 0) :
    exec (.swait a n k) s = .next (parked s 4) := by
  obtain ⟨body, hexec, hbody⟩ := swait_runs a n k
  obtain ⟨hlatch, hpass⟩ := src_passing hk hsrc 4
  have hpark := ((hbody s u v hsrc hsem).2.2.1 hv hserved hlt).trans (park_run (.inl (hlatch ▸ hk)))
  have hlater := ((hbody _ (u.passing 4) v hpass hsem).2.2.1 hv hserved hlt).trans (park_passed (Nat.succ_ne_zero 3) le_rfl)
  rw [hexec]
  exact runC_goes_park hg hpark (noneBefore_of_ok hg hlater)

theorem exec_swait_served {i : Nat} (hserved : served u i) : exec (.swait a n k) s = .next (s.ended (calm u)) := by
  obtain ⟨body, hexec, hbody⟩ := swait_runs a n k
  rw [hexec]
  exact runC_goes hg ((hbody s u v hsrc hsem).2.2.2 i hv hserved)

end

section
variable (hv : v ≠ 0) (hshare : ∀ i < 64, v.getLsbD i = true → shareOk (u.core u.latch.core).share u.cur.x i 56 = true)
include hv hshare

theorem exec_smwait_takes {i : Nat} (hserved : ∀ j, ¬ served u j) (hi : v.getLsbD i = true) (hpos : 0 < u.sem 0 i)
    (hlow : ∀ j < i, v.getLsbD j = true → u.sem 0 j = 0) (hd : dest d (BitVec.ofNat 64 i) (semSet u 0 i (u.sem 0 i - 1)) = .ok ((), t)) :
    exec (.smwait d a) s = .next (s.ended t) := by
  obtain ⟨body, hexec, hbody⟩ := smwait_runs d a
  have hfind := find_ones_some (q := fun n => decide (0 < u.sem 0 n)) hi (decide_eq_true hpos) fun j hj hb => decide_eq_false (Nat.not_lt.mpr (hlow j hj hb).le)
  rw [hexec]
  exact runC_goes hg (((hbody s u v hsrc hv hshare).1 i hserved hfind).trans hd)

theorem exec_smwait_parks (hserved : ∀ j, ¬ served u j) (hzero : ∀ i < 64, v.getLsbD i = true → u.sem 0 i = 0) (hk : s.latch.skip = 0) :
    exec (.smwait d a) s = .next (parked s 4) := by
  obtain ⟨body, hexec, hbody⟩ := smwait_runs d a
  have hfind := find_ones_none (v := v) (q := fun n => decide (0 < u.sem 0 n)) fun i hi hb => decide_eq_false (Nat.not_lt.mpr (hzero i hi hb).le)
  obtain ⟨hlatch, hpass⟩ := src_passing hk hsrc 4
  have hpark := ((hbody s u v hsrc hv hshare).2.1 hserved hfind).trans (park_run (.inl (hlatch ▸ hk)))
  have hlater := ((hbody _ (u.passing 4) v hpass hv hshare).2.1 hserved hfind).trans (park_passed (Nat.succ_ne_zero 3) le_rfl)
  rw [hexec]
  exact runC_goes_park hg hpark (noneBefore_of_ok hg hlater)

theorem exec_smwait_served {i : Nat} (hserved : served u i) (hd : dest d (BitVec.ofNat 64 i) (calm u) = .ok ((), t)) :
    exec (.smwait d a) s = .next (s.ended t) := by
  obtain ⟨body, hexec, hbody⟩ := smwait_runs d a
  rw [hexec]
  exact runC_goes hg (((hbody s u v hsrc hv hshare).2.2 i hserved).trans hd)

end

end

theorem exec_sget (hg : s.goesC 0) (hsem : semOk s k n) (hd : dest d (BitVec.ofNat 64 (s.sem k n.toNat)) s = .ok ((), t)) :
    exec (.sget d n k) s = .next (s.ended t) := by
  refine runC_goes hg ?_
  rw [Ex.bind_ok (semNum_ok hsem)]
  exact hd

end

theorem semaphoreResult : SemaphoreResult := by
  refine ⟨fun a n k s u v hg hsrc hsem => ⟨exec_sinc hg hsrc hsem, fun hv hs => exec_swait_takes hg hsrc hsem hv hs,
      fun hv hs => exec_swait_parks hg hsrc hsem hv hs, fun i hv => exec_swait_served hg hsrc hsem hv, exec_sset hg hsrc hsem,
      fun hv => ⟨exec_sset_range hg hsrc hsem hv, exec_swait_range hg hsrc hsem hv⟩⟩,
    fun d n k s t hg hsem => exec_sget hg hsem, fun d a s u v hg hsrc hv hshare => ⟨?_, ?_, ?_⟩⟩
  · exact fun t i => exec_smwait_takes hg hsrc hv hshare
  · exact exec_smwait_parks hg hsrc hv hshare
  · exact fun t i => exec_smwait_served hg hsrc hv hshare

/-! ### Barriers (R127, R253, R417) -/

/-- What the thread's record becomes as it arrives and waits (R253). -/
def arrives (a : BarArr) (w : Wait) (t : Thread) : Thread := { t with arr := some a, wait := w }

section
variable {s t w : State} {r : BitVec 4} {d : BitVec 6}

/-- On an enabled register `bar` looks at the wait of its thread and at its arrival (R253). -/
theorem bar_runs (r : BitVec 4) : ∃ body, (∀ s, exec (.bar r) s = runC 0 body s) ∧ ∀ s : State,
    (s.bgOn r.toNat = false → body s = .error (.trap 0x12 (BitVec.ofNat 64 r.toNat))) ∧
    (s.bgOn r.toNat = true → s.cur.arr = none →
      (s.cur.wait = .barrier → body s = .ok ((), if s.curCtx.replayable then leaving (calm s) .release else calm s)) ∧
      (s.cur.wait = .none → s.curCtx.replayable = false → body s = parkWith 7 (fun _ => s.modCur (arrives (s.arrival r.toNat) .barrier)) s) ∧
      (∀ w, s.cur.wait = .none → s.curCtx.replayable = true → ends s = some w →
        body s = parkWith 7 (fun _ => (between w).modCur (arrives (s.arrival r.toNat) .barrier)) w)) := by
  refine ⟨_, fun _ => rfl, fun s => ?_⟩
  simp only [Ex.get_bind]
  refine ⟨fun hoff => by rw [hoff]; rfl, fun hon harr => ⟨fun hw => ?_, fun hw hrep => ?_, fun w hw hrep he => ?_⟩⟩
  all_goals rw [hon, hw, harr]
  · cases hrep : s.curCtx.replayable <;> rfl
  · simp only [hrep]; rfl
  · simp only [hrep]
    exact Ex.bind_ok (endTask_of_ends he)

/-- On an enabled register `barq` looks at the wait of its thread and at its arrival (R253). -/
theorem barq_runs (d : BitVec 6) (r : BitVec 4) : ∃ body, (∀ s, exec (.barq d r) s = runC 0 body s) ∧ ∀ s : State,
    s.bgOn r.toNat = true → s.cur.arr = none →
      (∀ t, s.cur.wait = .none → s.curCtx.replayable = false →
        dest d (BitVec.ofNat 64 (s.arrival r.toNat).gen) (s.modCur fun t => { t with arr := some (s.arrival r.toNat) }) = .ok ((), t) → body s = .ok ((), t)) ∧
      (∀ t g, s.cur.wait = .barq g → dest d (BitVec.ofNat 64 g) (calm s) = .ok ((), t) → body s = .ok ((), leaving t .release)) ∧
      (∀ w, s.cur.wait = .none → s.curCtx.replayable = true → ends s = some w →
        body s = parkWith 7 (fun _ => (between w).modCur (arrives (s.arrival r.toNat) (.barq (s.arrival r.toNat).gen))) w) := by
  refine ⟨_, fun _ => rfl, fun s hon harr => ?_⟩
  simp only [Ex.get_bind]
  refine ⟨fun t hw hrep hd => ?_, fun t g hw hd => ?_, fun w hw hrep he => ?_⟩
  all_goals rw [hon, hw, harr]
  · simp only [hrep]
    exact hd
  · exact Ex.bind_ok (f := fun _ => setDefer .release) hd
  · simp only [hrep]
    exact Ex.bind_ok (endTask_of_ends he)

/-- On an enabled register `barq.wait` looks at the arrival of its thread (R253). -/
theorem barqWait_runs (r : BitVec 4) : ∃ body, (∀ s, exec (.barqWait r) s = runC 0 body s) ∧ ∀ s : State,
    (s.bgOn r.toNat = false → body s = .error (.trap 0x12 (BitVec.ofNat 64 r.toNat))) ∧
    (s.bgOn r.toNat = true →
      (s.cur.arr = none → body s = .ok ((), s)) ∧
      (∀ a, s.cur.arr = some a → a.bg = r.toNat → body s = park 7 s) ∧
      (∀ a, s.cur.arr = some a → a.bg ≠ r.toNat → body s = .ok ((), s))) := by
  refine ⟨_, fun _ => rfl, fun s => ?_⟩
  simp only [Ex.get_bind]
  refine ⟨fun hoff => by rw [hoff]; rfl, fun hon => ⟨fun harr => ?_, fun a harr hbg => ?_, fun a harr hbg => ?_⟩⟩
  all_goals rw [hon, harr]
  · rfl
  · exact congrFun (if_pos hbg) s
  · exact congrFun (if_neg hbg) s

section
variable (hg : s.goesC 0)
include hg

/-- A park with a change in the state that an ended task has left; later parks would have been passed there as well (R337). -/
theorem runC_parks_between {body : Ex Unit} {f : Thread → Thread} (hk : s.latch.skip = 0) (he : ends s = some w)
    (hb : body s = parkWith 7 (fun _ => (between w).modCur f) w)
    (hlater : ∀ v, ends (s.passing 7) = some v → body (s.passing 7) = parkWith 7 (fun _ => (between v).modCur f) v) :
    runC 0 body s = .next (waiting s ((between w).modCur f) 7) := by
  obtain ⟨v, hv⟩ := ends_passing he 7
  have hskip : v.latch.skip = 7 := congrArg Latch.skip (ends_latch hv)
  have hpark := hb.trans (parkWith_run _ (.inl (ends_latch he ▸ hk)))
  have hpassed := (hlater v hv).trans (parkWith_passed _ (by omega) (by omega))
  exact runC_goes_wait (f := fun _ => (between w).modCur f) hg hpark (noneBefore_of_ok hg hpassed)

theorem exec_bar_off (hoff : s.bgOn r.toNat = false) : exec (.bar r) s = .next (trapped s 0x12 (BitVec.ofNat 64 r.toNat) false) := by
  obtain ⟨body, hexec, hbody⟩ := bar_runs r
  rw [hexec]
  exact runC_goes_trap hg ((hbody s).1 hoff)

theorem exec_barqWait_off (hoff : s.bgOn r.toNat = false) : exec (.barqWait r) s = .next (trapped s 0x12 (BitVec.ofNat 64 r.toNat) false) := by
  obtain ⟨body, hexec, hbody⟩ := barqWait_runs r
  rw [hexec]
  exact runC_goes_trap hg ((hbody s).1 hoff)

variable (hon : s.bgOn r.toNat = true)
include hon

section
variable (harr : s.cur.arr = none)
include harr

theorem exec_bar_released (hw : s.cur.wait = .barrier) :
    exec (.bar r) s = .next (s.ended (if s.curCtx.replayable then leaving (calm s) .release else calm s)) := by
  obtain ⟨body, hexec, hbody⟩ := bar_runs r
  rw [hexec]
  exact runC_goes hg (((hbody s).2 hon harr).1 hw)

theorem exec_bar_arrives (hw : s.cur.wait = .none) (hrep : s.curCtx.replayable = false) (hk : s.latch.skip = 0) :
    exec (.bar r) s = .next (waiting s (s.modCur (arrives (s.arrival r.toNat) .barrier)) 7) := by
  obtain ⟨body, hexec, hbody⟩ := bar_runs r
  have hpark := (((hbody s).2 hon harr).2.1 hw hrep).trans (parkWith_run _ (.inl hk))
  have hlater := (((hbody (s.passing 7)).2 hon harr).2.1 hw hrep).trans (parkWith_passed _ (Nat.succ_ne_zero 6) le_rfl)
  rw [hexec]
  exact runC_goes_wait (f := fun _ => s.modCur (arrives (s.arrival r.toNat) .barrier)) hg hpark (noneBefore_of_ok hg hlater)

theorem exec_bar_ends_task (hw : s.cur.wait = .none) (hrep : s.curCtx.replayable = true) (he : ends s = some w) (hk : s.latch.skip = 0) :
    exec (.bar r) s = .next (waiting s ((between w).modCur (arrives (s.arrival r.toNat) .barrier)) 7) := by
  obtain ⟨body, hexec, hbody⟩ := bar_runs r
  rw [hexec]
  exact runC_parks_between hg hk he (((hbody s).2 hon harr).2.2 w hw hrep he) fun v => ((hbody (s.passing 7)).2 hon harr).2.2 v hw hrep

theorem exec_barq_ends_task (hw : s.cur.wait = .none) (hrep : s.curCtx.replayable = true) (he : ends s = some w) (hk : s.latch.skip = 0) :
    exec (.barq d r) s = .next (waiting s ((between w).modCur (arrives (s.arrival r.toNat) (.barq (s.arrival r.toNat).gen))) 7) := by
  obtain ⟨body, hexec, hbody⟩ := barq_runs d r
  rw [hexec]
  exact runC_parks_between hg hk he ((hbody s hon harr).2.2 w hw hrep he) fun v => (hbody (s.passing 7) hon harr).2.2 v hw hrep

theorem exec_barq_arrives (hw : s.cur.wait = .none) (hrep : s.curCtx.replayable = false)
    (hd : dest d (BitVec.ofNat 64 (s.arrival r.toNat).gen) (s.modCur fun t => { t with arr := some (s.arrival r.toNat) }) = .ok ((), t)) :
    exec (.barq d r) s = .next (s.ended t) := by
  obtain ⟨body, hexec, hbody⟩ := barq_runs d r
  rw [hexec]
  exact runC_goes hg ((hbody s hon harr).1 t hw hrep hd)

theorem exec_barq_released {g : Nat} (hw : s.cur.wait = .barq g) (hd : dest d (BitVec.ofNat 64 g) (calm s) = .ok ((), t)) :
    exec (.barq d r) s = .next (s.ended (leaving t .release)) := by
  obtain ⟨body, hexec, hbody⟩ := barq_runs d r
  rw [hexec]
  exact runC_goes hg ((hbody s hon harr).2.1 t g hw hd)

theorem exec_barqWait_released : exec (.barqWait r) s = .next (s.ended s) := by
  obtain ⟨body, hexec, hbody⟩ := barqWait_runs r
  rw [hexec]
  exact runC_goes hg (((hbody s).2 hon).1 harr)

end

section
variable {a : BarArr} (harr : s.cur.arr = some a)
include harr

theorem exec_barqWait_parks (hbg : a.bg = r.toNat) (hk : s.latch.skip = 0) : exec (.barqWait r) s = .next (parked s 7) := by
  obtain ⟨body, hexec, hbody⟩ := barqWait_runs r
  have hpark := (((hbody s).2 hon).2.1 a harr hbg).trans (park_run (.inl hk))
  have hlater := (((hbody (s.passing 7)).2 hon).2.1 a harr hbg).trans (park_passed (Nat.succ_ne_zero 6) le_rfl)
  rw [hexec]
  exact runC_goes_park hg hpark (noneBefore_of_ok hg hlater)

theorem exec_barqWait_other (hbg : a.bg ≠ r.toNat) : exec (.barqWait r) s = .next (s.ended s) := by
  obtain ⟨body, hexec, hbody⟩ := barqWait_runs r
  rw [hexec]
  exact runC_goes hg (((hbody s).2 hon).2.2 a harr hbg)

end

end

end

theorem barrierResult : BarrierResult := by
  intro s r hg
  refine ⟨fun hoff => ⟨exec_bar_off hg hoff, exec_barqWait_off hg hoff⟩, fun hon => ⟨?_, ?_, ?_, ?_, ?_, ?_, ?_, ?_⟩⟩
  · exact fun hw harr => exec_bar_released hg hon harr hw
  · exact fun hw harr => exec_bar_arrives hg hon harr hw
  · exact fun w hw harr hrep he hk => ⟨exec_bar_ends_task hg hon harr hw hrep he hk, fun d => exec_barq_ends_task hg hon harr hw hrep he hk⟩
  · exact fun d t hw harr => exec_barq_arrives hg hon harr hw
  · exact fun d t g hw harr => exec_barq_released hg hon harr hw
  · exact exec_barqWait_released hg hon
  · exact fun a => exec_barqWait_parks hg hon
  · exact fun a => exec_barqWait_other hg hon

/-- Settles O27: each clause is what the body of the instruction comes to under the clause's premises. -/
theorem semaphoresAndBarriers : Obligations.SemaphoresAndBarriers := ⟨semaphoreResult, barrierResult⟩

end Sys2Proof.Machine

/-! # How operations end (R30, R31, R34, R40, R43, R188, R225, R410). -/

namespace Sys2Proof.Machine

open Sys2Proof.Claims

/-! ### An operation leaves (R40) -/

section
variable (s : State) (o : Op) (v : Word)

theorem dropOp_ops : (s.dropOp o).ops = s.ops.filter fun p => p.id != o.id := by
  unfold State.dropOp
  dsimp only
  split <;> rfl

theorem dropOp_draw : (s.dropOp o).draw = s.draw := by
  unfold State.dropOp
  dsimp only
  split <;> rfl

theorem dropOp_ctx (c x : Nat) : (s.dropOp o).ctx c x = s.ctx c x := by rw [State.ctx, unmoved_ctxs.dropOp]; rfl

/-- The thread of an operation once it has left: its scoreboard slot has fallen (R40). -/
def slotFallen (o : Op) (t : Thread) : Thread := if o.sb = 0 then t else { t with sb := Table.set o.sb (Table.get 0 o.sb t.sb - 1) t.sb }

theorem dropOp_owner : (s.dropOp o).thread o.core o.slot = slotFallen o (s.thread o.core o.slot) := by
  unfold State.dropOp slotFallen
  dsimp only
  split
  · rfl
  · exact modThread_same ..

theorem dropOp_other {c h : Nat} (hne : 256 * c + h ≠ 256 * o.core + o.slot) : (s.dropOp o).thread c h = s.thread c h := by
  unfold State.dropOp
  dsimp only
  split
  · rfl
  · exact (State.modThread_thread ..).trans (if_neg hne)

theorem slotFallen_slot {o : Op} (h : o.sb ≠ 0) (t : Thread) : Table.get 0 o.sb (slotFallen o t).sb = Table.get 0 o.sb t.sb - 1 := by
  rw [slotFallen, if_neg h]
  exact (Table.get_set ..).trans (if_pos rfl)

theorem slotFallen_other {o : Op} {n : Nat} (h : n ≠ o.sb) (t : Thread) : Table.get 0 n (slotFallen o t).sb = Table.get 0 n t.sb := by
  unfold slotFallen
  split
  · rfl
  · exact (Table.get_set ..).trans (if_neg h)

/-- Nothing but the scoreboard differs. -/
theorem slotFallen_eq (t : Thread) : ∃ b, slotFallen o t = { t with sb := b } := by
  unfold slotFallen
  split
  · exact ⟨t.sb, rfl⟩
  · exact ⟨_, rfl⟩

/-! ### Its value reaches its place (R30, R43, R188) -/

/-- The register that still waits for an operation has its value, or the window that a call has saved it in since (R30, R35). -/
def namedGiven (id : Nat) (v : Word) (t : Thread) : Thread :=
  match t.regPend.find? fun p => p.2 == id with
  | none => t
  | some (r, _) =>
    let t := { t with regPend := t.regPend.filter (·.2 != id) }
    if r = 37 then { t with sp := v } else if 64 ≤ r then { t with win := savedReg (t.depth - (r - 64) / 4) (r % 4) v t.win }
    else { t with k := Table.set (r - 16) v t.k }

/-- What a thread's record becomes as the value of an operation of its own arrives. -/
def valueGiven (d : Dest) (id : Nat) (v : Word) (t : Thread) : Thread :=
  match d with
  | .result => { t with t := fillEnt id (.val v) t.t, lost := t.lost.filter (· != id) }
  | .named _ => namedGiven id v t
  | .vregs _ => { t with vPend := t.vPend.filter (·.2 != id) }
  | _ => t

theorem giveValue_owner : (s.giveValue o v).thread o.core o.slot = valueGiven o.dest o.id v (s.thread o.core o.slot) := by
  unfold State.giveValue
  cases o.dest with
  | none | queue => rfl
  | port side => cases hn : neighbour o.core side <;> simp [hn] <;> rfl
  | result | named | vregs => exact modThread_same ..

theorem giveValue_other {c h : Nat} (hne : 256 * c + h ≠ 256 * o.core + o.slot) : (s.giveValue o v).thread c h = s.thread c h := by
  unfold State.giveValue
  cases o.dest with
  | none | queue => rfl
  | port side => cases hn : neighbour o.core side <;> simp [hn]
  | result | named | vregs => exact (State.modThread_thread ..).trans (if_neg hne)

theorem giveValue_ops : (s.giveValue o v).ops = s.ops := by
  unfold State.giveValue
  cases o.dest with
  | port side => cases hn : neighbour o.core side <;> simp [hn]
  | _ => rfl

theorem giveValue_queue {x q : Nat} (h : o.dest = .queue x q) :
    Table.get [] q ((s.giveValue o v).ctx o.core x).q = fillQ o.id v (Table.get [] q (s.ctx o.core x).q) := by
  rw [State.giveValue, h]
  simp [Table.get_set]

theorem giveValue_port {side d : Nat} (h : o.dest = .port side) (hd : neighbour o.core side = some d) :
    Table.get [] (opposite side) ((s.giveValue o v).ctx d 0).port = fillQ o.id v (Table.get [] (opposite side) (s.ctx d 0).port) := by
  rw [State.giveValue, h]
  simp [hd, Table.get_set]

/-- Only the places that a value may go to differ. -/
theorem valueGiven_eq (d : Dest) (id : Nat) (t : Thread) : ∃ q l k sp p w x,
    valueGiven d id v t = { t with t := q, lost := l, k := k, sp := sp, regPend := p, win := w, vPend := x } := by
  cases d with
  | named r =>
    unfold valueGiven namedGiven
    dsimp only
    split
    · exact ⟨t.t, t.lost, t.k, t.sp, t.regPend, t.win, t.vPend, rfl⟩
    · split
      · exact ⟨_, _, _, _, _, _, _, rfl⟩
      · split <;> exact ⟨_, _, _, _, _, _, _, rfl⟩
  | _ => exact ⟨_, _, _, _, _, _, _, rfl⟩

/-- An operation that completes while its thread does not start anew has left and given its value, and nothing else. -/
theorem complete_of_running (hr : (owner s o).restart = false) : s.complete o v = (s.dropOp o).giveValue o v := by
  refine finishRestart_none ?_
  obtain ⟨q, l, k, sp, p, w, x, hv⟩ := valueGiven_eq v o.dest o.id ((s.dropOp o).thread o.core o.slot)
  obtain ⟨b, hb⟩ := slotFallen_eq o (s.thread o.core o.slot)
  rw [giveValue_owner, hv, dropOp_owner, hb]
  exact hr

/-- The thread of an operation that has completed. -/
theorem given_owner : ((s.dropOp o).giveValue o v).thread o.core o.slot = valueGiven o.dest o.id v (slotFallen o (owner s o)) := by
  rw [giveValue_owner, dropOp_owner]
  rfl

theorem given_onlyOwner : onlyOwner s ((s.dropOp o).giveValue o v) o :=
  ⟨(steady_mem.giveValue ..).trans (steady_mem.dropOp ..), (giveValue_ops ..).trans (dropOp_ops ..),
    fun _ _ hne => (giveValue_other _ _ _ hne).trans (dropOp_other _ _ hne)⟩

end

/-! ### A register that waits (R30, R35) -/

section
variable {id r : Nat} {v : Word} {t : Thread}

theorem namedGiven_none (h : t.regPend.find? (fun p => p.2 == id) = none) : namedGiven id v t = t := by rw [namedGiven, h]

theorem namedGiven_sp (h : t.regPend.find? (fun p => p.2 == id) = some (37, id)) :
    namedGiven id v t = { t with regPend := t.regPend.filter (·.2 != id), sp := v } := by
  rw [namedGiven, h]
  rfl

theorem namedGiven_window (h : t.regPend.find? (fun p => p.2 == id) = some (r, id)) (h64 : 64 ≤ r) :
    namedGiven id v t = { t with regPend := t.regPend.filter (·.2 != id), win := savedReg (t.depth - (r - 64) / 4) (r % 4) v t.win } := by
  rw [namedGiven, h]
  dsimp only
  rw [if_neg (by omega), if_pos h64]

theorem namedGiven_reg (h : t.regPend.find? (fun p => p.2 == id) = some (r, id)) (h37 : r ≠ 37) (h64 : r < 64) :
    namedGiven id v t = { t with regPend := t.regPend.filter (·.2 != id), k := Table.set (r - 16) v t.k } := by
  rw [namedGiven, h]
  dsimp only
  rw [if_neg h37, if_neg (Nat.not_le.mpr h64)]

/-- The register waits no more. -/
theorem namedGiven_regPend (h : t.regPend.find? (fun p => p.2 == id) = some (r, id)) :
    (namedGiven id v t).regPend = t.regPend.filter (·.2 != id) := by
  by_cases h37 : r = 37
  · subst h37
    rw [namedGiven_sp h]
  · by_cases h64 : 64 ≤ r
    · rw [namedGiven_window h h64]
    · rw [namedGiven_reg h h37 (Nat.lt_of_not_le h64)]

theorem namedGiven_t : (namedGiven id v t).t = t.t := by
  unfold namedGiven
  split
  · rfl
  · dsimp only
    split
    · rfl
    · split <;> rfl

theorem savedReg_getElem? (n i : Nat) (v : Word) (l : List Window) (j : Nat) :
    (savedReg n i v l)[j]? = (l[j]?).map fun w => if j = n then windowWith i v w else w := by
  unfold savedReg
  rw [List.getElem?_mapIdx]
  congr 1
  funext w
  by_cases hj : j = n
  · rw [if_neg (not_not.mpr hj), if_pos hj]
    match i with
    | 0 | 1 | 2 => rfl
    | i + 3 => rfl
  · rw [if_pos hj, if_neg hj]

end

/-! ### Completion (R30, R40, R43, R188) -/

theorem operationCompletes : OperationCompletes := by
  intro s o v hr t a b
  have ht : t = (s.dropOp o).giveValue o v := complete_of_running s o v hr
  obtain ⟨sb, hsb⟩ := slotFallen_eq o a
  have hb : b = valueGiven o.dest o.id v (slotFallen o a) := (congrArg (fun u : State => u.thread o.core o.slot) ht).trans (given_owner ..)
  obtain ⟨q, l, k, sp, p, w, x, hv⟩ := valueGiven_eq v o.dest o.id (slotFallen o a)
  refine ⟨ht ▸ given_onlyOwner s o v, ?_, ?_, ?_, ?_, ?_, ?_, ?_, ?_, ?_⟩
  · intro h
    rw [hb, hv]
    exact slotFallen_slot h a
  · intro n hn
    rw [hb, hv]
    exact slotFallen_other hn a
  · rw [hb, hv, hsb]
  · rw [hb, hv, hsb]
  · rw [hb, hv, hsb]
  · intro hd
    rw [hb, hd, hsb]
    exact ⟨rfl, rfl, rfl⟩
  · intro r0 hd
    have hn : b = namedGiven o.id v { a with sb := sb } := by rw [hb, hd, hsb]; rfl
    rw [hn]
    refine ⟨namedGiven_t, fun r hf => ⟨fun q hq => ?_, fun h37 => ?_, fun h1 h2 => ?_, fun h64 => ?_⟩, fun hf => ?_⟩
    · rw [namedGiven_regPend (t := { a with sb := sb }) hf] at hq
      simp at hq
    · subst h37
      rw [namedGiven_sp (t := { a with sb := sb }) hf]
      exact ⟨rfl, rfl, rfl⟩
    · rw [namedGiven_reg (t := { a with sb := sb }) hf (by omega) (by omega)]
      refine ⟨(Table.get_set ..).trans (if_pos rfl), fun j hj => (Table.get_set ..).trans (if_neg hj), rfl, rfl⟩
    · rw [namedGiven_window (t := { a with sb := sb }) hf h64]
      exact ⟨rfl, rfl, savedReg_getElem? _ _ _ _⟩
    · rw [namedGiven_none (t := { a with sb := sb }) hf]
      exact ⟨rfl, rfl, rfl⟩
  · intro x q hd
    rw [ht, giveValue_queue _ _ _ hd, dropOp_ctx]
    rfl
  · intro side d hd hn
    rw [ht, ← dropOp_ctx s o]
    exact giveValue_port _ _ _ hd hn

/-! ### Faults (R31, R225, R410) -/

section
variable (s : State) (o : Op) (code : Nat) (tval : Word)

/-- The place that a faulted operation has reserved in a queue or port is filled (R43, R344: log 145). -/
def State.placeFilled : State :=
  match o.dest with
  | .queue _ _ | .port _ => { s with draw := s.draw + 1 }.giveValue o (Config.faultedPlace s.draw)
  | _ => s

/-- The cause of an operation's fault (R410). -/
def faultOf : Cause := { code := code, tval := tval, pc := o.pc, op := o.id }

/-- A thread's record with the fault of an operation of its own: in the entry of the result queue, or due (R31). -/
def faulted (o : Op) (z : Cause) (t : Thread) : Thread :=
  if o.dest = .result ∧ t.t.contains (.pend o.id) then { t with t := fillEnt o.id (.bad o.sb z) t.t }
  else { t with due := t.due ++ [z], lost := t.lost.filter (· != o.id), regPend := t.regPend.filter (·.2 != o.id), vPend := t.vPend.filter (·.2 != o.id) }

theorem failOp_dropped (h : o.dropped = true) : s.failOp o code tval = ((s.dropOp o).placeFilled o).finishRestart o.core o.slot := if_pos h

theorem failOp_raised (h : o.dropped = false) : s.failOp o code tval = ((s.dropOp o).placeFilled o).modThread o.core o.slot (faulted o (faultOf o code tval)) := by
  refine (if_neg (by simp [h])).trans ?_
  unfold State.modThread faulted
  rw [apply_ite (State.setThread _ o.core o.slot)]
  rfl

theorem placeFilled_thread (c h : Nat) : (s.placeFilled o).thread c h = s.thread c h := by
  unfold State.placeFilled State.giveValue
  cases o.dest with
  | port side => cases hn : neighbour o.core side <;> simp [hn] <;> rfl
  | _ => rfl

theorem placeFilled_mem : (s.placeFilled o).mem = s.mem := by
  unfold State.placeFilled
  split
  · exact (steady_mem.giveValue ..).trans (steady_mem.draw s _)
  · exact (steady_mem.giveValue ..).trans (steady_mem.draw s _)
  · rfl

theorem placeFilled_ops : (s.placeFilled o).ops = s.ops := by
  unfold State.placeFilled
  split
  · exact giveValue_ops ..
  · exact giveValue_ops ..
  · rfl

theorem placeFilled_queue {x q : Nat} (h : o.dest = .queue x q) :
    Table.get [] q ((s.placeFilled o).ctx o.core x).q = fillQ o.id (Config.faultedPlace s.draw) (Table.get [] q (s.ctx o.core x).q) := by
  rw [State.placeFilled, h]
  exact giveValue_queue _ _ _ h

theorem faulted_entry {o : Op} {z : Cause} {t : Thread} (h : o.dest = .result) (hp : .pend o.id ∈ t.t) :
    faulted o z t = { t with t := fillEnt o.id (.bad o.sb z) t.t } := if_pos ⟨h, List.contains_iff_mem.mpr hp⟩

theorem faulted_due {o : Op} {z : Cause} {t : Thread} (h : o.dest ≠ .result ∨ .pend o.id ∉ t.t) :
    faulted o z t = { t with due := t.due ++ [z], lost := t.lost.filter (· != o.id), regPend := t.regPend.filter (·.2 != o.id)
                             vPend := t.vPend.filter (·.2 != o.id) } :=
  if_neg fun ⟨hd, hp⟩ => h.elim (fun hn => hn hd) fun hn => hn (List.contains_iff_mem.mp hp)

/-- The thread, the other threads, memory and the operations once the operation has left and its place is filled. -/
theorem left_owner : ((s.dropOp o).placeFilled o).thread o.core o.slot = slotFallen o (owner s o) :=
  (placeFilled_thread ..).trans (dropOp_owner ..)

theorem left_onlyOwner : onlyOwner s ((s.dropOp o).placeFilled o) o :=
  ⟨(placeFilled_mem ..).trans (steady_mem.dropOp ..), (placeFilled_ops ..).trans (dropOp_ops ..),
    fun _ _ hne => (placeFilled_thread ..).trans (dropOp_other _ _ hne)⟩

theorem modThread_onlyOwner {s t : State} {o : Op} (f : Thread → Thread) (h : onlyOwner s t o) : onlyOwner s (t.modThread o.core o.slot f) o := by
  obtain ⟨hmem, hops, hthread⟩ := h
  exact ⟨hmem, hops, fun c i hne => ((State.modThread_thread ..).trans (if_neg hne)).trans (hthread c i hne)⟩

/-- An operation at large of a thread that does not start anew only leaves. -/
theorem failOp_at_large (h : o.dropped = true) (hr : (owner s o).restart = false) : s.failOp o code tval = (s.dropOp o).placeFilled o := by
  obtain ⟨b, hb⟩ := slotFallen_eq o (owner s o)
  rw [failOp_dropped _ _ _ _ h]
  exact finishRestart_none (by rw [left_owner, hb]; exact hr)

theorem failOp_ctxs : (s.failOp o code tval).ctxs = ((s.dropOp o).placeFilled o).ctxs := by
  cases h : o.dropped with
  | true => rw [failOp_dropped _ _ _ _ h, unmoved_ctxs.finishRestart]
  | false => rw [failOp_raised _ _ _ _ h, unmoved_ctxs.modThread]

theorem failOp_queue {x q : Nat} (hd : o.dest = .queue x q) :
    Table.get [] q ((s.failOp o code tval).ctx o.core x).q = fillQ o.id (Config.faultedPlace s.draw) (Table.get [] q (s.ctx o.core x).q) := by
  rw [State.ctx, failOp_ctxs, ← State.ctx, placeFilled_queue _ _ hd, dropOp_draw, dropOp_ctx]

theorem failOp_onlyOwner (h : o.dropped = false ∨ (owner s o).restart = false) : onlyOwner s (s.failOp o code tval) o := by
  cases hd : o.dropped with
  | true =>
    rw [failOp_at_large _ _ _ _ hd (h.resolve_left (by simp [hd]))]
    exact left_onlyOwner ..
  | false =>
    rw [failOp_raised _ _ _ _ hd]
    exact modThread_onlyOwner _ (left_onlyOwner ..)

end

theorem operationFails : OperationFails := by
  intro s o code tval t a b z
  obtain ⟨sb, hsb⟩ := slotFallen_eq o a
  have hraised (h : o.dropped = false) : b = faulted o z { a with sb := sb } := by
    rw [← hsb]
    refine (congrArg (fun u : State => u.thread o.core o.slot) (failOp_raised s o code tval h)).trans ?_
    rw [modThread_same, left_owner]
    rfl
  refine ⟨fun h => ?_, fun x q hd => failOp_queue s o code tval hd, fun h hd hp => ?_, fun h hd => ?_, fun h hr => ?_⟩
  · exact failOp_onlyOwner s o code tval h
  · rw [hraised h, faulted_entry (t := { a with sb := sb }) hd hp]
    exact ⟨rfl, rfl⟩
  · rw [hraised h, faulted_due (t := { a with sb := sb }) hd]
    exact ⟨rfl, rfl⟩
  · have hb : b = slotFallen o a := (congrArg (fun u : State => u.thread o.core o.slot) (failOp_at_large s o code tval h hr)).trans (left_owner ..)
    rw [hb, hsb]
    exact ⟨rfl, rfl⟩

end Sys2Proof.Machine

/-! # Loads and long results return (R30, R84 to R86, R149, R225 to R227, R277, R297, R434). -/

namespace Sys2Proof.Machine

open Sys2Proof.Claims

/-! ### What a load reads (R76, R84, R86, R88) -/

section
variable {s : State} {o : Op} {k n v : Nat}

theorem spaceOf_of_hostKey {a : Nat} (h : isHostKey a = true) : spaceOf a = none ∨ ∃ w p, spaceOf a = some (.host w p) := by
  simp only [isHostKey, decide_eq_true_eq] at h
  unfold spaceOf
  rw [if_neg (by omega), if_neg (by omega), if_neg (by omega), if_neg (by omega), if_neg (by omega), if_neg (by omega), if_neg (by omega), if_neg (by omega),
    if_neg (by omega), if_pos (by omega)]
  split
  · exact .inr ⟨_, _, rfl⟩
  · exact .inl rfl

theorem placed_not_host (h : placed s o k n false) : isHostKey o.addr.toNat = false := by
  cases hh : isHostKey o.addr.toNat with
  | false => rfl
  | true =>
    unfold placed at h
    rcases spaceOf_of_hostKey hh with hs | ⟨w, p, hs⟩
    · rw [hs] at h; exact h.elim
    · rw [hs] at h; exact h.elim

theorem placed_not_far (h : placed s o k n false) : s.farPlace o = false := by
  unfold placed at h
  unfold State.farPlace
  split
  · next d p hs =>
    rw [hs] at h
    exact h.1
  · rfl

theorem memGets_eq_map (m : List Host.Cell) (a n : Nat) : memGets m a n = (List.range n).map fun i => memGet (a + i) m := by
  induction n generalizing a with
  | zero => rfl
  | succ n ih =>
    rw [memGets, ih, List.range_succ_eq_map, List.map_cons, List.map_map]
    simp [Function.comp_def, Nat.add_assoc, Nat.add_comm 1]

/-- Outside its tables base-camp memory shows the bytes that stand there. -/
theorem campBytes_eq {p : Nat} (h : ∀ i, i < n → s.campTable ((p + i) / 8 * 8) = none) : s.campBytes p n = s.bytes (campKey p) n := by
  rw [State.campBytes, State.bytes, memGets_eq_map]
  refine List.map_congr_left fun i hi => ?_
  rw [h i (List.mem_range.mp hi)]
  simp only [State.byte, campKey, Nat.add_assoc]

theorem keyBytes_sound (he : s.eccIn [(k, n)] = none) : s.keyBytes k n = .bytes s (s.bytes k n) := by rw [State.keyBytes, he]

theorem keyBytes_poisoned (he : s.eccIn [(k, n)] = some v) : s.keyBytes k n = .bad 0x30 v := by rw [State.keyBytes, he]

/-- At a place of its own a load reads the bytes there, unless a word among them is poisoned. -/
theorem readAccess_placed (h : placed s o k n false) :
    (s.keyBytes k n = .bytes s (s.bytes k n) → s.readAccess o n = .bytes s (s.bytes k n)) ∧
    (s.keyBytes k n = .bad 0x30 v → s.readAccess o n = .bad 0x30 v) := by
  unfold placed at h
  unfold State.readAccess
  split at h
  · next p hs =>
    subst h
    simp only [hs]
    exact ⟨id, id⟩
  · next d p hs =>
    obtain ⟨-, rfl, hl⟩ := h
    simp only [hs]
    rw [if_neg fun hc => Bool.false_ne_true ((hl hc.1).symm.trans hc.2)]
    exact ⟨id, id⟩
  · next j p hs =>
    subst h
    simp only [hs]
    exact ⟨id, id⟩
  · next p hs =>
    obtain ⟨rfl, hb, ht⟩ := h
    simp only [hs]
    rw [hb]
    refine ⟨fun hk => ?_, fun hk => by rw [hk]; rfl⟩
    rw [hk, ← campBytes_eq ht]
    rfl
  · exact h.elim

theorem readAccess_sound (h : placed s o k n false) (he : s.eccIn [(k, n)] = none) : s.readAccess o n = .bytes s (s.bytes k n) :=
  (readAccess_placed (v := 0) h).1 (keyBytes_sound he)

theorem readAccess_poisoned (h : placed s o k n false) (he : s.eccIn [(k, n)] = some v) : s.readAccess o n = .bad 0x30 v :=
  (readAccess_placed h).2 (keyBytes_poisoned he)

end

/-! ### What a performed load leaves (R116, R404) -/

section
variable (s : State) (o : Op) (a n : Nat)

theorem steady_noteLoad {β : Type} {g : State → β} (hg : Steady g) : g (s.noteLoad o a n) = g s := (hg.modThread ..).trans (hg.watch ..)

theorem noteLoad_ops : (s.noteLoad o a n).ops = s.ops := by
  obtain ⟨t, d, e, h⟩ := watch_eq s o.core (s.thread o.core o.slot).x o.slot a n 0
  rw [State.noteLoad, h]
  rfl

/-- The thread of a load keeps all but its signature. -/
theorem noteLoad_owner : ∃ g, owner (s.noteLoad o a n) o = { owner s o with sigHere := g } := by
  obtain ⟨t, d, e, h⟩ := watch_eq s o.core (s.thread o.core o.slot).x o.slot a n 0
  rw [State.noteLoad, h, State.noteSig, owner, modThread_same]
  split
  · exact ⟨_, rfl⟩
  · exact ⟨(owner s o).sigHere, rfl⟩

theorem overlay_empty {t : Thread} (h : t.buf = []) (b : List Byte) : overlay t a b = b := by
  rw [overlay, h]
  rfl

end

/-! ### Vector registers that are filled (R227, R277, R299) -/

section
variable (s : State) (o : Op)

theorem fillV_vreg {r : Nat} (x : BitVec 4096) (h : o.dest = .vregs [r]) : Table.get 0 r ((s.fillV o [x]).core o.core).vreg = x := by
  rw [State.fillV, h]
  simp [Table.get_set]

theorem fillV_thread (xs : List (BitVec 4096)) (c h : Nat) : (s.fillV o xs).thread c h = s.thread c h := by
  unfold State.fillV
  split <;> rfl

theorem fillV_mem (xs : List (BitVec 4096)) : (s.fillV o xs).mem = s.mem := by
  unfold State.fillV
  split <;> rfl

theorem fillV_ops (xs : List (BitVec 4096)) : (s.fillV o xs).ops = s.ops := by
  unfold State.fillV
  split <;> rfl

theorem fillStands_steady {β : Type} {g : State → β} (hg : Unmoved g) : g (s.fillStands o) = g s := by
  unfold State.fillStands
  split
  · exact hg.ops s _
  · rfl

theorem core_congr {s t : State} (h : t.cores = s.cores) (c : Nat) : t.core c = s.core c := by rw [State.core, h]; rfl

/-- A vector load's fill: the register has the value, and memory stands. -/
theorem filled_vreg {r : Nat} (x : BitVec 4096) (v : Word) (h : o.dest = .vregs [r]) :
    Table.get 0 r ((((s.fillV o [x]).fillStands o).complete o v).core o.core).vreg = x := by
  rw [core_congr ((steady_cores.complete ..).trans (fillStands_steady _ _ steady_cores.toUnmoved)), fillV_vreg _ _ _ h]

theorem filled_mem (xs : List (BitVec 4096)) (v : Word) : (((s.fillV o xs).fillStands o).complete o v).mem = s.mem :=
  ((steady_mem.complete ..).trans (fillStands_steady _ _ steady_mem.toUnmoved)).trans (fillV_mem ..)

end

/-! ### The steps of a load (R30, R225, R227, R297, R434) -/

section
variable {s : State} {o : Op}

/-- The step of an operation is what its kind says of it. -/
theorem exec_loadDataReturn (ho : about s o) (hk : o.kind = .load ∨ o.kind = .vload) : exec .loadDataReturn s = .next (s.serveLoad o) := by
  have hexec : exec .loadDataReturn s = execLoadDataReturn s := rfl
  unfold about at ho
  rw [hexec, execLoadDataReturn, ho]
  rcases hk with hk | hk <;> simp only [hk]

theorem exec_longResultReady (ho : about s o) (hk : o.kind = .long) : exec .longResultReady s = .next (s.complete o (o.data.setWidth 64)) := by
  have hexec : exec .longResultReady s = execLongResultReady s := rfl
  unfold about at ho
  rw [hexec, execLongResultReady, ho]
  simp only [hk, if_true]

theorem exec_vectorResultWrite (ho : about s o) (hk : o.kind = .vec) :
    exec .vectorResultWrite s = .next ((s.fillV o (o.more.map fun v => BitVec.ofNat 4096 v)).complete o (o.data.setWidth 64)) := by
  have hexec : exec .vectorResultWrite s = execVectorResultWrite s := rfl
  unfold about at ho
  rw [hexec, execVectorResultWrite, ho]
  simp only [hk, if_true]

theorem exec_feRetry (ho : about s o) :
    exec .feRetry s = .next (if o.kind = .fe ∧ o.at_ = 3 ∧ o.exp.toNat ≤ s.dev.clock then s.setOp { o with at_ := 0 } else s) := by
  have hexec : exec .feRetry s = execFeRetry s := rfl
  unfold about at ho
  rw [hexec, execFeRetry, ho]

/-- A plain load at a place of its own is what its bytes make of it. -/
theorem serveLoad_placed {k : Nat} (hv : ¬ (o.kind = .vload ∧ o.aop ≠ 0)) (hp : placed s o k o.n false) (he : s.eccIn [(k, o.n)] = none) :
    s.serveLoad o = s.loaded o (s.bytes k o.n) := by
  rw [State.serveLoad, if_neg hv, if_neg (by rw [placed_not_far hp]; exact Bool.false_ne_true),
    if_neg (by rw [placed_not_host hp]; exact Bool.false_ne_true), readAccess_sound hp he]

theorem serveLoad_poisoned {k v : Nat} (hv : ¬ (o.kind = .vload ∧ o.aop ≠ 0)) (hp : placed s o k o.n false) (he : s.eccIn [(k, o.n)] = some v) :
    s.serveLoad o = s.failOp o 0x30 (BitVec.ofNat 64 v) := by
  rw [State.serveLoad, if_neg hv, if_neg (by rw [placed_not_far hp]; exact Bool.false_ne_true),
    if_neg (by rw [placed_not_host hp]; exact Bool.false_ne_true), readAccess_poisoned hp he]

/-- A converting or indexed load fills its register with the elements it has read (R227, R297). -/
theorem serveLoad_elems (hv : o.kind = .vload ∧ o.aop ≠ 0) (he : s.eccIn ((s.loadElems o).2.map fun p => (spKey o.core p.1, p.2)) = none) :
    s.serveLoad o = (((((s.loadElems o).2.foldl (fun s r => s.noteLoad o (spKey o.core r.1) r.2) s).fillV o [(s.loadElems o).1]).fillStands o).complete o 0) := by
  rw [State.serveLoad, if_pos hv]
  dsimp only
  rw [he]

theorem serveLoad_host (hk : o.kind = .load) (hh : isHostKey o.addr.toNat = true) (hat : o.at_ = 0) :
    s.serveLoad o = (s.setOp { o with at_ := 1 }).modSched fun q => { q with out := q.out ++ [.read o.id (s.hostAddr o.addr.toNat) o.n] } := by
  have hfar : s.farPlace o = false := by
    rw [State.farPlace]
    rcases spaceOf_of_hostKey hh with hs | ⟨w, p, hs⟩ <;> rw [hs]
  rw [State.serveLoad, if_neg (by simp [hk]), hfar, hh, if_neg Bool.false_ne_true, if_pos rfl, if_pos hat]

/-- The bytes of a load that no buffered store of its own task covers. -/
theorem loaded_plain (b : List Byte) (hb : o.dropped = true ∨ (owner s o).buf = []) :
    s.loaded o b =
      if o.kind = .vload then ((((s.noteLoad o (accessName o.core o.addr.toNat) b.length).fillV o [BitVec.ofNat 4096 (ofBytes b)]).fillStands o).complete o 0)
      else (s.noteLoad o (accessName o.core o.addr.toNat) b.length).complete o (loadValue o b) := by
  have hover : (if o.dropped then b else overlay (s.thread o.core o.slot) (accessName o.core o.addr.toNat) b) = b := by
    split
    · rfl
    · next hd => exact overlay_empty _ (hb.resolve_left hd) b
  rw [State.loaded, hover]

end

theorem loadReturns : LoadReturns := by
  intro s o ho th
  refine ⟨fun k hk hp he hd hb => ?_, fun k hk ha hp he hb r hr => ?_, fun k v hk hp hh he => ?_, fun hk ha r hr he => ?_, fun hk hh hat => ?_,
    fun hk => exec_longResultReady ho hk, fun hk r v hr hm hrun => ?_, fun hk hat hexp => ?_, fun hk hat hexp => ?_⟩
  · have hv : ¬ (o.kind = .vload ∧ o.aop ≠ 0) := by simp [hk]
    obtain ⟨g, hg⟩ := noteLoad_owner s o (accessName o.core o.addr.toNat) (s.bytes k o.n).length
    refine ⟨_, ?_, steady_noteLoad s o _ _ steady_mem, noteLoad_ops .., by rw [hg], by rw [hg]⟩
    rw [exec_loadDataReturn ho (.inl hk), serveLoad_placed hv hp he, loaded_plain _ (.inr hb), if_neg (by simp [hk])]
    rfl
  · refine ⟨_, exec_loadDataReturn ho (.inr hk), ?_⟩
    rw [serveLoad_placed (by simp [ha]) hp he, loaded_plain _ hb, if_pos hk]
    exact ⟨filled_vreg _ _ _ _ hr, (filled_mem ..).trans (steady_noteLoad s o _ _ steady_mem)⟩
  · have hv : ¬ (o.kind = .vload ∧ o.aop ≠ 0) := by
      rcases hk with hk | ⟨-, ha⟩
      · simp [hk]
      · simp [ha]
    rw [exec_loadDataReturn ho (hk.imp_right And.left), serveLoad_poisoned hv hp he]
  · refine ⟨_, exec_loadDataReturn ho (.inr hk), ?_⟩
    rw [serveLoad_elems ⟨hk, ha⟩ he]
    exact ⟨filled_vreg _ _ _ _ hr, (filled_mem ..).trans (foldl_keeps State.mem (fun s p => steady_noteLoad s o _ _ steady_mem) _ s)⟩
  · refine ⟨_, exec_loadDataReturn ho (.inl hk), ?_⟩
    rw [serveLoad_host hk hh hat]
    exact ⟨rfl, rfl, rfl⟩
  · refine ⟨_, exec_vectorResultWrite ho hk, ?_⟩
    have hrest : (owner (s.fillV o [BitVec.ofNat 4096 v]) o).restart = false := by rw [owner, fillV_thread]; exact hrun
    rw [hm, List.map_cons, List.map_nil, core_congr (steady_cores.complete ..), steady_mem.complete, complete_of_running _ _ _ hrest, giveValue_ops, dropOp_ops]
    exact ⟨fillV_vreg _ _ _ hr, fillV_mem .., by rw [fillV_ops]⟩
  · rw [exec_feRetry ho, if_pos ⟨hk, hat, hexp⟩]
  · rw [exec_feRetry ho, if_neg fun hc => absurd hc.2.2 (Nat.not_le.mpr hexp)]

end Sys2Proof.Machine

/-! # Stores are acknowledged, and banks serve their requests (R40, R84, R86, R90, R91, R112, R233, R234). -/

namespace Sys2Proof.Machine

open Sys2Proof.Claims

/-! ### Stores (R40, R112) -/

section
variable {s : State} {o : Op}

theorem exec_storeAck (ho : about s o) (hk : o.kind = .store ∨ o.kind = .vstore) : exec .storeAck s = .next (s.serveStore o) := by
  have hexec : exec .storeAck s = execStoreAck s := rfl
  unfold about at ho
  rw [hexec, execStoreAck, ho]
  exact congrArg Host.Outcome.next (if_pos hk)

theorem serveStore_done (h : o.at_ = 1 ∨ o.pieces = []) : s.serveStore o = s.complete o 0 := if_pos h

/-- A store of one piece that has its place stands in the commit buffer of its task. -/
theorem serveStore_buffers {b : BufStore} {k : Nat} (hat : o.at_ = 0) (hser : (owner s o).serial = false) (hp : o.pieces = [b]) (hk : s.placePiece o b = .ok k) :
    s.serveStore o = (s.modThread o.core o.slot fun t => { t with buf := t.buf ++ [{ b with key := k, sb := o.sb }] }).complete o 0 := by
  unfold owner at hser
  rw [State.serveStore, if_neg (by simp [hat, hp]), hp]
  simp [hk, hser]

theorem serveStore_faults {b : BufStore} {code : Nat} (hat : o.at_ = 0) (hp : o.pieces = [b]) (hk : s.placePiece o b = .bad code) :
    s.serveStore o = s.failOp o code b.va := by
  rw [State.serveStore, if_neg (by simp [hat, hp]), hp]
  simp [hk]

end

/-! ### Accesses of other cores' scratchpads (R86) -/

section
variable {s : State} {o : Op} {d p : Nat} (ho : about s o) (hs : spaceOf o.addr.toNat = some (.other d p)) (hd : d ≠ o.core)

section
include ho hs hd

theorem exec_remote_load (hk : o.kind = .load) : exec .remoteScratchpadAccess s = .next (s.serveLoad o) := by
  have hexec : exec .remoteScratchpadAccess s = execRemoteScratchpadAccess s := rfl
  unfold about at ho
  rw [hexec, execRemoteScratchpadAccess, ho]
  dsimp only
  rw [hs]
  dsimp only
  rw [if_neg hd, hk]

theorem exec_remote_atomic (hk : o.kind = .atomic) : exec .remoteScratchpadAccess s = .next (s.serveAtomic o) := by
  have hexec : exec .remoteScratchpadAccess s = execRemoteScratchpadAccess s := rfl
  unfold about at ho
  rw [hexec, execRemoteScratchpadAccess, ho]
  dsimp only
  rw [hs]
  dsimp only
  rw [if_neg hd, hk]

end

include hs

theorem placed_remote (hf : s.farHome (owner s o) d p o.n = false) (hl : s.farLock d p o.n false = false) : placed s o (spKey d p) o.n false := by
  rw [placed, hs]
  exact ⟨hf, rfl, fun _ => hl⟩

include hd

/-- A load that a lock there blocks waits (R86). -/
theorem serveLoad_locked (hk : o.kind = .load) (hf : s.farHome (owner s o) d p o.n = false) (hl : s.farLock d p o.n false = true) : s.serveLoad o = s := by
  have hfar : s.farPlace o = false := by
    rw [State.farPlace, hs]
    exact hf
  have hhost : isHostKey o.addr.toNat = false := by
    cases hh : isHostKey o.addr.toNat with
    | false => rfl
    | true => rcases spaceOf_of_hostKey hh with h | ⟨w, q, h⟩ <;> cases hs.symm.trans h
  have hread : s.readAccess o o.n = .waits s := by
    rw [State.readAccess, hs]
    exact if_pos ⟨hd, hl⟩
  rw [State.serveLoad, if_neg (by simp [hk]), hfar, hhost, hread]
  rfl

/-- An atomic on a fixed line of another core faults (R131). -/
theorem serveAtomic_subscribed (hf : s.farHome (owner s o) d p o.n = false) (hl : s.farLock d p o.n true = false) (hh : s.subHit d p o.n = true) :
    s.serveAtomic o = s.failOp o 0x18 o.addr := by
  unfold owner at hf
  rw [State.serveAtomic, hs]
  simp only [hf, hl, hh, if_neg hd]
  rfl

end

/-! ### Atomics at a memory (R90, R228) -/

section
variable (s : State) (o : Op)

theorem spOf_poolKey (j p : Nat) : spOf (poolKey j p) = none := if_neg (by unfold poolKey; omega)

theorem updates_elsewhere {a n : Nat} (h : spOf a = none) : s.updates [(a, n)] = s := by
  have hnone : s.updatesOf [(a, n)] = [] := by simp [State.updatesOf, h, distinct]
  rw [State.updates, hnone]
  rfl

theorem land_elsewhere_mem {c a : Nat} (b : List Byte) (h : spOf a = none) : (s.land c a b).mem = memPuts (s.fwd a) b s.mem := by
  rw [State.land, updates_elsewhere _ h, State.lay, h]
  dsimp only
  split <;> rfl

/-- The state of an atomic that has been performed, before its result goes on its way (R96, R116). -/
def State.atomicNoted : State := (s.noteSig o (accessName o.core o.addr.toNat) o.n).afterAtomic o

theorem atomicNoted_eq : ∃ x y, s.atomicNoted o = { s with threads := x, cores := y } := by
  unfold State.atomicNoted State.afterAtomic
  split
  · exact ⟨_, _, rfl⟩
  · exact ⟨_, s.cores, rfl⟩

theorem atomicDone_eq (v : Word) : s.atomicDone o v = (s.atomicNoted o).complete o v := rfl

theorem atomicNoted_mem : (s.atomicNoted o).mem = s.mem := by
  obtain ⟨x, y, h⟩ := atomicNoted_eq s o
  rw [h]

theorem atomicNoted_full : (s.atomicNoted o).full = s.full := by
  obtain ⟨x, y, h⟩ := atomicNoted_eq s o
  rw [h]

theorem atomicDone_bankWait (v : Word) : (s.atomicDone o v).bankWait = s.bankWait := by
  obtain ⟨x, y, h⟩ := atomicNoted_eq s o
  rw [atomicDone_eq, steady_bankWait.complete, h]

/-- An atomic at a place outside the scratchpads: the old value is its result, and the new one stands in memory. -/
theorem atomicAt_elsewhere {k : Nat} (hsp : spOf k = none) (hfwd : s.fwd k = k) (he : s.eccIn [(k, o.n)] = none) :
    ∃ t : State, s.atomicAt o k = t.complete o (BitVec.ofNat 64 (s.word k o.n)) ∧
      t.mem = memPuts k (toBytes o.n (atomicValue o.aop (s.word k o.n) o.data.toNat o.exp.toNat)) s.mem := by
  rw [State.atomicAt, hfwd, he]
  exact ⟨_, rfl, (atomicNoted_mem ..).trans ((steady_mem.watch ..).trans ((land_elsewhere_mem _ _ hsp).trans (by rw [hfwd])))⟩

variable {s o}

theorem exec_loadDataReturn_atomic (ho : about s o) (hk : o.kind = .atomic ∨ o.kind = .fe) (hat : o.at_ = 0) :
    exec .loadDataReturn s = .next (s.serveAtomic o) := by
  have hexec : exec .loadDataReturn s = execLoadDataReturn s := rfl
  unfold about at ho
  rw [hexec, execLoadDataReturn, ho]
  rcases hk with hk | hk <;> simp only [hk, hat, if_true]

theorem serveAtomic_pool {j p : Nat} (hs : spaceOf o.addr.toNat = some (.pool j p)) : s.serveAtomic o = s.atomicAt o (poolKey j p) := by
  rw [State.serveAtomic, hs]

theorem serveAtomic_camp {p : Nat} (hs : spaceOf o.addr.toNat = some (.camp p)) (hb : s.bankPending o.core (bankOf p) o.id = false) :
    s.serveAtomic o = { s.setOp { o with at_ := 1 } with bankQ := Table.set (bankOf p) (Table.get [] (bankOf p) s.bankQ ++ [.op o.id]) s.bankQ } := by
  rw [State.serveAtomic, hs]
  simp only [hb]
  rfl

end

/-! ### Full/empty requests at their bank (R91, R233, R234) -/

section
variable {s : State} {o : Op} {tell : State → Nat → Nat → Word → State}

theorem opById_id (ho : about s o) : s.opById o.id = some o := by
  unfold about State.opById at ho
  have hid : o.id = s.arg.id := by simpa using List.find?_some ho
  rw [State.opById, hid]
  exact ho

/-- The word of a full/empty request (R233). -/
def Op.feWord (o : Op) : Nat := o.addr.toNat % 0x10000000

/-- The word's bit is empty, or it holds a value and its bit is full (R233). -/
def State.emptied (s : State) (p : Nat) : State := { s with full := s.full.filter (· != p) }
def State.filled (s : State) (p : Nat) (v : Word) : State := { s.put (campKey p) (toBytes 8 v.toNat) with full := p :: s.full.filter (· != p) }

/-- The bank has no request left. -/
def State.bankTaken (s : State) (b : Nat) : State := { s with bankQ := Table.set b [] s.bankQ }

/-- A bank posts the result of a packet in its submission queue (R362). -/
def postResult (s : State) (q i : Nat) (w : Word) : State := s.postCompletion q i 0 w.toNat

theorem watch_unwatched {c x : Nat} (h : (s.ctx c x).cnt.watch = []) (i va n kind : Nat) : s.watch c x i va n kind = s := by
  rw [State.watch, h]
  rfl

/-- The step of a bank whose only request is `r`. -/
theorem exec_bankOperation {b : Nat} {r : BankReq} (hq : Table.get [] b s.bankQ = [r]) (hb : s.arg.n = b) :
    exec .bankOperation s = .next ((s.bankTaken b).bankTake postResult b r) := by
  have hexec : exec .bankOperation s = execBankOperation s := rfl
  rw [hexec, execBankOperation, hb, hq]
  rfl

theorem bankWake_idle {b : Nat} (h : Table.get [] b s.bankWait = []) (p f : Nat) : s.bankWake tell b p f = s := by
  cases f with
  | zero => rfl
  | succ f =>
    rw [State.bankWake, h]
    rfl

section
variable (ho : s.opById o.id = some o) (hk : o.kind = .fe) (hw : (s.ctx o.core (owner s o).x).cnt.watch = [])
include ho hk hw

theorem bankServe_takes (ha : o.aop = 0) (hfull : o.feWord ∈ s.full) (he : s.eccIn [(campKey o.feWord, 8)] = none) :
    s.bankServe tell (.op o.id) =
      some ((s.emptied o.feWord).atomicDone o (BitVec.ofNat 64 (s.word (campKey o.feWord) 8)), true) := by
  unfold Op.feWord at hfull he ⊢
  unfold owner at hw
  rw [State.bankServe, ho]
  simp [hk, watch_unwatched hw, ha, hfull, he, State.emptied]

theorem bankServe_puts (ha : o.aop ≠ 0) (hempty : o.feWord ∉ s.full) :
    s.bankServe tell (.op o.id) = some ((s.filled o.feWord (o.data.setWidth 64)).atomicDone o 0, true) := by
  unfold Op.feWord at hempty ⊢
  unfold owner at hw
  rw [State.bankServe, ho]
  simp [hk, watch_unwatched hw, ha, hempty, State.filled]

omit hw in
theorem bankServe_waits (ha : o.aop ≠ 0) (hfull : o.feWord ∈ s.full) : s.bankServe tell (.op o.id) = none := by
  unfold Op.feWord at hfull
  rw [State.bankServe, ho]
  simp [hk, ha, hfull]

end

/-- A request that is served, and that no other one waits behind. -/
theorem bankTake_serves {b : Nat} {r : BankReq} {t : State} (h : s.bankServe tell r = some (t, true)) (hw : Table.get [] b t.bankWait = []) :
    s.bankTake tell b r = t := by
  unfold State.bankTake
  simp only [h, if_true]
  exact bankWake_idle hw ..

/-- The operation's record with the state that its bank has left it in, and the time at which it may be sent again (R234). -/
def marked (o : Op) (n clock : Nat) (q : Op) : Op := if q.id = o.id then { q with at_ := n, exp := BitVec.ofNat 64 (clock + 256) } else q

section
variable {b : Nat} (ho : s.opById o.id = some o) (hnone : s.bankServe tell (.op o.id) = none) (haway : (s.ctx o.core (owner s o).x).away = false)
include ho hnone haway

/-- A request that cannot be served enters the waiting list while that has room (R234). -/
theorem bankTake_queues (hroom : (Table.get [] b s.bankWait).length < 256) :
    s.bankTake tell b (.op o.id) =
      { s with ops := s.ops.map (marked o 2 s.dev.clock), bankWait := Table.set b (Table.get [] b s.bankWait ++ [.op o.id]) s.bankWait } := by
  unfold owner at haway
  rw [State.bankTake, hnone]
  simp only [ho, haway]
  rw [if_neg Bool.false_ne_true, if_pos hroom]
  rfl

/-- A full list refuses it (R234). -/
theorem bankTake_refuses (hfull : 256 ≤ (Table.get [] b s.bankWait).length) :
    s.bankTake tell b (.op o.id) = { s with ops := s.ops.map (marked o 3 s.dev.clock) } := by
  unfold owner at haway
  rw [State.bankTake, hnone]
  simp only [ho, haway]
  rw [if_neg Bool.false_ne_true, if_neg (Nat.not_lt.mpr hfull)]
  rfl

end

theorem marked_id (o : Op) (n clock : Nat) (q : Op) : (marked o n clock q).id = q.id := by
  unfold marked
  split <;> rfl

theorem opById_marked (ho : s.opById o.id = some o) (n clock : Nat) :
    { s with ops := s.ops.map (marked o n clock) }.opById o.id = some { o with at_ := n, exp := BitVec.ofNat 64 (clock + 256) } := by
  unfold State.opById at ho ⊢
  have hid : ((fun q : Op => q.id == o.id) ∘ marked o n clock) = fun q => q.id == o.id := funext fun q => by
    simp only [Function.comp_apply, marked_id]
  rw [List.find?_map, hid, ho]
  exact congrArg some (if_pos rfl)

/-- What a bank makes of the full/empty request that is its only one (R233, R234). -/
theorem bank_serves_request {b : Nat} (ho : about s o) (hq : Table.get [] b s.bankQ = [.op o.id]) (hb : s.arg.n = b) (hk : o.kind = .fe)
    (hw : (s.ctx o.core (owner s o).x).cnt.watch = []) :
    (o.aop = 0 → o.feWord ∈ s.full → s.eccIn [(campKey o.feWord, 8)] = none → Table.get [] b s.bankWait = [] →
      ∃ t : State, exec .bankOperation s = .next (t.complete o (BitVec.ofNat 64 (s.word (campKey o.feWord) 8))) ∧ o.feWord ∉ t.full ∧ t.mem = s.mem) ∧
    (o.aop ≠ 0 → o.feWord ∉ s.full → Table.get [] b s.bankWait = [] →
      ∃ t : State, exec .bankOperation s = .next (t.complete o 0) ∧ o.feWord ∈ t.full ∧
        t.mem = memPuts (campKey o.feWord) (toBytes 8 (o.data.setWidth 64).toNat) s.mem) ∧
    (o.aop ≠ 0 → o.feWord ∈ s.full → (Table.get [] b s.bankWait).length < 256 → (s.ctx o.core (owner s o).x).away = false →
      ∃ t : State, exec .bankOperation s = .next t ∧ Table.get [] b t.bankWait = Table.get [] b s.bankWait ++ [.op o.id] ∧ t.mem = s.mem ∧ t.threads = s.threads) ∧
    (o.aop ≠ 0 → o.feWord ∈ s.full → 256 ≤ (Table.get [] b s.bankWait).length → (s.ctx o.core (owner s o).x).away = false →
      ∃ (t : State) (q : Op), exec .bankOperation s = .next t ∧ t.opById o.id = some q ∧ q.at_ = 3 ∧ q.exp = BitVec.ofNat 64 (s.dev.clock + 256) ∧ t.mem = s.mem) := by
  have hid := opById_id ho
  rw [exec_bankOperation hq hb]
  refine ⟨fun ha hfull he hidle => ?_, fun ha hempty hidle => ?_, fun ha hfull hroom haway => ?_, fun ha hfull hlist haway => ?_⟩
  · have hserve := bankTake_serves (tell := postResult) (b := b) (bankServe_takes (s := s.bankTaken b) hid hk hw ha hfull he)
      ((congrArg (Table.get [] b) (atomicDone_bankWait ..)).trans hidle)
    refine ⟨((s.bankTaken b).emptied o.feWord).atomicNoted o, congrArg Host.Outcome.next hserve, ?_, atomicNoted_mem ..⟩
    rw [atomicNoted_full]
    simp [State.emptied]
  · have hserve := bankTake_serves (tell := postResult) (b := b) (bankServe_puts (s := s.bankTaken b) hid hk hw ha hempty)
      ((congrArg (Table.get [] b) (atomicDone_bankWait ..)).trans hidle)
    refine ⟨((s.bankTaken b).filled o.feWord (o.data.setWidth 64)).atomicNoted o, congrArg Host.Outcome.next hserve, ?_, atomicNoted_mem ..⟩
    rw [atomicNoted_full]
    exact List.mem_cons_self
  · refine ⟨_, congrArg Host.Outcome.next (bankTake_queues hid (bankServe_waits hid hk ha hfull) haway hroom), ?_, rfl, rfl⟩
    exact (Table.get_set ..).trans (if_pos rfl)
  · exact ⟨_, _, congrArg Host.Outcome.next (bankTake_refuses hid (bankServe_waits hid hk ha hfull) haway hlist), opById_marked hid .., rfl, rfl, rfl⟩

end

theorem storeReturns : StoreReturns := by
  intro s o ho th
  refine ⟨fun hk h => ?_, fun hk hat hser b k hp hplace => ?_, fun hk hat b code hp hplace => ?_, fun d p hs hd => ⟨?_, ?_, ?_⟩,
    fun j p hk hat hs hfwd he => ?_, fun p hk hat hs hb => ?_, fun b hq hb hk hw => ?_⟩
  · rw [exec_storeAck ho hk, serveStore_done h.symm]
  · refine ⟨s.modThread o.core o.slot fun t => { t with buf := t.buf ++ [{ b with key := k, sb := o.sb }] }, ?_, State.modThread_mem .., ?_⟩
    · rw [exec_storeAck ho hk, serveStore_buffers hat hser hp hplace]
    · rw [owner, modThread_same]
      rfl
  · rw [exec_storeAck ho hk, serveStore_faults hat hp hplace]
  · intro hk hf hl he hdrop hbuf
    refine ⟨s.noteLoad o (accessName o.core o.addr.toNat) (s.bytes (spKey d p) o.n).length, ?_, steady_noteLoad s o _ _ steady_mem⟩
    rw [exec_remote_load ho hs hd hk, serveLoad_placed (by simp [hk]) (placed_remote hs hf hl) he, loaded_plain _ (.inr hbuf), if_neg (by simp [hk])]
  · intro hk hf hl
    rw [exec_remote_load ho hs hd hk, serveLoad_locked hs hd hk hf hl]
  · intro hk hf hl hh
    rw [exec_remote_atomic ho hs hd hk, serveAtomic_subscribed hs hd hf hl hh]
  · rw [exec_loadDataReturn_atomic ho (.inl hk) hat, serveAtomic_pool hs]
    obtain ⟨t, ht, hmem⟩ := atomicAt_elsewhere s o (spOf_poolKey j p) hfwd he
    exact ⟨t, congrArg Host.Outcome.next ht, hmem⟩
  · rw [exec_loadDataReturn_atomic ho hk hat, serveAtomic_camp hs hb]
    exact ⟨_, rfl, (Table.get_set ..).trans (if_pos rfl), rfl, rfl⟩
  · obtain ⟨htake, hput, hwait, hrefuse⟩ := bank_serves_request ho hq hb hk hw
    exact ⟨fun ha hfull he _ => htake ha hfull he, hput, hwait, hrefuse⟩

/-- Settles O42: an operation that ends leaves and gives its value or its fault; each step of a memory is then what it does before that. -/
theorem operationsEnd : Obligations.OperationsEnd := ⟨operationCompletes, operationFails, loadReturns, storeReturns⟩

end Sys2Proof.Machine

/-! # Requests of other devices are answered: messages, ropes and threads' homes (R37, R246, R255 to R261, R269, R345, R439). -/

namespace Sys2Proof.Machine

open Sys2Proof.Claims

/-! ### An answer leaves (R137, R438) -/

/-- What is queued for the other devices stands in a state as in another. -/
structure SameLine (s r : State) : Prop where
  sentTo : r.sched.sentTo = s.sched.sentTo
  heldBack : r.sched.heldBack = s.sched.heldBack
  fabric : r.sched.fabric = s.sched.fabric
  devno : r.dev.devno = s.dev.devno
  rtInj : r.dev.rtInj = s.dev.rtInj

theorem SameLine.refl (s : State) : SameLine s s := ⟨rfl, rfl, rfl, rfl, rfl⟩

theorem sendPacket_parts (s : State) (p : Packet) : ∃ f l b o,
    s.sendPacket p = { s with sched := { s.sched with fabric := f, sentTo := l, heldBack := b }, dev := { s.dev with occ := o } } := by
  unfold State.sendPacket
  dsimp only
  split
  · exact ⟨_, _, _, s.dev.occ, rfl⟩
  · exact ⟨_, _, _, _, rfl⟩

section
variable {s r : State} (h : SameLine s r)
include h

theorem replied_sendPacket (tag ty : Nat) (body : List Byte) :
    replied s (r.sendPacket { dst := s.arg.c, cls := 1, ty := ty, tag := tag, bank := 0, body := body }) tag ty body := by
  obtain ⟨hsent, hheld, hfabric, hdev, hinj⟩ := h
  unfold replied State.sendPacket
  dsimp only
  rw [hsent, hheld, hdev, hinj]
  split
  · exact ⟨congrArg (· ++ _) hheld, hfabric⟩
  · exact ⟨congrArg (· ++ _) hfabric, hheld⟩

theorem acks_ack (ws : List Word) : acks s (r.ack s.arg.c s.arg.id ws) ws := replied_sendPacket h ..

end

/-- A part of the state in which neither packets nor device registers stand is the same once a packet has left. -/
theorem sendPacket_keeps {β : Type} {g : State → β} (hg : ∀ s q d, g { s with sched := q, dev := d } = g s) (s : State) (p : Packet) :
    g (s.sendPacket p) = g s := by
  obtain ⟨q, d, r, heq, -⟩ := sendPacket_eq s p
  rw [heq, hg]

section
variable (s : State) (c i : Nat) (ws : List Word)

@[simp] theorem ack_mem : (s.ack c i ws).mem = s.mem := sendPacket_keeps (g := State.mem) (fun _ _ _ => rfl) ..
@[simp] theorem ack_threads : (s.ack c i ws).threads = s.threads := sendPacket_keeps (g := State.threads) (fun _ _ _ => rfl) ..
@[simp] theorem ack_ctxs : (s.ack c i ws).ctxs = s.ctxs := sendPacket_keeps (g := State.ctxs) (fun _ _ _ => rfl) ..
@[simp] theorem ack_ropes : (s.ack c i ws).ropes = s.ropes := sendPacket_keeps (g := State.ropes) (fun _ _ _ => rfl) ..
@[simp] theorem ack_ctx (d x : Nat) : (s.ack c i ws).ctx d x = s.ctx d x := by rw [State.ctx, ack_ctxs]; rfl
@[simp] theorem ack_rope (n : Nat) : (s.ack c i ws).rope n = s.rope n := by rw [State.rope, ack_ropes]; rfl

@[simp] theorem ack_joiners : (s.ack c i ws).sched.joiners = s.sched.joiners := by
  obtain ⟨f, l, b, o, heq⟩ := sendPacket_parts s { dst := c, cls := 1, ty := 11, tag := i, bank := 0, body := ws.flatMap fun w => toBytes 8 w.toNat }
  rw [State.ack, heq]

@[simp] theorem ack_abroad : (s.ack c i ws).sched.abroad = s.sched.abroad := by
  obtain ⟨f, l, b, o, heq⟩ := sendPacket_parts s { dst := c, cls := 1, ty := 11, tag := i, bank := 0, body := ws.flatMap fun w => toBytes 8 w.toNat }
  rw [State.ack, heq]

end

/-! ### Messages for a thread's queue register (R269, R345) -/

section
variable {s : State}

/-- The message that arrives, once its thread has been looked for. -/
def State.messageRouted (s : State) : State × Delivery :=
  s.routeMsg (s.argW 0).toNat (s.argW 1).toNat (s.argW 2) s.arg.id s.arg.c (s.argW 3).toNat

theorem exec_evhMessage_held (h0 : s.argN 0 8 = 0) (hw : s.sourceWaits isMessage = true) : exec .evhMessage s = .next (s.packetLater .evhMessage s.arg) := by
  have hexec : exec .evhMessage s = execEvhMessage s := rfl
  rw [hexec, execEvhMessage]
  dsimp only
  rw [if_pos h0, if_pos hw]

theorem exec_evhMessage_status {v : Word} {r : State} (h0 : s.argN 0 8 = 0) (hw : s.sourceWaits isMessage = false) (hok : s.arg.ok = false)
    (hr : s.messageRouted = (r, .status v)) : exec .evhMessage s = .next (r.ack s.arg.c s.arg.id [v]) := by
  have hexec : exec .evhMessage s = execEvhMessage s := rfl
  unfold State.messageRouted at hr
  rw [hexec, execEvhMessage]
  dsimp only
  rw [if_pos h0, if_neg (by rw [hw]; exact Bool.false_ne_true), if_neg (by simp [hok]), hr]

theorem messageRouted_here {d j : Nat} {b : Thread} (hj : j < 256)
    (hf : (s.threads.find? fun p => decide (p.2.st ≠ .empty) && thidOf p.2 == (s.argW 0).toNat) = some (256 * d + j, b)) (hl : b.leave = .no) :
    s.messageRouted = s.deliverMsg d b.x (s.argW 1).toNat (s.argW 2) s.arg.id s.arg.c (s.argW 3).toNat := by
  rw [State.messageRouted, State.routeMsg, hf]
  dsimp only
  rw [hl, show (256 * d + j) / 256 = d by omega]

section
variable {c x q : Nat} {v : Word} {op dev snd : Nat}

theorem deliverMsg_unshared (h : shareOk (s.core c).share x q 6 = false) :
    s.deliverMsg c x q v op dev snd = (s, .status (BitVec.ofNat 64 (2 ^ 63 + 5))) := if_pos (by rw [h]; rfl)

/-- A message enters its queue register where nothing waits before it and there is room (R345). -/
theorem deliverMsg_enters (h : shareOk (s.core c).share x q 6 = true) (ha : (s.ctx c x).away = false) (hl : (s.lease (s.ctx c x).l).area = [])
    (hq : (Table.get [] q (s.ctx c x).q).length < 16) (hb : ((s.core c).inbox.filter fun m => m.x == x && m.q == q) = []) :
    s.deliverMsg c x q v op dev snd =
      (s.setCtx c x { s.ctx c x with q := Table.set q (Table.get [] q (s.ctx c x).q ++ [.word v]) (s.ctx c x).q }, .status 0) := by
  unfold State.deliverMsg
  dsimp only
  rw [h, ha, hl, hb, if_neg (by decide), if_neg (by decide), if_neg (by exact Bool.false_ne_true), if_pos ⟨hq, rfl⟩]

end

theorem message_here {d j : Nat} {b : Thread} (h0 : s.argN 0 8 = 0) (hw : s.sourceWaits isMessage = false) (hok : s.arg.ok = false) (hj : j < 256)
    (hf : (s.threads.find? fun p => decide (p.2.st ≠ .empty) && thidOf p.2 == (s.argW 0).toNat) = some (256 * d + j, b)) (hl : b.leave = .no) :
    (shareOk (s.core d).share b.x (s.argW 1).toNat 6 = false →
      ∃ t : State, exec .evhMessage s = .next t ∧ acks s t [BitVec.ofNat 64 (2 ^ 63 + 5)] ∧ t.mem = s.mem ∧ t.ctxs = s.ctxs) ∧
    (shareOk (s.core d).share b.x (s.argW 1).toNat 6 = true → (s.ctx d b.x).away = false → (s.lease (s.ctx d b.x).l).area = [] →
      (Table.get [] (s.argW 1).toNat (s.ctx d b.x).q).length < 16 → ((s.core d).inbox.filter fun m => m.x == b.x && m.q == (s.argW 1).toNat) = [] →
      ∃ t : State, exec .evhMessage s = .next t ∧ acks s t [0] ∧ t.mem = s.mem ∧ t.threads = s.threads ∧
        Table.get [] (s.argW 1).toNat (t.ctx d b.x).q = Table.get [] (s.argW 1).toNat (s.ctx d b.x).q ++ [.word (s.argW 2)]) := by
  have hroute := messageRouted_here hj hf hl
  refine ⟨fun hs => ?_, fun hs ha hl hq hb => ?_⟩
  · exact ⟨_, exec_evhMessage_status h0 hw hok (hroute.trans (deliverMsg_unshared hs)), acks_ack (.refl s) _, ack_mem .., ack_ctxs ..⟩
  · refine ⟨_, exec_evhMessage_status h0 hw hok (hroute.trans (deliverMsg_enters hs ha hl hq hb)), ?_, ack_mem .., ack_threads .., ?_⟩
    · refine acks_ack ?_ _
      exact ⟨rfl, rfl, rfl, rfl, rfl⟩
    · simp [Table.get_set]

end

/-! ### Joins, and what is asked about ropes (R246, R255 to R261) -/

section
variable {s : State}

theorem exec_evhMessage_join (h1 : s.argN 0 8 = 1) : exec .evhMessage s = .next (
    ((s.allThreads ++ s.sched.abroad.map Prod.snd ++ s.savedThreads).find? fun t => thidOf t == (s.argW 0).toNat).elim (s.ack s.arg.c s.arg.id [0])
      fun t => s.modSched fun q => { q with joiners := q.joiners ++ [(s.arg.c, s.arg.id, (s.argW 0).toNat, t.uid)] }) := by
  have hexec : exec .evhMessage s = execEvhMessage s := rfl
  rw [hexec, execEvhMessage]
  dsimp only
  rw [if_neg (by omega), if_pos h1]
  cases (s.allThreads ++ s.sched.abroad.map Prod.snd ++ s.savedThreads).find? fun t => thidOf t == (s.argW 0).toNat <;> rfl

theorem exec_evhMessage_rope {code : Nat} {r : State} {ws : List Word} (hc : s.argN 0 8 = code) (h : 2 ≤ code ∧ code ≤ 5 ∨ code = 24)
    (hr : s.ropeAsked code = (r, some ws)) : exec .evhMessage s = .next (r.ack s.arg.c s.arg.id ws) := by
  have hexec : exec .evhMessage s = execEvhMessage s := rfl
  rw [hexec, execEvhMessage]
  dsimp only
  rw [hc, if_neg (by omega), if_neg (by omega), if_pos (by omega), hr]

theorem exec_evhMessage_rope_later {code : Nat} {r : State} (hc : s.argN 0 8 = code) (h : 2 ≤ code ∧ code ≤ 5 ∨ code = 24)
    (hr : s.ropeAsked code = (r, none)) : exec .evhMessage s = .next r := by
  have hexec : exec .evhMessage s = execEvhMessage s := rfl
  rw [hexec, execEvhMessage]
  dsimp only
  rw [hc, if_neg (by omega), if_neg (by omega), if_pos (by omega), hr]

/-- The rope and the member that a request about a rope names. -/
def State.askedRope (s : State) : Nat := bits (s.argW 1).toNat 0 10
def State.askedMember (s : State) : Nat := bits (s.argW 1).toNat 16 12

theorem ropeAsked_denied {code : Nat} (h2 : code ≠ 2) (h : s.ropeOfJob s.askedRope (s.argW 0).toNat = false) : s.ropeAsked code = (s, some [0x17]) := by
  unfold State.askedRope at h
  rw [State.ropeAsked, if_neg h2, h]
  rfl

section
variable (h : s.ropeOfJob s.askedRope (s.argW 0).toNat = true)
include h

theorem ropeAsked_join : s.ropeAsked 3 =
    if joinable (s.rope s.askedRope) s.askedMember then
      (s.ropeJoin s.askedRope s.askedMember s.arg.c (s.argW 3).toNat (s.argW 2).toNat, some [0, BitVec.ofNat 64 (s.rope s.askedRope).len])
    else (s, some [0x12]) := by
  unfold State.askedRope at h
  rw [State.ropeAsked, if_neg (by decide), h]
  rfl

theorem ropeAsked_wait : s.ropeAsked 4 =
    if (s.rope s.askedRope).st = 4 ∨ (s.rope s.askedRope).st = 0 then (s, some [0])
    else (s.modRope s.askedRope fun r => { r with away := r.away ++ [(s.arg.c, s.arg.id)] }, none) := by
  unfold State.askedRope at h
  rw [State.ropeAsked, if_neg (by decide), h]
  rfl

theorem ropeAsked_state : s.ropeAsked 5 =
    (s, some [0, BitVec.ofNat 64 (s.ropeReg s.askedRope 1), BitVec.ofNat 64 (s.ropeReg s.askedRope 3), BitVec.ofNat 64 (s.ropeReg s.askedRope 4)]) := by
  unfold State.askedRope at h
  rw [State.ropeAsked, if_neg (by decide), h]
  rfl

theorem ropeAsked_member : s.ropeAsked 24 =
    (s, some [0, BitVec.ofNat 64 (b2n (Table.get {} s.askedMember (s.rope s.askedRope).mem).cnt),
      BitVec.ofNat 64 (b2n (Table.get {} s.askedMember (s.rope s.askedRope).mem).j)]) := by
  unfold State.askedRope at h
  rw [State.ropeAsked, if_neg (by decide), h]
  rfl

end

end

/-! ### What is asked of a thread's home, and told of it (R37, R50, R105) -/

section
variable {s : State}

theorem exec_evhMessage_home {code : Nat} {r : State} {ws : List Word} (hc : s.argN 0 8 = code) (h : 10 ≤ code ∧ code ≤ 16)
    (hr : s.asked code = some (r, ws)) : exec .evhMessage s = .next (r.ack s.arg.c s.arg.id ws) := by
  have hexec : exec .evhMessage s = execEvhMessage s := rfl
  rw [hexec, execEvhMessage]
  dsimp only
  rw [hc, if_neg (by omega), if_neg (by omega), if_neg (by omega), if_pos h, hr]

theorem exec_evhMessage_told {code : Nat} (hc : s.argN 0 8 = code) (h : 6 ≤ code ∧ code ≤ 9 ∨ 17 ≤ code ∧ code ≠ 24) :
    exec .evhMessage s = .next ((s.told code).ack s.arg.c 0 []) := by
  have hexec : exec .evhMessage s = execEvhMessage s := rfl
  rw [hexec, execEvhMessage]
  dsimp only
  rw [hc, if_neg (by omega), if_neg (by omega), if_neg (by omega), if_neg (by omega)]

end

end Sys2Proof.Machine

/-! # Requests of other devices are answered: spawns, keyed pairs and contributions to ropes (R134, R244, R258, R259, R332, R346, R439). -/

namespace Sys2Proof.Machine

open Sys2Proof.Claims

/-! ### A thread that is placed (R26, R44, R236) -/

/-- What a grant of vector windows leaves of a thread: its place in the program and its home. -/
def samePlace (t u : Thread) : Prop := u.pc = t.pc ∧ u.hcore = t.hcore ∧ u.hslot = t.hslot ∧ u.hdev = t.hdev

theorem samePlace_refl (t : Thread) : samePlace t t := ⟨rfl, rfl, rfl, rfl⟩

theorem samePlace_trans {t u v : Thread} (h : samePlace t u) (h' : samePlace u v) : samePlace t v := by
  obtain ⟨h1, h2, h3, h4⟩ := h
  obtain ⟨k1, k2, k3, k4⟩ := h'
  exact ⟨k1.trans h1, k2.trans h2, k3.trans h3, k4.trans h4⟩

/-- Every thread has stayed where it is, and so have memory, the scheduler's part and the device registers. -/
structure SamePlaces (s r : State) : Prop where
  thread : ∀ c h, samePlace (s.thread c h) (r.thread c h)
  mem : r.mem = s.mem
  sched : r.sched = s.sched
  dev : r.dev = s.dev

theorem SamePlaces.refl (s : State) : SamePlaces s s := ⟨fun _ _ => samePlace_refl _, rfl, rfl, rfl⟩

theorem SamePlaces.trans {s r t : State} (h : SamePlaces s r) (h' : SamePlaces r t) : SamePlaces s t := by
  obtain ⟨h1, h2, h3, h4⟩ := h
  obtain ⟨k1, k2, k3, k4⟩ := h'
  exact ⟨fun c i => samePlace_trans (h1 c i) (k1 c i), k2.trans h2, k3.trans h3, k4.trans h4⟩

theorem samePlaces_modThread (s : State) (c h : Nat) {f : Thread → Thread} (hf : samePlace (s.thread c h) (f (s.thread c h))) :
    SamePlaces s (s.modThread c h f) := by
  refine ⟨fun d i => ?_, rfl, rfl, rfl⟩
  rw [State.modThread_thread]
  split
  · next he => rw [State.thread, he]; exact hf
  · exact samePlace_refl _

theorem samePlaces_modCore (s : State) (c : Nat) (f : Core → Core) : SamePlaces s (s.modCore c f) := ⟨fun _ _ => samePlace_refl _, rfl, rfl, rfl⟩

theorem samePlaces_granted (s : State) (c h n b : Nat) (r : List (Nat × Nat)) : SamePlaces s (s.granted c h n b r) := by
  refine (samePlaces_modCore ..).trans ((samePlaces_modCore ..).trans (samePlaces_modThread _ _ _ ?_))
  unfold grantTo
  split <;> exact ⟨rfl, rfl, rfl, rfl⟩

theorem samePlaces_grantV (s : State) (c f : Nat) : SamePlaces s (s.grantV c f) := by
  induction f generalizing s with
  | zero => exact .refl s
  | succ f ih =>
    unfold State.grantV
    split
    · exact .refl s
    · dsimp only
      split
      all_goals
        split
        · exact (samePlaces_modCore ..).trans (ih _)
        · split
          · exact .refl s
          · exact (samePlaces_granted ..).trans (ih _)

section
variable (s : State) (c x h : Nat) (pc : Word) (ks : List Word) (bpri : Nat) (mx sys xdev : Bool) (vw : Nat)

theorem samePlaces_openNext {s : State} {c h : Nat} (hf : (s.thread c h).hdev = s.dev.devno) : SamePlaces s (s.openNext c h) := by
  cases hd : (s.ctx c (s.thread c h).x).drain with
  | true =>
    rw [openNext_draining hd]
    exact samePlaces_modThread _ _ _ ⟨rfl, rfl, rfl, rfl⟩
  | false =>
    rw [openNext_here hd (by simp [State.foreign, hf])]
    exact samePlaces_modThread _ _ _ ⟨rfl, rfl, rfl, rfl⟩

/-- A placed thread stands at its entry in its slot, whatever it waits for. -/
theorem samePlaces_placeThread :
    SamePlaces (s.takesSlot c x h (s.newThread c x h pc ks bpri mx sys xdev vw)) (s.placeThread c x h pc ks bpri mx sys xdev vw) := by
  have hhome : ((s.takesSlot c x h (s.newThread c x h pc ks bpri mx sys xdev vw)).thread c h).hdev =
      (s.takesSlot c x h (s.newThread c x h pc ks bpri mx sys xdev vw)).dev.devno := by
    rw [takesSlot_thread]
    rfl
  have hopen : SamePlaces (s.takesSlot c x h (s.newThread c x h pc ks bpri mx sys xdev vw)) (s.placedThread c x h pc ks bpri mx sys xdev vw) :=
    (samePlaces_openNext hhome).trans (samePlaces_modThread _ _ _ ⟨rfl, rfl, rfl, rfl⟩)
  rw [placeThread_eq]
  split
  · exact hopen
  · exact hopen.trans ((samePlaces_modCore ..).trans (samePlaces_grantV ..))

/-- The thread that a placement leaves, and what it leaves alone. -/
theorem placeThread_stands (r : State) (hr : r = s.placeThread c x h pc ks bpri mx sys xdev vw) :
    (r.thread c h).pc = pc ∧ (r.thread c h).hcore = c ∧ (r.thread c h).hslot = h ∧ r.mem = s.mem ∧ r.sched = s.sched ∧ r.dev = s.dev := by
  subst hr
  obtain ⟨hthread, hmem, hsched, hdev⟩ := samePlaces_placeThread s c x h pc ks bpri mx sys xdev vw
  obtain ⟨hpc, hcore, hslot, -⟩ := hthread c h
  rw [takesSlot_thread] at hpc hcore hslot
  exact ⟨hpc, hcore, hslot, hmem, hsched, hdev⟩

end

/-! ### Spawns (R244, R439) -/

section
variable {s : State}

/-- The request of a spawn that another device sends (R439). -/
def State.spawnAsked (s : State) : SpawnReq :=
  { dev := s.arg.c, op := s.arg.id, pc := BitVec.ofNat 64 (s.argN 0 8), ks := (List.range 4).map fun i => BitVec.ofNat 64 (s.argN (8 + 8 * i) 8), desc := s.argN 40 4
    bpri := s.argN 47 1, job := s.argN 44 2, host := none, sys := bit (s.argN 46 1) 0, xdev := bit (s.argN 46 1) 1 }

/-- The core and context that the request is for. -/
def State.spawnCore (s : State) : Nat := bits (s.argN 40 4) 0 9
def State.spawnCtx (s : State) : Nat := if s.argN 47 1 = 7 then 1 else 0

theorem exec_evhSpawn {r : State} {v : Spawned} (hdev : s.arg.c ≠ s.dev.devno) (hr : s.trySpawn s.spawnCore s.spawnAsked = (r, v)) (hv : v ≠ .waits)
    (hrdev : r.dev = s.dev) :
    exec .evhSpawn s = .next (r.sendPacket { dst := s.arg.c, cls := 1, ty := 6, tag := s.arg.id, bank := 0, body := toBytes 8 (spawnValue v).toNat }) := by
  have hexec : exec .evhSpawn s = execEvhSpawn s := rfl
  have hanswer (w : Word) : r.answerSpawn s.spawnAsked w = r.sendPacket { dst := s.arg.c, cls := 1, ty := 6, tag := s.arg.id, bank := 0, body := toBytes 8 w.toNat } :=
    if_neg (by rw [hrdev]; exact hdev)
  unfold State.spawnCore State.spawnAsked at hr
  rw [hexec, execEvhSpawn]
  dsimp only
  rw [hr]
  cases v with
  | waits => exact absurd rfl hv
  | placed n => exact congrArg Host.Outcome.next (hanswer _)
  | refused n => exact congrArg Host.Outcome.next (hanswer _)

end

/-- The class of context that a request names (R439). -/
def SpawnReq.ctx (r : SpawnReq) : Nat := if r.bpri = 7 then 1 else 0

section
variable {s : State} {c : Nat} {r : SpawnReq}

theorem savedFor_none (h : s.sched.launches = []) (x : Nat) : s.savedFor c x r = none := by
  rw [State.savedFor, h]
  rfl

theorem trySpawn_nowhere (h : jobMatch (s.ctx c r.ctx) r = false) (h' : jobMatch (s.ctx c (1 - r.ctx)) r = false) (hl : s.sched.launches = []) :
    s.trySpawn c r = (s, .refused 4) := by
  unfold SpawnReq.ctx at h h'
  simp only [State.trySpawn, h, h', savedFor_none hl]
  rfl

section
variable (h : jobMatch (s.ctx c r.ctx) r = true)
include h

theorem trySpawn_barred (hb : (s.hctx (s.ctx c r.ctx).host).barred = true) : s.trySpawn c r = (s, .refused 2) := by
  unfold SpawnReq.ctx at h hb
  simp only [State.trySpawn, h, hb]
  rfl

variable (hb : (s.hctx (s.ctx c r.ctx).host).barred = false) (ha : (s.ctx c r.ctx).away = false) (hmx : bit r.desc 27 = false)
include hb ha hmx

theorem trySpawn_full (hf : s.freeSlot c r.ctx = none) : s.trySpawn c r = (s, .refused 1) := by
  unfold SpawnReq.ctx at h hb ha hf
  simp only [State.trySpawn, h, hb, ha, hmx, hf]
  rfl

/-- The state with the thread of a request placed, and counted in its launch (R397, R439). -/
def State.spawned (s : State) (c h : Nat) (r : SpawnReq) : State :=
  (s.placeThread c r.ctx h r.pc r.ks r.bpri false r.sys r.xdev (bits r.desc 24 3)).modLaunchLevel (s.ctx c r.ctx).host (s.ctx c r.ctx).launch
    fun l => { l with open_ := l.open_ + 1 }

theorem trySpawn_placed {i : Nat} (hf : s.freeSlot c r.ctx = some i) :
    s.trySpawn c r = (s.spawned c i r, .placed (thidOf ((s.spawned c i r).thread c i))) := by
  unfold SpawnReq.ctx at h hb ha hf
  simp only [State.trySpawn, h, hb, ha, hmx, hf]
  rfl

end

/-- The thread that a request has placed. -/
theorem spawned_stands (i : Nat) :
    ((s.spawned c i r).thread c i).pc = r.pc ∧ ((s.spawned c i r).thread c i).hcore = c ∧ ((s.spawned c i r).thread c i).hslot = i ∧
      (s.spawned c i r).mem = s.mem ∧ SameLine s (s.spawned c i r) ∧ (s.spawned c i r).dev = s.dev := by
  obtain ⟨hpc, hcore, hslot, hmem, hsched, hdev⟩ := placeThread_stands s c r.ctx i r.pc r.ks r.bpri false r.sys r.xdev (bits r.desc 24 3) _ rfl
  have hsent := congrArg Sched.sentTo hsched
  have hheld := congrArg Sched.heldBack hsched
  have hfabric := congrArg Sched.fabric hsched
  exact ⟨hpc, hcore, hslot, hmem, ⟨hsent, hheld, hfabric, congrArg Dev.devno hdev, congrArg Dev.rtInj hdev⟩, hdev⟩

end

/-! ### The answers to a spawn of another device (R244, R439) -/

section
variable {s : State} (hdev : s.arg.c ≠ s.dev.devno)
include hdev

theorem spawn_refused {n : Nat} (hr : s.trySpawn s.spawnCore s.spawnAsked = (s, .refused n)) :
    ∃ t : State, exec .evhSpawn s = .next t ∧ replied s t s.arg.id 6 (toBytes 8 (BitVec.ofNat 64 (2 ^ 63 + n)).toNat) ∧ t.mem = s.mem ∧ t.threads = s.threads :=
  ⟨_, exec_evhSpawn hdev hr nofun rfl, replied_sendPacket (.refl s) .., sendPacket_keeps (g := State.mem) (fun _ _ _ => rfl) ..,
    sendPacket_keeps (g := State.threads) (fun _ _ _ => rfl) ..⟩

theorem spawn_placed {i : Nat} (hr : s.trySpawn s.spawnCore s.spawnAsked =
      (s.spawned s.spawnCore i s.spawnAsked, .placed (thidOf ((s.spawned s.spawnCore i s.spawnAsked).thread s.spawnCore i)))) :
    ∃ t : State, exec .evhSpawn s = .next t ∧ replied s t s.arg.id 6 (toBytes 8 (BitVec.ofNat 64 (thidOf (t.thread s.spawnCore i))).toNat) ∧ t.mem = s.mem ∧
      (t.thread s.spawnCore i).pc = BitVec.ofNat 64 (s.argN 0 8) ∧ (t.thread s.spawnCore i).hcore = s.spawnCore ∧ (t.thread s.spawnCore i).hslot = i := by
  obtain ⟨hpc, hcore, hslot, hmem, hline, hsame⟩ := spawned_stands (s := s) (c := s.spawnCore) (r := s.spawnAsked) i
  refine ⟨_, exec_evhSpawn hdev hr nofun hsame, ?_, ?_, ?_, ?_, ?_⟩
  · rw [sendPacket_thread]
    exact replied_sendPacket hline ..
  · exact (sendPacket_keeps (g := State.mem) (fun _ _ _ => rfl) ..).trans hmem
  · rw [sendPacket_thread]; exact hpc
  · rw [sendPacket_thread]; exact hcore
  · rw [sendPacket_thread]; exact hslot

end

theorem exec_evhSpawnReply (s : State) : exec .evhSpawnReply s = .next ((s.answeredFrom s.arg.c).answer s.arg.id (BitVec.ofNat 64 (s.argN 0 8))) := rfl

/-- An answer lets packets go that were held back, and changes nothing else (R137). -/
theorem deliveredTo_eq (s : State) (d k : Nat) : ∃ q e, s.deliveredTo d k = { s with sched := q, dev := e } := by
  have hfold (l : List Packet) (r : State) : ∃ q e, l.foldl State.sendPacket r = { r with sched := q, dev := e } := by
    induction l generalizing r with
    | nil => exact ⟨r.sched, r.dev, rfl⟩
    | cons p l ih =>
      obtain ⟨q, e, x, heq, -⟩ := sendPacket_eq r p
      rw [List.foldl_cons, heq]
      exact ih _
  unfold State.deliveredTo
  dsimp only
  split
  · exact ⟨_, s.dev, rfl⟩
  · exact hfold _ _

end Sys2Proof.Machine

/-! # Requests of other devices are answered: keyed pairs, contributions to ropes, threads that arrive (R37, R105, R134, R258, R259, R332). -/

namespace Sys2Proof.Machine

open Sys2Proof.Claims

/-! ### Keyed pairs (R332, R346) -/

section
variable {s : State} {c x : Nat}

/-- The core, context and one pair of a packet of keyed pairs (R438). -/
def State.keyedCore (s : State) : Nat := s.argN 0 8
def State.keyedCtx (s : State) : Nat := s.argN 12 4
def State.keyedPair (s : State) : Pair := (BitVec.ofNat 32 (s.argN 16 4), BitVec.ofNat 32 (s.argN 20 4))

theorem exec_evhKeyedPairs_held (hw : s.sourceWaits isKeyed = true) : exec .evhKeyedPairs s = .next (s.packetLater .evhKeyedPairs s.arg) := by
  have hexec : exec .evhKeyedPairs s = execEvhKeyedPairs s := rfl
  rw [hexec, execEvhKeyedPairs, if_pos hw]

theorem exec_evhKeyedPairs_dropped (hw : s.sourceWaits isKeyed = false) (hj : s.jobContext s.keyedCore s.keyedCtx (s.argN 8 2) = none) :
    exec .evhKeyedPairs s = .next (s.ack s.arg.c s.arg.id [0]) := by
  have hexec : exec .evhKeyedPairs s = execEvhKeyedPairs s := rfl
  unfold State.keyedCore State.keyedCtx at hj
  rw [hexec, execEvhKeyedPairs, if_neg (by rw [hw]; exact Bool.false_ne_true), hj]

theorem exec_evhKeyedPairs_one {l : Nat} {r : State} (hw : s.sourceWaits isKeyed = false) (hj : s.jobContext s.keyedCore s.keyedCtx (s.argN 8 2) = some l)
    (hlen : s.arg.bytes.length = 24) (hr : s.receive s.keyedCore s.keyedCtx l [s.keyedPair] = some r) :
    exec .evhKeyedPairs s = .next (r.ack s.arg.c s.arg.id [0]) := by
  have hexec : exec .evhKeyedPairs s = execEvhKeyedPairs s := rfl
  unfold State.keyedCore State.keyedCtx at hj hr
  rw [hexec, execEvhKeyedPairs, if_neg (by rw [hw]; exact Bool.false_ne_true), hj, hlen]
  have hpairs : ((List.range ((24 - 16) / 8)).map fun i => ((BitVec.ofNat 32 (s.argN (16 + 8 * i) 4), BitVec.ofNat 32 (s.argN (20 + 8 * i) 4)) : Pair)) = [s.keyedPair] := rfl
  dsimp only
  rw [hpairs, hr]

theorem jobContext_none {job : Nat} (h : (s.ctx c x).placed = false ∨ (s.ctx c x).job ≠ job) (hl : s.sched.launches = []) : s.jobContext c x job = none := by
  unfold State.jobContext
  rw [hl]
  rcases h with h | h <;> simp [h]

theorem jobContext_placed {job : Nat} (hp : (s.ctx c x).placed = true) (hj : (s.ctx c x).job = job) : s.jobContext c x job = some (s.ctx c x).l := by
  simp [State.jobContext, hp, hj]

/-- One pair that nothing holds back is applied (R332). -/
theorem receive_one {p : Pair} (hp : (s.ctx c x).placed = true) (ha : (s.ctx c x).away = false) (hw : s.pairsWait c x [p] = false) :
    s.receive c x (s.ctx c x).l [p] = some (s.applyPair c x p) := by
  unfold State.receive
  dsimp only
  rw [hp, ha, if_pos (by simp), if_neg (by rw [hw]; exact Bool.false_ne_true)]
  rfl

theorem pairsWait_unslotted {p : Pair} (h : (s.ctx c x).bins.slot p.1 = none) : s.pairsWait c x [p] = false := by
  simp [State.pairsWait, h]

theorem applyPair_unslotted {p : Pair} (h : (s.ctx c x).bins.slot p.1 = none) :
    s.applyPair c x p = s.modCtx c x fun k => { k with bins := { k.bins with rdrop := k.bins.rdrop + 1 } } := by
  unfold State.applyPair
  dsimp only
  rw [h]

theorem spKey_range {o : Nat} (hc : c < 512) (ho : o < 0x100000) : 0x0081000000000000 ≤ spKey c o ∧ spKey c o < 0x0081000020000000 := by
  unfold spKey; omega

theorem spKey_core {o : Nat} (ho : o < 0x100000) : (spKey c o - 0x0081000000000000) / 0x100000 = c := by unfold spKey; omega

theorem spKey_offset {o : Nat} (ho : o < 0x100000) : spKey c o % 0x100000 = o := by unfold spKey; omega

theorem spOf_spKey {o : Nat} (hc : c < 512) (ho : o < 0x100000) : spOf (spKey c o) = some (c, o) := by
  rw [spOf, if_pos (spKey_range hc ho), spKey_core ho, spKey_offset ho]

/-- Bytes of a scratchpad on no source line have no updates (R128). -/
theorem updatesOf_no_hits {k o : Nat} (hk : spOf k = some (c, o)) (hsrc : (s.core c).src = []) (n : Nat) : s.updatesOf [(k, n)] = [] := by
  have hhits : s.srcHits c o n = [] := by rw [State.srcHits, hsrc, List.filterMap_nil]
  rw [State.updatesOf, List.flatMap_singleton]
  dsimp only
  rw [hk]
  dsimp only
  rw [hhits, List.flatMap_nil, ite_self]
  rfl

section
variable {o : Nat} (hc : c < 512) (ho : o < 0x100000) (hsrc : (s.core c).src = [])
include hc ho hsrc

theorem updatesOf_no_source (n : Nat) : s.updatesOf [(spKey c o, n)] = [] := updatesOf_no_hits (spOf_spKey hc ho) hsrc n

theorem land_no_source (d : Nat) (b : List Byte) : s.land d (spKey c o) b = s.put (spKey c o) b := by
  have hlay : s.lay d (spKey c o) b = s.put (spKey c o) b := by rw [State.lay, spOf_spKey hc ho]
  have hnone : (s.put (spKey c o) b).updatesOf [(spKey c o, b.length)] = [] := updatesOf_no_source hc ho hsrc _
  rw [State.land, hlay, State.updates, hnone]
  rfl

theorem pairsWait_free {p : Pair} (hslot : (s.ctx c x).bins.slot p.1 = some o) (hl : (s.core c).locks = []) : s.pairsWait c x [p] = false := by
  simp [State.pairsWait, hslot, hl, updatesOf_no_source hc ho hsrc]

theorem applyPair_slotted {p : Pair} (hslot : (s.ctx c x).bins.slot p.1 = some o) :
    s.applyPair c x p = (s.put (spKey c o) (toBytes 4 (binOp (s.ctx c x).bins.op (s.word (spKey c o) 4) p.2.toNat))).modCtx c x
      fun k => { k with bins := { k.bins with applied := k.bins.applied + 1 } } := by
  unfold State.applyPair
  dsimp only
  rw [hslot]
  dsimp only
  rw [land_no_source hc ho hsrc]

end

end

/-! ### Contributions to ropes, releases, kill notices (R134, R258, R259) -/

section
variable {s : State}

/-- The rope, the member and the member's record that a contribution names. -/
def State.arrivalRope (s : State) : Nat := s.argN 0 8 % 65536
def State.arrivalMember (s : State) : Nat := s.argN 0 8 / 65536
def State.arrivalRecord (s : State) : RMem := Table.get {} s.arrivalMember (s.rope s.arrivalRope).mem

theorem exec_evhRopeArrival (s : State) : exec .evhRopeArrival s =
    if s.arrivalRecord.cnt then .next (s.ack s.arg.c s.arg.id [0])
    else if (s.rope s.arrivalRope).st = 0 ∨ !s.arrivalRecord.j then .next (s.ack s.arg.c s.arg.id [0, 0x12])
    else if 3 ≤ (s.rope s.arrivalRope).st then .next ((s.modRope s.arrivalRope fun r => { r with late := min 255 (r.late + 1) }).ack s.arg.c s.arg.id [1])
    else .next (s.ropeArrive s.arrivalRope
      { m := s.arrivalMember, dev := s.arg.c, op := s.arg.id, bytes := padTo (64 * (s.rope s.arrivalRope).len) (s.arg.bytes.drop 8) }) := rfl

theorem answeredFrom_eq (s : State) (d : Nat) : ∃ q e, s.answeredFrom d = { s with sched := q, dev := e } := deliveredTo_eq ..

theorem ropeRelease_waited {c i : Nat} (hw : s.replyWaiter s.arg.id = some (c, i)) :
    ∃ q e, exec .evhRopeRelease s = .next ({ s with sched := q, dev := e }.modThread c i fun t => { t with wait := .got [0] }) := by
  have hexec : exec .evhRopeRelease s = execEvhRopeRelease s := rfl
  obtain ⟨q, e, heq⟩ := answeredFrom_eq s s.arg.c
  have hw' : { s with sched := q, dev := e }.replyWaiter { s with sched := q, dev := e }.arg.id = some (c, i) := hw
  refine ⟨q, e, ?_⟩
  rw [hexec, execEvhRopeRelease, heq]
  dsimp only at hw' ⊢
  rw [hw']

theorem ropeRelease_unwaited (hw : s.replyWaiter s.arg.id = none) : ∃ q e, exec .evhRopeRelease s = .next { s with sched := q, dev := e } := by
  have hexec : exec .evhRopeRelease s = execEvhRopeRelease s := rfl
  obtain ⟨q, e, heq⟩ := answeredFrom_eq s s.arg.c
  have hw' : { s with sched := q, dev := e }.replyWaiter { s with sched := q, dev := e }.arg.id = none := hw
  refine ⟨q, e, ?_⟩
  rw [hexec, execEvhRopeRelease, heq]
  dsimp only at hw' ⊢
  rw [hw']

theorem exec_evhKillNotice (s : State) : exec .evhKillNotice s =
    .next ((s.find s.arg.id).elim (s.modSaved s.arg.id fun t => { t with kill := some ⟨BitVec.ofNat 64 (s.argN 0 8), s.argN 8 8 == 1⟩ })
      fun p => s.modThread p.1 p.2 fun t => { t with kill := some ⟨BitVec.ofNat 64 (s.argN 0 8), s.argN 8 8 == 1⟩ }) := by
  have hexec : exec .evhKillNotice s = .next (s.killNotice s.dev.devno s.arg.id (BitVec.ofNat 64 (s.argN 0 8)) (s.argN 8 8 == 1)) := rfl
  rw [hexec, State.killNotice, if_pos rfl]
  cases s.find s.arg.id <;> rfl

end

end Sys2Proof.Machine

/-! # Threads of other devices arrive, and what all requests of other devices come to (R37, R105, R134, R244, R246, R255 to R259, R269, R332, R439). -/

namespace Sys2Proof.Machine

open Sys2Proof.Claims

/-! ### Threads that arrive (R37, R105) -/

section
variable {s : State}

/-- The state once the packet with a thread has been acknowledged, unless that has been done before (R137). -/
def State.threadHeard (s : State) : State := if s.arg.ok then s else s.ack s.arg.c 0 []

theorem threadHeard_eq (s : State) : ∃ f l b o,
    s.threadHeard = { s with sched := { s.sched with fabric := f, sentTo := l, heldBack := b }, dev := { s.dev with occ := o } } := by
  unfold State.threadHeard
  split
  · exact ⟨s.sched.fabric, s.sched.sentTo, s.sched.heldBack, s.dev.occ, rfl⟩
  · exact sendPacket_parts ..

/-- Nothing is noted any more of the thread as one that is elsewhere (R37, R115). -/
def State.guestUnnoted (s : State) (t : Thread) : State :=
  let here := match t.inst with | some i => i.dev == s.threadHeard.dev.devno | none => false
  { (s.threadHeard.modSched fun q => { q with abroad := q.abroad.filter (fun p => p.1 != s.argN 0 4)
                                              roaming := if here then q.roaming.filter fun p => p.1 != s.argN 0 4 else q.roaming }) with
    nextOp := s.threadHeard.nextOp + 1 }

/-- The thread's home hears of it where this device has sent it itself (R105). -/
def State.guestNoted (s : State) (home : Nat) (t : Thread) : State :=
  let r := s.guestUnnoted t
  if (none : Option Thread).isNone ∧ s.arg.c = r.dev.devno then r.tell home 9 0 [BitVec.ofNat 64 (s.argN 0 4), BitVec.ofNat 64 r.dev.devno] else r

/-- Neither packets nor what is noted about other devices change a part of the state in which they do not stand. -/
theorem guestNoted_keeps {β : Type} {g : State → β} (hg : ∀ s q d n, g { s with sched := q, dev := d, nextOp := n } = g s) (s : State) (home : Nat) (t : Thread) :
    g (s.guestNoted home t) = g s := by
  obtain ⟨f, l, b, o, heq⟩ := threadHeard_eq s
  have hunnoted : g (s.guestUnnoted t) = g s := by
    rw [State.guestUnnoted, heq]
    exact hg s ..
  unfold State.guestNoted
  dsimp only
  split
  · exact (sendPacket_keeps (fun r q d => hg r q d r.nextOp) ..).trans hunnoted
  · exact hunnoted

/-- The slot that is found for a thread whose home is another device (R105; log 166). -/
def State.guestPlace (s : State) : Option (Nat × Nat) :=
  let r := s.threadHeard
  r.coreFor (r.argN 16 2 % 512) (s.guest none).x (r.argN 4 2) (r.argN 6 2) (s.guest none).owner (s.guest none)

theorem exec_evhThread_guest {d : Nat} (hd : d = s.argN 0 4 / 2 ^ 17) (hdev : d ≠ s.dev.devno) (hdoomed : s.sched.doomed = []) :
    exec .evhThread s = .next (s.guestPlace.elim (s.threadHeard.packetLater .evhThread { s.arg with ok := true })
      fun p => (s.guestNoted d (s.guest none)).arrive p.1 p.2 (s.guest none)) := by
  have hexec : exec .evhThread s = execEvhThread s := rfl
  have hlt : s.argN 0 4 < 256 ^ 4 := ofBytes_slice_lt ..
  have hmod : s.argN 0 4 / 2 ^ 17 % 2 ^ 15 = d := by omega
  obtain ⟨f, l, b, o, heq⟩ := threadHeard_eq s
  have hdno : s.threadHeard.dev.devno = s.dev.devno := by rw [heq]
  have hdoom : s.threadHeard.sched.doomed = [] := by rw [heq]; exact hdoomed
  have hheard : (if s.arg.ok = true then s else s.ack s.arg.c 0 []) = s.threadHeard := rfl
  rw [hexec, execEvhThread]
  dsimp only
  rw [hheard, hmod, if_neg hdev, if_neg (by rw [hdno]; exact fun h => hdev h.1), if_neg Bool.false_ne_true, hdoom, List.any_nil, if_neg Bool.false_ne_true]
  unfold State.guestPlace
  dsimp only
  cases s.threadHeard.coreFor (s.threadHeard.argN 16 2 % 512) (s.guest none).x (s.threadHeard.argN 4 2) (s.threadHeard.argN 6 2) (s.guest none).owner (s.guest none) <;> rfl

end

/-! ### The core for a thread that arrives (R105; log 166) -/

/-- A listed entry is in its table. -/
theorem Table.get_mem {α : Type} {P : α → Prop} {d : α} (hd : ¬ P d) {k : Nat} {t : Table α} (h : P (Table.get d k t)) : (k, Table.get d k t) ∈ t := by
  induction t with
  | nil => exact absurd h hd
  | cons p t ih =>
    rw [Table.get] at h ⊢
    split at h
    · next he => rw [if_pos he, ← he]; exact List.mem_cons_self
    · next he => rw [if_neg he]; exact List.mem_cons_of_mem _ (ih h)

section
variable {s : State} {c x job host launch : Nat} {t : Thread}

theorem coreFor_nowhere (h : ∀ c, (s.ctx c x).placed = false) : s.coreFor c x job host launch t = none := by
  unfold State.coreFor
  dsimp only
  split <;> exact List.findSome?_eq_none_iff.mpr fun d _ => by simp [h]

/-- The core that the thread asks for takes it where its launch stands there and has a slot. -/
theorem coreFor_own {i : Nat} (hp : (s.ctx c x).placed = true) (ha : (s.ctx c x).away = false) (hh : (s.ctx c x).host = host) (hl : (s.ctx c x).launch = launch)
    (hi : s.arrivalSlot c t = some i) : s.coreFor c x job host launch t = some (c, i) := by
  have hmem : (2 * c + x, s.ctx c x) ∈ s.ctxs := Table.get_mem (P := fun k : Ctx => k.placed = true) (d := {}) (by decide) hp
  have hany : (s.ctxs.any fun p => p.2.placed && (p.2.host == host && p.2.launch == launch)) = true :=
    List.any_eq_true.mpr ⟨_, hmem, by simp [hp, hh, hl]⟩
  unfold State.coreFor
  dsimp only
  rw [if_pos hany, List.findSome?_cons]
  simp [hp, ha, hh, hl, hi]

theorem guest_pc (s : State) (own : Option Thread) : (s.guest own).pc = BitVec.ofNat 64 (bits (s.argN 48 8) 0 56) := by
  have hword : slice (slice s.arg.bytes 48 256) (8 * 0) 8 = slice s.arg.bytes 48 8 := by simp [slice, List.take_take]
  rw [State.argN, ← hword]
  rfl

theorem arrivalSlot_guest (hdev : t.hdev ≠ s.dev.devno) : s.arrivalSlot c t = s.freeSlot c t.x := if_neg fun h => hdev h.1

end

section
variable {s : State} {d x : Nat} (hd : d = s.argN 0 4 / 2 ^ 17) (hx : x = s.argN 18 1 % 2) (hdev : d ≠ s.dev.devno) (hdoomed : s.sched.doomed = [])
include hd hx hdev hdoomed

theorem thread_waits (h : ∀ c, (s.ctx c x).placed = false) : ∃ t : State, exec .evhThread s = .next t ∧ t.mem = s.mem ∧ t.threads = s.threads ∧
    ⟨.evhThread, { s.arg with ok := true }⟩ ∈ t.laterSteps := by
  obtain ⟨f, l, b, o, heq⟩ := threadHeard_eq s
  have hplace : s.guestPlace = none := by
    rw [State.guestPlace, heq]
    subst hx
    exact coreFor_nowhere h
  have hmem : s.threadHeard.mem = s.mem := by rw [heq]
  have hthreads : s.threadHeard.threads = s.threads := by rw [heq]
  refine ⟨s.threadHeard.packetLater .evhThread { s.arg with ok := true }, ?_, hmem, hthreads, List.mem_append_right _ List.mem_cons_self⟩
  rw [exec_evhThread_guest hd hdev hdoomed, hplace]
  rfl

theorem thread_arrives {c i : Nat} (hc : c = s.argN 16 2 % 512) (hp : (s.ctx c x).placed = true) (ha : (s.ctx c x).away = false)
    (hh : (s.ctx c x).host = s.argN 6 2) (hl : (s.ctx c x).launch = s.argN 8 8) (hi : s.freeSlot c x = some i) :
    ∃ t : State, exec .evhThread s = .next t ∧ (t.thread c i).st = .arriving ∧ (t.thread c i).pc = BitVec.ofNat 64 (bits (s.argN 48 8) 0 56) ∧
      (t.thread c i).hdev = d ∧ (t.thread c i).x = x ∧ (t.thread c i).owner = s.argN 8 8 ∧ othersStand s t c i := by
  obtain ⟨f, l, b, o, heq⟩ := threadHeard_eq s
  have hplace : s.guestPlace = some (c, i) := by
    rw [State.guestPlace, heq]
    subst hc hd hx
    exact coreFor_own hp ha hh hl ((arrivalSlot_guest hdev).trans hi)
  refine ⟨(s.guestNoted d (s.guest none)).arrive c i (s.guest none), by rw [exec_evhThread_guest hd hdev hdoomed, hplace, Option.elim_some], ?_⟩
  subst hd hx
  have hthreads (e j : Nat) : (s.guestNoted (s.argN 0 4 / 2 ^ 17) (s.guest none)).thread e j = s.thread e j :=
    guestNoted_keeps (g := fun s => s.thread e j) (fun _ _ _ _ => rfl) ..
  have hhere : ((s.guestNoted (s.argN 0 4 / 2 ^ 17) (s.guest none)).ctx c (s.guest none).x).away = false :=
    (guestNoted_keeps (g := fun r => (r.ctx c (s.guest none).x).away) (fun _ _ _ _ => rfl) ..).trans ha
  rw [arrive_present hhere, State.setThread_thread, if_pos rfl]
  exact ⟨rfl, guest_pc s none, rfl, rfl, rfl, othersStand_modThread s hthreads _ _ fun _ => landed _ (s.guest none)⟩

end

end Sys2Proof.Machine

/-! # O55: every request of another device is taken and answered (R37, R105, R134, R244, R246, R255 to R259, R269, R332, R439). -/

namespace Sys2Proof.Machine

open Sys2Proof.Claims

section
variable {s : State}

/-! ### Joins and ropes (R246, R255 to R261) -/

theorem message_join_ended (h1 : s.argN 0 8 = 1)
    (h : ∀ t ∈ s.allThreads ++ s.sched.abroad.map Prod.snd ++ s.savedThreads, thidOf t ≠ (s.argW 0).toNat) :
    ∃ t : State, exec .evhMessage s = .next t ∧ acks s t [0] ∧ t.mem = s.mem ∧ t.sched.joiners = s.sched.joiners := by
  have hnone : ((s.allThreads ++ s.sched.abroad.map Prod.snd ++ s.savedThreads).find? fun t => thidOf t == (s.argW 0).toNat) = none :=
    List.find?_eq_none.mpr fun t ht => by simpa using h t ht
  exact ⟨_, by rw [exec_evhMessage_join h1, hnone, Option.elim_none], acks_ack (.refl s) _, ack_mem .., ack_joiners ..⟩

theorem message_join_waits {b : Thread} (h1 : s.argN 0 8 = 1)
    (h : (s.allThreads ++ s.sched.abroad.map Prod.snd ++ s.savedThreads).find? (fun t => thidOf t == (s.argW 0).toNat) = some b) :
    ∃ t : State, exec .evhMessage s = .next t ∧ t.sched.joiners = s.sched.joiners ++ [(s.arg.c, s.arg.id, (s.argW 0).toNat, b.uid)] ∧
      t.sched.fabric = s.sched.fabric ∧ t.mem = s.mem := by
  have hexec := exec_evhMessage_join h1
  rw [h, Option.elim_some] at hexec
  exact ⟨_, hexec, rfl, rfl, rfl⟩

/-- A request about a rope that changes nothing is answered at once. -/
theorem message_rope_answered {code : Nat} {ws : List Word} (hc : s.argN 0 8 = code) (h : 2 ≤ code ∧ code ≤ 5 ∨ code = 24)
    (hr : s.ropeAsked code = (s, some ws)) :
    ∃ t : State, exec .evhMessage s = .next t ∧ acks s t ws ∧ t.mem = s.mem ∧ t.ropes = s.ropes :=
  ⟨_, exec_evhMessage_rope hc h hr, acks_ack (.refl s) _, ack_mem .., ack_ropes ..⟩

section
variable (h : s.ropeOfJob s.askedRope (s.argW 0).toNat = true)
include h

theorem message_rope_joined (hc : s.argN 0 8 = 3) (hj : joinable (s.rope s.askedRope) s.askedMember = true) :
    ∃ t : State, exec .evhMessage s = .next t ∧ acks s t [0, BitVec.ofNat 64 (s.rope s.askedRope).len] ∧ t.mem = s.mem ∧
      (t.rope s.askedRope).joined = (s.rope s.askedRope).joined + 1 ∧ (Table.get {} s.askedMember (t.rope s.askedRope).mem).j = true ∧
      (Table.get {} s.askedMember (t.rope s.askedRope).mem).thid = (s.argW 3).toNat := by
  have hr := ropeAsked_join h
  rw [if_pos hj] at hr
  refine ⟨_, exec_evhMessage_rope hc (by decide) hr, ?_, ack_mem .., ?_⟩
  · refine acks_ack ?_ _
    exact ⟨rfl, rfl, rfl, rfl, rfl⟩
  · simp [State.ropeJoin]

theorem message_rope_waits (hc : s.argN 0 8 = 4) (h0 : (s.rope s.askedRope).st ≠ 0) (h4 : (s.rope s.askedRope).st ≠ 4) :
    ∃ t : State, exec .evhMessage s = .next t ∧ (t.rope s.askedRope).away = (s.rope s.askedRope).away ++ [(s.arg.c, s.arg.id)] ∧
      t.sched.fabric = s.sched.fabric ∧ t.mem = s.mem := by
  have hr := ropeAsked_wait h
  rw [if_neg (not_or.mpr ⟨h4, h0⟩)] at hr
  exact ⟨_, exec_evhMessage_rope_later hc (by decide) hr, by simp, rfl, rfl⟩

end

/-! ### Threads' homes (R37, R50, R105) -/

theorem message_snap {u : Thread} (hc : s.argN 0 8 = 13) (hf : s.sched.abroad.find? (fun p => p.1 == (s.argW 0).toNat) = some ((s.argW 0).toNat, u)) :
    ∃ t : State, exec .evhMessage s = .next t ∧ acks s t (0 :: snapWords u.snap) ∧ t.mem = s.mem ∧ t.threads = s.threads := by
  have hr : s.asked 13 = some (s.modAbroad (s.argW 0).toNat fun t => { t with sigHome := 0 }, 0 :: snapWords u.snap) := by
    unfold State.asked
    dsimp only
    rw [hf]
    rfl
  refine ⟨_, exec_evhMessage_home hc (by decide) hr, ?_, ack_mem .., ack_threads ..⟩
  refine acks_ack ?_ _
  exact ⟨rfl, rfl, rfl, rfl, rfl⟩

/-- What a thread's home notes as the thread goes on from one device to the next (R105). -/
def State.goneOn (s : State) (n d : Nat) : State :=
  (s.modAbroad n fun t => { t with leave := .migrate d 0 }).modSched fun q =>
    { q with roaming := q.roaming.map fun p => if p.1 = n then (p.1, { p.2 with leave := .migrate d 0 }) else p }

theorem wentOn_no_launches (hl : s.sched.launches = []) (n d : Nat) : s.wentOn n d = s.goneOn n d := by
  have hlaunches : (s.goneOn n d).sched.launches = [] := hl
  have hlaunch (id : Nat) : (s.goneOn n d).launch id = none := by rw [State.launch, hlaunches, List.find?_nil]
  unfold State.wentOn
  unfold State.goneOn at hlaunch ⊢
  dsimp only at hlaunch ⊢
  split
  · rw [hlaunch]
  · rfl

theorem message_gone_on (hc : s.argN 0 8 = 9) (hl : s.sched.launches = []) :
    ∃ t : State, exec .evhMessage s = .next t ∧ replied s t 0 11 [] ∧ t.mem = s.mem ∧ t.threads = s.threads ∧
      ∀ p ∈ t.sched.abroad, p.1 = (s.argW 0).toNat → p.2.leave = .migrate (s.argW 1).toNat 0 := by
  have htold : s.told 9 = s.wentOn (s.argW 0).toNat (s.argW 1).toNat := rfl
  rw [wentOn_no_launches hl] at htold
  refine ⟨_, exec_evhMessage_told hc (by decide), ?_, ?_⟩
  all_goals rw [htold]
  · refine replied_sendPacket ?_ ..
    exact ⟨rfl, rfl, rfl, rfl, rfl⟩
  · refine ⟨ack_mem .., ack_threads .., fun p hp hid => ?_⟩
    rw [ack_abroad] at hp
    obtain ⟨q, -, rfl⟩ := List.mem_map.mp hp
    by_cases hq : q.1 = (s.argW 0).toNat
    · rw [if_pos hq]
    · rw [if_neg hq] at hid
      exact absurd hid hq

/-! ### Spawns (R244, R439) -/

theorem spawn_answered {x c : Nat} (hdev : s.arg.c ≠ s.dev.devno) (hx : x = s.spawnCtx) (hc : c = s.spawnCore) :
    (((s.ctx c x).placed = false ∨ (s.ctx c x).job ≠ s.argN 44 2) → ((s.ctx c (1 - x)).placed = false ∨ (s.ctx c (1 - x)).job ≠ s.argN 44 2) → s.sched.launches = [] →
      ∃ t : State, exec .evhSpawn s = .next t ∧ replied s t s.arg.id 6 (toBytes 8 (2 ^ 63 + 4)) ∧ t.mem = s.mem ∧ t.threads = s.threads) ∧
    ((s.ctx c x).placed = true → (s.ctx c x).job = s.argN 44 2 → (s.hctx (s.ctx c x).host).barred = true →
      ∃ t : State, exec .evhSpawn s = .next t ∧ replied s t s.arg.id 6 (toBytes 8 (2 ^ 63 + 2)) ∧ t.mem = s.mem ∧ t.threads = s.threads) ∧
    ((s.ctx c x).placed = true → (s.ctx c x).job = s.argN 44 2 → (s.hctx (s.ctx c x).host).barred = false → (s.ctx c x).away = false → bit (s.argN 40 4) 27 = false →
      s.freeSlot c x = none → ∃ t : State, exec .evhSpawn s = .next t ∧ replied s t s.arg.id 6 (toBytes 8 (2 ^ 63 + 1)) ∧ t.mem = s.mem ∧ t.threads = s.threads) ∧
    (∀ h, (s.ctx c x).placed = true → (s.ctx c x).job = s.argN 44 2 → (s.hctx (s.ctx c x).host).barred = false → (s.ctx c x).away = false →
      bit (s.argN 40 4) 27 = false → s.freeSlot c x = some h →
      ∃ t : State, exec .evhSpawn s = .next t ∧ replied s t s.arg.id 6 (toBytes 8 (BitVec.ofNat 64 (thidOf (t.thread c h))).toNat) ∧ t.mem = s.mem ∧
        (t.thread c h).pc = BitVec.ofNat 64 (s.argN 0 8) ∧ (t.thread c h).hcore = c ∧ (t.thread c h).hslot = h) := by
  subst hx hc
  have hmatch {k : Ctx} (hp : k.placed = true) (hj : k.job = s.argN 44 2) : jobMatch k s.spawnAsked = true := by
    simp [jobMatch, State.spawnAsked, hp, hj]
  have hmiss {k : Ctx} (hk : k.placed = false ∨ k.job ≠ s.argN 44 2) : jobMatch k s.spawnAsked = false := by
    rcases hk with h | h <;> simp [jobMatch, State.spawnAsked, h]
  refine ⟨fun h h' hl => ?_, fun hp hj hb => ?_, fun hp hj hb ha hm hf => ?_, fun i hp hj hb ha hm hf => ?_⟩
  · exact spawn_refused hdev (trySpawn_nowhere (hmiss h) (hmiss h') hl)
  · exact spawn_refused hdev (trySpawn_barred (hmatch hp hj) hb)
  · exact spawn_refused hdev (trySpawn_full (hmatch hp hj) hb ha hm hf)
  · exact spawn_placed hdev (trySpawn_placed (hmatch hp hj) hb ha hm hf)

theorem spawnReply_answers {o : Op} (h : s.opById s.arg.id = some o) :
    exec .evhSpawnReply s = .next ((s.answeredFrom s.arg.c).complete o (BitVec.ofNat 64 (s.argN 0 8))) := by
  obtain ⟨q, e, heq⟩ := answeredFrom_eq s s.arg.c
  have hop : (s.answeredFrom s.arg.c).opById s.arg.id = some o := by rw [heq]; exact h
  rw [exec_evhSpawnReply, State.answer, hop]

theorem spawnReply_unasked (h : s.opById s.arg.id = none) :
    ∃ t : State, exec .evhSpawnReply s = .next t ∧ t.mem = s.mem ∧ t.threads = s.threads ∧ t.ops = s.ops := by
  obtain ⟨q, e, heq⟩ := answeredFrom_eq s s.arg.c
  have hop : (s.answeredFrom s.arg.c).opById s.arg.id = none := by rw [heq]; exact h
  have hanswer : exec .evhSpawnReply s = .next (s.answeredFrom s.arg.c) := by rw [exec_evhSpawnReply, State.answer, hop]
  rw [heq] at hanswer
  exact ⟨_, hanswer, rfl, rfl, rfl⟩

/-! ### Keyed pairs (R332) -/

section
variable {c x : Nat} (hw : s.sourceWaits isKeyed = false) (hc : c = s.argN 0 8) (hx : x = s.argN 12 4)
include hw hc hx

theorem keyedPairs_nowhere (h : (s.ctx c x).placed = false ∨ (s.ctx c x).job ≠ s.argN 8 2) (hl : s.sched.launches = []) :
    ∃ t : State, exec .evhKeyedPairs s = .next t ∧ acks s t [0] ∧ t.mem = s.mem ∧ t.ctxs = s.ctxs := by
  subst hc hx
  exact ⟨_, exec_evhKeyedPairs_dropped hw (jobContext_none h hl), acks_ack (.refl s) _, ack_mem .., ack_ctxs ..⟩

variable (hp : (s.ctx c x).placed = true) (hj : (s.ctx c x).job = s.argN 8 2) (ha : (s.ctx c x).away = false) (hlen : s.arg.bytes.length = 24)
include hp hj ha hlen

/-- A packet with one pair that nothing holds back is applied, and acknowledged. -/
theorem keyedPairs_applied (hfree : s.pairsWait c x [s.keyedPair] = false) :
    exec .evhKeyedPairs s = .next ((s.applyPair c x s.keyedPair).ack s.arg.c s.arg.id [0]) := by
  subst hc hx
  exact exec_evhKeyedPairs_one hw (jobContext_placed hp hj) hlen (receive_one hp ha hfree)

theorem keyedPairs_no_slot (hslot : (s.ctx c x).bins.slot (BitVec.ofNat 32 (s.argN 16 4)) = none) :
    ∃ t : State, exec .evhKeyedPairs s = .next t ∧ acks s t [0] ∧ t.mem = s.mem ∧ (t.ctx c x).bins.rdrop = (s.ctx c x).bins.rdrop + 1 := by
  have hexec := keyedPairs_applied hw hc hx hp hj ha hlen (pairsWait_unslotted (p := s.keyedPair) hslot)
  rw [applyPair_unslotted (p := s.keyedPair) hslot] at hexec
  refine ⟨_, hexec, ?_, ack_mem .., by simp⟩
  refine acks_ack ?_ _
  exact ⟨rfl, rfl, rfl, rfl, rfl⟩

theorem keyedPairs_slot {o : Nat} (hslot : (s.ctx c x).bins.slot (BitVec.ofNat 32 (s.argN 16 4)) = some o) (hsrc : (s.core c).src = [])
    (hlocks : (s.core c).locks = []) (ho : o < 0x100000) (hc' : c < 512) :
    ∃ t : State, exec .evhKeyedPairs s = .next t ∧ acks s t [0] ∧ (t.ctx c x).bins.applied = (s.ctx c x).bins.applied + 1 ∧
      t.mem = memPuts (spKey c o) (toBytes 4 (binOp (s.ctx c x).bins.op (s.word (spKey c o) 4) (BitVec.ofNat 32 (s.argN 20 4)).toNat)) s.mem := by
  have hexec := keyedPairs_applied hw hc hx hp hj ha hlen (pairsWait_free (p := s.keyedPair) hc' ho hsrc hslot hlocks)
  rw [applyPair_slotted (p := s.keyedPair) hc' ho hsrc hslot] at hexec
  refine ⟨_, hexec, ?_, ?_, ack_mem ..⟩
  · refine acks_ack ?_ _
    exact ⟨rfl, rfl, rfl, rfl, rfl⟩
  · rw [ack_ctx, State.modCtx_ctx, if_pos rfl]
    rfl

end

/-! ### Contributions to ropes, and kill notices (R134, R258, R259) -/

theorem ropeArrival_counted (h : s.arrivalRecord.cnt = true) :
    ∃ t : State, exec .evhRopeArrival s = .next t ∧ acks s t [0] ∧ t.mem = s.mem ∧ t.ropes = s.ropes :=
  ⟨_, by rw [exec_evhRopeArrival, if_pos h], acks_ack (.refl s) _, ack_mem .., ack_ropes ..⟩

section
variable (h : s.arrivalRecord.cnt = false)
include h

theorem ropeArrival_refused (hj : (s.rope s.arrivalRope).st = 0 ∨ s.arrivalRecord.j = false) :
    ∃ t : State, exec .evhRopeArrival s = .next t ∧ acks s t [0, 0x12] ∧ t.mem = s.mem ∧ t.ropes = s.ropes :=
  ⟨_, by rw [exec_evhRopeArrival, h, if_neg Bool.false_ne_true, if_pos (by simpa using hj)], acks_ack (.refl s) _, ack_mem .., ack_ropes ..⟩

variable (hj : s.arrivalRecord.j = true)
include hj

theorem ropeArrival_late (hst : 3 ≤ (s.rope s.arrivalRope).st) :
    ∃ t : State, exec .evhRopeArrival s = .next t ∧ acks s t [1] ∧ t.mem = s.mem ∧
      (t.rope s.arrivalRope).late = min 255 ((s.rope s.arrivalRope).late + 1) := by
  have hjoined : ¬ ((s.rope s.arrivalRope).st = 0 ∨ !s.arrivalRecord.j) := by simp [hj]; omega
  have hexec := exec_evhRopeArrival s
  rw [h, if_neg Bool.false_ne_true, if_neg hjoined, if_pos hst] at hexec
  refine ⟨_, hexec, ?_, ack_mem .., ?_⟩
  · refine acks_ack ?_ _
    exact ⟨rfl, rfl, rfl, rfl, rfl⟩
  · rw [ack_rope, State.modRope_rope, if_pos rfl]

theorem ropeArrival_taken (hst : (s.rope s.arrivalRope).st = 1 ∨ (s.rope s.arrivalRope).st = 2) :
    ∃ t : State, exec .evhRopeArrival s = .next t ∧ t.mem = s.mem ∧ t.sched.fabric = s.sched.fabric ∧ (t.rope s.arrivalRope).st = 2 ∧
      (t.rope s.arrivalRope).pend = (s.rope s.arrivalRope).pend ++
        [{ m := s.arrivalMember, dev := s.arg.c, op := s.arg.id, bytes := padTo (64 * (s.rope s.arrivalRope).len) (s.arg.bytes.drop 8) }] := by
  have hjoined : ¬ ((s.rope s.arrivalRope).st = 0 ∨ !s.arrivalRecord.j) := by simp [hj]; omega
  have hexec := exec_evhRopeArrival s
  rw [h, if_neg Bool.false_ne_true, if_neg hjoined, if_neg (by omega)] at hexec
  refine ⟨_, hexec, rfl, rfl, ?_⟩
  rw [State.ropeArrive, State.modRope_rope, if_pos rfl]
  refine ⟨?_, rfl⟩
  rcases hst with h1 | h2
  · exact if_pos h1
  · dsimp only
    rw [h2]
    rfl

end

theorem ropeRelease_wakes {c i : Nat} (h : s.replyWaiter s.arg.id = some (c, i)) :
    ∃ t : State, exec .evhRopeRelease s = .next t ∧ (t.thread c i).wait = .got [0] ∧ t.mem = s.mem ∧ othersStand s t c i := by
  obtain ⟨q, e, hexec⟩ := ropeRelease_waited h
  refine ⟨_, hexec, ?_, rfl, othersStand_modThread s (r := { s with sched := q, dev := e }) (fun _ _ => rfl) c i _⟩
  rw [State.modThread_thread, if_pos rfl]

theorem ropeRelease_unheard (h : s.replyWaiter s.arg.id = none) : ∃ t : State, exec .evhRopeRelease s = .next t ∧ t.mem = s.mem ∧ t.threads = s.threads := by
  obtain ⟨q, e, hexec⟩ := ropeRelease_unwaited h
  exact ⟨_, hexec, rfl, rfl⟩

theorem killNotice_given {c i : Nat} (h : s.find s.arg.id = some (c, i)) :
    ∃ t : State, exec .evhKillNotice s = .next t ∧ t.mem = s.mem ∧ (t.thread c i).kill = some ⟨BitVec.ofNat 64 (s.argN 0 8), s.argN 8 8 == 1⟩ ∧
      othersStand s t c i := by
  have hexec := exec_evhKillNotice s
  rw [h, Option.elim_some] at hexec
  refine ⟨_, hexec, rfl, ?_, othersStand_modThread s (fun _ _ => rfl) c i _⟩
  rw [State.modThread_thread, if_pos rfl]

theorem killNotice_saved (h : s.find s.arg.id = none) : ∃ t : State, exec .evhKillNotice s = .next t ∧ t.mem = s.mem ∧ t.threads = s.threads := by
  have hexec := exec_evhKillNotice s
  rw [h, Option.elim_none] at hexec
  exact ⟨_, hexec, rfl, rfl⟩

end

/-- Settles O55: each packet of another device is taken by the function that a request of this device goes through, and the packet that answers it joins the line
of those for the device that sent it. -/
theorem evhornRequests : Obligations.EvhornRequests := by
  intro s
  refine ⟨fun h0 hw => ⟨_, exec_evhMessage_held h0 hw, rfl⟩, fun d j b h0 hw hok hj hf hl => message_here h0 hw hok hj hf hl, message_join_ended,
    fun b => message_join_waits, fun h3 h5 h => ?_, fun hc h hj => message_rope_joined h hc hj, fun hc h hj => ?_, fun hc h hst => ?_,
    fun hc h h0 h4 => message_rope_waits h hc h0 h4, fun hc h => message_rope_answered hc (by decide) (ropeAsked_state h),
    fun hc h => message_rope_answered hc (by decide) (ropeAsked_member h), fun u => message_snap, message_gone_on, fun hdev x c => spawn_answered hdev,
    fun o => spawnReply_answers, spawnReply_unasked, fun hw => ⟨_, exec_evhKeyedPairs_held hw, rfl⟩, fun hw c x hc hx => ⟨keyedPairs_nowhere hw hc hx,
    keyedPairs_no_slot hw hc hx, fun o hp hj ha hlen => keyedPairs_slot hw hc hx hp hj ha hlen⟩, ropeArrival_counted, ropeArrival_refused,
    fun h hj hst => ropeArrival_late h hj hst, fun h hst hj => ropeArrival_taken h hj hst, fun c i => ropeRelease_wakes, ropeRelease_unheard,
    fun c i => killNotice_given, killNotice_saved, fun d x hd hx hdev hdoomed => ⟨thread_waits hd hx hdev hdoomed, fun c i => thread_arrives hd hx hdev hdoomed⟩⟩
  · exact message_rope_answered rfl (by omega) (ropeAsked_denied (by omega) h)
  · exact message_rope_answered hc (by decide) ((ropeAsked_join h).trans (if_neg (Bool.eq_false_iff.mp hj)))
  · exact message_rope_answered hc (by decide) ((ropeAsked_wait h).trans (if_pos hst.symm))

end Sys2Proof.Machine

/-! # Arming and joining a rope (R73, R255 to R257). -/

namespace Sys2Proof.Machine

open Sys2Proof.Claims

/-! ### `rparm` (R255, R256) -/

/-- What arming comes to once the block and its weights are read: a refusal with the rope word, or the armed rope (R256). -/
def State.armOutcome (u : State) (w : Word) (n : Nat) (m : ArmBlock) (ws : List Nat) : Except Stop (Unit × State) :=
  match u.armErr u.curCtx.l n m ws with
  | some k => .error (.trap k w)
  | none => .ok ((), u.ropeArm u.curCtx.l n m ws)

/-- The arm block at an address of the own scratchpad. -/
def State.armBlockAt (u : State) (blk : Word) : Option ArmBlock := armBlock (u.bytes (spKey u.latch.core (ownOff blk.toNat)) 64)

theorem checkAccess_ok {s : State} {va : Word} {last align kind : Nat} (h : s.accessErr s.latch.core s.pre va.toNat last align kind = none) :
    checkAccess va last align kind s = .ok ((), s) := by
  simp only [checkAccess, Ex.get_bind, h]; rfl

section
variable {a b : BitVec 6} {s r u : State} {w blk : Word} {n i : Nat} {m : ArmBlock}

/-- Once its operands are read and the block stands in the own scratchpad, `rparm` reads the block, then its weight table, and arms (R256). -/
theorem rparm_runs (a b : BitVec 6) : ∃ body, (∀ s, exec (.rparm a b) s = runC 0 body s) ∧ ∀ (s r u : State) (w blk : Word) (n i : Nat),
    src a s = .ok (w, r) → src b r = .ok (blk, u) → ropeOf w false u = .ok ((n, i, u.dev.devno), u) →
    u.accessErr u.latch.core u.pre blk.toNat (blk.toNat + 63) 64 0 = none → isOwn u.latch.core blk.toNat = true →
    (u.armBlockAt blk = none → body s = .error (.trap 0x12 w)) ∧
    (∀ m, u.armBlockAt blk = some m → m.table = 0xFFFFFFFF → body s = u.armOutcome w n m []) ∧
    (∀ m, u.armBlockAt blk = some m → m.table + 4 * m.n ≤ 0x100000 →
      (let t := BitVec.ofNat 64 (spKey u.latch.core m.table)
       u.accessErr u.latch.core u.pre t.toNat (t.toNat + 4 * m.n - 1) 1 0 = none) →
      body s = u.armOutcome w n m ((List.range m.n).map fun j => u.word (spKey u.latch.core (m.table + 4 * j)) 4)) := by
  refine ⟨_, fun _ => rfl, fun s r u w blk n i ha hb hr hacc hown => ?_⟩
  unfold State.armBlockAt State.armOutcome
  rw [Ex.bind_ok ha, Ex.bind_ok hb, Ex.bind_ok hr]
  simp only [Ex.get_bind, hacc, hown, if_true]
  refine ⟨fun hnone => ?_, fun m hm htable => ?_, fun m hm htable hread => ?_⟩
  · simp only [hnone]; rfl
  · simp only [hm, htable, ne_eq, not_true_eq_false, if_false, if_true]
    cases u.armErr u.curCtx.l n m [] <;> rfl
  · have hlist : m.table ≠ 0xFFFFFFFF := by omega
    simp only [hm, hlist, ne_eq, not_false_eq_true, not_true_eq_false, if_true, if_false, if_neg (Nat.not_lt.mpr htable), Ex.bind_ok (checkAccess_ok hread)]
    generalize u.armErr u.curCtx.l n m _ = e
    cases e <;> rfl

section
variable (hg : s.goesC 0) (ha : src a s = .ok (w, r)) (hb : src b r = .ok (blk, u)) (hr : ropeOf w false u = .ok ((n, i, u.dev.devno), u))
  (hacc : u.accessErr u.latch.core u.pre blk.toNat (blk.toNat + 63) 64 0 = none) (hown : isOwn u.latch.core blk.toNat = true)
include hg ha hb hr hacc hown

theorem exec_rparm_bad_block (hblock : u.armBlockAt blk = none) : exec (.rparm a b) s = .next (trapped s 0x12 w false) := by
  obtain ⟨body, hexec, hbody⟩ := rparm_runs a b
  rw [hexec]
  exact runC_goes_trap hg ((hbody s r u w blk n i ha hb hr hacc hown).1 hblock)

theorem exec_rparm_equal_weights (hblock : u.armBlockAt blk = some m) (htable : m.table = 0xFFFFFFFF) :
    (u.armErr u.curCtx.l n m [] = none → exec (.rparm a b) s = .next (s.ended (u.ropeArm u.curCtx.l n m []))) ∧
    (∀ k, u.armErr u.curCtx.l n m [] = some k → exec (.rparm a b) s = .next (trapped s k w false)) := by
  obtain ⟨body, hexec, hbody⟩ := rparm_runs a b
  have hrun := (hbody s r u w blk n i ha hb hr hacc hown).2.1 m hblock htable
  rw [hexec]
  refine ⟨fun harm => runC_goes hg ?_, fun k harm => runC_goes_trap hg ?_⟩
  all_goals rw [hrun, State.armOutcome, harm]

theorem exec_rparm_table (hblock : u.armBlockAt blk = some m) (htable : m.table + 4 * m.n ≤ 0x100000)
    (hread : let t := BitVec.ofNat 64 (spKey u.latch.core m.table)
      u.accessErr u.latch.core u.pre t.toNat (t.toNat + 4 * m.n - 1) 1 0 = none) :
    let ws := (List.range m.n).map fun j => u.word (spKey u.latch.core (m.table + 4 * j)) 4
    u.armErr u.curCtx.l n m ws = none → exec (.rparm a b) s = .next (s.ended (u.ropeArm u.curCtx.l n m ws)) := by
  obtain ⟨body, hexec, hbody⟩ := rparm_runs a b
  intro ws harm
  rw [hexec]
  refine runC_goes hg ?_
  rw [(hbody s r u w blk n i ha hb hr hacc hown).2.2 m hblock htable hread, State.armOutcome, harm]

end

end

theorem ropeArmResult : RopeArmResult := fun _ _ _ _ _ _ _ _ _ hg ha hb hr hacc hown =>
  ⟨exec_rparm_bad_block hg ha hb hr hacc hown, fun _ hblock htable => exec_rparm_equal_weights hg ha hb hr hacc hown hblock htable,
    fun _ hblock htable hread => exec_rparm_table hg ha hb hr hacc hown hblock htable hread⟩

/-! ### The armed rope (R73, R256) -/

section
variable (s : State) (n : Nat)

theorem Unmoved.mapEvery {β : Type} {g : State → β} (hg : Unmoved g) (f : Thread → Thread) : g (s.mapEvery f) = g s :=
  (hg.sched _ _).trans (hg.threads _ _)

/-- Members that leave or lose their notices change no memory and no rope (R256). -/
theorem Unmoved.membersGo {β : Type} {g : State → β} (hg : Unmoved g) (stay : Bool) (mem : Table RMem) : g (s.membersGo n stay mem) = g s := by
  refine (hg.mapEvery _ _).trans (foldl_keeps g (fun r p => ?_) mem s)
  split
  · exact hg.tell ..
  · rfl

end

theorem unmoved_ropes : Unmoved State.ropes := ⟨fun _ _ => rfl, fun _ _ => rfl, fun _ _ => rfl, fun _ _ => rfl, fun _ _ => rfl⟩

/-- The members' entries of a rope that is armed: fresh from IDLE or with RESET, else kept with the marks of the round before withdrawn; each with its
weight (R256). -/
def armedMembers (r : Rope) (a : ArmBlock) (ws : List Nat) : Table RMem :=
  (List.range a.n).map fun i => (i, if r.st = 0 ∨ a.reset = true then { weight := ws.getD i 1 }
    else { ({ Table.get ({} : RMem) i r.mem with cnt := false, kp := false, kd := false, dead := false } : RMem) with weight := ws.getD i 1 })

/-- A rope as arming leaves it (R256). -/
def armedRope (r : Rope) (l : Nat) (a : ArmBlock) (mem : Table RMem) (far : Bool) : Rope :=
  { r with armed := true, owner := l, kill := a.kill, fill := a.fill, q := a.q, n := a.n, short := false, deaddev := false, late := 0
           filled := false, st := 1, killed := 0, arrived := 0, joined := (mem.filter fun p => p.2.j).length, remote := far
           i32 := a.i32, len := a.len, offs := a.offs, wtot := (mem.map fun p => p.2.weight).sum, warr := 0, stale := a.stale
           mem := mem, pend := [] }

theorem armedMembers_weights (r : Rope) (a : ArmBlock) (ws : List Nat) :
    (armedMembers r a ws).map (fun p => p.2.weight) = (List.range a.n).map fun i => ws.getD i 1 := by
  rw [armedMembers, List.map_map]
  refine List.map_congr_left fun i _ => ?_
  rw [Function.comp_apply]
  split <;> rfl

theorem armedMembers_nobody {r : Rope} {a : ArmBlock} (h : r.st = 0 ∨ a.reset = true) (ws : List Nat) :
    (armedMembers r a ws).filter (fun p => p.2.j) = [] := by
  simp only [armedMembers, if_pos h, List.filter_map, List.map_eq_nil_iff]
  exact List.filter_eq_nil_iff.mpr fun i _ => Bool.false_ne_true

section
variable (s : State) (l n : Nat) (a : ArmBlock) (ws : List Nat)

theorem ropeArm_rope_same : ∃ far, (s.ropeArm l n a ws).rope n = armedRope (s.rope n) l a (armedMembers (s.rope n) a ws) far := by
  have hstands (b : Bool) : (s.membersGo n b (s.rope n).mem).rope n = s.rope n := congrArg (Table.get ({} : Rope) n) (unmoved_ropes.membersGo s n b _)
  exact ⟨_, (State.modRope_rope ..).trans ((if_pos rfl).trans (congrArg (armedRope · l a (armedMembers (s.rope n) a ws) _) (hstands _)))⟩

theorem ropeArm_rope_other {m : Nat} (h : m ≠ n) : (s.ropeArm l n a ws).rope m = s.rope m := by
  rw [State.ropeArm, State.modRope_rope, if_neg h, State.rope, State.put, unmoved_ropes.membersGo]
  rfl

theorem ropeArm_mem : (s.ropeArm l n a ws).mem = memPuts (campKey (a.offs * 64)) (List.replicate (a.len * 64) 0) s.mem := by
  exact congrArg (memPuts _ _) (steady_mem.membersGo ..)

/-- Arming zeroes the target and no other byte (R256). -/
theorem ropeArm_byte (h : s.MemOk) (x : Nat) :
    (s.ropeArm l n a ws).byte x = if campKey (a.offs * 64) ≤ x ∧ x < campKey (a.offs * 64) + a.len * 64 then 0 else s.byte x := by
  rw [State.byte, ropeArm_mem, Machine.memGet_memPuts _ _ _ h, List.length_replicate]
  split
  · next hx => exact List.getD_replicate _ (by omega)
  · rfl

end

theorem ropeArmed : RopeArmed := by
  intro s l n a ws hmem
  obtain ⟨far, hrope⟩ := ropeArm_rope_same s l n a ws
  simp only [hrope]
  refine ⟨rfl, rfl, rfl, rfl, rfl, rfl, rfl, rfl, rfl, rfl, rfl, rfl, rfl, rfl, rfl, rfl, rfl, rfl, ?_, fun hfresh => ?_, ropeArm_byte s l n a ws hmem,
    fun m hne => ropeArm_rope_other s l n a ws hne⟩
  · exact congrArg List.sum (armedMembers_weights ..)
  · exact congrArg List.length (armedMembers_nobody hfresh ws)

/-! ### `rpjoin` (R257) -/

section
variable {h a b : BitVec 6} {s p q u : State} {pc w wt : Word} {n i : Nat}

/-- Once its operands are read, `rpjoin` of a rope of this device enters the thread or refuses it (R257). -/
theorem rpjoin_runs (h a b : BitVec 6) : ∃ body, (∀ s, exec (.rpjoin h a b) s = runC 0 body s) ∧ ∀ (s p q u : State) (pc w wt : Word) (n i : Nat),
    src h s = .ok (pc, p) → src a p = .ok (w, q) → src b q = .ok (wt, u) → ropeOf w true u = .ok ((n, i, u.dev.devno), u) →
    (u.cur.mem = none → wt.toNat ≤ 65535 → joinable (u.rope n) i = true → body s = .ok ((), (u.ropeJoin n i u.dev.devno (thidOf u.cur) wt.toNat).modCur fun t =>
      { t with mem := some ⟨n, i, u.dev.devno, 0⟩, killPc := pc, kill := none })) ∧
    (¬ (u.cur.mem = none ∧ wt.toNat ≤ 65535 ∧ joinable (u.rope n) i = true) → body s = .error (.trap 0x12 w)) := by
  refine ⟨_, fun _ => rfl, fun s p q u pc w wt n i hh ha hb hr => ?_⟩
  rw [Ex.bind_ok hh, Ex.bind_ok ha, Ex.bind_ok hb, Ex.bind_ok hr]
  simp only [Ex.get_bind]
  refine ⟨fun hmem hwt hj => ?_, fun hno => ?_⟩
  · rw [if_neg (by rw [hmem]; exact not_or.mpr ⟨Bool.false_ne_true, Nat.not_lt.mpr hwt⟩), if_neg (not_not.mpr rfl), if_pos hj]
    rfl
  · split
    · rfl
    · next hok =>
      rw [not_or, Bool.not_eq_true, Option.isSome_eq_false_iff, Option.isNone_iff_eq_none, Nat.not_lt] at hok
      have hj : ¬ joinable (u.rope n) i = true := fun hj => hno ⟨hok.1, hok.2, hj⟩
      rw [if_neg (not_not.mpr rfl), if_neg hj]
      rfl

theorem joinable_iff {r : Rope} : joinable r i = true ↔ i < r.n ∧ (Table.get {} i r.mem).j = false ∧ r.st ≠ 0 ∧ r.st ≠ 3 := by
  simp [joinable, and_assoc]

theorem ropeJoin_joined (d thid x : Nat) : ((u.ropeJoin n i d thid x).rope n).joined = (u.rope n).joined + 1 := by
  rw [State.ropeJoin, State.modRope_rope, if_pos rfl]

end

theorem ropeJoinResult : RopeJoinResult := by
  intro h a b s p q u pc w wt n i hg hh ha hb hr ok
  obtain ⟨body, hexec, hbody⟩ := rpjoin_runs h a b
  obtain ⟨henters, hrefuses⟩ := hbody s p q u pc w wt n i hh ha hb hr
  refine ⟨fun hok => ⟨?_, ropeJoin_joined ..⟩, fun hno => ?_⟩
  · obtain ⟨hmem, hwt, hj⟩ := hok
    rw [hexec]
    exact runC_goes hg (henters hmem hwt (joinable_iff.mpr hj))
  · rw [hexec]
    refine runC_goes_trap hg (hrefuses fun hok => hno ?_)
    obtain ⟨hmem, hwt, hj⟩ := hok
    exact ⟨hmem, hwt, joinable_iff.mp hj⟩

/-- Settles O28: what `rparm` comes to, what arming leaves, and what `rpjoin` comes to. -/
theorem ropeArming : Obligations.RopeArming := ⟨ropeArmResult, ropeArmed, ropeJoinResult⟩

end Sys2Proof.Machine

/-! # Arriving at, waiting for and leaving a rope, of this device or another (R73, R123, R255 to R258, R261, R438). -/

namespace Sys2Proof.Machine

open Sys2Proof.Claims

/-! ### Stops that are no park (R337) -/

/-- What a body comes to is no park. -/
def Unparked (r : Except Stop (Unit × State)) : Prop := (∀ n f, r ≠ .error (.park n f)) ∧ ∀ n f, r ≠ .error (.wait n f)

section
variable {s t u : State} {body : Ex Unit} {p : Nat}

theorem unparked_ok (r : Unit × State) : Unparked (.ok r) := ⟨fun _ _ h => (nomatch h), fun _ _ h => (nomatch h)⟩

theorem unparked_cause (z : Cause) : Unparked (.error (.cause z)) := ⟨fun _ _ h => (nomatch h), fun _ _ h => (nomatch h)⟩

theorem noneBefore_of_unparked (hg : s.goesC 0) (h : Unparked (body (s.passing p))) : noneBefore (actC 0 body s) s p = true := by
  have hact : actC 0 body s (s.passing p) = body (s.passing p) := by simp only [actC, Ex.bind_ok (waitSlot_zero _), hg.1, if_true]
  obtain ⟨hpark, hwait⟩ := h
  unfold State.passing at hact hpark hwait
  simp only [noneBefore, hact]

/-- A push completes, or takes the fault of the entry that it loses (R29, R31). -/
theorem push_cases (v : Word) (s : State) : (∃ t, push v s = .ok ((), t)) ∨ ∃ z, push v s = .error (.cause z) := by
  cases h : s.cur.t.getD 15 (.val 0) with
  | val x => exact .inl ⟨_, push_val h⟩
  | pend i => exact .inl ⟨_, push_pend h⟩
  | bad sb z => exact .inr ⟨z, push_bad h⟩

theorem unparked_push {k : Unit → Ex Unit} (v : Word) (h : ∀ t, push v s = .ok ((), t) → Unparked (k () t)) : Unparked ((push v >>= k) s) := by
  obtain ⟨t, ht⟩ | ⟨z, hz⟩ := push_cases v s
  · rw [Ex.bind_ok ht]; exact h t ht
  · rw [Ex.bind_error hz]; exact unparked_cause z

end

/-! ### The rope word (R255) -/

/-- A rope word is read the same where later parks are passed. -/
theorem ropeOf_passing {u : State} {w : Word} {j : Bool} {r : Nat × Nat × Nat} (h : ropeOf w j u = .ok (r, u)) (p : Nat) :
    ropeOf w j (u.passing p) = .ok (r, u.passing p) := by
  simp only [ropeOf, Ex.get_bind] at h ⊢
  split at h
  · cases h
  next hw =>
  refine (congrFun (if_neg hw) _).trans ?_
  split at h
  · next hd =>
    refine (congrFun (if_pos hd) _).trans ?_
    split at h
    · next hx => cases h; exact congrFun (if_pos hx) _
    · cases h
  · next hd =>
    refine (congrFun (if_neg hd) _).trans ?_
    split at h
    · cases h
    · next ho => cases h; exact congrFun (if_neg ho) _

/-! ### What another device is asked about a rope (R255, R257, R261, R438) -/

/-- The device of a rope is asked, and its answer taken: values, or the cause of its refusal. -/
def askRope (w : Word) (d code : Nat) (ws : List Word) : Ex (List Word) := askAndWait 8 d code ws >>= ropeAnswer w

section
variable {s u t : State} {w k : Word} {d code : Nat} {ws vs : List Word}

theorem askRope_answered (h : u.cur.wait = .got (0 :: vs)) : askRope w d code ws u = .ok (vs, calm u) := by
  rw [askRope, Ex.bind_ok (askAndWait_got h)]; rfl

theorem askRope_refused (hk : k ≠ 0) (h : u.cur.wait = .got (k :: vs)) : askRope w d code ws u = .error (.trap k.toNat w) := by
  rw [askRope, Ex.bind_ok (askAndWait_got h), ropeAnswer]
  · rfl
  · exact hk

theorem askRope_unreached (h : u.cur.wait = .none) (hr : u.reach d = false) : askRope w d code ws u = .error (.trap 0x17 w) := by
  have hask : askAndWait 8 d code ws u = .ok ([0x17], u) := by simp only [askAndWait, Ex.get_bind, h, hr]; rfl
  rw [askRope, Ex.bind_ok hask]
  rfl

theorem askRope_waits (h : u.cur.wait = .none) (hr : u.reach d = true) (hk : u.latch.skip = 0) :
    askRope w d code ws u = .error (.wait 8 fun s => asked s d code ws) :=
  Ex.bind_error ((askAndWait_asks h hr).trans (parkWith_run _ (.inl hk)))

theorem askRope_passed (h : u.cur.wait = .none) (hr : u.reach d = true) : askRope w d code ws (u.passing 8) = .ok ([], u.passing 8) := by
  have hask : askAndWait 8 d code ws (u.passing 8) = .ok (default, u.passing 8) :=
    (askAndWait_asks (s := u.passing 8) h hr).trans (parkWith_passed _ (by decide : (8 : Nat) ≠ 0) (le_refl 8))
  rw [askRope, Ex.bind_ok hask]
  rfl

section
variable {body : Ex Unit} {cont : List Word → Ex Unit} (hg : s.goesC 0) (hrun : body s = (askRope w d code ws >>= cont) u)
include hg hrun

/-! An instruction that asks another device about a rope and goes on with the answer. -/

theorem runC_rope_answered (h : u.cur.wait = .got (0 :: vs)) (hc : cont vs (calm u) = .ok ((), t)) : runC 0 body s = .next (s.ended t) :=
  runC_goes hg (hrun.trans ((Ex.bind_ok (askRope_answered h)).trans hc))

theorem runC_rope_refused (hk : k ≠ 0) (h : u.cur.wait = .got (k :: vs)) : runC 0 body s = .next (trapped s k.toNat w false) :=
  runC_goes_trap hg (hrun.trans (Ex.bind_error (askRope_refused hk h)))

theorem runC_rope_unreached (h : u.cur.wait = .none) (hr : u.reach d = false) : runC 0 body s = .next (trapped s 0x17 w false) :=
  runC_goes_trap hg (hrun.trans (Ex.bind_error (askRope_unreached h hr)))

theorem runC_rope_asks (h : u.cur.wait = .none) (hr : u.reach d = true) (hk : u.latch.skip = 0)
    (hpass : body (s.passing 8) = (askRope w d code ws >>= cont) (u.passing 8)) (hc : Unparked (cont [] (u.passing 8))) :
    runC 0 body s = .next (waiting s (asked s d code ws) 8) := by
  refine runC_goes_wait (f := fun s => asked s d code ws) hg (hrun.trans (Ex.bind_error (askRope_waits h hr hk))) (noneBefore_of_unparked hg ?_)
  rw [hpass, Ex.bind_ok (askRope_passed h hr)]
  exact hc

end

end

/-! ### `rpwait`, `rpstat`, `rpleave` (R73, R261) -/

/-- The three words of a rope's state as `rpstat` reads them (R261). -/
def State.ropeWords (u : State) (n : Nat) : List Word := [BitVec.ofNat 64 (u.ropeReg n 1), BitVec.ofNat 64 (u.ropeReg n 3), BitVec.ofNat 64 (u.ropeReg n 4)]

/-- Three values are pushed, the last to t0 (R261). -/
def pushThree (vs : List Word) : Ex Unit := do
  push (vs.getD 0 0)
  push (vs.getD 1 0)
  push (vs.getD 2 0)

theorem pushThree_run {s p q t : State} {vs : List Word} (h0 : push (vs.getD 0 0) s = .ok ((), p)) (h1 : push (vs.getD 1 0) p = .ok ((), q))
    (h2 : push (vs.getD 2 0) q = .ok ((), t)) : pushThree vs s = .ok ((), t) := by
  rw [pushThree, Ex.bind_ok h0, Ex.bind_ok h1, h2]

theorem unparked_pushThree (vs : List Word) (s : State) : Unparked (pushThree vs s) := by
  refine unparked_push _ fun p _ => unparked_push _ fun q _ => ?_
  obtain ⟨t, ht⟩ | ⟨z, hz⟩ := push_cases (vs.getD 2 0) q
  · rw [ht]; exact unparked_ok _
  · rw [hz]; exact unparked_cause z

/-- Once its rope word is read, `rpwait` looks at the wait of its thread and at the rope, or asks the rope's device (R261). -/
theorem rpwait_runs (a : BitVec 6) : ∃ body, (∀ s, exec (.rpwait a) s = runC 0 body s) ∧ ∀ (s u : State) (w : Word) (n i d : Nat),
    src a s = .ok (w, u) → ropeOf w false u = .ok ((n, i, d), u) →
    (d ≠ u.dev.devno → body s = (askRope w d 4 [BitVec.ofNat 64 u.curCtx.job, w] >>= fun _ => pure ()) u) ∧
    (d = u.dev.devno → u.cur.wait = .none → (u.rope n).st = 4 ∨ (u.rope n).st = 0 → body s = .ok ((), u)) ∧
    (d = u.dev.devno → u.cur.wait = .none → ¬ ((u.rope n).st = 4 ∨ (u.rope n).st = 0) →
      body s = parkWith 8 (fun s => s.modCur fun t => { t with wait := .rope n }) u) ∧
    (∀ v, d = u.dev.devno → u.cur.wait = .done v → body s = .ok ((), calm u)) := by
  refine ⟨_, fun _ => rfl, fun s u w n i d ha hr => ?_⟩
  rw [Ex.bind_ok ha, Ex.bind_ok hr]
  simp only [Ex.get_bind]
  refine ⟨fun hd => by rw [if_pos hd]; rfl, fun hd hw hst => ?_, fun hd hw hst => ?_, fun v hd hw => ?_⟩
  all_goals rw [if_neg (not_not.mpr hd), hw]
  · rw [if_pos hst]; rfl
  · rw [if_neg hst]
  · rfl

/-- Once its rope word is read, `rpstat` pushes the words of the rope's state, or those that the rope's device answers (R261). -/
theorem rpstat_runs (a : BitVec 6) : ∃ body, (∀ s, exec (.rpstat a) s = runC 0 body s) ∧ ∀ (s u : State) (w : Word) (n i d : Nat),
    src a s = .ok (w, u) → ropeOf w false u = .ok ((n, i, d), u) →
    (d ≠ u.dev.devno → body s = (askRope w d 5 [BitVec.ofNat 64 u.curCtx.job, w] >>= pushThree) u) ∧
    (d = u.dev.devno → body s = pushThree (u.ropeWords n) u) := by
  refine ⟨_, fun _ => rfl, fun s u w n i d ha hr => ?_⟩
  rw [Ex.bind_ok ha, Ex.bind_ok hr]
  simp only [Ex.get_bind]
  refine ⟨fun hd => by simp only [if_pos hd]; rfl, fun hd => by simp only [if_neg (not_not.mpr hd)]; rfl⟩

section
variable {s u t p q : State} {a : BitVec 6} {w k : Word} {n i d : Nat} {vs : List Word}

section
variable (hg : s.goesC 0) (ha : src a s = .ok (w, u))
include hg ha

section
variable (hr : ropeOf w false u = .ok ((n, i, u.dev.devno), u))
include hr

theorem exec_rpwait_over (hw : u.cur.wait = .none) (hst : (u.rope n).st = 4 ∨ (u.rope n).st = 0) : exec (.rpwait a) s = .next (s.ended u) := by
  obtain ⟨body, hexec, hbody⟩ := rpwait_runs a
  obtain ⟨-, hover, -⟩ := hbody s u w n i _ ha hr
  rw [hexec]
  exact runC_goes hg (hover rfl hw hst)

theorem exec_rpwait_parks (hw : u.cur.wait = .none) (h4 : (u.rope n).st ≠ 4) (h0 : (u.rope n).st ≠ 0) (hk : s.latch.skip = 0) :
    exec (.rpwait a) s = .next (waiting s (s.modCur fun t => { t with wait := .rope n }) 8) := by
  obtain ⟨body, hexec, hbody⟩ := rpwait_runs a
  obtain ⟨hlatch, hpass⟩ := src_passing hk ha 8
  obtain ⟨-, -, hparks, -⟩ := hbody s u w n i _ ha hr
  obtain ⟨-, -, hlater, -⟩ := hbody _ _ w n i _ hpass (ropeOf_passing hr 8)
  have hst : ¬ ((u.rope n).st = 4 ∨ (u.rope n).st = 0) := not_or.mpr ⟨h4, h0⟩
  rw [hexec]
  exact runC_goes_wait hg ((hparks rfl hw hst).trans (parkWith_run _ (.inl (hlatch ▸ hk)))) (noneBefore_of_ok hg ((hlater rfl hw hst).trans
    (parkWith_passed _ (by decide : (8 : Nat) ≠ 0) (le_refl 8))))

theorem exec_rpwait_released {v : Word} (hw : u.cur.wait = .done v) : exec (.rpwait a) s = .next (s.ended (calm u)) := by
  obtain ⟨body, hexec, hbody⟩ := rpwait_runs a
  obtain ⟨-, -, -, hdone⟩ := hbody s u w n i _ ha hr
  rw [hexec]
  exact runC_goes hg (hdone v rfl hw)

theorem exec_rpstat (h0 : push (BitVec.ofNat 64 (u.ropeReg n 1)) u = .ok ((), p)) (h1 : push (BitVec.ofNat 64 (u.ropeReg n 3)) p = .ok ((), q))
    (h2 : push (BitVec.ofNat 64 (u.ropeReg n 4)) q = .ok ((), t)) : exec (.rpstat a) s = .next (s.ended t) := by
  obtain ⟨body, hexec, hbody⟩ := rpstat_runs a
  obtain ⟨-, hhere⟩ := hbody s u w n i _ ha hr
  rw [hexec]
  exact runC_goes hg ((hhere rfl).trans (pushThree_run h0 h1 h2))

end

/-! Ropes of another device. -/

section
variable (hr : ropeOf w false u = .ok ((n, i, d), u)) (hd : d ≠ u.dev.devno)
include hr hd

theorem exec_rpwait_asks (hw : u.cur.wait = .none) (hreach : u.reach d = true) (hk : s.latch.skip = 0) :
    exec (.rpwait a) s = .next (waiting s (asked s d 4 [BitVec.ofNat 64 u.curCtx.job, w]) 8) := by
  obtain ⟨body, hexec, hbody⟩ := rpwait_runs a
  obtain ⟨hlatch, hpass⟩ := src_passing hk ha 8
  rw [hexec]
  exact runC_rope_asks hg ((hbody s u w n i d ha hr).1 hd) hw hreach (hlatch ▸ hk) ((hbody _ _ w n i d hpass (ropeOf_passing hr 8)).1 hd) (unparked_ok _)

theorem exec_rpstat_asks (hw : u.cur.wait = .none) (hreach : u.reach d = true) (hk : s.latch.skip = 0) :
    exec (.rpstat a) s = .next (waiting s (asked s d 5 [BitVec.ofNat 64 u.curCtx.job, w]) 8) := by
  obtain ⟨body, hexec, hbody⟩ := rpstat_runs a
  obtain ⟨hlatch, hpass⟩ := src_passing hk ha 8
  rw [hexec]
  exact runC_rope_asks hg ((hbody s u w n i d ha hr).1 hd) hw hreach (hlatch ▸ hk) ((hbody _ _ w n i d hpass (ropeOf_passing hr 8)).1 hd) (unparked_pushThree ..)

theorem exec_rpwait_answered (hw : u.cur.wait = .got (0 :: vs)) : exec (.rpwait a) s = .next (s.ended (calm u)) := by
  obtain ⟨body, hexec, hbody⟩ := rpwait_runs a
  rw [hexec]
  exact runC_rope_answered hg ((hbody s u w n i d ha hr).1 hd) hw rfl

theorem exec_rpstat_answered (hw : u.cur.wait = .got (0 :: vs)) (h0 : push (vs.getD 0 0) (calm u) = .ok ((), p)) (h1 : push (vs.getD 1 0) p = .ok ((), q))
    (h2 : push (vs.getD 2 0) q = .ok ((), t)) : exec (.rpstat a) s = .next (s.ended t) := by
  obtain ⟨body, hexec, hbody⟩ := rpstat_runs a
  rw [hexec]
  exact runC_rope_answered hg ((hbody s u w n i d ha hr).1 hd) hw (pushThree_run h0 h1 h2)

theorem exec_rope_refused (hk : k ≠ 0) (hw : u.cur.wait = .got (k :: vs)) :
    exec (.rpwait a) s = .next (trapped s k.toNat w false) ∧ exec (.rpstat a) s = .next (trapped s k.toNat w false) := by
  obtain ⟨bwait, hwait, hbwait⟩ := rpwait_runs a
  obtain ⟨bstat, hstat, hbstat⟩ := rpstat_runs a
  rw [hwait, hstat]
  exact ⟨runC_rope_refused hg ((hbwait s u w n i d ha hr).1 hd) hk hw, runC_rope_refused hg ((hbstat s u w n i d ha hr).1 hd) hk hw⟩

theorem exec_rope_unreached (hw : u.cur.wait = .none) (hreach : u.reach d = false) :
    exec (.rpwait a) s = .next (trapped s 0x17 w false) ∧ exec (.rpstat a) s = .next (trapped s 0x17 w false) := by
  obtain ⟨bwait, hwait, hbwait⟩ := rpwait_runs a
  obtain ⟨bstat, hstat, hbstat⟩ := rpstat_runs a
  rw [hwait, hstat]
  exact ⟨runC_rope_unreached hg ((hbwait s u w n i d ha hr).1 hd) hw hreach, runC_rope_unreached hg ((hbstat s u w n i d ha hr).1 hd) hw hreach⟩

end

end

end

/-- What `rpleave` comes to for a member that has no arrival under way, for one that has, and for a thread that is none (R261). -/
theorem rpleave_runs : ∃ body, (∀ s, exec .rpleave s = runC 0 body s) ∧ ∀ s : State,
    (s.cur.mem.isSome = true → s.cur.arriving = false → body s = .ok ((), s.leaveRope s.latch.core s.latch.slot)) ∧
    (s.cur.mem.isSome = true → s.cur.arriving = true → body s = park 8 s) ∧
    (s.cur.mem = none → body s = .error (.trap 0x12 0)) := by
  refine ⟨_, fun _ => rfl, fun s => ?_⟩
  simp only [Ex.get_bind]
  refine ⟨fun hm ha => ?_, fun hm ha => ?_, fun hm => by rw [hm]; rfl⟩
  all_goals rw [if_neg (by rw [Option.isNone_iff_eq_none, ← Option.not_isSome_iff_eq_none]; exact not_not.mpr hm), ha]
  · rfl
  · rfl

theorem ropeWaitResult : RopeWaitResult := by
  refine ⟨fun a s u w n i hg ha hr => ⟨exec_rpwait_over hg ha hr, exec_rpwait_parks hg ha hr, fun v => exec_rpwait_released hg ha hr,
    fun p q t => exec_rpstat hg ha hr⟩, fun s hg => ?_⟩
  obtain ⟨body, hexec, hbody⟩ := rpleave_runs
  obtain ⟨hleaves, hparks, hnone⟩ := hbody s
  obtain ⟨-, hlater, -⟩ := hbody (s.passing 8)
  simp only [hexec]
  refine ⟨fun hm ha => runC_goes hg (hleaves hm ha), fun hm ha hk => ?_, fun hm => runC_goes_trap hg (hnone hm)⟩
  have hpassed : (park 8 : Ex Unit) (s.passing 8) = .ok ((), s.passing 8) := park_passed (by decide : (8 : Nat) ≠ 0) (le_refl 8)
  exact runC_goes_park hg ((hparks hm ha).trans (park_run (.inl hk))) (noneBefore_of_ok hg ((hlater hm ha).trans hpassed))

/-! ### `rpjoin` of a rope of another device (R255, R257, R438) -/

/-- The thread becomes a member, and its kill handler is set (R257). -/
def enterRope (pc : Word) (m : Member) : Ex Unit := modCur fun t => { t with mem := some m, killPc := pc, kill := none }

/-- Once its operands are read, `rpjoin` asks the rope's device, and enters the thread with the length that it answers (R257). -/
theorem rpjoin_runs_elsewhere (h a b : BitVec 6) : ∃ body, (∀ s, exec (.rpjoin h a b) s = runC 0 body s) ∧ ∀ (s p q u : State) (pc w wt : Word) (n i d : Nat),
    src h s = .ok (pc, p) → src a p = .ok (w, q) → src b q = .ok (wt, u) → ropeOf w true u = .ok ((n, i, d), u) → d ≠ u.dev.devno → u.cur.mem = none →
    wt.toNat ≤ 65535 →
    body s = (askRope w d 3 [BitVec.ofNat 64 u.curCtx.job, w, wt, BitVec.ofNat 64 (thidOf u.cur)] >>= fun vs => enterRope pc ⟨n, i, d, (vs.getD 0 0).toNat⟩) u := by
  refine ⟨_, fun _ => rfl, fun s p q u pc w wt n i d hh ha hb hr hd hm hwt => ?_⟩
  rw [Ex.bind_ok hh, Ex.bind_ok ha, Ex.bind_ok hb, Ex.bind_ok hr]
  simp only [Ex.get_bind]
  rw [if_neg (by rw [hm]; exact not_or.mpr ⟨Bool.false_ne_true, Nat.not_lt.mpr hwt⟩), if_pos hd]
  rfl

theorem ropeElsewhere : RopeElsewhere := by
  refine ⟨fun a s u w n i d hg ha hr hd => ⟨fun hw hreach hk => ⟨exec_rpwait_asks hg ha hr hd hw hreach hk, exec_rpstat_asks hg ha hr hd hw hreach hk⟩,
    fun vs hw => ⟨exec_rpwait_answered hg ha hr hd hw, fun p q t => exec_rpstat_answered hg ha hr hd hw⟩,
    fun k vs => exec_rope_refused hg ha hr hd, exec_rope_unreached hg ha hr hd⟩,
    fun h a b s p q u pc w wt n i d hg hh ha hb hr hd hm hwt => ?_⟩
  obtain ⟨body, hexec, hbody⟩ := rpjoin_runs_elsewhere h a b
  have hrun := hbody s p q u pc w wt n i d hh ha hb hr hd hm hwt
  rw [hexec]
  refine ⟨fun hw hreach hk => ?_, fun vs hw => runC_rope_answered hg hrun hw rfl, fun k vs hk hw => runC_rope_refused hg hrun hk hw⟩
  obtain ⟨hlp, hhpass⟩ := src_passing hk hh 8
  obtain ⟨hlq, hapass⟩ := src_passing (hlp ▸ hk) ha 8
  obtain ⟨hlu, hbpass⟩ := src_passing (hlq ▸ hlp ▸ hk) hb 8
  exact runC_rope_asks hg hrun hw hreach (hlu ▸ hlq ▸ hlp ▸ hk) (hbody _ _ _ _ pc w wt n i d hhpass hapass hbpass (ropeOf_passing hr 8) hd hm hwt) (unparked_ok _)

/-! ### What a reserved destination leaves of the latch (R30, R43, R188) -/

section
variable {s t v : State} {d id : Nat} {g : Dest}

theorem pushEnt_latch {e : REnt} (h : pushEnt e s = .ok ((), t)) : t.latch = s.latch := by
  cases he : s.cur.t.getD 15 (.val 0) with
  | val | pend => simp only [pushEnt, Ex.get_bind, he, modCur_run] at h; cases h; rfl
  | bad sb z => simp only [pushEnt, Ex.get_bind, he] at h; cases h

theorem serialise_latch (s : State) (c h : Nat) : (s.serialise c h).latch = s.latch := by
  unfold State.serialise
  dsimp only
  split
  · rfl
  · exact (steady_latch.modThread ..).trans ((steady_latch.count ..).trans (landBuf_latch ..))

theorem headed_latch (h : headed s = some v) : v.latch = s.latch := by
  unfold headed at h
  split at h
  · cases h; rfl
  · split at h
    · cases h; exact serialise_latch ..
    · cases h

/-- What keeps the latch's core. -/
def KeepsCore {α : Type} (x : Ex α) : Prop := ∀ (s t : State) (a : α), x s = .ok (a, t) → t.latch.core = s.latch.core

section
variable {α β : Type} {x : Ex α} {f : α → Ex β}

theorem keepsCore_bind (hx : KeepsCore x) (hf : ∀ a, KeepsCore (f a)) : KeepsCore (x >>= f) := by
  intro s t b h
  obtain ⟨a, u, hxu, hfu⟩ := Ex.bind_eq_ok.mp h
  exact (hf a u t b hfu).trans (hx s u a hxu)

theorem keepsCore_read {f : State → Ex β} (hf : ∀ s, KeepsCore (f s)) : KeepsCore ((get : Ex State) >>= f) := fun s t b h => hf s s t b h

theorem keepsCore_pure (a : α) : KeepsCore (pure a) := fun _ _ _ h => by cases h; rfl

theorem keepsCore_trap (n : Nat) (v : Word) : KeepsCore (trap n v : Ex α) := fun _ _ _ h => nomatch h

theorem keepsCore_park [Inhabited α] (n : Nat) : KeepsCore (park n : Ex α) := by
  intro s t a h
  by_cases hk : s.latch.skip ≠ 0 ∧ s.latch.skip ≤ n
  · rw [park_passed hk.1 hk.2] at h; cases h; rfl
  · rw [park_run (by omega)] at h; cases h

theorem keepsCore_modify {f : State → State} (hf : ∀ s, (f s).latch.core = s.latch.core) : KeepsCore (modify f : Ex PUnit) :=
  fun s _ _ h => by cases h; exact hf s

end

theorem keepsCore_pushEnt (e : REnt) : KeepsCore (pushEnt e) := fun _ _ _ h => congrArg Latch.core (pushEnt_latch h)

theorem keepsCore_pushQ (q : Nat) (e : QEnt) : KeepsCore (pushQ q e) := by
  refine keepsCore_read fun s => ?_
  dsimp only
  split
  · exact keepsCore_trap _ _
  split
  · exact keepsCore_park 2
  · exact keepsCore_bind (keepsCore_modify fun _ => rfl) fun _ => keepsCore_modify fun _ => rfl

theorem keepsCore_pushPort (i : Nat) (e : QEnt) : KeepsCore (pushPort i e) := by
  refine keepsCore_read fun s => ?_
  split
  · exact keepsCore_trap _ _
  dsimp only
  split
  · exact keepsCore_park 3
  · exact keepsCore_modify fun _ => rfl

/-- A reserved destination stands on the core whose bundle executes (R30, R43, R188). -/
theorem keepsCore_reserve (d id : Nat) : KeepsCore (reserve d id) := by
  refine keepsCore_read fun s => ?_
  split
  · exact keepsCore_bind (keepsCore_pushEnt _) fun _ => keepsCore_pure _
  split
  · split
    · exact keepsCore_park 0
    · exact keepsCore_bind (keepsCore_modify fun _ => rfl) fun _ => keepsCore_pure _
  split
  · exact keepsCore_bind (keepsCore_pushQ _ _) fun _ => keepsCore_pure _
  split
  · exact keepsCore_bind (keepsCore_pushPort _ _) fun _ => keepsCore_pure _
  split
  · exact keepsCore_pure _
  · exact keepsCore_trap _ _

end

/-! ### `rparr` (R123, R258) -/

theorem headGate_of_headed {u v : State} (h : headed u = some v) : headGate u = .ok ((), v) := by
  unfold headed at h
  simp only [headGate, Ex.get_bind]
  split at h
  · next hfree =>
    cases h
    rw [if_neg (by rintro ⟨ht, hs⟩; rcases hfree with hf | hf <;> simp [hf] at ht hs)]
    rfl
  · next hbusy =>
    split at h
    · next hhead =>
      cases h
      obtain ⟨hhead, hwait⟩ := hhead
      rw [if_pos (by rw [not_or] at hbusy; exact ⟨by simpa using hbusy.1, hbusy.2⟩), if_pos hhead]
      simp only [becomeSerial, Ex.get_bind, hwait]
      rfl
    · cases h

/-- The entry of a member of a rope of this device. -/
def State.memberEntry (u : State) (m : Member) : RMem := Table.get {} m.idx (u.rope m.rope).mem

theorem memberState_here {u : State} {m : Member} (h : m.dev = u.dev.devno) : memberState m u = .ok (((u.memberEntry m).cnt, (u.memberEntry m).j), u) := by
  simp only [memberState, Ex.get_bind, if_pos h]
  rfl

/-- Once its address is read, `rparr` of a member of a rope of this device looks at the member's entry, at the region, and at the rope (R258). -/
theorem rparr_runs (d a : BitVec 6) : ∃ body, (∀ s, exec (.rparr d a) s = runC 0 body s) ∧ ∀ (s u : State) (va : Word), src a s = .ok (va, u) →
    (u.cur.mem = none → body s = .error (.trap 0x12 va)) ∧
    (∀ m, u.cur.mem = some m → m.dev = u.dev.devno → u.cur.kill = none →
      (u.cur.arriving = true → body s = .error (.trap 0x12 va)) ∧
      (u.cur.arriving = false → 0 < u.curCtx.replays → (u.memberEntry m).cnt = true → body s = dest d 0 u) ∧
      (u.cur.arriving = false → u.curCtx.replays = 0 → (u.memberEntry m).cnt = true ∨ (u.memberEntry m).j = false → body s = .error (.trap 0x12 va)) ∧
      (u.cur.arriving = false → (u.memberEntry m).cnt = false → (u.memberEntry m).j = true →
        u.accessErr u.latch.core u.pre va.toNat (va.toNat + (u.rope m.rope).len * 64 - 1) 64 0 = none →
        (isOwn u.latch.core va.toNat = false → body s = .error (.trap 0x17 va)) ∧
        (isOwn u.latch.core va.toNat = true → ∀ v, headed u = some v →
          (3 ≤ (u.rope m.rope).st → body s = dest d 1 (v.modRope m.rope fun r => { r with late := min 255 (r.late + 1) })) ∧
          (∀ t g, (u.rope m.rope).st < 3 → (u.core u.latch.core).locks.length < 64 → reserve d.toNat v.nextOp v = .ok (g, t) →
            body s = .ok ((), ((((t.withOp { t.newOp .pre with dest := g, addr := va, n := (u.rope m.rope).len * 64 }).modCore u.latch.core fun k =>
              { k with locks := k.locks ++ [⟨v.nextOp, false, u.cur.x, 5, u.latch.slot, ownOff va.toNat, ownOff va.toNat + (u.rope m.rope).len * 64 - 1⟩] }).modCur
                fun q => { q with arriving := true })).ropeArrive m.rope
                  { m := m.idx, dev := m.dev, op := v.nextOp, bytes := v.bytes (spKey u.latch.core (ownOff va.toNat)) ((u.rope m.rope).len * 64) }))))) := by
  refine ⟨_, fun _ => rfl, fun s u va ha => ?_⟩
  rw [Ex.bind_ok ha]
  simp only [Ex.get_bind]
  refine ⟨fun hm => by rw [hm]; rfl, fun m hm hdev hkill => ?_⟩
  simp only [hm, hkill]
  refine ⟨fun harr => by rw [harr]; rfl, fun harr hrep hcnt => ?_, fun harr hrep hno => ?_, fun harr hcnt hj hacc => ⟨fun hown => ?_, fun hown v hv => ⟨fun hst => ?_,
    fun t g hst hlocks hres => ?_⟩⟩⟩
  all_goals simp only [harr, Bool.false_eq_true, if_false]
  all_goals refine (Ex.bind_ok (memberState_here hdev)).trans ?_
  · exact congrFun (if_pos ⟨hcnt, hrep⟩) u
  · refine (congrFun (if_neg fun h => by omega) u).trans (congrFun (if_pos ?_) u)
    exact hno.imp_right fun hj => by rw [hj]; exact Bool.false_ne_true
  all_goals
    refine (congrFun (if_neg fun h => ?_) u).trans ((congrFun (if_neg ?_) u).trans ?_)
    · rw [hcnt] at h; exact Bool.false_ne_true h.1
    · rw [hcnt, hj]; exact not_or.mpr ⟨Bool.false_ne_true, not_not.mpr rfl⟩
    simp only [if_pos hdev, hacc, hown]
  · rfl
  · rw [if_pos trivial, Ex.bind_ok (headGate_of_headed hv)]
    exact congrFun (if_pos ⟨hdev, hst⟩) v
  · rw [if_pos trivial, Ex.bind_ok (headGate_of_headed hv)]
    refine (congrFun (if_neg fun h => absurd h.2 (Nat.not_le.mpr hst)) v).trans ((congrFun (if_neg (Nat.not_le.mpr hlocks)) v).trans ?_)
    simp only [Ex.get_bind, Ex.bind_ok (issueTo_run hres)]
    have hcore : t.latch.core = u.latch.core := (keepsCore_reserve _ _ _ _ _ hres).trans (congrArg Latch.core (headed_latch hv))
    rw [← hcore]
    rfl

theorem ropeArriveResult : RopeArriveResult := by
  intro d a s u va hg ha
  obtain ⟨body, hexec, hbody⟩ := rparr_runs d a
  obtain ⟨hnone, hmember⟩ := hbody s u va ha
  simp only [hexec]
  refine ⟨fun hm => runC_goes_trap hg (hnone hm), fun m t hm hdev hkill hrep harr hcnt hd => ?_, fun m v hm hdev hkill hrep => ?_⟩
  · obtain ⟨-, hreplayed, -⟩ := hmember m hm hdev hkill
    exact runC_goes hg ((hreplayed harr hrep hcnt).trans hd)
  obtain ⟨hsecond, -, hout, harrives⟩ := hmember m hm hdev hkill
  refine ⟨fun h => ?_, fun hacc hown harr hcnt hj => ?_, fun harr hcnt hj hacc hown hv => ?_⟩
  · by_cases harr : u.cur.arriving = true
    · exact runC_goes_trap hg (hsecond harr)
    · exact runC_goes_trap hg (hout (Bool.eq_false_of_not_eq_true harr) hrep (h.resolve_left harr))
  · obtain ⟨hfar, -⟩ := harrives harr hcnt hj hacc
    exact runC_goes_trap hg (hfar hown)
  · obtain ⟨-, hhere⟩ := harrives harr hcnt hj hacc
    obtain ⟨hlate, hleaves⟩ := hhere hown v hv
    exact ⟨fun t hst hd => runC_goes hg ((hlate hst).trans hd), fun t g hst hlocks hres => runC_goes hg (hleaves t g hst hlocks hres)⟩

/-- Settles O29. The instructions of a rope of this device end, park or trap by what the rope's state, the member's entry and the thread's own state give; those of another
device ask it and stand for its answer. -/
theorem ropeUse : Obligations.RopeUse := ⟨ropeArriveResult, ropeWaitResult, ropeElsewhere⟩

end Sys2Proof.Machine

/-! # Fixed lines, barriers and ropes at work (R67, R75, R90, R128 to R134, R254, R258, R260, R347, R348). -/

namespace Sys2Proof.Machine

open Sys2Proof.Claims

/-- An entry of a table whose entries are changed in place. -/
theorem Table.get_map {α : Type} {d : α} {f : Nat → α → α} {k : Nat} (hd : f k d = d) (t : Table α) :
    Table.get d k (t.map fun p => (p.1, f p.1 p.2)) = f k (Table.get d k t) := by
  induction t with
  | nil => exact hd.symm
  | cons p t ih =>
    rw [List.map_cons, Table.get, Table.get, ih]
    split
    · next hk => rw [hk]
    · rfl

theorem mapThreads_thread {s : State} (f : Thread → Thread) (c h : Nat) :
    (s.mapThreads f).thread c h = if (s.thread c h).st = .empty then s.thread c h else f (s.thread c h) :=
  Table.get_map (d := ({} : Thread)) (f := fun _ t => if t.st = .empty then t else f t) (if_pos rfl) s.threads

/-! ### Fixed lines (R128, R129, R347, R348) -/

section
variable {s : State} {c : Nat}

/-- The core as the closing of an open BATCH window leaves it: the window gone, and the line's update in the out-queue (R128, R348). -/
def Core.windowClosed (k : Core) (e line : Nat) (bs : List Byte) : Core :=
  let f := Table.get {} e k.src
  { k with batch := k.batch.filter (· != (e, line)), batchClk := k.batchClk.filter fun p => p.1 != 16384 * e + line
           src := Table.set e { f with seq := (f.seq + 1) % 2 ^ 32 } k.src
           outq := k.outq ++ [⟨f.peer, f.pidx, (f.seq + 1) % 2 ^ 32, 64 * line, bs⟩] }

/-- The bytes of a line of a source entry. -/
def State.lineBytes (s : State) (c e line : Nat) : List Byte := s.bytes (spKey c ((Table.get ({} : FLine) e (s.core c).src).off + 64 * line)) 64

theorem closeBatch_open {e line : Nat} (hopen : (e, line) ∈ (s.core c).batch) (hroom : (s.core c).outq.length < 128) :
    ∃ t, s.closeBatch c e line = t ∧ t.mem = s.mem ∧ t.core c = (s.core c).windowClosed e line (s.lineBytes c e line) := by
  refine ⟨_, rfl, ?_⟩
  rw [State.closeBatch, if_pos ⟨List.contains_iff_mem.mpr hopen, hroom⟩]
  refine ⟨rfl, ?_⟩
  simp only [State.update, State.setCore_core, if_true]
  rfl

theorem exec_batchWindowClose_due (hdue : Table.get 0 (16384 * s.arg.n + s.arg.m) (s.core s.arg.c).batchClk + windowTime (Table.get {} s.arg.n (s.core s.arg.c).src) ≤ s.dev.clock)
    (hroom : (s.core s.arg.c).outq.length < 128) : exec .batchWindowClose s = .next (s.closeBatch s.arg.c s.arg.n s.arg.m) :=
  congrArg _ (if_pos ⟨hdue, hroom⟩)

theorem exec_batchWindowClose_waits (h : ¬ (Table.get 0 (16384 * s.arg.n + s.arg.m) (s.core s.arg.c).batchClk + windowTime (Table.get {} s.arg.n (s.core s.arg.c).src) ≤ s.dev.clock ∧
    (s.core s.arg.c).outq.length < 128)) : exec .batchWindowClose s = .next s := congrArg _ (if_neg h)

theorem updateIn_idle (h : (s.core c).inq = []) : s.updateIn c = s := by rw [State.updateIn, h]

theorem updateOut_idle (h : (s.core c).outq = []) : s.updateOut c = s := by rw [State.updateOut, h]

theorem updateOut_waits {u : Update} {l : List Update} (h : (s.core c).outq = u :: l) (hfull : 32 ≤ (s.core u.dst).inq.length) : s.updateOut c = s := by
  rw [State.updateOut, h]
  exact if_pos hfull

theorem updateOut_leaves {u : Update} {l : List Update} (h : (s.core c).outq = u :: l) (hdst : u.dst ≠ c) (hroom : (s.core u.dst).inq.length < 32) :
    (s.updateOut c).mem = s.mem ∧ ((s.updateOut c).core c).outq = l ∧ ((s.updateOut c).core u.dst).inq = (s.core u.dst).inq ++ [u] := by
  let sent := s.modCore c fun k => { k with outq := l }
  let x := (Table.get {} u.entry (s.core u.dst).sub).x
  have hout : s.updateOut c = (sent.count c x 256 16 1).modCore u.dst fun k => { k with inq := k.inq ++ [u] } := by
    rw [State.updateOut, h]
    exact if_neg (Nat.not_le.mpr hroom)
  have hcores (d : Nat) : (sent.count c x 256 16 1).core d = sent.core d := congrArg (Table.get ({} : Core) d) (steady_cores.count sent ..)
  rw [hout]
  refine ⟨steady_mem.count .., ?_, ?_⟩
  · rw [State.modCore_core, if_neg hdst.symm, hcores, State.modCore_core, if_pos rfl]
  · rw [State.modCore_core, if_pos rfl, hcores, State.modCore_core, if_neg hdst]

/-- The core as the oldest update of its in-queue leaves it, with none behind: the entry has the update's number (R129). -/
def Core.updateTaken (k : Core) (u : Update) : Core :=
  { k with inq := [], sub := Table.set u.entry { Table.get ({} : FLine) u.entry k.sub with seq := u.seq } k.sub }

/-- An update that no source line of the core hears lands on its region (R129). -/
theorem updateIn_applies {u : Update} (hin : (s.core c).inq = [u]) (hsrc : (s.core c).src = []) (hc : c < 512)
    (ho : (Table.get {} u.entry (s.core c).sub).off + u.off < 0x100000) :
    s.updateIn c = (s.modCore c (·.updateTaken u)).put
      (spKey c ((Table.get {} u.entry (s.core c).sub).off + u.off)) u.bytes := by
  have hroom (o n : Nat) : s.updateRoom c o n = true := by rw [State.updateRoom, hsrc]; rfl
  simp only [State.updateIn, hin, hroom]
  exact land_no_source hc ho (by rw [State.modCore_core, if_pos rfl]; exact hsrc) _ _

end

theorem fixedLineSteps : FixedLineSteps := by
  intro s
  refine ⟨fun hopen hdue hroom => ?_, fun hlate => ?_, fun hfull => ?_, fun u l hin hout hdst hroom => ?_, fun u l hin hout hfull => ?_, fun u hin hout hsrc hc ho => ?_⟩
  · obtain ⟨t, ht, hmem, hcore⟩ := closeBatch_open hopen hroom
    refine ⟨t, (exec_batchWindowClose_due hdue hroom).trans (congrArg _ ht), hmem, ?_⟩
    rw [hcore]
    refine ⟨fun h => ?_, ?_, rfl⟩
    · simp [Core.windowClosed] at h
    · exact congrArg FLine.seq (Table.get_set_same ..)
  · exact exec_batchWindowClose_waits fun h => absurd h.1 (Nat.not_le.mpr hlate)
  · exact exec_batchWindowClose_waits fun h => absurd h.2 (Nat.not_lt.mpr hfull)
  · have hexec : exec .flUpdateApply s = .next ((s.updateIn s.arg.c).updateOut s.arg.c) := rfl
    exact ⟨_, hexec.trans (by rw [updateIn_idle hin]), updateOut_leaves hout hdst hroom⟩
  · have hexec : exec .flUpdateApply s = .next ((s.updateIn s.arg.c).updateOut s.arg.c) := rfl
    rw [hexec, updateIn_idle hin, updateOut_waits hout hfull]
  · have hexec : exec .flUpdateApply s = .next ((s.updateIn s.arg.c).updateOut s.arg.c) := rfl
    have hcore : (s.modCore s.arg.c (·.updateTaken u)).core s.arg.c = (s.core s.arg.c).updateTaken u := (State.modCore_core ..).trans (if_pos rfl)
    have houtq : ((s.updateIn s.arg.c).core s.arg.c).outq = [] := by
      rw [updateIn_applies hin hsrc hc ho]
      exact (congrArg Core.outq hcore).trans hout
    rw [hexec, updateOut_idle houtq, updateIn_applies hin hsrc hc ho]
    refine ⟨_, rfl, congrArg Core.inq hcore, ?_, rfl, rfl⟩
    exact (congrArg (fun k : Core => (Table.get ({} : FLine) u.entry k.sub).seq) hcore).trans (congrArg FLine.seq (Table.get_set_same ..))

/-! ### Barriers (R67, R130, R254) -/

section
variable {s : State} {launch src c x n id : Nat} {rect : BitVec 32} {q : List (Nat × Nat)}

theorem exec_barrierArrivalHop_here (hid : s.arg.id ≠ 0) (hfind : s.flights.find? (fun f => f.1 == s.arg.id) = some (s.arg.id, .arrive launch src c x n rect q))
    (hhere : s.barrierHere launch c x = true) : exec .barrierArrivalHop s = .next ((s.landed s.arg.id).arriveAt src c x n rect q) := by
  have hexec : exec .barrierArrivalHop s = execBarrierArrivalHop s := rfl
  rw [hexec, execBarrierArrivalHop, if_neg hid, hfind]
  exact if_pos hhere

theorem exec_barrierArrivalHop_own (hid : s.arg.id = 0) : exec .barrierArrivalHop s = .next (s.coreArrival s.arg.c s.arg.x s.arg.n) := if_pos hid

theorem exec_barrierRelease_here (hfind : s.flights.find? (fun f => f.1 == s.arg.id) = some (id, .release launch c x n rect q)) (hhere : s.barrierHere launch c x = true) :
    exec .barrierRelease s = .next (if s.linesCaughtUp c q then (s.landed id).releaseAt c x n rect q else s) := by
  have hexec : exec .barrierRelease s = execBarrierRelease s := rfl
  rw [hexec, execBarrierRelease, hfind]
  exact if_pos hhere

/-- MIS set in a register's value (R67). -/
theorem mis_set (v : BitVec 32) : bit (BitVec.ofNat 32 (putBits v.toNat 30 1 1)).toNat 30 = true := by
  simp only [bit, putBits, bits, BitVec.toNat_ofNat, beq_iff_eq]
  omega

/-- GEN put in a register's value (R67). -/
theorem gen_put (v : BitVec 32) (g : Nat) : bgGen (BitVec.ofNat 32 (putBits v.toNat 24 6 g)).toNat = g % 64 := by
  simp only [bgGen, putBits, bits, BitVec.toNat_ofNat]
  omega

theorem arriveAt_mismatch (h : bgKey ((s.ctx c x).bgv n) ≠ rect) :
    s.arriveAt src c x n rect q = s.modCtx c x fun k => { k with bg := Table.set n (BitVec.ofNat 32 (putBits ((s.ctx c x).bgv n) 30 1 1)) k.bg } := if_pos h

/-- The context with an arrival from core `src` noted on register `n`. -/
def Ctx.heardFrom (k : Ctx) (src n : Nat) (q : List (Nat × Nat)) : Ctx :=
  { k with barIn := Table.set n (src :: Table.get [] n k.barIn) k.barIn, barSeq := Table.set n (Table.get [] n k.barSeq ++ q) k.barSeq }

theorem sweepOn_stays (h : Table.get 0 n (s.ctx c x).barSent ≠ 1) : s.sweepOn c x n = s := if_neg fun hs => h hs.1

theorem arriveAt_noted (h : bgKey ((s.ctx c x).bgv n) = rect) (hsent : Table.get 0 n (s.ctx c x).barSent = 0) :
    s.arriveAt src c x n rect q = s.modCtx c x (·.heardFrom src n q) := by
  have hstays : Table.get 0 n ((s.modCtx c x (·.heardFrom src n q)).ctx c x).barSent ≠ 1 := by
    rw [State.modCtx_ctx, if_pos rfl, Ctx.heardFrom, hsent]
    exact Nat.zero_ne_one
  exact (if_neg (not_not.mpr h)).trans (sweepOn_stays hstays)

/-- What an arrival of core `c` on register `n` sends: the arrival to the next core of the sweep, or the release from the corner (R254). -/
def Ctx.sweepFlight (k : Ctx) (c x n : Nat) (q : List (Nat × Nat)) : Flight :=
  match sweepTo (k.bgv n) c with
  | some d => .arrive k.launch c d x n (bgKey (k.bgv n)) q
  | none => .release k.launch c x n (bgKey (k.bgv n)) q

theorem sweepOn_goes (hsent : Table.get 0 n (s.ctx c x).barSent = 1) (hbehind : sweepFrom ((s.ctx c x).bgv n) c = []) :
    s.sweepOn c x n = (s.modCtx c x fun k => { k with barSent := Table.set n 2 k.barSent }).fly ((s.ctx c x).sweepFlight c x n (Table.get [] n (s.ctx c x).barSeq)) := by
  rw [State.sweepOn]
  dsimp only
  rw [hbehind, if_pos ⟨hsent, rfl⟩, Ctx.sweepFlight]
  cases sweepTo ((s.ctx c x).bgv n) c <;> rfl

theorem coreArrival_not (h : s.coreArrives c x n = false) : s.coreArrival c x n = s := if_neg fun hs => by rw [h] at hs; exact Bool.false_ne_true hs.1

/-- The context once its core has arrived on register `n`. -/
def Ctx.arrived (k : Ctx) (n : Nat) (q : List (Nat × Nat)) : Ctx :=
  { k with barSent := Table.set n 1 k.barSent, barSeq := Table.set n (Table.get [] n k.barSeq ++ q) k.barSeq }

/-- The sequence numbers of a context's source lines on a core (R130). -/
def State.sourceSeqs (s : State) (c x : Nat) : List (Nat × Nat) :=
  (s.core c).src.filterMap fun p => if p.2.v ∧ p.2.x = x then some (64 * p.2.peer + p.2.pidx, p.2.seq) else none

theorem coreArrival_arrives (h : s.coreArrives c x n = true) (hbatch : (s.core c).batch = []) (hroom : (s.core c).outq.length ≤ 128) :
    s.coreArrival c x n = (s.modCtx c x (·.arrived n (s.sourceSeqs c x))).sweepOn c x n := by
  have hclose : s.closeAll c = s := by rw [State.closeAll, hbatch]; rfl
  have hok : s.closeRoom c = true := by
    rw [State.closeRoom, hbatch]
    exact decide_eq_true hroom
  rw [State.coreArrival, if_pos ⟨h, hok⟩, hclose]
  rfl

/-- A core that has arrived, with no core behind it, sends its arrival on (R254). -/
theorem coreArrival_sends (h : s.coreArrives c x n = true) (hbatch : (s.core c).batch = []) (hroom : (s.core c).outq.length ≤ 128)
    (hbehind : sweepFrom ((s.ctx c x).bgv n) c = []) : ∃ (t : Table Ctx) (q : List (Nat × Nat)),
      s.coreArrival c x n = { s with ctxs := t }.fly ((s.ctx c x).sweepFlight c x n q) ∧ Table.get 0 n (Table.get ({} : Ctx) (2 * c + x) t).barSent = 2 := by
  let r := s.modCtx c x (·.arrived n (s.sourceSeqs c x))
  have hctx : r.ctx c x = (s.ctx c x).arrived n (s.sourceSeqs c x) := (State.modCtx_ctx ..).trans (if_pos rfl)
  have hsent : Table.get 0 n (r.ctx c x).barSent = 1 := by rw [hctx]; exact Table.get_set_same ..
  refine ⟨Table.set (2 * c + x) { r.ctx c x with barSent := Table.set n 2 (r.ctx c x).barSent } r.ctxs, Table.get [] n (r.ctx c x).barSeq,
    (coreArrival_arrives h hbatch hroom).trans ?_, ?_⟩
  · have hflight : (r.ctx c x).sweepFlight c x n = (s.ctx c x).sweepFlight c x n := by rw [hctx]; rfl
    exact (sweepOn_goes hsent (by rw [hctx]; exact hbehind)).trans (by rw [hflight]; rfl)
  · rw [Table.get_set_same]
    exact Table.get_set_same ..

/-! #### A release reaches a core -/

/-- A member of a register's generation is free once the release has come (R254). -/
def Thread.barrierPassed (x n g : Nat) (t : Thread) : Thread := if t.x = x then { t with arr := t.arr.filter fun a => !(a.bg == n && a.gen == g) } else t

theorem barrierPassed_arr {t : Thread} {g : Nat} {r : BarArr} (hx : t.x = x) (harr : t.arr = some r) (hbg : r.bg = n) (hgen : r.gen = g) :
    (t.barrierPassed x n g).arr = none := by
  rw [Thread.barrierPassed, if_pos hx, harr]
  simp [Option.filter, hbg, hgen]

theorem barrierHere_launch (h : s.barrierHere launch c x = true) : (s.ctx c x).launch = launch := by
  simp only [State.barrierHere, Bool.and_eq_true, beq_iff_eq] at h
  exact h.2

theorem barrierPassed_twice (g : Nat) (t : Thread) : (t.barrierPassed x n g).barrierPassed x n g = t.barrierPassed x n g := by
  unfold Thread.barrierPassed
  split
  · simp [Option.filter_filter, *]
  · rfl

theorem foldl_modThread_thread {f : Thread → Thread} (hf : ∀ t, f (f t) = f t) (h : Nat) (l : List (Nat × Thread)) (s : State) :
    (l.foldl (fun s p => s.modThread c p.1 f) s).thread c h = if h ∈ l.map Prod.fst then f (s.thread c h) else s.thread c h := by
  induction l generalizing s with
  | nil => rfl
  | cons a l ih =>
    rw [List.foldl_cons, ih, State.modThread_thread]
    by_cases he : h = a.1
    · subst he; simp [hf]
    · simp only [if_neg (show ¬ 256 * c + h = 256 * c + a.1 by omega), List.map_cons, List.mem_cons, he, false_or]

theorem mem_threadsOf {h : Nat} (hh : h < 256) (hlive : (s.thread c h).st ≠ .empty) : h ∈ (s.threadsOf c).map Prod.fst := by
  have hmem : (256 * c + h, s.thread c h) ∈ s.threads := Table.get_mem (P := fun t : Thread => t.st ≠ .empty) (not_not.mpr rfl) hlive
  refine List.mem_map.mpr ⟨(h, s.thread c h), List.mem_filterMap.mpr ⟨_, hmem, ?_⟩, rfl⟩
  rw [if_pos ⟨by omega, hlive⟩, Nat.mul_add_mod, Nat.mod_eq_of_lt hh]

theorem foldl_fly_keeps {f : Nat → Flight} {p : Nat × Flight} (l : List Nat) (s : State) (h : p ∈ s.flights) : p ∈ (l.foldl (fun s d => s.fly (f d)) s).flights := by
  induction l generalizing s with
  | nil => exact h
  | cons a l ih => exact ih _ (List.mem_append_left _ h)

theorem foldl_fly_sends {f : Nat → Flight} {d : Nat} (l : List Nat) (s : State) (h : d ∈ l) : ∃ p ∈ (l.foldl (fun s d => s.fly (f d)) s).flights, p.2 = f d := by
  induction l generalizing s with
  | nil => exact absurd h List.not_mem_nil
  | cons a l ih =>
    rcases List.mem_cons.mp h with rfl | h
    · exact ⟨_, foldl_fly_keeps l _ (List.mem_append_right _ (List.mem_singleton_self _)), rfl⟩
    · exact ih _ h

/-- The context's register as a release leaves it (R67, R254). -/
def Ctx.released (k : Ctx) (n : Nat) (rect : BitVec 32) : Ctx :=
  { k with lastRect := some rect, bg := Table.set n (BitVec.ofNat 32 (putBits (k.bgv n) 24 6 ((bgGen (k.bgv n) + 1) % 64))) k.bg
           barSent := Table.set n 0 k.barSent, barIn := Table.set n [] k.barIn, barSeq := Table.set n [] k.barSeq }

/-- The state with the members of a core freed, before the release goes on. -/
def State.membersPassed (s : State) (c x n : Nat) (rect : BitVec 32) : State :=
  let r := s.setCtx c x ((s.ctx c x).released n rect)
  (r.threadsOf c).foldl (fun r p => r.modThread c p.1 (Thread.barrierPassed x n ((bgGen ((s.ctx c x).bgv n) + 1) % 64))) r

theorem releaseAt_eq (h : (s.ctx c x).replayable = false) :
    s.releaseAt c x n rect q = (sweepFrom rect.toNat c).foldl (fun r d => r.fly (.release (s.ctx c x).launch d x n rect q)) (s.membersPassed c x n rect) := by
  have hcheck : s.checkpoint c x = s := by rw [State.checkpoint, h]; rfl
  rw [State.releaseAt, hcheck]
  rfl

theorem foldl_fly_stands {β : Type} {g : State → β} (hg : ∀ s f, g (s.fly f) = g s) (f : Nat → Flight) (l : List Nat) (s : State) :
    g (l.foldl (fun s d => s.fly (f d)) s) = g s := foldl_keeps g (fun s d => hg s (f d)) l s

theorem releaseAt_stands {β : Type} {g : State → β} (hfly : ∀ s f, g (s.fly f) = g s) (hthread : ∀ s c h f, g (s.modThread c h f) = g s)
    (h : (s.ctx c x).replayable = false) : g (s.releaseAt c x n rect q) = g (s.setCtx c x ((s.ctx c x).released n rect)) := by
  rw [releaseAt_eq h, foldl_fly_stands hfly]
  exact foldl_keeps g (fun s (p : Nat × Thread) => hthread s c p.1 _) _ _

theorem releaseAt_mem (h : (s.ctx c x).replayable = false) : (s.releaseAt c x n rect q).mem = s.mem :=
  releaseAt_stands (g := State.mem) (fun _ _ => rfl) (fun _ _ _ _ => rfl) h

theorem releaseAt_ctx (h : (s.ctx c x).replayable = false) : (s.releaseAt c x n rect q).ctx c x = (s.ctx c x).released n rect :=
  (releaseAt_stands (g := fun s => s.ctx c x) (fun _ _ => rfl) (fun _ _ _ _ => rfl) h).trans ((State.setCtx_ctx ..).trans (if_pos rfl))

theorem releaseAt_thread (h : (s.ctx c x).replayable = false) {m : Nat} (hm : m < 256) (hlive : (s.thread c m).st ≠ .empty) :
    (s.releaseAt c x n rect q).thread c m = (s.thread c m).barrierPassed x n ((bgGen ((s.ctx c x).bgv n) + 1) % 64) := by
  rw [releaseAt_eq h, foldl_fly_stands (g := fun s => s.thread c m) fun _ _ => rfl]
  exact (foldl_modThread_thread (barrierPassed_twice _) ..).trans (if_pos (mem_threadsOf (s := s.setCtx c x ((s.ctx c x).released n rect)) hm hlive))

end

theorem barrierSteps : BarrierSteps := by
  intro s
  refine ⟨fun launch src c x n rect q hid hfind hhere hrect => ?_, fun launch src c x n rect q hid hfind hhere hrect hsent => ?_,
    fun hid harr hbatch hroom hbehind => ?_, fun hid harr => ?_, fun id launch c x n rect q hfind hhere hup hrep => ?_, fun id launch c x n rect q hfind hhere hup => ?_⟩
  · refine ⟨_, exec_barrierArrivalHop_here hid hfind hhere, ?_⟩
    rw [arriveAt_mismatch (s := s.landed s.arg.id) hrect]
    refine ⟨rfl, ?_, rfl, rfl⟩
    rw [State.modCtx_ctx, if_pos rfl, Ctx.bgv, Table.get_set_same]
    exact mis_set _
  · refine ⟨_, exec_barrierArrivalHop_here hid hfind hhere, ?_⟩
    rw [arriveAt_noted (s := s.landed s.arg.id) hrect hsent]
    refine ⟨rfl, ?_, rfl, rfl⟩
    rw [State.modCtx_ctx, if_pos rfl]
    exact Table.get_set_same ..
  · obtain ⟨t, q, hgoes, hsent⟩ := coreArrival_sends harr hbatch hroom hbehind
    exact ⟨_, _, (exec_barrierArrivalHop_own hid).trans (congrArg _ hgoes), rfl, hsent, rfl, rfl, q, rfl⟩
  · exact (exec_barrierArrivalHop_own hid).trans (congrArg _ (coreArrival_not harr))
  · have hctx : (s.landed id).ctx c x = s.ctx c x := rfl
    refine ⟨_, (exec_barrierRelease_here hfind hhere).trans (congrArg _ (if_pos hup)), releaseAt_mem hrep, ?_⟩
    rw [releaseAt_ctx (s := s.landed id) hrep]
    refine ⟨?_, Table.get_set_same .., fun h hh hlive hx r harr hbg hgen => ?_, fun d hd => ?_⟩
    · rw [Ctx.bgv, Ctx.released, Table.get_set_same]
      exact (gen_put ..).trans (Nat.mod_mod ..)
    · rw [releaseAt_thread (s := s.landed id) hrep hh hlive]
      exact barrierPassed_arr hx harr hbg hgen
    · rw [releaseAt_eq (s := s.landed id) hrep, ← barrierHere_launch hhere]
      exact foldl_fly_sends (f := fun d => .release (s.ctx c x).launch d x n rect q) _ _ hd
  · exact (exec_barrierRelease_here hfind hhere).trans (congrArg _ (if_neg (by rw [hup]; exact Bool.false_ne_true)))

/-! ### Ropes (R75, R90, R133, R134, R258, R260) -/

section
variable {s : State} {n m : Nat} {p : RPend} {f : RPend → RPend}

theorem modPend_rope : (s.modPend n m f).rope n = { s.rope n with pend := (s.rope n).pend.map fun q => if q.m = m then f q else q } :=
  (State.modRope_rope ..).trans (if_pos rfl)

theorem find_member (h : (s.rope n).pend.find? (fun q => q.m == m) = some p) : p.m = m := by simpa using List.find?_some h

/-- The contribution of a member after a change that keeps its place. -/
theorem modPend_find (h : (s.rope n).pend.find? (fun q => q.m == m) = some p) (hf : ∀ q, q.m = m → (f q).m = m) :
    ((s.modPend n m f).rope n).pend.find? (fun q => q.m == m) = some (f p) := by
  have hplace : (fun q : RPend => q.m == m) ∘ (fun q => if q.m = m then f q else q) = fun q => q.m == m := by
    funext q
    by_cases hq : q.m = m <;> simp [hq, hf]
  rw [modPend_rope, List.find?_map, hplace, h, Option.map_some, if_pos (find_member h)]

theorem exec_ropePendingWrite (h : (s.rope s.arg.id).pend.find? (fun q => q.m == s.arg.m) = some p) :
    exec .ropePendingWrite s = .next (if s.pendRoom s.arg.id p then s.modPend s.arg.id s.arg.m fun q => { q with wrote := q.wrote + 1 } else s) := by
  have hexec : exec .ropePendingWrite s = execRopePendingWrite s := rfl
  rw [hexec, execRopePendingWrite, h, ← find_member h]

/-- The contribution with line `i` acknowledged. -/
def RPend.ack (p : RPend) (i : Nat) : RPend := { p with acked := i :: p.acked }

/-- The state after line `i` of the contribution is acknowledged, and the member counted where it was the last (R258). -/
def State.lineAcked (s : State) (n m i : Nat) (p : RPend) : State := (s.modPend n m fun _ => p.ack i).countMember n (p.ack i)

theorem exec_ropeBankAck_stands (h : (s.rope s.arg.id).pend.find? (fun q => q.m == s.arg.m) = some p) (hw : p.wrote ≤ s.arg.n) : exec .ropeBankAck s = .next s := by
  have hexec : exec .ropeBankAck s = execRopeBankAck s := rfl
  rw [hexec, execRopeBankAck, h]
  exact if_pos (.inl hw)

/-- An acknowledged line changes the rope, and counters of contexts besides (R258, R399). -/
theorem exec_ropeBankAck (h : (s.rope s.arg.id).pend.find? (fun q => q.m == s.arg.m) = some p) (hw : s.arg.n < p.wrote) (ha : s.arg.n ∉ p.acked) :
    ∃ t : Table Ctx, exec .ropeBankAck s = .next { s.lineAcked s.arg.id s.arg.m s.arg.n p with ctxs := t } := by
  have hexec : exec .ropeBankAck s = execRopeBankAck s := rfl
  have hno : ¬ (p.wrote ≤ s.arg.n ∨ p.acked.contains s.arg.n = true) := not_or.mpr ⟨Nat.not_le.mpr hw, by rwa [List.contains_iff_mem]⟩
  rw [hexec, execRopeBankAck, h]
  dsimp only
  rw [if_neg hno]
  split
  · split
    · obtain ⟨t, ht, -⟩ := count_eq (s.lineAcked s.arg.id s.arg.m s.arg.n p) _ _ _ 17 1
      exact ⟨t, congrArg _ ht⟩
    · exact ⟨_, rfl⟩
  · exact ⟨_, rfl⟩

theorem countMember_waits (h : ∃ i, i < (s.rope n).needed ∧ i ∉ p.acked) : s.countMember n p = s := by
  obtain ⟨i, hi, hacked⟩ := h
  refine if_pos (.inr (.inr fun hall => hacked ?_))
  exact List.contains_iff_mem.mp (List.all_eq_true.mp hall i (List.mem_range.mpr hi))

/-- The rope with member `p.m` counted (R258). -/
def Rope.counts (r : Rope) (p : RPend) : Rope :=
  { r with arrived := r.arrived + 1, warr := r.warr + (Table.get ({} : RMem) p.m r.mem).weight
           mem := Table.set p.m { Table.get ({} : RMem) p.m r.mem with cnt := true } r.mem
           pend := r.pend.map fun q => if q.m = p.m then { q with counted := true } else q }

/-- The state with a member counted, its result not given yet (R258). -/
def State.memberCounted (s : State) (n : Nat) (p : RPend) : State :=
  let e := Table.get ({} : RMem) p.m (s.rope n).mem
  ((s.modRope n fun r => { r with arrived := r.arrived + 1, warr := r.warr + e.weight }).modMember n p.m fun e => { e with cnt := true }).modPend n p.m fun q => { q with counted := true }

theorem memberCounted_rope : (s.memberCounted n p).rope n = (s.rope n).counts p := by
  rw [State.memberCounted, modPend_rope, State.modMember, State.modRope_rope, if_pos rfl, State.modRope_rope, if_pos rfl, Rope.counts]

/-- A member that the quorum does not end with is counted; its result is nobody's when its operation is gone (R258). -/
theorem countMember_counts (hc : p.counted = false) (hst : (s.rope n).st = 1 ∨ (s.rope n).st = 2) (hall : ∀ i, i < (s.rope n).needed → i ∈ p.acked)
    (hq : (s.rope n).arrived + 1 < (s.rope n).q) (hdev : p.dev = s.dev.devno) (hop : s.opById p.op = none) : s.countMember n p = s.memberCounted n p := by
  have hgo : ¬ (p.counted = true ∨ ¬ ((s.rope n).st = 1 ∨ (s.rope n).st = 2) ∨ ¬ ((List.range (s.rope n).needed).all fun i => p.acked.contains i) = true) := by
    rintro (h | h | h)
    · rw [hc] at h; exact Bool.false_ne_true h
    · exact h hst
    · exact h (List.all_eq_true.mpr fun i hi => List.contains_iff_mem.mpr (hall i (List.mem_range.mp hi)))
  have hend : (s.memberCounted n p).endArrival p 0 = s.memberCounted n p := by
    have hnone : (s.memberCounted n p).opById p.op = none := hop
    exact (if_pos hdev).trans (by rw [hnone])
  have hquorum : ¬ ((s.memberCounted n p).rope n).q ≤ ((s.memberCounted n p).rope n).arrived := by
    rw [memberCounted_rope]
    exact Nat.not_le.mpr hq
  rw [← if_neg (c := _ ≤ _) (t := (s.memberCounted n p).startRelease n false) (e := s.memberCounted n p) hquorum]
  refine (if_neg hgo).trans ?_
  exact congrArg (fun r : State => if (r.rope n).q ≤ (r.rope n).arrived then r.startRelease n false else r) hend

/-! #### Merging, and the end of a release -/

/-- The sum with line `i` of a contribution merged into it (R133). -/
def State.lineSummed (s : State) (n : Nat) (p : RPend) (i : Nat) : State :=
  let k := campKey (((s.rope n).offs + i) * 64)
  s.put k (lineAdd (s.rope n).i32 (s.bytes k 64) (slice p.bytes (64 * i) 64))

/-- Line `i` of a member's contribution is merged, and contributions merged whole are gone (R133, R258). -/
def State.lineMerged (s : State) (n m i : Nat) : State :=
  (s.modPend n m fun q => { q with merged := i :: q.merged }).modRope n fun r => { r with pend := r.pend.filter fun q => !(q.counted && decide (r.len ≤ q.merged.length)) }

/-- A merged line changes the sum and the rope's entries, where no stale copy is kept (R133). -/
theorem mergeLine_eq {i : Nat} (h : (s.rope n).fill ≠ 2) : s.mergeLine n p i = (s.lineSummed n p i).lineMerged n p.m i := by
  unfold State.mergeLine
  dsimp only
  rw [if_neg h, State.lineMerged, State.lineSummed]

theorem lineMerged_mem {i : Nat} : (s.lineMerged n m i).mem = s.mem := rfl

theorem lineMerged_threads {i : Nat} : (s.lineMerged n m i).threads = s.threads := rfl

theorem lineSummed_threads {i : Nat} : (s.lineSummed n p i).threads = s.threads := by rw [State.lineSummed, State.put]

theorem lineSummed_mem {i : Nat} : (s.lineSummed n p i).mem =
    memPuts (campKey (((s.rope n).offs + i) * 64)) (lineAdd (s.rope n).i32 (s.bytes (campKey (((s.rope n).offs + i) * 64)) 64) (slice p.bytes (64 * i) 64)) s.mem := put_mem ..

theorem exec_ropeMerge (h : (s.rope s.arg.id).pend.find? (fun q => q.m == s.arg.m) = some p) :
    (p.counted = true → s.arg.n < p.wrote → s.arg.n ∉ p.merged → exec .ropeMerge s = .next (s.mergeLine s.arg.id p s.arg.n)) ∧
    (p.counted = false ∨ s.arg.n ∈ p.merged → exec .ropeMerge s = .next s) := by
  have hexec : exec .ropeMerge s = execRopeMerge s := rfl
  rw [hexec, execRopeMerge, h]
  refine ⟨fun hc hw hm => congrArg _ (if_pos ⟨hc, hw, by rwa [List.contains_iff_mem]⟩), fun hno => congrArg _ (if_neg fun hgo => ?_)⟩
  obtain ⟨hc, -, hm⟩ := hgo
  rcases hno with hno | hno
  · rw [hno] at hc; exact Bool.false_ne_true hc
  · exact hm (List.contains_iff_mem.mpr hno)

/-- The rope as the end of a release leaves it (R260). -/
def Rope.ended (r : Rope) : Rope := { r with filled := true, armed := false, st := 4, round := (r.round + 1) % 2 ^ 32 }

/-- A waiter of the rope is woken (R134). -/
def ropeWoken (n : Nat) (t : Thread) : Thread := if t.wait = .rope n then { t with wait := .done 0 } else t

/-- A release with nothing to fill and nobody away ends: the rope's word changes, and the waiters wake (R134, R260). -/
theorem endRelease_ends (hst : (s.rope n).st = 3) (hpend : (s.rope n).pend = []) (hfill : (s.rope n).fill = 0) (haway : (s.rope n).away = []) :
    (s.endRelease n).mem = s.mem ∧ (s.endRelease n).rope n = { (s.rope n).ended with away := [] } ∧ (s.endRelease n).threads = (s.mapThreads (ropeWoken n)).threads := by
  have hgo : ¬ ((s.rope n).st ≠ 3 ∨ (s.rope n).pend ≠ []) := not_or.mpr ⟨not_not.mpr hst, not_not.mpr hpend⟩
  have hfilled : s.fillSum n = s := by
    rw [State.fillSum, hfill, if_neg (fun h => absurd h.1 (by decide)), if_neg (by decide)]
  let r := (s.modRope n Rope.ended).mapThreads (ropeWoken n)
  have hrope : r.rope n = (s.rope n).ended := (State.modRope_rope s n n Rope.ended).trans (if_pos rfl)
  have hnone : (r.rope n).away = [] := by rw [hrope]; exact haway
  have hend : s.endRelease n = r.modRope n fun r => { r with away := [] } := by
    rw [State.endRelease, if_neg hgo, hfilled]
    refine congrArg (fun q : State => q.modRope n fun r => { r with away := [] }) ?_
    exact congrArg (List.foldl _ r) hnone
  rw [hend]
  refine ⟨rfl, ?_, rfl⟩
  rw [State.modRope_rope, if_pos rfl, hrope]

end

theorem ropeSteps : RopeSteps := by
  intro s
  refine ⟨fun p hfind hroom => ?_, fun p hfind hroom => ?_, fun p hfind hw => exec_ropeBankAck_stands hfind hw, fun p hfind hw ha hmore => ?_,
    fun p hpend hm hc hst hw ha hall hq hdev hop => ?_, fun p hfind hc hw hm hfill => ?_, fun p hfind hno => (exec_ropeMerge hfind).2 hno,
    fun hst hpend hfill haway => ?_, fun hno => congrArg _ (if_pos hno)⟩
  · refine ⟨_, (exec_ropePendingWrite hfind).trans (congrArg _ (if_pos hroom)), rfl, rfl, ?_, ?_⟩
    · exact modPend_find (f := fun q => { q with wrote := q.wrote + 1 }) hfind fun q hq => hq
    · rw [modPend_rope]
  · exact (exec_ropePendingWrite hfind).trans (congrArg _ (if_neg (by rw [hroom]; exact Bool.false_ne_true)))
  · obtain ⟨t, hexec⟩ := exec_ropeBankAck hfind hw ha
    have hrope : (s.modPend s.arg.id s.arg.m fun _ => p.ack s.arg.n).rope s.arg.id = _ := modPend_rope
    have hwaits : s.lineAcked s.arg.id s.arg.m s.arg.n p = s.modPend s.arg.id s.arg.m fun _ => p.ack s.arg.n := by
      refine countMember_waits ?_
      obtain ⟨i, hi, hne, hacked⟩ := hmore
      rw [hrope]
      exact ⟨i, hi, fun h => (List.mem_cons.mp h).elim hne hacked⟩
    rw [hwaits] at hexec
    refine ⟨_, hexec, rfl, rfl, modPend_find (f := fun _ => p.ack s.arg.n) hfind fun _ _ => find_member (p := p) hfind, ?_, ?_⟩
    · exact (congrArg Rope.arrived hrope).trans rfl
    · exact (congrArg Rope.warr hrope).trans rfl
  · have hfind : (s.rope s.arg.id).pend.find? (fun q => q.m == s.arg.m) = some p := by simp [hpend, hm]
    obtain ⟨t, hexec⟩ := exec_ropeBankAck hfind hw ha
    have hrope : (s.modPend s.arg.id s.arg.m fun _ => p.ack s.arg.n).rope s.arg.id = _ := modPend_rope
    have hcounts : s.lineAcked s.arg.id s.arg.m s.arg.n p = (s.modPend s.arg.id s.arg.m fun _ => p.ack s.arg.n).memberCounted s.arg.id (p.ack s.arg.n) := by
      refine countMember_counts hc (by rw [hrope]; exact hst) (fun i hi => ?_) (by rw [hrope]; exact hq) hdev hop
      rw [hrope] at hi
      exact List.mem_cons.mpr (hall i hi)
    rw [hcounts] at hexec
    refine ⟨_, hexec, rfl, ?_⟩
    have hcounted := memberCounted_rope (s := s.modPend s.arg.id s.arg.m fun _ => p.ack s.arg.n) (n := s.arg.id) (p := p.ack s.arg.n)
    rw [hrope] at hcounted
    refine ⟨congrArg Rope.arrived hcounted, (congrArg Rope.warr hcounted).trans ?_, (congrArg (fun r : Rope => (Table.get ({} : RMem) s.arg.m r.mem).cnt) hcounted).trans ?_⟩
    · rw [← hm]; rfl
    · rw [← hm]; exact congrArg RMem.cnt (Table.get_set_same ..)
  · obtain ⟨hmerges, -⟩ := exec_ropeMerge hfind
    refine ⟨_, hmerges hc hw hm, ?_, ?_⟩
    · rw [mergeLine_eq hfill, lineMerged_threads, lineSummed_threads]
    · rw [mergeLine_eq hfill, lineMerged_mem, lineSummed_mem]
  · obtain ⟨hmem, hrope, hthreads⟩ := endRelease_ends hst hpend hfill haway
    refine ⟨_, rfl, hmem, ?_⟩
    rw [hrope]
    refine ⟨rfl, rfl, rfl, rfl, fun c h hh hlive hwait => ?_⟩
    rw [State.thread, hthreads]
    have hget := mapThreads_thread (s := s) (ropeWoken s.arg.id) c h
    rw [if_neg hlive, ropeWoken, if_pos hwait] at hget
    exact congrArg Thread.wait hget

/-- Settles O48: the steps of the fixed lines, of the barriers and of the ropes. -/
theorem linesBarriersRopes : Obligations.LinesBarriersRopes := ⟨fixedLineSteps, barrierSteps, ropeSteps⟩

end Sys2Proof.Machine

/-! # Time, counters and trace (R71, R338, R394, R395, R399 to R404, R406). -/

namespace Sys2Proof.Machine

open Sys2Proof.Claims

/-! ### The parts of an s-cycle (R338, R395, R399 to R403) -/

section
variable {s : State}

/-- Counting an s-cycle changes contexts and steps to come only (R399 to R402). -/
theorem countCycle_eq (s : State) (c x : Nat) : ∃ t a, s.countCycle c x = { s with ctxs := t, agenda := a } := by
  unfold State.countCycle
  dsimp only
  split
  · exact ⟨s.ctxs, s.agenda, rfl⟩
  · obtain ⟨t, ht, -⟩ := count_eq s c x 256 1 1
    rw [ht]
    split
    · exact ⟨_, _, rfl⟩
    · exact ⟨_, s.agenda, rfl⟩

/-- The state with an s-cycle counted in every context. -/
def State.counted (s : State) : State := s.ctxs.foldl (fun s p => s.countCycle (p.1 / 2) (p.1 % 2)) s

theorem counted_eq (s : State) : ∃ t a, s.counted = { s with ctxs := t, agenda := a } := by
  have hfold (l : List (Nat × Ctx)) (s : State) : ∃ t a, l.foldl (fun s p => s.countCycle (p.1 / 2) (p.1 % 2)) s = { s with ctxs := t, agenda := a } := by
    induction l generalizing s with
    | nil => exact ⟨s.ctxs, s.agenda, rfl⟩
    | cons p l ih =>
      obtain ⟨t, a, heq⟩ := countCycle_eq s (p.1 / 2) (p.1 % 2)
      rw [List.foldl_cons, heq]
      exact ih _
  exact hfold s.ctxs s

/-- A core whose trace has taken an entry (R403). -/
def Core.entryTaken (k : Core) : Core := { k with trIdx := k.trIdx + 1, trLeft := if k.trState = 2 then k.trLeft - 1 else k.trLeft }

/-- A part of the state that stands whatever a trace writes: memory, its own place in the core, and steps to come. -/
structure Untraced {β : Type} (g : State → β) : Prop where
  put : ∀ (s : State) (a : Nat) (b : List Byte), g (s.put a b) = g s
  core : ∀ (s : State) (c : Nat), g (s.modCore c Core.entryTaken) = g s
  agenda : ∀ (s : State) (x : List Event), g { s with agenda := x } = g s

theorem Untraced.traceEntry {β : Type} {g : State → β} (hg : Untraced g) (s : State) (c : Nat) : g (s.traceEntry c) = g s := by
  unfold State.traceEntry
  dsimp only
  split
  · have hwritten (a : Nat) (b : List Byte) : g ((s.put a b).modCore c Core.entryTaken) = g s := (hg.core ..).trans (hg.put ..)
    split
    · exact (hg.agenda _ _).trans (hwritten _ _)
    · exact hwritten _ _
  · rfl

/-- The state with the trace entries of every core written. -/
def State.traced (s : State) : State := s.cores.foldl (fun s p => s.traceEntry p.1) s

theorem Untraced.traced {β : Type} {g : State → β} (hg : Untraced g) (s : State) : g s.traced = g s := 
  foldl_keeps g (fun s (p : Nat × Core) => hg.traceEntry s p.1) s.cores s

theorem untraced_dev : Untraced State.dev := ⟨fun _ _ _ => rfl, fun _ _ => rfl, fun _ _ => rfl⟩
theorem untraced_threads : Untraced State.threads := ⟨fun _ _ _ => rfl, fun _ _ => rfl, fun _ _ => rfl⟩
theorem untraced_ctxs : Untraced State.ctxs := ⟨fun _ _ _ => rfl, fun _ _ => rfl, fun _ _ => rfl⟩

/-- A trace changes nothing else of a core. -/
theorem untraced_core {β : Type} {f : Core → β} (hf : ∀ k : Core, f k.entryTaken = f k) (c : Nat) : Untraced fun s => f (s.core c) := by
  refine ⟨fun _ _ _ => rfl, fun s d => ?_, fun _ _ => rfl⟩
  rw [State.modCore_core]
  split
  · next h => rw [hf, h]
  · rfl

theorem ageAll_thread {c h : Nat} (hh : h < 256) :
    s.ageAll.thread c h = if (s.thread c h).st = .ready ∧ (s.core c).issued.map Prod.fst ≠ some h then aged (s.core c).ageq (s.thread c h) else s.thread c h := by
  have hmap := Table.get_map (d := ({} : Thread)) (k := 256 * c + h) (f := fun k t => if t.st = .ready ∧ (s.core (k / 256)).issued.map Prod.fst ≠ some (k % 256) then
    aged (s.core (k / 256)).ageq t else t) (if_neg fun h => absurd h.1 (by decide)) s.threads
  have hc : (256 * c + h) / 256 = c := by omega
  have hslot : (256 * c + h) % 256 = h := by omega
  rw [hc, hslot] at hmap
  refine Eq.trans ?_ hmap
  rw [State.thread, State.ageAll]
  congr 1
  refine List.map_congr_left fun p _ => ?_
  split <;> rfl

/-- The cores with nothing issued. -/
def State.rested (s : State) : State := { s with cores := s.cores.map fun p => (p.1, { p.2 with issued := none }) }

theorem rested_core (c : Nat) : s.rested.core c = { s.core c with issued := none } :=
  Table.get_map (d := ({} : Core)) (f := fun _ k => { k with issued := none }) rfl s.cores

/-- The state as an s-cycle leaves it, before the clusters' load registers are looked at. -/
def State.cycled (s : State) : State := s.counted.traced.ageAll.rested.modDev fun d => { d with clock := (d.clock + 1) % 2 ^ 64 }

theorem exec_sCycle : ∃ a, exec .sCycle s = .next { s.cycled with agenda := a } := by
  have hexec : exec .sCycle s = .next (if s.cycled.dev.clock % 64 = 0 then { s.cycled with agenda := s.cycled.agenda ++ s.cycled.loadsDue.map fun k => ⟨.cairnRefresh, { n := k }⟩ }
    else s.cycled) := rfl
  rw [hexec]
  split
  · exact ⟨_, rfl⟩
  · exact ⟨s.cycled.agenda, rfl⟩

theorem counted_dev : s.counted.dev = s.dev := by
  obtain ⟨t, a, heq⟩ := counted_eq s
  rw [heq]

theorem counted_threads : s.counted.threads = s.threads := by
  obtain ⟨t, a, heq⟩ := counted_eq s
  rw [heq]

theorem counted_core (c : Nat) : s.counted.core c = s.core c := by
  obtain ⟨t, a, heq⟩ := counted_eq s
  rw [heq]
  rfl

theorem cycled_dev : s.cycled.dev = { s.dev with clock := (s.dev.clock + 1) % 2 ^ 64 } :=
  congrArg (fun d : Dev => { d with clock := (d.clock + 1) % 2 ^ 64 }) ((untraced_dev.traced _).trans counted_dev)

theorem cycled_issued (c : Nat) : (s.cycled.core c).issued = none := congrArg Core.issued (rested_core c)

/-- A READY thread that did not issue is one s-cycle older; every other is as it was (R338). -/
theorem cycled_thread {c h : Nat} (hh : h < 256) :
    s.cycled.thread c h = if (s.thread c h).st = .ready ∧ (s.core c).issued.map Prod.fst ≠ some h then aged (s.core c).ageq (s.thread c h) else s.thread c h := by
  have hthread : s.counted.traced.thread c h = s.thread c h := congrArg (Table.get ({} : Thread) _) ((untraced_threads.traced _).trans counted_threads)
  have hissued : (s.counted.traced.core c).issued = (s.core c).issued :=
    ((untraced_core (f := Core.issued) (fun _ => rfl) c).traced _).trans (congrArg Core.issued (counted_core c))
  have hageq : (s.counted.traced.core c).ageq = (s.core c).ageq :=
    ((untraced_core (f := Core.ageq) (fun _ => rfl) c).traced _).trans (congrArg Core.ageq (counted_core c))
  refine (ageAll_thread (s := s.counted.traced) hh).trans ?_
  rw [hthread, hissued, hageq]

/-- A counter of 48 bits that goes on by one. -/
def countUp (n : Nat) (t : Table Nat) : Table Nat := Table.set n ((Table.get 0 n t + 1) % 2 ^ 48) t

theorem countUp_get (n i : Nat) (t : Table Nat) : Table.get 0 i (countUp n t) = if i = n then (Table.get 0 i t + 1) % 2 ^ 48 else Table.get 0 i t := by
  rw [countUp, Table.get_set]
  split
  · next h => rw [h]
  · rfl

/-- An s-cycle counted for a context with no event counter and no capture (R400, R401). -/
def Ctx.cycleCounted (k : Ctx) (code bucket : Nat) : Ctx :=
  { k with cnt := { k.cnt with tlc := countUp code k.cnt.tlc, hist := countUp bucket k.cnt.hist, capAge := if k.cnt.capEn then k.cnt.capAge + 1 else 0 } }

theorem countCycle_plain {c x : Nat} (hp : (s.ctx c x).placed = true) (hsel : (s.ctx c x).cnt.sel = []) (hcap : (s.ctx c x).cnt.capEn = false) :
    s.countCycle c x = s.modCtx c x (·.cycleCounted (s.tlcCode c x) (histBucket (readyIn (s.threadsOf c) x).length)) := by
  let r := s.modCtx c x (·.cycleCounted (s.tlcCode c x) (histBucket (readyIn (s.threadsOf c) x).length))
  have hcount : s.count c x 256 1 1 = s := if_pos (by rw [hsel]; rfl)
  have hoff : ¬ ((r.ctx c x).cnt.capEn = true ∧ 1024 * (r.ctx c x).cnt.capIval ≤ (r.ctx c x).cnt.capAge) := by
    rintro ⟨h, -⟩
    rw [State.modCtx_ctx, if_pos rfl] at h
    exact Bool.false_ne_true (hcap.symm.trans h)
  rw [State.countCycle, hcount]
  exact (if_neg (by rw [hp]; exact Bool.false_ne_true)).trans (if_neg hoff)

theorem cycled_ctx_only {c x : Nat} {k : Ctx} (hx : x < 2) (hone : s.ctxs = [(2 * c + x, k)]) : s.cycled.ctx c x = (s.countCycle c x).ctx c x := by
  have hctxs : s.cycled.ctxs = s.counted.ctxs := untraced_ctxs.traced _
  have hcounted : s.counted = s.countCycle c x := by
    rw [State.counted, hone]
    dsimp only [List.foldl_cons, List.foldl_nil]
    rw [show (2 * c + x) / 2 = c by omega, show (2 * c + x) % 2 = x by omega]
  rw [State.ctx, hctxs, hcounted, State.ctx]

theorem tlcCode_issued {c h x : Nat} (hissued : (s.core c).issued = some (h, x)) : s.tlcCode c x = 16 := by
  rw [State.tlcCode, hissued]
  exact if_pos rfl

/-- The entry of a running trace in an s-cycle with a bundle issued (R403). -/
theorem traceEntry_running {c h x : Nat} (hst : (s.core c).trState = 1) (hissued : (s.core c).issued = some (h, x)) :
    s.traceEntry c = (s.put (s.fwd ((s.core c).trBase + 2 * ((s.core c).trIdx % 65536))) (toBytes 2 (16 * 4 + x * 128 + h * 256))).modCore c Core.entryTaken := by
  have hrun : ¬ ((s.core c).trState = 2 ∧ (s.core c).trLeft = 1) := fun hstop => absurd (hst.symm.trans hstop.1) (by decide)
  rw [State.traceEntry, if_pos (.inl hst), if_neg hrun, hissued, tlcCode_issued hissued]
  rfl

/-- An s-cycle with no context and one core whose trace runs. -/
theorem cycled_one_trace {c h x : Nat} (hone : s.cores.map Prod.fst = [c]) (hctxs : s.ctxs = []) (hst : (s.core c).trState = 1) (hissued : (s.core c).issued = some (h, x)) :
    s.cycled.mem = memPuts (s.fwd ((s.core c).trBase + 2 * ((s.core c).trIdx % 65536))) (toBytes 2 (16 * 4 + x * 128 + h * 256)) s.mem ∧
    (s.cycled.core c).trIdx = (s.core c).trIdx + 1 := by
  have hcounted : s.counted = s := by rw [State.counted, hctxs, List.foldl_nil]
  have htraced : s.counted.traced = s.traceEntry c := by
    rw [hcounted, State.traced, ← List.foldl_map (f := Prod.fst) (g := State.traceEntry), hone, List.foldl_cons, List.foldl_nil]
  have hmem : s.cycled.mem = s.counted.traced.mem := rfl
  have hidx : (s.cycled.core c).trIdx = (s.counted.traced.core c).trIdx := 
    (congrArg Core.trIdx (rested_core (s := s.counted.traced.ageAll) c)).trans rfl
  rw [hmem, hidx, htraced, traceEntry_running hst hissued, State.modCore_core, if_pos rfl]
  exact ⟨put_mem .., rfl⟩

end

/-! ### The capture record (R402) -/

section
variable {s : State} {c x : Nat}

/-- Overflow of event counter `i`, as the record gives it. -/
def Counters.overflow (n : Counters) (i : Nat) : Nat := b2n (bit (Table.get 0#64 i n.sel).toNat 25)

/-- The bytes of a capture record after its two times, as far as its counters (R402). -/
def Counters.captureFlags (n : Counters) (c x : Nat) : List Byte :=
  toBytes 2 c ++ toBytes 1 x ++ toBytes 1 (b2n n.capGap + ((List.range 7).map fun i => n.overflow (i + 1) * 2 ^ (i + 1)).sum) ++ toBytes 1 (n.overflow 0) ++ List.replicate 43 0

/-- The bytes of the eight event counters (R402). -/
def Counters.counterBytes (n : Counters) : List Byte := (List.range 8).flatMap fun i => toBytes 8 (Table.get 0 i n.pc)

/-- The capture record of a context (R402). -/
def State.captureRecord (s : State) (c x : Nat) : List Byte :=
  toBytes 8 s.now ++ (toBytes 8 s.dev.clock ++ ((s.ctx c x).cnt.captureFlags c x ++ (s.ctx c x).cnt.counterBytes))

theorem captureFlags_length (n : Counters) : (n.captureFlags c x).length = 48 := by simp [Counters.captureFlags]

theorem counterBytes_length (n : Counters) : n.counterBytes.length = 64 := by simp [Counters.counterBytes]

theorem slice_flatMap {α : Type} {f : α → List Byte} {n : Nat} (hf : ∀ a, (f a).length = n) {l : List α} {i : Nat} (h : i < l.length) :
    slice (l.flatMap f) (n * i) n = f l[i] := by
  induction l generalizing i with
  | nil => exact absurd h (Nat.not_lt_zero i)
  | cons a l ih =>
    rw [List.flatMap_cons]
    cases i with
    | zero => rw [Nat.mul_zero, slice, List.drop_zero, List.take_append_of_le_length (hf a).ge, List.take_of_length_le (hf a).le]; rfl
    | succ i =>
      have hlater : (f a).length ≤ n * (i + 1) := by rw [hf, Nat.mul_succ]; omega
      rw [slice_append_later hlater, hf, Nat.mul_succ, Nat.add_sub_cancel, ih (Nat.lt_of_succ_lt_succ h)]
      rfl

theorem captureRecord_length : (s.captureRecord c x).length = 128 := by
  simp only [State.captureRecord, List.length_append, toBytes_length, captureFlags_length, counterBytes_length]

theorem captureRecord_now : slice (s.captureRecord c x) 0 8 = toBytes 8 s.now := slice_toBytes_first ..

theorem captureRecord_clock : slice (s.captureRecord c x) 8 8 = toBytes 8 s.dev.clock := (slice_toBytes_later (Nat.le_refl 8) ..).trans (slice_toBytes_first ..)

theorem captureRecord_counter {i : Nat} (h : i < 8) : slice (s.captureRecord c x) (64 + 8 * i) 8 = toBytes 8 (Table.get 0 i (s.ctx c x).cnt.pc) := by
  have hi : i < (List.range 8).length := h
  rw [State.captureRecord, slice_toBytes_later (by omega), slice_toBytes_later (by omega), slice_append_later (by rw [captureFlags_length]; omega), captureFlags_length,
    show 64 + 8 * i - 8 - 8 - 48 = 8 * i by omega]
  exact (slice_flatMap (fun _ => toBytes_length ..) hi).trans (by rw [List.getElem_range])

/-- The context's counters after a record (R402). -/
def Ctx.recordTaken (k : Ctx) : Ctx := { k with cnt := { k.cnt with capIdx := k.cnt.capIdx + 1, capAge := 0, capGap := false } }

/-- The state with the record written. -/
def State.captured (s : State) (c x : Nat) : State :=
  (s.put (s.fwd ((s.ctx c x).cnt.capBase + 128 * ((s.ctx c x).cnt.capIdx % 2 ^ (s.ctx c x).cnt.capSz))) (s.captureRecord c x)).modCtx c x Ctx.recordTaken

theorem captured_mem : (s.captured c x).mem =
    memPuts (s.fwd ((s.ctx c x).cnt.capBase + 128 * ((s.ctx c x).cnt.capIdx % 2 ^ (s.ctx c x).cnt.capSz))) (s.captureRecord c x) s.mem := by
  rw [State.captured, State.modCtx, State.setCtx_mem, put_mem]

theorem put_ctx (s : State) (a : Nat) (b : List Byte) (c x : Nat) : (s.put a b).ctx c x = s.ctx c x := rfl

theorem captured_cnt : ((s.captured c x).ctx c x).cnt = { (s.ctx c x).cnt with capIdx := (s.ctx c x).cnt.capIdx + 1, capAge := 0, capGap := false } := by
  rw [State.captured, State.modCtx_ctx, if_pos rfl, put_ctx, Ctx.recordTaken]

theorem exec_captureRecord (hcap : (s.ctx s.arg.c s.arg.x).cnt.capEn = true) (hdue : 1024 * (s.ctx s.arg.c s.arg.x).cnt.capIval ≤ (s.ctx s.arg.c s.arg.x).cnt.capAge) :
    exec .captureRecord s = .next (s.captured s.arg.c s.arg.x) := by
  have hgo : ¬ ((!(s.ctx s.arg.c s.arg.x).cnt.capEn) = true ∨ (s.ctx s.arg.c s.arg.x).cnt.capAge < 1024 * (s.ctx s.arg.c s.arg.x).cnt.capIval) := by
    rw [hcap]
    exact not_or.mpr ⟨Bool.false_ne_true, Nat.not_lt.mpr hdue⟩
  refine (if_neg hgo).trans ?_
  unfold State.captured Ctx.recordTaken State.captureRecord Counters.captureFlags Counters.counterBytes Counters.overflow
  simp only [List.append_assoc]

theorem exec_captureRecord_waits (h : (s.ctx s.arg.c s.arg.x).cnt.capEn = false ∨ (s.ctx s.arg.c s.arg.x).cnt.capAge < 1024 * (s.ctx s.arg.c s.arg.x).cnt.capIval) :
    exec .captureRecord s = .next s := if_pos (h.imp_left fun h => by rw [h]; rfl)

end

theorem cycleSteps : CycleSteps := by
  intro s
  obtain ⟨a, hexec⟩ := exec_sCycle (s := s)
  refine ⟨⟨_, hexec, congrArg Dev.clock (cycled_dev (s := s)), (congrArg Dev.dtime (cycled_dev (s := s))).trans rfl, cycled_issued, fun c h hh hready hother => ?_, fun c h hh hno => ?_⟩,
    fun c x k hx hone hp hsel hcap => ?_, fun c hone hctxs hst hissued hfwd => ?_, fun hcap hdue => ?_, exec_captureRecord_waits⟩
  · exact (cycled_thread hh).trans (if_pos ⟨hready, hother⟩)
  · refine (cycled_thread hh).trans (if_neg fun hold => ?_)
    obtain ⟨hready, hother⟩ := hold
    exact hno.elim (absurd hready) hother
  · have hctx : s.ctx c x = k := by rw [State.ctx, hone, Table.get, if_pos rfl]
    have hcycled : s.cycled.ctx c x = k.cycleCounted (s.tlcCode c x) (histBucket (readyIn (s.threadsOf c) x).length) := by
      subst hctx
      rw [cycled_ctx_only hx hone, countCycle_plain hp hsel hcap, State.modCtx_ctx, if_pos rfl]
    refine ⟨_, hexec, fun i => ?_, fun i => ?_⟩
    · exact (congrArg (fun k : Ctx => Table.get 0 i k.cnt.tlc) hcycled).trans (countUp_get ..)
    · exact (congrArg (fun k : Ctx => Table.get 0 i k.cnt.hist) hcycled).trans (countUp_get ..)
  · obtain ⟨hmem, hidx⟩ := cycled_one_trace hone hctxs hst hissued
    rw [hfwd] at hmem
    exact ⟨_, hexec, hmem, hidx⟩
  · exact ⟨_, _, exec_captureRecord hcap hdue, captureRecord_length, captureRecord_now, captureRecord_clock, fun i => captureRecord_counter, captured_mem, captured_cnt⟩

/-! ### Time (R71, R394, R395, R406) -/

section
variable {s : State}

/-- The reference period of a device, trimmed (R71, R395). -/
def Dev.period (d : Dev) : Nat := (10 * (2 ^ 32 + d.trim)).toNat

/-- The device once a reference period has passed: what the remainder leaves of it is DTIME's (R71). -/
def Dev.periodPassed (d : Dev) : Dev :=
  let w := min (d.period / 2) d.owed
  { d with dtime := d.dtime + (d.period - w), owed := d.owed - w }

theorem exec_referencePeriod : exec .referencePeriod s = .next ((s.modDev Dev.periodPassed).timeDue s.now) := rfl

theorem periodPassed_dtime (d : Dev) : d.periodPassed.dtime = d.dtime + (d.period - min (d.period / 2) d.owed) := rfl

theorem periodPassed_owed (d : Dev) : d.periodPassed.owed = d.owed - min (d.period / 2) d.owed := rfl

theorem timeDue_dev (old : Nat) : (s.timeDue old).dev = s.dev := rfl

theorem dtstepWrite_back (h : s.arg.v.toInt < 0) : ∃ t : State, exec .dtstepWrite s = .next t ∧
    t.dev.dtime = s.dev.dtime ∧ t.dev.owed = s.dev.owed + s.arg.v.toInt.natAbs * 2 ^ 32 ∧ t.mem = s.mem := by
  refine ⟨s.dtStep s.arg.v, rfl, ?_⟩
  have hdev : (s.dtStep s.arg.v).dev = { s.dev with owed := s.dev.owed + s.arg.v.toInt.natAbs * 2 ^ 32 } := if_pos h
  rw [hdev]
  exact ⟨rfl, rfl, rfl⟩

theorem dtstepWrite_on (h : 0 ≤ s.arg.v.toInt) : ∃ t : State, exec .dtstepWrite s = .next t ∧
    t.dev.dtime = s.dev.dtime + (s.arg.v.toInt.toNat * 2 ^ 32 - s.dev.owed) ∧ t.dev.owed = s.dev.owed - s.arg.v.toInt.toNat * 2 ^ 32 ∧ t.mem = s.mem := by
  have hm : s.arg.v.toInt.natAbs = s.arg.v.toInt.toNat := by omega
  have hdev : (s.dtStep s.arg.v).dev = { s.dev with owed := s.dev.owed - s.arg.v.toInt.natAbs * 2 ^ 32, dtime := s.dev.dtime + (s.arg.v.toInt.natAbs * 2 ^ 32 - s.dev.owed) } :=
    if_neg (Int.not_lt.mpr h)
  rw [hm] at hdev
  refine ⟨s.dtStep s.arg.v, rfl, ?_⟩
  rw [hdev]
  exact ⟨rfl, rfl, rfl⟩

theorem exec_ppsEdge : exec .ppsEdge s = .next (s.modDev fun d => { d with ppsCap := s.now, ppsClk := d.clock, ppsCnt := (d.ppsCnt + 1) % 2 ^ 32 }) := rfl

/-! #### Wear (R406) -/

/-- Wear computed for die `i`. -/
def State.wearOf (s : State) (i : Nat) : State :=
  let w := (Config.wear s.draw).toNat
  { s with draw := s.draw + 1 }.modDev fun d => { d with dies := Table.set i { (Table.get ({} : Die) i d.dies) with
    hot := bits w 32 16, stress := bits w 16 16, eold := if s.dev.active && i != 0 then 0xFFFF else bits w 0 16 } d.dies }

theorem wearOf_die (i j : Nat) : ∃ a b c, Table.get ({} : Die) j (s.wearOf i).dev.dies =
    if j = i then { Table.get ({} : Die) i s.dev.dies with hot := a, stress := b, eold := if s.dev.active && i != 0 then 0xFFFF else c } else Table.get {} j s.dev.dies :=
  ⟨_, _, _, Table.get_set ..⟩

theorem wearOf_eold {i : Nat} (j : Nat) (ha : s.dev.active = true) (hi : i ≠ 0) :
    (Table.get ({} : Die) j (s.wearOf i).dev.dies).eold = if j = i then 0xFFFF else (Table.get ({} : Die) j s.dev.dies).eold := by
  obtain ⟨a, b, c, hdie⟩ := wearOf_die (s := s) i j
  rw [hdie]
  split
  · exact if_pos (by simp [ha, hi])
  · rfl

theorem wearOf_ecnt (i j : Nat) : (Table.get ({} : Die) j (s.wearOf i).dev.dies).ecnt = (Table.get ({} : Die) j s.dev.dies).ecnt := by
  obtain ⟨a, b, c, hdie⟩ := wearOf_die (s := s) i j
  rw [hdie]
  split
  · next h => rw [h]
  · rfl

theorem wearOf_mem (i : Nat) : (s.wearOf i).mem = s.mem := rfl

theorem wearOf_threads (i : Nat) : (s.wearOf i).threads = s.threads := rfl

theorem wearOf_clock (i : Nat) : (s.wearOf i).dev.clock = s.dev.clock := rfl

theorem wearOf_active (i : Nat) : (s.wearOf i).dev.active = s.dev.active := rfl

theorem exec_wearCompute : exec .wearCompute s = .next ((((s.wearOf 0).wearOf 1).wearOf 2).wearOf 3) := rfl

end

/-- DTIME never goes back, and takes up half of each period at least (R71). -/
theorem period_takes_up (d : Dev) : d.dtime ≤ d.periodPassed.dtime ∧ d.periodPassed.owed ≤ d.owed ∧ (d.owed = 0 → d.periodPassed.dtime = d.dtime + d.period) ∧
    (d.period / 2 ≤ d.owed → d.periodPassed.owed = d.owed - d.period / 2) ∧ d.periodPassed.dtime + d.owed = d.dtime + d.period + d.periodPassed.owed := by
  rw [periodPassed_dtime, periodPassed_owed]
  omega

theorem timeSteps : TimeSteps := by
  intro s
  refine ⟨⟨_, exec_referencePeriod, rfl, rfl, by rw [timeDue_dev]; exact period_takes_up s.dev⟩, dtstepWrite_back, fun hv => ?_, ?_,
    ⟨_, exec_wearCompute, ?_, ?_, ?_, fun ha i h1 h4 => ?_, fun i hi => ?_⟩⟩
  · obtain ⟨t, hexec, htime, howed, hmem⟩ := dtstepWrite_on hv
    refine ⟨t, hexec, ?_, ?_, ?_, hmem⟩ <;> omega
  · exact ⟨_, exec_ppsEdge, rfl, rfl, rfl⟩
  · simp only [wearOf_mem]
  · simp only [wearOf_threads]
  · simp only [wearOf_clock]
  · have hi : i = 1 ∨ i = 2 ∨ i = 3 := by omega
    rcases hi with rfl | rfl | rfl <;> simp [wearOf_eold, wearOf_active, ha]
  · simp only [wearOf_ecnt]

/-! ### The issue trace and the cross-trigger (R394, R403, R404) -/

section
variable {s : State} {c : Nat}

/-- The core with the fields of TRCTL that a write gives (R403). -/
def Core.traceWritten (k : Core) (v : Word) : Core := { k with trPost := bits v.toNat 32 16, trXarm := bit v.toNat 2 }

/-- The core as a stop of its trace leaves it at counter `n` (R403). -/
def Core.traceStopped (k : Core) (n : Nat) : Core := { k with trState := 2, trLeft := k.trPost, trigClk := n }

theorem traceFields_core (v : Word) : (s.traceFields c v).core c = (s.core c).traceWritten v := (State.modCore_core ..).trans (if_pos rfl)

theorem traceStopping_core : (s.traceStopping c).core c = (s.core c).traceStopped s.dev.clock := by
  have hcore : (s.modCore c (·.traceStopped s.dev.clock)).core c = (s.core c).traceStopped s.dev.clock := (State.modCore_core ..).trans (if_pos rfl)
  unfold State.traceStopping
  dsimp only
  split <;> exact hcore

theorem traceStopping_mem : (s.traceStopping c).mem = s.mem := by
  unfold State.traceStopping
  dsimp only
  split <;> rfl

/-- A stop with no trailing entries ends at once (R403). -/
theorem traceStopping_ends (h : (s.core c).trPost = 0) : (s.traceStopping c).agenda = s.agenda ++ [⟨.tracePostEnd, { c := c }⟩] := by
  have hcore : (s.modCore c (·.traceStopped s.dev.clock)).core c = (s.core c).traceStopped s.dev.clock := (State.modCore_core ..).trans (if_pos rfl)
  exact congrArg State.agenda (if_pos ((congrArg Core.trPost hcore).trans h))

/-- The state of a trace as a write of TRCTL sets it (R403). -/
theorem traceFields_state (v : Word) (n : Nat) : ((s.traceFields c v).modCore c fun k => { k with trState := n }).core c = { (s.core c).traceWritten v with trState := n } := by
  rw [State.modCore_core, if_pos rfl, traceFields_core]

theorem traceFields_state_mem (v : Word) (n : Nat) : ((s.traceFields c v).modCore c fun k => { k with trState := n }).mem = s.mem := rfl

theorem traceFields_state_threads (v : Word) (n : Nat) : ((s.traceFields c v).modCore c fun k => { k with trState := n }).threads = s.threads := rfl

theorem exec_crossTriggerArrival : exec .crossTriggerArrival s =
    .next (if (s.core s.arg.c).trState = 1 ∧ (s.core s.arg.c).trXarm then s.traceStopping s.arg.c else s) := rfl

theorem exec_tracePostEnd : exec .tracePostEnd s =
    .next (if (s.core s.arg.c).trState = 2 ∧ (s.core s.arg.c).trLeft = 0 then s.modCore s.arg.c fun k => { k with trState := 3 } else s) := rfl

/-- The device with XTRIG written: BKEN as the word gives it, and FIRED. -/
def Dev.xtrig (d : Dev) (v : Word) (fired : Bool) : Dev := { d with xBken := bit v.toNat 1, xFired := fired }

theorem exec_xtrigPulse {fired : Bool} (h : (s.dev.xFired && !bit s.arg.v.toNat 2) = fired) : exec .xtrigPulse s = .next (s.modDev (·.xtrig s.arg.v fired)).fireTrigger := by
  subst h
  rfl

theorem exec_xtrigFiredClear : exec .xtrigFiredClear s = .next (s.modDev (·.xtrig s.arg.v false)) := rfl

/-- The cores that a cross-trigger is to reach (R404). -/
def State.armed (s : State) : List Event := (s.cores.filter fun p => p.2.trState == 1 && p.2.trXarm).map fun p => ⟨.crossTriggerArrival, { c := p.1 }⟩

theorem fireTrigger_fires (h : s.dev.xFired = false) : s.fireTrigger = { s.modDev (fun d => { d with xFired := true }) with agenda := s.agenda ++ s.armed } :=
  if_neg (by rw [h]; exact Bool.false_ne_true)

end

theorem traceSteps : TraceSteps := by
  intro s
  refine ⟨⟨_, rfl, traceFields_state .., traceFields_state_mem ..⟩, ⟨_, rfl, traceFields_state .., traceFields_state_mem .., traceFields_state_threads ..⟩,
    ⟨_, rfl, traceFields_state .., traceFields_state_mem ..⟩, ⟨_, rfl, ?_, traceStopping_mem, fun hpost => traceStopping_ends ?_⟩, fun hst harm => ?_, fun hno => ?_,
    fun hst hleft => ?_, fun hno => ?_, fun hquiet => ?_, fun hfired hkeep => ?_, ⟨_, exec_xtrigFiredClear, rfl, rfl, rfl⟩⟩
  · rw [traceStopping_core, traceFields_core]
    rfl
  · rw [traceFields_core]
    exact hpost
  · rw [exec_crossTriggerArrival, if_pos ⟨hst, harm⟩]
    exact ⟨_, rfl, traceStopping_core, traceStopping_mem⟩
  · rw [exec_crossTriggerArrival, if_neg]
    intro h
    obtain ⟨hst, harm⟩ := h
    exact hno.elim (absurd hst) fun hoff => Bool.false_ne_true (hoff.symm.trans harm)
  · rw [exec_tracePostEnd, if_pos ⟨hst, hleft⟩]
    exact ⟨_, rfl, (State.modCore_core ..).trans (if_pos rfl), rfl⟩
  · rw [exec_tracePostEnd, if_neg]
    intro h
    obtain ⟨hst, hleft⟩ := h
    exact hno.elim (absurd hst) (absurd hleft)
  · have hfree : (s.dev.xFired && !bit s.arg.v.toNat 2) = false := by
      rcases hquiet with h | h <;> simp [h]
    refine ⟨_, exec_xtrigPulse hfree, ?_⟩
    rw [fireTrigger_fires rfl]
    exact ⟨rfl, rfl, rfl⟩
  · have hstands : (s.dev.xFired && !bit s.arg.v.toNat 2) = true := by rw [hfired, hkeep]; rfl
    refine ⟨_, exec_xtrigPulse hstands, ?_⟩
    have hsame : s.dev.xtrig s.arg.v true = { s.dev with xBken := bit s.arg.v.toNat 1 } := by rw [Dev.xtrig, ← hfired]
    have hfire : (s.modDev (·.xtrig s.arg.v true)).fireTrigger = s.modDev (·.xtrig s.arg.v true) := if_pos rfl
    rw [hfire]
    exact ⟨hsame, rfl⟩

/-- Settles O51: an s-cycle and the capture record, the time of the device, and the trace with its cross-trigger. -/
theorem timeAndTrace : Obligations.TimeAndTrace := ⟨cycleSteps, timeSteps, traceSteps⟩

end Sys2Proof.Machine

/-! # Control-space writes and the host's link (R54, R67, R72, R116, R137, R219, R375, R387, R431 to R436). -/

namespace Sys2Proof.Machine

open Sys2Proof.Claims

/-! ### A wake ends `halt` (R219) -/

/-- A thread that a wake finds halted goes on (R219). -/
def haltEnded (t : Thread) : Thread := if t.wait = .halt then { t with wait := .done 0 } else t

section
variable {s : State} {c h : Nat}

theorem haltEnded_twice (t : Thread) : haltEnded (haltEnded t) = haltEnded t := by
  by_cases hw : t.wait = .halt <;> simp [haltEnded, hw]

theorem wakeHalted_mem : (s.wakeHalted c).mem = s.mem := 
  foldl_keeps State.mem (f := fun s (p : Nat × Thread) => s.modThread c p.1 haltEnded) (fun _ _ => rfl) (s.threadsOf c) s

theorem wakeHalted_thread (h : Nat) : (s.wakeHalted c).thread c h = if h ∈ (s.threadsOf c).map Prod.fst then haltEnded (s.thread c h) else s.thread c h :=
  foldl_modThread_thread haltEnded_twice h (s.threadsOf c) s

/-- Threads of other cores stand when those of one core change. -/
theorem foldl_modThread_elsewhere {d : Nat} (f : Thread → Thread) (hd : d ≠ c) (hh : h < 256) (l : List (Nat × Thread)) (hl : ∀ p ∈ l, p.1 < 256) (s : State) :
    (l.foldl (fun s p => s.modThread c p.1 f) s).thread d h = s.thread d h := by
  induction l generalizing s with
  | nil => rfl
  | cons a l ih =>
    have ha : a.1 < 256 := hl a List.mem_cons_self
    rw [List.foldl_cons, ih fun p hp => hl p (List.mem_cons_of_mem _ hp), State.modThread_thread, if_neg (by omega)]

theorem threadsOf_slot : ∀ p ∈ s.threadsOf c, p.1 < 256 := by
  intro p hp
  obtain ⟨q, -, hq⟩ := List.mem_filterMap.mp hp
  split at hq
  · cases hq; exact Nat.mod_lt _ (by decide)
  · cases hq

theorem wakeHalted_elsewhere {d : Nat} (hd : d ≠ c) (hh : h < 256) : (s.wakeHalted c).thread d h = s.thread d h :=
  foldl_modThread_elsewhere haltEnded hd hh (s.threadsOf c) threadsOf_slot s

end

/-! ### Registers with a step of their own (R54, R67, R387) -/

section
variable {s : State}

/-- A write of a barrier register of core `c`, within the limits and past them (R67). -/
theorem putCoreReg_barrier {c x n v : Nat} (h : n < 16) :
    (∀ w, bgWrite (s.ctx c x) c n v = some w → s.putCoreReg c x (0x120 + n) v = .ok (s.setCtx c x { s.ctx c x with bg := Table.set n (BitVec.ofNat 32 w) (s.ctx c x).bg })) ∧
    (bgWrite (s.ctx c x) c n v = none → s.putCoreReg c x (0x120 + n) v = badValue v) := by
  unfold State.putCoreReg
  dsimp only
  rw [if_neg (by omega), if_neg (by omega), if_neg (by omega), if_neg (by omega), if_neg (by omega), if_neg (by omega), if_neg (by omega), if_pos (by omega),
    Nat.add_sub_cancel_left]
  exact ⟨fun w hw => by rw [hw], fun hw => by rw [hw]⟩

theorem exec_bgWrite : exec .bgWrite s =
    .next (if s.inBar s.arg.c s.arg.x s.arg.n then { s with laterSteps := s.laterSteps ++ [⟨.bgWrite, s.arg⟩] }
      else s.orSame (s.putCoreReg s.arg.c s.arg.x (0x120 + s.arg.n) s.arg.v.toNat)) := rfl

theorem exec_bgWrite_lands (hbar : s.inBar s.arg.c s.arg.x s.arg.n = false) (hn : s.arg.n < 16) :
    (∀ w, bgWrite (s.ctx s.arg.c s.arg.x) s.arg.c s.arg.n s.arg.v.toNat = some w →
      exec .bgWrite s = .next (s.modCtx s.arg.c s.arg.x fun k => { k with bg := Table.set s.arg.n (BitVec.ofNat 32 w) k.bg })) ∧
    (bgWrite (s.ctx s.arg.c s.arg.x) s.arg.c s.arg.n s.arg.v.toNat = none → exec .bgWrite s = .next s) := by
  rw [exec_bgWrite, if_neg (by rw [hbar]; exact Bool.false_ne_true)]
  obtain ⟨hlands, hbreaks⟩ := putCoreReg_barrier (s := s) (c := s.arg.c) (x := s.arg.x) (v := s.arg.v.toNat) hn
  refine ⟨fun w hw => ?_, fun hw => ?_⟩
  · rw [hlands w hw]; rfl
  · rw [hbreaks hw]; rfl

/-- Bytes that cover a word whole, laid over it. -/
theorem mapIdx_whole {a : Nat} {bs l : List Byte} (hl : l.length = bs.length) :
    l.mapIdx (fun j x => if a ≤ a + j ∧ a + j < a + bs.length then bs.getD (a + j - a) 0 else x) = bs := by
  refine List.ext_getElem (by rw [List.length_mapIdx, hl]) fun j hj hj' => ?_
  rw [List.getElem_mapIdx, if_pos ⟨by omega, by omega⟩, Nat.add_sub_cancel_left, List.getD_eq_getElem _ _ hj']

section
variable {host : Bool} {a : Nat} {bs : List Byte} (ha : a % 8 = 0) (hb : bs.length = 8)
include ha hb

/-- A write of one aligned word that has a row of its own is that step (R54). -/
theorem ctlWrite_step {e : Event} (h : ctlEvent a (BitVec.ofNat 64 (ofBytes bs)) = some e) :
    s.ctlWrite host a bs = { s with agenda := s.agenda ++ [⟨e.ins, { e.arg with ok := host }⟩] } := by
  have hwords : (a % 8 + bs.length + 7) / 8 = 1 := by omega
  have haddr : a / 8 * 8 + 8 * 0 = a := by omega
  rw [State.ctlWrite, hwords, List.range_one, List.foldl_cons, List.foldl_nil, haddr]
  simp only [mapIdx_whole ((toBytes_length ..).trans hb.symm), h]

theorem ctlWrite_plain (h : ctlEvent a (BitVec.ofNat 64 (ofBytes bs)) = none) : s.ctlWrite host a bs = s.ctlPut a (ofBytes bs) host := by
  have hwords : (a % 8 + bs.length + 7) / 8 = 1 := by omega
  have haddr : a / 8 * 8 + 8 * 0 = a := by omega
  rw [State.ctlWrite, hwords, List.range_one, List.foldl_cons, List.foldl_nil, haddr]
  simp only [mapIdx_whole ((toBytes_length ..).trans hb.symm), h]

end

theorem exec_registerWrite : exec .registerWrite s = .next (s.ctlWrite false s.arg.addr s.arg.bytes) := rfl

/-! #### The boot buffer (R375) -/

theorem toBytes_ofBytes (b : List Byte) : toBytes b.length (ofBytes b) = b := by
  induction b with
  | nil => rfl
  | cons x b ih =>
    have hx : x.toNat < 256 := x.isLt
    rw [List.length_cons, ofBytes, toBytes, Nat.add_mul_div_left _ _ (by decide), Nat.div_eq_of_lt hx, Nat.zero_add, ih]
    refine congrArg (· :: b) (BitVec.eq_of_toNat_eq ?_)
    rw [BitVec.toNat_ofNat]
    omega

section
variable {o : Nat} (ho : o < 0x1000000)
include ho

/-- The place of the boot buffer in the control space. -/
theorem bootKey_offset : bootKey o - 0x00FF000000000000 = 0x208000000 + o ∧ 0x208000000 + o - 0x200000000 = 0x8000000 + o := by
  unfold bootKey
  omega

theorem ctlEvent_boot (v : Word) : ctlEvent (bootKey o) v = none := by
  obtain ⟨hspace, hdev⟩ := bootKey_offset ho
  simp only [ctlEvent, hspace, hdev]
  rw [if_neg (by omega), if_neg (by omega), if_neg (by omega), if_neg (by omega), if_neg (by omega), if_neg (by omega), if_neg (by omega), if_neg (by omega),
    if_neg (fun h => by omega), if_neg (fun h => by omega), if_neg (by omega), if_neg (by omega)]

theorem ctlPut_boot {v : Nat} {host : Bool} : s.ctlPut (bootKey o) v host = s.put (bootKey o) (toBytes 8 v) := by
  obtain ⟨hspace, hdev⟩ := bootKey_offset ho
  simp only [State.ctlPut, hspace, hdev]
  rw [if_neg (by omega), if_neg (by omega), if_neg (by omega), if_neg (by omega), if_neg (by omega), if_neg (by omega), if_neg (by omega), if_neg (by omega),
    if_neg (by omega), if_neg (by omega), if_neg (by omega), if_neg (by omega), if_neg (by omega), if_pos (by omega), Nat.add_sub_cancel_left]

end

/-! #### The routing banks (R387) -/

theorem exec_rtctlInjWrite : exec .rtctlInjWrite s = .next (s.modDev fun d => { d with rtInj := bits s.arg.v.toNat 0 1 }) := rfl

/-- The state with entries of a routing bank written (R387). -/
def State.routed (s : State) : State :=
  s.modDev fun d => { d with routes := (List.range s.arg.m).foldl (fun t i => Table.set (s.arg.n + i) (BitVec.ofNat 16 (bits s.arg.v.toNat (16 * i) 16 &&& 0x8017)) t) d.routes }

theorem exec_routingBankWrite : exec .routingBankWrite s =
    if s.arg.n / 8192 = s.dev.rtInj ∧ s.dev.portUp ≠ 0 then .next s
    else if s.arg.n / 8192 ≠ s.dev.rtInj ∧ Table.get 0 (s.arg.n / 8192) s.dev.occ ≠ 0 then .next { s with laterSteps := s.laterSteps ++ [⟨.routingBankWrite, s.arg⟩] }
    else .next s.routed := rfl

theorem routed_one (h : s.arg.m = 1) : s.routed.dev.routes = Table.set s.arg.n (BitVec.ofNat 16 (bits s.arg.v.toNat 0 16 &&& 0x8017)) s.dev.routes := by
  have hdev : s.routed.dev.routes = (List.range s.arg.m).foldl (fun t i => Table.set (s.arg.n + i) (BitVec.ofNat 16 (bits s.arg.v.toNat (16 * i) 16 &&& 0x8017)) t) s.dev.routes := rfl
  rw [hdev, h, List.range_one, List.foldl_cons, List.foldl_nil]
  rfl

end

theorem controlWrites : ControlWrites := by
  intro s
  refine ⟨⟨s.wakeHalted s.arg.c, rfl, wakeHalted_mem, fun h hh hlive hwait => ?_, fun c h hh hother => ?_⟩, fun hbar => ?_, fun w hbar hn => (exec_bgWrite_lands hbar hn).1 w,
    fun hbar hn => (exec_bgWrite_lands hbar hn).2, fun e ha hb he => ?_, fun o ha ho h8 hb => ?_, ⟨_, exec_rtctlInjWrite, rfl, rfl, rfl⟩, fun hinj hup => ?_, fun hinj hocc => ?_,
    fun hm hopen => ?_⟩
  · rw [wakeHalted_thread, if_pos (mem_threadsOf hh hlive), haltEnded, if_pos hwait]
  · by_cases hc : c = s.arg.c
    · subst hc
      have hstands : haltEnded (s.thread s.arg.c h) = s.thread s.arg.c h := if_neg (hother.resolve_left (not_not.mpr rfl))
      rw [wakeHalted_thread, hstands, ite_self]
    · exact wakeHalted_elsewhere hc hh
  · rw [exec_bgWrite, if_pos hbar]
  · rw [exec_registerWrite, ctlWrite_step ha hb he]
  · have hkey : bootKey o % 8 = 0 := by unfold bootKey; omega
    have hbytes : toBytes 8 (ofBytes s.arg.bytes) = s.arg.bytes := by rw [← hb, toBytes_ofBytes]
    refine ⟨s.put (bootKey o) s.arg.bytes, ?_, put_mem .., rfl⟩
    rw [exec_registerWrite, ha, ctlWrite_plain hkey hb (ctlEvent_boot ho _), ctlPut_boot ho, hbytes]
  · rw [exec_routingBankWrite, if_pos ⟨hinj, hup⟩]
  · rw [exec_routingBankWrite, if_neg fun h => hinj h.1, if_pos ⟨hinj, hocc⟩]
  · refine ⟨s.routed, ?_, rfl, ?_⟩
    · rw [exec_routingBankWrite]
      rcases hopen with ⟨hinj, hup⟩ | ⟨hinj, hocc⟩
      · rw [if_neg fun h => h.2 hup, if_neg fun h => h.1 hinj]
      · rw [if_neg fun h => hinj h.1, if_neg fun h => h.2 hocc]
    · rw [routed_one hm]
      exact ⟨Table.get_set_same .., fun n hne => Sys2Proof.Table.get_set_other _ hne _ _⟩

/-! ### Requests of the host (R72, R431 to R433, R436) -/

section
variable {s : State}

/-- A refused access changes no more than the scheduler's logs (R372). -/
theorem barLog_eq (s : State) (a : Nat) : ∃ q : Sched, s.barLog a = { s with sched := q } := by
  obtain ⟨q, hq, -⟩ := flog_eq s 0x17 3 0xFFFF 0 (BitVec.ofNat 64 a)
  exact ⟨q, hq⟩

theorem exec_inbound_waits (hw : s.postedWaits = true) :
    exec .inboundRead s = .next (s.linkLater .inboundRead s.arg) ∧ exec .inboundAtomic s = .next (s.linkLater .inboundAtomic s.arg) ∧
    (s.arg.bytes.length ≠ 0 → exec .inboundWrite s = .next (s.linkLater .inboundWrite s.arg)) :=
  ⟨if_pos hw, if_pos hw, fun hn => (if_neg hn).trans (if_pos hw)⟩

section
variable (hw : s.postedWaits = false)
include hw

/-! #### Posted writes -/

section
variable (hn : s.arg.bytes.length ≠ 0)
include hn

theorem exec_inboundWrite_memory (hm : s.arg.m = 2) :
    (∀ ks, s.aperture s.arg.addr s.arg.bytes.length 1 = .keys ks → exec .inboundWrite s = .next (s.putParts ks s.arg.bytes)) ∧
    (s.aperture s.arg.addr s.arg.bytes.length 1 = .refused → exec .inboundWrite s = .next (s.barLog s.arg.addr)) := by
  have hexec : exec .inboundWrite s = execInboundWrite s := rfl
  rw [hexec, execInboundWrite, if_neg hn, if_neg (by rw [hw]; exact Bool.false_ne_true), if_pos hm]
  refine ⟨fun ks hks => ?_, fun hno => ?_⟩
  · rw [hks]
  · rw [hno]

theorem exec_inboundWrite_control {w : Nat} (hm : s.arg.m ≠ 2) (hbar : barAddr s.arg.m s.arg.addr s.arg.bytes.length = some w) :
    exec .inboundWrite s = .next (if s.hostMay w s.arg.bytes.length 2 then s.atOnce fun r => r.ctlWrite true w s.arg.bytes else s.barLog s.arg.addr) := by
  have hexec : exec .inboundWrite s = execInboundWrite s := rfl
  rw [hexec, execInboundWrite, if_neg hn, if_neg (by rw [hw]; exact Bool.false_ne_true), if_neg hm, hbar]

end

/-! #### Reads -/

theorem exec_inboundRead_memory (hm : s.arg.m = 2) {ks : List (Nat × Nat)} (hks : s.aperture s.arg.addr s.arg.n 0 = .keys ks) :
    exec .inboundRead s = .next (s.hostOut (if (s.eccIn ks).isSome then .refused else .completion (ks.flatMap fun k => s.bytes k.1 k.2))) := by
  have hexec : exec .inboundRead s = execInboundRead s := rfl
  rw [hexec, execInboundRead, if_neg (by rw [hw]; exact Bool.false_ne_true), if_pos hm, hks]

theorem exec_inboundRead_control {w : Nat} (hm : s.arg.m ≠ 2) (hbar : barAddr s.arg.m s.arg.addr s.arg.n = some w) (hn : s.arg.n ≠ 0) (hmay : s.hostMay w s.arg.n 1 = true) :
    ∃ a, exec .inboundRead s = .next { s.hostOut (.completion (s.ctlBytes w s.arg.n)) with agenda := a } := by
  have hexec : exec .inboundRead s = execInboundRead s := rfl
  have hgo : ¬ (s.arg.n = 0 ∨ (!s.hostMay w s.arg.n 1) = true) := not_or.mpr ⟨hn, by rw [hmay]; exact Bool.false_ne_true⟩
  rw [hexec, execInboundRead, if_neg (by rw [hw]; exact Bool.false_ne_true), if_neg hm, hbar]
  dsimp only
  rw [if_neg hgo]
  split
  · exact ⟨_, rfl⟩
  · exact ⟨s.agenda, rfl⟩

/-! #### AtomicOps -/

theorem exec_inboundAtomic_adds {p z : Nat} (hm : s.arg.m = 2) (hx : s.arg.x = 0) (hn : s.arg.n = 8) (ha : s.arg.addr % 8 = 0) (hks : s.aperture s.arg.addr 8 2 = .keys [(p, z)])
    (hecc : s.eccIn [(p, 8)] = none) :
    exec .inboundAtomic s = .next ((s.put p (toBytes 8 (atomicValue 1 (s.word p 8) s.arg.v.toNat s.arg.w.toNat))).hostOut (.completion (toBytes 8 (s.word p 8)))) := by
  have hexec : exec .inboundAtomic s = execInboundAtomic s := rfl
  rw [hexec, execInboundAtomic, if_neg (by rw [hw]; exact Bool.false_ne_true), hn, hx, decide_eq_true ⟨hm, ha⟩]
  simp only [linkAop, hks, hecc]
  rfl

omit hw in
theorem linkAop_none {x n : Nat} (h4 : n ≠ 4) (h8 : n ≠ 8) : linkAop x n = none := by
  unfold linkAop
  split
  case h_6 => rfl
  case h_1 | h_3 => exact absurd rfl h4
  case h_2 | h_4 | h_5 => exact absurd rfl h8

theorem exec_inboundAtomic_refused (h : s.arg.m ≠ 2 ∨ s.arg.n ≠ 4 ∧ s.arg.n ≠ 8) : exec .inboundAtomic s = .next ((s.barLog s.arg.addr).hostOut .refused) := by
  have hexec : exec .inboundAtomic s = execInboundAtomic s := rfl
  rw [hexec, execInboundAtomic, if_neg (by rw [hw]; exact Bool.false_ne_true)]
  rcases h with hm | ⟨h4, h8⟩
  · rw [decide_eq_false fun h => hm h.1]
    cases linkAop s.arg.x s.arg.n <;> rfl
  · rw [linkAop_none h4 h8]

end

end

/-! ### Completions of the device's own requests (R119, R435) -/

section
variable {s : State} {o : Op} (ho : s.opById s.arg.id = some o) (hhost : isHostKey o.addr.toNat = true) (hat : o.at_ = 1)
include ho hhost hat

theorem hostEnds_failed (code : Nat) : s.hostEnds s.arg.id (.error code) = s.failOp o code o.addr := by
  rw [State.hostEnds, ho]
  exact if_neg (by rw [hhost]; exact not_or.mpr ⟨Bool.false_ne_true, not_not.mpr hat⟩)

theorem hostEnds_loaded (hk : o.kind = .load) (bs : List Byte) : s.hostEnds s.arg.id (.ok bs) = s.loaded o (padTo o.n bs) := by
  rw [State.hostEnds, ho]
  refine (if_neg (by rw [hhost]; exact not_or.mpr ⟨Bool.false_ne_true, not_not.mpr hat⟩)).trans ?_
  rw [hk]

theorem hostEnds_atomic (hk : o.kind = .atomic) (bs : List Byte) :
    s.hostEnds s.arg.id (.ok bs) = (s.watch o.core (s.thread o.core o.slot).x o.slot o.addr.toNat o.n 2).atomicDone o (BitVec.ofNat 64 (ofBytes (bs.take o.n))) := by
  rw [State.hostEnds, ho]
  refine (if_neg (by rw [hhost]; exact not_or.mpr ⟨Bool.false_ne_true, not_not.mpr hat⟩)).trans ?_
  rw [hk]

omit hhost hat in
theorem exec_hostCompletion : exec .hostCompletion s =
    .next (s.hostEnds s.arg.id (if s.arg.ok then .ok s.arg.bytes else .error (if o.kind == .atomic then 0x1D else 0x17))) := by
  have hexec : exec .hostCompletion s = execHostCompletion s := rfl
  rw [hexec, execHostCompletion, ho]

omit hhost hat in
theorem exec_hostReadTimeout : exec .hostReadTimeout s = .next (if o.kind != .atomic then s.hostEnds s.arg.id (.error 0x17) else s) := by
  have hexec : exec .hostReadTimeout s = execHostReadTimeout s := rfl
  rw [hexec, execHostReadTimeout, ho]

end

theorem padTo_whole {n : Nat} {l : List Byte} (h : l.length = n) : padTo n l = l := by
  rw [padTo, List.take_of_length_le h.le, h, Nat.sub_self, List.replicate_zero, List.append_nil]

/-- The bytes of a load of the host that no buffered store covers (R116, R435). -/
theorem loaded_host {s : State} {o : Op} {bs : List Byte} (hk : o.kind = .load) (hlen : bs.length = o.n) (hbuf : (owner s o).buf = []) :
    ∃ t : State, s.loaded o (padTo o.n bs) = t.complete o (loadValue o bs) ∧ t.mem = s.mem ∧ t.ops = s.ops := by
  have hv : ¬ o.kind = .vload := by rw [hk]; decide
  rw [padTo_whole hlen, loaded_plain _ (.inr hbuf), if_neg hv]
  exact ⟨_, rfl, steady_noteLoad s o _ _ steady_mem, noteLoad_ops ..⟩

/-- An AtomicOp of the device that the host has performed (R435). -/
theorem atomicDone_watched (s : State) (o : Op) (c x h va n : Nat) (v : Word) :
    ∃ t : State, (s.watch c x h va n 2).atomicDone o v = t.complete o v ∧ t.mem = s.mem ∧ t.ops = s.ops := by
  obtain ⟨ctxs, d, a, hwatch⟩ := watch_eq s c x h va n 2
  obtain ⟨threads, cores, hnoted⟩ := atomicNoted_eq (s.watch c x h va n 2) o
  refine ⟨_, atomicDone_eq .., ?_⟩
  rw [hnoted, hwatch]
  exact ⟨rfl, rfl⟩

/-- A write of the host that stands for a step: the step comes before those that wait (R436). -/
theorem atOnce_step {s : State} {w : Nat} {bs : List Byte} {e : Event} (hw : w % 8 = 0) (hb : bs.length = 8) (he : ctlEvent w (BitVec.ofNat 64 (ofBytes bs)) = some e) :
    s.atOnce (fun r => r.ctlWrite true w bs) = { s with agenda := ⟨e.ins, { e.arg with ok := true }⟩ :: s.agenda } := by
  rw [State.atOnce, ctlWrite_step hw hb he]
  rfl

theorem atomicValue_add (m b e : Nat) : atomicValue 1 m b e = (m + b) % 2 ^ 64 := Nat.add_mod_mod ..

theorem hostLink : HostLink := by
  intro s
  refine ⟨exec_inbound_waits, fun hw => ⟨fun k hn hm hk => ?_, fun hn hm hno => ?_, fun w hn hm hbar hno => ?_, fun w e hn hm hbar hmay h8 he => ?_, fun k hm hk hecc => ?_,
    fun k v hm hk hecc => ?_, fun w hm hbar hn hmay => ?_, fun p z hm hx hn h8 hk hecc => ?_, fun hno => ?_⟩, fun o ho hhost hat => ⟨fun hk hok hlen hd hbuf => ?_, fun hk hok => ?_,
    fun hk hok => ?_, fun hk hok => ?_, fun hk => ?_, fun hk => ?_⟩⟩
  · refine ⟨_, (exec_inboundWrite_memory hw hn hm).1 _ hk, ?_⟩
    rw [State.putParts, State.putParts, List.take_length]
    exact ⟨put_mem .., rfl, rfl⟩
  · obtain ⟨q, hq⟩ := barLog_eq s s.arg.addr
    refine ⟨_, (exec_inboundWrite_memory hw hn hm).2 hno, rfl, ?_⟩
    rw [hq]
  · obtain ⟨q, hq⟩ := barLog_eq s s.arg.addr
    rw [exec_inboundWrite_control hw hn hm hbar, if_neg (by rw [hno]; exact Bool.false_ne_true), hq]
    exact ⟨_, rfl, rfl, rfl, rfl⟩
  · rw [exec_inboundWrite_control hw (by omega) hm hbar, if_pos hmay, atOnce_step h8 hn he]
  · rw [exec_inboundRead_memory hw hm hk, hecc]
    exact ⟨_, rfl, by simp [State.hostOut], rfl, rfl⟩
  · rw [exec_inboundRead_memory hw hm hk, hecc]
    exact ⟨_, rfl, rfl, rfl⟩
  · obtain ⟨a, hread⟩ := exec_inboundRead_control hw hm hbar hn hmay
    exact ⟨_, hread, rfl, rfl, rfl⟩
  · refine ⟨_, exec_inboundAtomic_adds hw hm hx hn h8 hk hecc, ?_, rfl⟩
    rw [atomicValue_add]
    exact put_mem ..
  · obtain ⟨q, hq⟩ := barLog_eq s s.arg.addr
    refine ⟨_, exec_inboundAtomic_refused hw hno, List.mem_append_right _ (List.mem_singleton_self _), ?_⟩
    rw [hq]
    rfl
  · rw [exec_hostCompletion ho, if_pos hok, hostEnds_loaded ho hhost hat hk]
    obtain ⟨t, ht, hmem, hops⟩ := loaded_host hk hlen hbuf
    exact ⟨t, congrArg _ ht, hmem, hops⟩
  · rw [exec_hostCompletion ho, if_pos hok, hostEnds_atomic ho hhost hat hk]
    obtain ⟨t, ht, hmem, hops⟩ := atomicDone_watched s o o.core (s.thread o.core o.slot).x o.slot o.addr.toNat o.n (BitVec.ofNat 64 (ofBytes (s.arg.bytes.take o.n)))
    exact ⟨t, congrArg _ ht, hmem, hops⟩
  · rw [exec_hostCompletion ho, if_neg (by rw [hok]; exact Bool.false_ne_true), hk]
    exact congrArg _ (hostEnds_failed ho hhost hat 0x1D)
  · rw [exec_hostCompletion ho, if_neg (by rw [hok]; exact Bool.false_ne_true), hk]
    exact congrArg _ (hostEnds_failed ho hhost hat 0x17)
  · rw [exec_hostReadTimeout ho, if_pos (bne_iff_ne.mpr hk), hostEnds_failed ho hhost hat]
  · rw [exec_hostReadTimeout ho, hk]
    rfl

/-- Settles O52: writes of the control space, and what the host's link carries either way. -/
theorem controlSpace : Obligations.ControlSpace := ⟨controlWrites, hostLink⟩

end Sys2Proof.Machine

/-! # A scalar store of a core that the device does not have (R12, R112, R226). -/

namespace Sys2Proof.Machine

open Sys2Proof.Claims

/-- The thread in slot 0 of core 512, past the last core of the device, about to store 1 at the start of its own window, while a page that stood at the key
behind that address is being moved to key 0. -/
def strayStore : State :=
  let t : Thread := { k := [(0, 0x0080000000000000), (1, 1)] }
  { threads := [(256 * 512, t)], sched := { migs := [⟨0, 0, 0, spKey 512 0, 0, 0x10000, 64⟩] }, latch := { core := 512, pre := t } }

/-- The byte at a key after a step. -/
def byteAfter (o : Host.Outcome State Fault Refusal) (k : Nat) : Byte := match o with | .next t => t.byte k | _ => 0

/-- The store has gone to the page's new place: nothing stands at the key of its address. -/
theorem strayStore_elsewhere : byteAfter (exec (.st1 ⟨17, 16, 0, 0, 0⟩) strayStore) (spKey 512 0) = 0 := by decide +kernel

/-- Refutes O18: nothing bounds the core of the executing bundle, and the key of an own address of core 512 is the key of no scratchpad. So the store follows
the page that is moved from there, and its byte is not at the key of its address. -/
theorem not_scalarStores : ¬ Obligations.ScalarStores := by
  rintro ⟨hdirect, -⟩
  have hwritable : writable strayStore [⟨0x0080000000000000, spKey 512 0, toBytes 1 1, [], 0⟩] := fun b hb => by
    cases List.mem_singleton.mp hb
    rfl
  obtain ⟨hlands, -⟩ := hdirect (.st1, 1) List.mem_cons_self ⟨17, 16, 0, 0, 0⟩ strayStore strayStore strayStore 1 0x0080000000000000 rfl ⟨rfl, rfl⟩ rfl rfl rfl
  obtain ⟨t, hexec, hbyte, -⟩ := hlands strayStore rfl rfl rfl hwritable rfl
  have hstored : t.byte (spKey 512 0) = 1 := (hbyte (spKey 512 0)).trans (by decide)
  have hafter : byteAfter (exec (.st1 ⟨17, 16, 0, 0, 0⟩) strayStore) (spKey 512 0) = t.byte (spKey 512 0) := by
    refine (congrArg (byteAfter · (spKey 512 0)) hexec).trans ?_
    exact congrArg (memGet (spKey 512 0)) (finish_mem _)
  rw [strayStore_elsewhere, hstored] at hafter
  exact absurd hafter (by decide)

end Sys2Proof.Machine

/-! # The framing of bundles, their end, and pairs (R95, R161, R162, R164, R206, R409). -/

namespace Sys2Proof.Machine

open Sys2Proof.Claims

/-- The bundle's end leaves every other thread as it was, where the transfer is a plain one. -/
theorem finish_thread_other {s : State} (h : s.latch.defer = .no ∨ ∃ v, s.latch.defer = .jump v) {c i : Nat}
    (hne : 256 * c + i ≠ 256 * s.latch.core + s.latch.slot) : s.finish.thread c i = s.thread c i := by
  rcases h with h | ⟨v, h⟩
  · simp only [State.finish, h, State.advance, State.modCur, State.setCur, State.setThread_thread, if_neg hne]; rfl
  · simp only [State.finish, h, State.jump, State.modCur, State.setCur, State.setThread_thread, if_neg hne]; rfl

theorem bundleEnds : BundleEnds := by
  intro s
  refine ⟨finish_cur, fun v h => ?_, fun h => ⟨fun c i hne hi hs => finish_thread_other h (by omega), byte_congr (finish_mem s)⟩⟩
  simp only [State.finish, h, State.jump, State.modCur_cur]; rfl

theorem pairRuns : PairRuns := by
  intro s r1 r2 ci ai cw aw g on s1 second h1
  unfold State.runPair
  dsimp only
  rw [show exec ci { s with latch := { s.latch with mode := .pairC, exec := guardOn g s.cur, len := 8, word := cw } } = .next r1 from h1, andThen_next]
  refine ⟨fun hr h2 => ?_, fun n hr h2 => ?_, fun n hr h2 => ?_, fun k v hr h2 => ?_⟩ <;> dsimp only [second, on, s1] at h2 <;> rw [hr] <;> dsimp only
  · rw [hr] at h2; rw [h2, andThen_next]
    exact ⟨fun hr2 => ⟨_, by rw [hr2]⟩, fun n hr2 => ⟨_, by rw [hr2]⟩, fun k v hr2 => ⟨_, by rw [hr2]⟩⟩
  · rw [h2, andThen_next]
    exact ⟨fun hr2 => ⟨_, by rw [hr2]⟩, fun n hr2 => ⟨_, by rw [hr2]; rfl⟩⟩
  · rw [h2, andThen_next]
    exact ⟨fun hr2 => ⟨_, by rw [hr2]⟩, fun n hr2 => ⟨_, by rw [hr2]; rfl⟩, fun k v hr2 => ⟨_, by rw [hr2]⟩⟩
  · rw [h2, andThen_next]
    exact ⟨fun hr2 => ⟨_, by rw [hr2]⟩, fun n hr2 => ⟨_, by rw [hr2]⟩, fun k2 v2 hr2 => ⟨_, by rw [hr2]⟩⟩

theorem fetch_text {s : State} {c l : Nat} {pc : Word} (hpc : pc.toNat < 2 ^ 56) (ho : opens (s.lease l).text.toList pc.toNat 4 4 = true) :
    s.fetch c l pc = match s.textLine c l pc.toNat with
      | some e => .word (BitVec.ofNat 32 (ofBytes (slice e.bytes (pc.toNat % 64) 4)))
      | none => match s.tlbFind (clusterOf c) l pc.toNat with
        | some e => if hasRights (e.pr &&& e.lr) 4 then .word (BitVec.ofNat 32 (s.word (s.fwd (e.pa pc.toNat)) 4)) else .bad 0x16
        | none => .wait := by
  simp only [State.fetch, if_neg (Nat.not_le.mpr hpc), ho]; rfl

section
variable {s : State} {c l ver : Nat} {pc : Word} {w v : BitVec 32}

theorem frame_word (h4 : pc.toNat % 4 = 0) (hf : s.fetch c l pc = .word w) :
    s.frame c l ver pc = if w.getLsbD 31 then (if isPfx w && ver != 1 then .bad 0x10 w false else .lone w)
      else if pc.toNat % 8 ≠ 0 then .bad 0x11 w false
      else if w.getLsbD 30 then .bad 0x10 w false
      else match s.fetch c l (pc + 4) with
        | .bad k => .bad k 0 false
        | .wait => .wait
        | .word v =>
          if v.getLsbD 31 ∨ ¬ v.getLsbD 30 then .bad 0x10 v true
          else if isPfx w && ver != 1 then (if isVectorWord v then .vec w v else .bad 0x10 v true)
          else .pair w v := by
  rw [State.frame, if_neg (not_not.mpr h4), hf] <;> rfl

theorem frame_two_words (h8 : pc.toNat % 8 = 0) (hf : s.fetch c l pc = .word w) (h31 : w.getLsbD 31 = false) (h30 : w.getLsbD 30 = false)
    (hv : s.fetch c l (pc + 4) = .word v) :
    s.frame c l ver pc = if v.getLsbD 31 ∨ ¬ v.getLsbD 30 then .bad 0x10 v true
      else if isPfx w && ver != 1 then (if isVectorWord v then .vec w v else .bad 0x10 v true)
      else .pair w v := by
  rw [frame_word (by omega) hf, h31, h30, if_neg Bool.false_ne_true, if_neg (not_not.mpr h8), if_neg Bool.false_ne_true, hv]

end

theorem extractLsb'_one_of_getLsbD {n i : Nat} {x : BitVec n} (h : x.getLsbD i = true) : x.extractLsb' i 1 = 1#1 := by
  ext j hj
  obtain rfl : j = 0 := by omega
  simp [h]

theorem bundleFraming : BundleFraming := by
  intro s c l ver pc
  refine ⟨fun h => if_pos h, fun h ho => ?_, fun h ho => ⟨fun e he => ?_, fun e hl he => ?_, fun hl he => ?_⟩, fun h => if_pos h, fun h hf => ?_, fun k h hf => ?_,
    fun w h hf h31 hv => ?_, fun w h hf h31 => ?_, fun w h hf h31 h30 => ?_, fun w v h hf h31 h30 hf' => ⟨fun hv => ?_, fun hv31 hv30 hp => ?_, fun hv31 hv30 hp hver => ?_⟩⟩
  · simp only [State.fetch, if_neg (Nat.not_le.mpr h), ho]; rfl
  · rw [fetch_text h ho, he]
  · rw [fetch_text h ho, hl, he]; rfl
  · rw [fetch_text h ho, hl, he]
  · simp only [State.frame, h, hf]; rfl
  · simp only [State.frame, h, hf]; rfl
  · rw [frame_word h hf, if_pos h31]; simp only [isPfx, bne_iff_ne.mpr hv, Bool.and_true, beq_iff_eq]
  · rw [frame_word (by omega) hf, h31, if_neg Bool.false_ne_true, if_pos (by omega)]
  · rw [frame_word (by omega) hf, h31, if_neg Bool.false_ne_true, if_neg (by omega), if_pos h30]
  · rw [frame_two_words h hf h31 h30 hf', if_pos (hv.imp id (Bool.eq_false_iff.mp ·))]
  · rw [frame_two_words h hf h31 h30 hf', if_neg (by simp only [hv31, hv30]; decide), isPfx, beq_false_of_ne hp]; rfl
  · have ha : (v.extractLsb' 30 1 == 1#1) = true := beq_iff_eq.mpr (extractLsb'_one_of_getLsbD hv30)
    rw [frame_two_words h hf h31 h30 hf', if_neg (by simp only [hv31, hv30]; decide), isPfx, hp, bne_iff_ne.mpr hver, isVectorWord, ha]
    simp only [beq_self_eq_true, Bool.true_and, if_true, decide_eq_true_eq]

/-- Settles O11: the framing table row by row, the end of a lone bundle, and what the two slots of a pair come to together. -/
theorem bundleRules : Obligations.BundleRules := ⟨bundleFraming, bundleEnds, pairRuns⟩

end Sys2Proof.Machine

/-! # The checks of an access (R76, R77, R85, R89, R94, R101, R123). -/

namespace Sys2Proof.Machine

open Sys2Proof.Claims

section
variable {s : State} {c va n kind o : Nat} {t : Thread}

theorem spaceOf_glob (h : va < 0x0080000000000000) : spaceOf va = some (.glob va) := if_pos h

theorem spaceOf_own (h : o < 0x200000) : spaceOf (0x0080000000000000 + o) = some (.own 0 o) := by
  rw [spaceOf, if_neg (by omega), if_pos (by omega)]
  congr 2 <;> omega

theorem spaceOf_camp (h : o < 0x10000000) : spaceOf (0x0083000000000000 + o) = some (.camp o) := by
  rw [spaceOf]
  repeat rw [if_neg (by omega)]
  rw [if_pos (by omega)]
  congr 2; omega

theorem spaceOf_ne_glob {a : Nat} (h : 0x0080000000000000 ≤ va) : spaceOf va ≠ some (.glob a) := by
  unfold spaceOf
  rw [if_neg (by omega)]
  repeat' split
  all_goals simp

/-- The own scratchpad's checks once place, straddle and alignment pass (R77, R85, R123). -/
theorem accessErr_own (hn : 0 < n) (ho : o + n ≤ 0x100000) (ha : (0x0080000000000000 + o) % n = 0) :
    s.accessErr c t (0x0080000000000000 + o) (0x0080000000000000 + o + n - 1) n kind =
      if s.spShare c t.x o n = false then some 0x17
      else if ∃ l ∈ (s.core c).locks, overlap o n l.lo (l.hi + 1 - l.lo) = true ∧ (l.dst = true ∨ kind ≠ 0) then some 0x05 else none := by
  have hlast : spaceOf (0x0080000000000000 + o + n - 1) = some (.own 0 (o + n - 1)) := by
    rw [show 0x0080000000000000 + o + n - 1 = 0x0080000000000000 + (o + n - 1) by omega]; exact spaceOf_own (by omega)
  have h1 : ¬ 0x100000 ≤ o := by omega
  have h2 : ¬ 0x100000 ≤ o + n - 1 := by omega
  simp only [State.accessErr, spaceOf_own (show o < 0x200000 by omega), hlast, State.hole, h1, h2, sameSpace, ha,
    show 0x0080000000000000 + o + n - 1 + 1 - (0x0080000000000000 + o) = n by omega]
  simp

/-- The base camp's checks once place, straddle and alignment pass (R77, R89). -/
theorem accessErr_camp (hn : 0 < n) (ho : o + n ≤ 0x4000000) (ha : (0x0083000000000000 + o) % n = 0) :
    s.accessErr c t (0x0083000000000000 + o) (0x0083000000000000 + o + n - 1) n kind =
      if t.fwm = true ∨ opens (s.lease (s.ctx c t.x).l).grants o n (needOf kind) = true then none else some 0x17 := by
  have hlast : spaceOf (0x0083000000000000 + o + n - 1) = some (.camp (o + n - 1)) := by
    rw [show 0x0083000000000000 + o + n - 1 = 0x0083000000000000 + (o + n - 1) by omega]; exact spaceOf_camp (by omega)
  have h1 : ¬ 0x4000000 ≤ o := by omega
  have h2 : ¬ 0x4000000 ≤ o + n - 1 := by omega
  simp only [State.accessErr, spaceOf_camp (show o < 0x10000000 by omega), hlast, State.hole, h1, h2, sameSpace, ha,
    show 0x0083000000000000 + o + n - 1 + 1 - (0x0083000000000000 + o) = n by omega]
  cases t.fwm <;> cases opens (s.lease (s.ctx c t.x).l).grants o n (needOf kind) <;> simp

/-- A global access within the space: its alignment, and for a write the text (R77, R94, R101). -/
theorem accessErr_glob (hn : 0 < n) (h : va + n ≤ 0x0080000000000000) :
    s.accessErr c t va (va + n - 1) n kind =
      if va % n ≠ 0 then some 0x13
      else if (kind != 0 && (s.lease (s.ctx c t.x).l).text.any fun r => overlap va n r.lo r.len) = true then some 0x17 else none := by
  simp only [State.accessErr, spaceOf_glob (show va < 0x0080000000000000 by omega), spaceOf_glob (show va + n - 1 < 0x0080000000000000 by omega), State.hole,
    sameSpace, show va + n - 1 + 1 - va = n by omega]
  simp

theorem accessErr_straddle (h : va < 0x0080000000000000) (hl : 0x0080000000000000 < va + n) : s.accessErr c t va (va + n - 1) n kind = some 0x14 := by
  simp only [State.accessErr, spaceOf_glob h, State.hole]
  cases hq : spaceOf (va + n - 1) with
  | none => rfl
  | some q =>
    have hne (a : Nat) := spaceOf_ne_glob (va := va + n - 1) (a := a) (by omega)
    cases q <;> simp_all [sameSpace]

end

/-- Settles O22: each check where those before it pass. -/
theorem accessChecks : Obligations.AccessChecks := by
  intro s c t va n kind hn
  have pow (o : Nat) (m : Nat) (hm : 8 ∣ m) (hd : n ∣ 8) (h : o % n = 0) : (m + o) % n = 0 := by
    rw [Nat.add_mod, h, Nat.mod_eq_zero_of_dvd (hd.trans hm)]; simp
  refine ⟨fun h => by simp only [State.accessErr, h], fun h ha => by rw [accessErr_glob hn h, if_pos ha], accessErr_straddle, fun h ha hk ht => ?_, fun h ha hk => ?_,
    fun o hva ho ha hd => ?_, fun o hva ho ha hd => ?_⟩
  · rw [accessErr_glob hn h, if_neg (not_not.mpr ha), ht, bne_iff_ne.mpr hk]; rfl
  · rw [accessErr_glob hn h, if_neg (not_not.mpr ha), hk]; rfl
  · subst hva; exact accessErr_own hn ho (pow o _ (by decide) hd ha)
  · subst hva; exact accessErr_camp hn ho (pow o _ (by decide) hd ha)

end Sys2Proof.Machine

/-! # Loads, atomics, fences, hints and full/empty words (R77, R96, R102, R119, R120, R126, R128, R224, R225, R228 to R232, R234). -/

namespace Sys2Proof.Machine

open Sys2Proof.Claims

/-! ### The gates of an access, where they let it pass -/

section
variable {s t u : State} {va v : Word} {n sb last align kind k : Nat} {body : Ex Unit}

theorem memGate_ordered (h : ordered s) : memGate s = .ok ((), s) := by
  simp only [ordered] at h
  simp only [memGate, Ex.get_bind, h]; rfl

theorem checkAccess_trap (h : s.accessErr s.latch.core s.pre va.toNat last align kind = some k) : checkAccess va last align kind s = .error (.trap k va) := by
  simp only [checkAccess, Ex.get_bind, h, trap_run]

theorem tokenGate_here (h : homeHere s va) : tokenGate va s = .ok ((), s) := by
  simp only [tokenGate, Ex.get_bind]
  rcases hsp : spaceOf va.toNat with _ | p
  · rfl
  cases p
  case glob a => obtain ⟨hbusy, hheld⟩ := h a hsp; simp only [hbusy, hheld]; rfl
  all_goals rfl

theorem setSlot_raised (h : raised s sb = some t) : setSlot sb s = .ok ((), t) := by
  unfold raised at h
  simp only [setSlot, Ex.get_bind]
  split at h
  · next h0 => cases h; rw [if_pos h0]; rfl
  · next h0 =>
    split at h
    · next hroom => cases h; rw [if_neg h0, if_neg (Nat.not_le.mpr hroom), modCur_run]
    · cases h

theorem ropeGate_passes {own : Bool} (h : s.cur.mem.isSome = true → own = true) : ropeGate va own s = .ok ((), s) := by
  simp only [ropeGate, Ex.get_bind]
  cases hm : s.cur.mem.isSome with
  | false => rfl
  | true => rw [h hm]; rfl

/-! ### Scalar loads (R225) -/

theorem doLoad_issues {f : Mem} {a : Word} {sgn : Bool} {r : Dest} {w : State} (ha : src f.a s = .ok (a, u)) (ho : ordered u)
    (hc : allowed u (a + BitVec.ofNat 64 (f.i.toNat * n)) n n 0) (hh : homeHere u (a + BitVec.ofNat 64 (f.i.toNat * n)))
    (hs : raised u f.s.toNat = some w) (hr : reserve f.d.toNat w.nextOp w = .ok (r, t)) :
    doLoad f n sgn s = .ok ((), t.withOp (loadOp t r (a + BitVec.ofNat 64 (f.i.toNat * n)) n sgn f.s.toNat)) := by
  simp only [doLoad, Ex.bind_ok ha, Ex.bind_ok (memGate_ordered ho), Ex.bind_ok (checkAccess_ok hc), Ex.bind_ok (tokenGate_here hh),
    Ex.bind_ok (setSlot_raised hs), issueTo_run hr]
  rfl

theorem doLoad_traps {f : Mem} {a : Word} {sgn : Bool} (ha : src f.a s = .ok (a, u)) (ho : ordered u)
    (hc : u.accessErr u.latch.core u.pre (a + BitVec.ofNat 64 (f.i.toNat * n)).toNat ((a + BitVec.ofNat 64 (f.i.toNat * n)).toNat + n - 1) n 0 = some k) :
    doLoad f n sgn s = .error (.trap k (a + BitVec.ofNat 64 (f.i.toNat * n))) := by
  simp only [doLoad, Ex.bind_ok ha, Ex.bind_ok (memGate_ordered ho), Ex.bind_error (checkAccess_trap hc)]

end

theorem exec_scalarLoad {p : (Mem → Instr) × Nat × Bool} (hp : p ∈ scalarLoads) (f : Mem) (s : State) : exec (p.1 f) s = runC f.w.toNat (doLoad f p.2.1 p.2.2) s := by
  simp only [scalarLoads, List.mem_cons, List.not_mem_nil, or_false] at hp
  rcases hp with rfl | rfl | rfl | rfl | rfl | rfl | rfl <;> rfl

theorem scalarLoadResult : ScalarLoadResult := by
  intro p hp f s u a hg ha ho
  simp only [exec_scalarLoad hp]
  exact ⟨fun _ _ _ hc hh hs hr => runC_goes hg (doLoad_issues ha ho hc hh hs hr), fun _ hk => runC_goes_trap hg (doLoad_traps ha ho hk)⟩

/-- Settles O17: a load's address is checked before anything is set or reserved. -/
theorem scalarLoadsIssueOrTrap : Obligations.ScalarLoads := scalarLoadResult

/-! ### Atomics (R120, R228, R229) -/

section
variable {s t u : State} {r : BitVec 5} {scope : Nat}

theorem hostFlush_clean (h : scope = 6 ∨ scope = 11 → s.cur.hostDirty = []) : hostFlush scope s = .ok ((), s) := by
  simp only [hostFlush, Ex.get_bind]
  by_cases hs : scope = 6 ∨ scope = 11
  · rw [h hs]; simp
  · rw [if_neg (by simp; omega)]; rfl

theorem dropLines_run (scope bg : Nat) (s : State) : dropLines scope bg s = .ok ((), linesDropped s scope bg) := rfl

/-- An operand that is read in one case of two: both cases go on with what is read. -/
theorem Ex.bind_ok_ite {α β : Type} {c : Prop} [Decidable c] {x y : Ex α} {f : α → Ex β} {a : α} (h : (if c then x else y) s = .ok (a, t)) :
    (if c then x >>= f else y >>= f) s = f a t := by
  split at h
  · next hc => rw [if_pos hc, Ex.bind_ok h]
  · next hc => rw [if_neg hc, Ex.bind_ok h]

/-- What orders an atomic lets it pass, and drops the L1D's lines for a scope wider than thread (R119, R120). -/
theorem scopeGate_passes (h : atScope s scope) : scopeGate scope s = .ok ((), if scope = 0 then s else linesDropped s scope 0) := by
  unfold atScope at h
  simp only [scopeGate, Ex.get_bind]
  split at h
  · next h0 => rw [if_pos h0, if_pos h0]; exact memGate_ordered h
  · next h0 =>
    obtain ⟨hteam, hperformed, hsends, hhost⟩ := h
    rw [performed] at hperformed
    rw [if_neg h0, if_neg h0, if_neg (by rintro ⟨h2, hn⟩; exact hn (hteam h2)), if_neg (by simp [hperformed]), if_neg (by simp [hsends]),
      Ex.bind_ok (hostFlush_clean hhost), dropLines_run]

theorem atomic_issues {f : Atom} {aop : Nat} {e v w : State} {x a b : Word} {d : Dest}
    (hx : if aop = 18 then srcShort f.d s = .ok (x, e) else x = 0 ∧ e = s) (ha : srcShort f.a e = .ok (a, u)) (hb : srcShort f.b u = .ok (b, v))
    (hscope : atScope v f.s.toNat) (hc : allowed (if f.s.toNat = 0 then v else linesDropped v f.s.toNat 0) a (aopSize aop) (aopSize aop) 2)
    (hhost : isHostKey a.toNat = true → hostAtomic aop = true ∧ (if f.s.toNat = 0 then v else linesDropped v f.s.toNat 0).hostAtom a.toNat = true)
    (hsub : isOwn (if f.s.toNat = 0 then v else linesDropped v f.s.toNat 0).latch.core a.toNat = true →
      (if f.s.toNat = 0 then v else linesDropped v f.s.toNat 0).subHit (if f.s.toNat = 0 then v else linesDropped v f.s.toNat 0).latch.core (ownOff a.toNat) (aopSize aop) = false)
    (hrope : (if f.s.toNat = 0 then v else linesDropped v f.s.toNat 0).cur.mem.isSome = true →
      isOwn (if f.s.toNat = 0 then v else linesDropped v f.s.toNat 0).latch.core a.toNat = true)
    (hhome : homeHere (if f.s.toNat = 0 then v else linesDropped v f.s.toNat 0) a)
    (hhead : headed (if f.s.toNat = 0 then v else linesDropped v f.s.toNat 0) = some w)
    (hr : reserve (if f.d.toNat = 24 then 36 else f.d.toNat) w.nextOp w = .ok (d, t)) :
    atomic f aop s = .ok ((), t.withOp
      { t.newOp .atomic with dest := d, addr := a, n := aopSize aop, aop := aop, data := b.setWidth 4096, exp := x, scope := f.s.toNat }) := by
  have hexp : (if aop = 18 then srcShort f.d else pure 0 : Ex Word) s = .ok (x, e) := by
    split at hx
    · next h => rw [if_pos h]; exact hx
    · next h => rw [if_neg h, hx.1, hx.2]; rfl
  refine (Ex.bind_ok_ite hexp).trans ?_
  simp only [Ex.bind_ok ha, Ex.bind_ok hb, Ex.bind_ok (scopeGate_passes hscope)]
  generalize (if f.s.toNat = 0 then v else linesDropped v f.s.toNat 0) = q at *
  simp only [Ex.bind_ok (checkAccess_ok hc), Ex.get_bind]
  rw [if_neg (by intro h; simp only [Bool.and_eq_true, Bool.or_eq_true, Bool.not_eq_true'] at h; obtain ⟨hk, hn⟩ := h; simp [hhost hk] at hn),
    if_neg (by intro h; simp only [Bool.and_eq_true] at h; rw [hsub h.1] at h; exact Bool.false_ne_true h.2),
    Ex.bind_ok (ropeGate_passes hrope), Ex.bind_ok (tokenGate_here hhome), Ex.bind_ok (headGate_of_headed hhead), shortDest, issueTo_run hr]
  rfl

end

theorem exec_atomic {p : (Atom → Instr) × Nat × Nat} (hp : p ∈ atomics) (f : Atom) (s : State) : exec (p.1 f) s = runC 0 (atomic f p.2.1) s ∧ p.2.2 = aopSize p.2.1 := by
  simp only [atomics, List.mem_cons, List.not_mem_nil, or_false] at hp
  rcases hp with rfl | rfl | rfl | rfl | rfl | rfl | rfl | rfl | rfl | rfl | rfl | rfl | rfl | rfl | rfl | rfl | rfl | rfl | rfl <;> exact ⟨rfl, rfl⟩

theorem atomicResult : AtomicResult := by
  intro p hp f s e u v w t x a b r hg hx ha hb hscope q hc hhost hsub hrope hhome hhead hr
  obtain ⟨hexec, hsize⟩ := exec_atomic hp f s
  rw [hexec, hsize]
  rw [hsize] at hc hsub
  exact runC_goes hg (atomic_issues hx ha hb hscope hc hhost hsub hrope hhome hhead hr)

/-! ### What the integer atomics write (R90, R228) -/

theorem sInt_toNat {w : Nat} (x : BitVec (w + 1)) : sInt (w + 1) x.toNat = x.toInt := by
  have hpow : 2 ^ (w + 1) = 2 * 2 ^ w := by rw [pow_succ, mul_comm]
  have hmod : (x.toNat : Int) % 2 ^ (w + 1) = x.toNat := by norm_cast; exact Nat.mod_eq_of_lt x.isLt
  rw [sInt, BitVec.toInt_eq_toNat_cond, hmod, Nat.mod_eq_of_lt x.isLt, Nat.add_sub_cancel]
  by_cases h : x.toNat < 2 ^ w
  · rw [if_pos h, if_pos (by omega)]
  · rw [if_neg h, if_neg (by omega)]; norm_cast

section
variable {aop : Nat} {m b e : BitVec 64}

/-- Over a word of 4 bytes the operands are the low 32 bits, and so is what is written. -/
theorem atomicValue_four (h : aop ∈ [0, 3, 5, 8, 10, 16]) (x : Nat) :
    aopSize aop = 4 ∧ atomicValue aop (m.setWidth 32).toNat b.toNat x = atomicTable aop m b e ∧ atomicTable aop m b e < 2 ^ 32 := by
  have hb : b.toNat % 2 ^ 32 = (b.setWidth 32).toNat := (BitVec.toNat_setWidth 32 b).symm
  have hm := sInt_toNat (w := 31) (m.setWidth 32)
  have hbi := sInt_toNat (w := 31) (b.setWidth 32)
  have hmlt := (m.setWidth 32).isLt
  have hblt := (b.setWidth 32).isLt
  have hsize : aopSize aop = 4 := by simp only [List.mem_cons, List.not_mem_nil, or_false] at h; rcases h with rfl | rfl | rfl | rfl | rfl | rfl <;> rfl
  refine ⟨hsize, ?_⟩
  simp only [atomicValue, hsize, Nat.reduceMul, hb]
  simp only [List.mem_cons, List.not_mem_nil, or_false] at h
  rcases h with rfl | rfl | rfl | rfl | rfl | rfl <;> simp only [hm, hbi]
  · exact ⟨(BitVec.toNat_add ..).symm, BitVec.isLt _⟩
  · exact ⟨(apply_ite ..).symm, BitVec.isLt _⟩
  · exact ⟨rfl, lt_of_le_of_lt (min_le_left ..) hmlt⟩
  · exact ⟨(apply_ite ..).symm, BitVec.isLt _⟩
  · exact ⟨rfl, max_lt hmlt hblt⟩
  · exact ⟨rfl, hblt⟩

theorem atomicValue_eight (h : aop ∈ [1, 4, 6, 9, 11, 13, 14, 15, 17, 18]) :
    aopSize aop = 8 ∧ atomicValue aop m.toNat b.toNat e.toNat = atomicTable aop m b e ∧ atomicTable aop m b e < 2 ^ 64 := by
  have hb : b.toNat % 2 ^ 64 = b.toNat := Nat.mod_eq_of_lt b.isLt
  have hm := sInt_toNat (w := 63) m
  have hbi := sInt_toNat (w := 63) b
  have hsize : aopSize aop = 8 := by
    simp only [List.mem_cons, List.not_mem_nil, or_false] at h
    rcases h with rfl | rfl | rfl | rfl | rfl | rfl | rfl | rfl | rfl | rfl <;> rfl
  refine ⟨hsize, ?_⟩
  simp only [atomicValue, hsize, Nat.reduceMul, hb]
  simp only [List.mem_cons, List.not_mem_nil, or_false] at h
  rcases h with rfl | rfl | rfl | rfl | rfl | rfl | rfl | rfl | rfl | rfl <;> simp only [hm, hbi]
  · exact ⟨(BitVec.toNat_add ..).symm, BitVec.isLt _⟩
  · exact ⟨(apply_ite ..).symm, BitVec.isLt _⟩
  · exact ⟨rfl, lt_of_le_of_lt (min_le_left ..) m.isLt⟩
  · exact ⟨(apply_ite ..).symm, BitVec.isLt _⟩
  · exact ⟨rfl, max_lt m.isLt b.isLt⟩
  · exact ⟨(BitVec.toNat_and ..).symm, BitVec.isLt _⟩
  · exact ⟨(BitVec.toNat_or ..).symm, BitVec.isLt _⟩
  · exact ⟨(BitVec.toNat_xor ..).symm, BitVec.isLt _⟩
  · exact ⟨rfl, b.isLt⟩
  · simp only [BitVec.toNat_inj]
    exact ⟨(apply_ite BitVec.toNat ..).symm, BitVec.isLt (if m = e then b else m)⟩

end

theorem atomicValues : AtomicValues := by
  intro aop m b e haop hfloat
  have hcases : aop ∈ [0, 3, 5, 8, 10, 16] ∨ aop ∈ [1, 4, 6, 9, 11, 13, 14, 15, 17, 18] := by
    simp only [List.mem_cons, List.not_mem_nil, or_false] at hfloat ⊢; omega
  rcases hcases with h | h
  · obtain ⟨hsize, -, hlt⟩ := atomicValue_four (m := m) (b := b) (e := e) h 0
    have hval x := (atomicValue_four (m := m) (b := b) (e := e) h x).2.1
    simp only [hsize, Nat.reduceMul]
    rw [BitVec.toNat_setWidth] at hval
    exact ⟨hval _, by rw [hval]; exact hlt⟩
  · obtain ⟨hsize, hval, hlt⟩ := atomicValue_eight (m := m) (b := b) (e := e) h
    simp only [hsize, Nat.reduceMul, Nat.mod_eq_of_lt m.isLt, Nat.mod_eq_of_lt e.isLt]
    exact ⟨hval, by rw [hval]; exact hlt⟩

/-- Settles O20: the issue passes every gate of an atomic, and the written value is read off the table case by case. -/
theorem atomicResults : Obligations.AtomicResults := ⟨atomicResult, atomicValues⟩

/-! ### Fences and scoreboard waits (R119, R128, R230) -/

/-- Only cores, and what only cores read, may differ: memory, threads, contexts and the latch stand. -/
structure CoresOnly (s t : State) : Prop where
  mem : t.mem = s.mem
  threads : t.threads = s.threads
  ctxs : t.ctxs = s.ctxs
  latch : t.latch = s.latch

theorem CoresOnly.refl (s : State) : CoresOnly s s := ⟨rfl, rfl, rfl, rfl⟩

theorem CoresOnly.trans {s t u : State} (h : CoresOnly s t) (k : CoresOnly t u) : CoresOnly s u :=
  ⟨k.mem.trans h.mem, k.threads.trans h.threads, k.ctxs.trans h.ctxs, k.latch.trans h.latch⟩

section
variable {s : State} {c e line : Nat}

theorem closeBatch_absent (h : (e, line) ∉ (s.core c).batch) : s.closeBatch c e line = s := by
  simp only [State.closeBatch]
  rw [if_neg (by simp [h])]

theorem closeBatch_coresOnly (s : State) (c e line : Nat) : CoresOnly s (s.closeBatch c e line) := by
  simp only [State.closeBatch]
  split <;> exact ⟨rfl, rfl, rfl, rfl⟩

theorem closeFold_coresOnly (l : List (Nat × Nat)) (s : State) : CoresOnly s (l.foldl (fun s p => s.closeBatch c p.1 p.2) s) := by
  induction l generalizing s with
  | nil => exact .refl s
  | cons p l ih => exact (closeBatch_coresOnly s c p.1 p.2).trans (ih _)

/-- Windows that stand in a list all close along it, while the out-queue has room for them all. -/
theorem closeFold_batch (l : List (Nat × Nat)) (s : State) (hl : ∀ p ∈ (s.core c).batch, p ∈ l) (hroom : (s.core c).outq.length + (s.core c).batch.length ≤ 128) :
    ((l.foldl (fun s p => s.closeBatch c p.1 p.2) s).core c).batch = [] := by
  induction l generalizing s with
  | nil => exact List.eq_nil_iff_forall_not_mem.mpr fun p hp => absurd (hl p hp) List.not_mem_nil
  | cons p l ih =>
    obtain ⟨e, line⟩ := p
    rw [List.foldl_cons]
    by_cases hp : (e, line) ∈ (s.core c).batch
    · have hpos := List.length_pos_of_mem hp
      obtain ⟨t, rfl, -, hcore⟩ := closeBatch_open hp (by omega)
      have hlt : ((s.core c).batch.filter (· != (e, line))).length < (s.core c).batch.length := List.length_filter_lt_length_iff_exists.mpr ⟨_, hp, by simp⟩
      refine ih _ (fun q hq => ?_) (by rw [hcore]; simp only [Core.windowClosed, List.length_append, List.length_singleton]; omega)
      rw [hcore, Core.windowClosed, List.mem_filter] at hq
      exact (List.mem_cons.mp (hl q hq.1)).resolve_left (bne_iff_ne.mp hq.2)
    · rw [closeBatch_absent hp]
      exact ih s (fun q hq => (List.mem_cons.mp (hl q hq)).resolve_left fun h => hp (h ▸ hq)) hroom

theorem closeAll_batch (h : s.closeRoom c = true) : ((s.closeAll c).core c).batch = [] :=
  closeFold_batch _ s (fun _ hp => hp) (of_decide_eq_true h)

theorem closeAll_coresOnly (s : State) (c : Nat) : CoresOnly s (s.closeAll c) := closeFold_coresOnly _ s

theorem linesDropped_coresOnly (s : State) (scope bg : Nat) : CoresOnly s (linesDropped s scope bg) := by
  unfold linesDropped; split <;> exact ⟨rfl, rfl, rfl, rfl⟩

theorem linesDropped_batch (s : State) (scope bg c : Nat) : ((linesDropped s scope bg).core c).batch = (s.core c).batch := by
  unfold linesDropped State.modCore State.setCore State.core
  split
  · simp only [Table.get_set]; split
    · next h => rw [h]
    · rfl
  · rfl

theorem linesDropped_l1d {scope bg : Nat} (h : s.dropsL1 s.latch.core s.cur.x scope bg = true) : ((linesDropped s scope bg).core s.latch.core).l1d = [] := by
  rw [linesDropped, if_pos h]
  simp [State.core, State.modCore, State.setCore]

/-- The scope's rectangle stands in the context of the thread. -/
theorem CoresOnly.dropsL1 {t : State} (h : CoresOnly s t) (scope bg : Nat) : t.dropsL1 t.latch.core t.cur.x scope bg = s.dropsL1 s.latch.core s.cur.x scope bg := by
  have hcur : t.cur = s.cur := by unfold State.cur State.thread; rw [h.threads, h.latch]
  have hctx c x : t.ctx c x = s.ctx c x := by unfold State.ctx; rw [h.ctxs]
  simp only [State.dropsL1, hcur, hctx, h.latch]

end

theorem exec_fence {r sr : BitVec 4} {s : State} (hg : s.goesC 0) (hteam : sr = 2 → s.bgOn r.toNat = true) (hpend : hasPending s.pre = false) (hp : performed s)
    (hsb : s.pre.sb.any (fun p => p.2 != 0) = false) (hsends : remoteSends s sr.toNat = false) (hhost : sr = 6 ∨ sr = 11 → s.cur.hostDirty = [])
    (hroom : s.closeRoom s.latch.core = true) : exec (.fence r sr) s = .next (s.ended (linesDropped (s.closeAll s.latch.core) sr.toNat r.toNat)) := by
  unfold performed at hp
  refine runC_goes hg ?_
  simp only [Ex.get_bind]
  rw [if_neg (by rintro ⟨h2, hn⟩; exact hn (hteam (BitVec.eq_of_toNat_eq h2))), if_neg (by simp [hpend, hp, hsb]), if_neg (by simp [hsends]),
    Ex.bind_ok (hostFlush_clean fun h => hhost (h.imp (fun h => BitVec.eq_of_toNat_eq h) fun h => BitVec.eq_of_toNat_eq h)), if_neg (by simp [hroom])]
  rfl

theorem exec_sbwait {m : BitVec 8} {s : State} (hg : s.goesC 0) (hcount : ∀ i < 8, m.getLsbD i = true → Table.get 0 i s.pre.sb = 0)
    (hbad : ∀ sb z, REnt.bad sb z ∈ s.pre.t → sb = 0 ∨ m.getLsbD sb = false) : exec (.sbwait m) s = .next (s.ended s) := by
  refine runC_goes hg ?_
  simp only [Ex.get_bind]
  rw [if_neg (by simpa [ones, bit_toNat] using hcount)]
  rw [List.findSome?_eq_none_iff.mpr]
  · rfl
  · intro e he
    cases e with
    | bad sb z => rcases hbad sb z he with h | h <;> simp [h, bit_toNat]
    | _ => rfl

theorem fenceResult : FenceResult := by
  refine ⟨fun r sr s hg hteam hpend hp hsb hsends hhost hroom => ⟨_, exec_fence hg hteam hpend hp hsb hsends hhost hroom, ?_⟩,
    fun m s hg hcount hbad => exec_sbwait hg hcount hbad⟩
  have hclosed := closeAll_coresOnly s s.latch.core
  obtain ⟨hmem, hthreads, -, -⟩ := hclosed.trans (linesDropped_coresOnly _ sr.toNat r.toNat)
  refine ⟨hmem, hthreads, by rw [linesDropped_batch, closeAll_batch hroom], fun hdrops => ?_⟩
  rw [← hclosed.dropsL1] at hdrops
  have := linesDropped_l1d hdrops
  rwa [hclosed.latch] at this

/-! ### Prefetch and touch (R102, R231, R232) -/

section
variable {s t u : State} {a : BitVec 6} {w : BitVec 3} {b : Word}

theorem wayFor_coresOnly (s : State) (used : List Nat) (n : Nat) : CoresOnly s (s.wayFor used n).2 := by
  unfold State.wayFor
  split <;> exact ⟨rfl, rfl, rfl, rfl⟩

theorem modCore_coresOnly (s : State) (c : Nat) (f : Core → Core) : CoresOnly s (s.modCore c f) := ⟨rfl, rfl, rfl, rfl⟩

theorem modCluster_coresOnly (s : State) (k : Nat) (f : Cluster → Cluster) : CoresOnly s (s.modCluster k f) := ⟨rfl, rfl, rfl, rfl⟩

theorem l1Fill_coresOnly (s : State) (c : Nat) (e : Line) : CoresOnly s (s.l1Fill c e) := by
  unfold State.l1Fill
  exact (wayFor_coresOnly s _ 8).trans (modCore_coresOnly ..)

theorem tlbFill_coresOnly (s : State) (k : Nat) (e : Tlb) : CoresOnly s (s.tlbFill k e) := by
  unfold State.tlbFill
  exact (wayFor_coresOnly s _ 8).trans (modCluster_coresOnly ..)

theorem prefetchLine_coresOnly (s : State) (c l va : Nat) : CoresOnly s (s.prefetchLine c l va) := by
  unfold State.prefetchLine
  dsimp only
  repeat' split
  · exact .refl s
  · exact l1Fill_coresOnly ..
  · exact .refl s
  · exact (tlbFill_coresOnly ..).trans (l1Fill_coresOnly ..)
  · exact tlbFill_coresOnly ..
  · exact .refl s
  · exact .refl s

theorem exec_prefetch (imm : BitVec 6) (hg : s.goesC w.toNat) (ha : src a s = .ok (b, u)) :
    exec (.prefetch a w imm) s = .next (s.ended (u.prefetchLine u.latch.core u.curCtx.l ((b + BitVec.ofNat 64 (imm.toNat * 64)).toNat / 64 * 64))) := by
  refine runC_goes hg ?_
  rw [Ex.bind_ok ha]
  rfl

/-- Once its address is read, `touch` looks at the wait of its thread and at the address (R232). -/
theorem touch_runs (a : BitVec 6) (w : BitVec 3) (imm : BitVec 6) : ∃ body, (∀ s, exec (.touch a w imm) s = runC w.toNat body s) ∧ ∀ (s u : State) (b : Word),
    src a s = .ok (b, u) →
    let va := b + BitVec.ofNat 64 (imm.toNat * 64)
    (u.cur.wait = .done 0 → body s = .ok ((), calm u)) ∧
    (∀ v, u.cur.wait = .done v → v ≠ 0 → body s = .error (.trap 0x16 va)) ∧
    (u.cur.wait = .none → va.toNat < 0x0080000000000000 → body s = (parkWith 11 fun s => s.modCur fun t => { t with wait := .touch (va.toNat / 65536) }) u) ∧
    (u.cur.wait = .none → 0x0080000000000000 ≤ va.toNat → body s = .error (.trap 0x15 va)) := by
  refine ⟨_, fun _ => rfl, fun s u b hb => ?_⟩
  rw [Ex.bind_ok hb]
  simp only [Ex.get_bind]
  refine ⟨fun h => by rw [h]; rfl, fun v h hv => ?_, fun h hva => by rw [h]; simp only [spaceOf_glob hva], fun h hva => ?_⟩
  · rw [h]
    exact congrFun (if_neg hv) (u.modCur fun t => { t with wait := .none })
  · rw [h]
    dsimp only
    rcases hsp : spaceOf (b + BitVec.ofNat 64 (imm.toNat * 64)).toNat with _ | p
    · rfl
    cases p
    case glob o => exact absurd hsp (spaceOf_ne_glob hva)
    all_goals rfl

/-- A fault that is not there is raised in no state. -/
theorem raises_none {z : Option Cause} (h : (match z with | some z => throw (.cause z) | none => pure () : Ex Unit) s = .ok ((), u)) (t : State) :
    (match (generalizing := false) z with | some z => throw (.cause z) | none => pure () : Ex Unit) t = .ok ((), t) := by
  cases z with
  | none => rfl
  | some z => cases h

theorem waitSlot_passing {w : Nat} (h : waitSlot w s = .ok ((), s)) (hk : s.latch.skip = 0) (p : Nat) : waitSlot w (s.passing p) = .ok ((), s.passing p) := by
  have hpre : (s.passing p).pre = s.pre := rfl
  simp only [waitSlot, Ex.get_bind, hpre] at h ⊢
  by_cases h0 : w = 0
  · rw [if_pos h0]; rfl
  rw [if_neg h0] at h ⊢
  by_cases hz : Table.get 0 w s.pre.sb ≠ 0
  · rw [if_pos hz, park_run (.inl hk)] at h; cases h
  rw [if_neg hz] at h ⊢
  exact raises_none h _

end

theorem prefetchTouchResult : PrefetchTouchResult := by
  refine ⟨fun a w imm s u b hg ha => ?_, fun a w imm s u b hg ha => ?_⟩
  · obtain ⟨hmem, hthreads, -, -⟩ := prefetchLine_coresOnly u u.latch.core u.curCtx.l ((b + BitVec.ofNat 64 (imm.toNat * 64)).toNat / 64 * 64)
    exact ⟨_, exec_prefetch imm hg ha, hmem, hthreads⟩
  obtain ⟨body, hexec, hbody⟩ := touch_runs a w imm
  obtain ⟨hdone, hfails, hparks, houtside⟩ := hbody s u b ha
  simp only [hexec]
  refine ⟨fun h => runC_goes hg (hdone h), fun h hva hk => ?_, fun v h hv => runC_goes_trap hg (hfails v h hv), fun h hva => runC_goes_trap hg (houtside h hva)⟩
  obtain ⟨hlatch, hpass⟩ := src_passing hk ha 11
  refine runC_goes_wait hg ((hparks h hva).trans (parkWith_run _ (.inl (by rw [hlatch]; exact hk)))) ?_
  obtain ⟨-, -, hpassed, -⟩ := hbody (s.passing 11) (u.passing 11) b hpass
  have hok : actC w.toNat body s (s.passing 11) = .ok (default, u.passing 11) := by
    rw [actC, Ex.bind_ok (waitSlot_passing hg.2 hk 11), if_pos hg.1]
    exact (hpassed h hva).trans (parkWith_passed _ (by simp [State.passing]) le_rfl)
  unfold State.passing at hok
  rw [noneBefore, hok]

/-! ### Full/empty words (R126, R234) -/

section
variable {f : Mem} {s q t u v w : State} {a d : Word} {o : Nat} {r : Dest}

/-- Device scope covers the cluster (R96). -/
theorem linesDropped_device (s : State) : linesDropped s 5 0 = s.modCore s.latch.core fun k => { k with l1d := [] } := if_pos rfl

/-- What a full/empty access asks of its word's bank. -/
def feOp (f : Mem) (store : Bool) (va d : Word) (o : Op) : Op :=
  { o with kind := .fe, addr := va, n := 8, aop := b2n store, data := d.setWidth 4096, sb := f.s.toNat, scope := 5 }

/-- A full/empty access of a base-camp word passes its gates, sets its slot, drops the L1D's lines and issues (R234). -/
theorem fullEmpty_issues {store : Bool} (hd : (if store then src f.d else pure 0 : Ex Word) s = .ok (d, q)) (ha : src f.a q = .ok (a, u)) (hp : performed u)
    (hc : allowed u (a + BitVec.ofNat 64 (f.i.toNat * 8)) 8 8 2) (hs : spaceOf (a + BitVec.ofNat 64 (f.i.toNat * 8)).toNat = some (.camp o)) (hm : u.cur.mem = none)
    (hh : headed u = some v) (hr : raised v f.s.toNat = some w) :
    fullEmpty f store s = (if store then issue (feOp f store (a + BitVec.ofNat 64 (f.i.toNat * 8)) d)
      else issueTo f.d.toNat (feOp f store (a + BitVec.ofNat 64 (f.i.toNat * 8)) d)) (linesDropped w 5 0) := by
  unfold performed at hp
  change u.accessErr _ _ _ ((a + BitVec.ofNat 64 (f.i.toNat * 8)).toNat + 7) 8 2 = none at hc
  unfold fullEmpty
  refine (Ex.bind_ok_ite hd).trans ?_
  simp only [Ex.bind_ok ha, Ex.get_bind]
  rw [if_pos (by rw [hp]; rfl), hc, hs]
  simp only [Ex.bind_ok (ropeGate_passes (s := u) (own := false) (fun h => by rw [hm] at h; cases h)), Ex.bind_ok (headGate_of_headed hh), Ex.bind_ok (setSlot_raised hr),
    Ex.bind_ok (dropLines_run ..)]
  rfl

/-- In the own scratchpad no access with 8-byte alignment straddles or is misaligned, so a full/empty access comes to its right (R77, R234). -/
theorem fullEmpty_own (ha : src f.a s = .ok (a, u)) (hp : performed u) (h1 : 0x0080000000000000 ≤ (a + BitVec.ofNat 64 (f.i.toNat * 8)).toNat)
    (h2 : (a + BitVec.ofNat 64 (f.i.toNat * 8)).toNat < 0x0080000000000000 + 0x100000) (h3 : (a + BitVec.ofNat 64 (f.i.toNat * 8)).toNat % 8 = 0) :
    fullEmpty f false s = .error (.trap 0x17 (a + BitVec.ofNat 64 (f.i.toNat * 8))) := by
  unfold performed at hp
  unfold fullEmpty
  refine (Ex.bind_ok_ite (a := 0) (t := s) rfl).trans ?_
  simp only [Ex.bind_ok ha, Ex.get_bind]
  obtain ⟨o, ho⟩ : ∃ o, (a + BitVec.ofNat 64 (f.i.toNat * 8)).toNat = 0x0080000000000000 + o := ⟨_, (Nat.add_sub_of_le h1).symm⟩
  have herr := accessErr_own (s := u) (c := u.latch.core) (t := u.pre) (n := 8) (kind := 2) (o := o) (by decide) (by omega) (by omega)
  change u.accessErr _ _ _ (0x0080000000000000 + o + 7) 8 2 = _ at herr
  rw [if_pos (by rw [hp]; rfl), ho, herr, spaceOf_own (by omega)]
  repeat' split
  all_goals rfl

end

theorem fullEmptyResult : FullEmptyResult := by
  refine ⟨fun f s u v w t a r o hg ha hp hc hs hm hh hr hres => ?_, fun f s q u v w d a o hg hd ha hp hc hs hm hh hr => ?_, fun f s u a hg ha hp h2 h1 h3 => ?_⟩
  · have hissue := fullEmpty_issues (store := false) (d := 0) (q := s) rfl ha hp hc hs hm hh hr
    rw [linesDropped_device] at hissue hres
    rw [if_neg Bool.false_ne_true, issueTo_run (s := w.modCore w.latch.core fun k => { k with l1d := [] }) hres, feOp,
      show (0 : Word).setWidth 4096 = 0 from BitVec.setWidth_zero ..] at hissue
    exact runC_goes hg hissue
  · have hissue := fullEmpty_issues (store := true) hd ha hp hc hs hm hh hr
    rw [linesDropped_device] at hissue ⊢
    rw [if_pos rfl, issue_run _ .fe] at hissue
    exact runC_goes hg hissue
  · exact runC_goes_trap hg (fullEmpty_own ha hp h1 h2 h3)

/-- Settles O21: the cores may change at a fence or a hint, the threads and memory never. -/
theorem fencesAndHints : Obligations.FencesAndHints := ⟨fenceResult, prefetchTouchResult, fullEmptyResult⟩

end Sys2Proof.Machine

/-! # Messages and ownership tokens (R99, R104, R269, R270, R384). -/

namespace Sys2Proof.Machine

open Sys2Proof.Claims

section
variable {s t u w : State} {v : Word} {r : Nat}

/-! ### send (R269) -/

/-- Once its operands are read, `send` looks at the device of its target, at the thread's task and at its earlier accesses. -/
theorem send_runs (f : Rrr) (q : BitVec 3) : ∃ body, (∀ s, exec (.send f q) s = runC 0 body s) ∧ ∀ (s p u : State) (a v : Word), src f.a s = .ok (a, p) → src f.b p = .ok (v, u) →
    let dev := a.toNat / 2 ^ 17 % 2 ^ 15
    (dev ≠ u.dev.devno → u.cur.xdev = false → body s = .error (.trap 0x17 a)) ∧
    (dev = u.dev.devno ∨ u.cur.xdev = true → u.cur.mem.isSome = true → body s = .error (.trap 0x19 a)) ∧
    (dev = u.dev.devno ∨ u.cur.xdev = true ∧ remoteSends u 10 = false → u.cur.mem = none → performed u → ∀ w, headed u = some w →
      body s = issueTo f.d.toNat (fun o => { o with kind := .send, addr := BitVec.ofNat 64 (bits a.toNat 0 32), n := q.toNat, data := v.setWidth 4096, tgt := dev }) w) := by
  refine ⟨_, fun _ => rfl, fun s p u a v ha hv => ?_⟩
  rw [Ex.bind_ok ha, Ex.bind_ok hv]
  simp only [Ex.get_bind, performed]
  refine ⟨fun hfar hx => ?_, fun hmay hm => ?_, fun hmay hm hp w hw => ?_⟩
  · rw [if_pos ⟨hfar, by rw [hx]; exact Bool.false_ne_true⟩]; rfl
  · rw [if_neg (by rintro ⟨hfar, hx⟩; rcases hmay with h | h; exacts [hfar h, hx h]), Ex.bind_error]
    simp only [ropeGate, Ex.get_bind, hm]; rfl
  · rw [if_neg (by rintro ⟨hfar, hx⟩; rcases hmay with h | h; exacts [hfar h, hx h.1]), Ex.bind_ok (ropeGate_passes (s := u) fun h => by rw [hm] at h; cases h),
      if_neg, Ex.bind_ok (headGate_of_headed hw)]
    · rfl
    · rcases hmay with h | h
      · rw [hp, show bits a.toNat 17 15 = u.dev.devno from h]; simp
      · rw [hp, h.2]; simp

end

theorem sendResult : SendResult := by
  intro f q s p u a v hg ha hv
  obtain ⟨body, hexec, hbody⟩ := send_runs f q
  obtain ⟨hfar, hmember, hissues⟩ := hbody s p u a v ha hv
  simp only [hexec]
  refine ⟨fun w t r hmay hm hp hw hr => runC_goes hg ((hissues hmay hm hp w hw).trans ((issueTo_run hr).trans ?_)), fun hd hx => runC_goes_trap hg (hfar hd hx),
    fun hd hm => runC_goes_trap hg (hmember hd hm)⟩
  rw [show bits a.toNat 0 32 = a.toNat % 2 ^ 32 by simp [bits]]
  rfl

/-! ### acqr and relr (R104, R270, R384) -/

section
variable {s t u w : State} {v : Word} {r : Nat}

/-- What lets a thread name the region of an address: XDEV, its lease, no rope task, and its turn (R270). -/
structure MayHold (u : State) (v : Word) : Prop where
  xdev : u.cur.xdev = true
  global : v.toNat < 2 ^ 55
  leased : coveredBy (allLeases (u.lease u.curCtx.l)) (v.toNat / 0x200000 * 0x200000) 0x200000 0 = true
  alone : u.cur.mem = none
  turn : u.cur.timed = false ∨ u.cur.serial = true ∨ u.isHead u.cur = true

theorem tokenRegion_denied (h : u.cur.xdev = false) : tokenRegion v u = .error (.trap 0x17 v) := by
  simp only [tokenRegion, Ex.get_bind, h]; rfl

theorem tokenRegion_ok (h : MayHold u v) : tokenRegion v u = .ok (v.toNat / 0x200000, u) := by
  obtain ⟨hx, hglobal, hleased, halone, hturn⟩ := h
  have hopen : ¬ (2 ^ 55 ≤ v.toNat ∨ ¬ coveredBy (allLeases (u.lease u.curCtx.l)) (v.toNat / regionBytes * regionBytes) regionBytes 0 = true) :=
    not_or.mpr ⟨Nat.not_le.mpr hglobal, not_not.mpr hleased⟩
  have hturn : ¬ (u.cur.timed && !u.cur.serial && !u.isHead u.cur) = true := by rcases hturn with h | h | h <;> simp [h]
  simp only [tokenRegion, Ex.get_bind]
  rw [if_neg (show ¬ (!u.cur.xdev) = true by simp [hx]), if_neg hopen, Ex.bind_ok (ropeGate_passes (s := u) fun h => by rw [halone] at h; cases h), if_neg hturn]
  rfl

theorem MayHold.passing (h : MayHold u v) (p : Nat) : MayHold (u.passing p) v := ⟨h.xdev, h.global, h.leased, h.alone, h.turn⟩

/-- The bytes of a region. -/
def inRegion (r b n : Nat) : Bool := overlap (r * regionBytes) regionBytes b n

theorem ownQuiet_quiet (hops : ∀ o ∈ u.opsOf u.latch.core u.latch.slot, inRegion r o.addr.toNat (max 1 o.n) = false)
    (hbuf : ∀ b ∈ u.cur.buf, inRegion r b.va.toNat b.bytes.length = false) : ownQuiet r u = .ok ((), u) := by
  unfold inRegion at hops hbuf
  exact (congrFun (if_neg (by simpa using hops)) u).trans (congrFun (if_neg (by simpa using hbuf)) u)

theorem ownQuiet_lands (hops : ∀ o ∈ u.opsOf u.latch.core u.latch.slot, inRegion r o.addr.toNat (max 1 o.n) = false)
    (hbuf : ∃ b ∈ u.cur.buf, inRegion r b.va.toNat b.bytes.length = true) (hw : u.serialWait u.latch.core u.latch.slot = none) :
    ownQuiet r u = .ok ((), u.serialise u.latch.core u.latch.slot) := by
  unfold inRegion at hops hbuf
  refine (congrFun (if_neg (by simpa using hops)) u).trans ((congrFun (if_pos (by simpa using hbuf)) u).trans ?_)
  simp only [becomeSerial, Ex.get_bind, hw]
  rfl

/-- Once its address is read and its region may be named, `acqr` looks at the directory and at the wait of its thread (R270). -/
theorem acqr_runs (a : BitVec 6) : ∃ body, (∀ s, exec (.acqr a) s = runC 0 body s) ∧ ∀ (s u : State) (v : Word), src a s = .ok (v, u) →
    (u.cur.xdev = false → body s = .error (.trap 0x17 v)) ∧
    (MayHold u v →
      (u.regionBusy v.toNat = true → body s = park 11 u) ∧
      (u.regionBusy v.toNat = false → u.held v.toNat = true → body s = .ok ((), calm u)) ∧
      (u.regionBusy v.toNat = false → u.held v.toNat = false → u.cur.wait = .none →
        (u.reach (u.holder v.toNat) = false → body s = .error (.trap 0x17 v)) ∧
        (u.reach (u.holder v.toNat) = true → (u.tokenOf v.toNat).isSome = true ∨ (u.tokenWay (v.toNat / 0x200000)).isSome = true →
          body s = (parkWith 11 fun s => (s.modCur fun t => { t with wait := .token (v.toNat / 0x200000) }).tokenPacket (s.holder v.toNat) 0 0 (v.toNat / 0x200000) 0
            (toBytes 8 s.curCtx.l)) u))) := by
  refine ⟨_, fun _ => rfl, fun s u v hv => ?_⟩
  rw [Ex.bind_ok hv]
  refine ⟨fun hx => Ex.bind_error (tokenRegion_denied hx), fun hm => ?_⟩
  rw [Ex.bind_ok (tokenRegion_ok hm)]
  simp only [Ex.get_bind]
  refine ⟨fun hb => by rw [if_pos hb], fun hb hh => ?_, fun hb hh hw => ⟨fun hr => ?_, fun hr ht => ?_⟩⟩
  · rw [if_neg (show ¬ u.regionBusy v.toNat = true by simp [hb]), if_pos hh]; rfl
  · rw [if_neg (show ¬ u.regionBusy v.toNat = true by simp [hb]), if_neg (show ¬ u.held v.toNat = true by simp [hh]), hw]
    dsimp only
    rw [if_pos (show (!u.reach (u.holder v.toNat)) = true by simp [hr])]; rfl
  · rw [if_neg (show ¬ u.regionBusy v.toNat = true by simp [hb]), if_neg (show ¬ u.held v.toNat = true by simp [hh]), hw]
    dsimp only
    rw [if_neg (show ¬ (!u.reach (u.holder v.toNat)) = true by simp [hr]), if_neg (by rcases ht with h | h <;> simp [Option.isSome_iff_ne_none.mp h])]

/-- Once its address is read and its region may be named, `relr` gives the token back after the thread's own accesses (R270). -/
theorem relr_runs (a : BitVec 6) : ∃ body, (∀ s, exec (.relr a) s = runC 0 body s) ∧ ∀ (s u : State) (v : Word), src a s = .ok (v, u) →
    (u.cur.xdev = false → body s = .error (.trap 0x17 v)) ∧
    (MayHold u v → ∀ t, ownQuiet (v.toNat / 0x200000) u = .ok ((), t) → body s = .ok ((), t.returnToken (v.toNat / 0x200000))) := by
  refine ⟨_, fun _ => rfl, fun s u v hv => ?_⟩
  rw [Ex.bind_ok hv]
  refine ⟨fun hx => Ex.bind_error (tokenRegion_denied hx), fun hm t hq => ?_⟩
  rw [Ex.bind_ok (tokenRegion_ok hm), Ex.bind_ok hq]
  rfl

end

theorem tokenResult : TokenResult := by
  intro a s u v hg ha
  obtain ⟨acqr, hacqr, hacqrRuns⟩ := acqr_runs a
  obtain ⟨relr, hrelr, hrelrRuns⟩ := relr_runs a
  obtain ⟨hdeniedA, hacqrHold⟩ := hacqrRuns s u v ha
  obtain ⟨hdeniedR, hrelrHold⟩ := hrelrRuns s u v ha
  simp only [hacqr, hrelr]
  refine ⟨fun hx => ⟨runC_goes_trap hg (hdeniedA hx), runC_goes_trap hg (hdeniedR hx)⟩, fun hx hglobal hleased halone hturn => ?_⟩
  have hmay : MayHold u v := ⟨hx, hglobal, hleased, halone, hturn⟩
  obtain ⟨hbusy, hheld, hasks⟩ := hacqrHold hmay
  refine ⟨fun hops => ⟨fun hbuf => runC_goes hg (hrelrHold hmay _ (ownQuiet_quiet hops hbuf)), fun hbuf hw => runC_goes hg (hrelrHold hmay _ (ownQuiet_lands hops hbuf hw))⟩,
    fun hb hk => ?_, fun hb => ⟨fun hh => runC_goes hg (hheld hb hh), fun hh hw hr ht hk => ?_, fun hh hw hr => runC_goes_trap hg ((hasks hb hh hw).1 hr)⟩⟩
  all_goals
    obtain ⟨hlatch, hpass⟩ := src_passing hk ha 11
    have hskip : u.latch.skip = 0 := by rw [hlatch, hk]
    obtain ⟨hbusyP, -, hasksP⟩ := (hacqrRuns _ _ v hpass).2 (hmay.passing 11)
  · exact runC_goes_park hg ((hbusy hb).trans (park_run (.inl hskip))) (noneBefore_of_ok hg ((hbusyP hb).trans (park_passed (by simp [State.passing]) le_rfl)))
  · exact runC_goes_wait hg (((hasks hb hh hw).2 hr ht).trans (parkWith_run _ (.inl hskip)))
      (noneBefore_of_ok hg (((hasksP hb hh hw).2 hr ht).trans (parkWith_passed _ (by simp [State.passing]) le_rfl)))

/-- Settles O31: what a thread waits for at `acqr` it asks for once; `relr` acts after the thread's own accesses. -/
theorem messagesAndTokens : Obligations.MessagesAndTokens := ⟨sendResult, tokenResult⟩

end Sys2Proof.Machine

/-! # Copies and transfers (R101, R302, R304, R321 to R327, R342). -/

namespace Sys2Proof.Machine

open Sys2Proof.Claims

section
variable {s t u : State} {va : Word} {n align eng : Nat} {q : Tail}

/-! ### What every engine command does at its issue (R302, R342) -/

theorem ownCheck_passes (h : ownBytes s va n align) : ownCheck va n align s = .ok ((), s) := by
  obtain ⟨hown, herr⟩ := h
  simp only [ownCheck, Ex.get_bind]
  rcases herr with herr | herr <;> rw [herr] <;> simp only [hown] <;> rfl

theorem descBytes_ok (h : ownBytes s va 32 32) (q : Tail) : descBytes va q s = .ok (descriptor s va q, s) := by
  simp only [descBytes, Ex.bind_ok (ownCheck_passes h)]
  rfl

theorem subGate_passes {rs : List (Nat × Nat)} (h : outsideLines s rs) (base : Word) : subGate base rs s = .ok ((), s) := by
  have hnone : (rs.find? fun r => r.2 != 0 && s.subHit s.latch.core r.1 r.2) = none :=
    List.find?_eq_none.mpr fun r hr => by by_cases h0 : r.2 = 0 <;> simp [h0, h r hr]
  simp only [subGate, Ex.get_bind, hnone]
  rfl

theorem outsideGate_passes (h : mayWriteOut s) (va : Word) : outsideGate va s = .ok ((), s) := by
  obtain ⟨hturn, halone⟩ := h
  simp only [outsideGate, Ex.get_bind]
  rw [if_neg (by rintro ⟨ht, hs, hh⟩; exact (hturn ht).elim hs hh), if_neg (by simp [halone])]
  rfl

/-- One step of the generator, as a command's seed takes it (R149, R302). -/
theorem drawMany_one (s : State) : ∃ l, drawMany 1 s = .ok (l, (stepped s).2) := ⟨_, rfl⟩

theorem stepped_x (s : State) : (stepped s).2.cur.x = s.cur.x := by
  simp only [stepped, State.modCur_cur]
  rfl

/-- A command that finds room issues (R302, R341, R342). -/
theorem issueCmd_issues {ins : Instr} {ws : List Want} {f : Cmd → Cmd} (h : mayIssue s eng ws.length) : issueCmd eng ins q ws f s = .ok ((), commanded s eng ins q ws f) := by
  obtain ⟨hlocks, hport⟩ := h
  simp only [issueCmd, Ex.get_bind, commanded]
  rw [if_neg (by rw [hport, not_or]; exact ⟨Nat.not_lt.mpr hlocks, not_not.mpr rfl⟩)]
  by_cases hsr : fpcRM s.pre.fpc = 5
  · obtain ⟨l, hl⟩ := drawMany_one s
    rw [if_pos hsr, if_pos hsr]
    rw [← stepped_x, Ex.bind_ok hl]
    rfl
  · rw [if_neg hsr, if_neg hsr]
    rfl

end

/-! ### Copies (R321 to R325) -/

/-- What a copy does once its checks have passed: it pushes a promise, issues, and remembers the promise or marks the pages touched. -/
def copyIssue (kind : Nat) (e : BitVec 1) (g : BitVec 3) (q : Tail) (ins : Instr) (d : CopyDesc) (n : Nat) (u : State) : Ex Unit := do
  let p := u.promise u.latch.core (if e = 1#1 then u.loopReg u.latch.core u.cur.x 2 g.toNat else 1) n d.dst d.src
  if kind = 1 then push (BitVec.ofNat 64 p) else pure ()
  let id := (← get).nextOp
  issueCmd 3 ins q (copyWants u.latch.core d.dst d.src d.ds d.ss n 1 ++ if kind = 2 then wantOf true [(d.hback, 32)] else []) fun m =>
    { m with a := BitVec.ofNat 64 d.dst, b := BitVec.ofNat 64 d.src, args := [n, 1, 0, 0, d.acc, d.hback, e.toNat, g.toNat, d.ds, d.ss, b2n (kind == 2)] }
  if kind = 1 then modCur fun t => { t with promises := t.promises ++ [(p, id)] } else pure ()
  if kind = 2 then modify fun s => s.markTouched (s.ctx u.latch.core u.cur.x).l else pure ()

/-- The checks that every copy makes of its descriptor and of both ends (R302, R321, R322). -/
structure CopyFits (u : State) (d : CopyDesc) (n : Nat) : Prop where
  code : d.acc ≤ 11
  camp : d.acc ≠ 0 → ∃ o, spaceOf d.dst = some (.camp o)
  ends : u.copyErr u.latch.core u.pre d.dst d.src n (if d.acc = 0 then 1 else 2) d.ds d.ss = none
  out : isOwn u.latch.core d.dst = false → mayWriteOut u

/-- The checks of the hand-back that a faultable copy makes besides; the others name none (R321, R325). -/
def HandBackFits (kind : Nat) (e : BitVec 1) (u : State) (d : CopyDesc) : Prop :=
  if kind = 2 then e ≠ 1#1 ∧ d.acc = 0 ∧ d.hback % 32 = 0 ∧ u.rowsErr u.latch.core u.cur.x [(d.hback, 32)] = none ∧ outsideLines u [(d.hback, 32)] else d.hback = 0

/-- A check that is made in one case only, and passes there, joins what comes after it. -/
theorem Ex.gate_joins {β : Type} {c : Prop} [Decidable c] {x y : Ex β} {s : State} (h : c → x s = y s) : (if c then x else y) s = y s := by
  split
  · next hc => exact h hc
  · rfl

theorem issueCopy_checked {kind : Nat} {x y : BitVec 6} {e : BitVec 1} {g : BitVec 3} {q : Tail} {ins : Instr} {s p u : State} {dv lv : Word}
    (hx : src x s = .ok (dv, p)) (hy : src y p = .ok (lv, u)) (hn : lv.toNat ≤ 0x1000000) (hown : ownBytes u dv 32 32)
    (hd : CopyFits u (copyDesc (descriptor u dv q)) lv.toNat) (hb : HandBackFits kind e u (copyDesc (descriptor u dv q))) :
    issueCopy kind x y e g q ins s = copyIssue kind e g q ins (copyDesc (descriptor u dv q)) lv.toNat u u := by
  obtain ⟨hcode, hcamp, hends, hout⟩ := hd
  refine (Ex.bind_ok hx).trans ((Ex.bind_ok hy).trans ((congrFun (if_neg (Nat.not_lt.mpr hn)) u).trans ((Ex.bind_ok (descBytes_ok hown q)).trans ((Ex.get_bind ..).trans ?_))))
  generalize copyDesc (descriptor u dv q) = d at *
  have hfields : ¬ (11 < d.acc ∨ (kind ≠ 2 ∧ d.hback ≠ 0) ∨ (kind = 2 ∧ (e = 1#1 ∨ d.acc ≠ 0 ∨ d.hback % 32 ≠ 0))) := by
    unfold HandBackFits at hb
    split at hb
    · next hk => obtain ⟨he, hacc, halign, -, -⟩ := hb; simp [hk, he, hacc, halign]
    · next hk => simp [hk, hb, Nat.not_lt.mpr hcode]
  refine (congrFun (if_neg hfields) u).trans ((congrFun (if_neg ?_) u).trans ?_)
  · rintro ⟨hacc, hn⟩
    obtain ⟨o, ho⟩ := hcamp hacc
    rw [ho] at hn
    exact hn rfl
  rw [hends]
  refine (Ex.gate_joins (c := kind = 2) fun hk => ?_).trans ?_
  · rw [HandBackFits, if_pos hk] at hb
    obtain ⟨-, -, -, hrows, hlines⟩ := hb
    rw [hrows]
    exact Ex.bind_ok (subGate_passes hlines _)
  · exact Ex.gate_joins fun ho => Ex.bind_ok (outsideGate_passes (hout (by simpa using ho)) _)

/-- What a copy command carries (R302, R322). -/
def copyFill (e : BitVec 1) (g : BitVec 3) (d : CopyDesc) (n k : Nat) (m : Cmd) : Cmd :=
  { m with a := BitVec.ofNat 64 d.dst, b := BitVec.ofNat 64 d.src, args := [n, 1, 0, 0, d.acc, d.hback, e.toNat, g.toNat, d.ds, d.ss, k] }

section
variable {e : BitVec 1} {g : BitVec 3} {q : Tail} {ins : Instr} {d : CopyDesc} {n : Nat} {u v : State}

theorem copyIssue_plain (h : mayIssue u 3 (copyWants u.latch.core d.dst d.src d.ds d.ss n 1).length) :
    copyIssue 0 e g q ins d n u u = .ok ((), commanded u 3 ins q (copyWants u.latch.core d.dst d.src d.ds d.ss n 1) (copyFill e g d n 0)) := by
  simp only [copyIssue, Nat.zero_ne_one, OfNat.zero_ne_ofNat, if_false, List.append_nil, Ex.get_bind, Ex.bind_ok (issueCmd_issues h)]
  rfl

theorem copyIssue_promised {w : Nat} (hw : w = u.promise u.latch.core (if e = 1#1 then u.loopReg u.latch.core u.cur.x 2 g.toNat else 1) n d.dst d.src)
    (hp : push (BitVec.ofNat 64 w) u = .ok ((), v)) (h : mayIssue v 3 (copyWants u.latch.core d.dst d.src d.ds d.ss n 1).length) :
    copyIssue 1 e g q ins d n u u = .ok ((), (commanded v 3 ins q (copyWants u.latch.core d.dst d.src d.ds d.ss n 1) (copyFill e g d n 0)).modCur fun r =>
      { r with promises := r.promises ++ [(w, v.nextOp)] }) := by
  subst hw
  simp only [copyIssue, OfNat.one_ne_ofNat, if_true, if_false, List.append_nil, Ex.bind_ok hp, Ex.get_bind, Ex.bind_ok (issueCmd_issues h)]
  rfl

theorem copyIssue_faultable (h : mayIssue u 3 (copyWants u.latch.core d.dst d.src d.ds d.ss n 1 ++ wantOf true [(d.hback, 32)]).length) :
    copyIssue 2 e g q ins d n u u = .ok ((), let t := commanded u 3 ins q (copyWants u.latch.core d.dst d.src d.ds d.ss n 1 ++ wantOf true [(d.hback, 32)]) (copyFill e g d n 1)
      t.markTouched (t.ctx u.latch.core u.cur.x).l) := by
  simp only [copyIssue, OfNat.ofNat_ne_one, if_true, if_false, Ex.get_bind, Ex.bind_ok (issueCmd_issues h)]
  rfl

end

theorem copyCommands : CopyCommands := by
  intro x y e g q s p u dv lv hg hx hy hn hown c n d want fill hacc out hcode hends hout hcamp
  have hd : CopyFits u d n := ⟨hcode, hcamp, hends, hout⟩
  refine ⟨fun hback => ⟨fun hroom => ?_, fun v => ?_⟩, fun he hacc0 halign hrows hlines => ?_⟩
  · exact runC_goes hg ((issueCopy_checked (kind := 0) hx hy hn hown hd (by rw [HandBackFits, if_neg (by decide)]; exact hback)).trans (copyIssue_plain hroom))
  · intro w hpush hroom
    exact runC_goes hg ((issueCopy_checked (kind := 1) hx hy hn hown hd (by rw [HandBackFits, if_neg (by decide)]; exact hback)).trans (copyIssue_promised rfl hpush hroom))
  · intro ws hroom
    have hb : HandBackFits 2 e u d := by rw [HandBackFits, if_pos rfl, he]; exact ⟨by decide, hacc0, halign, hrows, hlines⟩
    exact runC_goes hg ((issueCopy_checked (kind := 2) hx hy hn hown hd hb).trans (copyIssue_faultable hroom))

/-! ### Remote transfers (R326, R327) -/

section
variable {isPut : Bool} {x y : BitVec 6} {q : Tail} {ins : Instr} {s p u : State} {dv lv : Word}

theorem issueTransfer_denied (hx : src x s = .ok (dv, p)) (hy : src y p = .ok (lv, u)) (h : u.cur.xdev = false) :
    issueTransfer isPut x y q ins s = .error (.trap 0x17 dv) := by
  refine (Ex.bind_ok hx).trans ((Ex.bind_ok hy).trans ((Ex.get_bind ..).trans ((congrFun (if_pos ?_) u).trans rfl)))
  rw [h]; rfl

theorem issueTransfer_long (hx : src x s = .ok (dv, p)) (hy : src y p = .ok (lv, u)) (h : u.cur.xdev = true) (hn : 0x100000 < lv.toNat) :
    issueTransfer isPut x y q ins s = .error (.trap 0x12 lv) := by
  refine (Ex.bind_ok hx).trans ((Ex.bind_ok hy).trans ((Ex.get_bind ..).trans ((congrFun (if_neg ?_) u).trans ((congrFun (if_pos hn) u).trans rfl))))
  rw [h]; exact Bool.false_ne_true

/-- A field of a transfer's descriptor (R326). -/
def transferField (u : State) (dv : Word) (q : Tail) (i n : Nat) : Nat := ofBytes (slice (descriptor u dv q) i n)

/-- The local address of a transfer, its place in the own scratchpad, and that of its status (R326). -/
def transferLoc (u : State) (dv : Word) (q : Tail) : Word := BitVec.ofNat 64 (transferField u dv q 0 8)

/-- The range locks that a transfer takes (R306). -/
def transferWants (isPut : Bool) (o n st : Nat) : List Want := wantOf (!isPut) [(o, n)] ++ wantOf true [(st, 8)]

theorem issueTransfer_issues (hx : src x s = .ok (dv, p)) (hy : src y p = .ok (lv, u)) (h : u.cur.xdev = true) (hn : lv.toNat ≤ 0x100000) (hown : ownBytes u dv 32 32)
    (hzero : transferField u dv q 18 6 = 0) (hdev : transferField u dv q 16 2 < 2 ^ 15) (hother : transferField u dv q 16 2 ≠ u.dev.devno)
    (hloc : ownBytes u (transferLoc u dv q) (max lv.toNat 1) 1)
    (hlines : outsideLines u ((if isPut then [] else [(ownOff (transferLoc u dv q).toNat, lv.toNat)]) ++ [(ownOff dv.toNat + 24, 8)])) (hout : isPut = true → mayWriteOut u)
    (hroom : mayIssue u 4 (transferWants isPut (ownOff (transferLoc u dv q).toNat) lv.toNat (ownOff dv.toNat + 24)).length) :
    issueTransfer isPut x y q ins s = .ok ((), commanded u 4 ins q (transferWants isPut (ownOff (transferLoc u dv q).toNat) lv.toNat (ownOff dv.toNat + 24)) fun m =>
      { m with a := transferLoc u dv q, b := BitVec.ofNat 64 (transferField u dv q 8 8),
               args := [lv.toNat, transferField u dv q 16 2, ownOff (transferLoc u dv q).toNat, ownOff dv.toNat + 24, 0, 0, 0, 0] }) := by
  have hfields : ¬ (transferField u dv q 18 6 ≠ 0 ∨ 2 ^ 15 ≤ transferField u dv q 16 2 ∨ transferField u dv q 16 2 = u.dev.devno) := by
    rw [not_or, not_or]; exact ⟨not_not.mpr hzero, Nat.not_le.mpr hdev, hother⟩
  refine (Ex.bind_ok hx).trans ((Ex.bind_ok hy).trans ((Ex.get_bind ..).trans ((congrFun (if_neg (by rw [h]; exact Bool.false_ne_true)) u).trans
    ((congrFun (if_neg (Nat.not_lt.mpr hn)) u).trans ((Ex.bind_ok (descBytes_ok hown q)).trans ((congrFun (if_neg hfields) u).trans
      ((Ex.bind_ok (ownCheck_passes hloc)).trans ((Ex.bind_ok (subGate_passes hlines _)).trans ?_))))))))
  exact (Ex.gate_joins fun hp => Ex.bind_ok (outsideGate_passes (hout hp) _)).trans (issueCmd_issues hroom)

end

theorem transferCommands : TransferCommands := by
  intro x y q s p u dv lv hg hx hy b w loc far o st fill
  refine ⟨fun h => ⟨runC_goes_trap hg (issueTransfer_denied hx hy h), runC_goes_trap hg (issueTransfer_denied hx hy h)⟩,
    fun h hn => ⟨runC_goes_trap hg (issueTransfer_long hx hy h hn), runC_goes_trap hg (issueTransfer_long hx hy h hn)⟩,
    fun h hn hown hzero hdev hother hloc => ⟨?_, ?_⟩⟩
  · intro ws hlines hout hroom
    exact runC_goes hg (issueTransfer_issues (isPut := true) hx hy h hn hown hzero hdev hother hloc hlines (fun _ => hout) hroom)
  · intro ws hlines hroom
    exact runC_goes hg (issueTransfer_issues (isPut := false) hx hy h hn hown hzero hdev hother hloc hlines (fun h => by cases h) hroom)

/-- Settles O34: every check passed, a copy or a transfer issues as a command of its engine. -/
theorem copiesAndTransfers : Obligations.CopiesAndTransfers := ⟨copyCommands, transferCommands⟩

end Sys2Proof.Machine

/-! # Walks, shoot-downs, page moves and scrubbing (R97 to R103, R378 to R380, R413 to R417). -/

namespace Sys2Proof.Machine

open Sys2Proof.Claims

/-- A list with fewer than `n` numbers leaves one below `n` free. -/
theorem exists_lt_notMem {n : Nat} {l : List Nat} (h : l.length < n) : ∃ i < n, i ∉ l := by
  by_contra! hall
  have hsub := (List.nodup_range (n := n)).subperm fun i hi => hall i (List.mem_range.mp hi)
  have := hsub.length_le
  rw [List.length_range] at this
  omega

/-! ### A walk's entry (R97, R378 to R380) -/

section
variable {s : State} {k : Nat} {e : Tlb} {w : Walk} {z pa pr l va : Nat}

/-- The way that a fill takes while its set has room. -/
theorem wayFor_free {used : List Nat} {n : Nat} (h : used.length < n) : ∃ w, s.wayFor used n = (w, s) ∧ w ∉ used := by
  obtain ⟨i, hi, hfree⟩ := exists_lt_notMem h
  cases hf : (List.range n).find? fun w => !used.contains w with
  | none => exact absurd (List.find?_eq_none.mp hf i (List.mem_range.mpr hi)) (by simp [hfree])
  | some w => exact ⟨w, by simp only [State.wayFor, hf], by simpa using List.find?_some hf⟩

/-- The entries that a fill leaves: none that overlaps the new entry's page. -/
def keptTlb (q : Cluster) (e : Tlb) : List Tlb := q.tlb.filter fun x => !(x.l == e.l && overlap (x.vpn * 65536) (pageBytes x.size) (e.vpn * 65536) (pageBytes e.size))

/-- A fill of a TLB with room puts the entry in front and drops only what overlaps it (R97, R380). -/
theorem tlbFill_room (h : (s.cluster k).tlb.length < 8) :
    ∃ w, s.tlbFill k e = s.modCluster k fun q => { q with tlb := { e with way := w } :: keptTlb (s.cluster k) e } := by
  have hlen : (((keptTlb (s.cluster k) e).filter fun x => tlbSet x == tlbSet e).map (·.way)).length < 8 := by
    rw [List.length_map]
    exact ((List.length_filter_le _ _).trans (List.length_filter_le _ _)).trans_lt h
  obtain ⟨w, hw, hfree⟩ := wayFor_free (s := s) hlen
  have hall : (keptTlb (s.cluster k) e).filter (fun x => !(tlbSet x == tlbSet e && x.way == w)) = keptTlb (s.cluster k) e := by
    refine List.filter_eq_self.mpr fun x hx => ?_
    by_cases hset : tlbSet x = tlbSet e
    · have hway : x.way ≠ w := fun he => hfree (List.mem_map.mpr ⟨x, List.mem_filter.mpr ⟨hx, by simp [hset]⟩, he⟩)
      simp [hway]
    · simp [hset]
  refine ⟨w, ?_⟩
  simp only [State.tlbFill]
  change (match s.wayFor (((keptTlb (s.cluster k) e).filter fun x => tlbSet x == tlbSet e).map (·.way)) 8 with
    | (w, s') => s'.modCluster k fun q => { q with tlb := { e with way := w } :: (keptTlb (s.cluster k) e).filter fun x => !(tlbSet x == tlbSet e && x.way == w) }) = _
  rw [hw]
  dsimp only
  rw [hall]

theorem fillSize_le (e : Lease) (va z : Nat) : fillSize e va z ≤ z := by
  unfold fillSize
  dsimp only
  split
  · next h => omega
  · split
    · next h => exact h.1
    · exact Nat.zero_le z

/-- A page no larger than another divides it. -/
theorem pageBytes_dvd {y z : Nat} (h : y ≤ z) : pageBytes y ∣ pageBytes z := by
  obtain ⟨d, rfl⟩ := Nat.exists_eq_add_of_le h
  unfold pageBytes
  by_cases hy0 : y = 0
  · rw [if_pos hy0]; repeat' split
    all_goals decide
  by_cases hy1 : y = 1
  · rw [if_neg hy0, if_pos hy1, if_neg (by omega)]; split <;> decide
  rw [if_neg hy0, if_neg hy1, if_neg (by omega), if_neg (by omega)]

/-- The entry that a walk gives maps the address where the mapping does, with its rights and the leases' (R97, R378 to R380). -/
theorem tlbEntry_walk (hw : s.walk l va = some (z, pa, pr)) (hpa : pa % 65536 = 0) : ∃ e, s.tlbEntry l va = some e ∧ e.l = l ∧ e.size ≤ z ∧ e.pr = pr ∧
    e.vpn * 65536 = va / pageBytes e.size * pageBytes e.size ∧ e.pa va = pa + va % pageBytes z ∧
    e.lr = leaseRights (s.lease l) (va / pageBytes e.size * pageBytes e.size) (pageBytes e.size) := by
  have hle := fillSize_le (s.lease l) va z
  refine ⟨_, by rw [State.tlbEntry, hw]; rfl, rfl, hle, rfl, ?_, ?_, rfl⟩
  all_goals
    dsimp only [Tlb.pa]
    generalize fillSize (s.lease l) va z = y at *
    obtain ⟨a, ha⟩ := pageBytes_dvd (Nat.zero_le y)
    obtain ⟨b, hb⟩ := pageBytes_dvd hle
    have h0 : pageBytes 0 = 65536 := rfl
    rw [h0] at ha
  · rw [Nat.div_mul_cancel ⟨va / pageBytes y * a, by rw [ha]; ring⟩]
  · have hbase : va / pageBytes z * pageBytes z = va / pageBytes y / b * b * pageBytes y := by rw [hb, Nat.div_div_eq_div_mul]; ring
    have hdvd : 65536 ∣ pa + (va / pageBytes y * pageBytes y - va / pageBytes z * pageBytes z) := by
      refine (Nat.dvd_of_mod_eq_zero hpa).add (Nat.dvd_sub ⟨va / pageBytes y * a, by rw [ha]; ring⟩ ⟨va / pageBytes z * b * a, by rw [hb, ha]; ring⟩)
    rw [Nat.div_mul_cancel hdvd]
    have h1 := Nat.div_add_mod' va (pageBytes y)
    have h2 := Nat.div_add_mod' va (pageBytes z)
    have h3 : va / pageBytes z * pageBytes z ≤ va / pageBytes y * pageBytes y := by rw [hbase]; exact Nat.mul_le_mul_right _ (Nat.div_mul_le_self _ _)
    omega

/-! ### A walk that ends (R97, R99, R413) -/

/-- The walks of the cluster are replaced. -/
def State.walksPut (s : State) (k : Nat) (l : List Walk) : State := s.modCluster k fun q => { q with walks := l }

/-- What becomes of a walk that is due. -/
theorem exec_tlbWalkComplete (h : walking s k w) : exec .tlbWalkComplete s =
    if w.seq ≠ (s.cluster k).inval then .next (s.walksPut k ((s.cluster k).walks.map fun x => if x.id = w.id then { x with seq := (s.cluster k).inval } else x))
    else if !s.held w.va then .next (s.walksPut k ((s.cluster k).walks.filter fun x => x.id != w.id))
    else match s.tlbEntry w.l w.va with
      | some e => .next ((s.walksPut k ((s.cluster k).walks.filter fun x => x.id != w.id)).tlbFill k e)
      | none => if w.told then .next s
        else .next ((s.walksPut k ((s.cluster k).walks.map fun x => if x.id = w.id then { x with told := true } else x)).contextFault (coreOf k 0) w.l 0x40 w.va) := by
  unfold walking at h
  change execTlbWalkComplete s = _
  simp only [execTlbWalkComplete, h]
  rfl

end

/-! ### A record of a cause of a context (R413) -/

theorem memGet_memPut_same (a : Nat) {b : Byte} (hb : b ≠ emptyByte) (m : List Host.Cell) : memGet a (memPut a b m) = b := by
  induction m with
  | nil => simp [memPut, hb, memGet]
  | cons p m ih =>
    obtain ⟨k, w⟩ := p
    by_cases hk : k = a
    · simp [memPut, hk, hb, memGet]
    · by_cases hlt : a < k
      · simp [memPut, hk, hlt, hb, memGet]
      · simp [memPut, hk, hlt, memGet, ih]

/-- A byte that is not empty stands when one above it is written, whatever the memory's form. -/
theorem memGet_memPut_above {a c : Nat} (hac : a < c) (b : Byte) {m : List Host.Cell} (h : memGet a m ≠ emptyByte) : memGet a (memPut c b m) = memGet a m := by
  induction m with
  | nil => exact absurd rfl h
  | cons p m ih =>
    obtain ⟨k, w⟩ := p
    have hstop : ¬ a < k := fun hlt => h (by rw [memGet, if_neg (by omega), if_pos hlt])
    rw [memPut, if_neg (by omega), if_neg (by omega)]
    rw [memGet] at h ⊢
    rw [memGet]
    by_cases hk : k = a
    · rw [if_pos hk, if_pos hk]
    · rw [if_neg hk, if_neg hstop] at h
      rw [if_neg hk, if_neg hstop, if_neg hk, if_neg hstop, ih h]

theorem memGet_memPuts_above {a : Nat} (bs : List Byte) {c : Nat} (hac : a < c) {m : List Host.Cell} (h : memGet a m ≠ emptyByte) : memGet a (memPuts c bs m) = memGet a m := by
  induction bs generalizing c m with
  | nil => rfl
  | cons b bs ih =>
    have hput := memGet_memPut_above hac b h
    rw [memPuts, ih (hac.trans c.lt_succ_self) (by rw [hput]; exact h), hput]

/-- Two bytes written that are not empty are read back. -/
theorem memGets_memPuts_two (a : Nat) {x y : Byte} (hx : x ≠ emptyByte) (hy : y ≠ emptyByte) (bs : List Byte) (m : List Host.Cell) :
    memGets (memPuts a (x :: y :: bs) m) a 2 = [x, y] := by
  have h1 : memGet a (memPut (a + 1) y (memPut a x m)) = x := by
    have hsame := memGet_memPut_same a hx m
    rw [memGet_memPut_above a.lt_succ_self y (by rw [hsame]; exact hx), hsame]
  have h2 := memGet_memPut_same (a + 1) hy (memPut a x m)
  have h1' := memGet_memPuts_above bs (c := a + 1 + 1) (a := a) (by omega) (by rw [h1]; exact hx)
  have h2' := memGet_memPuts_above bs (c := a + 1 + 1) (a := a + 1) (by omega) (by rw [h2]; exact hy)
  simp only [memPuts, memGets, h1', h2', h1, h2]

theorem wakeHalted_eq (s : State) (c : Nat) : ∃ ts, s.wakeHalted c = { s with threads := ts } := by
  unfold State.wakeHalted
  generalize s.threadsOf c = l
  induction l generalizing s with
  | nil => exact ⟨_, rfl⟩
  | cons p l ih =>
    obtain ⟨ts, h⟩ := ih (s.modThread c p.1 fun t => if t.wait = .halt then { t with wait := .done 0 } else t)
    exact ⟨ts, by rw [List.foldl_cons, h]; rfl⟩

theorem wakeRole_eq (s : State) (r : Nat) : ∃ ts, s.wakeRole r = { s with threads := ts } := by
  unfold State.wakeRole
  split
  · exact wakeHalted_eq ..
  · exact ⟨_, rfl⟩

/-- One record more in the ring of a lease, with its bytes (R413). -/
def State.recorded (s : State) (l : Nat) (bs : List Byte) : State :=
  (s.put ((s.lease l).saveBase + 64 * ((s.lease l).fcnt % 1024)) bs).modLease l fun e => { e with fcnt := e.fcnt + 1 }

/-- A cause of a context is recorded, with its code and class first; nothing but threads, and the scheduler's records besides leases, changes more (R413). -/
theorem contextFault_eq (s : State) (c l code tval : Nat) : ∃ (bs : List Byte) (ts : Table Thread) (q : Sched), toBytes 1 code ++ toBytes 1 3 <+: bs ∧
    s.contextFault c l code tval = { s.recorded l bs with threads := ts, sched := q } ∧ q.lease = (s.recorded l bs).sched.lease := by
  unfold State.contextFault
  dsimp only
  generalize hbs : _ ++ toBytes 14 0 = bs
  have hpre : toBytes 1 code ++ toBytes 1 3 <+: bs := by
    rw [← hbs]
    iterate 8 refine List.IsPrefix.trans ?_ (List.prefix_append _ _)
    exact List.prefix_rfl
  obtain ⟨q, hflog, hlease⟩ := flog_eq (s.recorded l bs) code 3 c l (BitVec.ofNat 64 tval)
  obtain ⟨ts, hwake⟩ := wakeRole_eq { s.recorded l bs with sched := q } 1
  refine ⟨bs, ts, q, hpre, ?_, hlease⟩
  rw [← hwake, ← hflog]
  rfl

theorem recorded_lease (s : State) (l : Nat) (bs : List Byte) : (s.recorded l bs).lease l = { s.lease l with fcnt := (s.lease l).fcnt + 1 } := by
  simp only [State.recorded, State.modLease_lease, if_true]
  rfl

theorem recorded_bytes (s : State) {l : Nat} {bs : List Byte} {x y : Byte} (h : [x, y] <+: bs) (hx : x ≠ emptyByte) (hy : y ≠ emptyByte) :
    (s.recorded l bs).bytes ((s.lease l).saveBase + 64 * ((s.lease l).fcnt % 1024)) 2 = [x, y] := by
  obtain ⟨r, rfl⟩ := h
  exact memGets_memPuts_two _ hx hy r s.mem

/-- A walk that finds no page leaves the cluster's entries, and records WALK_FAULT (R408, R413). -/
theorem walkFault_spec (s : State) (k c l va : Nat) (ws : List Walk) :
    let t := (s.walksPut k ws).contextFault c l 0x40 va
    (t.cluster k).tlb = (s.cluster k).tlb ∧ (t.cluster k).walks = ws ∧ (t.lease l).fcnt = (s.lease l).fcnt + 1 ∧
      t.bytes ((s.lease l).saveBase + 64 * ((s.lease l).fcnt % 1024)) 2 = [0x40, 3] := by
  obtain ⟨bs, ts, q, hpre, heq, hlease⟩ := contextFault_eq (s.walksPut k ws) c l 0x40 va
  have hcluster : (((s.walksPut k ws).recorded l bs).cluster k) = { s.cluster k with walks := ws } := by
    change (s.walksPut k ws).cluster k = _
    simp only [State.walksPut, State.modCluster_cluster, if_true]
  dsimp only
  rw [heq]
  refine ⟨(congrArg Cluster.tlb hcluster :), (congrArg Cluster.walks hcluster :), ?_, recorded_bytes (s.walksPut k ws) hpre (by decide) (by decide)⟩
  change (Table.get {} l q.lease).fcnt = _
  rw [hlease]
  exact congrArg Lease.fcnt (recorded_lease (s.walksPut k ws) l bs)

theorem walkResult : WalkResult := by
  intro s k w hw
  rw [exec_tlbWalkComplete hw]
  refine ⟨fun hseq => ?_, fun z pa pr hseq hheld hwalk hpa hroom => ?_, fun hseq hheld hwalk htold => ?_, fun hseq hheld hwalk htold => ?_⟩
  · rw [if_pos hseq]
    refine ⟨_, rfl, ?_, rfl, rfl, ?_⟩ <;> simp only [State.walksPut, State.modCluster_cluster, if_true]
  all_goals rw [if_neg (not_not.mpr hseq), if_neg (by simp [hheld])]
  · obtain ⟨e, he, hl, hsize, hpr, hvpn, hpa', hlr⟩ := tlbEntry_walk hwalk hpa
    have hroom' : ((s.walksPut k ((s.cluster k).walks.filter fun x => x.id != w.id)).cluster k).tlb.length < 8 := by
      simpa only [State.walksPut, State.modCluster_cluster, if_true] using hroom
    obtain ⟨i, hfill⟩ := tlbFill_room (e := e) hroom'
    rw [he]
    refine ⟨_, { e with way := i }, rfl, ?_, ?_, hpa', hpr, hsize, hlr, ?_, ?_, ?_⟩
    all_goals rw [hfill]
    · simp only [State.walksPut, State.modCluster_cluster, if_true, keptTlb, hl]
    · simp only [State.tlbFind, State.walksPut, State.modCluster_cluster, if_true]
      refine List.find?_cons_of_pos ?_
      have hpos : 0 < pageBytes e.size := Nat.pos_of_dvd_of_pos (pageBytes_dvd (Nat.le_add_right e.size 2)) (by simp [pageBytes])
      simp only [hl, beq_self_eq_true, Bool.true_and, hvpn, Nat.mul_div_cancel _ hpos]
    · simp only [State.walksPut, State.modCluster_cluster, if_true]
    · rfl
    · rfl
  all_goals rw [State.tlbEntry, hwalk]
  · exact if_pos htold
  · obtain ⟨htlb, hwalks, hcount, hbytes⟩ := walkFault_spec s k (coreOf k 0) w.l w.va ((s.cluster k).walks.map fun x => if x.id = w.id then { x with told := true } else x)
    exact ⟨_, if_neg (by simp [htold]), htlb, hwalks, hcount, hbytes⟩

/-! ### Shoot-downs (R99, R103) -/

section
variable {s : State} {k l lo hi : Nat} {x : Shoot}

/-- A shoot-down of a cluster changes that cluster's entries and count, and besides only cores (R99). -/
theorem shootCluster_eq (s : State) (l lo hi k : Nat) : ∃ cs, s.shootCluster l lo hi k = { s.modCluster k (fun q =>
    { q with inval := (q.inval + 1) % 2 ^ 32
             tlb := q.tlb.filter fun e => !(e.l == l && overlap lo (hi - lo) (e.vpn * 65536 / pageBytes e.size * pageBytes e.size) (pageBytes e.size)) }) with cores := cs } := by
  have hfold (f : Core → Core) (cs : List Nat) : ∀ t : State, ∃ r, cs.foldl (fun s c => if (s.core c).l1d.isEmpty && (s.core c).l1i.isEmpty then s else s.modCore c f) t =
      { t with cores := r } := by
    induction cs with
    | nil => exact fun t => ⟨_, rfl⟩
    | cons c cs ih =>
      intro t
      rw [List.foldl_cons]
      split
      · exact ih t
      · obtain ⟨r, h⟩ := ih (t.modCore c f)
        exact ⟨r, h⟩
  exact hfold _ _ _

theorem exec_shootdownComplete_next (hx : s.shoots.find? (fun y => y.id == s.arg.id) = some x) (hm : x.mig = none) {k0 : Nat} {r : List Nat} (hc : x.clusters = k0 :: k :: r) :
    exec .shootdownComplete s = .next (({ s with shoots := s.shoots.map fun y => if y.id = x.id then { y with clusters := k :: r } else y } : State).shootCluster x.l x.lo x.hi k) := by
  change execShootdownComplete s = _
  simp only [execShootdownComplete, hx, hm, hc]
  rfl

/-- A thread that waits for the shoot-down goes on. -/
def shootEnded (id : Nat) (t : Thread) : Thread := if t.wait = .shoot id then { t with wait := .done 0 } else t

theorem exec_shootdownComplete_last (hx : s.shoots.find? (fun y => y.id == s.arg.id) = some x) (hm : x.mig = none) (hc : x.clusters = [k]) :
    exec .shootdownComplete s = .next (({ s with shoots := s.shoots.filter fun y => y.id != x.id } : State).mapThreads (shootEnded x.id)) := by
  change execShootdownComplete s = _
  simp only [execShootdownComplete, hx, hm, hc]
  rfl

theorem startShoot_spec (s : State) (l lo hi : Nat) (m : Option Nat) : ∃ x : Shoot, (s.startShoot l lo hi m).shoots = s.shoots ++ [x] ∧ (s.startShoot l lo hi m).threads = s.threads ∧
    x.l = l ∧ x.lo = lo ∧ x.hi = hi ∧ x.mig = m := by
  unfold State.startShoot
  dsimp only
  refine ⟨⟨s.nextOp, l, lo, hi, s.clustersOf l, m⟩, ?_, ?_, rfl, rfl, rfl, rfl⟩
  all_goals
    split
    · obtain ⟨cs, h⟩ := shootCluster_eq ({ s with shoots := s.shoots ++ [⟨s.nextOp, l, lo, hi, s.clustersOf l, m⟩], nextOp := s.nextOp + 1 } : State) l lo hi ‹Nat›
      rw [h]
      rfl
    · rfl

end

/-! ### Page moves (R103) -/

theorem put_shoots (s : State) (a : Nat) (b : List Byte) : (s.put a b).shoots = s.shoots := rfl

theorem put_threads (s : State) (a : Nat) (b : List Byte) : (s.put a b).threads = s.threads := rfl

theorem put_sched (s : State) (a : Nat) (b : List Byte) : (s.put a b).sched = s.sched := rfl

section
variable {s : State} {m : PageMig} {z p v : Nat}

theorem exec_pageMigrationLine_begins (hid : s.arg.id = 0) (hok : s.arg.ok = false) (hleaf : s.leafAt s.arg.x s.arg.addr = some (z, p, v)) (hmig : bit v 6 = false)
    (halign : s.arg.v.toNat % pageBytes z = 0) (hend : s.arg.v.toNat + pageBytes z ≤ 0xC000000000)
    (hapart : overlap (bits v 8 48 * 256) (pageBytes z) s.arg.v.toNat (pageBytes z) = false) :
    exec .pageMigrationLine s = .next { (s.putLeaf p v (bits v 8 48 * 256) true).modSched (fun q =>
      { q with migs := q.migs ++ [⟨s.nextOp, s.arg.x, s.arg.addr / pageBytes z * pageBytes z, bits v 8 48 * 256, s.arg.v.toNat, pageBytes z, 0⟩] }) with nextOp := s.nextOp + 1 } := by
  change execPageMigrationLine s = _
  unfold execPageMigrationLine
  dsimp only
  rw [if_neg (by simp [hok]), if_pos hid, hleaf]
  exact if_neg (by simp [hmig, halign, hapart, Nat.not_lt.mpr hend])

/-- One line of a migration copied. -/
def State.lineMoved (s : State) (m : PageMig) : State :=
  (s.put (m.new + m.done) (s.bytes (m.old + m.done) 64)).modSched fun q => { q with migs := q.migs.map fun g => if g.id = m.id then { g with done := m.done + 64 } else g }

theorem exec_pageMigrationLine_line (hid : s.arg.id ≠ 0) (hm : s.sched.migs.find? (fun g => g.id == s.arg.id) = some m) (hleft : m.done + 64 < m.len) :
    exec .pageMigrationLine s = .next (s.lineMoved m) := by
  change execPageMigrationLine s = _
  unfold execPageMigrationLine
  dsimp only
  rw [if_neg (fun h => hid h.1), if_neg hid, hm]
  exact (if_neg (by omega)).trans (if_pos hleft)

/-- After a migration's last line its range is shot down (R103). -/
theorem exec_pageMigrationLine_last (hid : s.arg.id ≠ 0) (hm : s.sched.migs.find? (fun g => g.id == s.arg.id) = some m) (h1 : m.done < m.len) (h2 : m.len ≤ m.done + 64) :
    ∃ u : State, u.shoots = s.shoots ∧ u.threads = s.threads ∧ exec .pageMigrationLine s = .next (u.startShoot m.l m.va (m.va + m.len) (some m.id)) := by
  have hexec : exec .pageMigrationLine s = match (s.lineMoved m).leafAt m.l m.va with
      | some (_, p, v) => .next (((s.lineMoved m).putLeaf p v m.new false).startShoot m.l m.va (m.va + m.len) (some m.id))
      | none => .next ((s.lineMoved m).startShoot m.l m.va (m.va + m.len) (some m.id)) := by
    change execPageMigrationLine s = _
    unfold execPageMigrationLine
    dsimp only
    rw [if_neg (fun h => hid h.1), if_neg hid, hm]
    refine (if_neg (by omega)).trans ((if_neg (by omega)).trans ?_)
    rfl
  rw [hexec]
  cases (s.lineMoved m).leafAt m.l m.va with
  | none => exact ⟨s.lineMoved m, by simp [State.lineMoved, put_shoots], by simp [State.lineMoved, put_threads], rfl⟩
  | some q => exact ⟨(s.lineMoved m).putLeaf q.2.1 q.2.2 m.new false, by simp [State.lineMoved, State.putLeaf, put_shoots],
      by simp [State.lineMoved, State.putLeaf, put_threads], rfl⟩

end

/-! ### Resident pages (R102) -/

section
variable {s u : State} {l page x n p : Nat} {e : Lease} {r : Word}

/-- A page of the touched set. -/
def hasPage (e : Lease) (page : Nat) : Prop := ∃ i b, (i, page, b) ∈ e.touched

/-- A page enters a touched set that has room without evicting another (R102). -/
theorem touch_room (h : e.touched.length < 4096) : (e.touch page).2 = none ∧ hasPage (e.touch page).1 page := by
  unfold Lease.touch
  split
  · next q hq =>
    have hpage : q.2.1 = page := by simpa using List.find?_some hq
    exact ⟨rfl, q.1, q.2.2, List.mem_append_right _ (by rw [← hpage]; exact List.mem_singleton_self _)⟩
  · split
    · exact ⟨rfl, _, false, List.mem_append_right _ (List.mem_singleton_self _)⟩
    · next hnone =>
      obtain ⟨i, hi, hfree⟩ := exists_lt_notMem (l := e.touched.map Prod.fst) (by rw [List.length_map]; exact h)
      refine absurd (List.find?_eq_none.mp hnone i (List.mem_range.mpr hi)) (not_not.mpr (List.all_eq_true.mpr fun q hq => ?_))
      exact bne_iff_ne.mpr fun heq => hfree (List.mem_map.mpr ⟨q, hq, heq⟩)

theorem markTouched_mem (s : State) (l : Nat) : (s.markTouched l).mem = s.mem := by unfold State.markTouched; split <;> rfl

theorem markTouched_threads (s : State) (l : Nat) : (s.markTouched l).threads = s.threads := by unfold State.markTouched; split <;> rfl

theorem markTouched_hasPage (h : hasPage (s.lease l) page) : hasPage ((s.markTouched l).lease l) page := by
  obtain ⟨i, b, hmem⟩ := h
  unfold State.markTouched
  split
  · exact ⟨i, b, hmem⟩
  · refine ⟨i, ?_⟩
    simp only [State.modLease_lease, if_true]
    exact ⟨_, List.mem_map.mpr ⟨_, hmem, rfl⟩⟩

/-- The page enters its context's touched set. -/
def State.pageTouched (s : State) (x n : Nat) : State := (s.modLease x fun _ => ((s.lease x).touch n).1).markTouched x

/-- The thread, where it waits for the page and belongs to the context, is answered. -/
def State.touchAnswer (s : State) (x n : Nat) (r : Word) (k : Nat) (t : Thread) : Thread :=
  if t.st ≠ .empty ∧ t.wait = .touch n ∧ (s.ctx (k / 256) t.x).l = x then { t with wait := .done r } else t

/-- The threads that touch a page are answered (R102). -/
def State.touchAnswered (s : State) (x n : Nat) (r : Word) : State := { s with threads := s.threads.map fun p => (p.1, s.touchAnswer x n r p.1 p.2) }

theorem touchAnswered_thread {c h : Nat} (hh : h < 256) : (s.touchAnswered x n r).thread c h = s.touchAnswer x n r (256 * c + h) (s.thread c h) :=
  Table.get_map (d := ({} : Thread)) (f := s.touchAnswer x n r) (if_neg fun h => h.1 rfl) s.threads

theorem touchAnswered_waits {c h : Nat} (hh : h < 256) (hlive : (s.thread c h).st ≠ .empty) (hw : (s.thread c h).wait = .touch n)
    (hl : (s.ctx c (s.thread c h).x).l = x) : (s.touchAnswered x n r).thread c h = { s.thread c h with wait := .done r } := by
  rw [touchAnswered_thread hh, State.touchAnswer, if_pos ⟨hlive, hw, by rw [show (256 * c + h) / 256 = c by omega]; exact hl⟩]

theorem touchAnswered_other {c h : Nat} (hh : h < 256) (hw : (s.thread c h).wait ≠ .touch n) : (s.touchAnswered x n r).thread c h = s.thread c h := by
  rw [touchAnswered_thread hh, State.touchAnswer, if_neg fun h => hw h.2.1]

/-- A page whose standing is as the step says, in a touched set with room. -/
theorem exec_pageResident (hu : (if s.arg.ok ∧ s.arg.m % 8 ≠ 0 ∧ (s.walk s.arg.x (s.arg.n * 65536)).isNone then s.mapPage s.arg.x (s.arg.n * 65536) s.arg.addr s.arg.m s.arg.bytes else s) = u)
    (hfound : (u.walk s.arg.x (s.arg.n * 65536)).isSome = s.arg.ok) (hroom : (u.lease s.arg.x).touched.length < 4096) :
    exec .pageResident s = .next (if s.arg.ok then (u.touchAnswered s.arg.x s.arg.n 0).pageTouched s.arg.x s.arg.n else u.touchAnswered s.arg.x s.arg.n 1) := by
  have hmap (r : Word) : u.threads.map (fun p => if p.2.st ≠ .empty ∧ p.2.wait = .touch s.arg.n ∧ (u.ctx (p.1 / 256) p.2.x).l = s.arg.x then (p.1, { p.2 with wait := .done r }) else p) =
      u.threads.map fun p => (p.1, u.touchAnswer s.arg.x s.arg.n r p.1 p.2) :=
    List.map_congr_left fun p _ => by unfold State.touchAnswer; split <;> rfl
  change execPageResident s = _
  unfold execPageResident
  dsimp only
  rw [hu, hfound, if_neg (not_not.mpr rfl)]
  cases hok : s.arg.ok with
  | false => exact congrArg Host.Outcome.next (congrArg (fun ts => { u with threads := ts }) (hmap 1))
  | true =>
    have hnone : (((u.touchAnswered s.arg.x s.arg.n 0).lease s.arg.x).touch s.arg.n).2 = none := (touch_room hroom).1
    simp only [Bool.not_true, Bool.false_eq_true, if_false, if_true, hmap]
    rw [show ({ u with threads := u.threads.map fun p => (p.1, u.touchAnswer s.arg.x s.arg.n 0 p.1 p.2) } : State) = u.touchAnswered s.arg.x s.arg.n 0 from rfl, hnone]
    rfl

theorem pageTouched_mem (s : State) (x n : Nat) : (s.pageTouched x n).mem = s.mem := markTouched_mem ..

theorem pageTouched_thread (s : State) (x n c h : Nat) : (s.pageTouched x n).thread c h = s.thread c h := by
  unfold State.thread State.pageTouched
  rw [markTouched_threads]
  rfl

theorem pageTouched_hasPage (h : (s.lease x).touched.length < 4096) : hasPage ((s.pageTouched x n).lease x) n := by
  refine markTouched_hasPage ?_
  rw [State.modLease_lease, if_pos rfl]
  exact (touch_room h).2

/-- Where a page lies, or is said not to, its threads are answered and the touched set takes it (R102). -/
theorem pageResident_known (hwalk : (s.walk s.arg.x (s.arg.n * 65536)).isSome = s.arg.ok) (hroom : (s.lease s.arg.x).touched.length < 4096) :
    ∃ t : State, exec .pageResident s = .next t ∧ t.mem = s.mem ∧
      (∀ c h, h < 256 → (s.thread c h).st ≠ .empty → (s.thread c h).wait = .touch s.arg.n → (s.ctx c (s.thread c h).x).l = s.arg.x →
        t.thread c h = { s.thread c h with wait := .done (if s.arg.ok then 0 else 1) }) ∧
      (∀ c h, h < 256 → (s.thread c h).wait ≠ .touch s.arg.n → t.thread c h = s.thread c h) ∧ (s.arg.ok = true → hasPage (t.lease s.arg.x) s.arg.n) := by
  have hu : (if s.arg.ok ∧ s.arg.m % 8 ≠ 0 ∧ (s.walk s.arg.x (s.arg.n * 65536)).isNone then s.mapPage s.arg.x (s.arg.n * 65536) s.arg.addr s.arg.m s.arg.bytes else s) = s := by
    refine if_neg ?_
    rintro ⟨hok, -, hnone⟩
    rw [hok, Option.isSome_iff_ne_none] at hwalk
    exact hwalk (Option.isNone_iff_eq_none.mp hnone)
  refine ⟨_, exec_pageResident hu hwalk hroom, ?_⟩
  cases hok : s.arg.ok with
  | false => exact ⟨rfl, fun c h hh hlive hw hl => touchAnswered_waits hh hlive hw hl, fun c h hh hw => touchAnswered_other hh hw, fun h => nomatch h⟩
  | true =>
    refine ⟨pageTouched_mem .., fun c h hh hlive hw hl => ?_, fun c h hh hw => ?_, fun _ => pageTouched_hasPage hroom⟩
    · exact (pageTouched_thread ..).trans (touchAnswered_waits hh hlive hw hl)
    · exact (pageTouched_thread ..).trans (touchAnswered_other hh hw)

/-- The mapping that a page brings, where a table for it stands and its entry is invalid (R378). -/
theorem mapPage_entry {pa rights : Nat} (hslot : s.leafSlot l page = some p) (ha : pa % 65536 = 0) (hend : pa + 65536 ≤ s.hbmEnd) (hword : s.word p 8 % 2 = 0) :
    s.mapPage l page pa rights [] = s.put p (toBytes 8 (pa + rights % 8 * 4 + 3)) := by
  rw [State.mapPage, hslot]
  exact if_neg (by simp [ha, Nat.not_lt.mpr hend, bit, hword])

theorem pageResident_maps (hok : s.arg.ok = true) (hm : s.arg.m % 8 ≠ 0) (hbytes : s.arg.bytes = []) (hwalk : s.walk s.arg.x (s.arg.n * 65536) = none)
    (hslot : s.leafSlot s.arg.x (s.arg.n * 65536) = some p) (ha : s.arg.addr % 65536 = 0) (hend : s.arg.addr + 65536 ≤ s.hbmEnd) (hword : s.word p 8 % 2 = 0)
    (hroom : (s.lease s.arg.x).touched.length < 4096)
    (hfound : ((s.put p (toBytes 8 (s.arg.addr + s.arg.m % 8 * 4 + 3))).walk s.arg.x (s.arg.n * 65536)).isSome = true) :
    ∃ t : State, exec .pageResident s = .next t ∧ t.mem = (s.put p (toBytes 8 (s.arg.addr + s.arg.m % 8 * 4 + 3))).mem := by
  have hu : (if s.arg.ok ∧ s.arg.m % 8 ≠ 0 ∧ (s.walk s.arg.x (s.arg.n * 65536)).isNone then s.mapPage s.arg.x (s.arg.n * 65536) s.arg.addr s.arg.m s.arg.bytes else s) =
      s.put p (toBytes 8 (s.arg.addr + s.arg.m % 8 * 4 + 3)) := by
    rw [if_pos ⟨hok, hm, by rw [hwalk]; rfl⟩, hbytes, mapPage_entry hslot ha hend hword]
  refine ⟨_, exec_pageResident hu (hfound.trans hok.symm) hroom, ?_⟩
  rw [if_pos hok, pageTouched_mem]
  rfl

end

theorem pageSteps : PageSteps := by
  intro s
  refine ⟨fun x k r hx hm k0 hc => ?_, fun x k hx hm hc => ?_, fun z p v hid hok hleaf hmig halign hend hapart => ?_, fun m hid hm hleft => ?_,
    fun m hid hm h1 h2 => ?_, pageResident_known, fun p hok hm hbytes hwalk hslot ha hend hword hroom => pageResident_maps hok hm hbytes hwalk hslot ha hend hword hroom⟩
  · refine ⟨_, exec_shootdownComplete_next hx hm hc, ?_⟩
    obtain ⟨cs, h⟩ := shootCluster_eq ({ s with shoots := s.shoots.map fun y => if y.id = x.id then { y with clusters := k :: r } else y } : State) x.l x.lo x.hi k
    have hcluster := State.modCluster_cluster (s := s) k k fun q => { q with
      inval := (q.inval + 1) % 2 ^ 32
      tlb := q.tlb.filter fun e => !(e.l == x.l && overlap x.lo (x.hi - x.lo) (e.vpn * 65536 / pageBytes e.size * pageBytes e.size) (pageBytes e.size)) }
    rw [if_pos rfl] at hcluster
    rw [h]
    exact ⟨rfl, rfl, (congrArg Cluster.tlb hcluster :), (congrArg Cluster.inval hcluster :), rfl⟩
  · refine ⟨_, exec_shootdownComplete_last hx hm hc, rfl, rfl, fun c h => ?_⟩
    rw [mapThreads_thread, show ({ s with shoots := s.shoots.filter fun y => y.id != x.id } : State).thread c h = s.thread c h from rfl]
    by_cases hst : (s.thread c h).st = .empty
    · rw [if_pos hst]
      exact ⟨⟨rfl, rfl, rfl, rfl, rfl⟩, fun hlive => absurd hst hlive, fun _ => rfl⟩
    rw [if_neg hst]
    by_cases hw : (s.thread c h).wait = .shoot x.id
    · refine ⟨?_, fun _ _ => ?_, fun h => absurd hw h⟩
      all_goals rw [shootEnded, if_pos hw]
      exact ⟨rfl, rfl, rfl, rfl, rfl⟩
    · refine ⟨?_, fun _ h => absurd h hw, fun _ => ?_⟩
      all_goals rw [shootEnded, if_neg hw]
      exact ⟨rfl, rfl, rfl, rfl, rfl⟩
  · exact ⟨_, exec_pageMigrationLine_begins hid hok hleaf hmig halign hend hapart, rfl, rfl, rfl⟩
  · refine ⟨_, exec_pageMigrationLine_line hid hm hleft, ?_, ?_, ?_⟩
    · simp only [State.lineMoved, State.modSched_mem, put_mem]
    · simp only [State.lineMoved, State.modSched_threads, put_threads]
    · simp only [State.lineMoved, State.modSched_sched, put_sched]
  · obtain ⟨u, hshoots, hthreads, hexec⟩ := exec_pageMigrationLine_last hid hm h1 h2
    obtain ⟨x, hx, ht, hl, hlo, hhi, hmig⟩ := startShoot_spec u m.l m.va (m.va + m.len) (some m.id)
    exact ⟨_, x, hexec, ht.trans hthreads, by rw [hx, hshoots], hl, hlo, hhi, hmig⟩

/-! ### Scrubbing (R414, R415, R417) -/

section
variable {s : State}

/-- An error's record changes the scheduler's records alone (R372). -/
theorem logEcc_eq (s : State) : ∃ q, s.logEcc = { s with sched := q } := by
  obtain ⟨q, h, -⟩ := flog_eq s 0x30 2 (if s.arg.n = 1 ∨ s.arg.n = 2 ∨ s.arg.n = 3 ∨ s.arg.n = 4 then s.arg.c else 0xFFFF)
    (match s.arg.n with | 1 | 2 | 3 | 4 => (s.ctx s.arg.c (s.thread s.arg.c s.arg.h).x).l | _ => 0) (BitVec.ofNat 64 (eccTval (s.arg.addr, s.arg.n)))
  exact ⟨q, h⟩

theorem exec_patrolScrub_corrected (h : s.arg.ok = false) :
    exec .patrolScrub s = .next (s.modDev fun d => { d with corrected := Table.set s.arg.n (Table.get 0 s.arg.n d.corrected + 1) d.corrected }) := by
  change execPatrolScrub s = _
  simp only [execPatrolScrub, h]
  rfl

theorem exec_patrolScrub_memory (h : s.arg.ok = true) (hn : s.arg.n = 1 ∨ s.arg.n = 5 ∨ s.arg.n = 6) :
    exec .patrolScrub s = if s.arg.x = 1 then .next (s.logEcc.dropPending s.arg.id s.arg.m)
      else if 2 ≤ s.arg.x then .next (s.logEcc.modCore s.arg.c fun k => { k with bad := (s.arg.x - 2, s.arg.m) :: k.bad.filter (· != (s.arg.x - 2, s.arg.m)) })
      else .next { s.logEcc with poison := (s.arg.addr / 8 * 8, s.arg.n) :: s.poison.filter fun p => p.1 != s.arg.addr / 8 * 8 } := by
  change execPatrolScrub s = _
  rcases hn with hn | hn | hn <;> simp only [execPatrolScrub, h, hn] <;> rfl

theorem exec_patrolScrub_buffer (h : s.arg.ok = true) (hn : s.arg.n = 2) (hst : (s.thread s.arg.c s.arg.h).st ≠ .empty) (hbuf : (s.thread s.arg.c s.arg.h).buf ≠ []) :
    exec .patrolScrub s = .next (s.logEcc.abortTask s.arg.c s.arg.h) := by
  change execPatrolScrub s = _
  simp only [execPatrolScrub, h, hn]
  exact congrArg Host.Outcome.next (if_neg (not_or.mpr ⟨hst, hbuf⟩))

theorem exec_patrolScrub_cache (h : s.arg.ok = true) (hn : s.arg.n = 3) (hm : s.arg.m ≠ 1) : exec .patrolScrub s =
    .next ((s.logEcc.modCore s.arg.c fun k => { k with l1d := k.l1d.filter fun e => e.va / 64 != s.arg.addr / 64 }).modCluster (clusterOf s.arg.c) fun q =>
      { q with tlb := q.tlb.filter fun e => e.vpn != s.arg.addr / 65536 }) := by
  change execPatrolScrub s = _
  simp only [execPatrolScrub, h, hn]
  exact congrArg Host.Outcome.next (if_neg hm)

theorem exec_patrolScrub_slot (h : s.arg.ok = true) (hn : s.arg.n = 4) (hst : (s.thread s.arg.c s.arg.h).st ≠ .empty) (hl : (s.thread s.arg.c s.arg.h).st ≠ .leaving) :
    ∃ z : Cause, z.code = 0x30 ∧ exec .patrolScrub s = .next (if s.arg.m = 1 then s.fatal s.arg.c s.arg.h z 1 0
      else s.modThread s.arg.c s.arg.h fun t => { t with due := t.due ++ [z] }) := by
  refine ⟨⟨0x30, BitVec.ofNat 64 (4 * 2 ^ 56 + s.arg.h), (s.thread s.arg.c s.arg.h).pc, false, false, 0, 0⟩, rfl, ?_⟩
  change execPatrolScrub s = _
  simp only [execPatrolScrub, h, hn]
  exact if_neg (not_or.mpr ⟨hst, hl⟩)

theorem exec_patrolScrub_firmware (h : s.arg.ok = true) (hn : s.arg.n = 7) :
    ∃ q, exec .patrolScrub s = .next { s with sched := q, agenda := s.agenda ++ [⟨.takeover, { c := s.arg.c }⟩] } := by
  obtain ⟨q, hq, -⟩ := flog_eq s 0x41 3 s.arg.c (s.ctx s.arg.c 0).l (BitVec.ofNat 64 s.arg.c)
  refine ⟨{ q with down := q.down || s.dev.roles.any fun r => r.1 == s.arg.c && r.2.1 == 1 }, ?_⟩
  change execPatrolScrub s = _
  simp only [execPatrolScrub, h, hn, hq]
  rfl

theorem fatal_leaves (s : State) (c h : Nat) (z : Cause) (cls n : Nat) : ((s.fatal c h z cls n).thread c h).st = .leaving ∧ ((s.fatal c h z cls n).thread c h).leave = .fatal := by
  simp only [State.fatal, State.modThread_thread, if_true]
  exact ⟨trivial, trivial⟩

end

theorem scrubResult : ScrubResult := by
  intro s
  refine ⟨fun hok => ?_, fun hok hn hx => ?_, fun hok hn hst hbuf => exec_patrolScrub_buffer hok hn hst hbuf, fun hok hn hx => ?_, fun hok hn hm => ?_, fun hok hn hst hl hm => ?_,
    fun hok hn hst hl hm => ?_, fun hok hn => ?_⟩
  · refine ⟨_, exec_patrolScrub_corrected hok, Table.get_set_same .., fun n hne => Table.get_set_other _ hne _ _, rfl, rfl, rfl⟩
  · obtain ⟨q, hq⟩ := logEcc_eq s
    refine ⟨_, (exec_patrolScrub_memory hok hn).trans ((if_neg (by omega)).trans (if_neg (by omega))), ?_⟩
    rw [hq]
    refine ⟨rfl, rfl, List.mem_cons_self, ?_⟩
    have hhit : overlap (s.arg.addr / 8 * 8) 8 (s.arg.addr / 8 * 8) 8 = true := by simp [overlap]
    exact Option.isSome_iff_exists.mpr ⟨_, List.find?_cons_of_pos hhit⟩
  · obtain ⟨q, hq⟩ := logEcc_eq s
    refine ⟨_, (exec_patrolScrub_memory hok hn).trans ((if_neg (by omega)).trans (if_pos hx)), ?_⟩
    rw [hq]
    refine ⟨rfl, rfl, ?_⟩
    rw [State.modCore_core, if_pos rfl]
    exact List.mem_cons_self
  · obtain ⟨q, hq⟩ := logEcc_eq s
    refine ⟨_, exec_patrolScrub_cache hok hn hm, ?_⟩
    rw [hq]
    refine ⟨rfl, rfl, ?_, ?_⟩
    · rw [State.modCluster_core_of, State.modCore_core, if_pos rfl]
      intro e he
      simpa using (List.mem_filter.mp he).2
    · rw [State.modCluster_cluster, if_pos rfl]
      intro e he
      simpa using (List.mem_filter.mp he).2
  · obtain ⟨z, hz, hexec⟩ := exec_patrolScrub_slot hok hn hst hl
    rw [if_neg hm] at hexec
    exact ⟨_, z, hexec, hz, by rw [State.modThread_thread, if_pos rfl], rfl⟩
  · obtain ⟨z, -, hexec⟩ := exec_patrolScrub_slot hok hn hst hl
    rw [if_pos hm] at hexec
    exact ⟨_, hexec, fatal_leaves ..⟩
  · obtain ⟨q, hexec⟩ := exec_patrolScrub_firmware hok hn
    exact ⟨_, hexec, rfl, rfl, rfl⟩

/-- Settles O43: each step of the memories is stated once by what it leaves, and read off there. -/
theorem translation : Obligations.Translation := ⟨walkResult, pageSteps, scrubResult⟩

end Sys2Proof.Machine

/-! # Stores, reads, answers and tokens of other devices (R86, R104, R137, R327, R384, R438). -/

namespace Sys2Proof.Machine

open Sys2Proof.Claims

/-! ### Stores and reads (R137, R327) -/

section
variable {s : State} {x n : Nat} {k : Ctx}

/-- The address, the number of bytes and the bytes of a packet that stores (R438). -/
def State.transferAddr (s : State) : Nat := s.argN 0 8
def State.transferLen (s : State) : Nat := s.argN 20 4
def State.storeBytes (s : State) : List Byte := padTo s.transferLen (s.arg.bytes.drop 29)

/-- The context that may store, with kind 1, or read, with kind 0, what the packet names (R86, R327). -/
def State.transferReach (s : State) (kind : Nat) : Option (Nat × Ctx) := s.jobReach (s.argN 24 2) (s.argN 8 8) (s.argN 16 4) kind (s.argN 28 1 == 1)

theorem storeBytes_length (s : State) : s.storeBytes.length = s.transferLen := by
  simp [State.storeBytes, padTo]
  omega

theorem exec_evhStore_held (h : s.sourceWaits isTransfer = true) : exec .evhStore s = .next (s.packetLater .evhStore s.arg) := if_pos h

theorem exec_evhGetRequest_held (h : s.sourceWaits isTransfer = true) : exec .evhGetRequest s = .next (s.packetLater .evhGetRequest s.arg) := if_pos h

section
variable (hw : s.sourceWaits isTransfer = false)
include hw

theorem exec_evhStore_refused (hr : s.transferReach 1 = none) : exec .evhStore s = .next (s.ack s.arg.c s.arg.id [1]) := by
  refine (if_neg (by simp [hw])).trans ?_
  unfold State.transferReach at hr
  rw [hr]

theorem exec_evhStore_empty (hr : s.transferReach 1 = some (x, k)) (hn : s.transferLen = 0) : exec .evhStore s = .next (s.ack s.arg.c s.arg.id [0]) := by
  refine (if_neg (by simp [hw])).trans ?_
  unfold State.transferReach at hr
  rw [hr]
  exact if_pos hn

theorem exec_evhStore_lands {ks : List (Nat × Nat)} (hr : s.transferReach 1 = some (x, k)) (hn : s.transferLen ≠ 0)
    (hk : s.reachKeys k.l s.transferAddr s.transferLen = .keys ks) (hspot : s.spotWaits ks true = false) :
    exec .evhStore s = .next ((s.landParts ks s.storeBytes).ack s.arg.c s.arg.id [0]) := by
  refine (if_neg (by simp [hw])).trans ?_
  unfold State.transferReach at hr
  rw [hr]
  refine (if_neg hn).trans ?_
  unfold State.transferAddr State.transferLen at hk
  rw [hk]
  dsimp only
  rw [hspot]
  rfl

theorem exec_evhGetRequest_refused (hr : s.transferReach 0 = none) : exec .evhGetRequest s = .next (s.getData s.arg.c s.arg.id 1 []) := by
  refine (if_neg (by simp [hw])).trans ?_
  unfold State.transferReach at hr
  rw [hr]

/-- The bytes asked for go back, or the cause of an uncorrectable error among them (R327). -/
theorem exec_evhGetRequest_read {ks : List (Nat × Nat)} (hr : s.transferReach 0 = some (x, k))
    (hk : s.reachKeys k.l s.transferAddr s.transferLen = .keys ks) (hspot : s.spotWaits ks false = false) :
    exec .evhGetRequest s = .next (s.sendPacket { dst := s.arg.c, cls := 1, ty := 3, tag := s.arg.id, bank := 0, body :=
      (if (s.eccIn ks).isSome then toBytes 8 0x30 else toBytes 8 0 ++ ks.flatMap fun p => s.bytes p.1 p.2) }) := by
  refine (if_neg (by simp [hw])).trans ?_
  unfold State.transferReach at hr
  rw [hr]
  unfold State.transferAddr State.transferLen at hk
  dsimp only
  rw [hk]
  dsimp only
  rw [hspot]
  cases (s.eccIn ks).isSome
  · rfl
  · rw [if_neg (by decide), if_pos rfl, if_pos rfl, State.getData, List.append_nil]

end

/-! ### Where the bytes of a store land (R86, R137) -/

theorem landParts_elsewhere {key : Nat} {b : List Byte} (h : spOf key = none) (hb : b.length = n) : s.landParts [(key, n)] b = s.land 512 key b := by
  rw [State.landParts, State.landParts, h, ← hb, List.take_length]

theorem landParts_scratchpad {key d o : Nat} {b : List Byte} (h : spOf key = some (d, o)) (hb : b.length = n) :
    s.landParts [(key, n)] b = s.land d key b := by
  rw [State.landParts, State.landParts, h, ← hb, List.take_length]

theorem land_elsewhere_eq {c a : Nat} (b : List Byte) (h : spOf a = none) : ∃ l, s.land c a b = { s.put (s.fwd a) b with cores := l } := by
  rw [State.land, updates_elsewhere _ h, State.lay, h]
  dsimp only
  split
  · exact ⟨_, rfl⟩
  · exact ⟨_, rfl⟩

theorem spotWaits_elsewhere {key : Nat} (h : spOf key = none) (b : Bool) : s.spotWaits [(key, n)] b = false := by simp [State.spotWaits, h]

theorem spotWaits_scratchpad {key d o : Nat} (h : spOf key = some (d, o)) (b : Bool) :
    s.spotWaits [(key, n)] b = (s.farLock d o n b || (b && !s.updateRoom d o n)) := by simp [State.spotWaits, h]

theorem spotWaits_free {key d o : Nat} (h : spOf key = some (d, o)) (hsrc : (s.core d).src = []) (hlock : s.farLock d o n true = false) :
    s.spotWaits [(key, n)] true = false := by
  simp [spotWaits_scratchpad h, hlock, State.updateRoom, hsrc]

end

/-! ### Data for a command (R327) -/

section
variable {s : State} {m p : Cmd}

/-- Commands changed in place keep their ids, so that one is found where it stood. -/
theorem find_replaced {l : List Cmd} (h : (l.find? (·.id == p.id)).isSome = true) :
    (l.map fun q => if q.id = p.id then p else q).find? (·.id == p.id) = some p := by
  induction l with
  | nil => exact absurd h (by simp)
  | cons q l ih =>
    by_cases hq : q.id = p.id
    · simp [hq]
    · rw [List.find?_cons_of_neg (by simpa using hq)] at h
      rw [List.map_cons, if_neg hq, List.find?_cons_of_neg (by simpa using hq)]
      exact ih h

theorem setCmd_cmd (h : (s.cmd p.core p.id).isSome = true) : (s.setCmd p).cmd p.core p.id = some p := by
  rw [State.setCmd, State.cmd, State.modCore_core, if_pos rfl]
  exact find_replaced h

theorem freeCmd_ended (k : Core) (m : Cmd) : (k.freeCmd m).cmds.find? (·.id == m.id) = none ∧ ∀ l ∈ (k.freeCmd m).locks, l.cmd ≠ m.id := by
  refine ⟨List.find?_eq_none.mpr fun q hq => ?_, fun l hl => by simpa using (List.mem_filter.mp hl).2⟩
  simpa using (List.mem_filter.mp hq).2

theorem markTouched_core (s : State) (l c : Nat) : (s.markTouched l).core c = s.core c := by
  unfold State.markTouched
  split <;> rfl

theorem stopCmd_ended (s : State) (m : Cmd) : endedCmd (s.stopCmd m) m := by
  have hcore : (s.stopCmd m).core m.core = (s.core m.core).freeCmd m := by
    rw [State.stopCmd, markTouched_core, State.modCore_core, if_pos rfl]
  unfold endedCmd
  rw [State.cmd, hcore]
  exact freeCmd_ended ..

/-- The status of a packet of data is the number that its word is. -/
theorem argWord_eq (s : State) (i : Nat) {n : Nat} (hn : n < 2 ^ 64) : BitVec.ofNat 64 (s.argN i 8) = BitVec.ofNat 64 n ↔ s.argN i 8 = n := by
  have hlt : s.argN i 8 < 2 ^ 64 := ofBytes_slice_lt ..
  refine ⟨fun h => ?_, fun h => by rw [h]⟩
  have := congrArg BitVec.toNat h
  rwa [BitVec.toNat_ofNat, BitVec.toNat_ofNat, Nat.mod_eq_of_lt hlt, Nat.mod_eq_of_lt hn] at this

theorem exec_evhGetData_found (h : s.cmdWaiting s.arg.id = some m) : ∃ q e, exec .evhGetData s = .next (
    if s.argN 0 8 = 0 then { s with sched := q, dev := e }.cmdGot m (s.arg.bytes.drop 8) else { s with sched := q, dev := e }.cmdStatus m (s.argN 0 8)) := by
  obtain ⟨q, e, heq⟩ := answeredFrom_eq s s.arg.c
  have hexec : exec .evhGetData s = execEvhGetData s := rfl
  have hfound : { s with sched := q, dev := e }.cmdWaiting s.arg.id = some m := h
  refine ⟨q, e, ?_⟩
  rw [hexec, execEvhGetData, heq, hfound]

theorem exec_evhGetData_unasked (h : s.cmdWaiting s.arg.id = none) : ∃ q e, exec .evhGetData s = .next { s with sched := q, dev := e } := by
  obtain ⟨q, e, heq⟩ := answeredFrom_eq s s.arg.c
  have hexec : exec .evhGetData s = execEvhGetData s := rfl
  have hfound : { s with sched := q, dev := e }.cmdWaiting s.arg.id = none := h
  refine ⟨q, e, ?_⟩
  rw [hexec, execEvhGetData, heq, hfound]

/-- A transfer keeps the status of its request (R327). -/
theorem cmdStatus_kept {n : Nat} (hn : n ≠ 0x30) (h : isTransferCmd m = true) :
    s.cmdStatus m n = s.setCmd { m with waiting := 0, args := m.args.set 6 n } := (if_neg hn).trans (if_pos h)

/-- An uncorrectable error ends the command and becomes due at its thread (R304, R415). -/
theorem cmdStatus_uncorrectable (s : State) (h : m.cancelled = false) :
    s.cmdStatus m 0x30 = (s.setCmd { m with waiting := 0 }).faultCmd { m with waiting := 0 } 0x30 m.b := by
  refine (if_pos rfl).trans (if_neg ?_)
  rw [h]
  decide

theorem faultCmd_ended (s : State) (m : Cmd) (code : Nat) (v : Word) : endedCmd (s.faultCmd m code v) m := stopCmd_ended s m

theorem faultCmd_mem (s : State) (m : Cmd) (code : Nat) (v : Word) : (s.faultCmd m code v).mem = s.mem := markTouched_mem ..

theorem faultCmd_due (s : State) (m : Cmd) (code : Nat) (v : Word) :
    ((s.faultCmd m code v).thread m.core m.slot).due = (s.thread m.core m.slot).due ++ [⟨code, v, m.pc, false, false, 0, m.id⟩] := by
  have hthread : (s.stopCmd m).thread m.core m.slot = s.thread m.core m.slot := by
    rw [State.thread, State.stopCmd, markTouched_threads]
    rfl
  rw [State.faultCmd, modThread_same, hthread]

/-- Data brought for a command goes to it; so does a status (R327). -/
theorem getData_found (hw : s.cmdWaiting s.arg.id = some m) (hm : s.cmd m.core m.id = some m) :
    (BitVec.ofNat 64 (s.argN 0 8) = 0 → ∃ t : State, exec .evhGetData s = .next t ∧ t.mem = s.mem ∧ t.threads = s.threads ∧
      t.cmd m.core m.id = some { m with waiting := 0, data := m.data ++ s.arg.bytes.drop 8 }) ∧
    (BitVec.ofNat 64 (s.argN 0 8) = 1 → isTransferCmd m = true → ∃ t : State, exec .evhGetData s = .next t ∧ t.mem = s.mem ∧ t.threads = s.threads ∧
      t.cmd m.core m.id = some { m with waiting := 0, args := m.args.set 6 1 }) ∧
    (BitVec.ofNat 64 (s.argN 0 8) = 0x30 → m.cancelled = false → ∃ (t : State) (z : Cause), exec .evhGetData s = .next t ∧ t.mem = s.mem ∧ endedCmd t m ∧
      z.code = 0x30 ∧ z.pc = m.pc ∧ (t.thread m.core m.slot).due = (s.thread m.core m.slot).due ++ [z]) := by
  obtain ⟨q, e, hexec⟩ := exec_evhGetData_found hw
  have hsome : ({ s with sched := q, dev := e }.cmd m.core m.id).isSome = true := by
    change (s.cmd m.core m.id).isSome = true
    rw [hm]
    rfl
  refine ⟨fun h => ?_, fun h ht => ?_, fun h hc => ?_⟩
  · rw [if_pos ((argWord_eq s 0 (n := 0) (by decide)).mp h)] at hexec
    exact ⟨_, hexec, rfl, rfl, setCmd_cmd (p := { m with waiting := 0, data := m.data ++ s.arg.bytes.drop 8 }) hsome⟩
  · have hn := (argWord_eq s 0 (n := 1) (by decide)).mp h
    rw [hn, if_neg (by decide), cmdStatus_kept (by decide) ht] at hexec
    exact ⟨_, hexec, rfl, rfl, setCmd_cmd (p := { m with waiting := 0, args := m.args.set 6 1 }) hsome⟩
  · have hn := (argWord_eq s 0 (n := 0x30) (by decide)).mp h
    rw [hn, if_neg (by decide), cmdStatus_uncorrectable _ hc] at hexec
    exact ⟨_, _, hexec, faultCmd_mem .., faultCmd_ended _ { m with waiting := 0 } .., rfl, rfl, faultCmd_due _ { m with waiting := 0 } ..⟩

end

/-! ### Acknowledgements (R137, R258, R438) -/

section
variable {s : State} {o : Op} {c h : Nat}

theorem exec_evhAcknowledgement_none (h0 : s.arg.id = 0) : exec .evhAcknowledgement s = .next (s.answeredFrom s.arg.c) := congrArg Host.Outcome.next (if_pos h0)

/-- The one word of an answer. -/
def State.ackWord (s : State) : Word := BitVec.ofNat 64 (s.argN 0 8)

theorem exec_evhAcknowledgement_word (h0 : s.arg.id ≠ 0) (hlen : s.arg.bytes.length = 8) :
    exec .evhAcknowledgement s = .next ((s.answeredFrom s.arg.c).acked s.arg.id [s.ackWord]) := by
  have hexec : exec .evhAcknowledgement s = execEvhAcknowledgement s := rfl
  rw [hexec, execEvhAcknowledgement, hlen, if_neg h0]
  rfl

theorem answeredFrom_opById (s : State) (d i : Nat) : (s.answeredFrom d).opById i = s.opById i := by
  obtain ⟨q, e, heq⟩ := answeredFrom_eq s d
  rw [heq]
  rfl

theorem acked_completes {i : Nat} {v : Word} (ho : s.opById i = some o) (hk : ∀ k ∈ [.pre, .home, .load, .vload, .atomic], o.kind ≠ k) :
    s.acked i [v] = s.complete o v := by
  rw [State.acked, ho]
  dsimp only
  split
  · next hkind => exact absurd hkind (hk _ (by simp))
  · next hkind => exact absurd hkind (hk _ (by simp))
  · next hkind => exact absurd hkind (hk _ (by simp))
  · next hkind => exact absurd hkind (hk _ (by simp))
  · next hkind => exact absurd hkind (hk _ (by simp))
  · rfl

/-- An arrival that has been answered holds no lock, and its thread arrives nowhere (R258). -/
def State.arrived (s : State) (o : Op) : State :=
  (s.modCore o.core fun k => { k with locks := k.locks.filter (·.cmd != o.id) }).modThread o.core o.slot fun t => { t with arriving := false }

theorem acked_arrival {i : Nat} {v : Word} (ho : s.opById i = some o) (hk : o.kind = .pre) : s.acked i [v] = (s.arrived o).complete o v := by
  rw [State.acked, ho]
  dsimp only
  rw [hk]
  dsimp only
  rw [State.arrivalAnswer]
  exact if_pos rfl

theorem arrived_locks (s : State) (o : Op) : ∀ l ∈ ((s.arrived o).core o.core).locks, l.cmd ≠ o.id := by
  intro l hl
  rw [State.arrived, State.modThread_core_of, State.modCore_core, if_pos rfl] at hl
  simpa using (List.mem_filter.mp hl).2

theorem arrived_arriving (s : State) (o : Op) : ((s.arrived o).thread o.core o.slot).arriving = false := by rw [State.arrived, modThread_same]

/-- The thread that waits for an answer has it. -/
theorem acked_waiter {i : Nat} {ws : List Word} (ho : s.opById i = none) (hcores : s.cores = []) (hr : s.replyWaiter i = some (c, h)) :
    s.acked i ws = s.modThread c h fun t => { t with wait := .got ws } := by
  rw [State.acked, ho, hcores, List.findSome?_nil, hr]

end

/-! ### Ownership tokens (R104, R384) -/

section
variable {s : State}

/-- What a packet about a token asks, the region it names, the home of that region, and the bytes it brings (R384, R438). -/
def State.tokenKind (s : State) : Nat := s.argN 0 4
def State.tokenOwn (s : State) : Nat := s.argN 8 8
def State.tokenHome (s : State) : Nat := s.tokenOwn * regionBytes / 2 ^ 40 % 2 ^ 15
def State.tokenBytes (s : State) : List Byte := padTo regionBytes (s.arg.bytes.drop 24)

theorem exec_evhToken_back (hk : s.tokenKind = 2) : exec .evhToken s = .next (s.returnToken s.tokenOwn) := if_pos hk

theorem exec_evhToken_misdirected (hk : s.tokenKind = 0) (hok : s.arg.ok = false) (hh : s.tokenHome ≠ s.dev.devno) :
    exec .evhToken s = .next (s.ack s.arg.c 0 []) := by
  have hown : decide (s.tokenHome = s.dev.devno) = false := decide_eq_false hh
  unfold State.tokenKind at hk
  unfold State.tokenHome State.tokenOwn at hown
  change execEvhToken s = _
  unfold execEvhToken
  dsimp only
  rw [if_neg (by omega), if_pos hk, hown, hok]
  rfl

/-- A request that has been acknowledged for a region of this device. -/
theorem exec_evhToken_asked (hk : s.tokenKind = 0) (hok : s.arg.ok = true) (hh : s.tokenHome = s.dev.devno) : exec .evhToken s =
    match s.tokenWay s.tokenOwn with
    | some w => .next (if (s.tokenOf (s.tokenOwn * regionBytes)).isSome ∨ !s.regionQuiet s.tokenOwn then s.packetLater .evhToken { s.arg with ok := true }
        else s.giveToken s.arg.c 1 0 s.tokenOwn w)
    | none => .next (s.packetLater .evhToken { s.arg with ok := true }) := by
  have hown : decide (s.tokenHome = s.dev.devno) = true := decide_eq_true hh
  unfold State.tokenKind at hk
  unfold State.tokenHome State.tokenOwn at hown
  change execEvhToken s = _
  unfold execEvhToken
  dsimp only
  rw [if_neg (by omega), if_pos hk, hown, hok]
  rfl

theorem arg_seen (hok : s.arg.ok = true) : { s.arg with ok := true } = s.arg := by
  rw [← hok]

theorem exec_evhToken_waits (hk : s.tokenKind = 0) (hok : s.arg.ok = true) (hh : s.tokenHome = s.dev.devno)
    (h : (s.tokenOf (s.tokenOwn * regionBytes)).isSome = true ∨ s.tokenWay s.tokenOwn = none ∨ s.regionQuiet s.tokenOwn = false) :
    exec .evhToken s = .next (s.packetLater .evhToken s.arg) := by
  rw [exec_evhToken_asked hk hok hh, arg_seen hok]
  cases hway : s.tokenWay s.tokenOwn with
  | none => rfl
  | some w =>
    have hbusy : (s.tokenOf (s.tokenOwn * regionBytes)).isSome = true ∨ (!s.regionQuiet s.tokenOwn) = true := by
      rcases h with h | h | h
      · exact .inl h
      · exact absurd (hway.symm.trans h) (by simp)
      · exact .inr (by rw [h]; rfl)
    exact congrArg Host.Outcome.next (if_pos hbusy)

theorem exec_evhToken_gives {w : Nat} (hk : s.tokenKind = 0) (hok : s.arg.ok = true) (hh : s.tokenHome = s.dev.devno)
    (hfree : s.tokenOf (s.tokenOwn * regionBytes) = none) (hway : s.tokenWay s.tokenOwn = some w) (hq : s.regionQuiet s.tokenOwn = true) :
    exec .evhToken s = .next (s.giveToken s.arg.c 1 0 s.tokenOwn w) := by
  rw [exec_evhToken_asked hk hok hh, hway]
  exact congrArg Host.Outcome.next (if_neg (by simp [hfree, hq]))

/-- A packet that leaves is on its way, or waits while the other routing bank serves its device (R137). -/
theorem sendPacket_leaves (s : State) (p : Packet) :
    { p with bank := s.dev.rtInj, src := s.dev.devno } ∈ (s.sendPacket p).sched.fabric ∨
      { p with bank := s.dev.rtInj, src := s.dev.devno } ∈ (s.sendPacket p).sched.heldBack := by
  unfold State.sendPacket
  dsimp only
  split
  · exact .inr (List.mem_append_right _ (List.mem_singleton_self _))
  · exact .inl (List.mem_append_right _ (List.mem_singleton_self _))

theorem sendPacket_tokens (s : State) (p : Packet) : (s.sendPacket p).sched.tokens = s.sched.tokens := by
  obtain ⟨f, l, b, o, heq⟩ := sendPacket_parts s p
  rw [heq]

/-- The token of a region that is given away leaves with the region's bytes (R104, R384). -/
theorem giveToken_leaves (s : State) (d j r w : Nat) : ∃ p : Packet, (s.giveToken d 1 j r w).mem = s.mem ∧ (s.giveToken d 1 j r w).threads = s.threads ∧
    (s.giveToken d 1 j r w).sched.tokens = s.sched.tokens ++ [⟨false, true, 0, d, r, 0, 0, w, s.nextOp⟩] ∧
    (p ∈ (s.giveToken d 1 j r w).sched.fabric ∨ p ∈ (s.giveToken d 1 j r w).sched.heldBack) ∧
    p.dst = d ∧ p.cls = 0 ∧ p.ty = 13 ∧ p.tag = s.nextOp ∧ p.body.drop 24 = s.regionData r := by
  unfold State.giveToken State.tokenPacket
  dsimp only
  refine ⟨_, ?_, ?_, ?_, sendPacket_leaves .., rfl, rfl, rfl, rfl, ?_⟩
  · rw [sendPacket_mem]
    rfl
  · rw [sendPacket_keeps (g := State.threads) (fun _ _ _ => rfl)]
    rfl
  · rw [sendPacket_tokens]
    rfl
  · rw [← List.append_assoc]
    exact List.drop_left' (by simp)

/-! ### A region that comes with its token (R104, R384) -/

theorem ack_argN (d i : Nat) (ws : List Word) (a n : Nat) : (s.ack d i ws).argN a n = s.argN a n :=
  sendPacket_keeps (g := fun t => t.argN a n) (fun _ _ _ => rfl) ..

/-- Whom a region is for depends on the contexts and the threads alone. -/
theorem tokenFor_congr {t : State} (hc : t.ctxs = s.ctxs) (ht : t.threads = s.threads) (k j r : Nat) : t.tokenFor k j r = s.tokenFor k j r := by
  simp only [State.tokenFor, State.ctx, hc, ht]

section
variable (h0 : s.tokenKind ≠ 0) (h2 : s.tokenKind ≠ 2)
include h0 h2

/-- A region that no entry waits for takes one, and its bytes stand here in the next s-cycle. -/
theorem exec_evhToken_enters {w : Nat} (hh : s.tokenHome ≠ s.dev.devno) (hnone : s.tokenOf (s.tokenOwn * regionBytes) = none)
    (hway : s.tokenWay s.tokenOwn = some w) : exec .evhToken s = .next ((s.modTokens fun l => l ++ [⟨true, true,
      (s.tokenFor s.tokenKind (s.argN 4 4) s.tokenOwn).getD 0, s.arg.c, s.tokenOwn, s.arg.addr / regionBytes * regionBytes, s.argN 16 8 % 8, w, 0⟩]).packetLater
        .evhToken { s.arg with ok := true }) := by
  have hown : decide (s.tokenHome = s.dev.devno) = false := decide_eq_false hh
  unfold State.tokenOwn at hnone hway
  unfold State.tokenHome State.tokenOwn at hown
  change execEvhToken s = _
  unfold execEvhToken
  dsimp only
  refine (if_neg h2).trans ((if_neg h0).trans ?_)
  rw [hnone]
  dsimp only
  rw [hway, hown]
  rfl

/-- The bytes of a region have come for a thread or a job of this device. -/
theorem exec_evhToken_kept {k : Token} (hok : s.arg.ok = true) (hh : s.tokenHome ≠ s.dev.devno) (hk : s.tokenOf (s.tokenOwn * regionBytes) = some k)
    (hfor : (s.tokenFor s.tokenKind (s.argN 4 4) s.tokenOwn).isSome = true) : exec .evhToken s = .next
      (((s.put k.lcopy s.tokenBytes).modTokens fun l => l.map fun j => if j.region = s.tokenOwn then { j with busy := false } else j).ack s.arg.c s.arg.id [0]) := by
  have hown : decide (s.tokenHome = s.dev.devno) = false := decide_eq_false hh
  unfold State.tokenOwn at hk
  unfold State.tokenHome State.tokenOwn at hown
  change execEvhToken s = _
  unfold execEvhToken
  dsimp only
  refine (if_neg h2).trans ((if_neg h0).trans ?_)
  rw [hk]
  dsimp only
  rw [hok, hown]
  refine congrArg Host.Outcome.next (if_pos ?_)
  rw [tokenFor_congr (ack_ctxs ..) (ack_threads ..), ack_argN]
  exact hfor

/-- A region comes home: its entry goes and its bytes stand at their pages again. -/
theorem exec_evhToken_home {k : Token} (hok : s.arg.ok = true) (hh : s.tokenHome = s.dev.devno) (hk : s.tokenOf (s.tokenOwn * regionBytes) = some k) :
    exec .evhToken s = .next
      (((s.modTokens fun l => l.filter fun j => j.region != s.tokenOwn).putRegion s.tokenOwn s.tokenBytes).ack s.arg.c s.arg.id [0]) := by
  have hown : decide (s.tokenHome = s.dev.devno) = true := decide_eq_true hh
  unfold State.tokenOwn at hk
  unfold State.tokenHome State.tokenOwn at hown
  change execEvhToken s = _
  unfold execEvhToken
  dsimp only
  refine (if_neg h2).trans ((if_neg h0).trans ?_)
  rw [hk]
  dsimp only
  rw [hok, hown]
  rfl

end

/-- Where the bytes of a region stand again, only memory and its poison change. -/
theorem putRegion_eq (s : State) (r : Nat) (b : List Byte) : ∃ m p, s.putRegion r b = { s with mem := m, poison := p } := by
  unfold State.putRegion
  generalize List.range 32 = l
  induction l generalizing s with
  | nil => exact ⟨s.mem, s.poison, rfl⟩
  | cons i l ih =>
    rw [List.foldl_cons]
    split
    · obtain ⟨m, p, h⟩ := ih (s.put _ (slice b (65536 * i) 65536))
      exact ⟨m, p, h⟩
    · exact ih s

end

/-! ### The obligation -/

section
variable {s : State}

/-- What a store does where its packet is not held back. -/
theorem storeAnswered (hw : s.sourceWaits isTransfer = false) :
    (s.transferReach 1 = none → ∃ t : State, exec .evhStore s = .next t ∧ acks s t [1] ∧ t.mem = s.mem ∧ t.threads = s.threads) ∧
    (∀ x k key, s.transferReach 1 = some (x, k) → s.transferLen ≠ 0 → s.reachKeys k.l s.transferAddr s.transferLen = .keys [(key, s.transferLen)] →
      spOf key = none → ∃ t : State, exec .evhStore s = .next t ∧ acks s t [0] ∧ t.threads = s.threads ∧ t.mem = memPuts (s.fwd key) s.storeBytes s.mem) ∧
    (∀ x k d o, s.transferReach 1 = some (x, k) → s.transferLen ≠ 0 → o < 0x100000 → d < 512 →
      s.reachKeys k.l s.transferAddr s.transferLen = .keys [(spKey d o, s.transferLen)] → (s.core d).src = [] → s.farLock d o s.transferLen true = false →
      ∃ t : State, exec .evhStore s = .next t ∧ acks s t [0] ∧ t.threads = s.threads ∧ t.mem = memPuts (spKey d o) s.storeBytes s.mem) ∧
    (∀ x k, s.transferReach 1 = some (x, k) → s.transferLen = 0 → ∃ t : State, exec .evhStore s = .next t ∧ acks s t [0] ∧ t.mem = s.mem) := by
  refine ⟨fun hr => ?_, fun x k key hr hn hk hsp => ?_, fun x k d o hr hn ho hd hk hsrc hlock => ?_, fun x k hr hn => ?_⟩
  · exact ⟨_, exec_evhStore_refused hw hr, acks_ack (.refl s) _, ack_mem .., ack_threads ..⟩
  · have hexec := exec_evhStore_lands hw hr hn hk (spotWaits_elsewhere hsp true)
    obtain ⟨l, hland⟩ := land_elsewhere_eq (s := s) (c := 512) s.storeBytes hsp
    rw [landParts_elsewhere hsp (storeBytes_length s), hland] at hexec
    exact ⟨_, hexec, acks_ack (by exact ⟨rfl, rfl, rfl, rfl, rfl⟩) _, ack_threads .., ack_mem ..⟩
  · have hsp := spOf_spKey hd ho
    have hexec := exec_evhStore_lands hw hr hn hk (spotWaits_free hsp hsrc hlock)
    rw [landParts_scratchpad hsp (storeBytes_length s), land_no_source hd ho hsrc] at hexec
    exact ⟨_, hexec, acks_ack (by exact ⟨rfl, rfl, rfl, rfl, rfl⟩) _, ack_threads .., ack_mem ..⟩
  · exact ⟨_, exec_evhStore_empty hw hr hn, acks_ack (.refl s) _, ack_mem ..⟩

/-- What a read does where its packet is not held back. -/
theorem readAnswered (hw : s.sourceWaits isTransfer = false) :
    (s.transferReach 0 = none → ∃ t : State, exec .evhGetRequest s = .next t ∧ replied s t s.arg.id 3 (toBytes 8 1) ∧ t.mem = s.mem ∧ t.threads = s.threads) ∧
    (∀ x k ks, s.transferReach 0 = some (x, k) → s.reachKeys k.l s.transferAddr s.transferLen = .keys ks → s.spotWaits ks false = false →
      ∃ t : State, exec .evhGetRequest s = .next t ∧ t.mem = s.mem ∧ t.threads = s.threads ∧
        replied s t s.arg.id 3 (if (s.eccIn ks).isSome then toBytes 8 0x30 else toBytes 8 0 ++ ks.flatMap fun p => s.bytes p.1 p.2)) := by
  refine ⟨fun hr => ?_, fun x k ks hr hk hspot => ?_⟩
  · have hexec := exec_evhGetRequest_refused hw hr
    rw [State.getData, List.append_nil] at hexec
    exact ⟨_, hexec, replied_sendPacket (.refl s) .., sendPacket_mem .., sendPacket_keeps (g := State.threads) (fun _ _ _ => rfl) ..⟩
  · exact ⟨_, exec_evhGetRequest_read hw hr hk hspot, sendPacket_mem .., sendPacket_keeps (g := State.threads) (fun _ _ _ => rfl) .., replied_sendPacket (.refl s) ..⟩

/-- What an acknowledgement of one word does (R137, R258). -/
theorem acknowledgementsEnd :
    (s.arg.id = 0 → ∃ t : State, exec .evhAcknowledgement s = .next t ∧ t.mem = s.mem ∧ t.threads = s.threads ∧ t.ops = s.ops) ∧
    (∀ o, s.arg.id ≠ 0 → s.arg.bytes.length = 8 → s.opById s.arg.id = some o → (∀ k ∈ [.pre, .home, .load, .vload, .atomic], o.kind ≠ k) →
      exec .evhAcknowledgement s = .next ((s.answeredFrom s.arg.c).complete o s.ackWord)) ∧
    (∀ o, s.arg.id ≠ 0 → s.arg.bytes.length = 8 → s.opById s.arg.id = some o → o.kind = .pre → ∃ t : State,
      exec .evhAcknowledgement s = .next (t.complete o s.ackWord) ∧ t.mem = s.mem ∧ (∀ l ∈ (t.core o.core).locks, l.cmd ≠ o.id) ∧
      ((s.thread o.core o.slot).st ≠ .empty → (t.thread o.core o.slot).arriving = false)) ∧
    (∀ c h, s.arg.id ≠ 0 → s.arg.bytes.length = 8 → s.opById s.arg.id = none → s.cores = [] → s.replyWaiter s.arg.id = some (c, h) →
      ∃ t : State, exec .evhAcknowledgement s = .next t ∧ (t.thread c h).wait = .got [s.ackWord] ∧ t.mem = s.mem) := by
  obtain ⟨q, e, heq⟩ := answeredFrom_eq s s.arg.c
  refine ⟨fun h0 => ?_, fun o h0 hlen ho hk => ?_, fun o h0 hlen ho hk => ?_, fun c h h0 hlen ho hcores hr => ?_⟩
  · have hexec := exec_evhAcknowledgement_none h0
    rw [heq] at hexec
    exact ⟨_, hexec, rfl, rfl, rfl⟩
  · rw [exec_evhAcknowledgement_word h0 hlen, acked_completes ((answeredFrom_opById ..).trans ho) hk]
  · have hexec := exec_evhAcknowledgement_word h0 hlen
    rw [acked_arrival ((answeredFrom_opById ..).trans ho) hk] at hexec
    refine ⟨_, hexec, ?_, arrived_locks _ o, fun _ => arrived_arriving ..⟩
    rw [heq]
    rfl
  · have hexec := exec_evhAcknowledgement_word h0 hlen
    rw [heq, acked_waiter (s := { s with sched := q, dev := e }) ho hcores hr] at hexec
    refine ⟨_, hexec, ?_, rfl⟩
    rw [modThread_same]

/-- What a packet about a token does (R104, R384). -/
theorem tokensMove :
    (s.tokenKind = 2 → exec .evhToken s = .next (s.returnToken s.tokenOwn)) ∧
    (s.tokenKind = 0 → s.arg.ok = false → s.tokenHome ≠ s.dev.devno →
      ∃ t : State, exec .evhToken s = .next t ∧ replied s t 0 11 [] ∧ t.mem = s.mem ∧ t.sched.tokens = s.sched.tokens) ∧
    (s.tokenKind = 0 → s.arg.ok = true → s.tokenHome = s.dev.devno →
      (s.tokenOf (s.tokenOwn * regionBytes)).isSome = true ∨ s.tokenWay s.tokenOwn = none ∨ s.regionQuiet s.tokenOwn = false →
      ∃ t : State, exec .evhToken s = .next t ∧ putOff s t .evhToken) ∧
    (∀ y, s.tokenKind = 0 → s.arg.ok = true → s.tokenHome = s.dev.devno → s.tokenOf (s.tokenOwn * regionBytes) = none → s.tokenWay s.tokenOwn = some y →
      s.regionQuiet s.tokenOwn = true → ∃ (t : State) (p : Packet), exec .evhToken s = .next t ∧ t.mem = s.mem ∧ t.threads = s.threads ∧
      t.sched.tokens = s.sched.tokens ++ [⟨false, true, 0, s.arg.c, s.tokenOwn, 0, 0, y, s.nextOp⟩] ∧ (p ∈ t.sched.fabric ∨ p ∈ t.sched.heldBack) ∧
      p.dst = s.arg.c ∧ p.cls = 0 ∧ p.ty = 13 ∧ p.tag = s.nextOp ∧ p.body.drop 24 = s.regionData s.tokenOwn) ∧
    (∀ y, s.tokenKind ≠ 0 → s.tokenKind ≠ 2 → s.tokenHome ≠ s.dev.devno → s.tokenOf (s.tokenOwn * regionBytes) = none → s.tokenWay s.tokenOwn = some y →
      ∃ t : State, exec .evhToken s = .next t ∧ t.mem = s.mem ∧ t.threads = s.threads ∧
      t.sched.tokens = s.sched.tokens ++ [⟨true, true, (s.tokenFor s.tokenKind (s.argN 4 4) s.tokenOwn).getD 0, s.arg.c, s.tokenOwn,
        s.arg.addr / regionBytes * regionBytes, s.argN 16 8 % 8, y, 0⟩] ∧ t.laterSteps = s.laterSteps ++ [⟨.evhToken, { s.arg with ok := true }⟩]) ∧
    (∀ k, s.tokenKind ≠ 0 → s.tokenKind ≠ 2 → s.arg.ok = true → s.tokenHome ≠ s.dev.devno → s.tokenOf (s.tokenOwn * regionBytes) = some k →
      (s.tokenFor s.tokenKind (s.argN 4 4) s.tokenOwn).isSome = true → ∃ t : State, exec .evhToken s = .next t ∧ acks s t [0] ∧ t.threads = s.threads ∧
      t.mem = memPuts k.lcopy s.tokenBytes s.mem ∧ t.sched.tokens = s.sched.tokens.map fun j => if j.region = s.tokenOwn then { j with busy := false } else j) ∧
    (∀ k, s.tokenKind ≠ 0 → s.tokenKind ≠ 2 → s.arg.ok = true → s.tokenHome = s.dev.devno → s.tokenOf (s.tokenOwn * regionBytes) = some k →
      ∃ t : State, exec .evhToken s = .next t ∧ acks s t [0] ∧ t.threads = s.threads ∧ t.sched.tokens = s.sched.tokens.filter fun j => j.region != s.tokenOwn) := by
  refine ⟨exec_evhToken_back, fun hk hok hh => ?_, fun hk hok hh h => ?_, fun y hk hok hh hn hway hq => ?_, fun y h0 h2 hh hn hway => ?_,
    fun k h0 h2 hok hh hk hfor => ?_, fun k h0 h2 hok hh hk => ?_⟩
  · exact ⟨_, exec_evhToken_misdirected hk hok hh, replied_sendPacket (.refl s) .., ack_mem .., sendPacket_tokens ..⟩
  · exact ⟨_, exec_evhToken_waits hk hok hh h, rfl⟩
  · obtain ⟨p, hleaves⟩ := giveToken_leaves s s.arg.c 0 s.tokenOwn y
    exact ⟨_, p, exec_evhToken_gives hk hok hh hn hway hq, hleaves⟩
  · exact ⟨_, exec_evhToken_enters h0 h2 hh hn hway, rfl, rfl, rfl, rfl⟩
  · exact ⟨_, exec_evhToken_kept h0 h2 hok hh hk hfor, acks_ack (by exact ⟨rfl, rfl, rfl, rfl, rfl⟩) _, ack_threads .., ack_mem .., sendPacket_tokens ..⟩
  · have hexec := exec_evhToken_home h0 h2 hok hh hk
    obtain ⟨m, p, heq⟩ := putRegion_eq (s.modTokens fun l => l.filter fun j => j.region != s.tokenOwn) s.tokenOwn s.tokenBytes
    rw [heq] at hexec
    exact ⟨_, hexec, acks_ack (by exact ⟨rfl, rfl, rfl, rfl, rfl⟩) _, ack_threads .., sendPacket_tokens ..⟩

end

/-- Settles O54: each packet is taken by what its fields name, and what is sent back stands last on its line. -/
theorem evhornAccesses : Obligations.EvhornAccesses := by
  intro s
  refine ⟨fun h => ⟨⟨_, exec_evhStore_held h, rfl⟩, _, exec_evhGetRequest_held h, rfl⟩, fun hw => ?_, fun m hw hm => getData_found hw hm, fun hw => ?_, ?_⟩
  · obtain ⟨hrefused, helsewhere, hscratchpad, hempty⟩ := storeAnswered hw
    exact ⟨hrefused, helsewhere, hscratchpad, hempty, readAnswered hw⟩
  · obtain ⟨q, e, hexec⟩ := exec_evhGetData_unasked hw
    exact ⟨_, hexec, rfl, rfl, rfl⟩
  · obtain ⟨hnone, hcompletes, harrival, hwaiter⟩ := acknowledgementsEnd (s := s)
    exact ⟨hnone, hcompletes, harrival, hwaiter, tokensMove⟩

end Sys2Proof.Machine

/-! # Every step keeps memory's canonical form (R78, R85; log 1). -/

namespace Sys2Proof.Machine

open Sys2Proof.Claims

/-! ### What a stop, a body and an outcome leave of memory -/

section
variable {s : State} {α β : Type}

/-- What a stop leaves of the state has memory's form. -/
def Stop.KeepsMem : Stop → Prop
  | .park _ f | .wait _ f | .late f _ _ | .become f => ∀ s : State, Memory.wf s.mem = true → Memory.wf (f s).mem = true
  | .trap .. | .cause _ => True

/-- Run from a state whose memory has its form, the body leaves one, or stops with a stop that does. -/
def Ex.KeepsMem (x : Ex α) : Prop :=
  ∀ s : State, Memory.wf s.mem = true → match x s with
    | .ok r => Memory.wf r.2.mem = true
    | .error e => e.KeepsMem

/-- The next state, where there is one, has memory's form. -/
def KeepsMem (o : Out) : Prop := ∀ t, o = .next t → Memory.wf t.mem = true

@[simp] theorem keepsMem_next {t : State} : KeepsMem (.next t) ↔ Memory.wf t.mem = true :=
  ⟨fun h => h t rfl, fun h _ e => by cases e; exact h⟩

@[simp] theorem Ex.keepsMem_bind {x : Ex α} {f : α → Ex β} (hx : x.KeepsMem) (hf : ∀ a, (f a).KeepsMem) : (x >>= f).KeepsMem := by
  intro s h
  have hs := hx s h
  cases hxs : x s with
  | error e => rw [Ex.bind_error hxs]; rw [hxs] at hs; exact hs
  | ok r => rw [hxs] at hs; rw [Ex.bind_ok (t := r.2) (a := r.1) hxs]; exact hf r.1 r.2 hs

@[simp] theorem Ex.keepsMem_get_bind {f : State → Ex β} (hf : ∀ s : State, Memory.wf s.mem = true → (f s).KeepsMem) : (get >>= f : Ex β).KeepsMem :=
  fun s h => hf s h s h

@[simp] theorem Ex.keepsMem_get : (get : Ex State).KeepsMem := fun _ h => h
@[simp] theorem Ex.keepsMem_pure (a : α) : (pure a : Ex α).KeepsMem := fun _ h => h
@[simp] theorem Ex.keepsMem_throw {e : Stop} (h : e.KeepsMem) : (throw e : Ex α).KeepsMem := fun _ _ => h
@[simp] theorem Ex.keepsMem_set {t : State} (h : Memory.wf t.mem = true) : (set t : Ex PUnit).KeepsMem := fun _ _ => h

@[simp] theorem Ex.keepsMem_modify {f : State → State} (h : ∀ s, Memory.wf s.mem = true → Memory.wf (f s).mem = true) :
    (modify f : Ex PUnit).KeepsMem := h

@[simp] theorem keepsMem_trap (n : Nat) (v : Word) : (trap n v : Ex α).KeepsMem := fun _ _ => trivial

@[simp] theorem keepsMem_parkWith [Inhabited α] (n : Nat) {f : State → State} (hf : ∀ s, Memory.wf s.mem = true → Memory.wf (f s).mem = true) :
    (parkWith n f : Ex α).KeepsMem := by
  intro s h
  by_cases hp : s.latch.skip ≠ 0 ∧ s.latch.skip ≤ n
  · simpa only [parkWith, if_pos hp] using h
  · simp only [parkWith, if_neg hp]; exact hf

@[simp] theorem keepsMem_park [Inhabited α] (n : Nat) : (park n : Ex α).KeepsMem := by
  intro s h
  by_cases hp : s.latch.skip ≠ 0 ∧ s.latch.skip ≤ n
  · simpa only [park, if_pos hp] using h
  · simp only [park, if_neg hp]; exact fun _ h => h

@[simp] theorem Stop.keepsMem_park {n : Nat} {f : State → State} : (Stop.park n f).KeepsMem ↔ ∀ s :
    State, Memory.wf s.mem = true → Memory.wf (f s).mem = true := .rfl

@[simp] theorem Stop.keepsMem_wait {n : Nat} {f : State → State} : (Stop.wait n f).KeepsMem ↔ ∀ s :
    State, Memory.wf s.mem = true → Memory.wf (f s).mem = true := .rfl

@[simp] theorem Stop.keepsMem_late {f : State → State} {n : Nat} {v : Word} :
    (Stop.late f n v).KeepsMem ↔ ∀ s : State, Memory.wf s.mem = true → Memory.wf (f s).mem = true := .rfl

@[simp] theorem Stop.keepsMem_become {f : State → State} : (Stop.become f).KeepsMem ↔ ∀ s : State, Memory.wf s.mem = true → Memory.wf (f s).mem = true := .rfl
@[simp] theorem Stop.keepsMem_cause (z : Cause) : (Stop.cause z).KeepsMem := trivial
@[simp] theorem Stop.keepsMem_trap (n : Nat) (v : Word) : (Stop.trap n v).KeepsMem := trivial
@[simp] theorem keepsMem_modCur (f : Thread → Thread) : (modCur f).KeepsMem := fun _ h => h
@[simp] theorem keepsMem_modCurCtx (f : Ctx → Ctx) : (modCurCtx f).KeepsMem := fun _ h => h
@[simp] theorem keepsMem_modCurCore (f : Core → Core) : (modCurCore f).KeepsMem := fun _ h => h

@[simp] theorem Ex.keepsMem_map {f : α → β} {x : Ex α} (hx : x.KeepsMem) : (f <$> x).KeepsMem := by
  rw [map_eq_pure_bind]; exact Ex.keepsMem_bind hx fun _ => Ex.keepsMem_pure _

@[simp] theorem Ex.keepsMem_ite (c : Prop) [Decidable c] (x y : Ex α) : (if c then x else y).KeepsMem ↔ (c → x.KeepsMem) ∧ (¬ c → y.KeepsMem) := by
  split <;> simp [*]

/-- A check that may stop, before what goes on in either case. -/
theorem Ex.keepsMem_gate (c : Prop) [Decidable c] {x : Ex PUnit} {k : PUnit → Ex α} (hx : x.KeepsMem) (hk : ∀ r, (k r).KeepsMem) :
    (if c then x >>= k else k ⟨⟩).KeepsMem := by
  split
  · exact Ex.keepsMem_bind hx hk
  · exact hk _

theorem Ex.keepsMem_mapM {f : α → Ex β} (l : List α) (hf : ∀ a, (f a).KeepsMem) : (l.mapM f).KeepsMem := by
  induction l with
  | nil => simp
  | cons a l ih => simp [List.mapM_cons, hf a, ih]

theorem Ex.keepsMem_forM {f : α → Ex PUnit} (l : List α) (hf : ∀ a, (f a).KeepsMem) : (forM l f).KeepsMem := by
  induction l with
  | nil => simp
  | cons a l ih => rw [List.forM_cons]; exact Ex.keepsMem_bind (hf a) fun _ => ih

end

/-! ### Walks over a list -/

section
variable {α : Type} {f : State → α → State} (l : List α) (s : State)

@[simp] theorem foldl_mem (hf : ∀ s a, (f s a).mem = s.mem) : (l.foldl f s).mem = s.mem := by
  induction l generalizing s with
  | nil => rfl
  | cons a l ih => rw [List.foldl_cons, ih, hf]

@[simp] theorem foldl_wf (hf : ∀ s a, Memory.wf s.mem = true → Memory.wf (f s a).mem = true) (h : Memory.wf s.mem = true) :
    Memory.wf (l.foldl f s).mem = true := by
  induction l generalizing s with
  | nil => exact h
  | cons a l ih => exact ih _ (hf s a h)

end

@[simp] theorem put_wf {s : State} (a : Nat) (bs : List Byte) (h : Memory.wf s.mem = true) : Memory.wf (s.put a bs).mem = true := memPuts_wf a bs h

/-- Memory after either of two states. -/
@[simp] theorem ite_mem (c : Prop) [Decidable c] (s t : State) : (if c then s else t).mem = if c then s.mem else t.mem := apply_ite State.mem c s t

@[simp] theorem ite_wf (c : Prop) [Decidable c] (m n : List Host.Cell) :
    Memory.wf (if c then m else n) = true ↔ (c → Memory.wf m = true) ∧ (¬ c → Memory.wf n = true) := by
  split <;> simp [*]

@[simp] theorem ite_keepsMem (c : Prop) [Decidable c] (o p : Out) : KeepsMem (if c then o else p) ↔ (c → KeepsMem o) ∧ (¬ c → KeepsMem p) := by
  split <;> simp [*]

/-! ### Results that carry a state -/

/-- The state that a command's step leaves has memory's form. -/
def Did.KeepsMem : Did → Prop
  | .ok s | .last s | .waits s | .fault s _ _ => Memory.wf s.mem = true

/-- The state that an access leaves has memory's form. -/
def Got.KeepsMem : Got → Prop
  | .bytes s _ | .waits s => Memory.wf s.mem = true
  | .bad .. => True

/-- The state after a write of a control register has memory's form. -/
def Wrote.KeepsMem : Wrote → Prop
  | .ok s => Memory.wf s.mem = true
  | .error _ => True

/-- The state in what is found, where anything is, has memory's form. -/
def HeldIn {α : Type} (get : α → State) (o : Option α) : Prop := ∀ a, o = some a → Memory.wf (get a).mem = true

/-- The state in the line that is found has memory's form. -/
def Look.KeepsMem {α : Type} : Look (State × α) → Prop
  | .ok r => Memory.wf r.1.mem = true
  | _ => True

section
variable {s : State} {α β : Type} {get : α → State}

@[simp] theorem Did.keepsMem_ok : (Did.ok s).KeepsMem ↔ Memory.wf s.mem = true := .rfl
@[simp] theorem Did.keepsMem_last : (Did.last s).KeepsMem ↔ Memory.wf s.mem = true := .rfl
@[simp] theorem Did.keepsMem_waits : (Did.waits s).KeepsMem ↔ Memory.wf s.mem = true := .rfl
@[simp] theorem Did.keepsMem_fault (n : Nat) (v : Word) : (Did.fault s n v).KeepsMem ↔ Memory.wf s.mem = true := .rfl

@[simp] theorem Did.keepsMem_ite (c : Prop) [Decidable c] (d e : Did) : (if c then d else e).KeepsMem ↔ (c → d.KeepsMem) ∧ (¬ c → e.KeepsMem) := by
  split <;> simp [*]

theorem Did.wf_of_ok {d : Did} (h : d.KeepsMem) (e : d = .ok s) : Memory.wf s.mem = true := by rwa [e] at h
theorem Did.wf_of_last {d : Did} (h : d.KeepsMem) (e : d = .last s) : Memory.wf s.mem = true := by rwa [e] at h
theorem Did.wf_of_waits {d : Did} (h : d.KeepsMem) (e : d = .waits s) : Memory.wf s.mem = true := by rwa [e] at h
theorem Did.wf_of_fault {d : Did} {n : Nat} {v : Word} (h : d.KeepsMem) (e : d = .fault s n v) : Memory.wf s.mem = true := by rwa [e] at h

@[simp] theorem Got.keepsMem_bytes (b : List Byte) : (Got.bytes s b).KeepsMem ↔ Memory.wf s.mem = true := .rfl
@[simp] theorem Got.keepsMem_waits : (Got.waits s).KeepsMem ↔ Memory.wf s.mem = true := .rfl
@[simp] theorem Got.keepsMem_bad (n v : Nat) : (Got.bad n v).KeepsMem := trivial

@[simp] theorem Got.keepsMem_ite (c : Prop) [Decidable c] (d e : Got) : (if c then d else e).KeepsMem ↔ (c → d.KeepsMem) ∧ (¬ c → e.KeepsMem) := by
  split <;> simp [*]

theorem Got.wf_of_bytes {d : Got} {b : List Byte} (h : d.KeepsMem) (e : d = .bytes s b) : Memory.wf s.mem = true := by rwa [e] at h
theorem Got.wf_of_waits {d : Got} (h : d.KeepsMem) (e : d = .waits s) : Memory.wf s.mem = true := by rwa [e] at h

@[simp] theorem Wrote.keepsMem_ok : Wrote.KeepsMem (.ok s) ↔ Memory.wf s.mem = true := .rfl
@[simp] theorem Wrote.keepsMem_error (e : Nat × Word) : Wrote.KeepsMem (.error e) := trivial
@[simp] theorem Wrote.keepsMem_badValue (v : Nat) : Wrote.KeepsMem (badValue v) := trivial

@[simp] theorem Wrote.keepsMem_ite (c : Prop) [Decidable c] (d e : Wrote) :
    Wrote.KeepsMem (if c then d else e) ↔ (c → Wrote.KeepsMem d) ∧ (¬ c → Wrote.KeepsMem e) := by
  split <;> simp [*]

theorem Wrote.wf_of_ok {d : Wrote} (h : Wrote.KeepsMem d) (e : d = .ok s) : Memory.wf s.mem = true := by rwa [e] at h

@[simp] theorem heldIn_none : HeldIn get none := fun _ h => by cases h
@[simp] theorem heldIn_some (a : α) : HeldIn get (some a) ↔ Memory.wf (get a).mem = true := ⟨fun h => h a rfl, fun h _ e => by cases e; exact h⟩

@[simp] theorem heldIn_ite (c : Prop) [Decidable c] (o p : Option α) : HeldIn get (if c then o else p) ↔ (c → HeldIn get o) ∧ (¬ c → HeldIn get p) := by
  split <;> simp [*]

theorem HeldIn.wf {o : Option α} {a : α} (h : HeldIn get o) (e : o = some a) : Memory.wf (get a).mem = true := h a e

@[simp] theorem Look.keepsMem_ok (r : State × α) : (Look.ok r).KeepsMem ↔ Memory.wf r.1.mem = true := .rfl
@[simp] theorem Look.keepsMem_miss : (Look.miss : Look (State × α)).KeepsMem := trivial
@[simp] theorem Look.keepsMem_bad (n : Nat) : (Look.bad n : Look (State × α)).KeepsMem := trivial

@[simp] theorem Look.keepsMem_ite (c : Prop) [Decidable c] (d e : Look (State × α)) :
    (if c then d else e).KeepsMem ↔ (c → d.KeepsMem) ∧ (¬ c → e.KeepsMem) := by
  split <;> simp [*]

theorem Look.wf_of_ok {d : Look (State × α)} {r : State × α} (h : d.KeepsMem) (e : d = .ok r) : Memory.wf r.1.mem = true := by rwa [e] at h

theorem Look.wf_of_found {d : Look (State × α)} {a : α} (h : d.KeepsMem) (e : d = .ok (s, a)) : Memory.wf s.mem = true := by rwa [e] at h
theorem HeldIn.wf_id {o : Option State} (h : HeldIn id o) (e : o = some s) : Memory.wf s.mem = true := h s e
theorem HeldIn.wf_fst {o : Option (State × α)} {a : α} (h : HeldIn Prod.fst o) (e : o = some (s, a)) : Memory.wf s.mem = true := h _ e
theorem HeldIn.wf_snd {o : Option (α × State)} {a : α} (h : HeldIn Prod.snd o) (e : o = some (a, s)) : Memory.wf s.mem = true := h _ e

theorem wf_of_fst {p : State × α} {a : α} (h : Memory.wf p.1.mem = true) (e : p = (s, a)) : Memory.wf s.mem = true := by rwa [e] at h
theorem wf_of_snd {p : α × State} {a : α} (h : Memory.wf p.2.mem = true) (e : p = (a, s)) : Memory.wf s.mem = true := by rwa [e] at h

end

/-- A check that stops in one case and goes on alike in both. -/
theorem Ex.keepsMem_gates {α β : Type} (c : Prop) [Decidable c] {x y : Ex β} {k : β → Ex α} (hx : x.KeepsMem) (hy : y.KeepsMem) (hk : ∀ r, (k r).KeepsMem) :
    (if c then x >>= k else y >>= k).KeepsMem := by
  split
  · exact Ex.keepsMem_bind hx hk
  · exact Ex.keepsMem_bind hy hk

theorem Ex.keepsMem_gate_after {α : Type} (c : Prop) [Decidable c] {x : Ex PUnit} {k : PUnit → Ex α} (hx : x.KeepsMem) (hk : ∀ r, (k r).KeepsMem) :
    (if c then k ⟨⟩ else x >>= k).KeepsMem := by
  split
  · exact hk _
  · exact Ex.keepsMem_bind hx hk

/-- The same with the state that results named, where its memory is not to be evaluated. -/
theorem Ex.keepsMem_modify_result {f : State → State} (h : ∀ s t, t = f s → Memory.wf s.mem = true → Memory.wf t.mem = true) :
    (modify f : Ex PUnit).KeepsMem := fun s hs => h s _ rfl hs

theorem wf_of_ite {c : Prop} [Decidable c] {s t : State} (hs : c → Memory.wf s.mem = true) (ht : ¬ c → Memory.wf t.mem = true) :
    Memory.wf (if c then s else t).mem = true := by
  split
  · exact hs ‹_›
  · exact ht ‹_›

theorem foldl_wf_result {α : Type} {f : State → α → State} (l : List α) (s : State)
    (hf : ∀ s a t, t = f s a → Memory.wf s.mem = true → Memory.wf t.mem = true) (h : Memory.wf s.mem = true) : Memory.wf (l.foldl f s).mem = true :=
  foldl_wf l s (fun s a h => hf s a _ rfl h) h

theorem getD_wf {s : State} {o : Option State} (ho : HeldIn id o) (hm : Memory.wf s.mem = true) : Memory.wf (o.getD s).mem = true := by
  cases o with
  | none => exact hm
  | some t => exact ho t rfl

/-- Bytes that were read, or the state in which the step stopped, with memory's form. -/
def Fetched.KeepsMem : Except Did (List Byte) → Prop
  | .error d => d.KeepsMem
  | .ok _ => True

@[simp] theorem Fetched.keepsMem_error (d : Did) : Fetched.KeepsMem (.error d) ↔ d.KeepsMem := .rfl
@[simp] theorem Fetched.keepsMem_ok (b : List Byte) : Fetched.KeepsMem (.ok b) := trivial

@[simp] theorem Fetched.keepsMem_ite (c : Prop) [Decidable c] (d e : Except Did (List Byte)) :
    Fetched.KeepsMem (if c then d else e) ↔ (c → Fetched.KeepsMem d) ∧ (¬ c → Fetched.KeepsMem e) := by
  split <;> simp [*]

/-! ### Sys2Proof/Machine/Ops.lean -/

@[simp] theorem State.modSaved_mem (s : State) (thid : Nat) (f : Thread → Thread) : (State.modSaved s thid f).mem = s.mem := rfl
@[simp] theorem State.mapEvery_mem (s : State) (f : Thread → Thread) : (State.mapEvery s f).mem = s.mem := rfl
@[simp] theorem State.deliveredTo_mem (s : State) (dst cls : Nat) : (State.deliveredTo s dst cls).mem = s.mem := by
  simp only [State.deliveredTo]
  split <;> simp

@[simp] theorem State.answeredFrom_mem (s : State) (dst : Nat) : (State.answeredFrom s dst).mem = s.mem := by simp [State.answeredFrom]
@[simp] theorem State.count_mem (s : State) (c x h ev n : Nat) : (State.count s c x h ev n).mem = s.mem := by simp [State.count]
@[simp] theorem State.fireTrigger_mem (s : State) : (State.fireTrigger s).mem = s.mem := by simp [State.fireTrigger]
@[simp] theorem State.watch_mem (s : State) (c x h va n kind : Nat) : (State.watch s c x h va n kind).mem = s.mem := by simp [State.watch]
@[simp] theorem State.update_mem (s : State) (c e line : Nat) : (State.update s c e line).mem = s.mem := rfl
@[simp] theorem State.closeBatch_mem (s : State) (c e line : Nat) : (State.closeBatch s c e line).mem = s.mem := by simp [State.closeBatch]
@[simp] theorem State.closeAll_mem (s : State) (c : Nat) : (State.closeAll s c).mem = s.mem := by simp [State.closeAll]

@[simp] theorem State.openBatch_mem (s : State) (c e line : Nat) : (State.openBatch s c e line).mem = s.mem := by
  simp only [State.openBatch]
  repeat' split
  all_goals simp

@[simp] theorem State.updates_mem (s : State) (ps : List (Nat × Nat)) : (State.updates s ps).mem = s.mem := by simp [State.updates]

@[simp] theorem State.lay_wf (s : State) (c a : Nat) (bs : List Byte) (hm : Memory.wf s.mem = true) : Memory.wf (State.lay s c a bs).mem = true := by
  unfold State.lay
  split <;> simp [hm]

@[simp] theorem State.land_wf (s : State) (c a : Nat) (bs : List Byte) (hm : Memory.wf s.mem = true) : Memory.wf (State.land s c a bs).mem = true := by
  simp [State.land, hm]

@[simp] theorem State.landTogether_wf (s : State) {put : State → BufStore → State} (ps : List BufStore)
    (hp : ∀ s b, Memory.wf s.mem = true → Memory.wf (put s b).mem = true) (hm : Memory.wf s.mem = true) :
    Memory.wf (s.landTogether put ps).mem = true := by
  simpa only [State.landTogether, State.updates_mem] using foldl_wf ps s hp hm

@[simp] theorem State.dropOp_mem (s : State) (o : Op) : (State.dropOp s o).mem = s.mem := by simp [State.dropOp]

@[simp] theorem State.giveValue_mem (s : State) (o : Op) (v : Word) : (State.giveValue s o v).mem = s.mem := by
  simp only [State.giveValue]
  repeat' split
  all_goals simp

@[simp] theorem State.drawn_mem (s : State) : (State.drawn s).2.mem = s.mem := rfl
@[simp] theorem State.cancelCmds_mem (s : State) (c h : Nat) : (State.cancelCmds s c h).mem = s.mem := rfl

@[simp] theorem State.withdrawArrival_mem (s : State) (c h : Nat) : (State.withdrawArrival s c h).mem = s.mem := by
  simp only [State.withdrawArrival]
  repeat' split
  all_goals simp

@[simp] theorem State.leaveInstance_mem (s : State) (t : Thread) (done : Bool) : (State.leaveInstance s t done).mem = s.mem := by
  unfold State.leaveInstance
  split <;> simp

@[simp] theorem State.abandon_mem (s : State) (c h : Nat) : (State.abandon s c h).mem = s.mem := by simp [State.abandon]
@[simp] theorem State.leaveBanks_mem (s : State) (ids : List Nat) : (State.leaveBanks s ids).mem = s.mem := rfl
@[simp] theorem State.orphanOps_mem (s : State) (c h : Nat) : (State.orphanOps s c h).mem = s.mem := rfl

@[simp] theorem State.askInstance_mem (s : State) (c h : Nat) (i : Instance) (aop what : Nat) (ts : Word) :
    (State.askInstance s c h i aop what ts).mem = s.mem := by
  simp [State.askInstance]

@[simp] theorem State.toHandler_mem (s : State) (c h : Nat) : (State.toHandler s c h).mem = s.mem := by
  simp only [State.toHandler]
  split <;> simp

@[simp] theorem State.finishRestart_mem (s : State) (c h : Nat) : (State.finishRestart s c h).mem = s.mem := by simp [State.finishRestart]
@[simp] theorem State.startAnew_mem (s : State) (c h : Nat) : (State.startAnew s c h).mem = s.mem := by simp [State.startAnew]
@[simp] theorem State.abortTask_mem (s : State) (c h : Nat) : (State.abortTask s c h).mem = s.mem := by simp [State.abortTask]

@[simp] theorem State.checkHome_mem (s : State) (thid name : Nat) : (State.checkHome s thid name).mem = s.mem := by
  simp only [State.checkHome]
  repeat' split
  all_goals simp

@[simp] theorem State.conflictAt_mem (s : State) (c h : Nat) : (State.conflictAt s c h).mem = s.mem := by simp [State.conflictAt]

@[simp] theorem State.conflict_mem (s : State) (by_ : Thread) (name : Nat) : (State.conflict s by_ name).mem = s.mem := by
  unfold State.conflict
  split <;> simp

@[simp] theorem State.homePut_wf (s : State) (t : Thread) (a : Nat) (bs : List Byte) (hm : Memory.wf s.mem = true) :
    Memory.wf (State.homePut s t a bs).mem = true := by
  simp [State.homePut, hm]

@[simp] theorem State.landStore_wf (s : State) (c h : Nat) (b : BufStore) (hm : Memory.wf s.mem = true) : Memory.wf (State.landStore s c h b).mem = true := by
  simp [State.landStore, hm]

@[simp] theorem State.landBuf_wf (s : State) (c h : Nat) (hm : Memory.wf s.mem = true) : Memory.wf (State.landBuf s c h).mem = true := by
  unfold State.landBuf
  simp +contextual [*]

@[simp] theorem State.commit_wf (s : State) (c h : Nat) (hm : Memory.wf s.mem = true) : Memory.wf (State.commit s c h).mem = true := by
  simp [State.commit, hm]

@[simp] theorem State.serialise_wf (s : State) (c h : Nat) (hm : Memory.wf s.mem = true) : Memory.wf (State.serialise s c h).mem = true := by
  simp [State.serialise, hm]

@[simp] theorem State.channelOut_mem (s : State) (m : Nat) (rec : List Byte) : (State.channelOut s m rec).mem = s.mem := rfl
@[simp] theorem State.keepRecord_mem (s : State) (r : List Byte) : (State.keepRecord s r).mem = s.mem := rfl

@[simp] theorem State.flog_mem (s : State) (code cls core l : Nat) (tval : Word) : (State.flog s code cls core l tval).mem = s.mem := by
  simp [State.flog]

@[simp] theorem State.faultRecord_wf (s : State) (c h : Nat) (z : Cause) (cls replay : Nat) (hm : Memory.wf s.mem = true) :
    Memory.wf (State.faultRecord s c h z cls replay).mem = true := by
  simp [State.faultRecord, hm]

@[simp] theorem State.fatal_wf (s : State) (c h : Nat) (z : Cause) (cls replay : Nat) (hm : Memory.wf s.mem = true) :
    Memory.wf (State.fatal s c h z cls replay).mem = true := by
  simp [State.fatal, hm]

@[simp] theorem State.deliver_wf (s : State) (c h : Nat) (z : Cause) (hm : Memory.wf s.mem = true) : Memory.wf (State.deliver s c h z).mem = true := by
  simp [State.deliver, hm]

@[simp] theorem State.takePlain_wf (s : State) (c h : Nat) (z : Cause) (hm : Memory.wf s.mem = true) : Memory.wf (State.takePlain s c h z).mem = true := by
  unfold State.takePlain
  split <;> simp [hm]

@[simp] theorem State.takeNow_wf (s : State) (c h : Nat) (z : Cause) (hm : Memory.wf s.mem = true) : Memory.wf (State.takeNow s c h z).mem = true := by
  simp only [State.takeNow]
  repeat' split
  all_goals simp [hm]

@[simp] theorem State.pulse_mem (s : State) (z : Cause) : (State.pulse s z).mem = s.mem := by simp [State.pulse]

@[simp] theorem State.takeException_wf (s : State) (c h : Nat) (z : Cause) (hm : Memory.wf s.mem = true) :
    Memory.wf (State.takeException s c h z).mem = true := by
  simp [State.takeException, hm]

@[simp] theorem State.finish_mem (s : State) : (State.finish s).mem = s.mem := Machine.finish_mem s

@[simp] theorem State.stopped_wf (s : State) (aslot : Bool) {e : Stop} (he : e.KeepsMem) (hm : Memory.wf s.mem = true) :
    Memory.wf (s.stopped aslot e).mem = true := by
  cases e <;> simp_all [State.stopped]

@[simp] theorem State.slotStopped_wf (s : State) {e : Stop} (he : e.KeepsMem) (hm : Memory.wf s.mem = true) :
    Memory.wf (s.slotStopped e).mem = true := by
  cases e <;> simp_all [State.slotStopped]

@[simp] theorem waitSlot_keepsMem (w : Nat) : (waitSlot w).KeepsMem := by
  unfold waitSlot
  refine Ex.keepsMem_get_bind fun s _ => ?_
  repeat' split
  all_goals simp

@[simp] theorem Stop.settled_keepsMem {e : Stop} (he : e.KeepsMem) (body : Ex Unit) (s : State) : (e.settled body s).KeepsMem := by
  unfold Stop.settled
  split
  · simp only; split
    · exact he
    · simp
  · simp only; split
    · exact he
    · simp
  · exact he

@[simp] theorem runC_keepsMem (w : Nat) {body : Ex Unit} (hb : body.KeepsMem) {s : State} (hm : Memory.wf s.mem = true) : KeepsMem (runC w body s) := by
  have ha : (do waitSlot w; if s.latch.exec then body else pure () : Ex Unit).KeepsMem := by simp [hb]
  have hs := ha s hm
  simp only [runC]
  split <;> simp_all

@[simp] theorem runA_keepsMem (g : Guard) {body : Ex Unit} (hb : body.KeepsMem) {s : State} (hm : Memory.wf s.mem = true) : KeepsMem (runA g body s) := by
  have hs := hb s hm
  unfold runA
  repeat' split
  all_goals simp_all

/-! ### Sys2Proof/Machine/Operands.lean -/

@[simp] theorem State.putArea_wf (s : State) (l : Nat) (area : List Parked) (hm : Memory.wf s.mem = true) : Memory.wf (State.putArea s l area).mem = true := by
  simp [State.putArea, hm]

@[simp] theorem State.areaAdd_wf (s : State) (l : Nat) (p : Parked) (hm : Memory.wf s.mem = true) : Memory.wf (State.areaAdd s l p).mem = true := by
  simp [State.areaAdd, hm]

@[simp] theorem State.topUp_wf (s : State) (c x n : Nat) (hm : Memory.wf s.mem = true) : Memory.wf (State.topUp s c x n).mem = true := by
  induction n generalizing s with
  | zero => exact hm
  | succ n ih =>
    unfold State.topUp
    extract_lets k box mine enters fits
    clear_value fits enters
    split
    · exact ih _ (wf_of_ite (fun _ => State.putArea_wf _ _ _ hm) fun _ => State.putArea_wf _ _ _ hm)
    · exact hm

@[simp] theorem State.fillFromInbox_wf (s : State) (c x q : Nat) (answer : State → Nat → Nat → State)
    (ha : ∀ s i d, Memory.wf s.mem = true → Memory.wf (answer s i d).mem = true) (hm : Memory.wf s.mem = true) :
    Memory.wf (State.fillFromInbox s c x q answer).mem = true := by
  refine wf_of_ite (fun _ => ?_) fun _ => hm
  split
  · exact hm
  · exact ha _ _ _ hm

@[simp] theorem State.complete_mem (s : State) (o : Op) (v : Word) : (State.complete s o v).mem = s.mem := by simp [State.complete]

@[simp] theorem State.failOp_mem (s : State) (o : Op) (code : Nat) (tval : Word) : (State.failOp s o code tval).mem = s.mem := by
  unfold State.failOp
  split <;> simp

@[simp] theorem State.answer_mem (s : State) (id : Nat) (v : Word) : (State.answer s id v).mem = s.mem := by
  unfold State.answer
  split <;> simp

@[simp] theorem State.ackMsg_mem (s : State) (id dev : Nat) : (State.ackMsg s id dev).mem = s.mem := by simp [State.ackMsg]

@[simp] theorem State.moveMessages_wf (s : State) (c : Nat) (hm : Memory.wf s.mem = true) : Memory.wf (State.moveMessages s c).mem = true := by
  refine foldl_wf _ _ (fun s x h => ?_) hm
  extract_lets fill t n
  have ht : Memory.wf t.mem = true :=
    foldl_wf _ _ (fun s m h => wf_of_ite (fun _ => State.fillFromInbox_wf _ _ _ _ _ (fun s i d h => by simp [h]) h) fun _ => h) h
  clear_value t
  exact wf_of_ite (fun _ => h) fun _ => wf_of_ite (fun _ => ht) fun _ => State.topUp_wf _ _ _ _ ht

@[simp] theorem pushEnt_keepsMem (e : REnt) : (pushEnt e).KeepsMem := by
  unfold pushEnt
  refine Ex.keepsMem_get_bind fun s _ => ?_
  dsimp only
  split <;> simp

@[simp] theorem push_keepsMem (v : Word) : (push v).KeepsMem := by simp [push]
@[simp] theorem notePush_keepsMem (r : Nat) : (notePush r).KeepsMem := fun _ h => h

@[simp] theorem popQ_keepsMem (q : Nat) : (popQ q).KeepsMem := by
  unfold popQ
  refine Ex.keepsMem_get_bind fun s _ => ?_
  dsimp only
  repeat' split
  all_goals simp

@[simp] theorem pushQ_keepsMem (q : Nat) (e : QEnt) : (pushQ q e).KeepsMem := by simp [pushQ]

@[simp] theorem popPort_keepsMem (side : Nat) : (popPort side).KeepsMem := by
  unfold popPort
  refine Ex.keepsMem_get_bind fun s _ => ?_
  split
  · simp
  · dsimp only
    split <;> simp

@[simp] theorem pushPort_keepsMem (side : Nat) (e : QEnt) : (pushPort side e).KeepsMem := by
  unfold pushPort
  refine Ex.keepsMem_get_bind fun s _ => ?_
  split
  · simp
  · simp +contextual [*]

@[simp] theorem readReg_keepsMem (r : Nat) : (readReg r).KeepsMem := by
  unfold readReg
  refine Ex.keepsMem_get_bind fun s _ => ?_
  dsimp only
  repeat' split
  all_goals simp

@[simp] theorem src_keepsMem (r : BitVec 6) : (src r).KeepsMem := by simp [src]
@[simp] theorem srcShort_keepsMem (r : BitVec 5) : (srcShort r).KeepsMem := by simp [srcShort]
@[simp] theorem writeNamed_keepsMem (r : Nat) (v : Word) : (writeNamed r v).KeepsMem := by simp [writeNamed]
@[simp] theorem destNum_keepsMem (d : Nat) (v : Word) : (destNum d v).KeepsMem := by simp [destNum]
@[simp] theorem dest_keepsMem (d : BitVec 6) (v : Word) : (dest d v).KeepsMem := by simp [dest]
@[simp] theorem reserve_keepsMem (d id : Nat) : (reserve d id).KeepsMem := by simp [reserve]
@[simp] theorem setSlot_keepsMem (sb : Nat) : (setSlot sb).KeepsMem := by simp [setSlot]
@[simp] theorem issue_keepsMem (f : Op → Op) : (issue f).KeepsMem := fun _ h => h
@[simp] theorem issueTo_keepsMem (d : Nat) (f : Op → Op) : (issueTo d f).KeepsMem := by simp [issueTo]
@[simp] theorem vnum_keepsMem (i : Nat) : (vnum i).KeepsMem := by simp [vnum]
@[simp] theorem readV_keepsMem (i : Nat) : (readV i).KeepsMem := by simp [readV]
@[simp] theorem freeV_keepsMem (i : Nat) : (freeV i).KeepsMem := by simp [freeV]
@[simp] theorem writeV_keepsMem (n : Nat) (v : BitVec 4096) : (writeV n v).KeepsMem := fun _ h => h

/-! ### Sys2Proof/Machine/Flags.lean -/

@[simp] theorem writePred_keepsMem (i : BitVec 4) (v : Bool) : (writePred i v).KeepsMem := fun _ h => h
@[simp] theorem readPred_keepsMem (i : BitVec 4) : (readPred i).KeepsMem := fun _ h => h

/-! ### Sys2Proof/Machine/Access.lean -/

@[simp] theorem checkAccess_keepsMem (va : Word) (last align kind : Nat) : (checkAccess va last align kind).KeepsMem := by
  unfold checkAccess
  refine Ex.keepsMem_get_bind fun s _ => ?_
  split <;> simp

@[simp] theorem State.wayFor_mem (s : State) (used : List Nat) (n : Nat) : (State.wayFor s used n).2.mem = s.mem := by
  unfold State.wayFor
  split <;> simp

@[simp] theorem State.tlbFill_mem (s : State) (k : Nat) (e : Tlb) : (State.tlbFill s k e).mem = s.mem := by simp [State.tlbFill]
@[simp] theorem State.startWalk_mem (s : State) (k l va c x h : Nat) : (State.startWalk s k l va c x h).mem = s.mem := by simp [State.startWalk]
@[simp] theorem State.l1Fill_mem (s : State) (c : Nat) (e : Line) : (State.l1Fill s c e).mem = s.mem := by simp [State.l1Fill]

@[simp] theorem State.lineLoad_keepsMem (s : State) (c x h l va : Nat) (hm : Memory.wf s.mem = true) : (State.lineLoad s c x h l va).KeepsMem := by
  simp only [State.lineLoad]
  repeat' split
  all_goals simp [hm]

@[simp] theorem State.globLoad_keepsMem (s : State) (c x h l va n : Nat) (hm : Memory.wf s.mem = true) : (State.globLoad s c x h l va n).KeepsMem := by
  induction n generalizing s va with
  | zero => exact hm
  | succ n ih =>
    rw [State.globLoad]
    cases hl : s.lineLoad c x h l (va / 64 * 64) with
    | miss => trivial
    | bad k => trivial
    | ok p =>
      have hp := ih p.1 ((va / 64 + 1) * 64) (Look.wf_of_ok (State.lineLoad_keepsMem s c x h l _ hm) hl)
      dsimp only
      cases hg : p.1.globLoad c x h l ((va / 64 + 1) * 64) n with
      | miss => trivial
      | bad k => trivial
      | ok q =>
        rw [hg] at hp
        exact hp

@[simp] theorem memGate_keepsMem : (memGate).KeepsMem := by simp [memGate]

@[simp] theorem becomeSerial_keepsMem : (becomeSerial).KeepsMem := by
  unfold becomeSerial
  refine Ex.keepsMem_get_bind fun s _ => ?_
  split
  · simp
  · simp +contextual [*]

@[simp] theorem headGate_keepsMem : (headGate).KeepsMem := by simp [headGate]
@[simp] theorem ropeGate_keepsMem (va : Word) (own : Bool) : (ropeGate va own).KeepsMem := by simp [ropeGate]

@[simp] theorem tokenGate_keepsMem (va : Word) : (tokenGate va).KeepsMem := by
  unfold tokenGate
  refine Ex.keepsMem_get_bind fun s _ => ?_
  split
  · split
    · simp
    · split
      · simp
      · dsimp only
        split
        · simp
        · split
          · simp
          · simp +contextual [*]
  · simp

@[simp] theorem doLoad_keepsMem (f : Mem) (n : Nat) (sgn : Bool) : (doLoad f n sgn).KeepsMem := by
  unfold doLoad
  refine Ex.keepsMem_bind (by simp) fun a => ?_
  dsimp only
  refine Ex.keepsMem_bind (by simp) fun a => ?_
  refine Ex.keepsMem_bind (by simp) fun a => ?_
  simp

@[simp] theorem quotaGate_keepsMem (ps : List BufStore) : (quotaGate ps).KeepsMem := by simp [quotaGate]

@[simp] theorem landDirect_keepsMem (b : BufStore) : (landDirect b).KeepsMem := by
  unfold landDirect
  simp +contextual [*]

@[simp] theorem doStore_keepsMem (kind : OpKind) (va : Word) (ps : List BufStore) (sb : Nat) : (doStore kind va ps sb).KeepsMem := by
  unfold doStore
  refine Ex.keepsMem_get_bind fun s _ => ?_
  dsimp only
  refine Ex.keepsMem_bind (by simp) fun a => ?_
  split
  · split
    · refine Ex.keepsMem_bind (by simp) fun a => ?_
      split
      · refine Ex.keepsMem_get_bind fun s _ => ?_
        refine Ex.keepsMem_gate _ (by simp) fun _ => ?_
        refine Ex.keepsMem_bind ?_ fun a => ?_
        · refine Ex.keepsMem_forM _ fun a => ?_
          simp
        · simp
      · refine Ex.keepsMem_bind (by simp) fun a => ?_
        refine Ex.keepsMem_get_bind fun s _ => ?_
        refine Ex.keepsMem_gate _ (by simp) fun _ => ?_
        refine Ex.keepsMem_bind ?_ fun a => ?_
        · refine Ex.keepsMem_forM _ fun a => ?_
          simp
        · simp
    · split
      · refine Ex.keepsMem_get_bind fun s _ => ?_
        refine Ex.keepsMem_gate _ (by simp) fun _ => ?_
        refine Ex.keepsMem_bind ?_ fun a => ?_
        · refine Ex.keepsMem_forM _ fun a => ?_
          simp
        · simp
      · refine Ex.keepsMem_bind (by simp) fun a => ?_
        refine Ex.keepsMem_get_bind fun s _ => ?_
        refine Ex.keepsMem_gate _ (by simp) fun _ => ?_
        refine Ex.keepsMem_bind ?_ fun a => ?_
        · refine Ex.keepsMem_forM _ fun a => ?_
          simp
        · simp
  · simp

@[simp] theorem scalarStore_keepsMem (f : Mem) (n : Nat) : (scalarStore f n).KeepsMem := by
  unfold scalarStore
  refine Ex.keepsMem_bind (by simp) fun a => ?_
  refine Ex.keepsMem_bind (by simp) fun a => ?_
  dsimp only
  refine Ex.keepsMem_bind (by simp) fun a => ?_
  refine Ex.keepsMem_bind (by simp) fun a => ?_
  simp

/-! ### Sys2Proof/Machine/Tasks.lean -/

@[simp] theorem setDefer_keepsMem (d : Defer) : (setDefer d).KeepsMem := fun _ h => h

@[simp] theorem trapWord_keepsMem {α : Type} (code : Nat) : (trapWord code : Ex α).KeepsMem := by
  unfold trapWord
  exact Ex.keepsMem_get_bind fun s _ => keepsMem_trap _ _

@[simp] theorem endTask_keepsMem : (endTask).KeepsMem := by
  unfold endTask
  refine Ex.keepsMem_get_bind fun s _ => ?_
  dsimp only
  split
  · split
    · simp
    · split
      · simp
      · simp +contextual [*]
  · simp

@[simp] theorem State.modMember_mem (s : State) (r i : Nat) (f : RMem → RMem) : (State.modMember s r i f).mem = s.mem := rfl

@[simp] theorem State.endArrival_mem (s : State) (p : RPend) (v : Word) : (State.endArrival s p v).mem = s.mem := by
  simp only [State.endArrival]
  repeat' split
  all_goals simp

@[simp] theorem State.killNotice_mem (s : State) (dev thid : Nat) (w : Word) (now : Bool) : (State.killNotice s dev thid w now).mem = s.mem := by
  simp only [State.killNotice]
  repeat' split
  all_goals simp

@[simp] theorem State.startRelease_mem (s : State) (n : Nat) (short : Bool) : (State.startRelease s n short).mem = s.mem := by
  simp [State.startRelease]

@[simp] theorem State.shortTest_mem (s : State) (n : Nat) : (State.shortTest s n).mem = s.mem := by simp [State.shortTest]
@[simp] theorem State.memberLeaves_mem (s : State) (n i : Nat) : (State.memberLeaves s n i).mem = s.mem := by simp [State.memberLeaves]

@[simp] theorem State.memberGone_mem (s : State) (x2 : Option Member) : (State.memberGone s x2).mem = s.mem := by
  unfold State.memberGone
  split <;> simp

@[simp] theorem State.leaveRope_mem (s : State) (c h : Nat) : (State.leaveRope s c h).mem = s.mem := by simp [State.leaveRope]
@[simp] theorem State.killedAt_mem (s : State) (n i : Nat) : (State.killedAt s n i).mem = s.mem := by simp [State.killedAt]

@[simp] theorem State.killThread_mem (s : State) (c h : Nat) (w : Word) : (State.killThread s c h w).mem = s.mem := by
  unfold State.killThread
  split <;> simp

@[simp] theorem execTbeg_wf (s : State) (a : BitVec 6) (k : BitVec 2) (hm : Memory.wf s.mem = true) : KeepsMem (execTbeg a k s) := by
  unfold execTbeg
  refine runC_keepsMem _ ?_ hm
  dsimp only
  split
  · refine Ex.keepsMem_bind (by simp) fun a => ?_
    refine Ex.keepsMem_bind (by simp) fun a => ?_
    refine Ex.keepsMem_get_bind fun s _ => ?_
    simp +contextual [*]
  · refine Ex.keepsMem_bind (by simp) fun a => ?_
    refine Ex.keepsMem_bind (by simp) fun a => ?_
    refine Ex.keepsMem_get_bind fun s _ => ?_
    simp +contextual [*]

@[simp] theorem execTend_wf (s : State) (hm : Memory.wf s.mem = true) : KeepsMem (execTend s) := by simp [execTend, hm]

@[simp] theorem execTabort_wf (s : State) (hm : Memory.wf s.mem = true) : KeepsMem (execTabort s) := by
  unfold execTabort
  refine runC_keepsMem _ ?_ hm
  simp

@[simp] theorem execTserial_wf (s : State) (hm : Memory.wf s.mem = true) : KeepsMem (execTserial s) := by simp [execTserial, hm]

@[simp] theorem execTstamp_wf (s : State) (a : BitVec 6) (hm : Memory.wf s.mem = true) : KeepsMem (execTstamp a s) := by
  unfold execTstamp
  refine runC_keepsMem _ ?_ hm
  refine Ex.keepsMem_bind (by simp) fun a => ?_
  refine Ex.keepsMem_get_bind fun s _ => ?_
  dsimp only
  repeat' split
  all_goals simp

/-! ### Sys2Proof/Machine/Control.lean -/

@[simp] theorem checkPromises_keepsMem : (checkPromises).KeepsMem := by
  unfold checkPromises
  refine Ex.keepsMem_get_bind fun s _ => ?_
  dsimp only
  split <;> simp

@[simp] theorem execNop_wf (s : State) (hm : Memory.wf s.mem = true) : KeepsMem (execNop s) := by simp [execNop, hm]

@[simp] theorem execBr_wf (s : State) (n : BitVec 1) (p : BitVec 4) (o : BitVec 19) (hm : Memory.wf s.mem = true) : KeepsMem (execBr n p o s) := by
  simp [execBr, hm]

@[simp] theorem execJmp_wf (s : State) (o : BitVec 24) (hm : Memory.wf s.mem = true) : KeepsMem (execJmp o s) := by simp [execJmp, hm]
@[simp] theorem execJmpr_wf (s : State) (a : BitVec 6) (hm : Memory.wf s.mem = true) : KeepsMem (execJmpr a s) := by simp [execJmpr, hm]
@[simp] theorem roomCheck_keepsMem : (roomCheck).KeepsMem := by simp [roomCheck]
@[simp] theorem windowGate_keepsMem (back : Bool) : (windowGate back).KeepsMem := by simp [windowGate]

@[simp] theorem execCall_wf (s : State) (o : BitVec 24) (hm : Memory.wf s.mem = true) : KeepsMem (execCall o s) := by
  unfold execCall
  refine runC_keepsMem _ ?_ hm
  simp

@[simp] theorem execCallr_wf (s : State) (a : BitVec 6) (hm : Memory.wf s.mem = true) : KeepsMem (execCallr a s) := by
  unfold execCallr
  refine runC_keepsMem _ ?_ hm
  refine Ex.keepsMem_bind (by simp) fun a => ?_
  simp

@[simp] theorem execRet_wf (s : State) (hm : Memory.wf s.mem = true) : KeepsMem (execRet s) := by simp [execRet, hm]
@[simp] theorem execFrame_wf (s : State) (imm : BitVec 18) (hm : Memory.wf s.mem = true) : KeepsMem (execFrame imm s) := by simp [execFrame, hm]
@[simp] theorem execTrap_wf (s : State) (c : BitVec 12) (hm : Memory.wf s.mem = true) : KeepsMem (execTrap c s) := by simp [execTrap, hm]

@[simp] theorem sleepUntil_keepsMem (target : Nat) : (sleepUntil target).KeepsMem := by
  unfold sleepUntil
  refine Ex.keepsMem_get_bind fun s _ => ?_
  dsimp only
  split <;> simp +contextual [*]

@[simp] theorem execSleep_wf (s : State) (a : BitVec 6) (hm : Memory.wf s.mem = true) : KeepsMem (execSleep a s) := by simp [execSleep, hm]
@[simp] theorem execSleepRel_wf (s : State) (a : BitVec 6) (hm : Memory.wf s.mem = true) : KeepsMem (execSleepRel a s) := by simp [execSleepRel, hm]
@[simp] theorem execYield_wf (s : State) (hm : Memory.wf s.mem = true) : KeepsMem (execYield s) := by simp [execYield, hm]

@[simp] theorem execMovi_wf (s : State) (d : BitVec 6) (imm : BitVec 18) (hm : Memory.wf s.mem = true) : KeepsMem (execMovi d imm s) := by
  simp [execMovi, hm]

@[simp] theorem execMovhi_wf (s : State) (d : BitVec 6) (imm : BitVec 18) (hm : Memory.wf s.mem = true) : KeepsMem (execMovhi d imm s) := by
  simp [execMovhi, hm]

/-! ### Sys2Proof/Machine/Scalar.lean -/

@[simp] theorem alu2_keepsMem (f : Rrr) (op : Word → Word → Word) : (alu2 f op).KeepsMem := by simp [alu2]
@[simp] theorem alu1_keepsMem (d a : BitVec 6) (op : Word → Word) : (alu1 d a op).KeepsMem := by simp [alu1]
@[simp] theorem slow2_keepsMem (f : Rrr) (op : Word → Word → Word) : (slow2 f op).KeepsMem := by simp [slow2]

@[simp] theorem execAdd_wf (s : State) (g : Guard) (f : Rrr) (x : BitVec 1) (hm : Memory.wf s.mem = true) : KeepsMem (execAdd g f x s) := by
  simp [execAdd, hm]

@[simp] theorem execSub_wf (s : State) (g : Guard) (f : Rrr) (x : BitVec 1) (hm : Memory.wf s.mem = true) : KeepsMem (execSub g f x s) := by
  simp [execSub, hm]

@[simp] theorem execMul_wf (s : State) (g : Guard) (f : Rrr) (x : BitVec 1) (hm : Memory.wf s.mem = true) : KeepsMem (execMul g f x s) := by
  simp [execMul, hm]

@[simp] theorem execMin_wf (s : State) (g : Guard) (f : Rrr) (x : BitVec 1) (hm : Memory.wf s.mem = true) : KeepsMem (execMin g f x s) := by
  simp [execMin, hm]

@[simp] theorem execMax_wf (s : State) (g : Guard) (f : Rrr) (x : BitVec 1) (hm : Memory.wf s.mem = true) : KeepsMem (execMax g f x s) := by
  simp [execMax, hm]

@[simp] theorem execAnd_wf (s : State) (g : Guard) (f : Rrr) (hm : Memory.wf s.mem = true) : KeepsMem (execAnd g f s) := by simp [execAnd, hm]
@[simp] theorem execOr_wf (s : State) (g : Guard) (f : Rrr) (hm : Memory.wf s.mem = true) : KeepsMem (execOr g f s) := by simp [execOr, hm]
@[simp] theorem execXor_wf (s : State) (g : Guard) (f : Rrr) (hm : Memory.wf s.mem = true) : KeepsMem (execXor g f s) := by simp [execXor, hm]
@[simp] theorem execAndn_wf (s : State) (g : Guard) (f : Rrr) (hm : Memory.wf s.mem = true) : KeepsMem (execAndn g f s) := by simp [execAndn, hm]

@[simp] theorem execShl_wf (s : State) (g : Guard) (f : Rrr) (x : BitVec 1) (hm : Memory.wf s.mem = true) : KeepsMem (execShl g f x s) := by
  simp [execShl, hm]

@[simp] theorem execShr_wf (s : State) (g : Guard) (f : Rrr) (x : BitVec 1) (hm : Memory.wf s.mem = true) : KeepsMem (execShr g f x s) := by
  simp [execShr, hm]

@[simp] theorem execSar_wf (s : State) (g : Guard) (f : Rrr) (x : BitVec 1) (hm : Memory.wf s.mem = true) : KeepsMem (execSar g f x s) := by
  simp [execSar, hm]

@[simp] theorem execLea_wf (s : State) (g : Guard) (f : Rrr) (x : BitVec 1) (hm : Memory.wf s.mem = true) : KeepsMem (execLea g f x s) := by
  simp [execLea, hm]

@[simp] theorem execMulh_wf (s : State) (g : Guard) (f : Rrr) (x : BitVec 1) (hm : Memory.wf s.mem = true) : KeepsMem (execMulh g f x s) := by
  simp [execMulh, hm]

@[simp] theorem execDiv_wf (s : State) (g : Guard) (f : Rrr) (x : BitVec 1) (hm : Memory.wf s.mem = true) : KeepsMem (execDiv g f x s) := by
  simp [execDiv, hm]

@[simp] theorem execRem_wf (s : State) (g : Guard) (f : Rrr) (x : BitVec 1) (hm : Memory.wf s.mem = true) : KeepsMem (execRem g f x s) := by
  simp [execRem, hm]

@[simp] theorem execAddi_wf (s : State) (g : Guard) (d a : BitVec 6) (imm : BitVec 7) (hm : Memory.wf s.mem = true) : KeepsMem (execAddi g d a imm s) := by
  simp [execAddi, hm]

@[simp] theorem execAndi_wf (s : State) (g : Guard) (d a : BitVec 6) (imm : BitVec 7) (hm : Memory.wf s.mem = true) : KeepsMem (execAndi g d a imm s) := by
  simp [execAndi, hm]

@[simp] theorem execOri_wf (s : State) (g : Guard) (d a : BitVec 6) (imm : BitVec 7) (hm : Memory.wf s.mem = true) : KeepsMem (execOri g d a imm s) := by
  simp [execOri, hm]

@[simp] theorem execXori_wf (s : State) (g : Guard) (d a : BitVec 6) (imm : BitVec 7) (hm : Memory.wf s.mem = true) : KeepsMem (execXori g d a imm s) := by
  simp [execXori, hm]

@[simp] theorem execShli_wf (s : State) (g : Guard) (d a imm : BitVec 6) (hm : Memory.wf s.mem = true) : KeepsMem (execShli g d a imm s) := by
  simp [execShli, hm]

@[simp] theorem execShri_wf (s : State) (g : Guard) (d a imm : BitVec 6) (hm : Memory.wf s.mem = true) : KeepsMem (execShri g d a imm s) := by
  simp [execShri, hm]

@[simp] theorem execSari_wf (s : State) (g : Guard) (d a imm : BitVec 6) (hm : Memory.wf s.mem = true) : KeepsMem (execSari g d a imm s) := by
  simp [execSari, hm]

@[simp] theorem execAnop_wf (s : State) (g : Guard) (hm : Memory.wf s.mem = true) : KeepsMem (execAnop g s) := by simp [execAnop, hm]

@[simp] theorem execBext_wf (s : State) (g : Guard) (f : Rrr) (x : BitVec 1) (hm : Memory.wf s.mem = true) : KeepsMem (execBext g f x s) := by
  simp [execBext, hm]

@[simp] theorem execBins_wf (s : State) (g : Guard) (f : Rrr) (hm : Memory.wf s.mem = true) : KeepsMem (execBins g f s) := by
  unfold execBins
  refine runA_keepsMem _ ?_ hm
  refine Ex.keepsMem_bind (by simp) fun a => ?_
  simp

@[simp] theorem execClz_wf (s : State) (g : Guard) (d a : BitVec 6) (x : BitVec 1) (hm : Memory.wf s.mem = true) : KeepsMem (execClz g d a x s) := by
  simp [execClz, hm]

@[simp] theorem execCtz_wf (s : State) (g : Guard) (d a : BitVec 6) (x : BitVec 1) (hm : Memory.wf s.mem = true) : KeepsMem (execCtz g d a x s) := by
  simp [execCtz, hm]

@[simp] theorem execPopc_wf (s : State) (g : Guard) (d a : BitVec 6) (x : BitVec 1) (hm : Memory.wf s.mem = true) : KeepsMem (execPopc g d a x s) := by
  simp [execPopc, hm]

@[simp] theorem execSel_wf (s : State) (g : Guard) (p : BitVec 4) (e : BitVec 1) (a b : BitVec 6) (hm : Memory.wf s.mem = true) :
    KeepsMem (execSel g p e a b s) := by
  unfold execSel
  refine runA_keepsMem _ ?_ hm
  refine Ex.keepsMem_bind (by simp) fun a => ?_
  simp

@[simp] theorem execCmp_wf (s : State) (g : Guard) (p : BitVec 4) (a b : BitVec 6) (c : BitVec 3) (hm : Memory.wf s.mem = true) :
    KeepsMem (execCmp g p a b c s) := by
  unfold execCmp
  refine runA_keepsMem _ ?_ hm
  simp

@[simp] theorem execCmpi_wf (s : State) (g : Guard) (p : BitVec 4) (a imm : BitVec 6) (c : BitVec 3) (hm : Memory.wf s.mem = true) :
    KeepsMem (execCmpi g p a imm c s) := by
  simp [execCmpi, hm]

@[simp] theorem predSrc_keepsMem (f : Pp) : (predSrc f).KeepsMem := fun _ h => h
@[simp] theorem execPand_wf (s : State) (g : Guard) (f : Pp) (hm : Memory.wf s.mem = true) : KeepsMem (execPand g f s) := by simp [execPand, hm]
@[simp] theorem execPor_wf (s : State) (g : Guard) (f : Pp) (hm : Memory.wf s.mem = true) : KeepsMem (execPor g f s) := by simp [execPor, hm]
@[simp] theorem execPxor_wf (s : State) (g : Guard) (f : Pp) (hm : Memory.wf s.mem = true) : KeepsMem (execPxor g f s) := by simp [execPxor, hm]

@[simp] theorem execPnot_wf (s : State) (g : Guard) (d : BitVec 4) (e : BitVec 1) (a : BitVec 4) (hm : Memory.wf s.mem = true) :
    KeepsMem (execPnot g d e a s) := by
  simp [execPnot, hm]

@[simp] theorem execPpack_wf (s : State) (g : Guard) (d a : BitVec 6) (j : BitVec 2) (hm : Memory.wf s.mem = true) : KeepsMem (execPpack g d a j s) := by
  unfold execPpack
  refine runA_keepsMem _ ?_ hm
  simp

@[simp] theorem execPunpack_wf (s : State) (g : Guard) (a : BitVec 6) (j : BitVec 2) (hm : Memory.wf s.mem = true) : KeepsMem (execPunpack g a j s) := by
  simp [execPunpack, hm]

/-! ### Sys2Proof/Machine/ScalarFp.lean -/

@[simp] theorem drawMany_keepsMem (n : Nat) : (drawMany n).KeepsMem := by
  unfold drawMany
  refine Ex.keepsMem_get_bind fun s _ => ?_
  dsimp only
  split <;> simp

@[simp] theorem scalarRnd_keepsMem (rm : Nat) (ctl : Bool) : (scalarRnd rm ctl).KeepsMem := by simp [scalarRnd]
@[simp] theorem threadRM_keepsMem : (threadRM).KeepsMem := fun _ h => h
@[simp] theorem srcF_keepsMem (r : BitVec 6) : (srcF r).KeepsMem := by simp [srcF]
@[simp] theorem fpResult_keepsMem (op : Nat → Val) : (fpResult op).KeepsMem := by simp [fpResult]

@[simp] theorem fp2_keepsMem (f : Rrr) (op : Nat → Val → Val → Val) : (fp2 f op).KeepsMem := by
  unfold fp2
  refine Ex.keepsMem_bind (by simp) fun a => ?_
  simp

@[simp] theorem execFadd_wf (s : State) (g : Guard) (f : Rrr) (hm : Memory.wf s.mem = true) : KeepsMem (execFadd g f s) := by simp [execFadd, hm]
@[simp] theorem execFsub_wf (s : State) (g : Guard) (f : Rrr) (hm : Memory.wf s.mem = true) : KeepsMem (execFsub g f s) := by simp [execFsub, hm]
@[simp] theorem execFmul_wf (s : State) (g : Guard) (f : Rrr) (hm : Memory.wf s.mem = true) : KeepsMem (execFmul g f s) := by simp [execFmul, hm]

@[simp] theorem execFfma_wf (s : State) (g : Guard) (f : Rrr) (hm : Memory.wf s.mem = true) : KeepsMem (execFfma g f s) := by
  unfold execFfma
  refine runA_keepsMem _ ?_ hm
  refine Ex.keepsMem_bind (by simp) fun a => ?_
  refine Ex.keepsMem_bind (by simp) fun a => ?_
  simp

@[simp] theorem execFdiv_wf (s : State) (g : Guard) (f : Rrr) (hm : Memory.wf s.mem = true) : KeepsMem (execFdiv g f s) := by
  unfold execFdiv
  refine runA_keepsMem _ ?_ hm
  refine Ex.keepsMem_bind (by simp) fun a => ?_
  simp

@[simp] theorem execFsqrt_wf (s : State) (g : Guard) (d a : BitVec 6) (hm : Memory.wf s.mem = true) : KeepsMem (execFsqrt g d a s) := by
  unfold execFsqrt
  refine runA_keepsMem _ ?_ hm
  simp

@[simp] theorem fpMinMax_keepsMem (isMax : Bool) (f : Rrr) : (fpMinMax isMax f).KeepsMem := by
  unfold fpMinMax
  refine Ex.keepsMem_bind (by simp) fun a => ?_
  simp

@[simp] theorem execFmin_wf (s : State) (g : Guard) (f : Rrr) (hm : Memory.wf s.mem = true) : KeepsMem (execFmin g f s) := by simp [execFmin, hm]
@[simp] theorem execFmax_wf (s : State) (g : Guard) (f : Rrr) (hm : Memory.wf s.mem = true) : KeepsMem (execFmax g f s) := by simp [execFmax, hm]

@[simp] theorem execFcmp_wf (s : State) (g : Guard) (p : BitVec 4) (a b : BitVec 6) (c : BitVec 3) (hm : Memory.wf s.mem = true) :
    KeepsMem (execFcmp g p a b c s) := by
  unfold execFcmp
  refine runA_keepsMem _ ?_ hm
  simp

@[simp] theorem execFcvt_wf (s : State) (g : Guard) (d a k : BitVec 6) (x : BitVec 1) (hm : Memory.wf s.mem = true) : KeepsMem (execFcvt g d a k x s) := by
  unfold execFcvt
  refine runA_keepsMem _ ?_ hm
  refine Ex.keepsMem_bind (by simp) fun a => ?_
  simp

/-! ### Sys2Proof/Machine/Vector.lean -/

@[simp] theorem vecCtx_keepsMem : (vecCtx).KeepsMem := by
  unfold vecCtx
  refine Ex.keepsMem_get_bind fun s _ => ?_
  split
  · simp
  · dsimp only
    split
    · refine Ex.keepsMem_bind (by simp) fun a => ?_
      split <;> simp
    · refine Ex.keepsMem_bind (by simp) fun a => ?_
      split <;> simp

@[simp] theorem useUnit_keepsMem (n : Nat) : (useUnit n).KeepsMem := by simp [useUnit]
@[simp] theorem putV_keepsMem (i : Nat) (v : BitVec 4096) : (putV i v).KeepsMem := by simp [putV]

@[simp] theorem putVLater_keepsMem (i : Nat) (vs : List (BitVec 4096)) : (putVLater i vs).KeepsMem := by
  unfold putVLater
  refine Ex.keepsMem_bind ?_ fun a => ?_
  · refine Ex.keepsMem_mapM _ fun a => ?_
    simp
  · simp

@[simp] theorem pushLater_keepsMem (v : Word) : (pushLater v).KeepsMem := by simp [pushLater]

@[simp] theorem elementwise_keepsMem (c : VCtx) (n : Nat) (rounds : Bool) (f : Nat → Nat → Nat) (old : Nat → Nat) :
    (elementwise c n rounds f old).KeepsMem := by
  simp [elementwise]

@[simp] theorem vecMap_keepsMem (t vd : Nat) (rounds : Bool) (f : VCtx → Thread → Nat → Nat → Nat → Nat) : (vecMap t vd rounds f).KeepsMem := by
  unfold vecMap
  refine Ex.keepsMem_bind (by simp) fun a => ?_
  refine Ex.keepsMem_bind (by simp) fun a => ?_
  refine Ex.keepsMem_get_bind fun s _ => ?_
  simp

@[simp] theorem srcElem_keepsMem (t : Nat) (r : BitVec 6) : (srcElem t r).KeepsMem := by simp [srcElem]

@[simp] theorem vecArith_keepsMem (f : Vvv) (v : BitVec 2) (fi : ℤ → ℤ → ℤ) (ff : Nat → Val → Val → Val) : (vecArith f v fi ff).KeepsMem := by
  simp [vecArith]

@[simp] theorem vecArithS_keepsMem (f : Vvs) (fi : ℤ → ℤ → ℤ) (ff : Nat → Val → Val → Val) : (vecArithS f fi ff).KeepsMem := by simp [vecArithS]

@[simp] theorem execVadd_wf (s : State) (g : Guard) (f : Vvv) (v : BitVec 2) (hm : Memory.wf s.mem = true) : KeepsMem (execVadd g f v s) := by
  simp [execVadd, hm]

@[simp] theorem execVaddScalar_wf (s : State) (g : Guard) (f : Vvs) (hm : Memory.wf s.mem = true) : KeepsMem (execVaddScalar g f s) := by
  simp [execVaddScalar, hm]

@[simp] theorem execVsub_wf (s : State) (g : Guard) (f : Vvv) (v : BitVec 2) (hm : Memory.wf s.mem = true) : KeepsMem (execVsub g f v s) := by
  simp [execVsub, hm]

@[simp] theorem execVsubScalar_wf (s : State) (g : Guard) (f : Vvs) (hm : Memory.wf s.mem = true) : KeepsMem (execVsubScalar g f s) := by
  simp [execVsubScalar, hm]

@[simp] theorem execVmul_wf (s : State) (g : Guard) (f : Vvv) (v : BitVec 2) (hm : Memory.wf s.mem = true) : KeepsMem (execVmul g f v s) := by
  simp [execVmul, hm]

@[simp] theorem execVmulScalar_wf (s : State) (g : Guard) (f : Vvs) (hm : Memory.wf s.mem = true) : KeepsMem (execVmulScalar g f s) := by
  simp [execVmulScalar, hm]

@[simp] theorem execVfma_wf (s : State) (g : Guard) (f : Vvv) (v : BitVec 2) (hm : Memory.wf s.mem = true) : KeepsMem (execVfma g f v s) := by
  unfold execVfma
  refine runA_keepsMem _ ?_ hm
  simp

@[simp] theorem execVfmaScalar_wf (s : State) (g : Guard) (f : Vvs) (hm : Memory.wf s.mem = true) : KeepsMem (execVfmaScalar g f s) := by
  unfold execVfmaScalar
  refine runA_keepsMem _ ?_ hm
  simp

@[simp] theorem vecMinMax_keepsMem (isMax : Bool) (f : Vvv) : (vecMinMax isMax f).KeepsMem := by simp [vecMinMax]
@[simp] theorem execVmin_wf (s : State) (g : Guard) (f : Vvv) (hm : Memory.wf s.mem = true) : KeepsMem (execVmin g f s) := by simp [execVmin, hm]
@[simp] theorem execVmax_wf (s : State) (g : Guard) (f : Vvv) (hm : Memory.wf s.mem = true) : KeepsMem (execVmax g f s) := by simp [execVmax, hm]
@[simp] theorem vecBits_keepsMem (t vd va vb : Nat) (op : Nat → Nat → Nat → Nat) : (vecBits t vd va vb op).KeepsMem := by simp [vecBits]
@[simp] theorem execVand_wf (s : State) (g : Guard) (f : Vvv) (hm : Memory.wf s.mem = true) : KeepsMem (execVand g f s) := by simp [execVand, hm]
@[simp] theorem execVor_wf (s : State) (g : Guard) (f : Vvv) (hm : Memory.wf s.mem = true) : KeepsMem (execVor g f s) := by simp [execVor, hm]
@[simp] theorem execVxor_wf (s : State) (g : Guard) (f : Vvv) (hm : Memory.wf s.mem = true) : KeepsMem (execVxor g f s) := by simp [execVxor, hm]

@[simp] theorem execVnot_wf (s : State) (g : Guard) (t d a : BitVec 4) (hm : Memory.wf s.mem = true) : KeepsMem (execVnot g t d a s) := by
  simp [execVnot, hm]

@[simp] theorem execVshl_wf (s : State) (g : Guard) (f : Vvv) (hm : Memory.wf s.mem = true) : KeepsMem (execVshl g f s) := by simp [execVshl, hm]
@[simp] theorem execVshr_wf (s : State) (g : Guard) (f : Vvv) (hm : Memory.wf s.mem = true) : KeepsMem (execVshr g f s) := by simp [execVshr, hm]
@[simp] theorem execVsar_wf (s : State) (g : Guard) (f : Vvv) (hm : Memory.wf s.mem = true) : KeepsMem (execVsar g f s) := by simp [execVsar, hm]
@[simp] theorem vecShiftS_keepsMem (t vd : Nat) (sr : BitVec 6) (op : Nat → Nat → Nat → Nat) : (vecShiftS t vd sr op).KeepsMem := by simp [vecShiftS]

@[simp] theorem execVshlScalar_wf (s : State) (g : Guard) (t d : BitVec 4) (sr : BitVec 6) (hm : Memory.wf s.mem = true) :
    KeepsMem (execVshlScalar g t d sr s) := by
  simp [execVshlScalar, hm]

@[simp] theorem execVshrScalar_wf (s : State) (g : Guard) (t d : BitVec 4) (sr : BitVec 6) (hm : Memory.wf s.mem = true) :
    KeepsMem (execVshrScalar g t d sr s) := by
  simp [execVshrScalar, hm]

@[simp] theorem execVsarScalar_wf (s : State) (g : Guard) (t d : BitVec 4) (sr : BitVec 6) (hm : Memory.wf s.mem = true) :
    KeepsMem (execVsarScalar g t d sr s) := by
  simp [execVsarScalar, hm]

@[simp] theorem execVcmp_wf (s : State) (g : Guard) (f : Vvv) (c : BitVec 3) (hm : Memory.wf s.mem = true) : KeepsMem (execVcmp g f c s) := by
  unfold execVcmp
  refine runA_keepsMem _ ?_ hm
  dsimp only
  refine Ex.keepsMem_bind (by simp) fun a => ?_
  refine Ex.keepsMem_bind (by simp) fun a => ?_
  refine Ex.keepsMem_bind (by simp) fun a => ?_
  refine Ex.keepsMem_bind (by simp) fun a => ?_
  refine Ex.keepsMem_get_bind fun s _ => ?_
  simp

@[simp] theorem execVsel_wf (s : State) (g : Guard) (f : Vvv) (m : BitVec 3) (hm : Memory.wf s.mem = true) : KeepsMem (execVsel g f m s) := by
  unfold execVsel
  refine runA_keepsMem _ ?_ hm
  dsimp only
  refine Ex.keepsMem_bind (by simp) fun a => ?_
  simp

@[simp] theorem execVbcast_wf (s : State) (g : Guard) (t d : BitVec 4) (sr : BitVec 6) (hm : Memory.wf s.mem = true) : KeepsMem (execVbcast g t d sr s) := by
  simp [execVbcast, hm]

@[simp] theorem execVins_wf (s : State) (g : Guard) (t d : BitVec 4) (sr : BitVec 6) (hm : Memory.wf s.mem = true) : KeepsMem (execVins g t d sr s) := by
  simp [execVins, hm]

@[simp] theorem execVext_wf (s : State) (g : Guard) (t a : BitVec 4) (sr : BitVec 6) (hm : Memory.wf s.mem = true) : KeepsMem (execVext g t a sr s) := by
  unfold execVext
  refine runA_keepsMem _ ?_ hm
  refine Ex.keepsMem_bind (by simp) fun a => ?_
  refine Ex.keepsMem_bind (by simp) fun a => ?_
  simp

@[simp] theorem execVmov_wf (s : State) (g : Guard) (d a : BitVec 4) (hm : Memory.wf s.mem = true) : KeepsMem (execVmov g d a s) := by
  unfold execVmov
  refine runA_keepsMem _ ?_ hm
  simp

@[simp] theorem execVzero_wf (s : State) (g : Guard) (d : BitVec 4) (hm : Memory.wf s.mem = true) : KeepsMem (execVzero g d s) := by
  simp [execVzero, hm]

@[simp] theorem execVmovScalar_wf (s : State) (g : Guard) (d : BitVec 4) (sr : BitVec 6) (hm : Memory.wf s.mem = true) :
    KeepsMem (execVmovScalar g d sr s) := by
  unfold execVmovScalar
  refine runA_keepsMem _ ?_ hm
  simp

@[simp] theorem redFloat_keepsMem (op : Nat) (c : VCtx) (th : Thread) (dst : Ty) (init : Val) (l : List Val) : (redFloat op c th dst init l).KeepsMem := by
  simp [redFloat]

@[simp] theorem vecRed_keepsMem (op : Nat) (f : Vvv) : (vecRed op f).KeepsMem := by
  unfold vecRed
  dsimp only
  refine Ex.keepsMem_bind (by simp) fun a => ?_
  refine Ex.keepsMem_bind (by simp) fun a => ?_
  refine Ex.keepsMem_bind (by simp) fun a => ?_
  refine Ex.keepsMem_get_bind fun s _ => ?_
  simp

@[simp] theorem vecRedS_keepsMem (op : Nat) (t a : BitVec 4) (sr : BitVec 6) : (vecRedS op t a sr).KeepsMem := by
  unfold vecRedS
  dsimp only
  refine Ex.keepsMem_bind (by simp) fun a => ?_
  refine Ex.keepsMem_bind (by simp) fun a => ?_
  refine Ex.keepsMem_bind (by simp) fun a => ?_
  refine Ex.keepsMem_get_bind fun s _ => ?_
  simp

@[simp] theorem execVredsum_wf (s : State) (g : Guard) (f : Vvv) (hm : Memory.wf s.mem = true) : KeepsMem (execVredsum g f s) := by
  simp [execVredsum, hm]

@[simp] theorem execVredmin_wf (s : State) (g : Guard) (f : Vvv) (hm : Memory.wf s.mem = true) : KeepsMem (execVredmin g f s) := by
  simp [execVredmin, hm]

@[simp] theorem execVredmax_wf (s : State) (g : Guard) (f : Vvv) (hm : Memory.wf s.mem = true) : KeepsMem (execVredmax g f s) := by
  simp [execVredmax, hm]

@[simp] theorem execVredsumScalar_wf (s : State) (g : Guard) (t a : BitVec 4) (sr : BitVec 6) (hm : Memory.wf s.mem = true) :
    KeepsMem (execVredsumScalar g t a sr s) := by
  simp [execVredsumScalar, hm]

@[simp] theorem execVredminScalar_wf (s : State) (g : Guard) (t a : BitVec 4) (sr : BitVec 6) (hm : Memory.wf s.mem = true) :
    KeepsMem (execVredminScalar g t a sr s) := by
  simp [execVredminScalar, hm]

@[simp] theorem execVredmaxScalar_wf (s : State) (g : Guard) (t a : BitVec 4) (sr : BitVec 6) (hm : Memory.wf s.mem = true) :
    KeepsMem (execVredmaxScalar g t a sr s) := by
  simp [execVredmaxScalar, hm]

@[simp] theorem readIdx_keepsMem (t vb : Nat) : (readIdx t vb).KeepsMem := by
  unfold readIdx
  refine Ex.keepsMem_bind ?_ fun a => ?_
  · refine Ex.keepsMem_mapM _ fun a => ?_
    simp
  · simp

@[simp] theorem vecMove_keepsMem (t vd : Nat) (a : BitVec 4096) (f : Nat → Option Nat) : (vecMove t vd a f).KeepsMem := by
  unfold vecMove
  refine Ex.keepsMem_bind (by simp) fun a => ?_
  simp

@[simp] theorem execVperm_wf (s : State) (g : Guard) (f : Vvv) (hm : Memory.wf s.mem = true) : KeepsMem (execVperm g f s) := by
  unfold execVperm
  refine runA_keepsMem _ ?_ hm
  simp

@[simp] theorem execVslideup_wf (s : State) (g : Guard) (f : Vvs) (hm : Memory.wf s.mem = true) : KeepsMem (execVslideup g f s) := by
  unfold execVslideup
  refine runA_keepsMem _ ?_ hm
  simp

@[simp] theorem execVslidedn_wf (s : State) (g : Guard) (f : Vvs) (hm : Memory.wf s.mem = true) : KeepsMem (execVslidedn g f s) := by
  unfold execVslidedn
  refine runA_keepsMem _ ?_ hm
  simp

@[simp] theorem execVcompress_wf (s : State) (g : Guard) (f : Vvv) (hm : Memory.wf s.mem = true) : KeepsMem (execVcompress g f s) := by
  unfold execVcompress
  refine runA_keepsMem _ ?_ hm
  dsimp only
  refine Ex.keepsMem_bind (by simp) fun a => ?_
  refine Ex.keepsMem_bind (by simp) fun a => ?_
  refine Ex.keepsMem_bind (by simp) fun a => ?_
  simp

@[simp] theorem execVexpand_wf (s : State) (g : Guard) (f : Vvv) (hm : Memory.wf s.mem = true) : KeepsMem (execVexpand g f s) := by
  unfold execVexpand
  refine runA_keepsMem _ ?_ hm
  dsimp only
  refine Ex.keepsMem_bind (by simp) fun a => ?_
  refine Ex.keepsMem_bind (by simp) fun a => ?_
  simp

@[simp] theorem execVcvt_wf (s : State) (g : Guard) (f : Vvv) (x : BitVec 1) (hm : Memory.wf s.mem = true) : KeepsMem (execVcvt g f x s) := by
  simp [execVcvt, hm]

@[simp] theorem vecWiden_keepsMem (k w vd n : Nat) (rounds : Bool) (f : VCtx → Thread → Nat → Nat → Nat) : (vecWiden k w vd n rounds f).KeepsMem := by
  unfold vecWiden
  refine Ex.keepsMem_bind (by simp) fun a => ?_
  refine Ex.keepsMem_bind ?_ fun a => ?_
  · refine Ex.keepsMem_mapM _ fun a => ?_
    simp
  · refine Ex.keepsMem_get_bind fun s _ => ?_
    simp

@[simp] theorem vecWideArith_keepsMem (f : Vvv) (fi : ℤ → ℤ → ℤ) (ff : Nat → Val → Val → Val) : (vecWideArith f fi ff).KeepsMem := by
  simp [vecWideArith]

@[simp] theorem execVwadd_wf (s : State) (g : Guard) (f : Vvv) (hm : Memory.wf s.mem = true) : KeepsMem (execVwadd g f s) := by simp [execVwadd, hm]
@[simp] theorem execVwmul_wf (s : State) (g : Guard) (f : Vvv) (hm : Memory.wf s.mem = true) : KeepsMem (execVwmul g f s) := by simp [execVwmul, hm]
@[simp] theorem execVwcvt_wf (s : State) (g : Guard) (f : Vvv) (hm : Memory.wf s.mem = true) : KeepsMem (execVwcvt g f s) := by simp [execVwcvt, hm]

@[simp] theorem vecNarrow_keepsMem (k t vd : Nat) (rounds : Bool) (f : VCtx → Thread → Nat → Nat → Nat) : (vecNarrow k t vd rounds f).KeepsMem := by
  unfold vecNarrow
  refine Ex.keepsMem_bind (by simp) fun a => ?_
  refine Ex.keepsMem_bind (by simp) fun a => ?_
  refine Ex.keepsMem_get_bind fun s _ => ?_
  simp

@[simp] theorem execVnadd_wf (s : State) (g : Guard) (f : Vvv) (x : BitVec 1) (hm : Memory.wf s.mem = true) : KeepsMem (execVnadd g f x s) := by
  unfold execVnadd
  refine runA_keepsMem _ ?_ hm
  dsimp only
  refine Ex.keepsMem_bind ?_ fun a => ?_
  · refine Ex.keepsMem_mapM _ fun a => ?_
    simp
  · refine Ex.keepsMem_bind ?_ fun a => ?_
    · refine Ex.keepsMem_mapM _ fun a => ?_
      simp
    · split <;> simp

@[simp] theorem execVncvt_wf (s : State) (g : Guard) (f : Vvv) (x : BitVec 1) (hm : Memory.wf s.mem = true) : KeepsMem (execVncvt g f x s) := by
  unfold execVncvt
  refine runA_keepsMem _ ?_ hm
  dsimp only
  refine Ex.keepsMem_bind ?_ fun a => ?_
  · refine Ex.keepsMem_mapM _ fun a => ?_
    simp
  · simp

@[simp] theorem execVbmax_wf (s : State) (g : Guard) (t d a : BitVec 4) (b : BitVec 1) (hm : Memory.wf s.mem = true) : KeepsMem (execVbmax g t d a b s) := by
  unfold execVbmax
  refine runA_keepsMem _ ?_ hm
  refine Ex.keepsMem_bind (by simp) fun a => ?_
  simp

@[simp] theorem vecSpecial_keepsMem (fn : Nat) (t d a : BitVec 4) : (vecSpecial fn t d a).KeepsMem := by
  unfold vecSpecial
  dsimp only
  refine Ex.keepsMem_bind (by simp) fun a => ?_
  refine Ex.keepsMem_bind (by simp) fun a => ?_
  refine Ex.keepsMem_bind (by simp) fun a => ?_
  refine Ex.keepsMem_get_bind fun s _ => ?_
  simp

@[simp] theorem execVexp2_wf (s : State) (g : Guard) (t d a : BitVec 4) (hm : Memory.wf s.mem = true) : KeepsMem (execVexp2 g t d a s) := by
  simp [execVexp2, hm]

@[simp] theorem execVlog2_wf (s : State) (g : Guard) (t d a : BitVec 4) (hm : Memory.wf s.mem = true) : KeepsMem (execVlog2 g t d a s) := by
  simp [execVlog2, hm]

@[simp] theorem execVrcp_wf (s : State) (g : Guard) (t d a : BitVec 4) (hm : Memory.wf s.mem = true) : KeepsMem (execVrcp g t d a s) := by
  simp [execVrcp, hm]

@[simp] theorem execVrsqrt_wf (s : State) (g : Guard) (t d a : BitVec 4) (hm : Memory.wf s.mem = true) : KeepsMem (execVrsqrt g t d a s) := by
  simp [execVrsqrt, hm]

@[simp] theorem execVtanh_wf (s : State) (g : Guard) (t d a : BitVec 4) (hm : Memory.wf s.mem = true) : KeepsMem (execVtanh g t d a s) := by
  simp [execVtanh, hm]

@[simp] theorem execVsigm_wf (s : State) (g : Guard) (t d a : BitVec 4) (hm : Memory.wf s.mem = true) : KeepsMem (execVsigm g t d a s) := by
  simp [execVsigm, hm]

@[simp] theorem execVsqrt_wf (s : State) (g : Guard) (t d a : BitVec 4) (hm : Memory.wf s.mem = true) : KeepsMem (execVsqrt g t d a s) := by
  unfold execVsqrt
  refine runA_keepsMem _ ?_ hm
  dsimp only
  refine Ex.keepsMem_bind (by simp) fun a => ?_
  refine Ex.keepsMem_bind (by simp) fun a => ?_
  refine Ex.keepsMem_bind (by simp) fun a => ?_
  refine Ex.keepsMem_get_bind fun s _ => ?_
  simp

/-! ### Sys2Proof/Machine/LoadStore.lean -/

@[simp] theorem execLd1_wf (s : State) (f : Mem) (hm : Memory.wf s.mem = true) : KeepsMem (execLd1 f s) := by simp [execLd1, hm]
@[simp] theorem execLd2_wf (s : State) (f : Mem) (hm : Memory.wf s.mem = true) : KeepsMem (execLd2 f s) := by simp [execLd2, hm]
@[simp] theorem execLd4_wf (s : State) (f : Mem) (hm : Memory.wf s.mem = true) : KeepsMem (execLd4 f s) := by simp [execLd4, hm]
@[simp] theorem execLd8_wf (s : State) (f : Mem) (hm : Memory.wf s.mem = true) : KeepsMem (execLd8 f s) := by simp [execLd8, hm]
@[simp] theorem execLds1_wf (s : State) (f : Mem) (hm : Memory.wf s.mem = true) : KeepsMem (execLds1 f s) := by simp [execLds1, hm]
@[simp] theorem execLds2_wf (s : State) (f : Mem) (hm : Memory.wf s.mem = true) : KeepsMem (execLds2 f s) := by simp [execLds2, hm]
@[simp] theorem execLds4_wf (s : State) (f : Mem) (hm : Memory.wf s.mem = true) : KeepsMem (execLds4 f s) := by simp [execLds4, hm]
@[simp] theorem execSt1_wf (s : State) (f : Mem) (hm : Memory.wf s.mem = true) : KeepsMem (execSt1 f s) := by simp [execSt1, hm]
@[simp] theorem execSt2_wf (s : State) (f : Mem) (hm : Memory.wf s.mem = true) : KeepsMem (execSt2 f s) := by simp [execSt2, hm]
@[simp] theorem execSt4_wf (s : State) (f : Mem) (hm : Memory.wf s.mem = true) : KeepsMem (execSt4 f s) := by simp [execSt4, hm]
@[simp] theorem execSt8_wf (s : State) (f : Mem) (hm : Memory.wf s.mem = true) : KeepsMem (execSt8 f s) := by simp [execSt8, hm]
@[simp] theorem convGate_keepsMem (d : Desc) : (convGate d).KeepsMem := by simp [convGate]
@[simp] theorem seedFor_keepsMem (rounds : Bool) (n : Nat) : (seedFor rounds n).KeepsMem := by simp [seedFor]

@[simp] theorem issueV_keepsMem (v : Nat) (f : Op → Op) : (issueV v f).KeepsMem := by
  unfold issueV
  refine Ex.keepsMem_bind (by simp) fun a => ?_
  simp

@[simp] theorem execLdv_wf (s : State) (f : VMem) (hm : Memory.wf s.mem = true) : KeepsMem (execLdv f s) := by
  unfold execLdv
  refine runC_keepsMem _ ?_ hm
  refine Ex.keepsMem_bind (by simp) fun a => ?_
  dsimp only
  refine Ex.keepsMem_bind (by simp) fun a => ?_
  refine Ex.keepsMem_bind (by simp) fun a => ?_
  refine Ex.keepsMem_get_bind fun s _ => ?_
  split
  · refine Ex.keepsMem_bind (by simp) fun a => ?_
    split
    · refine Ex.keepsMem_bind (by simp) fun a => ?_
      simp
    · simp
  · refine Ex.keepsMem_bind (by simp) fun a => ?_
    simp

@[simp] theorem execStv_wf (s : State) (f : VMem) (hm : Memory.wf s.mem = true) : KeepsMem (execStv f s) := by
  unfold execStv
  refine runC_keepsMem _ ?_ hm
  refine Ex.keepsMem_bind (by simp) fun a => ?_
  dsimp only
  refine Ex.keepsMem_bind (by simp) fun a => ?_
  refine Ex.keepsMem_bind (by simp) fun a => ?_
  refine Ex.keepsMem_get_bind fun s _ => ?_
  split
  · refine Ex.keepsMem_bind (by simp) fun a => ?_
    split <;> simp
  · simp

@[simp] theorem indexedBase_keepsMem (va : Word) (t : Nat) (store : Bool) : (indexedBase va t store).KeepsMem := by
  unfold indexedBase
  refine Ex.keepsMem_get_bind fun s _ => ?_
  dsimp only
  repeat' split
  all_goals simp

@[simp] theorem checkElems_keepsMem (x : Indexed) (va : Word) (t kind : Nat) (ix : List Nat) : (checkElems x va t kind ix).KeepsMem := by
  unfold checkElems
  refine Ex.keepsMem_get_bind fun s _ => ?_
  dsimp only
  repeat' split
  all_goals simp

@[simp] theorem execVldx_wf (s : State) (f : VIdx) (hm : Memory.wf s.mem = true) : KeepsMem (execVldx f s) := by
  unfold execVldx
  refine runC_keepsMem _ ?_ hm
  refine Ex.keepsMem_bind (by simp) fun a => ?_
  dsimp only
  refine Ex.keepsMem_bind (by simp) fun a => ?_
  refine Ex.keepsMem_bind (by simp) fun a => ?_
  refine Ex.keepsMem_bind (by simp) fun a => ?_
  refine Ex.keepsMem_bind (by simp) fun a => ?_
  refine Ex.keepsMem_bind (by simp) fun a => ?_
  refine Ex.keepsMem_bind (by simp) fun a => ?_
  refine Ex.keepsMem_get_bind fun s _ => ?_
  split <;> simp

@[simp] theorem execVstx_wf (s : State) (f : VIdx) (hm : Memory.wf s.mem = true) : KeepsMem (execVstx f s) := by
  unfold execVstx
  refine runC_keepsMem _ ?_ hm
  refine Ex.keepsMem_bind (by simp) fun a => ?_
  dsimp only
  refine Ex.keepsMem_bind (by simp) fun a => ?_
  refine Ex.keepsMem_bind (by simp) fun a => ?_
  refine Ex.keepsMem_bind (by simp) fun a => ?_
  refine Ex.keepsMem_bind (by simp) fun a => ?_
  refine Ex.keepsMem_bind (by simp) fun a => ?_
  refine Ex.keepsMem_get_bind fun s _ => ?_
  split <;> simp

@[simp] theorem State.prefetchLine_mem (s : State) (c l va : Nat) : (State.prefetchLine s c l va).mem = s.mem := by
  simp only [State.prefetchLine]
  repeat' split
  all_goals simp

@[simp] theorem execPrefetch_wf (s : State) (a : BitVec 6) (w : BitVec 3) (imm : BitVec 6) (hm : Memory.wf s.mem = true) :
    KeepsMem (execPrefetch a w imm s) := by
  unfold execPrefetch
  refine runC_keepsMem _ ?_ hm
  simp

@[simp] theorem execTouch_wf (s : State) (a : BitVec 6) (w : BitVec 3) (imm : BitVec 6) (hm : Memory.wf s.mem = true) : KeepsMem (execTouch a w imm s) := by
  unfold execTouch
  refine runC_keepsMem _ ?_ hm
  refine Ex.keepsMem_bind (by simp) fun a => ?_
  dsimp only
  refine Ex.keepsMem_get_bind fun s _ => ?_
  split
  · simp
  · simp
  · split
    · simp +contextual [*]
    · simp

@[simp] theorem hostFlush_keepsMem (scope : Nat) : (hostFlush scope).KeepsMem := by
  unfold hostFlush
  refine Ex.keepsMem_get_bind fun s _ => ?_
  repeat' split
  all_goals simp

@[simp] theorem dropLines_keepsMem (scope bg : Nat) : (dropLines scope bg).KeepsMem := by simp [dropLines]

@[simp] theorem execFence_wf (s : State) (r sr : BitVec 4) (hm : Memory.wf s.mem = true) : KeepsMem (execFence r sr s) := by
  unfold execFence
  refine runC_keepsMem _ ?_ hm
  refine Ex.keepsMem_get_bind fun s _ => ?_
  dsimp only
  refine Ex.keepsMem_gate _ (by simp) fun _ => ?_
  refine Ex.keepsMem_gate _ (by simp) fun _ => ?_
  refine Ex.keepsMem_gate _ (by simp) fun _ => ?_
  refine Ex.keepsMem_bind (by simp) fun a => ?_
  refine Ex.keepsMem_gate _ (by simp) fun _ => ?_
  simp

@[simp] theorem execSbwait_wf (s : State) (m : BitVec 8) (hm : Memory.wf s.mem = true) : KeepsMem (execSbwait m s) := by
  unfold execSbwait
  refine runC_keepsMem _ ?_ hm
  refine Ex.keepsMem_get_bind fun s _ => ?_
  dsimp only
  repeat' split
  all_goals simp

@[simp] theorem fullEmpty_keepsMem (f : Mem) (store : Bool) : (fullEmpty f store).KeepsMem := by
  unfold fullEmpty
  dsimp only
  split
  · refine Ex.keepsMem_bind (by simp) fun a => ?_
    refine Ex.keepsMem_bind (by simp) fun a => ?_
    refine Ex.keepsMem_get_bind fun s _ => ?_
    split
    · split
      · refine Ex.keepsMem_bind (by simp) fun a => ?_
        refine Ex.keepsMem_bind (by simp) fun a => ?_
        refine Ex.keepsMem_bind (by simp) fun a => ?_
        simp
      · refine Ex.keepsMem_bind (by simp) fun a => ?_
        refine Ex.keepsMem_bind (by simp) fun a => ?_
        refine Ex.keepsMem_bind (by simp) fun a => ?_
        simp
      · refine Ex.keepsMem_bind (by simp) fun a => ?_
        refine Ex.keepsMem_bind (by simp) fun a => ?_
        refine Ex.keepsMem_bind (by simp) fun a => ?_
        simp
      · split
        · refine Ex.keepsMem_bind (by simp) fun a => ?_
          refine Ex.keepsMem_bind (by simp) fun a => ?_
          refine Ex.keepsMem_bind (by simp) fun a => ?_
          simp
        · refine Ex.keepsMem_bind (by simp) fun a => ?_
          refine Ex.keepsMem_bind (by simp) fun a => ?_
          simp
      · refine Ex.keepsMem_bind (by simp) fun a => ?_
        refine Ex.keepsMem_bind (by simp) fun a => ?_
        refine Ex.keepsMem_bind (by simp) fun a => ?_
        simp
    · refine Ex.keepsMem_bind (by simp) fun a => ?_
      split
      · refine Ex.keepsMem_bind (by simp) fun a => ?_
        refine Ex.keepsMem_bind (by simp) fun a => ?_
        refine Ex.keepsMem_bind (by simp) fun a => ?_
        simp
      · refine Ex.keepsMem_bind (by simp) fun a => ?_
        refine Ex.keepsMem_bind (by simp) fun a => ?_
        refine Ex.keepsMem_bind (by simp) fun a => ?_
        simp
      · refine Ex.keepsMem_bind (by simp) fun a => ?_
        refine Ex.keepsMem_bind (by simp) fun a => ?_
        refine Ex.keepsMem_bind (by simp) fun a => ?_
        simp
      · split
        · refine Ex.keepsMem_bind (by simp) fun a => ?_
          refine Ex.keepsMem_bind (by simp) fun a => ?_
          refine Ex.keepsMem_bind (by simp) fun a => ?_
          simp
        · refine Ex.keepsMem_bind (by simp) fun a => ?_
          refine Ex.keepsMem_bind (by simp) fun a => ?_
          simp
      · refine Ex.keepsMem_bind (by simp) fun a => ?_
        refine Ex.keepsMem_bind (by simp) fun a => ?_
        refine Ex.keepsMem_bind (by simp) fun a => ?_
        simp
  · refine Ex.keepsMem_bind (by simp) fun a => ?_
    refine Ex.keepsMem_bind (by simp) fun a => ?_
    refine Ex.keepsMem_get_bind fun s _ => ?_
    split
    · split
      · refine Ex.keepsMem_bind (by simp) fun a => ?_
        refine Ex.keepsMem_bind (by simp) fun a => ?_
        refine Ex.keepsMem_bind (by simp) fun a => ?_
        simp
      · refine Ex.keepsMem_bind (by simp) fun a => ?_
        refine Ex.keepsMem_bind (by simp) fun a => ?_
        refine Ex.keepsMem_bind (by simp) fun a => ?_
        simp
      · refine Ex.keepsMem_bind (by simp) fun a => ?_
        refine Ex.keepsMem_bind (by simp) fun a => ?_
        refine Ex.keepsMem_bind (by simp) fun a => ?_
        simp
      · split
        · refine Ex.keepsMem_bind (by simp) fun a => ?_
          refine Ex.keepsMem_bind (by simp) fun a => ?_
          refine Ex.keepsMem_bind (by simp) fun a => ?_
          simp
        · refine Ex.keepsMem_bind (by simp) fun a => ?_
          refine Ex.keepsMem_bind (by simp) fun a => ?_
          simp
      · refine Ex.keepsMem_bind (by simp) fun a => ?_
        refine Ex.keepsMem_bind (by simp) fun a => ?_
        refine Ex.keepsMem_bind (by simp) fun a => ?_
        simp
    · refine Ex.keepsMem_bind (by simp) fun a => ?_
      split
      · refine Ex.keepsMem_bind (by simp) fun a => ?_
        refine Ex.keepsMem_bind (by simp) fun a => ?_
        refine Ex.keepsMem_bind (by simp) fun a => ?_
        simp
      · refine Ex.keepsMem_bind (by simp) fun a => ?_
        refine Ex.keepsMem_bind (by simp) fun a => ?_
        refine Ex.keepsMem_bind (by simp) fun a => ?_
        simp
      · refine Ex.keepsMem_bind (by simp) fun a => ?_
        refine Ex.keepsMem_bind (by simp) fun a => ?_
        refine Ex.keepsMem_bind (by simp) fun a => ?_
        simp
      · split
        · refine Ex.keepsMem_bind (by simp) fun a => ?_
          refine Ex.keepsMem_bind (by simp) fun a => ?_
          refine Ex.keepsMem_bind (by simp) fun a => ?_
          simp
        · refine Ex.keepsMem_bind (by simp) fun a => ?_
          refine Ex.keepsMem_bind (by simp) fun a => ?_
          simp
      · refine Ex.keepsMem_bind (by simp) fun a => ?_
        refine Ex.keepsMem_bind (by simp) fun a => ?_
        refine Ex.keepsMem_bind (by simp) fun a => ?_
        simp

@[simp] theorem execLdfe_wf (s : State) (f : Mem) (hm : Memory.wf s.mem = true) : KeepsMem (execLdfe f s) := by simp [execLdfe, hm]
@[simp] theorem execStfe_wf (s : State) (f : Mem) (hm : Memory.wf s.mem = true) : KeepsMem (execStfe f s) := by simp [execStfe, hm]

/-! ### Sys2Proof/Machine/Atomic.lean -/

@[simp] theorem scopeGate_keepsMem (scope : Nat) : (scopeGate scope).KeepsMem := by
  unfold scopeGate
  refine Ex.keepsMem_get_bind fun s _ => ?_
  split
  · simp
  · dsimp only
    refine Ex.keepsMem_gate _ (by simp) fun _ => ?_
    simp

@[simp] theorem atomic_keepsMem (f : Atom) (aop : Nat) : (atomic f aop).KeepsMem := by
  unfold atomic
  dsimp only
  split
  · refine Ex.keepsMem_bind (by simp) fun a => ?_
    refine Ex.keepsMem_bind (by simp) fun a => ?_
    refine Ex.keepsMem_bind (by simp) fun a => ?_
    refine Ex.keepsMem_bind (by simp) fun a => ?_
    refine Ex.keepsMem_bind (by simp) fun a => ?_
    refine Ex.keepsMem_get_bind fun s _ => ?_
    refine Ex.keepsMem_gate _ (by simp) fun _ => ?_
    refine Ex.keepsMem_gate _ (by simp) fun _ => ?_
    refine Ex.keepsMem_bind (by simp) fun a => ?_
    simp
  · refine Ex.keepsMem_bind (by simp) fun a => ?_
    refine Ex.keepsMem_bind (by simp) fun a => ?_
    refine Ex.keepsMem_bind (by simp) fun a => ?_
    refine Ex.keepsMem_bind (by simp) fun a => ?_
    refine Ex.keepsMem_bind (by simp) fun a => ?_
    refine Ex.keepsMem_get_bind fun s _ => ?_
    refine Ex.keepsMem_gate _ (by simp) fun _ => ?_
    refine Ex.keepsMem_gate _ (by simp) fun _ => ?_
    refine Ex.keepsMem_bind (by simp) fun a => ?_
    simp

@[simp] theorem execAadd4_wf (s : State) (f : Atom) (hm : Memory.wf s.mem = true) : KeepsMem (execAadd4 f s) := by simp [execAadd4, hm]
@[simp] theorem execAadd8_wf (s : State) (f : Atom) (hm : Memory.wf s.mem = true) : KeepsMem (execAadd8 f s) := by simp [execAadd8, hm]
@[simp] theorem execAfadd_wf (s : State) (f : Atom) (hm : Memory.wf s.mem = true) : KeepsMem (execAfadd f s) := by simp [execAfadd, hm]
@[simp] theorem execAminS32_wf (s : State) (f : Atom) (hm : Memory.wf s.mem = true) : KeepsMem (execAminS32 f s) := by simp [execAminS32, hm]
@[simp] theorem execAminS64_wf (s : State) (f : Atom) (hm : Memory.wf s.mem = true) : KeepsMem (execAminS64 f s) := by simp [execAminS64, hm]
@[simp] theorem execAminU32_wf (s : State) (f : Atom) (hm : Memory.wf s.mem = true) : KeepsMem (execAminU32 f s) := by simp [execAminU32, hm]
@[simp] theorem execAminU64_wf (s : State) (f : Atom) (hm : Memory.wf s.mem = true) : KeepsMem (execAminU64 f s) := by simp [execAminU64, hm]
@[simp] theorem execAminF32_wf (s : State) (f : Atom) (hm : Memory.wf s.mem = true) : KeepsMem (execAminF32 f s) := by simp [execAminF32, hm]
@[simp] theorem execAmaxS32_wf (s : State) (f : Atom) (hm : Memory.wf s.mem = true) : KeepsMem (execAmaxS32 f s) := by simp [execAmaxS32, hm]
@[simp] theorem execAmaxS64_wf (s : State) (f : Atom) (hm : Memory.wf s.mem = true) : KeepsMem (execAmaxS64 f s) := by simp [execAmaxS64, hm]
@[simp] theorem execAmaxU32_wf (s : State) (f : Atom) (hm : Memory.wf s.mem = true) : KeepsMem (execAmaxU32 f s) := by simp [execAmaxU32, hm]
@[simp] theorem execAmaxU64_wf (s : State) (f : Atom) (hm : Memory.wf s.mem = true) : KeepsMem (execAmaxU64 f s) := by simp [execAmaxU64, hm]
@[simp] theorem execAmaxF32_wf (s : State) (f : Atom) (hm : Memory.wf s.mem = true) : KeepsMem (execAmaxF32 f s) := by simp [execAmaxF32, hm]
@[simp] theorem execAand_wf (s : State) (f : Atom) (hm : Memory.wf s.mem = true) : KeepsMem (execAand f s) := by simp [execAand, hm]
@[simp] theorem execAor_wf (s : State) (f : Atom) (hm : Memory.wf s.mem = true) : KeepsMem (execAor f s) := by simp [execAor, hm]
@[simp] theorem execAxor_wf (s : State) (f : Atom) (hm : Memory.wf s.mem = true) : KeepsMem (execAxor f s) := by simp [execAxor, hm]
@[simp] theorem execAswap4_wf (s : State) (f : Atom) (hm : Memory.wf s.mem = true) : KeepsMem (execAswap4 f s) := by simp [execAswap4, hm]
@[simp] theorem execAswap8_wf (s : State) (f : Atom) (hm : Memory.wf s.mem = true) : KeepsMem (execAswap8 f s) := by simp [execAswap8, hm]
@[simp] theorem execAcas_wf (s : State) (f : Atom) (hm : Memory.wf s.mem = true) : KeepsMem (execAcas f s) := by simp [execAcas, hm]

/-! ### Sys2Proof/Machine/Place.lean -/

@[simp] theorem State.grantV_mem (s : State) (c n : Nat) : (s.grantV c n).mem = s.mem := by
  induction n generalizing s with
  | zero => rfl
  | succ n ih =>
    simp only [State.grantV]
    repeat' split
    all_goals simp [ih]

@[simp] theorem State.grantAll_mem (s : State) (c : Nat) : (State.grantAll s c).mem = s.mem := by simp [State.grantAll]
@[simp] theorem State.modLaunchLevel_mem (s : State) (host num : Nat) (f : Level → Level) : (State.modLaunchLevel s host num f).mem = s.mem := rfl

@[simp] theorem State.placeThread_mem (s : State) (c x h : Nat) (pc : Word) (ks : List Word) (bpri : Nat) (mx sys xdev : Bool) (vw : Nat) :
    (State.placeThread s c x h pc ks bpri mx sys xdev vw).mem = s.mem := by
  simp [State.placeThread]

@[simp] theorem State.trySpawn_wf (s : State) (c : Nat) (r : SpawnReq) (hm : Memory.wf s.mem = true) : Memory.wf (State.trySpawn s c r).1.mem = true := by
  simp only [State.trySpawn]
  repeat' split
  all_goals simp [hm]

@[simp] theorem State.answerSpawn_mem (s : State) (r : SpawnReq) (v : Word) : (State.answerSpawn s r v).mem = s.mem := by simp [State.answerSpawn]

/-! ### Sys2Proof/Machine/ThreadInstr.lean -/

@[simp] theorem askAndWait_keepsMem (cause dev code : Nat) (ws : List Word) : (askAndWait cause dev code ws).KeepsMem := by
  unfold askAndWait
  refine Ex.keepsMem_get_bind fun s _ => ?_
  split <;> simp

@[simp] theorem spawnReq_keepsMem (f : Rrrr) : (spawnReq f).KeepsMem := by
  unfold spawnReq
  refine Ex.keepsMem_bind (by simp) fun a => ?_
  refine Ex.keepsMem_bind (by simp) fun a => ?_
  refine Ex.keepsMem_bind (by simp) fun a => ?_
  refine Ex.keepsMem_bind (by simp) fun a => ?_
  refine Ex.keepsMem_bind (by simp) fun a => ?_
  refine Ex.keepsMem_bind (by simp) fun a => ?_
  simp

@[simp] theorem execSpawn_wf (s : State) (f : Rrrr) (hm : Memory.wf s.mem = true) : KeepsMem (execSpawn f s) := by
  unfold execSpawn
  refine runC_keepsMem _ ?_ hm
  refine Ex.keepsMem_bind (by simp) fun a => ?_
  refine Ex.keepsMem_get_bind fun s _ => ?_
  dsimp only
  split
  · refine Ex.keepsMem_bind (by simp) fun a => ?_
    simp +contextual [*]
  · refine Ex.keepsMem_bind (by simp [*]) fun a => ?_
    simp

@[simp] theorem farSpawn_keepsMem (f : Rrrr) (x : Bool) : (farSpawn f x).KeepsMem := by
  unfold farSpawn
  refine Ex.keepsMem_bind (by simp) fun a => ?_
  refine Ex.keepsMem_get_bind fun s _ => ?_
  dsimp only
  refine Ex.keepsMem_gate _ (by simp) fun _ => ?_
  simp

@[simp] theorem execSpawnc_wf (s : State) (f : Rrrr) (hm : Memory.wf s.mem = true) : KeepsMem (execSpawnc f s) := by simp [execSpawnc, hm]
@[simp] theorem execSpawnx_wf (s : State) (f : Rrrr) (hm : Memory.wf s.mem = true) : KeepsMem (execSpawnx f s) := by simp [execSpawnx, hm]

@[simp] theorem execJoin_wf (s : State) (a : BitVec 6) (hm : Memory.wf s.mem = true) : KeepsMem (execJoin a s) := by
  unfold execJoin
  refine runC_keepsMem _ ?_ hm
  refine Ex.keepsMem_bind (by simp) fun a => ?_
  refine Ex.keepsMem_get_bind fun s _ => ?_
  dsimp only
  split
  · simp
  · split
    · simp
    · split
      · simp
      · split
        · simp +contextual [*]
        · simp

@[simp] theorem execExit_wf (s : State) (hm : Memory.wf s.mem = true) : KeepsMem (execExit s) := by
  unfold execExit
  refine runC_keepsMem _ ?_ hm
  refine Ex.keepsMem_get_bind fun s _ => ?_
  simp

@[simp] theorem execPrio_wf (s : State) (a : BitVec 6) (hm : Memory.wf s.mem = true) : KeepsMem (execPrio a s) := by
  unfold execPrio
  refine runC_keepsMem _ ?_ hm
  refine Ex.keepsMem_bind (by simp) fun a => ?_
  split <;> simp

@[simp] theorem execMigr_wf (s : State) (a : BitVec 6) (hm : Memory.wf s.mem = true) : KeepsMem (execMigr a s) := by
  unfold execMigr
  refine runC_keepsMem _ ?_ hm
  refine Ex.keepsMem_bind (by simp) fun a => ?_
  refine Ex.keepsMem_get_bind fun s _ => ?_
  dsimp only
  repeat' split
  all_goals simp

@[simp] theorem execKpt_wf (s : State) (hm : Memory.wf s.mem = true) : KeepsMem (execKpt s) := by
  unfold execKpt
  refine runC_keepsMem _ ?_ hm
  refine Ex.keepsMem_get_bind fun s _ => ?_
  split <;> simp

/-! ### Sys2Proof/Machine/Sync.lean -/

@[simp] theorem semNum_keepsMem (k : BitVec 1) (n : BitVec 6) : (semNum k n).KeepsMem := by simp [semNum]
@[simp] theorem putSem_keepsMem (k : BitVec 1) (n v : Nat) : (putSem k n v).KeepsMem := by simp [putSem]

@[simp] theorem execSinc_wf (s : State) (a n : BitVec 6) (k : BitVec 1) (hm : Memory.wf s.mem = true) : KeepsMem (execSinc a n k s) := by
  unfold execSinc
  refine runC_keepsMem _ ?_ hm
  refine Ex.keepsMem_bind (by simp) fun a => ?_
  simp

@[simp] theorem execSwait_wf (s : State) (a n : BitVec 6) (k : BitVec 1) (hm : Memory.wf s.mem = true) : KeepsMem (execSwait a n k s) := by
  unfold execSwait
  refine runC_keepsMem _ ?_ hm
  refine Ex.keepsMem_bind (by simp) fun a => ?_
  refine Ex.keepsMem_bind (by simp) fun a => ?_
  refine Ex.keepsMem_get_bind fun s _ => ?_
  repeat' split
  all_goals simp

@[simp] theorem execSget_wf (s : State) (d n : BitVec 6) (k : BitVec 1) (hm : Memory.wf s.mem = true) : KeepsMem (execSget d n k s) := by
  unfold execSget
  refine runC_keepsMem _ ?_ hm
  simp

@[simp] theorem execSset_wf (s : State) (a n : BitVec 6) (k : BitVec 1) (hm : Memory.wf s.mem = true) : KeepsMem (execSset a n k s) := by
  unfold execSset
  refine runC_keepsMem _ ?_ hm
  simp

@[simp] theorem execSmwait_wf (s : State) (d a : BitVec 6) (hm : Memory.wf s.mem = true) : KeepsMem (execSmwait d a s) := by
  unfold execSmwait
  refine runC_keepsMem _ ?_ hm
  refine Ex.keepsMem_bind (by simp) fun a => ?_
  refine Ex.keepsMem_get_bind fun s _ => ?_
  dsimp only
  repeat' split
  all_goals simp

@[simp] theorem State.endedTask_mem (s : State) (ended : Bool) : (State.endedTask s ended).mem = s.mem := by simp [State.endedTask]

@[simp] theorem execBar_wf (s : State) (r : BitVec 4) (hm : Memory.wf s.mem = true) : KeepsMem (execBar r s) := by
  unfold execBar
  refine runC_keepsMem _ ?_ hm
  dsimp only
  refine Ex.keepsMem_get_bind fun s _ => ?_
  split
  · simp
  · split
    · simp
    · simp
    · simp +contextual [*]
    · refine Ex.keepsMem_gate _ (by simp) fun _ => ?_
      simp +contextual [*]

@[simp] theorem execBarq_wf (s : State) (d : BitVec 6) (r : BitVec 4) (hm : Memory.wf s.mem = true) : KeepsMem (execBarq d r s) := by
  unfold execBarq
  refine runC_keepsMem _ ?_ hm
  dsimp only
  refine Ex.keepsMem_get_bind fun s _ => ?_
  split
  · simp
  · split
    · simp
    · simp
    · simp
    · split
      · simp
      · refine Ex.keepsMem_bind (by simp) fun a => ?_
        simp +contextual [*]

@[simp] theorem execBarqWait_wf (s : State) (r : BitVec 4) (hm : Memory.wf s.mem = true) : KeepsMem (execBarqWait r s) := by
  unfold execBarqWait
  refine runC_keepsMem _ ?_ hm
  dsimp only
  refine Ex.keepsMem_get_bind fun s _ => ?_
  repeat' split
  all_goals simp

@[simp] theorem State.fly_mem (s : State) (f : Flight) : (State.fly s f).mem = s.mem := rfl

@[simp] theorem State.sweepOn_mem (s : State) (c x n : Nat) : (State.sweepOn s c x n).mem = s.mem := by
  simp only [State.sweepOn]
  repeat' split
  all_goals simp

@[simp] theorem State.coreArrival_mem (s : State) (c x n : Nat) : (State.coreArrival s c x n).mem = s.mem := by simp [State.coreArrival]

@[simp] theorem State.arriveAt_mem (s : State) (src c x n : Nat) (rect : BitVec 32) (q : List (Nat × Nat)) :
    (State.arriveAt s src c x n rect q).mem = s.mem := by
  simp [State.arriveAt]

@[simp] theorem State.checkpoint_mem (s : State) (c x : Nat) : (State.checkpoint s c x).mem = s.mem := by simp [State.checkpoint]

@[simp] theorem State.releaseAt_wf (s : State) (c x n : Nat) (rect : BitVec 32) (q : List (Nat × Nat)) (hm : Memory.wf s.mem = true) :
    Memory.wf (State.releaseAt s c x n rect q).mem = true := by
  unfold State.releaseAt
  simp +contextual [*]

/-! ### Sys2Proof/Machine/Rope.lean -/

@[simp] theorem ropeOf_keepsMem (w : Word) (join : Bool) : (ropeOf w join).KeepsMem := by simp [ropeOf]

@[simp] theorem ropeAnswer_keepsMem (w : Word) (l : List Word) : (ropeAnswer w l).KeepsMem := by
  unfold ropeAnswer
  split <;> simp

@[simp] theorem State.membersGo_mem (s : State) (n : Nat) (stay : Bool) (mem : Table RMem) : (State.membersGo s n stay mem).mem = s.mem := by
  simp [State.membersGo]

@[simp] theorem State.ropeArm_wf (s : State) (l n : Nat) (a : ArmBlock) (ws : List Nat) (hm : Memory.wf s.mem = true) :
    Memory.wf (State.ropeArm s l n a ws).mem = true := by
  simp [State.ropeArm, hm]

@[simp] theorem execRparm_wf (s : State) (a b : BitVec 6) (hm : Memory.wf s.mem = true) : KeepsMem (execRparm a b s) := by
  unfold execRparm
  refine runC_keepsMem _ ?_ hm
  refine Ex.keepsMem_bind (by simp) fun a => ?_
  refine Ex.keepsMem_bind (by simp) fun a => ?_
  refine Ex.keepsMem_bind (by simp) fun a => ?_
  split
  refine Ex.keepsMem_get_bind fun s _ => ?_
  dsimp only
  split
  · refine Ex.keepsMem_bind (by simp) fun a => ?_
    split
    · simp
    · split
      · split
        · refine Ex.keepsMem_bind (by simp) fun a => ?_
          split
          · simp
          · split
            · simp
            · simp +contextual [*]
        · refine Ex.keepsMem_bind (by simp) fun a => ?_
          split
          · simp
          · split
            · simp
            · simp +contextual [*]
      · split
        · simp
        · split
          · simp
          · simp +contextual [*]
  · split
    · split
      · simp
      · split
        · split
          · refine Ex.keepsMem_bind (by simp) fun a => ?_
            split
            · simp
            · split
              · simp
              · simp +contextual [*]
          · refine Ex.keepsMem_bind (by simp) fun a => ?_
            split
            · simp
            · split
              · simp
              · simp +contextual [*]
        · split
          · simp
          · split
            · simp
            · simp +contextual [*]
    · refine Ex.keepsMem_bind (by simp) fun a => ?_
      split
      · simp
      · split
        · split
          · refine Ex.keepsMem_bind (by simp) fun a => ?_
            split
            · simp
            · split
              · simp
              · simp +contextual [*]
          · refine Ex.keepsMem_bind (by simp) fun a => ?_
            split
            · simp
            · split
              · simp
              · simp +contextual [*]
        · split
          · simp
          · split
            · simp
            · simp +contextual [*]

@[simp] theorem State.ropeJoin_mem (s : State) (n i dev thid w : Nat) : (State.ropeJoin s n i dev thid w).mem = s.mem := rfl

@[simp] theorem execRpjoin_wf (s : State) (h a b : BitVec 6) (hm : Memory.wf s.mem = true) : KeepsMem (execRpjoin h a b s) := by
  unfold execRpjoin
  refine runC_keepsMem _ ?_ hm
  refine Ex.keepsMem_bind (by simp) fun a => ?_
  refine Ex.keepsMem_bind (by simp) fun a => ?_
  refine Ex.keepsMem_bind (by simp) fun a => ?_
  refine Ex.keepsMem_bind (by simp) fun a => ?_
  split
  refine Ex.keepsMem_get_bind fun s _ => ?_
  dsimp only
  split
  · simp
  · split
    · simp
    · simp +contextual [*]

@[simp] theorem State.ropeArrive_mem (s : State) (n : Nat) (p : RPend) : (State.ropeArrive s n p).mem = s.mem := rfl

@[simp] theorem memberState_keepsMem (m : Member) : (memberState m).KeepsMem := by
  unfold memberState
  refine Ex.keepsMem_get_bind fun s _ => ?_
  split
  · simp
  · refine Ex.keepsMem_bind (by simp) fun a => ?_
    split <;> simp

@[simp] theorem execRparr_wf (s : State) (d a : BitVec 6) (hm : Memory.wf s.mem = true) : KeepsMem (execRparr d a s) := by
  refine runC_keepsMem _ ?_ hm
  refine Ex.keepsMem_bind (by simp) fun v => Ex.keepsMem_get_bind fun s hs => ?_
  dsimp -zeta only
  extract_lets c o
  split
  · simp
  · next m _ =>
    extract_lets r here len arrives known asked
    have harrives : ∀ u, (arrives u).KeepsMem := by
      intro u
      refine Ex.keepsMem_bind (by simp) fun _ => ?_
      split
      · exact Ex.keepsMem_bind (Ex.keepsMem_modify fun s h => h) fun _ => dest_keepsMem _ _
      · split
        · simp
        · refine Ex.keepsMem_get_bind fun s hs => ?_
          dsimp only
          refine Ex.keepsMem_bind (by simp) fun _ => Ex.keepsMem_bind (by simp) fun _ => Ex.keepsMem_bind (by simp) fun _ => ?_
          split
          · exact Ex.keepsMem_modify fun s h => by simpa using h
          · exact Ex.keepsMem_modify fun s h => by simpa using h
    clear_value arrives
    have hknown : ∀ u, (known u).KeepsMem := by
      intro u
      refine (Ex.keepsMem_ite ..).mpr ⟨fun _ => by simp, fun _ => (Ex.keepsMem_ite ..).mpr ⟨fun _ => by simp, fun _ => ?_⟩⟩
      split
      · exact Ex.keepsMem_bind (by simp) harrives
      · exact (Ex.keepsMem_ite ..).mpr ⟨fun _ => harrives _, fun _ => Ex.keepsMem_bind (by simp) harrives⟩
    clear_value known
    have hasked : ∀ u, (asked u).KeepsMem := fun u => Ex.keepsMem_gates _ (by simp) (by simp) hknown
    clear_value asked
    split
    · exact Ex.keepsMem_bind (Ex.keepsMem_throw fun s h => by simpa using h) hasked
    · exact hasked _

@[simp] theorem execRpwait_wf (s : State) (a : BitVec 6) (hm : Memory.wf s.mem = true) : KeepsMem (execRpwait a s) := by
  unfold execRpwait
  refine runC_keepsMem _ ?_ hm
  refine Ex.keepsMem_bind (by simp) fun a => ?_
  refine Ex.keepsMem_bind (by simp) fun a => ?_
  split
  refine Ex.keepsMem_get_bind fun s _ => ?_
  split
  · simp
  · split
    · simp
    · simp
    · simp +contextual [*]

@[simp] theorem execRpstat_wf (s : State) (a : BitVec 6) (hm : Memory.wf s.mem = true) : KeepsMem (execRpstat a s) := by
  unfold execRpstat
  refine runC_keepsMem _ ?_ hm
  refine Ex.keepsMem_bind (by simp) fun a => ?_
  refine Ex.keepsMem_bind (by simp) fun a => ?_
  split
  refine Ex.keepsMem_get_bind fun s _ => ?_
  dsimp only
  split
  · refine Ex.keepsMem_bind (by simp) fun a => ?_
    simp
  · simp

@[simp] theorem execRpleave_wf (s : State) (hm : Memory.wf s.mem = true) : KeepsMem (execRpleave s) := by
  unfold execRpleave
  refine runC_keepsMem _ ?_ hm
  simp

@[simp] theorem State.modPend_mem (s : State) (n m : Nat) (f : RPend → RPend) : (State.modPend s n m f).mem = s.mem := rfl
@[simp] theorem State.countMember_mem (s : State) (n : Nat) (p : RPend) : (State.countMember s n p).mem = s.mem := by simp [State.countMember]

@[simp] theorem State.mergeLine_wf (s : State) (n : Nat) (p : RPend) (i : Nat) (hm : Memory.wf s.mem = true) :
    Memory.wf (State.mergeLine s n p i).mem = true := by
  simp only [State.mergeLine]
  repeat' split
  all_goals simp [hm]

@[simp] theorem State.fillSum_wf (s : State) (n : Nat) (hm : Memory.wf s.mem = true) : Memory.wf (State.fillSum s n).mem = true := by
  unfold State.fillSum
  simp [hm]
  intro a a
  refine foldl_wf _ _ (fun s a h => ?_) ?_
  · split <;> simp [*]
  · simp [hm]

@[simp] theorem State.wakeRope_mem (s : State) (n : Nat) : (State.wakeRope s n).mem = s.mem := by simp [State.wakeRope]

@[simp] theorem State.endRelease_wf (s : State) (n : Nat) (hm : Memory.wf s.mem = true) : Memory.wf (State.endRelease s n).mem = true := by
  simp [State.endRelease, hm]

@[simp] theorem State.ropeIdle_mem (s : State) (n : Nat) : (State.ropeIdle s n).mem = s.mem := by simp [State.ropeIdle]

/-! ### Sys2Proof/Machine/FixedLine.lean -/

@[simp] theorem State.subscribe_wf (s : State) (c d i j x off so len win : Nat) (batch : Bool) (hm : Memory.wf s.mem = true) :
    Memory.wf (State.subscribe s c d i j x off so len win batch).mem = true := by
  simp [State.subscribe, hm]

@[simp] theorem execFlsub_wf (s : State) (f : Rrr) (m : BitVec 1) (hm : Memory.wf s.mem = true) : KeepsMem (execFlsub f m s) := by
  refine runC_keepsMem _ ?_ hm
  refine Ex.keepsMem_bind (by simp) fun a => Ex.keepsMem_bind (by simp) fun b => Ex.keepsMem_get_bind fun s hs => ?_
  extract_lets c x av bv off len win so d
  clear_value c x av bv off len win so d
  refine (Ex.keepsMem_ite ..).mpr ⟨fun _ => by simp, fun _ => (Ex.keepsMem_ite ..).mpr ⟨fun _ => by simp, fun _ => ?_⟩⟩
  refine (Ex.keepsMem_ite ..).mpr ⟨fun _ => by simp, fun _ => (Ex.keepsMem_ite ..).mpr ⟨fun _ => by simp, fun _ => ?_⟩⟩
  refine (Ex.keepsMem_ite ..).mpr ⟨fun _ => by simp, fun _ => ?_⟩
  split
  · exact dest_keepsMem _ _
  · exact dest_keepsMem _ _
  · exact Ex.keepsMem_bind (Ex.keepsMem_modify_result fun s t (ht : t = s.subscribe c d _ _ x off so len win (m == 1#1)) h => by
      rw [ht]
      exact State.subscribe_wf _ _ _ _ _ _ _ _ _ _ _ h) fun _ => dest_keepsMem _ _

@[simp] theorem lineOf_keepsMem (a : Word) : (lineOf a).KeepsMem := by simp [lineOf]

@[simp] theorem lineWait_keepsMem (i : Nat) (f : FLine) (close : Bool) : (lineWait i f close).KeepsMem := by
  unfold lineWait
  refine Ex.keepsMem_get_bind fun s _ => ?_
  split
  · simp
  · dsimp only
    split
    · split
      · simp
      · split <;> simp [*]
    · split
      · simp
      · split <;> simp [*]

@[simp] theorem execFlend_wf (s : State) (a : BitVec 6) (hm : Memory.wf s.mem = true) : KeepsMem (execFlend a s) := by
  unfold execFlend
  refine runC_keepsMem _ ?_ hm
  refine Ex.keepsMem_bind (by simp) fun a => ?_
  refine Ex.keepsMem_bind (by simp) fun a => ?_
  simp +contextual [*]

@[simp] theorem execFlsync_wf (s : State) (a : BitVec 6) (hm : Memory.wf s.mem = true) : KeepsMem (execFlsync a s) := by
  unfold execFlsync
  refine runC_keepsMem _ ?_ hm
  simp

@[simp] theorem execFlstat_wf (s : State) (d a : BitVec 6) (hm : Memory.wf s.mem = true) : KeepsMem (execFlstat d a s) := by
  unfold execFlstat
  refine runC_keepsMem _ ?_ hm
  simp

@[simp] theorem execFlstatClr_wf (s : State) (d a : BitVec 6) (hm : Memory.wf s.mem = true) : KeepsMem (execFlstatClr d a s) := by
  unfold execFlstatClr
  refine runC_keepsMem _ ?_ hm
  refine Ex.keepsMem_bind (by simp) fun a => ?_
  simp

/-! ### Sys2Proof/Machine/Message.lean -/

@[simp] theorem execSend_wf (s : State) (f : Rrr) (q : BitVec 3) (hm : Memory.wf s.mem = true) : KeepsMem (execSend f q s) := by
  unfold execSend
  refine runC_keepsMem _ ?_ hm
  refine Ex.keepsMem_bind (by simp) fun a => ?_
  refine Ex.keepsMem_bind (by simp) fun a => ?_
  refine Ex.keepsMem_get_bind fun s _ => ?_
  dsimp only
  refine Ex.keepsMem_gate _ (by simp) fun _ => ?_
  refine Ex.keepsMem_bind (by simp) fun a => ?_
  refine Ex.keepsMem_gate _ (by simp) fun _ => ?_
  simp

@[simp] theorem State.deliverMsg_wf (s : State) (c x q : Nat) (v : Word) (op dev snd : Nat) (hm : Memory.wf s.mem = true) :
    Memory.wf (State.deliverMsg s c x q v op dev snd).1.mem = true := by
  simp only [State.deliverMsg]
  repeat' split
  all_goals simp [hm]

@[simp] theorem State.routeMsg_wf (s : State) (thid q : Nat) (v : Word) (op dev snd : Nat) (hm : Memory.wf s.mem = true) :
    Memory.wf (State.routeMsg s thid q v op dev snd).1.mem = true := by
  simp only [State.routeMsg]
  repeat' split
  all_goals simp [hm]

@[simp] theorem tokenRegion_keepsMem (a : Word) : (tokenRegion a).KeepsMem := by
  unfold tokenRegion
  refine Ex.keepsMem_get_bind fun s _ => ?_
  dsimp only
  split
  · refine Ex.keepsMem_bind (by simp) fun a => ?_
    split <;> simp
  · split <;> simp

@[simp] theorem State.tokenPacket_mem (s : State) (dev kind job r tag : Nat) (bs : List Byte) : (State.tokenPacket s dev kind job r tag bs).mem = s.mem := by
  simp [State.tokenPacket]

@[simp] theorem State.dropRegion_mem (s : State) (lo n : Nat) (l : Option Nat) : (State.dropRegion s lo n l).mem = s.mem := rfl

@[simp] theorem State.giveToken_mem (s : State) (dev kind job r way : Nat) : (State.giveToken s dev kind job r way).mem = s.mem := by
  simp [State.giveToken]

@[simp] theorem State.returnToken_mem (s : State) (r : Nat) : (State.returnToken s r).mem = s.mem := by
  unfold State.returnToken
  split <;> simp

@[simp] theorem State.tokenLanded_mem (s : State) (tag : Nat) : (State.tokenLanded s tag).mem = s.mem := rfl
@[simp] theorem ownQuiet_keepsMem (r : Nat) : (ownQuiet r).KeepsMem := by simp [ownQuiet]

@[simp] theorem execAcqr_wf (s : State) (a : BitVec 6) (hm : Memory.wf s.mem = true) : KeepsMem (execAcqr a s) := by
  unfold execAcqr
  refine runC_keepsMem _ ?_ hm
  refine Ex.keepsMem_bind (by simp) fun a => ?_
  refine Ex.keepsMem_bind (by simp) fun a => ?_
  refine Ex.keepsMem_get_bind fun s _ => ?_
  repeat' split
  all_goals simp

@[simp] theorem execRelr_wf (s : State) (a : BitVec 6) (hm : Memory.wf s.mem = true) : KeepsMem (execRelr a s) := by
  unfold execRelr
  refine runC_keepsMem _ ?_ hm
  refine Ex.keepsMem_bind (by simp) fun a => ?_
  refine Ex.keepsMem_bind (by simp) fun a => ?_
  simp

/-! ### Sys2Proof/Machine/Csr.lean -/

@[simp] theorem State.putCoreReg_keepsMem (s : State) (c x n v : Nat) (hm : Memory.wf s.mem = true) : Wrote.KeepsMem (State.putCoreReg s c x n v) := by
  fun_cases State.putCoreReg s c x n v <;> simp [hm]

@[simp] theorem State.putClusterReg_keepsMem (s : State) (k n v : Nat) (hm : Memory.wf s.mem = true) : Wrote.KeepsMem (State.putClusterReg s k n v) := by
  simp [State.putClusterReg, hm]

@[simp] theorem State.timeDue_mem (s : State) (old : Nat) : (State.timeDue s old).mem = s.mem := rfl
@[simp] theorem State.dtStep_mem (s : State) (v : Word) : (State.dtStep s v).mem = s.mem := rfl

@[simp] theorem State.putDevReg_keepsMem (s : State) (n v : Nat) (hm : Memory.wf s.mem = true) : Wrote.KeepsMem (State.putDevReg s n v) := by
  simp [State.putDevReg, hm]

@[simp] theorem State.putRopeReg_keepsMem (s : State) (r i v : Nat) (hm : Memory.wf s.mem = true) : Wrote.KeepsMem (State.putRopeReg s r i v) := by
  simp [State.putRopeReg, hm]

@[simp] theorem homeField_keepsMem (n : Nat) : (homeField n).KeepsMem := by
  unfold homeField
  refine Ex.keepsMem_get_bind fun s _ => ?_
  dsimp only
  refine Ex.keepsMem_get_bind fun s _ => ?_
  refine Ex.keepsMem_bind (by simp) fun a => ?_
  split <;> simp

@[simp] theorem State.releaseV_mem (s : State) (c h : Nat) : (State.releaseV s c h).mem = s.mem := by simp [State.releaseV]

@[simp] theorem State.putThreadReg_keepsMem (s : State) (c h n v : Nat) (hm : Memory.wf s.mem = true) : Wrote.KeepsMem (State.putThreadReg s c h n v) := by
  simp only [State.putThreadReg]
  repeat' split
  all_goals simp [hm]

@[simp] theorem writeVwin_keepsMem (v : Nat) : (writeVwin v).KeepsMem := by
  unfold writeVwin
  refine Ex.keepsMem_get_bind fun s _ => ?_
  dsimp only
  repeat' split
  all_goals simp

@[simp] theorem readCsr_keepsMem (n : Nat) : (readCsr n).KeepsMem := by simp [readCsr]

@[simp] theorem writeCsr_keepsMem (n v : Nat) : (writeCsr n v).KeepsMem := by
  refine Ex.keepsMem_get_bind fun s hs => ?_
  extract_lets c h x w r
  have hr : Wrote.KeepsMem r := by simp [r, hs]
  clear_value w r
  refine (Ex.keepsMem_ite ..).mpr ⟨fun _ => by simp, fun _ => (Ex.keepsMem_ite ..).mpr ⟨fun _ => by simp, fun _ => ?_⟩⟩
  refine (Ex.keepsMem_ite ..).mpr ⟨fun _ => by simp, fun _ => (Ex.keepsMem_ite ..).mpr ⟨fun _ => by simp, fun _ => ?_⟩⟩
  refine (Ex.keepsMem_ite ..).mpr ⟨fun _ => by simp, fun _ => ?_⟩
  cases r with
  | error e => simp
  | ok t => exact (Ex.keepsMem_ite ..).mpr ⟨fun _ => by simp, fun _ => Ex.keepsMem_set hr⟩

@[simp] theorem execMvc_wf (s : State) (d : BitVec 6) (n : BitVec 16) (hm : Memory.wf s.mem = true) : KeepsMem (execMvc d n s) := by
  simp [execMvc, hm]

@[simp] theorem execMtc_wf (s : State) (d : BitVec 6) (n : BitVec 16) (hm : Memory.wf s.mem = true) : KeepsMem (execMtc d n s) := by
  simp [execMtc, hm]

/-! ### Sys2Proof/Machine/Tables.lean -/

@[simp] theorem State.putLeaseReg_mem (s : State) (l o v : Nat) : (State.putLeaseReg s l o v).mem = s.mem := rfl
@[simp] theorem State.modChan_mem (s : State) (m : Nat) (f : Chan → Chan) : (State.modChan s m f).mem = s.mem := rfl

@[simp] theorem State.orSame_wf (s : State) (r : Wrote) (hm : Memory.wf s.mem = true) (hr : Wrote.KeepsMem r) : Memory.wf (State.orSame s r).mem = true := by
  cases r with
  | ok t => exact hr
  | error e => exact hm

@[simp] theorem State.ctlPut_wf (s : State) (a v : Nat) (host : Bool) (hm : Memory.wf s.mem = true) : Memory.wf (State.ctlPut s a v host).mem = true := by
  unfold State.ctlPut
  extract_lets o b c h t u g k d q r e i j w x y z m
  clear_value o b c h t u g k d q r e i j w x y z m
  refine wf_of_ite (fun _ => ?_) fun _ => wf_of_ite (fun _ => ?_) fun _ => ?_
  · refine wf_of_ite (fun _ => wf_of_ite (fun _ => hm) fun _ => hm) fun _ => wf_of_ite (fun _ => wf_of_ite (fun _ => hm) fun _ => hm) fun _ => ?_
    refine wf_of_ite (fun _ => State.orSame_wf _ _ hm (State.putCoreReg_keepsMem _ _ _ _ _ hm)) fun _ => ?_
    refine wf_of_ite (fun _ => State.orSame_wf _ _ hm (State.putCoreReg_keepsMem _ _ _ _ _ hm)) fun _ => ?_
    exact wf_of_ite (fun _ => hm) fun _ => wf_of_ite (fun _ => hm) fun _ => hm
  · exact wf_of_ite (fun _ => State.orSame_wf _ _ hm (State.putClusterReg_keepsMem _ _ _ _ hm)) fun _ => hm
  · refine wf_of_ite (fun _ => State.orSame_wf _ _ hm (State.putDevReg_keepsMem _ _ _ hm)) fun _ => ?_
    refine wf_of_ite (fun _ => wf_of_ite (fun _ => hm) fun _ => wf_of_ite (fun _ => hm) fun _ => wf_of_ite (fun _ => hm) fun _ => hm) fun _ => ?_
    refine wf_of_ite (fun _ => by simp [hm]) fun _ => ?_
    refine wf_of_ite (fun _ => State.orSame_wf _ _ hm (State.putRopeReg_keepsMem _ _ _ _ hm)) fun _ => ?_
    refine wf_of_ite (fun _ => wf_of_ite (fun _ => hm) fun _ => hm) fun _ => wf_of_ite (fun _ => hm) fun _ => ?_
    refine wf_of_ite (fun _ => wf_of_ite (fun _ => hm) fun _ => hm) fun _ => wf_of_ite (fun _ => wf_of_ite (fun _ => hm) fun _ => hm) fun _ => ?_
    refine wf_of_ite (fun _ => wf_of_ite (fun _ => hm) fun _ => hm) fun _ => ?_
    refine wf_of_ite (fun _ => by rw [State.modSched_mem]; exact hm) fun _ => ?_
    refine wf_of_ite (fun _ => wf_of_ite (fun _ => hm) fun _ => wf_of_ite (fun _ => hm) fun _ => wf_of_ite (fun _ => hm) fun _ => hm) fun _ => ?_
    exact wf_of_ite (fun _ => put_wf _ _ hm) fun _ => hm

@[simp] theorem State.ctlWrite_wf (s : State) (host : Bool) (a : Nat) (bs : List Byte) (hm : Memory.wf s.mem = true) :
    Memory.wf (State.ctlWrite s host a bs).mem = true := by
  refine foldl_wf_result _ _ (fun s i t ht h => ?_) hm
  extract_lets w old keep v at ht
  clear_value w old keep v
  cases he : ctlEvent w (BitVec.ofNat 64 v) with
  | none =>
    rw [he] at ht
    rw [ht]
    exact State.ctlPut_wf _ _ _ _ h
  | some e =>
    rw [he] at ht
    rw [ht]
    exact h

/-! ### Sys2Proof/Machine/Engine.lean -/

@[simp] theorem mxGate_keepsMem : (mxGate).KeepsMem := by simp [mxGate]
@[simp] theorem outsideGate_keepsMem (va : Word) : (outsideGate va).KeepsMem := by simp [outsideGate]
@[simp] theorem tileGate_keepsMem (n : Nat) : (tileGate n).KeepsMem := by simp [tileGate]
@[simp] theorem accGate_keepsMem (n : Nat) : (accGate n).KeepsMem := by simp [accGate]
@[simp] theorem idleTile_keepsMem (n : Nat) : (idleTile n).KeepsMem := by simp [idleTile]

@[simp] theorem issueCmd_keepsMem (eng : Nat) (ins : Instr) (q : Tail) (ws : List Want) (f : Cmd → Cmd) : (issueCmd eng ins q ws f).KeepsMem := by
  unfold issueCmd
  refine Ex.keepsMem_get_bind fun s _ => ?_
  dsimp only
  split
  · refine Ex.keepsMem_bind (by simp) fun a => ?_
    split
    · refine Ex.keepsMem_bind (by simp) fun a => ?_
      simp
    · refine Ex.keepsMem_bind (by simp) fun a => ?_
      simp
  · split
    · refine Ex.keepsMem_bind (by simp) fun a => ?_
      simp
    · refine Ex.keepsMem_bind (by simp) fun a => ?_
      simp

@[simp] theorem State.markTouched_mem (s : State) (l : Nat) : (State.markTouched s l).mem = s.mem := Machine.markTouched_mem s l
@[simp] theorem State.setCmd_mem (s : State) (m : Cmd) : (State.setCmd s m).mem = s.mem := rfl
@[simp] theorem State.stopCmd_mem (s : State) (m : Cmd) : (State.stopCmd s m).mem = s.mem := by simp [State.stopCmd]
@[simp] theorem State.finishCmd_mem (s : State) (m : Cmd) : (State.finishCmd s m).mem = s.mem := by simp [State.finishCmd]

@[simp] theorem State.faultCmd_mem (s : State) (m : Cmd) (code : Nat) (tval : Word) : (State.faultCmd s m code tval).mem = s.mem := Machine.faultCmd_mem ..

@[simp] theorem State.engineWrite_keepsMem (s : State) (c : Nat) (ps : List BufStore) (hm : Memory.wf s.mem = true) : HeldIn id (State.engineWrite s c ps) := by
  unfold State.engineWrite
  simp +contextual [*]

@[simp] theorem OwnPlace.check_keepsMem (p : OwnPlace) (va : Word) : (OwnPlace.check p va).KeepsMem := by
  unfold OwnPlace.check
  split <;> simp

@[simp] theorem checkRows_keepsMem (base : Word) (rows : List (List (Nat × Nat))) : (checkRows base rows).KeepsMem := by
  unfold checkRows
  refine Ex.keepsMem_get_bind fun s _ => ?_
  split <;> simp

@[simp] theorem subGate_keepsMem (base : Word) (rs : List (Nat × Nat)) : (subGate base rs).KeepsMem := by
  unfold subGate
  refine Ex.keepsMem_get_bind fun s _ => ?_
  split <;> simp

@[simp] theorem ownCheck_keepsMem (x : Word) (n align : Nat) : (ownCheck x n align).KeepsMem := by
  unfold ownCheck
  refine Ex.keepsMem_get_bind fun s _ => ?_
  repeat' split
  all_goals simp

@[simp] theorem descBytes_keepsMem (x : Word) (q : Tail) : (descBytes x q).KeepsMem := by simp [descBytes]

/-! ### Sys2Proof/Machine/Tile.lean -/

@[simp] theorem transferCheck_keepsMem (va : Word) (d : Desc) (o stride k rows : Nat) : (transferCheck va d o stride k rows).KeepsMem := by
  unfold transferCheck
  dsimp only
  refine Ex.keepsMem_gate _ (by simp) fun _ => ?_
  refine Ex.keepsMem_gate _ (by simp) fun _ => ?_
  refine Ex.keepsMem_gate _ (by simp) fun _ => ?_
  simp

@[simp] theorem execTld_wf (s : State) (x y : BitVec 6) (k : BitVec 4) (q : Tail) (hm : Memory.wf s.mem = true) : KeepsMem (execTld x y k q s) := by
  unfold execTld
  refine runC_keepsMem _ ?_ hm
  refine Ex.keepsMem_bind (by simp) fun a => ?_
  refine Ex.keepsMem_bind (by simp) fun a => ?_
  dsimp only
  refine Ex.keepsMem_get_bind fun s _ => ?_
  refine Ex.keepsMem_bind (by simp) fun a => ?_
  refine Ex.keepsMem_gate _ (by simp) fun _ => ?_
  refine Ex.keepsMem_gate _ (by simp) fun _ => ?_
  refine Ex.keepsMem_gate _ (by simp) fun _ => ?_
  refine Ex.keepsMem_gate _ (by simp) fun _ => ?_
  refine Ex.keepsMem_bind (by simp) fun a => ?_
  refine Ex.keepsMem_bind (by simp) fun a => ?_
  refine Ex.keepsMem_bind (by simp) fun a => ?_
  refine Ex.keepsMem_bind (by simp) fun a => ?_
  simp

@[simp] theorem State.tldStep_keepsMem (s : State) (m : Cmd) (hm : Memory.wf s.mem = true) : (State.tldStep s m).KeepsMem := by
  simp [State.tldStep, hm]

@[simp] theorem execTst_wf (s : State) (x y : BitVec 6) (k : BitVec 4) (q : Tail) (hm : Memory.wf s.mem = true) : KeepsMem (execTst x y k q s) := by
  unfold execTst
  refine runC_keepsMem _ ?_ hm
  refine Ex.keepsMem_bind (by simp) fun a => ?_
  refine Ex.keepsMem_bind (by simp) fun a => ?_
  dsimp only
  refine Ex.keepsMem_get_bind fun s _ => ?_
  refine Ex.keepsMem_bind (by simp) fun a => ?_
  refine Ex.keepsMem_gate _ (by simp) fun _ => ?_
  refine Ex.keepsMem_gate _ (by simp) fun _ => ?_
  refine Ex.keepsMem_bind (by simp) fun a => ?_
  refine Ex.keepsMem_bind (by simp) fun a => ?_
  simp

@[simp] theorem State.tstStep_keepsMem (s : State) (m : Cmd) (hm : Memory.wf s.mem = true) : (State.tstStep s m).KeepsMem := by
  unfold State.tstStep
  simp [hm]
  intro a
  split
  · simp [hm]
  · simp
    refine HeldIn.wf_id ?_ (by assumption)
    simp [hm]

@[simp] theorem execTzero_wf (s : State) (x : BitVec 6) (k : BitVec 4) (q : Tail) (hm : Memory.wf s.mem = true) : KeepsMem (execTzero x k q s) := by
  unfold execTzero
  refine runC_keepsMem _ ?_ hm
  refine Ex.keepsMem_bind (by simp) fun a => ?_
  dsimp only
  refine Ex.keepsMem_get_bind fun s _ => ?_
  refine Ex.keepsMem_bind (by simp) fun a => ?_
  refine Ex.keepsMem_gate _ (by simp) fun _ => ?_
  refine Ex.keepsMem_gate _ (by simp) fun _ => ?_
  simp

@[simp] theorem State.tzeroStep_keepsMem (s : State) (m : Cmd) (hm : Memory.wf s.mem = true) : (State.tzeroStep s m).KeepsMem := by
  simp [State.tzeroStep, hm]

@[simp] theorem execAccz_wf (s : State) (c : BitVec 2) (q : Tail) (hm : Memory.wf s.mem = true) : KeepsMem (execAccz c q s) := by
  unfold execAccz
  refine runC_keepsMem _ ?_ hm
  refine Ex.keepsMem_bind (by simp) fun a => ?_
  simp

@[simp] theorem State.acczStep_keepsMem (s : State) (m : Cmd) (hm : Memory.wf s.mem = true) : (State.acczStep s m).KeepsMem := by
  simp [State.acczStep, hm]

/-! ### Sys2Proof/Machine/Matrix.lean -/

@[simp] theorem issueProduct_keepsMem (x : BitVec 6) (c : BitVec 2) (q : Tail) (trans : Bool) (ins : Instr) : (issueProduct x c q trans ins).KeepsMem := by
  unfold issueProduct
  refine Ex.keepsMem_bind (by simp) fun a => ?_
  refine Ex.keepsMem_bind (by simp) fun a => ?_
  dsimp only
  refine Ex.keepsMem_get_bind fun s _ => ?_
  split
  · refine Ex.keepsMem_bind (by simp) fun a => ?_
    split
    · refine Ex.keepsMem_bind (by simp) fun a => ?_
      refine Ex.keepsMem_bind (by simp) fun a => ?_
      simp
    · refine Ex.keepsMem_bind (by simp) fun a => ?_
      refine Ex.keepsMem_bind (by simp) fun a => ?_
      simp
    · refine Ex.keepsMem_bind (by simp) fun a => ?_
      simp
  · split
    · refine Ex.keepsMem_bind (by simp) fun a => ?_
      refine Ex.keepsMem_bind (by simp) fun a => ?_
      simp
    · refine Ex.keepsMem_bind (by simp) fun a => ?_
      refine Ex.keepsMem_bind (by simp) fun a => ?_
      simp
    · refine Ex.keepsMem_bind (by simp) fun a => ?_
      simp

@[simp] theorem execMma_wf (s : State) (x : BitVec 6) (c : BitVec 2) (q : Tail) (hm : Memory.wf s.mem = true) : KeepsMem (execMma x c q s) := by
  simp [execMma, hm]

@[simp] theorem execMmat_wf (s : State) (x : BitVec 6) (c : BitVec 2) (q : Tail) (hm : Memory.wf s.mem = true) : KeepsMem (execMmat x c q s) := by
  simp [execMmat, hm]

@[simp] theorem State.retile_mem (s : State) (m : Cmd) (ts : List Nat) : (State.retile s m ts).1.mem = s.mem := rfl

@[simp] theorem State.productStep_keepsMem (s : State) (m : Cmd) (hm : Memory.wf s.mem = true) : (State.productStep s m).KeepsMem := by
  simp only [State.productStep]
  repeat' split
  all_goals simp [hm]

@[simp] theorem execMvs_wf (s : State) (x y : BitVec 6) (e : BitVec 1) (g : BitVec 3) (c : BitVec 2) (q : Tail) (hm : Memory.wf s.mem = true) :
    KeepsMem (execMvs x y e g c q s) := by
  unfold execMvs
  refine runC_keepsMem _ ?_ hm
  refine Ex.keepsMem_bind (by simp) fun a => ?_
  refine Ex.keepsMem_bind (by simp) fun a => ?_
  refine Ex.keepsMem_bind (by simp) fun a => ?_
  dsimp only
  refine Ex.keepsMem_get_bind fun s _ => ?_
  refine Ex.keepsMem_bind (by simp) fun a => ?_
  refine Ex.keepsMem_gate _ (by simp) fun _ => ?_
  refine Ex.keepsMem_gate _ (by simp) fun _ => ?_
  split
  · split
    · refine Ex.keepsMem_bind (by simp) fun a => ?_
      split
      · refine Ex.keepsMem_bind (by simp) fun a => ?_
        simp
      · refine Ex.keepsMem_gate _ (by simp) fun _ => ?_
        simp
      · refine Ex.keepsMem_bind (by simp) fun a => ?_
        simp
    · refine Ex.keepsMem_bind (by simp) fun a => ?_
      split
      · refine Ex.keepsMem_bind (by simp) fun a => ?_
        simp
      · refine Ex.keepsMem_gate _ (by simp) fun _ => ?_
        simp
      · refine Ex.keepsMem_bind (by simp) fun a => ?_
        simp
  · refine Ex.keepsMem_bind (by simp) fun a => ?_
    split
    · refine Ex.keepsMem_bind (by simp) fun a => ?_
      simp
    · refine Ex.keepsMem_gate _ (by simp) fun _ => ?_
      simp
    · refine Ex.keepsMem_bind (by simp) fun a => ?_
      simp

@[simp] theorem State.streamStep_keepsMem (s : State) (m : Cmd) (hm : Memory.wf s.mem = true) : (State.streamStep s m).KeepsMem := by
  unfold State.streamStep
  extract_lets d i st kk vt wd kw bpr row ends re b0 ns
  have hp : Memory.wf (if st = 0 ∧ 0 < i ∧ m.tiles ≠ [vt] then s.retile m [vt] else (s, m)).1.mem = true := by
    split
    · simp [hm]
    · exact hm
  generalize (if st = 0 ∧ 0 < i ∧ m.tiles ≠ [vt] then s.retile m [vt] else (s, m)) = p at hp ⊢
  obtain ⟨s, m⟩ := p
  dsimp only at hp
  dsimp -zeta only
  extract_lets k t next l x wa sa ends2 g u
  have hnext : ∀ s, Memory.wf s.mem = true → (next s).KeepsMem := by
    intro s h
    simp [next, h]
  clear_value next wa sa k t
  have hu : Memory.wf u.mem = true := by simp [u, hp]
  clear_value u
  refine (Did.keepsMem_ite ..).mpr ⟨fun _ => hp, fun _ => (Did.keepsMem_ite ..).mpr ⟨fun _ => hp, fun _ => ?_⟩⟩
  refine (Did.keepsMem_ite ..).mpr ⟨fun _ => hp, fun _ => (Did.keepsMem_ite ..).mpr ⟨fun _ => hnext s hp, fun _ => ?_⟩⟩
  refine (Did.keepsMem_ite ..).mpr ⟨fun _ => hp, fun _ => ?_⟩
  split
  · exact hp
  · split
    · simpa using hp
    · exact hp
    · exact hnext _ (by simpa using hu)

/-! ### Sys2Proof/Machine/Epi.lean -/

@[simp] theorem execEpi_wf (s : State) (x y : BitVec 6) (e : BitVec 1) (g : BitVec 3) (c : BitVec 2) (q : Tail) (hm : Memory.wf s.mem = true) :
    KeepsMem (execEpi x y e g c q s) := by
  unfold execEpi
  refine runC_keepsMem _ ?_ hm
  refine Ex.keepsMem_bind (by simp) fun a => ?_
  refine Ex.keepsMem_bind (by simp) fun a => ?_
  refine Ex.keepsMem_bind (by simp) fun a => ?_
  dsimp only
  refine Ex.keepsMem_bind (by simp) fun a => ?_
  refine Ex.keepsMem_gate _ (by simp) fun _ => ?_
  refine Ex.keepsMem_get_bind fun s _ => ?_
  refine Ex.keepsMem_gate _ (by simp) fun _ => ?_
  refine Ex.keepsMem_gate _ (by simp) fun _ => ?_
  refine Ex.keepsMem_bind (by simp) fun a => ?_
  refine Ex.keepsMem_gate _ (by simp) fun _ => ?_
  refine Ex.keepsMem_gate _ (by simp) fun _ => ?_
  refine Ex.keepsMem_gate _ (by simp) fun _ => ?_
  refine Ex.keepsMem_bind (by simp) fun a => ?_
  split
  · refine Ex.keepsMem_bind (by simp) fun a => ?_
    refine Ex.keepsMem_bind (by simp) fun a => ?_
    split <;> simp
  · refine Ex.keepsMem_bind (by simp) fun a => ?_
    split <;> simp

@[simp] theorem State.epiBegin_keepsMem (s : State) (m : Cmd) (t : Nat) (hm : Memory.wf s.mem = true) : (State.epiBegin s m t).KeepsMem := by
  simp only [State.epiBegin]
  repeat' split
  all_goals simp [hm]

@[simp] theorem State.epiStep_keepsMem (s : State) (m : Cmd) (hm : Memory.wf s.mem = true) : (State.epiStep s m).KeepsMem := by
  unfold State.epiStep
  simp [hm]
  intro a
  split
  · simp [hm]
  · simp
    refine HeldIn.wf_id ?_ (by assumption)
    simp [hm]

/-! ### Sys2Proof/Machine/Copy.lean -/

@[simp] theorem issueCopy_keepsMem (kind : Nat) (x y : BitVec 6) (e : BitVec 1) (g : BitVec 3) (q : Tail) (ins : Instr) :
    (issueCopy kind x y e g q ins).KeepsMem := by
  refine Ex.keepsMem_bind (by simp) fun dv => Ex.keepsMem_bind (by simp) fun lv => Ex.keepsMem_gate _ (by simp) fun _ => ?_
  refine Ex.keepsMem_bind (by simp) fun b => ?_
  extract_lets d len camp
  clear_value camp
  refine Ex.keepsMem_get_bind fun s hs => ?_
  extract_lets c t rows p marked issued promised apart own checked placed
  clear_value c t rows p
  have hmarked : ∀ u, (marked u).KeepsMem := fun u => (Ex.keepsMem_ite ..).mpr ⟨fun _ => Ex.keepsMem_modify fun s h => by simpa using h, fun _ => by simp⟩
  clear_value marked
  have hissued : ∀ u, (issued u).KeepsMem := fun u =>
    Ex.keepsMem_get_bind fun s hs => Ex.keepsMem_bind (by simp) fun _ => Ex.keepsMem_gate _ (by simp) hmarked
  clear_value issued
  have hpromised : ∀ u, (promised u).KeepsMem := fun u => Ex.keepsMem_gate _ (by simp) hissued
  clear_value promised
  have hapart : ∀ u, (apart u).KeepsMem := fun u => Ex.keepsMem_gate _ (by simp) hpromised
  clear_value apart
  have hown : ∀ u, (own u).KeepsMem := by
    intro u
    refine (Ex.keepsMem_ite ..).mpr ⟨fun _ => ?_, fun _ => hapart _⟩
    split
    · exact Ex.keepsMem_bind (by simp) hapart
    · exact Ex.keepsMem_bind (by simp) hapart
  clear_value own
  have hchecked : ∀ u, (checked u).KeepsMem := by
    intro u
    dsimp only [checked]
    split
    · exact Ex.keepsMem_bind (by simp) hown
    · exact hown _
  clear_value checked
  have hplaced : ∀ u, (placed u).KeepsMem := fun u => Ex.keepsMem_gate _ (by simp) hchecked
  clear_value placed
  exact Ex.keepsMem_gate _ (by simp) hplaced

@[simp] theorem execCpy_wf (s : State) (x y : BitVec 6) (e : BitVec 1) (g : BitVec 3) (q : Tail) (hm : Memory.wf s.mem = true) :
    KeepsMem (execCpy x y e g q s) := by
  simp [execCpy, hm]

@[simp] theorem execCpyp_wf (s : State) (x y : BitVec 6) (e : BitVec 1) (g : BitVec 3) (q : Tail) (hm : Memory.wf s.mem = true) :
    KeepsMem (execCpyp x y e g q s) := by
  simp [execCpyp, hm]

@[simp] theorem execCpyf_wf (s : State) (x y : BitVec 6) (e : BitVec 1) (g : BitVec 3) (q : Tail) (hm : Memory.wf s.mem = true) :
    KeepsMem (execCpyf x y e g q s) := by
  simp [execCpyf, hm]

@[simp] theorem State.copyBegin_keepsMem (s : State) (m : Cmd) (t : Nat) (hm : Memory.wf s.mem = true) : (State.copyBegin s m t).KeepsMem := by
  simp only [State.copyBegin]
  repeat' split
  all_goals simp [hm]

@[simp] theorem State.cmdPacket_mem (s : State) (m : Cmd) (p : Packet) (bytes : Nat) : (State.cmdPacket s m p bytes).mem = s.mem := by
  simp [State.cmdPacket]

@[simp] theorem State.storePacket_mem (s : State) (m : Cmd) (dev tag addr lo len : Nat) (bs : List Byte) :
    (State.storePacket s m dev tag addr lo len bs).mem = s.mem := by
  simp [State.storePacket]

@[simp] theorem State.getPacket_mem (s : State) (m : Cmd) (dev tag addr lo len n : Nat) : (State.getPacket s m dev tag addr lo len n).mem = s.mem := by
  simp [State.getPacket]

@[simp] theorem State.tagged_mem (s : State) (m : Cmd) (wait : Bool) : (State.tagged s m wait).1.mem = s.mem := rfl

@[simp] theorem State.handBack_wf (s : State) (m : Cmd) (sa da left va : Nat) (hm : Memory.wf s.mem = true) :
    Memory.wf (State.handBack s m sa da left va).mem = true := by
  have key (a : Nat) (b : List Byte) (f : Thread → Thread) : Memory.wf (((s.land m.core a b).stopCmd m).modThread m.core m.slot f).mem = true := by
    simpa using State.land_wf s m.core a b hm
  exact key ..

@[simp] theorem State.copied_keepsMem (s : State) (m : Cmd) (n : Nat) (hm : Memory.wf s.mem = true) : (State.copied s m n).KeepsMem := by
  simp [State.copied, hm]

@[simp] theorem State.copyStep_keepsMem (s : State) (m : Cmd) (hm : Memory.wf s.mem = true) : (State.copyStep s m).KeepsMem := by
  unfold State.copyStep
  extract_lets da sa all had sb part l acc source short n target dk left got u v
  clear_value da sa all had sb part l acc source short n target dk left
  have hpage (t : State) (a : Nat) (h : Memory.wf t.mem = true) :
      Memory.wf (if t.updateRoom m.core (m.n 5) 32 then t.handBack m sa da left a else t).mem = true :=
    wf_of_ite (fun _ => State.handBack_wf _ _ _ _ _ _ h) fun _ => h

  have hgot : Fetched.KeepsMem got := by
    refine (Fetched.keepsMem_ite ..).mpr ⟨fun _ => trivial, fun _ => ?_⟩
    cases source with
    | here ks =>
      dsimp only
      split
      · exact hm
      · exact (Fetched.keepsMem_ite ..).mpr ⟨fun _ => hm, fun _ => trivial⟩
    | ctl => trivial
    | host => exact hm
    | far d => simp [hm]
    | waits => exact hm
    | walk a => simp [hm]
    | bad k a => exact hm
    | page a => exact hpage s a hm
  have hu : Memory.wf u.mem = true := by
    dsimp only [u]
    split <;> exact hm
  clear_value got u
  have hv : Memory.wf v.mem = true := by
    cases source with
    | here ks => exact wf_of_ite (fun _ => by simpa using hu) fun _ => hu
    | _ => exact hu
  clear_value v
  refine (Did.keepsMem_ite ..).mpr ⟨fun _ => (Did.keepsMem_ite ..).mpr ⟨fun _ => hm, fun _ => hm⟩, fun _ => ?_⟩
  cases got with
  | error e => exact hgot
  | ok bs =>
    cases target with
    | here ks =>
      cases ks with
      | nil => exact State.copied_keepsMem _ _ _ hu
      | cons k ks => exact (Did.keepsMem_ite ..).mpr ⟨fun _ => hu, fun _ => State.copied_keepsMem _ _ _ (State.land_wf _ _ _ _ hv)⟩
    | ctl =>
      cases hc : u.ctlHolds da with
      | some _ => exact hu
      | none => exact State.copied_keepsMem _ _ _ (State.ctlWrite_wf _ _ _ _ hu)
    | host => exact State.copied_keepsMem _ _ _ hu
    | far d => exact State.copied_keepsMem _ _ _ (by simpa using hu)
    | waits => exact hu
    | walk a => exact (congrArg Memory.wf (State.startWalk_mem ..)).trans hu
    | bad k a => exact hu
    | page a => exact hpage u _ hu

@[simp] theorem issueTransfer_keepsMem (isPut : Bool) (x y : BitVec 6) (q : Tail) (ins : Instr) : (issueTransfer isPut x y q ins).KeepsMem := by
  unfold issueTransfer
  refine Ex.keepsMem_bind (by simp) fun a => ?_
  refine Ex.keepsMem_bind (by simp) fun a => ?_
  refine Ex.keepsMem_get_bind fun s _ => ?_
  dsimp only
  refine Ex.keepsMem_gate _ (by simp) fun _ => ?_
  refine Ex.keepsMem_gate _ (by simp) fun _ => ?_
  refine Ex.keepsMem_bind (by simp) fun a => ?_
  refine Ex.keepsMem_gate _ (by simp) fun _ => ?_
  refine Ex.keepsMem_bind (by simp) fun a => ?_
  refine Ex.keepsMem_bind (by simp) fun a => ?_
  refine Ex.keepsMem_gate _ (by simp) fun _ => ?_
  simp

@[simp] theorem execPut_wf (s : State) (x y : BitVec 6) (q : Tail) (hm : Memory.wf s.mem = true) : KeepsMem (execPut x y q s) := by simp [execPut, hm]
@[simp] theorem execGet_wf (s : State) (x y : BitVec 6) (q : Tail) (hm : Memory.wf s.mem = true) : KeepsMem (execGet x y q s) := by simp [execGet, hm]

@[simp] theorem State.transferEnd_keepsMem (s : State) (m : Cmd) (hm : Memory.wf s.mem = true) : (State.transferEnd s m).KeepsMem :=
  (Did.keepsMem_ite ..).mpr ⟨fun _ => hm, fun _ => State.land_wf _ _ _ _ hm⟩

@[simp] theorem State.putStep_keepsMem (s : State) (m : Cmd) (hm : Memory.wf s.mem = true) : (State.putStep s m).KeepsMem := by
  unfold State.putStep
  extract_lets len ra done n
  clear_value len ra done n
  refine (Did.keepsMem_ite ..).mpr ⟨fun _ => hm, fun _ => (Did.keepsMem_ite ..).mpr ⟨fun _ => State.transferEnd_keepsMem s m hm, fun _ => ?_⟩⟩
  refine (Did.keepsMem_ite ..).mpr ⟨fun _ => hm, fun _ => (Did.keepsMem_ite ..).mpr ⟨fun _ => hm, fun _ => ?_⟩⟩
  refine (Did.keepsMem_ite ..).mpr ⟨fun _ => by simp [hm], fun _ => ?_⟩
  split
  · exact hm
  · exact (Did.keepsMem_ite ..).mpr ⟨fun _ => by simp [hm], fun _ => hm⟩

@[simp] theorem State.getStep_keepsMem (s : State) (m : Cmd) (hm : Memory.wf s.mem = true) : (State.getStep s m).KeepsMem := by
  have key (a : Nat) (b : List Byte) (p : Cmd) : (Did.ok ((s.land m.core a b).setCmd p)).KeepsMem := State.land_wf _ _ _ _ hm
  unfold State.getStep
  extract_lets len ra done o n b
  clear_value len ra done o n b
  refine (Did.keepsMem_ite ..).mpr ⟨fun _ => hm, fun _ => (Did.keepsMem_ite ..).mpr ⟨fun _ => State.transferEnd_keepsMem s m hm, fun _ => ?_⟩⟩
  refine (Did.keepsMem_ite ..).mpr ⟨fun _ => (Did.keepsMem_ite ..).mpr ⟨fun _ => hm, fun _ => key ..⟩, fun _ => ?_⟩
  refine (Did.keepsMem_ite ..).mpr ⟨fun _ => hm, fun _ => (Did.keepsMem_ite ..).mpr ⟨fun _ => hm, fun _ => by simp [hm]⟩⟩

/-! ### Sys2Proof/Machine/Keyed.lean -/

@[simp] theorem State.applyPair_wf (s : State) (c x : Nat) (p : Pair) (hm : Memory.wf s.mem = true) : Memory.wf (State.applyPair s c x p).mem = true := by
  have key (a : Nat) (b : List Byte) (f : Ctx → Ctx) : Memory.wf ((s.land c a b).modCtx c x f).mem = true := State.land_wf s c a b hm
  unfold State.applyPair
  extract_lets b
  cases b.slot p.1 with
  | none => exact hm
  | some o => exact key ..

@[simp] theorem State.modSavedCtx_mem (s : State) (l c : Nat) (f : Ctx → Ctx) : (State.modSavedCtx s l c f).mem = s.mem := rfl

@[simp] theorem State.receive_keepsMem (s : State) (c x l : Nat) (ps : List Pair) (hm : Memory.wf s.mem = true) : HeldIn id (State.receive s c x l ps) := by
  unfold State.receive
  simp +contextual [*]

@[simp] theorem State.sendPairs_mem (s : State) (c x r : Nat) (ps : List Pair) : (State.sendPairs s c x r ps).mem = s.mem := by simp [State.sendPairs]

@[simp] theorem State.sendBuffer_mem (s : State) (c x r : Nat) : (State.sendBuffer s c x r).mem = s.mem := by
  unfold State.sendBuffer
  split <;> simp

@[simp] theorem State.placePair_mem (s : State) (c x : Nat) (p : Pair) : (State.placePair s c x p).mem = s.mem := by simp [State.placePair]

@[simp] theorem execKsend_wf (s : State) (x y : BitVec 6) (e : BitVec 1) (c : BitVec 3) (q : Tail) (hm : Memory.wf s.mem = true) :
    KeepsMem (execKsend x y e c q s) := by
  unfold execKsend
  refine runC_keepsMem _ ?_ hm
  refine Ex.keepsMem_bind (by simp) fun a => ?_
  refine Ex.keepsMem_bind (by simp) fun a => ?_
  dsimp only
  refine Ex.keepsMem_gate _ (by simp) fun _ => ?_
  refine Ex.keepsMem_bind (by simp) fun a => ?_
  simp

@[simp] theorem State.ksendBegin_keepsMem (s : State) (m : Cmd) (hm : Memory.wf s.mem = true) : (State.ksendBegin s m).KeepsMem := by
  simp only [State.ksendBegin]
  repeat' split
  all_goals simp [hm]

@[simp] theorem State.ksendStep_keepsMem (s : State) (m : Cmd) (hm : Memory.wf s.mem = true) : (State.ksendStep s m).KeepsMem := by
  simp only [State.ksendStep]
  split <;> simp [hm]

@[simp] theorem execKflush_wf (s : State) (q : Tail) (hm : Memory.wf s.mem = true) : KeepsMem (execKflush q s) := by simp [execKflush, hm]

@[simp] theorem State.kflushStep_keepsMem (s : State) (m : Cmd) (hm : Memory.wf s.mem = true) : (State.kflushStep s m).KeepsMem := by
  simp [State.kflushStep, hm]

@[simp] theorem execKbins_wf (s : State) (x y : BitVec 6) (q : Tail) (hm : Memory.wf s.mem = true) : KeepsMem (execKbins x y q s) := by
  unfold execKbins
  refine runC_keepsMem _ ?_ hm
  refine Ex.keepsMem_bind (by simp) fun a => ?_
  refine Ex.keepsMem_bind (by simp) fun a => ?_
  dsimp only
  refine Ex.keepsMem_gate _ (by simp) fun _ => ?_
  refine Ex.keepsMem_gate _ (by simp) fun _ => ?_
  refine Ex.keepsMem_get_bind fun s _ => ?_
  refine Ex.keepsMem_gate _ (by simp) fun _ => ?_
  simp

@[simp] theorem State.kbinsStep_keepsMem (s : State) (m : Cmd) (hm : Memory.wf s.mem = true) : (State.kbinsStep s m).KeepsMem := by
  simp [State.kbinsStep, hm]

@[simp] theorem execKbinsMap_wf (s : State) (x y : BitVec 6) (q : Tail) (hm : Memory.wf s.mem = true) : KeepsMem (execKbinsMap x y q s) := by
  unfold execKbinsMap
  refine runC_keepsMem _ ?_ hm
  refine Ex.keepsMem_bind (by simp) fun a => ?_
  refine Ex.keepsMem_bind (by simp) fun a => ?_
  dsimp only
  refine Ex.keepsMem_gate _ (by simp) fun _ => ?_
  refine Ex.keepsMem_gate _ (by simp) fun _ => ?_
  refine Ex.keepsMem_get_bind fun s _ => ?_
  refine Ex.keepsMem_gate _ (by simp) fun _ => ?_
  simp

@[simp] theorem State.kbinsMapStep_keepsMem (s : State) (m : Cmd) (hm : Memory.wf s.mem = true) : (State.kbinsMapStep s m).KeepsMem := by
  simp [State.kbinsMapStep, hm]

@[simp] theorem execKbinsStat_wf (s : State) (x : BitVec 6) (q : Tail) (hm : Memory.wf s.mem = true) : KeepsMem (execKbinsStat x q s) := by
  unfold execKbinsStat
  refine runC_keepsMem _ ?_ hm
  refine Ex.keepsMem_bind (by simp) fun a => ?_
  refine Ex.keepsMem_bind (by simp) fun a => ?_
  simp

@[simp] theorem State.kbinsStatStep_keepsMem (s : State) (m : Cmd) (hm : Memory.wf s.mem = true) : (State.kbinsStatStep s m).KeepsMem := by
  simp [State.kbinsStatStep, hm]

/-! ### Sys2Proof/Machine/EngineRun.lean -/

@[simp] theorem State.famStep_keepsMem (s : State) (m : Cmd) (hm : Memory.wf s.mem = true) : (State.famStep s m).KeepsMem := by
  simp only [State.famStep]
  repeat' split
  all_goals simp [hm]

@[simp] theorem State.famBegin_keepsMem (s : State) (m : Cmd) (hm : Memory.wf s.mem = true) : (State.famBegin s m).KeepsMem := by
  unfold State.famBegin
  split <;> simp [hm]

@[simp] theorem execEngineCommandBegin_wf (s : State) (hm : Memory.wf s.mem = true) : KeepsMem (execEngineCommandBegin s) := by
  unfold execEngineCommandBegin
  simp
  split
  · simp [hm]
  · simp [hm]
    intro a a a a
    split
    · simp
      refine Did.wf_of_ok ?_ (by assumption)
      simp [hm]
    · simp
      refine Did.wf_of_waits ?_ (by assumption)
      simp [hm]
    · simp
      refine Did.wf_of_last ?_ (by assumption)
      simp [hm]
    · simp
      refine Did.wf_of_fault ?_ (by assumption)
      simp [hm]

@[simp] theorem execEngineStep_wf (s : State) (hm : Memory.wf s.mem = true) : KeepsMem (execEngineStep s) := by
  unfold execEngineStep
  split
  · exact keepsMem_next.mpr hm
  · next m _ =>
    extract_lets k done
    have hdone (t : State) (ht : Memory.wf t.mem = true) : Memory.wf (done t).mem = true := by
      dsimp only [done]
      split
      · exact ht
      · exact wf_of_ite (fun _ => by simp [ht]) fun _ => by simp [ht]
    clear_value done
    refine (ite_keepsMem ..).mpr ⟨fun _ => keepsMem_next.mpr hm, fun _ => (ite_keepsMem ..).mpr ⟨fun _ => keepsMem_next.mpr (by simp [hm]), fun _ => ?_⟩⟩
    refine (ite_keepsMem ..).mpr ⟨fun _ => keepsMem_next.mpr hm, fun _ => (ite_keepsMem ..).mpr ⟨fun _ => keepsMem_next.mpr hm, fun _ => ?_⟩⟩
    have hstep := State.famStep_keepsMem s m hm
    cases hd : s.famStep m with
    | waits t => exact keepsMem_next.mpr (Did.wf_of_waits hstep hd)
    | last t => exact keepsMem_next.mpr (hdone t (Did.wf_of_last hstep hd))
    | fault t c v =>
      have ht := Did.wf_of_fault hstep hd
      refine keepsMem_next.mpr ?_
      split
      · exact ht
      · exact wf_of_ite (fun _ => by simp [ht]) fun _ => by simp [ht]
    | ok t =>
      have ht := Did.wf_of_ok hstep hd
      dsimp only
      split
      · exact keepsMem_next.mpr ht
      · exact keepsMem_next.mpr (wf_of_ite (fun _ => hdone _ ht) fun _ => ht)

/-! ### Sys2Proof/Machine/Fetch.lean -/

@[simp] theorem State.textFill_mem (s : State) (c l : Nat) (pc : Word) : (State.textFill s c l pc).mem = s.mem := by
  simp only [State.textFill]
  split <;> simp

/-! ### Sys2Proof/Machine/Switch.lean -/

@[simp] theorem State.lapseLine_mem (s : State) (c i : Nat) : (State.lapseLine s c i).mem = s.mem := by simp [State.lapseLine]
@[simp] theorem State.lapseAll_mem (s : State) (c x : Nat) : (State.lapseAll s c x).mem = s.mem := by simp [State.lapseAll]

@[simp] theorem State.refreshLine_wf (s : State) (c i : Nat) (hm : Memory.wf s.mem = true) : Memory.wf (State.refreshLine s c i).mem = true := by
  have key (d a : Nat) (b : List Byte) (e : Nat) (f g : Core → Core) : Memory.wf (((s.land d a b).modCore c f).modCore e g).mem = true := State.land_wf s d a b hm
  unfold State.refreshLine
  extract_lets f g on b
  split
  · exact key ..
  · exact hm

@[simp] theorem State.refreshAll_wf (s : State) (c x : Nat) (hm : Memory.wf s.mem = true) : Memory.wf (State.refreshAll s c x).mem = true := by
  unfold State.refreshAll
  simp
  refine foldl_wf _ _ (fun s a h => ?_) ?_
  · simp [*]
  · simp +contextual [*]

@[simp] theorem State.boxToArea_wf (s : State) (c x : Nat) (hm : Memory.wf s.mem = true) : Memory.wf (State.boxToArea s c x).mem = true := by
  unfold State.boxToArea
  simp +contextual [*]

@[simp] theorem State.withdrawAll_mem (s : State) (c x : Nat) : (State.withdrawAll s c x).mem = s.mem := by
  unfold State.withdrawAll
  simp
  refine foldl_mem _ _ fun s a => ?_
  split <;> simp

@[simp] theorem State.saveRung_wf (s : State) (c x : Nat) (hm : Memory.wf s.mem = true) : Memory.wf (State.saveRung s c x).mem = true := by
  unfold State.saveRung
  extract_lets a b d e
  have ha : Memory.wf a.mem = true := by
    refine foldl_wf _ _ (fun s p h => ?_) hm
    split
    · exact h
    · split <;> simp [h]
  clear_value a
  have hb : Memory.wf b.mem = true := ha
  clear_value b
  have hd : Memory.wf d.mem = true := foldl_wf _ _ (fun s p h => by simpa using h) hb
  clear_value d
  have he : Memory.wf e.mem = true := by simp [e, hd]
  clear_value e
  rw [State.modCore_mem]
  exact he

@[simp] theorem State.buildImage_mem (s : State) (c x addr : Nat) : (State.buildImage s c x addr).2.mem = s.mem := rfl
@[simp] theorem State.removeCtx_mem (s : State) (c x : Nat) : (State.removeCtx s c x).mem = s.mem := rfl

@[simp] theorem State.placeSaved_keepsMem (s : State) (img : Image) (p : Nat × Thread) (hm : Memory.wf s.mem = true) :
    HeldIn id (State.placeSaved s img p) := by
  simp only [State.placeSaved]
  split <;> simp [hm]

@[simp] theorem State.placeAll_keepsMem (s : State) (img : Image) (l : List (Nat × Thread)) (hm : Memory.wf s.mem = true) :
    HeldIn id (State.placeAll s img l) := by
  induction l generalizing s with
  | nil => simpa [State.placeAll] using hm
  | cons p l ih =>
    rw [State.placeAll]
    cases h : s.placeSaved img p with
    | none => simp
    | some t => exact ih t (HeldIn.wf_id (State.placeSaved_keepsMem s img p hm) h)

@[simp] theorem State.resend_mem (s : State) (o : Op) : (State.resend s o).mem = s.mem := by
  simp only [State.resend]
  repeat' split
  all_goals simp

@[simp] theorem State.drainArea_wf (s : State) (l c x : Nat) (hm : Memory.wf s.mem = true) : Memory.wf (State.drainArea s l c x).mem = true := by
  unfold State.drainArea
  extract_lets area here t
  have ht : Memory.wf t.mem = true := by
    dsimp only [t]
    split <;> simp [hm]
  clear_value t
  refine foldl_wf _ _ (fun s p h => ?_) ht
  dsimp only
  cases p with
  | keyed d ps =>
    dsimp only
    cases hr : s.receive c x l ps with
    | none => exact h
    | some r => exact HeldIn.wf_id (State.receive_keepsMem s c x l ps h) hr
  | spawn d r =>
    dsimp only
    split <;> simp [h]
  | msg d y n v a =>
    dsimp only
    repeat' split
    all_goals simp [h]

@[simp] theorem State.restoreImage_keepsMem (s : State) (img : Image) (hm : Memory.wf s.mem = true) : HeldIn id (State.restoreImage s img) := by
  unfold State.restoreImage
  extract_lets c x ctx cnt a b d e keeps
  have hb : Memory.wf b.mem = true := cellsPut_wf _ _ hm
  clear_value b
  have hd : Memory.wf d.mem = true := by
    dsimp only [d]
    split
    · exact cellsPut_wf _ _ hb
    · exact hb
  clear_value d
  have he : Memory.wf e.mem = true := hd
  clear_value e
  cases h : e.placeAll img (img.slots.filter keeps ++ img.slots.filter fun p => !keeps p) with
  | none => simp
  | some t => exact (heldIn_some _).mpr (foldl_wf _ _ (fun s o h => by simp [h]) (HeldIn.wf_id (State.placeAll_keepsMem e img _ he) h))

@[simp] theorem State.afterRestore_wf (s : State) (img : Image) (hm : Memory.wf s.mem = true) : Memory.wf (State.afterRestore s img).mem = true := by
  simp [State.afterRestore, hm]

@[simp] theorem State.writeImage_wf (s : State) (img : Image) (hm : Memory.wf s.mem = true) : Memory.wf (State.writeImage s img).mem = true := by
  simp [State.writeImage, hm]

/-! ### Sys2Proof/Machine/System.lean -/

@[simp] theorem execRte_wf (s : State) (hm : Memory.wf s.mem = true) : KeepsMem (execRte s) := by
  unfold execRte
  refine runC_keepsMem _ ?_ hm
  refine Ex.keepsMem_get_bind fun s _ => ?_
  dsimp only
  split
  · simp
  · split
    · simp
    · split
      · simp
      · split
        · refine Ex.keepsMem_bind (by simp) fun a => ?_
          split <;> simp
        · simp

@[simp] theorem execSysc_wf (s : State) (c : BitVec 12) (hm : Memory.wf s.mem = true) : KeepsMem (execSysc c s) := by
  unfold execSysc
  refine runC_keepsMem _ ?_ hm
  refine Ex.keepsMem_bind (by simp) fun a => ?_
  refine Ex.keepsMem_bind (by simp) fun a => ?_
  refine Ex.keepsMem_bind (by simp) fun a => ?_
  refine Ex.keepsMem_bind (by simp) fun a => ?_
  refine Ex.keepsMem_get_bind fun s _ => ?_
  split
  · simp
  · simp
  · refine Ex.keepsMem_get_bind fun s _ => ?_
    simp

@[simp] theorem execBkpt_wf (s : State) (c : BitVec 12) (hm : Memory.wf s.mem = true) : KeepsMem (execBkpt c s) := by simp [execBkpt, hm]

@[simp] theorem execHalt_wf (s : State) (hm : Memory.wf s.mem = true) : KeepsMem (execHalt s) := by
  refine runC_keepsMem _ (Ex.keepsMem_get_bind fun s _ => ?_) hm
  extract_lets t
  refine (Ex.keepsMem_ite ..).mpr ⟨fun _ => by simp, fun _ => ?_⟩
  cases t.wait with
  | done v => exact keepsMem_modCur _
  | halt => exact keepsMem_park _
  | _ => exact keepsMem_parkWith _ fun s h => h

@[simp] theorem State.areaPut_wf (s : State) (l va : Nat) (bs : List Byte) (hm : Memory.wf s.mem = true) : Memory.wf (State.areaPut s l va bs).mem = true := by
  unfold State.areaPut
  refine foldl_wf _ _ (fun s a h => ?_) ?_
  · split <;> simp [*]
  · simp [hm]

@[simp] theorem imageOperands_keepsMem (f : Rrr) : (imageOperands f).KeepsMem := by
  unfold imageOperands
  refine Ex.keepsMem_bind (by simp) fun a => ?_
  refine Ex.keepsMem_bind (by simp) fun a => ?_
  refine Ex.keepsMem_get_bind fun s _ => ?_
  dsimp only
  repeat' split
  all_goals simp

@[simp] theorem execCsave_wf (s : State) (f : Rrr) (hm : Memory.wf s.mem = true) : KeepsMem (execCsave f s) := by
  refine runC_keepsMem _ ?_ hm
  refine Ex.keepsMem_bind (by simp) fun ⟨a, c, x⟩ => Ex.keepsMem_get_bind fun s hs => ?_
  extract_lets l image done saved
  have hdone : ∀ u, (done u).KeepsMem := fun u => Ex.keepsMem_bind (keepsMem_modCur _) fun _ => dest_keepsMem _ _
  clear_value done
  have himage : Memory.wf image.2.mem = true := by simp [image, hs]
  have hsaved : ∀ n, (saved n).KeepsMem := by
    intro n
    refine (Ex.keepsMem_ite ..).mpr ⟨fun _ => by simp, fun _ => ?_⟩
    refine Ex.keepsMem_bind (Ex.keepsMem_modify fun _ _ => himage) fun _ => Ex.keepsMem_bind (Ex.keepsMem_modify fun s h => by simp [h]) fun _ => ?_
    refine (Ex.keepsMem_ite ..).mpr ⟨fun _ => Ex.keepsMem_bind (Ex.keepsMem_modify fun s h => ?_) hdone, fun _ => hdone _⟩
    cases hr : (s.removeCtx c x).restoreImage image.1 with
    | none => exact h
    | some r => exact State.afterRestore_wf _ _ (HeldIn.wf_id (State.restoreImage_keepsMem _ _ (by simpa using h)) hr)
  clear_value saved
  cases s.cur.wait with
  | image n => exact hsaved n
  | _ => exact Ex.keepsMem_bind (keepsMem_parkWith _ fun s h => wf_of_ite (fun _ => h) fun _ => State.saveRung_wf _ _ _ h) hsaved

@[simp] theorem execCrest_wf (s : State) (f : Rrr) (hm : Memory.wf s.mem = true) : KeepsMem (execCrest f s) := by
  refine runC_keepsMem _ ?_ hm
  refine Ex.keepsMem_bind (by simp) fun ⟨a, c, x⟩ => Ex.keepsMem_get_bind fun s hs => ?_
  split
  · simp
  · next i _ =>
    split
    · simp
    · next r hr =>
      have hwf : Memory.wf r.mem = true := HeldIn.wf_id (State.restoreImage_keepsMem _ i (by simpa using hs)) hr
      exact Ex.keepsMem_bind (Ex.keepsMem_modify fun _ _ => State.afterRestore_wf _ _ hwf) fun _ => dest_keepsMem _ _

@[simp] theorem State.shootCluster_mem (s : State) (l lo hi k : Nat) : (State.shootCluster s l lo hi k).mem = s.mem := by simp [State.shootCluster]

@[simp] theorem State.startShoot_mem (s : State) (l lo hi : Nat) (mig : Option Nat) : (State.startShoot s l lo hi mig).mem = s.mem := by
  simp only [State.startShoot]
  split <;> simp

@[simp] theorem shootDown_keepsMem (l : Nat) (a : Word) (start len : Nat) : (shootDown l a start len).KeepsMem := by
  unfold shootDown
  dsimp only
  refine Ex.keepsMem_get_bind fun s _ => ?_
  repeat' split
  all_goals simp

@[simp] theorem execTlbinv_wf (s : State) (a b : BitVec 6) (hm : Memory.wf s.mem = true) : KeepsMem (execTlbinv a b s) := by
  unfold execTlbinv
  refine runC_keepsMem _ ?_ hm
  refine Ex.keepsMem_bind (by simp) fun a => ?_
  simp

@[simp] theorem execTlbinvCtx_wf (s : State) (a b : BitVec 6) (hm : Memory.wf s.mem = true) : KeepsMem (execTlbinvCtx a b s) := by
  unfold execTlbinvCtx
  refine runC_keepsMem _ ?_ hm
  refine Ex.keepsMem_bind (by simp) fun a => ?_
  simp

/-! ### Sys2Proof/Machine/EvMem.lean -/

@[simp] theorem State.wakeHalted_mem (s : State) (c : Nat) : (State.wakeHalted s c).mem = s.mem := Machine.wakeHalted_mem

@[simp] theorem State.wakeRole_mem (s : State) (role : Nat) : (State.wakeRole s role).mem = s.mem := by
  unfold State.wakeRole
  split <;> simp

@[simp] theorem State.contextFault_wf (s : State) (c l code tval : Nat) (hm : Memory.wf s.mem = true) :
    Memory.wf (State.contextFault s c l code tval).mem = true := by
  simp [State.contextFault, hm]

@[simp] theorem State.keyBytes_keepsMem (s : State) (k n : Nat) (hm : Memory.wf s.mem = true) : (State.keyBytes s k n).KeepsMem := by
  unfold State.keyBytes
  split <;> simp [hm]

@[simp] theorem State.askArea_mem (s : State) (o : Op) (code : Nat) (ws : List Word) : (State.askArea s o code ws).mem = s.mem := by
  simp [State.askArea]

@[simp] theorem State.readAccess_keepsMem (s : State) (o : Op) (n : Nat) (hm : Memory.wf s.mem = true) : (State.readAccess s o n).KeepsMem := by
  unfold State.readAccess
  simp
  split
  · simp
  · simp [hm]
  · simp [hm]
  · simp [hm]
  · simp [hm]
    intro a
    split
    · simp
      refine Got.wf_of_bytes ?_ (by assumption)
      simp [hm]
    · simp [hm]
  · simp [hm]
  · split <;> simp [hm]
  · simp [hm]
    intro a a
    split
    · split
      · simp
      · simp
        refine Look.wf_of_ok ?_ (by assumption)
        simp [hm]
    · simp [hm]
    · simp

@[simp] theorem State.noteSig_mem (s : State) (o : Op) (name n : Nat) : (State.noteSig s o name n).mem = s.mem := rfl
@[simp] theorem State.noteLoad_mem (s : State) (o : Op) (name n : Nat) : (State.noteLoad s o name n).mem = s.mem := by simp [State.noteLoad]

@[simp] theorem State.fillV_mem (s : State) (o : Op) (vs : List (BitVec 4096)) : (State.fillV s o vs).mem = s.mem := Machine.fillV_mem ..

@[simp] theorem State.fillStands_mem (s : State) (o : Op) : (State.fillStands s o).mem = s.mem := by
  unfold State.fillStands
  split <;> simp

@[simp] theorem State.loaded_mem (s : State) (o : Op) (bs : List Byte) : (State.loaded s o bs).mem = s.mem := by simp [State.loaded]

@[simp] theorem State.serveLoad_wf (s : State) (o : Op) (hm : Memory.wf s.mem = true) : Memory.wf (State.serveLoad s o).mem = true := by
  unfold State.serveLoad
  simp [hm]
  constructor
  · intro a a
    split <;> simp [hm]
  · intro a a a
    split
    · refine Got.wf_of_waits ?_ (by assumption)
      simp [hm]
    · simp [hm]
    · simp
      refine Got.wf_of_bytes ?_ (by assumption)
      simp [hm]

@[simp] theorem State.afterAtomic_mem (s : State) (o : Op) : (State.afterAtomic s o).mem = s.mem := by simp [State.afterAtomic]
@[simp] theorem State.atomicDone_mem (s : State) (o : Op) (v : Word) : (State.atomicDone s o v).mem = s.mem := by simp [State.atomicDone]

@[simp] theorem State.areaAnswer_mem (s : State) (o : Op) (ws : List Word) : (State.areaAnswer s o ws).mem = s.mem := by
  unfold State.areaAnswer
  split <;> simp

@[simp] theorem State.atomicAt_wf (s : State) (o : Op) (k : Nat) (hm : Memory.wf s.mem = true) : Memory.wf (State.atomicAt s o k).mem = true := by
  unfold State.atomicAt
  split <;> simp [hm]

@[simp] theorem State.atomicSp_wf (s : State) (o : Op) (d p : Nat) (hm : Memory.wf s.mem = true) : Memory.wf (State.atomicSp s o d p).mem = true := by
  simp [State.atomicSp, hm]

@[simp] theorem State.serveAtomic_wf (s : State) (o : Op) (hm : Memory.wf s.mem = true) : Memory.wf (State.serveAtomic s o).mem = true := by
  simp only [State.serveAtomic]
  repeat' split
  all_goals simp [hm]

@[simp] theorem State.serveStore_wf (s : State) (o : Op) (hm : Memory.wf s.mem = true) : Memory.wf (State.serveStore s o).mem = true := by
  unfold State.serveStore
  simp [hm]
  intro a a
  split
  · simp [hm]
  · split
    · simp [hm]
    · simp +contextual [*]

@[simp] theorem execLoadDataReturn_wf (s : State) (hm : Memory.wf s.mem = true) : KeepsMem (execLoadDataReturn s) := by
  simp only [execLoadDataReturn]
  repeat' split
  all_goals simp [hm]

@[simp] theorem execStoreAck_wf (s : State) (hm : Memory.wf s.mem = true) : KeepsMem (execStoreAck s) := by
  unfold execStoreAck
  split <;> simp [hm]

@[simp] theorem execRemoteScratchpadAccess_wf (s : State) (hm : Memory.wf s.mem = true) : KeepsMem (execRemoteScratchpadAccess s) := by
  simp only [execRemoteScratchpadAccess]
  repeat' split
  all_goals simp [hm]

@[simp] theorem execLongResultReady_wf (s : State) (hm : Memory.wf s.mem = true) : KeepsMem (execLongResultReady s) := by
  unfold execLongResultReady
  split <;> simp [hm]

@[simp] theorem execVectorResultWrite_wf (s : State) (hm : Memory.wf s.mem = true) : KeepsMem (execVectorResultWrite s) := by
  unfold execVectorResultWrite
  split <;> simp [hm]

@[simp] theorem State.bankServe_keepsMem (s : State) (tell : State → Nat → Nat → Word → State) (r : BankReq)
    (ht : ∀ s q i v, Memory.wf s.mem = true → Memory.wf (tell s q i v).mem = true) (hm : Memory.wf s.mem = true) :
    HeldIn Prod.fst (State.bankServe s tell r) := by
  unfold State.bankServe
  extract_lets full fill drain
  have hfill (s : State) (p : Nat) (v : Word) (h : Memory.wf s.mem = true) : Memory.wf (fill s p v).mem = true := memPuts_wf _ _ h
  have hdrain (s : State) (p : Nat) (h : Memory.wf s.mem = true) : Memory.wf (drain s p).mem = true := h
  clear_value full fill drain
  cases r with
  | op id =>
    dsimp -zeta only
    split
    · exact (heldIn_some _).mpr hm
    · next o _ =>
      extract_lets p t
      have hw : Memory.wf t.mem = true := wf_of_ite (fun _ => by simpa using hm) fun _ => hm
      clear_value p t
      refine (heldIn_ite ..).mpr ⟨fun _ => by simp [hw], fun _ => (heldIn_ite ..).mpr ⟨fun _ => ?_, fun _ => ?_⟩⟩
      · refine (heldIn_ite ..).mpr ⟨fun _ => ?_, fun _ => heldIn_none⟩
        split
        · simp [hw]
        · simp [hdrain, hw]
      · exact (heldIn_ite ..).mpr ⟨fun _ => heldIn_none, fun _ => by simp [hfill, hw]⟩
  | mbx q i p put peek v =>
    dsimp only
    refine (heldIn_ite ..).mpr ⟨fun _ => (heldIn_ite ..).mpr ⟨fun _ => heldIn_none, fun _ => ?_⟩, fun _ => (heldIn_ite ..).mpr ⟨fun _ => heldIn_none, fun _ => ?_⟩⟩
    · simp [ht, hfill, hm]
    · exact (heldIn_some _).mpr (ht _ _ _ _ (wf_of_ite (fun _ => hm) fun _ => hdrain _ _ hm))

@[simp] theorem State.bankWake_wf (s : State) (tell : State → Nat → Nat → Word → State) (b p n : Nat)
    (ht : ∀ s q i v, Memory.wf s.mem = true → Memory.wf (tell s q i v).mem = true) (hm : Memory.wf s.mem = true) :
    Memory.wf (State.bankWake s tell b p n).mem = true := by
  induction n generalizing s with
  | zero => exact hm
  | succ n ih =>
    unfold State.bankWake
    extract_lets l
    cases h : l.findSome? fun r => if s.reqWord r = p then (s.bankServe tell r).map fun x => (r, x) else none with
    | none => exact hm
    | some x =>
      obtain ⟨r, -, hr⟩ := List.exists_of_findSome?_eq_some h
      by_cases hp : s.reqWord r = p
      · rw [if_pos hp] at hr
        obtain ⟨y, hy, hx⟩ := Option.map_eq_some_iff.mp hr
        subst hx
        have hy' : Memory.wf y.1.mem = true := HeldIn.wf (State.bankServe_keepsMem s tell r ht hm) hy
        exact ih _ hy'
      · rw [if_neg hp] at hr
        cases hr

@[simp] theorem State.bankTake_wf (s : State) (tell : State → Nat → Nat → Word → State) (b : Nat) (r : BankReq)
    (ht : ∀ s q i v, Memory.wf s.mem = true → Memory.wf (tell s q i v).mem = true) (hm : Memory.wf s.mem = true) :
    Memory.wf (State.bankTake s tell b r).mem = true := by
  unfold State.bankTake
  extract_lets w gone l mark
  have hmark (n : Nat) : Memory.wf (mark n).mem = true := by
    cases r with
    | op id => exact hm
    | mbx _ _ _ _ _ _ => exact hm
  clear_value gone mark
  cases h : s.bankServe tell r with
  | some x =>
    have hx : Memory.wf x.1.mem = true := HeldIn.wf (State.bankServe_keepsMem s tell r ht hm) h
    exact wf_of_ite (fun _ => State.bankWake_wf _ _ _ _ _ ht hx) fun _ => hx
  | none =>
    refine wf_of_ite (fun _ => hm) fun _ => wf_of_ite (fun _ => hmark 2) fun _ => ?_
    cases r with
    | op id => exact hmark 3
    | mbx _ _ _ _ _ _ => exact hm

@[simp] theorem execFeRetry_wf (s : State) (hm : Memory.wf s.mem = true) : KeepsMem (execFeRetry s) := by
  unfold execFeRetry
  split <;> simp [hm]

@[simp] theorem execTlbWalkComplete_wf (s : State) (hm : Memory.wf s.mem = true) : KeepsMem (execTlbWalkComplete s) := by
  simp only [execTlbWalkComplete]
  repeat' split
  all_goals simp [hm]

@[simp] theorem execShootdownComplete_wf (s : State) (hm : Memory.wf s.mem = true) : KeepsMem (execShootdownComplete s) := by
  simp only [execShootdownComplete]
  repeat' split
  all_goals simp [hm]

@[simp] theorem State.putLeaf_wf (s : State) (p v pa : Nat) (mig : Bool) (hm : Memory.wf s.mem = true) : Memory.wf (State.putLeaf s p v pa mig).mem = true := by
  simp [State.putLeaf, hm]

@[simp] theorem State.moveRegion_mem (s : State) (l va dev : Nat) : (State.moveRegion s l va dev).mem = s.mem := by
  simp only [State.moveRegion]
  split <;> simp

@[simp] theorem execPageMigrationLine_wf (s : State) (hm : Memory.wf s.mem = true) : KeepsMem (execPageMigrationLine s) := by
  simp only [execPageMigrationLine]
  repeat' split
  all_goals simp [hm]

@[simp] theorem State.mapPage_wf (s : State) (l va pa rights : Nat) (bs : List Byte) (hm : Memory.wf s.mem = true) :
    Memory.wf (State.mapPage s l va pa rights bs).mem = true := by
  unfold State.mapPage
  split <;> simp [hm]

@[simp] theorem State.evict_wf (s : State) (l page : Nat) (hm : Memory.wf s.mem = true) : Memory.wf (State.evict s l page).mem = true := by
  unfold State.evict
  split <;> simp [hm]

@[simp] theorem execPageResident_wf (s : State) (hm : Memory.wf s.mem = true) : KeepsMem (execPageResident s) := by
  simp only [execPageResident]
  repeat' split
  all_goals simp [hm]

@[simp] theorem State.logEcc_mem (s : State) : (State.logEcc s).mem = s.mem := by simp [State.logEcc]

@[simp] theorem State.dropPending_mem (s : State) (n m : Nat) : (State.dropPending s n m).mem = s.mem := by
  unfold State.dropPending
  split <;> simp

@[simp] theorem execPatrolScrub_wf (s : State) (hm : Memory.wf s.mem = true) : KeepsMem (execPatrolScrub s) := by
  simp only [execPatrolScrub]
  repeat' split
  all_goals simp [hm]

/-! ### Sys2Proof/Machine/Sched.lean -/

@[simp] theorem State.journalPut_wf (s : State) (ty : Nat) (body : List Byte) (hm : Memory.wf s.mem = true) :
    Memory.wf (State.journalPut s ty body).mem = true := by
  simp [State.journalPut, hm]

@[simp] theorem State.journalled_wf (s : State) (ty : Nat) (body : List Byte) (hm : Memory.wf s.mem = true) :
    Memory.wf (State.journalled s ty body).mem = true := by
  simp [State.journalled, hm]

@[simp] theorem State.postCompletion_wf (s : State) (q idx status extra : Nat) (hm : Memory.wf s.mem = true) :
    Memory.wf (State.postCompletion s q idx status extra).mem = true := by
  simp only [State.postCompletion]
  repeat' split
  all_goals simp [hm]

@[simp] theorem State.startPacket_mem (s : State) (q idx : Nat) : (State.startPacket s q idx).mem = s.mem := rfl

@[simp] theorem State.setHold_wf (s : State) (q n : Nat) (hm : Memory.wf s.mem = true) : Memory.wf (State.setHold s q n).mem = true := by
  simp only [State.setHold]
  split <;> simp [hm]

@[simp] theorem State.recheckCancels_mem (s : State) (host : Nat) : (State.recheckCancels s host).mem = s.mem := rfl

@[simp] theorem State.reply_mem (s : State) (m idx ty status : Nat) (body : List Byte) : (State.reply s m idx ty status body).mem = s.mem := by
  simp [State.reply]

@[simp] theorem State.unasked_mem (s : State) (m ty : Nat) (body : List Byte) : (State.unasked s m ty body).mem = s.mem := by simp [State.unasked]

@[simp] theorem State.notice_mem (s : State) (kind arg : Nat) (hosts : List Nat) : (State.notice s kind arg hosts).mem = s.mem := by
  simp [State.notice]

@[simp] theorem State.ladderEnd_mem (s : State) (id rung saved : Nat) (failed : Bool) : (State.ladderEnd s id rung saved failed).mem = s.mem := by
  simp [State.ladderEnd]

@[simp] theorem State.modLaunch_mem (s : State) (id : Nat) (f : Launch → Launch) : (State.modLaunch s id f).mem = s.mem := rfl
@[simp] theorem State.forget_mem (s : State) (l : Nat) : (State.forget s l).mem = s.mem := rfl
@[simp] theorem State.tellJoiners_mem (s : State) (uid : Nat) : (State.tellJoiners s uid).mem = s.mem := by simp [State.tellJoiners]
@[simp] theorem State.tellGone_mem (s : State) (n : Launch) : (State.tellGone s n).mem = s.mem := by simp [State.tellGone]

@[simp] theorem State.cancelAbroad_mem (s : State) (id : Nat) : (State.cancelAbroad s id).mem = s.mem := by
  unfold State.cancelAbroad
  refine foldl_mem _ _ fun s a => ?_
  split <;> simp

@[simp] theorem State.leaveRopes_mem (s : State) (n : Launch) : (State.leaveRopes s n).mem = s.mem := by simp [State.leaveRopes]

@[simp] theorem State.dropArea_mem (s : State) (l : Nat) : (State.dropArea s l).mem = s.mem := by
  unfold State.dropArea
  refine foldl_mem _ _ fun s a => ?_
  simp
  repeat' split
  all_goals simp

@[simp] theorem State.pinLeaf_wf (s : State) (l : Nat) (on : Bool) (va z p v : Nat) (hm : Memory.wf s.mem = true) :
    Memory.wf (State.pinLeaf s l on va z p v).mem = true := by
  simp [State.pinLeaf, hm]

@[simp] theorem State.pinLeaves_wf (s : State) (l : Nat) (on : Bool) (hi x5 x6 : Nat) (hm : Memory.wf s.mem = true) :
    Memory.wf (State.pinLeaves s l on hi x5 x6).mem = true := by
  fun_induction State.pinLeaves s l on hi x5 x6 <;> simp [*]

@[simp] theorem State.pin_wf (s : State) (l : Nat) (on : Bool) (hm : Memory.wf s.mem = true) : Memory.wf (State.pin s l on).mem = true := by
  unfold State.pin
  simp +contextual [*]

@[simp] theorem State.vacate_wf (s : State) (n : Launch) (hm : Memory.wf s.mem = true) : Memory.wf (State.vacate s n).mem = true := by
  unfold State.vacate
  simp
  refine foldl_wf _ _ (fun s a h => ?_) ?_
  · simp [*]
  · simp [hm]

@[simp] theorem State.endLaunch_wf (s : State) (id status : Nat) (hm : Memory.wf s.mem = true) : Memory.wf (State.endLaunch s id status).mem = true := by
  unfold State.endLaunch
  split <;> simp [hm]

@[simp] theorem State.unitGone_wf (s : State) (host id : Nat) (hm : Memory.wf s.mem = true) : Memory.wf (State.unitGone s host id).mem = true := by
  simp only [State.unitGone]
  split <;> simp [hm]

@[simp] theorem State.endThread_mem (s : State) (c h : Nat) : (State.endThread s c h).mem = s.mem := by simp [State.endThread]

@[simp] theorem State.cancelAll_mem (s : State) (c x : Nat) : (State.cancelAll s c x).mem = s.mem := by
  unfold State.cancelAll
  simp
  refine foldl_mem _ _ fun s a => ?_
  simp

@[simp] theorem State.cancelLaunch_wf (s : State) (id status : Nat) (hm : Memory.wf s.mem = true) : Memory.wf (State.cancelLaunch s id status).mem = true := by
  simp only [State.cancelLaunch]
  repeat' split
  all_goals simp [hm]

@[simp] theorem State.setRung_mem (s : State) (host rung : Nat) : (State.setRung s host rung).mem = s.mem := rfl

@[simp] theorem State.loseLaunch_wf (s : State) (id : Nat) (hm : Memory.wf s.mem = true) : Memory.wf (State.loseLaunch s id).mem = true := by
  unfold State.loseLaunch
  simp
  split
  · simp [hm]
  · simp +contextual [*]

@[simp] theorem State.cancelLevel_wf (s : State) (host k num : Nat) (hm : Memory.wf s.mem = true) :
    Memory.wf (State.cancelLevel s host k num).1.mem = true := by
  unfold State.cancelLevel
  split
  · split
    · simp [hm]
    · exact hm
  · extract_lets mark off inner outer named t
    have ht : Memory.wf t.mem = true := hm
    clear_value t
    exact foldl_wf _ _ (fun s n h => by simp [h]) ht

@[simp] theorem State.withdrawMbx_mem (s : State) (q : Nat) : (State.withdrawMbx s q).mem = s.mem := rfl

@[simp] theorem State.withdrawPacket_wf (s : State) (q status : Nat) (hm : Memory.wf s.mem = true) :
    Memory.wf (State.withdrawPacket s q status).mem = true := by
  simp only [State.withdrawPacket]
  repeat' split
  all_goals simp [hm]

@[simp] theorem State.guilty_wf (s : State) (host : Nat) (hm : Memory.wf s.mem = true) : Memory.wf (State.guilty s host).mem = true := by
  unfold State.guilty
  simp +contextual [*]

@[simp] theorem State.malformed_wf (s : State) (q idx : Nat) (hm : Memory.wf s.mem = true) : Memory.wf (State.malformed s q idx).mem = true := by
  simp [State.malformed, hm]

@[simp] theorem State.underRoot_mem (s : State) (root : Nat) : (State.underRoot s root).mem = s.mem := rfl

@[simp] theorem State.makeResident_wf (s : State) (n : Launch) (ps : List (Nat × Nat)) (hm : Memory.wf s.mem = true) :
    Memory.wf (State.makeResident s n ps).mem = true := by
  unfold State.makeResident
  simp +contextual [*]

@[simp] theorem State.refuseLaunch_wf (s : State) (n : Launch) (hm : Memory.wf s.mem = true) : Memory.wf (State.refuseLaunch s n).mem = true := by
  simp [State.refuseLaunch, hm]

@[simp] theorem State.placeCore_wf (s : State) (n : Launch) (k : Kern) (b : List Byte) (l c ovf : Nat) (hm : Memory.wf s.mem = true) :
    Memory.wf (State.placeCore s n k b l c ovf).mem = true := by
  simp [State.placeCore, hm]

@[simp] theorem State.placeThreads_mem (s : State) (n : Launch) (k : Kern) (c : Nat) : (State.placeThreads s n k c).mem = s.mem := by
  unfold State.placeThreads
  simp
  refine foldl_mem _ _ fun s a => ?_
  split <;> simp

@[simp] theorem State.placeLaunch_wf (s : State) (n : Launch) (l : Nat) (hm : Memory.wf s.mem = true) : Memory.wf (State.placeLaunch s n l).mem = true := by
  unfold State.placeLaunch
  generalize s.kern n = p
  obtain ⟨k, b⟩ := p
  dsimp -zeta only
  extract_lets rs text cores ovf mbx lo e pinned emptied placed filled released counted settled
  have hpinned : Memory.wf pinned.mem = true := by simp [pinned, hm]
  clear_value pinned
  have hemptied : Memory.wf emptied.mem = true := hpinned
  clear_value emptied
  have hplaced : Memory.wf placed.mem = true := foldl_wf _ _ (fun s c h => State.placeCore_wf _ _ _ _ _ _ _ h) hemptied
  clear_value placed
  have hfilled : Memory.wf filled.mem = true := foldl_wf _ _ (fun s c h => by simp [h]) hplaced
  clear_value filled
  have hreleased : Memory.wf released.mem = true := foldl_wf _ _ (fun s c h => h) hfilled
  clear_value released
  have hlast : Memory.wf settled.mem = true := hreleased
  clear_value settled
  simp [hlast]

@[simp] theorem State.rungRecord_wf (s : State) (id rung : Nat) (hm : Memory.wf s.mem = true) : Memory.wf (State.rungRecord s id rung).mem = true := by
  simp [State.rungRecord, hm]

@[simp] theorem State.preemptLaunch_wf (s : State) (id : Nat) (hm : Memory.wf s.mem = true) : Memory.wf (State.preemptLaunch s id).mem = true := by
  unfold State.preemptLaunch
  simp
  split
  · simp +contextual [*]
  · simp [hm]

@[simp] theorem State.beginSave_wf (s : State) (id rung : Nat) (hm : Memory.wf s.mem = true) : Memory.wf (State.beginSave s id rung).mem = true := by
  unfold State.beginSave
  split
  · refine wf_of_ite (fun _ => hm) fun _ => ?_
    have h : Memory.wf ((s.placesOf id).foldl (fun s p => s.saveRung p.1 p.2) s).mem = true := foldl_wf _ _ (fun s p h => State.saveRung_wf _ _ _ h) hm
    exact State.rungRecord_wf _ _ _ h
  · exact hm

/-- Building the images of several contexts draws values and changes no memory. -/
theorem buildAll_mem {α : Type} (l : List α) (f : State → α → Image × State) (hf : ∀ s p, (f s p).2.mem = s.mem) (a : List Image × State) :
    (l.foldl (fun a p => (a.1 ++ [(f a.2 p).1], (f a.2 p).2)) a).2.mem = a.2.mem := by
  induction l generalizing a with
  | nil => rfl
  | cons p l ih => rw [List.foldl_cons, ih, hf]

@[simp] theorem State.endSave_wf (s : State) (id : Nat) (hm : Memory.wf s.mem = true) : Memory.wf (State.endSave s id).mem = true := by
  unfold State.endSave
  split
  · exact hm
  · next n _ =>
    extract_lets ps e r written removed e' pinned settled
    have hr : r.2.mem = s.mem := buildAll_mem _ (fun s (p : (Nat × Nat) × Nat) => s.buildImage p.1.1 p.1.2 (imagePlace e p.2)) (fun _ _ => rfl) _
    have hwritten : Memory.wf written.mem = true := foldl_wf _ _ (fun s i h => by simp [h]) (by rw [hr]; exact hm)
    clear_value written
    have hremoved : Memory.wf removed.mem = true := foldl_wf _ _ (fun s i h => h) hwritten
    clear_value removed
    have hpinned : Memory.wf pinned.mem = true := by simp [pinned, hremoved]
    clear_value pinned
    have hsettled : Memory.wf settled.mem = true := hpinned
    clear_value settled
    exact wf_of_ite (fun _ => hm) fun _ => by simp [hsettled]

theorem restoreAll_keepsMem (l : List Image) (o : Option State) (h : HeldIn id o) : HeldIn id (l.foldl (fun a i => a.bind fun a => a.restoreImage i) o) := by
  induction l generalizing o with
  | nil => exact h
  | cons i l ih =>
    refine ih _ ?_
    cases o with
    | none => exact heldIn_none
    | some t => exact State.restoreImage_keepsMem t i (h t rfl)

@[simp] theorem State.resumeLaunch_wf (s : State) (n : Launch) (hm : Memory.wf s.mem = true) : Memory.wf (State.resumeLaunch s n).1.mem = true := by
  have hite {c : Prop} [Decidable c] {p q : State × Bool} (hp : Memory.wf p.1.mem = true) (hq : Memory.wf q.1.mem = true) :
      Memory.wf (if c then p else q).1.mem = true := by split <;> assumption
  unfold State.resumeLaunch
  extract_lets room now e pinned shared put
  have hpinned : Memory.wf pinned.mem = true := by simp [pinned, hm]
  clear_value pinned
  have hshared : Memory.wf shared.mem = true := foldl_wf _ _ (fun s i h => h) hpinned
  clear_value shared
  have hput : HeldIn id put := restoreAll_keepsMem _ _ ((heldIn_some _).mpr hshared)
  clear_value put
  refine hite hm (hite hm ?_)
  cases put with
  | none => exact hm
  | some r =>
    have hr : Memory.wf r.mem = true := hput r rfl
    have hrest : Memory.wf (n.images.foldl (fun (a : State) i => a.afterRestore i) r).mem = true := foldl_wf _ _ (fun s i h => State.afterRestore_wf s i h) hr
    dsimp only
    simp [hrest]

/-! ### Sys2Proof/Machine/EvThread.lean -/

@[simp] theorem State.boundary_keepsMem (s : State) (c h : Nat) (hm : Memory.wf s.mem = true) : HeldIn id (State.boundary s c h) := by
  simp only [State.boundary]
  repeat' split
  all_goals simp [hm]

@[simp] theorem execDeferredFault_wf (s : State) (hm : Memory.wf s.mem = true) : KeepsMem (execDeferredFault s) := by
  refine (ite_keepsMem ..).mpr ⟨fun _ => ?_, fun _ => by simpa using hm⟩
  exact keepsMem_next.mpr (getD_wf (State.boundary_keepsMem s _ _ hm) hm)

@[simp] theorem execTrapDelivery_wf (s : State) (hm : Memory.wf s.mem = true) : KeepsMem (execTrapDelivery s) := by
  refine (ite_keepsMem ..).mpr ⟨fun _ => ?_, fun _ => by simpa using hm⟩
  exact keepsMem_next.mpr (getD_wf (State.boundary_keepsMem s _ _ hm) hm)

@[simp] theorem execStragglerKill_wf (s : State) (hm : Memory.wf s.mem = true) : KeepsMem (execStragglerKill s) := by
  simp only [execStragglerKill]
  split <;> simp [hm]

@[simp] theorem execTaskRestart_wf (s : State) (hm : Memory.wf s.mem = true) : KeepsMem (execTaskRestart s) := by simp [execTaskRestart, hm]

@[simp] theorem execTimedTaskCommit_wf (s : State) (hm : Memory.wf s.mem = true) : KeepsMem (execTimedTaskCommit s) := by
  simp only [execTimedTaskCommit]
  repeat' split
  all_goals simp [hm]

@[simp] theorem execSleepWake_wf (s : State) (hm : Memory.wf s.mem = true) : KeepsMem (execSleepWake s) := by
  simp only [execSleepWake]
  split <;> simp [hm]

@[simp] theorem execAgeingCredit_wf (s : State) (hm : Memory.wf s.mem = true) : KeepsMem (execAgeingCredit s) := by simp [execAgeingCredit, hm]

@[simp] theorem State.putWindow_wf (s : State) (c h k : Nat) (w : Window) (hm : Memory.wf s.mem = true) : Memory.wf (State.putWindow s c h k w).mem = true := by
  simp [State.putWindow, hm]

@[simp] theorem State.spillOldest_wf (s : State) (c h : Nat) (hm : Memory.wf s.mem = true) : Memory.wf (State.spillOldest s c h).mem = true := by
  simp only [State.spillOldest]
  repeat' split
  all_goals simp [hm]

@[simp] theorem execWindowSpill_wf (s : State) (hm : Memory.wf s.mem = true) : KeepsMem (execWindowSpill s) := by simp [execWindowSpill, hm]
@[simp] theorem State.windowBack_mem (s : State) (c h w : Nat) (v : Window) : (State.windowBack s c h w v).mem = s.mem := by simp [State.windowBack]

@[simp] theorem execWindowRefill_wf (s : State) (hm : Memory.wf s.mem = true) : KeepsMem (execWindowRefill s) := by
  simp only [execWindowRefill]
  repeat' split
  all_goals simp [hm]

@[simp] theorem execVwinWrite_wf (s : State) (hm : Memory.wf s.mem = true) : KeepsMem (execVwinWrite s) := by
  simp only [execVwinWrite]
  split <;> simp [hm]

@[simp] theorem execVwinGrant_wf (s : State) (hm : Memory.wf s.mem = true) : KeepsMem (execVwinGrant s) := by simp [execVwinGrant, hm]

@[simp] theorem execThreadRetirement_wf (s : State) (hm : Memory.wf s.mem = true) : KeepsMem (execThreadRetirement s) := by
  simp [execThreadRetirement, hm]

@[simp] theorem State.spillAll_wf (s : State) (c h : Nat) (hm : Memory.wf s.mem = true) : Memory.wf (State.spillAll s c h).mem = true := by
  unfold State.spillAll
  simp
  refine foldl_wf _ _ (fun s a h => ?_) ?_
  · split <;> simp [*]
  · simp [hm]

@[simp] theorem State.arrive_wf (s : State) (c h : Nat) (t : Thread) (hm : Memory.wf s.mem = true) : Memory.wf (State.arrive s c h t).mem = true := by
  simp [State.arrive, hm]

@[simp] theorem State.moveThread_wf (s : State) (c h dev core : Nat) (hm : Memory.wf s.mem = true) :
    Memory.wf (State.moveThread s c h dev core).mem = true := by
  simp only [State.moveThread]
  repeat' split
  all_goals simp [hm]

@[simp] theorem State.migrate_wf (s : State) (c h dev core : Nat) (hm : Memory.wf s.mem = true) : Memory.wf (State.migrate s c h dev core).mem = true := by
  simp [State.migrate, hm]

@[simp] theorem execMigrationArrival_wf (s : State) (hm : Memory.wf s.mem = true) : KeepsMem (execMigrationArrival s) := by
  simp only [execMigrationArrival]
  split <;> simp [hm]

@[simp] theorem State.homeAnswer_mem (s : State) (o : Op) (ws : List Word) : (State.homeAnswer s o ws).mem = s.mem := by
  unfold State.homeAnswer
  split <;> simp

@[simp] theorem execCairnRefresh_wf (s : State) (hm : Memory.wf s.mem = true) : KeepsMem (execCairnRefresh s) := by simp [execCairnRefresh, hm]

@[simp] theorem execRebalance_wf (s : State) (hm : Memory.wf s.mem = true) : KeepsMem (execRebalance s) := by
  simp only [execRebalance]
  repeat' split
  all_goals simp [hm]

@[simp] theorem execMessageArrival_wf (s : State) (hm : Memory.wf s.mem = true) : KeepsMem (execMessageArrival s) := by
  simp only [execMessageArrival]
  repeat' split
  all_goals simp [hm]

@[simp] theorem execSendRetry_wf (s : State) (hm : Memory.wf s.mem = true) : KeepsMem (execSendRetry s) := by
  unfold execSendRetry
  split <;> simp [hm]

@[simp] theorem execSpawnAnswer_wf (s : State) (hm : Memory.wf s.mem = true) : KeepsMem (execSpawnAnswer s) := by
  simp only [execSpawnAnswer]
  repeat' split
  all_goals simp [hm]

@[simp] theorem execSyscAnswer_wf (s : State) (hm : Memory.wf s.mem = true) : KeepsMem (execSyscAnswer s) := by
  simp only [execSyscAnswer]
  split <;> simp [hm]

@[simp] theorem State.rollThread_mem (s : State) (c h : Nat) : (State.rollThread s c h).mem = s.mem := by
  simp only [State.rollThread]
  repeat' split
  all_goals simp

@[simp] theorem State.rollRegions_wf (s : State) (c x : Nat) (hm : Memory.wf s.mem = true) : Memory.wf (State.rollRegions s c x).mem = true := by
  unfold State.rollRegions
  simp
  refine foldl_wf _ _ (fun s a h => ?_) ?_
  · simp +contextual [*]
  · simp [hm]

@[simp] theorem State.refreshSubs_wf (s : State) (c x : Nat) (hm : Memory.wf s.mem = true) : Memory.wf (State.refreshSubs s c x).mem = true := by
  unfold State.refreshSubs
  simp +contextual [*]

@[simp] theorem execTeamRollback_wf (s : State) (hm : Memory.wf s.mem = true) : KeepsMem (execTeamRollback s) := by
  unfold execTeamRollback
  simp [hm]
  intro a
  constructor
  · intro a
    refine foldl_wf _ _ (fun s a h => ?_) ?_
    · simp +contextual [*]
    · simp [hm]
  · intro a a a a
    refine foldl_wf _ _ (fun s a h => ?_) ?_
    · simp [*]
    · simp +contextual [*]

/-! ### Sys2Proof/Machine/EvQueue.lean -/

@[simp] theorem execKick_wf (s : State) (hm : Memory.wf s.mem = true) : KeepsMem (execKick s) := by simp [execKick, hm]
@[simp] theorem execGclr_wf (s : State) (hm : Memory.wf s.mem = true) : KeepsMem (execGclr s) := by simp [execGclr, hm]
@[simp] theorem execQcfgWrite_wf (s : State) (hm : Memory.wf s.mem = true) : KeepsMem (execQcfgWrite s) := by simp [execQcfgWrite, hm]

@[simp] theorem State.takeSlot_wf (s : State) (q : Nat) (p : BitVec 512) (act : Nat) (hm : Memory.wf s.mem = true) :
    Memory.wf (State.takeSlot s q p act).mem = true := by
  simp [State.takeSlot, hm]

@[simp] theorem State.stepLater_mem (s : State) (i : Instr) : (State.stepLater s i).mem = s.mem := rfl

@[simp] theorem State.ordered_wf (s : State) (q : Nat) (h : Held) (start : State → State) (hs : ∀ s, Memory.wf s.mem = true → Memory.wf (start s).mem = true)
    (hm : Memory.wf s.mem = true) : Memory.wf (State.ordered s q h start).mem = true :=
  wf_of_ite (fun _ => by simp [hm]) fun _ => hs s hm

@[simp] theorem State.servePacket_wf (s : State) (ty : Nat) (fine : State → Held → Bool) (start : State → Nat → Held → State)
    (hs : ∀ s q h, Memory.wf s.mem = true → Memory.wf (start s q h).mem = true) (hm : Memory.wf s.mem = true) :
    Memory.wf (State.servePacket s ty fine start).mem = true := by
  have hstart (t : State) (q : Nat) (h : Held) (ht : Memory.wf t.mem = true) : Memory.wf (t.ordered q h fun s => start s q h).mem = true :=
    State.ordered_wf t q h _ (fun s => hs s q h) ht
  unfold State.servePacket
  extract_lets q p k h good t
  have ht : Memory.wf t.mem = true := by simp [t, hm]
  clear_value good t
  refine wf_of_ite (fun _ => ?_) fun _ => wf_of_ite (fun _ => hm) fun _ => ?_
  · split
    · exact wf_of_ite (fun _ => hstart _ _ _ hm) fun _ => hm
    · exact hm
  · exact wf_of_ite (fun _ => by simp [ht]) fun _ => wf_of_ite (fun _ => by simp [ht]) fun _ => hstart _ _ _ ht

@[simp] theorem execMalformedSlot_wf (s : State) (hm : Memory.wf s.mem = true) : KeepsMem (execMalformedSlot s) := by simp [execMalformedSlot, hm]

@[simp] theorem execNopPacket_wf (s : State) (hm : Memory.wf s.mem = true) : KeepsMem (execNopPacket s) := by
  unfold execNopPacket
  simp +contextual [*]

@[simp] theorem execSignal_wf (s : State) (hm : Memory.wf s.mem = true) : KeepsMem (execSignal s) := by
  unfold execSignal
  simp +contextual [*]

@[simp] theorem execTimed_wf (s : State) (hm : Memory.wf s.mem = true) : KeepsMem (execTimed s) := by
  unfold execTimed
  simp +contextual [*]

@[simp] theorem execTimedExpiry_wf (s : State) (hm : Memory.wf s.mem = true) : KeepsMem (execTimedExpiry s) := by
  simp only [execTimedExpiry]
  split <;> simp [hm]

@[simp] theorem execFencePacket_wf (s : State) (hm : Memory.wf s.mem = true) : KeepsMem (execFencePacket s) := by
  unfold execFencePacket
  simp +contextual [*]

@[simp] theorem State.toBank_mem (s : State) (r : BankReq) (p : Nat) : (State.toBank s r p).mem = s.mem := rfl

@[simp] theorem State.mailbox_wf (s : State) (q : Nat) (h : Held) (put peek : Bool) (v : Word) (hm : Memory.wf s.mem = true) :
    Memory.wf (State.mailbox s q h put peek v).mem = true := by
  simp [State.mailbox, hm]

@[simp] theorem execMbxwait_wf (s : State) (hm : Memory.wf s.mem = true) : KeepsMem (execMbxwait s) := by
  unfold execMbxwait
  simp +contextual [*]

@[simp] theorem execMbxput_wf (s : State) (hm : Memory.wf s.mem = true) : KeepsMem (execMbxput s) := by
  unfold execMbxput
  simp +contextual [*]

@[simp] theorem execBankOperation_wf (s : State) (hm : Memory.wf s.mem = true) : KeepsMem (execBankOperation s) := by
  unfold execBankOperation
  extract_lets b
  split
  · exact keepsMem_next.mpr hm
  · exact keepsMem_next.mpr (State.bankTake_wf _ _ _ _ (fun s q i v h => by simp [h]) hm)

@[simp] theorem State.answerService_mem (s : State) (v : Word) (second : Option Word) : (State.answerService s v second).mem = s.mem := rfl

@[simp] theorem execSyscMbxput_wf (s : State) (hm : Memory.wf s.mem = true) : KeepsMem (execSyscMbxput s) := by
  unfold execSyscMbxput
  simp +contextual [*]

@[simp] theorem execMbxget_wf (s : State) (hm : Memory.wf s.mem = true) : KeepsMem (execMbxget s) := by
  unfold execMbxget
  simp +contextual [*]

@[simp] theorem execLog_wf (s : State) (hm : Memory.wf s.mem = true) : KeepsMem (execLog s) := by
  simp only [execLog]
  repeat' split
  all_goals simp [hm]

@[simp] theorem State.openLaunch_keepsMem (s : State) (n : Launch) (hm : Memory.wf s.mem = true) : HeldIn id (State.openLaunch s n) := by
  refine (heldIn_ite ..).mpr ⟨fun _ => (heldIn_some _).mpr hm, fun _ t ht => ?_⟩
  obtain ⟨x, -, rfl⟩ := Option.map_eq_some_iff.mp ht
  exact hm

@[simp] theorem State.readLaunch_wf (s : State) (n : Launch) (hm : Memory.wf s.mem = true) : Memory.wf (State.readLaunch s n).mem = true :=
  wf_of_ite (fun _ => by simp [hm]) fun _ => getD_wf (State.openLaunch_keepsMem s n hm) hm

@[simp] theorem State.launchStep_wf (s : State) (q : Nat) (h : Held) (hm : Memory.wf s.mem = true) : Memory.wf (State.launchStep s q h).mem = true := by
  unfold State.launchStep
  split
  · exact hm
  · next n _ =>
    refine wf_of_ite (fun _ => by simp [hm]) fun _ => wf_of_ite (fun _ => by simp [hm]) fun _ => ?_
    cases ho : s.openLaunch n with
    | none => exact hm
    | some t =>
      have ht := HeldIn.wf_id (State.openLaunch_keepsMem s n hm) ho
      exact wf_of_ite (fun _ => ht) fun _ => wf_of_ite (fun _ => by simp [ht]) fun _ => by simp [ht]

@[simp] theorem execLaunch_wf (s : State) (hm : Memory.wf s.mem = true) : KeepsMem (execLaunch s) := by
  unfold execLaunch
  extract_lets a make fine h t n k u
  refine keepsMem_next.mpr (wf_of_ite (fun _ => ?_) fun _ => ?_)
  · exact State.servePacket_wf _ _ _ _ (fun s q h => State.launchStep_wf s q h) hm
  · have ht : Memory.wf t.mem = true := State.servePacket_wf _ _ _ _ (fun _ _ _ h => h) hm
    clear_value t
    have hu : Memory.wf u.mem = true := ht
    clear_value u
    exact wf_of_ite (fun _ => State.ordered_wf _ _ _ _ (fun s hs => State.launchStep_wf s _ _ hs) (State.readLaunch_wf _ _ hu)) fun _ => ht

@[simp] theorem execLaunchPlace_wf (s : State) (hm : Memory.wf s.mem = true) : KeepsMem (execLaunchPlace s) := by
  unfold execLaunchPlace
  simp
  split
  · simp [hm]
  · simp [hm]
    intro a a a a a a
    split
    · simp [hm]
    · simp +contextual [*]

@[simp] theorem execCancel_wf (s : State) (hm : Memory.wf s.mem = true) : KeepsMem (execCancel s) := by
  unfold execCancel
  extract_lets level num gone q
  refine (ite_keepsMem ..).mpr ⟨fun _ => keepsMem_next.mpr ?_, fun _ => keepsMem_next.mpr ?_⟩
  · exact foldl_wf _ _ (fun s h hs => wf_of_ite (fun _ => by simp [hs]) fun _ => hs) hm
  · refine State.servePacket_wf _ _ _ _ (fun s q h hs => ?_) hm
    extract_lets r
    have hr : Memory.wf r.mem = true := by simp [r, hs]
    clear_value r
    exact wf_of_ite (fun _ => by simp [hr]) fun _ => hr

@[simp] theorem execSyscCancel_wf (s : State) (hm : Memory.wf s.mem = true) : KeepsMem (execSyscCancel s) := by simp [execSyscCancel, hm]
@[simp] theorem execEnergySample_wf (s : State) (hm : Memory.wf s.mem = true) : KeepsMem (execEnergySample s) := by simp [execEnergySample, hm]

@[simp] theorem execEnergyWindowBoundary_wf (s : State) (hm : Memory.wf s.mem = true) : KeepsMem (execEnergyWindowBoundary s) := by
  unfold execEnergyWindowBoundary
  simp +contextual [*]

@[simp] theorem execDrainEnd_wf (s : State) (hm : Memory.wf s.mem = true) : KeepsMem (execDrainEnd s) := by simp [execDrainEnd, hm]

@[simp] theorem execT1limExpiry_wf (s : State) (hm : Memory.wf s.mem = true) : KeepsMem (execT1limExpiry s) := by
  unfold execT1limExpiry
  split <;> simp [hm]

@[simp] theorem execSaveComplete_wf (s : State) (hm : Memory.wf s.mem = true) : KeepsMem (execSaveComplete s) := by simp [execSaveComplete, hm]

@[simp] theorem execT2limExpiry_wf (s : State) (hm : Memory.wf s.mem = true) : KeepsMem (execT2limExpiry s) := by
  unfold execT2limExpiry
  split <;> simp [hm]

@[simp] theorem State.replay_wf (s : State) (hm : Memory.wf s.mem = true) : Memory.wf (State.replay s).mem = true := by
  unfold State.replay
  simp +contextual [*]

@[simp] theorem execTakeover_wf (s : State) (hm : Memory.wf s.mem = true) : KeepsMem (execTakeover s) := by
  simp only [execTakeover]
  split <;> simp [hm]

/-! ### Sys2Proof/Machine/EvSched.lean -/

@[simp] theorem execKeyBufferTimeout_wf (s : State) (hm : Memory.wf s.mem = true) : KeepsMem (execKeyBufferTimeout s) := by
  simp [execKeyBufferTimeout, hm]

@[simp] theorem execKeyedFlitArrival_wf (s : State) (hm : Memory.wf s.mem = true) : KeepsMem (execKeyedFlitArrival s) := by
  unfold execKeyedFlitArrival
  split
  · next id src c x l ps _ =>
    extract_lets first
    refine (ite_keepsMem ..).mpr ⟨fun _ => by simpa using hm, fun _ => ?_⟩
    cases hr : s.receive c x l ps with
    | none => simpa using hm
    | some r =>
      have hwf := HeldIn.wf_id (State.receive_keepsMem s c x l ps hm) hr
      exact keepsMem_next.mpr hwf
  · simpa using hm

@[simp] theorem execBatchWindowClose_wf (s : State) (hm : Memory.wf s.mem = true) : KeepsMem (execBatchWindowClose s) := by
  simp [execBatchWindowClose, hm]

@[simp] theorem State.updateOut_mem (s : State) (c : Nat) : (State.updateOut s c).mem = s.mem := by
  unfold State.updateOut
  split <;> simp

@[simp] theorem State.updateIn_wf (s : State) (c : Nat) (hm : Memory.wf s.mem = true) : Memory.wf (State.updateIn s c).mem = true := by
  unfold State.updateIn
  split <;> simp [hm]

@[simp] theorem execFlUpdateApply_wf (s : State) (hm : Memory.wf s.mem = true) : KeepsMem (execFlUpdateApply s) := by simp [execFlUpdateApply, hm]
@[simp] theorem State.landed_mem (s : State) (id : Nat) : (State.landed s id).mem = s.mem := rfl

@[simp] theorem execBarrierArrivalHop_wf (s : State) (hm : Memory.wf s.mem = true) : KeepsMem (execBarrierArrivalHop s) := by
  simp only [execBarrierArrivalHop]
  repeat' split
  all_goals simp [hm]

@[simp] theorem execBarrierRelease_wf (s : State) (hm : Memory.wf s.mem = true) : KeepsMem (execBarrierRelease s) := by
  unfold execBarrierRelease
  split <;> simp [hm]

@[simp] theorem execRopePendingWrite_wf (s : State) (hm : Memory.wf s.mem = true) : KeepsMem (execRopePendingWrite s) := by
  simp only [execRopePendingWrite]
  split <;> simp [hm]

@[simp] theorem execRopeBankAck_wf (s : State) (hm : Memory.wf s.mem = true) : KeepsMem (execRopeBankAck s) := by
  simp only [execRopeBankAck]
  repeat' split
  all_goals simp [hm]

@[simp] theorem execRopeMerge_wf (s : State) (hm : Memory.wf s.mem = true) : KeepsMem (execRopeMerge s) := by
  simp only [execRopeMerge]
  split <;> simp [hm]

@[simp] theorem execRopeRelease_wf (s : State) (hm : Memory.wf s.mem = true) : KeepsMem (execRopeRelease s) := by simp [execRopeRelease, hm]
@[simp] theorem State.traceStopping_mem (s : State) (c : Nat) : (State.traceStopping s c).mem = s.mem := Machine.traceStopping_mem
@[simp] theorem State.traceFields_mem (s : State) (c : Nat) (v : Word) : (State.traceFields s c v).mem = s.mem := rfl

@[simp] theorem execCrossTriggerArrival_wf (s : State) (hm : Memory.wf s.mem = true) : KeepsMem (execCrossTriggerArrival s) := by
  simp [execCrossTriggerArrival, hm]

@[simp] theorem execTraceStart_wf (s : State) (hm : Memory.wf s.mem = true) : KeepsMem (execTraceStart s) := by simp [execTraceStart, hm]
@[simp] theorem execTraceStop_wf (s : State) (hm : Memory.wf s.mem = true) : KeepsMem (execTraceStop s) := by simp [execTraceStop, hm]
@[simp] theorem execTraceOff_wf (s : State) (hm : Memory.wf s.mem = true) : KeepsMem (execTraceOff s) := by simp [execTraceOff, hm]
@[simp] theorem execTraceStopped_wf (s : State) (hm : Memory.wf s.mem = true) : KeepsMem (execTraceStopped s) := by simp [execTraceStopped, hm]
@[simp] theorem execTracePostEnd_wf (s : State) (hm : Memory.wf s.mem = true) : KeepsMem (execTracePostEnd s) := by simp [execTracePostEnd, hm]
@[simp] theorem execXtrigPulse_wf (s : State) (hm : Memory.wf s.mem = true) : KeepsMem (execXtrigPulse s) := by simp [execXtrigPulse, hm]

@[simp] theorem execXtrigFiredClear_wf (s : State) (hm : Memory.wf s.mem = true) : KeepsMem (execXtrigFiredClear s) := by
  simp [execXtrigFiredClear, hm]

@[simp] theorem State.countCycle_mem (s : State) (c x : Nat) : (State.countCycle s c x).mem = s.mem := by simp [State.countCycle]

@[simp] theorem State.traceEntry_wf (s : State) (c : Nat) (hm : Memory.wf s.mem = true) : Memory.wf (State.traceEntry s c).mem = true := by
  simp [State.traceEntry, hm]

@[simp] theorem State.ageAll_mem (s : State) : (State.ageAll s).mem = s.mem := rfl

@[simp] theorem execSCycle_wf (s : State) (hm : Memory.wf s.mem = true) : KeepsMem (execSCycle s) := by
  unfold execSCycle
  simp +contextual [*]

@[simp] theorem execCaptureRecord_wf (s : State) (hm : Memory.wf s.mem = true) : KeepsMem (execCaptureRecord s) := by simp [execCaptureRecord, hm]

@[simp] theorem execReferencePeriod_wf (s : State) (hm : Memory.wf s.mem = true) : KeepsMem (execReferencePeriod s) := by
  simp [execReferencePeriod, hm]

@[simp] theorem execDtstepWrite_wf (s : State) (hm : Memory.wf s.mem = true) : KeepsMem (execDtstepWrite s) := by simp [execDtstepWrite, hm]
@[simp] theorem execPpsEdge_wf (s : State) (hm : Memory.wf s.mem = true) : KeepsMem (execPpsEdge s) := by simp [execPpsEdge, hm]

@[simp] theorem execWearCompute_wf (s : State) (hm : Memory.wf s.mem = true) : KeepsMem (execWearCompute s) := by
  unfold execWearCompute
  simp +contextual [*]

/-! ### Sys2Proof/Machine/EvMgmt.lean -/

@[simp] theorem State.flushChan_mem (s : State) (m x3 : Nat) : (State.flushChan s m x3).mem = s.mem := by
  fun_induction State.flushChan s m x3 <;> simp [*]

@[simp] theorem State.flushed_mem (s : State) (m : Nat) : (State.flushed s m).mem = s.mem := by simp [State.flushed]
@[simp] theorem execMqtail_wf (s : State) (hm : Memory.wf s.mem = true) : KeepsMem (execMqtail s) := by simp [execMqtail, hm]
@[simp] theorem execMrheadWrite_wf (s : State) (hm : Memory.wf s.mem = true) : KeepsMem (execMrheadWrite s) := by simp [execMrheadWrite, hm]
@[simp] theorem execMcfgWrite_wf (s : State) (hm : Memory.wf s.mem = true) : KeepsMem (execMcfgWrite s) := by simp [execMcfgWrite, hm]
@[simp] theorem execMstatRead_wf (s : State) (hm : Memory.wf s.mem = true) : KeepsMem (execMstatRead s) := by simp [execMstatRead, hm]

@[simp] theorem State.request_keepsMem (s : State) (m n : Nat) (hm : Memory.wf s.mem = true) : HeldIn Prod.snd (State.request s m n) := by
  simp [State.request, hm]

@[simp] theorem State.serve_wf (s : State) (ty n : Nat) (f : State → Nat → State)
    (hf : ∀ s i, Memory.wf s.mem = true → Memory.wf (f s i).mem = true) (hm : Memory.wf s.mem = true) : Memory.wf (State.serve s ty n f).mem = true := by
  unfold State.serve
  split
  · exact hm
  · next i t h =>
    have ht : Memory.wf t.mem = true := HeldIn.wf_snd (State.request_keepsMem s _ _ hm) h
    exact wf_of_ite (fun _ => by simp [ht]) fun _ => hf _ _ ht

@[simp] theorem execPreempt_wf (s : State) (hm : Memory.wf s.mem = true) : KeepsMem (execPreempt s) := by
  unfold execPreempt
  extract_lets m
  refine (ite_keepsMem ..).mpr ⟨fun _ => ?_, fun _ => keepsMem_next.mpr (State.serve_wf _ _ _ _ (fun s i h => ?_) hm)⟩
  · split
    · next i r hr =>
      have hwf : Memory.wf r.mem = true := HeldIn.wf_snd (State.request_keepsMem s _ _ hm) hr
      exact keepsMem_next.mpr (wf_of_ite (fun _ => hm) fun _ => by simp [hwf])
    · exact keepsMem_next.mpr hm
  · split
    · simp [h]
    · extract_lets ids
      exact wf_of_ite (fun _ => by simp [h]) fun _ => foldl_wf _ _ (fun s i h => by simp [h]) h

@[simp] theorem State.tryResume_wf (s : State) (id : Nat) (hm : Memory.wf s.mem = true) : Memory.wf (State.tryResume s id).mem = true := by
  unfold State.tryResume
  split
  · exact hm
  · next n _ =>
    refine wf_of_ite (fun _ => hm) fun _ => ?_
    have h := State.resumeLaunch_wf s n hm
    generalize s.resumeLaunch n = p at h
    obtain ⟨r, b⟩ := p
    cases b with
    | true => exact h
    | false =>
      refine (congrArg Memory.wf (State.ladderEnd_mem ..)).trans (wf_of_ite (fun _ => ?_) fun _ => h)
      simp [h]

@[simp] theorem execResume_wf (s : State) (hm : Memory.wf s.mem = true) : KeepsMem (execResume s) := by
  unfold execResume
  extract_lets m
  refine (ite_keepsMem ..).mpr ⟨fun _ => keepsMem_next.mpr (by simp [hm]), fun _ => keepsMem_next.mpr (State.serve_wf _ _ _ _ (fun s i h => ?_) hm)⟩
  split
  · simp [h]
  · extract_lets ids t
    exact wf_of_ite (fun _ => by simp [h]) fun _ => foldl_wf _ _ (fun s i h => State.tryResume_wf _ _ h) h

@[simp] theorem execPtpoff_wf (s : State) (hm : Memory.wf s.mem = true) : KeepsMem (execPtpoff s) := by simp [execPtpoff, hm]
@[simp] theorem execAttest_wf (s : State) (hm : Memory.wf s.mem = true) : KeepsMem (execAttest s) := by simp [execAttest, hm]
@[simp] theorem execPubkey_wf (s : State) (hm : Memory.wf s.mem = true) : KeepsMem (execPubkey s) := by simp [execPubkey, hm]
@[simp] theorem execThermclr_wf (s : State) (hm : Memory.wf s.mem = true) : KeepsMem (execThermclr s) := by simp [execThermclr, hm]
@[simp] theorem execCesum_wf (s : State) (hm : Memory.wf s.mem = true) : KeepsMem (execCesum s) := by simp [execCesum, hm]

/-! ### Sys2Proof/Machine/EvHost.lean -/

@[simp] theorem execWake_wf (s : State) (hm : Memory.wf s.mem = true) : KeepsMem (execWake s) := by simp [execWake, hm]
@[simp] theorem execBgWrite_wf (s : State) (hm : Memory.wf s.mem = true) : KeepsMem (execBgWrite s) := by simp [execBgWrite, hm]
@[simp] theorem execRegisterWrite_wf (s : State) (hm : Memory.wf s.mem = true) : KeepsMem (execRegisterWrite s) := by simp [execRegisterWrite, hm]
@[simp] theorem execRtctlInjWrite_wf (s : State) (hm : Memory.wf s.mem = true) : KeepsMem (execRtctlInjWrite s) := by simp [execRtctlInjWrite, hm]

@[simp] theorem execRoutingBankWrite_wf (s : State) (hm : Memory.wf s.mem = true) : KeepsMem (execRoutingBankWrite s) := by
  simp [execRoutingBankWrite, hm]

@[simp] theorem State.barLog_mem (s : State) (addr : Nat) : (State.barLog s addr).mem = s.mem := by simp [State.barLog]
@[simp] theorem State.linkLater_mem (s : State) (i : Instr) (a : Arg) : (State.linkLater s i a).mem = s.mem := rfl

@[simp] theorem State.linkUnmapped_wf (s : State) (i : Instr) (l va : Nat) (hm : Memory.wf s.mem = true) :
    Memory.wf (State.linkUnmapped s i l va).mem = true := by
  simp [State.linkUnmapped, hm]

@[simp] theorem State.putParts_wf (s : State) (x2 : List (Nat × Nat)) (x3 : List Byte) (hm : Memory.wf s.mem = true) :
    Memory.wf (State.putParts s x2 x3).mem = true := by
  fun_induction State.putParts s x2 x3 <;> simp [*]

@[simp] theorem State.atOnce_wf (s : State) (f : State → State) (hf : ∀ s, Memory.wf s.mem = true → Memory.wf (f s).mem = true)
    (hm : Memory.wf s.mem = true) : Memory.wf (State.atOnce s f).mem = true := hf _ hm

@[simp] theorem execInboundWrite_wf (s : State) (hm : Memory.wf s.mem = true) : KeepsMem (execInboundWrite s) := by
  unfold execInboundWrite
  extract_lets a n
  refine (ite_keepsMem ..).mpr ⟨fun _ => keepsMem_next.mpr hm, fun _ => (ite_keepsMem ..).mpr ⟨fun _ => keepsMem_next.mpr (by simp [hm]), fun _ => ?_⟩⟩
  refine (ite_keepsMem ..).mpr ⟨fun _ => ?_, fun _ => ?_⟩
  · split <;> simp [hm]
  · split
    · simp [hm]
    · exact keepsMem_next.mpr (wf_of_ite (fun _ => State.atOnce_wf _ _ (fun s h => State.ctlWrite_wf _ _ _ _ h) hm) fun _ => by simp [hm])

@[simp] theorem State.hostOut_mem (s : State) (o : HostOut) : (State.hostOut s o).mem = s.mem := rfl

@[simp] theorem execInboundRead_wf (s : State) (hm : Memory.wf s.mem = true) : KeepsMem (execInboundRead s) := by
  simp only [execInboundRead]
  repeat' split
  all_goals simp [hm]

@[simp] theorem execInboundAtomic_wf (s : State) (hm : Memory.wf s.mem = true) : KeepsMem (execInboundAtomic s) := by
  simp only [execInboundAtomic]
  repeat' split
  all_goals simp [hm]

@[simp] theorem State.cmdGot_mem (s : State) (m : Cmd) (bs : List Byte) : (State.cmdGot s m bs).mem = s.mem := rfl

@[simp] theorem State.cmdFailed_mem (s : State) (m : Cmd) (code : Nat) (tval : Word) : (State.cmdFailed s m code tval).mem = s.mem := by
  simp [State.cmdFailed]

@[simp] theorem State.hostEnds_mem (s : State) (id : Nat) (r : Except Nat (List Byte)) : (State.hostEnds s id r).mem = s.mem := by
  simp only [State.hostEnds]
  repeat' split
  all_goals simp

@[simp] theorem execHostCompletion_wf (s : State) (hm : Memory.wf s.mem = true) : KeepsMem (execHostCompletion s) := by simp [execHostCompletion, hm]

@[simp] theorem execHostReadTimeout_wf (s : State) (hm : Memory.wf s.mem = true) : KeepsMem (execHostReadTimeout s) := by
  simp [execHostReadTimeout, hm]

/-! ### Sys2Proof/Machine/EvEvh.lean -/

@[simp] theorem State.packetLater_mem (s : State) (i : Instr) (a : Arg) : (State.packetLater s i a).mem = s.mem := rfl

@[simp] theorem State.landParts_wf (s : State) (x2 : List (Nat × Nat)) (x3 : List Byte) (hm : Memory.wf s.mem = true) :
    Memory.wf (State.landParts s x2 x3).mem = true := by
  fun_induction State.landParts s x2 x3 <;> simp [*]

@[simp] theorem execEvhStore_wf (s : State) (hm : Memory.wf s.mem = true) : KeepsMem (execEvhStore s) := by
  simp only [execEvhStore]
  repeat' split
  all_goals simp [hm]

@[simp] theorem State.getData_mem (s : State) (dev tag status : Nat) (bs : List Byte) : (State.getData s dev tag status bs).mem = s.mem := by
  simp [State.getData]

@[simp] theorem execEvhGetRequest_wf (s : State) (hm : Memory.wf s.mem = true) : KeepsMem (execEvhGetRequest s) := by
  simp only [execEvhGetRequest]
  repeat' split
  all_goals simp [hm]

@[simp] theorem State.cmdStatus_mem (s : State) (m : Cmd) (status : Nat) : (State.cmdStatus s m status).mem = s.mem := by simp [State.cmdStatus]

@[simp] theorem execEvhGetData_wf (s : State) (hm : Memory.wf s.mem = true) : KeepsMem (execEvhGetData s) := by
  simp only [execEvhGetData]
  split <;> simp [hm]

@[simp] theorem State.armAsked_wf (s : State) (hm : Memory.wf s.mem = true) : Memory.wf (State.armAsked s).1.mem = true := by
  simp only [State.armAsked]
  repeat' split
  all_goals simp [hm]

@[simp] theorem State.ropeAsked_wf (s : State) (code : Nat) (hm : Memory.wf s.mem = true) : Memory.wf (State.ropeAsked s code).1.mem = true := by
  simp only [State.ropeAsked]
  repeat' split
  all_goals simp [hm]

@[simp] theorem State.abroadGone_wf (s : State) (thid : Nat) (hm : Memory.wf s.mem = true) : Memory.wf (State.abroadGone s thid).mem = true := by
  simp only [State.abroadGone]
  repeat' split
  all_goals simp [hm]

@[simp] theorem State.modAbroad_mem (s : State) (thid : Nat) (f : Thread → Thread) : (State.modAbroad s thid f).mem = s.mem := rfl

@[simp] theorem State.homeArea?_keepsMem (s : State) (code : Nat) (hm : Memory.wf s.mem = true) : HeldIn Prod.fst (State.homeArea? s code) := by
  simp only [State.homeArea?]
  repeat' split
  all_goals simp [hm]

@[simp] theorem State.instanceAsked_mem (s : State) : (State.instanceAsked s).1.mem = s.mem := by
  simp only [State.instanceAsked]
  repeat' split
  all_goals simp

@[simp] theorem State.instanceLeft_mem (s : State) : (State.instanceLeft s).mem = s.mem := by simp [State.instanceLeft]

@[simp] theorem State.conflictHere_mem (s : State) (thid name : Nat) (atHome : Bool) : (State.conflictHere s thid name atHome).mem = s.mem := by
  unfold State.conflictHere
  split <;> simp

@[simp] theorem State.endGuest_mem (s : State) (thid launch : Nat) : (State.endGuest s thid launch).mem = s.mem := by
  unfold State.endGuest
  split <;> simp

@[simp] theorem State.wentOn_mem (s : State) (thid d : Nat) : (State.wentOn s thid d).mem = s.mem := by
  simp only [State.wentOn]
  repeat' split
  all_goals simp

@[simp] theorem State.memberReset_mem (s : State) (dev thid n : Nat) (stay : Bool) : (State.memberReset s dev thid n stay).mem = s.mem := rfl

@[simp] theorem State.told_wf (s : State) (code : Nat) (hm : Memory.wf s.mem = true) : Memory.wf (State.told s code).mem = true := by
  unfold State.told
  split <;> simp [hm]

@[simp] theorem State.asked_keepsMem (s : State) (code : Nat) (hm : Memory.wf s.mem = true) : HeldIn Prod.fst (State.asked s code) := by
  simp only [State.asked]
  repeat' split
  all_goals simp [hm]

@[simp] theorem execEvhMessage_wf (s : State) (hm : Memory.wf s.mem = true) : KeepsMem (execEvhMessage s) := by
  unfold execEvhMessage
  simp [hm]
  constructor
  · intro a a a
    split <;> simp [hm]
  · intro a
    constructor
    · intro a
      split <;> simp [hm]
    · intro a
      constructor
      · intro a
        split <;> simp [hm]
      · intro a a a a
        split
        · simp
          refine HeldIn.wf_fst ?_ (by assumption)
          simp [hm]
        · simp [hm]

@[simp] theorem execEvhSpawn_wf (s : State) (hm : Memory.wf s.mem = true) : KeepsMem (execEvhSpawn s) := by
  simp only [execEvhSpawn]
  split <;> simp [hm]

@[simp] theorem execEvhSpawnReply_wf (s : State) (hm : Memory.wf s.mem = true) : KeepsMem (execEvhSpawnReply s) := by simp [execEvhSpawnReply, hm]

@[simp] theorem execEvhKeyedPairs_wf (s : State) (hm : Memory.wf s.mem = true) : KeepsMem (execEvhKeyedPairs s) := by
  unfold execEvhKeyedPairs
  simp [hm]
  intro a
  split
  · simp [hm]
  · split
    · simp
      refine HeldIn.wf_id ?_ (by assumption)
      simp [hm]
    · simp [hm]

@[simp] theorem execEvhRopeArrival_wf (s : State) (hm : Memory.wf s.mem = true) : KeepsMem (execEvhRopeArrival s) := by simp [execEvhRopeArrival, hm]

@[simp] theorem execEvhRopeRelease_wf (s : State) (hm : Memory.wf s.mem = true) : KeepsMem (execEvhRopeRelease s) := by
  simp only [execEvhRopeRelease]
  split <;> simp [hm]

@[simp] theorem execEvhKillNotice_wf (s : State) (hm : Memory.wf s.mem = true) : KeepsMem (execEvhKillNotice s) := by simp [execEvhKillNotice, hm]

@[simp] theorem State.arrivalAnswer_mem (s : State) (o : Op) (ws : List Word) : (State.arrivalAnswer s o ws).mem = s.mem := by
  simp [State.arrivalAnswer]

@[simp] theorem State.acked_mem (s : State) (tag : Nat) (ws : List Word) : (State.acked s tag ws).mem = s.mem := by
  simp only [State.acked]
  repeat' split
  all_goals simp

@[simp] theorem execEvhAcknowledgement_wf (s : State) (hm : Memory.wf s.mem = true) : KeepsMem (execEvhAcknowledgement s) := by
  simp [execEvhAcknowledgement, hm]

@[simp] theorem State.lostThreads_wf (s : State) (d : Nat) (hm : Memory.wf s.mem = true) : Memory.wf (State.lostThreads s d).mem = true := by
  unfold State.lostThreads
  simp +contextual [*]

@[simp] theorem State.deadMembers_mem (s : State) (d : Nat) : (State.deadMembers s d).mem = s.mem := by simp [State.deadMembers]

@[simp] theorem State.opUnreachable_wf (s : State) (o : Op) (hm : Memory.wf s.mem = true) : Memory.wf (State.opUnreachable s o).mem = true := by
  unfold State.opUnreachable
  split <;> simp [hm]

@[simp] theorem State.endTowards_wf (s : State) (d : Nat) (hm : Memory.wf s.mem = true) : Memory.wf (State.endTowards s d).mem = true := by
  unfold State.endTowards
  extract_lets ops cmds ended left
  have hops : Memory.wf ops.mem = true := foldl_wf _ _ (fun s o h => State.opUnreachable_wf _ _ h) hm
  clear_value ops
  have hended : Memory.wf ended.mem = true := foldl_wf _ _ (fun s m h => by simpa using h) hops
  clear_value ended
  have hleft : Memory.wf left.mem = true := foldl_wf _ _ (fun s p h => foldl_wf _ _ (fun s k h => by simpa using h) h) hended
  clear_value left
  exact hleft

@[simp] theorem State.loseDevice_wf (s : State) (d : Nat) (hm : Memory.wf s.mem = true) : Memory.wf (State.loseDevice s d).mem = true := by
  simp [State.loseDevice, hm]

@[simp] theorem execEvhLossNotice_wf (s : State) (hm : Memory.wf s.mem = true) : KeepsMem (execEvhLossNotice s) := by simp [execEvhLossNotice, hm]
@[simp] theorem execDeviceLost_wf (s : State) (hm : Memory.wf s.mem = true) : KeepsMem (execDeviceLost s) := by simp [execDeviceLost, hm]

@[simp] theorem State.putRegion_wf (s : State) (r : Nat) (bs : List Byte) (hm : Memory.wf s.mem = true) : Memory.wf (State.putRegion s r bs).mem = true := by
  unfold State.putRegion
  refine foldl_wf _ _ (fun s a h => ?_) ?_
  · split <;> simp [*]
  · simp [hm]

@[simp] theorem State.modTokens_mem (s : State) (f : List Token → List Token) : (State.modTokens s f).mem = s.mem := rfl

@[simp] theorem execEvhToken_wf (s : State) (hm : Memory.wf s.mem = true) : KeepsMem (execEvhToken s) := by
  simp only [execEvhToken]
  repeat' split
  all_goals simp [hm]

@[simp] theorem execEvhThread_wf (s : State) (hm : Memory.wf s.mem = true) : KeepsMem (execEvhThread s) := by
  simp only [execEvhThread]
  repeat' split
  all_goals simp [hm]

@[simp] theorem State.deliverPacket_mem (s : State) (p : Packet) : (State.deliverPacket s p).mem = s.mem := by
  unfold State.deliverPacket
  split <;> simp

@[simp] theorem State.packetLost_wf (s : State) (p : Packet) (hm : Memory.wf s.mem = true) : Memory.wf (State.packetLost s p).mem = true := by
  unfold State.packetLost
  simp [hm]
  intro a
  split
  · split <;> simp [hm]
  · split <;> simp [hm]
  · repeat' split
    all_goals simp [hm]
  · repeat' split
    all_goals simp [hm]
  · repeat' split
    all_goals simp [hm]
  · simp +contextual [*]
  · simp [hm]
  · simp [hm]
  · simp [hm]

@[simp] theorem execRouterForward_wf (s : State) (hm : Memory.wf s.mem = true) : KeepsMem (execRouterForward s) := by
  simp only [execRouterForward]
  repeat' split
  all_goals simp [hm]

@[simp] theorem execPortTrained_wf (s : State) (hm : Memory.wf s.mem = true) : KeepsMem (execPortTrained s) := by simp [execPortTrained, hm]
@[simp] theorem execPortDown_wf (s : State) (hm : Memory.wf s.mem = true) : KeepsMem (execPortDown s) := by simp [execPortDown, hm]
@[simp] theorem execFlitCrcFailure_wf (s : State) (hm : Memory.wf s.mem = true) : KeepsMem (execFlitCrcFailure s) := by simp [execFlitCrcFailure, hm]

/-! ### Sys2Proof/Machine/EvDevice.lean -/

@[simp] theorem execDeviceReset_wf (s : State) : KeepsMem (execDeviceReset s) := keepsMem_next.mpr rfl
@[simp] theorem execBootgo_wf (s : State) (hm : Memory.wf s.mem = true) : KeepsMem (execBootgo s) := by simp [execBootgo, hm]
@[simp] theorem State.takeTable_mem (s : State) (b : List Byte) : (State.takeTable s b).mem = s.mem := rfl
@[simp] theorem execBootChecksDone_wf (s : State) (hm : Memory.wf s.mem = true) : KeepsMem (execBootChecksDone s) := by simp [execBootChecksDone, hm]

@[simp] theorem execCalibrationDone_wf (s : State) (hm : Memory.wf s.mem = true) : KeepsMem (execCalibrationDone s) := by
  simp [execCalibrationDone, hm]

@[simp] theorem execApproachExit_wf (s : State) (hm : Memory.wf s.mem = true) : KeepsMem (execApproachExit s) := by simp [execApproachExit, hm]
@[simp] theorem State.modDie_mem (s : State) (d : Nat) (f : Die → Die) : (State.modDie s d f).mem = s.mem := rfl

@[simp] theorem execThermalGatingBegin_wf (s : State) (hm : Memory.wf s.mem = true) : KeepsMem (execThermalGatingBegin s) := by
  simp [execThermalGatingBegin, hm]

@[simp] theorem execThermalGatingEnd_wf (s : State) (hm : Memory.wf s.mem = true) : KeepsMem (execThermalGatingEnd s) := by
  simp [execThermalGatingEnd, hm]

@[simp] theorem execThermalResetHold_wf (s : State) (hm : Memory.wf s.mem = true) : KeepsMem (execThermalResetHold s) := by
  unfold execThermalResetHold
  simp +contextual [*]

/-! ### Sys2Proof/Machine/Bundle.lean -/

@[simp] theorem State.latched_mem (s : State) (c h len : Nat) (w : BitVec 32) (p : Option Pfx) : (State.latched s c h len w p).mem = s.mem := rfl

@[simp] theorem State.decodeTrap_wf (s : State) (c h : Nat) (w : BitVec 32) (aslot both : Bool) (hm : Memory.wf s.mem = true) :
    Memory.wf (State.decodeTrap s c h w aslot both).mem = true := by
  simp [State.decodeTrap, hm]

@[simp] theorem State.opened_mem (s : State) (c h : Nat) : (State.opened s c h).mem = s.mem := by simp [State.opened]

/-! ### The bundle, the turn and the step -/

@[simp] theorem exec_keepsMem (i : Instr) (s : State) (hm : Memory.wf s.mem = true) : KeepsMem (exec i s) := by
  unfold exec
  split
  all_goals simp [hm]

theorem andThen_keepsMem {o : Out} {f : State → Out} (ho : KeepsMem o) (hf : ∀ s, Memory.wf s.mem = true → KeepsMem (f s)) : KeepsMem (andThen o f) := by
  cases o with
  | next s => exact hf s (ho s rfl)
  | fault r => exact fun _ h => by cases h
  | refused r => exact fun _ h => by cases h

@[simp] theorem State.runPair_keepsMem (s : State) (ci ai : Instr) (cw aw : BitVec 32) (g : Guard) (hm : Memory.wf s.mem = true) :
    KeepsMem (s.runPair ci ai cw aw g) := by
  unfold State.runPair
  extract_lets c h t on ls s1 aMode done cause
  have hs1 : Memory.wf s1.mem = true := hm
  have ha (r : State) (h : Memory.wf r.mem = true) : Memory.wf (aMode r).mem = true := h
  have hdone (r : State) (h : Memory.wf r.mem = true) : KeepsMem (.next (done r)) := keepsMem_next.mpr h
  clear_value aMode done s1 cause
  refine andThen_keepsMem (exec_keepsMem ci s1 hs1) fun r1 h1 => ?_
  split
  · refine andThen_keepsMem (exec_keepsMem ai _ (ha _ h1)) fun r2 h2 => ?_
    split <;> refine hdone _ ?_ <;> repeat' split
    all_goals simp [hm, h2]
  all_goals
    refine andThen_keepsMem (exec_keepsMem ai _ (ha _ hs1)) fun r2 _ => ?_
    split <;> refine hdone _ ?_ <;> repeat' split
    all_goals simp [hm, h1]

@[simp] theorem State.runBundle_keepsMem (s : State) (c h : Nat) (hm : Memory.wf s.mem = true) : KeepsMem (s.runBundle c h) := by
  unfold State.runBundle
  extract_lets t k s0 r
  have h0 : Memory.wf s0.mem = true := by simp [s0, hm]
  have hr : Memory.wf r.mem = true := by simp [r, hm]
  clear_value s0 r
  repeat' split
  all_goals simp [h0, hr]

@[simp] theorem State.turnOf_keepsMem (s : State) (c h : Nat) (hm : Memory.wf s.mem = true) : KeepsMem (s.turnOf c h) := by
  unfold State.turnOf
  split
  · next r hr => exact keepsMem_next.mpr (HeldIn.wf_id (State.boundary_keepsMem s c h hm) hr)
  · simp [hm]

@[simp] theorem State.issueOn_keepsMem (s : State) (c : Nat) (p : Nat × Thread) (hm : Memory.wf s.mem = true) : KeepsMem (s.issueOn c p) := by
  unfold State.issueOn
  extract_lets go
  refine andThen_keepsMem (State.turnOf_keepsMem _ _ _ hm) fun r hr => ?_
  extract_lets u moving counted
  refine (ite_keepsMem ..).mpr ⟨fun _ => State.turnOf_keepsMem _ _ _ hm, fun _ => keepsMem_next.mpr ?_⟩
  simpa [counted] using hr

@[simp] theorem State.repark_wf (s : State) (c h : Nat) (hm : Memory.wf s.mem = true) : Memory.wf (s.repark c h).mem = true := by
  unfold State.repark
  extract_lets t
  split
  · next r hr => exact wf_of_ite (fun _ => State.turnOf_keepsMem s c h hm r hr) fun _ => hm
  · exact hm

@[simp] theorem State.settle_wf (s : State) (c : Nat) (hm : Memory.wf s.mem = true) : Memory.wf (s.settle c).mem = true :=
  foldl_wf _ _ (fun _ _ h => State.repark_wf _ _ _ h) hm

@[simp] theorem State.wouldGo_keepsMem (s : State) (c h : Nat) (hm : Memory.wf s.mem = true) : HeldIn id (s.wouldGo c h) := by
  unfold State.wouldGo
  split
  · next r hr => exact (heldIn_ite ..).mpr ⟨fun _ => heldIn_none, fun _ => (heldIn_some _).mpr (State.turnOf_keepsMem s c h hm r hr)⟩
  · exact heldIn_none

@[simp] theorem State.claims_wf (s : State) (c : Nat) (hm : Memory.wf s.mem = true) : Memory.wf (s.claims c).mem = true :=
  foldl_wf _ _ (fun s _ h => getD_wf (State.wouldGo_keepsMem s _ _ h) h) hm

/-- A core's turns are tried in a state of their own, of which only semaphores and signals are taken over. -/
@[simp] theorem wakeCore_wf (c : Nat) (l : List (Nat × Thread)) (s r : State) (hs : Memory.wf s.mem = true) : Memory.wf (wakeCore c l s r).mem = true := by
  induction l generalizing s r with
  | nil => exact hs
  | cons p l ih =>
    obtain ⟨h, t⟩ := p
    unfold wakeCore
    cases r.wouldGo c h with
    | none => exact ih _ _ (State.repark_wf _ _ _ hs)
    | some r2 =>
      dsimp only
      split
      · exact ih _ _ hs
      · exact ih _ _ hs

@[simp] theorem State.wakeAll_wf (s : State) (hm : Memory.wf s.mem = true) : Memory.wf s.wakeAll.mem = true :=
  foldl_wf _ _ (fun _ _ h => wakeCore_wf _ _ _ _ (State.settle_wf _ _ h)) hm

@[simp] theorem State.askHeads_mem (s : State) : s.askHeads.mem = s.mem := by
  refine foldl_mem _ _ fun s p => ?_
  dsimp only
  split
  · split
    · simp
    · rfl
  · rfl

@[simp] theorem State.nextCycle_wf (s : State) (hm : Memory.wf s.mem = true) : Memory.wf s.nextCycle.mem = true := by
  have h : Memory.wf ((distinct (s.ctxs.map fun p => p.1 / 2)).foldl State.moveMessages s).mem = true := foldl_wf _ _ (fun s c h => State.moveMessages_wf s c h) hm
  unfold State.nextCycle
  extract_lets t u
  have hu : Memory.wf u.mem = true := by simp [u, t, h]
  exact hu

/-- A step is an event's instruction, the turn of the core that can issue, or the end of the s-cycle. -/
theorem step_keepsMem (s : State) (hm : Memory.wf s.mem = true) : KeepsMem (step s) := by
  unfold step
  split
  · exact exec_keepsMem _ _ hm
  · split
    · exact State.issueOn_keepsMem s _ _ hm
    · exact andThen_keepsMem (exec_keepsMem _ _ hm) fun r hr => keepsMem_next.mpr (State.nextCycle_wf r hr)

/-- Settles O59: each thing that a step can be leaves a state whose memory has its form, given one. -/
theorem memoryKeepsForm : Obligations.MemoryKeepsForm :=
  fun s t hm ht => step_keepsMem s hm t ht

end Sys2Proof.Machine
